-- ==== Sys2Proof/Word.lean ====
section
/-! DEFINITION. The word types of the module: bytes, 32-bit words, 64-bit words, vector registers and long register
words, all little-endian where they meet memory (00 R4). -/
namespace Sys2Proof

/-- A byte of memory. -/
abbrev Byte := BitVec 8
/-- A scalar register (04 R96), or a 32-bit device control space register. -/
abbrev Word := BitVec 32
/-- A 64-bit word: an instruction word, a pair of scalar registers, an accumulator entry. -/
abbrev DWord := BitVec 64
/-- A vector register (02 R35). -/
abbrev VWord := BitVec 512

end Sys2Proof
end

