-- ==== Sys2Proof/Syntax.lean ====
section
/-! DEFINITION. The commands of the block: one constructor per row of the opcode table, with the row's operands. An
instruction row carries the core that issues it (its POS: tile × 16,384 + logical core), its predicate bits and the fields
of its format (05 R133, R138); the opcode and a fixed FN are the constructor's own. -/
namespace Sys2Proof

/-- The predicate bits of an instruction word (05 R133, R134). -/
structure Pred where
  pen : Bool
  pneg : Bool
  prd : BitVec 3
deriving DecidableEq, Repr

/-- Format R (05 R138). `fn` matters where the instruction leaves FN open. -/
structure FmtR where
  rm : BitVec 3
  ty : BitVec 5
  sat : Bool
  rd : BitVec 6
  ra : BitVec 6
  rb : BitVec 6
  rc : BitVec 6
  fn : BitVec 6
deriving DecidableEq, Repr

/-- Format I (05 R138). -/
structure FmtI where
  sz : BitVec 3
  rd : BitVec 6
  ra : BitVec 6
  fn : BitVec 4
  imm : BitVec 32
deriving DecidableEq, Repr

/-- Format C (05 R138): TARGET is the low 11 bits of MASK's bits in the word; a command names the one it uses. -/
structure FmtC where
  ra : BitVec 6
  mask : BitVec 17
  target : BitVec 11
deriving DecidableEq, Repr

/-- Format M (05 R138). -/
structure FmtM where
  sr : Bool
  mode : BitVec 2
  tya : BitVec 5
  tyb : BitVec 5
  acc : BitVec 2
  ent : BitVec 6
  esel : BitVec 3
  msb : BitVec 2
  af : BitVec 2
  init : Bool
deriving DecidableEq, Repr

/-- Format A (05 R138). -/
structure FmtA where
  ty : BitVec 5
  rv : BitVec 6
  acc : BitVec 3
  ent : BitVec 6
  latch : Bool
  af : BitVec 2
deriving DecidableEq, Repr

/-- Format X (05 R138). -/
structure FmtX where
  ct : BitVec 6
  ra : BitVec 6
  imm : BitVec 32
deriving DecidableEq, Repr

/-- What the governor's measurements give at the end of a period (16 R417, R421, R423): mean input power in W, voltage in
mV, current in mA, the hottest logic die and DRAM stack with their temperatures in units of 0.125 °C. -/
structure Sensors where
  power : Nat
  volt : Nat
  amp : Nat
  tLogic : Int
  logicDie : Nat
  tDram : Int
  dramTile : Nat
deriving DecidableEq, Repr

/-- The Bridge registers whose change restarts training (07 R480). -/
inductive LinkReg
  | self | peer | peerSn
deriving DecidableEq, Repr

/-- A link group as it arrives: how many of its 16 codewords were uncorrectable and how many were corrected, the control word, and the
slots that are not idle (17 R446; 18 R469, R470). -/
structure Group where
  lost : Nat
  fixed : Nat
  ctl : BitVec 320
  slots : List (BitVec 512)
deriving DecidableEq, Repr

/-- Whether a codeword of a group was uncorrectable (18 R471). -/
def Group.uncorrectable (g : Group) : Bool := decide (0 < g.lost)

/-- The input ports of a Bridge (08 R220). -/
inductive Port
  | link | localPort
deriving DecidableEq, Repr

/-- Who writes a mailbox: the host over the Apeno link, or the BMC over SMBus (14 R376, 18 R477). -/
inductive Side
  | apeno | smbus
deriving DecidableEq, Repr

/-- A SYNC word of the tuning ring as it arrives: COUNT, FLAGS, HCHK, and whether it came without a code violation (13 R344; 18 R474). -/
structure SyncWord where
  count : BitVec 64
  flags : BitVec 8
  hchk : BitVec 16
  clean : Bool
deriving DecidableEq, Repr

/-- The arrays of the memory instrument (17 R453). -/
inductive MemArray
  | localStore | instrStore | accumulator
deriving DecidableEq, Repr

/-- The commands, in the order of the opcode table; those without operands come last. -/
inductive Instr
  | nop (c : Nat)
  | halt (c : Nat) (p : Pred) (f : FmtC)
  | stepend (c : Nat) (p : Pred) (f : FmtC)
  | gate (c : Nat) (p : Pred) (f : FmtC)
  | capo (c : Nat) (p : Pred) (f : FmtC)
  | br (c : Nat) (p : Pred) (f : FmtC)
  | brr (c : Nat) (p : Pred) (f : FmtC)
  | add (c : Nat) (p : Pred) (f : FmtR)
  | sub (c : Nat) (p : Pred) (f : FmtR)
  | and (c : Nat) (p : Pred) (f : FmtR)
  | or (c : Nat) (p : Pred) (f : FmtR)
  | xor (c : Nat) (p : Pred) (f : FmtR)
  | shl (c : Nat) (p : Pred) (f : FmtR)
  | shr (c : Nat) (p : Pred) (f : FmtR)
  | sra (c : Nat) (p : Pred) (f : FmtR)
  | min (c : Nat) (p : Pred) (f : FmtR)
  | max (c : Nat) (p : Pred) (f : FmtR)
  | minu (c : Nat) (p : Pred) (f : FmtR)
  | maxu (c : Nat) (p : Pred) (f : FmtR)
  | mul (c : Nat) (p : Pred) (f : FmtR)
  | mulh (c : Nat) (p : Pred) (f : FmtR)
  | mulhu (c : Nat) (p : Pred) (f : FmtR)
  | icmp (c : Nat) (p : Pred) (f : FmtR)
  | pand (c : Nat) (p : Pred) (f : FmtR)
  | por (c : Nat) (p : Pred) (f : FmtR)
  | pxor (c : Nat) (p : Pred) (f : FmtR)
  | pnot (c : Nat) (p : Pred) (f : FmtR)
  | addi (c : Nat) (p : Pred) (f : FmtI)
  | andi (c : Nat) (p : Pred) (f : FmtI)
  | ori (c : Nat) (p : Pred) (f : FmtI)
  | xori (c : Nat) (p : Pred) (f : FmtI)
  | shli (c : Nat) (p : Pred) (f : FmtI)
  | shri (c : Nat) (p : Pred) (f : FmtI)
  | srai (c : Nat) (p : Pred) (f : FmtI)
  | li (c : Nat) (p : Pred) (f : FmtI)
  | csrr (c : Nat) (p : Pred) (f : FmtI)
  | csrw (c : Nat) (p : Pred) (f : FmtI)
  | rdid (c : Nat) (p : Pred) (f : FmtI)
  | fadd (c : Nat) (p : Pred) (f : FmtR)
  | fsub (c : Nat) (p : Pred) (f : FmtR)
  | fmul (c : Nat) (p : Pred) (f : FmtR)
  | ffma (c : Nat) (p : Pred) (f : FmtR)
  | fdiv (c : Nat) (p : Pred) (f : FmtR)
  | fsqrt (c : Nat) (p : Pred) (f : FmtR)
  | fmin (c : Nat) (p : Pred) (f : FmtR)
  | fmax (c : Nat) (p : Pred) (f : FmtR)
  | fminnum (c : Nat) (p : Pred) (f : FmtR)
  | fmaxnum (c : Nat) (p : Pred) (f : FmtR)
  | fneg (c : Nat) (p : Pred) (f : FmtR)
  | fabs (c : Nat) (p : Pred) (f : FmtR)
  | fcmp (c : Nat) (p : Pred) (f : FmtR)
  | fcvt (c : Nat) (p : Pred) (f : FmtR)
  | vfadd (c : Nat) (p : Pred) (f : FmtR)
  | vfsub (c : Nat) (p : Pred) (f : FmtR)
  | vfmul (c : Nat) (p : Pred) (f : FmtR)
  | vffma (c : Nat) (p : Pred) (f : FmtR)
  | vfdiv (c : Nat) (p : Pred) (f : FmtR)
  | vfsqrt (c : Nat) (p : Pred) (f : FmtR)
  | vfmin (c : Nat) (p : Pred) (f : FmtR)
  | vfmax (c : Nat) (p : Pred) (f : FmtR)
  | vfminnum (c : Nat) (p : Pred) (f : FmtR)
  | vfmaxnum (c : Nat) (p : Pred) (f : FmtR)
  | vfneg (c : Nat) (p : Pred) (f : FmtR)
  | vfabs (c : Nat) (p : Pred) (f : FmtR)
  | vfcmp (c : Nat) (p : Pred) (f : FmtR)
  | vcvt (c : Nat) (p : Pred) (f : FmtR)
  | vadd (c : Nat) (p : Pred) (f : FmtR)
  | vsub (c : Nat) (p : Pred) (f : FmtR)
  | vand (c : Nat) (p : Pred) (f : FmtR)
  | vor (c : Nat) (p : Pred) (f : FmtR)
  | vxor (c : Nat) (p : Pred) (f : FmtR)
  | vshl (c : Nat) (p : Pred) (f : FmtR)
  | vshr (c : Nat) (p : Pred) (f : FmtR)
  | vsra (c : Nat) (p : Pred) (f : FmtR)
  | vmin (c : Nat) (p : Pred) (f : FmtR)
  | vmax (c : Nat) (p : Pred) (f : FmtR)
  | vminu (c : Nat) (p : Pred) (f : FmtR)
  | vmaxu (c : Nat) (p : Pred) (f : FmtR)
  | vmul (c : Nat) (p : Pred) (f : FmtR)
  | vperm (c : Nat) (p : Pred) (f : FmtR)
  | vsel (c : Nat) (p : Pred) (f : FmtR)
  | vbcast (c : Nat) (p : Pred) (f : FmtR)
  | vext (c : Nat) (p : Pred) (f : FmtR)
  | vqmx (c : Nat) (p : Pred) (f : FmtR)
  | vdqmx (c : Nat) (p : Pred) (f : FmtR)
  | vqeb4 (c : Nat) (p : Pred) (f : FmtR)
  | vdqeb4 (c : Nat) (p : Pred) (f : FmtR)
  | movrx (c : Nat) (p : Pred) (f : FmtR)
  | ld (c : Nat) (p : Pred) (f : FmtI)
  | st (c : Nat) (p : Pred) (f : FmtI)
  | sld (c : Nat) (p : Pred) (f : FmtI)
  | sst (c : Nat) (p : Pred) (f : FmtI)
  | ifill (c : Nat) (p : Pred) (f : FmtI)
  | smsend (c : Nat) (p : Pred) (f : FmtI)
  | smsendv (c : Nat) (p : Pred) (f : FmtI)
  | outpost (c : Nat) (p : Pred) (f : FmtI)
  | lbarm (c : Nat) (p : Pred) (f : FmtI)
  | mset (c : Nat) (p : Pred) (f : FmtI)
  | mscale (c : Nat) (p : Pred) (f : FmtR)
  | malda (c : Nat) (p : Pred) (f : FmtI)
  | mma (c : Nat) (p : Pred) (f : FmtM)
  | accinit (c : Nat) (p : Pred) (f : FmtA)
  | accld (c : Nat) (p : Pred) (f : FmtA)
  | drain (c : Nat) (p : Pred) (f : FmtA)
  | accrd (c : Nat) (p : Pred) (f : FmtA)
  | mmAg (c : Nat) (p : Pred) (f : FmtX)
  | mmRs (c : Nat) (p : Pred) (f : FmtX)
  | accAr (c : Nat) (p : Pred) (f : FmtX)
  | xchV (c : Nat) (p : Pred) (f : FmtX)
  | gthV (c : Nat) (p : Pred) (f : FmtX)
  | spdot (c : Nat) (p : Pred) (f : FmtI)
  | spcompress (c : Nat) (p : Pred) (f : FmtI)
  | spbin (c : Nat) (p : Pred) (f : FmtI)
  | spmask (c : Nat) (p : Pred) (f : FmtI)
  | spmerge (c : Nat) (p : Pred) (f : FmtI)
  | spjoin (c : Nat) (p : Pred) (f : FmtC)
  | sparseRunDone (c : Nat)
  | governorPeriod (m : Sensors)
  | linkEnable (d : Nat)
  | linkDisable (d : Nat)
  | linkRetrain (d : Nat)
  | linkConfigWrite (d : Nat) (r : LinkReg) (v : BitVec 64)
  | linkLock (d : Nat)
  | linkGroupSend (d : Nat)
  | linkGroupReceive (d : Nat) (g : Group)
  | linkSignalLoss (d : Nat)
  | frameAdmit (d : Nat) (port : Port) (v : Nat)
  | frameAdmitRetry (d : Nat)
  | spillAdmit (d : Nat)
  | refill (d : Nat) (q : Nat)
  | egressSelect (d : Nat) (o : Nat)
  | frameDepart (d : Nat) (o : Nat)
  | outboxDrain (c : Nat)
  | policerRelease (d : Nat) (k : Nat)
  | frameLand (t : Nat)
  | mfLoad (t : Nat)
  | mfStore (t : Nat)
  | mfAtomic (t : Nat)
  | serviceSlot (c : Nat)
  | refresh (t : Nat)
  | atomicAdd (c : Nat)
  | atomicAnd (c : Nat)
  | atomicOr (c : Nat)
  | atomicXor (c : Nat)
  | atomicMin (c : Nat)
  | atomicMax (c : Nat)
  | atomicMinu (c : Nat)
  | atomicMaxu (c : Nat)
  | swap (c : Nat)
  | cas (c : Nat)
  | xadd (c : Nat)
  | xrd (c : Nat)
  | mfData (t : Nat)
  | mfAck (t : Nat)
  | nak (t : Nat)
  | spart (d : Nat)
  | sdown (d : Nat)
  | cpiece (d : Nat)
  | ccount (d : Nat)
  | cbase (d : Nat)
  | tokenSend (n : Nat)
  | ctoku (d : Nat)
  | ctokd (d : Nat)
  | cpoison (d : Nat)
  | mergeContribution (t : Nat)
  | rdS (a : Nat)
  | rdE (a : Nat)
  | rdNc (a : Nat) (len : Nat)
  | wrNc (a : Nat) (be : List Bool) (data : List Byte)
  | wb (a : Nat) (data : List Byte)
  | drop (a : Nat)
  | binvAck (a : Nat)
  | binvWb (a : Nat) (data : List Byte)
  | copyDoorbell (ch : Nat) (v : BitVec 32)
  | copyRingWrite (ch : Nat) (v : BitVec 64)
  | copyResume (ch : Nat)
  | copyDescriptor (ch : Nat) (desc : Option (List Byte))
  | copyDescriptorDone (ch : Nat) (data : List Byte)
  | hostErr (ch : Nat) (data : List Byte)
  | irqMaskWrite (v : BitVec 32)
  | dcsWrite (a : BitVec 32) (sz : Nat) (v : BitVec 64)
  | epochWrite (d : Nat) (v : BitVec 32)
  | shaperCommit (d : Nat) (v : BitVec 32)
  | policerCommit (d : Nat) (v : BitVec 32)
  | saddleSlotWrite (a : BitVec 32) (sz : Nat) (v : BitVec 64)
  | mbxGo (n : Nat) (src : Side)
  | mbxAck (n : Nat) (src : Side)
  | sessionNonce (n : Nat)
  | sessionOpen (n : Nat)
  | sessionClose (n : Nat)
  | nonceExpiry (n : Nat)
  | sessionIdleExpiry (n : Nat)
  | setTopology (n : Nat)
  | setCourseTable (n : Nat)
  | setRegionTable (n : Nat)
  | loadProgram (n : Nat) (img : Option (List Byte))
  | loadSaddleProgram (n : Nat)
  | launch (n : Nat)
  | pause (n : Nat)
  | contRun (n : Nat)
  | abortStep (n : Nat)
  | powerQuery (n : Nat)
  | powerSetA0 (n : Nat)
  | powerSetA1 (n : Nat)
  | powerSetA2 (n : Nat)
  | powerSetA3 (n : Nat)
  | telemetrySummary (n : Nat)
  | telemetryBridge (n : Nat)
  | attestQuote (n : Nat)
  | attestLog (n : Nat)
  | attestAliasCert (n : Nat)
  | attestDeviceCert (n : Nat)
  | resetDevice (n : Nat)
  | resetPlane (n : Nat)
  | resetLink (n : Nat)
  | updateImageWrite (n : Nat) (img : Option (List Byte))
  | updateImageActivate (n : Nat)
  | updateImageCommit (n : Nat)
  | syncReceive (w : SyncWord)
  | scanShift (seg : Nat)
  | memoryInstrumentRead (c : Nat) (arr : MemArray) (a : Nat)
  | smbSetOffset (v : BitVec 16) (pec : Bool)
  | smbBlockWrite (data : List Byte) (pec : Bool)
  | smbBlockRead (pec : Bool)
  | smbReadCtl (pec : Bool)
  | smbAlertResponse (pec : Bool)
  | statusWord (pec : Bool)
  | readVin (pec : Bool)
  | readIin (pec : Bool)
  | readTemperature1 (pec : Bool)
  | readTemperature2 (pec : Bool)
  | readPin (pec : Bool)
  | pmbusRevision (pec : Bool)
  | tunRingctlWrite (v : BitVec 32)
  | planeHold
  | releaseSample
  | runStart
  | governorFrame
  | wearLogWrite
  | thermalTrip
  | powerTrip
  | undervoltageStop
  | powerLoss
  | coldReset
  | warmReset
  | boot
  | deviceReset
  | faultLogClear
  | rstcauseRead
  | lockoutExpiry
  | a2TileGate
  | syncSend
  | syncTimeout
  | muteArm
  | muteDisarm
  | muteNFall
  | muteFreeze
  | muteNRise
  | muteResume
  | muteThaw
  | tapReset
  | powerUp
deriving DecidableEq, Repr

end Sys2Proof
end

