-- ==== Sys2Proof/Decode.lean ====
section
/-! DEFINITION. Instruction words: the formats of 05 R133 and R138 and the opcodes of chapters 05 and 06; and the commands spelled
by the bits of the opcode table, of which no row of this block's table has any. -/
namespace Sys2Proof

/-- The command a word spells by the table's bits; spec/opcode_table.json gives no row any bits, so none (log 4). -/
def decodeTableWord (_nbits _w : Nat) : Option Instr := none

-- Formats -----------------------------------------------------------------------------------------------------------

/-- OPC (05 R133). -/
def opcOf (w : BitVec 64) : Nat := (w.extractLsb' 56 8).toNat

/-- PEN, PNEG and PRD (05 R133). -/
def predOf (w : BitVec 64) : Pred := ⟨w.getLsbD 55, w.getLsbD 54, w.extractLsb' 51 3⟩

/-- Format R (05 R138). -/
def fmtR (w : BitVec 64) : FmtR :=
  ⟨w.extractLsb' 48 3, w.extractLsb' 43 5, w.getLsbD 42, w.extractLsb' 36 6, w.extractLsb' 30 6, w.extractLsb' 24 6,
   w.extractLsb' 18 6, w.extractLsb' 12 6⟩

/-- Format I (05 R138). -/
def fmtI (w : BitVec 64) : FmtI :=
  ⟨w.extractLsb' 48 3, w.extractLsb' 42 6, w.extractLsb' 36 6, w.extractLsb' 32 4, w.extractLsb' 0 32⟩

/-- Format M (05 R138). -/
def fmtM (w : BitVec 64) : FmtM :=
  ⟨w.getLsbD 50, w.extractLsb' 48 2, w.extractLsb' 43 5, w.extractLsb' 38 5, w.extractLsb' 36 2, w.extractLsb' 30 6,
   w.extractLsb' 27 3, w.extractLsb' 25 2, w.extractLsb' 23 2, w.getLsbD 22⟩

/-- Format A (05 R138). -/
def fmtA (w : BitVec 64) : FmtA :=
  ⟨w.extractLsb' 43 5, w.extractLsb' 36 6, w.extractLsb' 33 3, w.extractLsb' 27 6, w.getLsbD 26, w.extractLsb' 24 2⟩

/-- Format C (05 R138). -/
def fmtC (w : BitVec 64) : FmtC := ⟨w.extractLsb' 36 6, w.extractLsb' 0 17, w.extractLsb' 0 11⟩

/-- Format X (05 R138). -/
def fmtX (w : BitVec 64) : FmtX := ⟨w.extractLsb' 42 6, w.extractLsb' 36 6, w.extractLsb' 0 32⟩

-- Functions of an opcode --------------------------------------------------------------------------------------------

/-- An instruction of a format, still without its core, predicate and fields. -/
abbrev Row (α : Type) : Type := Nat → Pred → α → Instr

/-- The FN values of OPC 0x08 (05 R140). -/
def intRows : List (Row FmtR) :=
  [.add, .sub, .and, .or, .xor, .shl, .shr, .sra, .min, .max, .minu, .maxu, .mul, .mulh, .mulhu]
/-- The FN values of OPC 0x0A (05 R140). -/
def predRows : List (Row FmtR) := [.pand, .por, .pxor, .pnot]
/-- The FN values of OPC 0x18 (05 R140). -/
def fpRows : List (Row FmtR) :=
  [.fadd, .fsub, .fmul, .ffma, .fdiv, .fsqrt, .fmin, .fmax, .fminnum, .fmaxnum, .fneg, .fabs]
/-- The FN values of OPC 0x20 (05 R143). -/
def vfpRows : List (Row FmtR) :=
  [.vfadd, .vfsub, .vfmul, .vffma, .vfdiv, .vfsqrt, .vfmin, .vfmax, .vfminnum, .vfmaxnum, .vfneg, .vfabs]
/-- The FN values of OPC 0x23 (05 R143). -/
def vintRows : List (Row FmtR) :=
  [.vadd, .vsub, .vand, .vor, .vxor, .vshl, .vshr, .vsra, .vmin, .vmax, .vminu, .vmaxu, .vmul]
/-- FN[1:0] of OPC 0x28 (05 R144). -/
def blockRows : List (Row FmtR) := [.vqmx, .vdqmx, .vqeb4, .vdqeb4]

/-- The FN values of OPC 0x10; 1 is unlisted (05 R140). -/
def immRow : Nat → Option (Row FmtI)
  | 0 => some .addi | 2 => some .andi | 3 => some .ori | 4 => some .xori | 5 => some .shli | 6 => some .shri | 7 => some .srai
  | _ => none

/-- The FN values of OPC 0x35 (05 R145). -/
def meshRow : Nat → Option (Row FmtI)
  | 0 => some .smsend | 1 => some .smsendv | _ => none

/-- The instructions of format R; an instruction with one FN or its own set of them checks FN itself. -/
def rowR (w : BitVec 64) : Option (Row FmtR) :=
  let fn := (fmtR w).fn.toNat
  match opcOf w with
  | 0x08 => intRows[fn]? | 0x09 => some .icmp | 0x0A => predRows[fn]? | 0x18 => fpRows[fn]? | 0x19 => some .fcmp
  | 0x1A => some .fcvt | 0x20 => vfpRows[fn]? | 0x21 => some .vfcmp | 0x22 => some .vcvt | 0x23 => vintRows[fn]?
  | 0x24 => some .vperm | 0x25 => some .vsel | 0x26 => some .vbcast | 0x27 => some .vext | 0x28 => blockRows[fn % 4]?
  | 0x2C => some .movrx | 0x3E => some .mscale | _ => none

/-- The instructions of format I. -/
def rowI (w : BitVec 64) : Option (Row FmtI) :=
  let fn := (fmtI w).fn.toNat
  match opcOf w with
  | 0x10 => immRow fn | 0x11 => some .li | 0x12 => some .csrr | 0x13 => some .csrw | 0x14 => some .rdid | 0x30 => some .ld
  | 0x31 => some .st | 0x32 => some .sld | 0x33 => some .sst | 0x34 => some .ifill | 0x35 => meshRow fn
  | 0x36 => some .outpost | 0x37 => some .lbarm | 0x3D => some .mset | 0x3F => some .malda | 0x50 => some .spdot
  | 0x51 => some .spcompress | 0x52 => some .spbin | 0x53 => some .spmask | 0x54 => some .spmerge | _ => none

/-- The instructions of format A. -/
def rowA : Nat → Option (Row FmtA)
  | 0x39 => some .accinit | 0x3A => some .accld | 0x3B => some .drain | 0x3C => some .accrd | _ => none

/-- The instructions of format C but NOP. -/
def rowC : Nat → Option (Row FmtC)
  | 0x01 => some .halt | 0x02 => some .stepend | 0x03 => some .gate | 0x04 => some .capo | 0x05 => some .br | 0x06 => some .brr
  | 0x55 => some .spjoin | _ => none

/-- The instructions of format X. -/
def rowX : Nat → Option (Row FmtX)
  | 0x48 => some .mmAg | 0x49 => some .mmRs | 0x4A => some .accAr | 0x4B => some .xchV | 0x4C => some .gthV | _ => none

/-- The instruction a word of core `c` spells; none for an unlisted OPC or FN (05 R135). -/
def decodeInsn (c : Nat) (w : BitVec 64) : Option Instr :=
  let p := predOf w
  if opcOf w = 0 then some (.nop c)
  else if opcOf w = 0x38 then some (.mma c p (fmtM w))
  else
    ((rowR w).map (fun r => r c p (fmtR w))).or (((rowI w).map (fun r => r c p (fmtI w))).or
      (((rowA (opcOf w)).map (fun r => r c p (fmtA w))).or (((rowC (opcOf w)).map (fun r => r c p (fmtC w))).or
        ((rowX (opcOf w)).map (fun r => r c p (fmtX w))))))

end Sys2Proof
end

