-- ==== Sys2Proof/Machine/Bits.lean ====
section
/-! DEFINITION. Bit fields, byte strings and sparse maps: the shared small operations under every meaning. -/
namespace Sys2Proof.Machine

/-- Bits [hi:lo] of a natural number. -/
def bitsOf (v hi lo : Nat) : Nat := (v >>> lo) % 2 ^ (hi + 1 - lo)

/-- `v` with bits [hi:lo] replaced by `x`. -/
def putBits (v hi lo x : Nat) : Nat :=
  let w := 2 ^ (hi + 1 - lo)
  v - (bitsOf v hi lo) <<< lo + (x % w) <<< lo

/-- Two's complement reading of the low `w` bits of `v`. -/
def toSigned (w v : Nat) : Int :=
  let u := v % 2 ^ w
  if 2 * u < 2 ^ w then (u : Int) else (u : Int) - (2 ^ w : Nat)

/-- Two's complement encoding of `i` in `w` bits. -/
def ofSigned (w : Nat) (i : Int) : Nat := (i % ((2 ^ w : Nat) : Int)).toNat

/-- The `n` low bytes of `v`, least significant first (00 R4). -/
def bytesLE : (n v : Nat) → List Byte
  | 0, _ => []
  | n + 1, v => BitVec.ofNat 8 v :: bytesLE n (v / 256)

/-- The number a little-endian byte string spells (00 R4). -/
def natLE : List Byte → Nat
  | [] => 0
  | b :: bs => b.toNat + 256 * natLE bs

/-- The number a byte string spells most significant byte first (15 R391). -/
def natBE (bs : List Byte) : Nat := natLE bs.reverse

/-- The `n` low bytes of `v`, most significant first (15 R391). -/
def bytesBE (n v : Nat) : List Byte := (bytesLE n v).reverse

/-- A byte string taken at an offset: `n` bytes from `o`, zeros beyond its end. -/
def bytesAt (bs : List Byte) (o n : Nat) : List Byte :=
  let t := (bs.drop o).take n
  t ++ List.replicate (n - t.length) 0

/-- A little-endian field of `n` bytes at offset `o` of a byte string. -/
def fieldLE (bs : List Byte) (o n : Nat) : Nat := natLE ((bs.drop o).take n)

/-- A sparse map: keys with values; a key that is not listed holds the map's default value. Kept in ascending order of
key with no entry equal to the default, so that equal maps are equal data. -/
abbrev SMap (α : Type) := List (Nat × α)

/-- What a sparse map holds at `k`; `d` is its default value. -/
def smGet {α : Type} (d : α) : SMap α → Nat → α
  | [], _ => d
  | (a, v) :: m, k => if a = k then v else smGet d m k

/-- Removes key `k`. -/
def smErase {α : Type} : SMap α → Nat → SMap α
  | [], _ => []
  | (a, v) :: m, k => if a = k then smErase m k else (a, v) :: smErase m k

/-- Inserts a key before the first larger one. -/
def smInsert {α : Type} (k : Nat) (v : α) : SMap α → SMap α
  | [] => [(k, v)]
  | (a, w) :: m => if k < a then (k, v) :: (a, w) :: m else (a, w) :: smInsert k v m

/-- Writes `v` at `k`. Writing the default value removes the entry. -/
def smSet {α : Type} [DecidableEq α] (d : α) (m : SMap α) (k : Nat) (v : α) : SMap α :=
  if v = d then smErase m k else smInsert k v (smErase m k)

/-- The canonical form of a sparse map: keys strictly rising, no entry equal to the default. -/
def smWf {α : Type} [DecidableEq α] (d : α) : SMap α → Bool
  | [] => true
  | [(_, v)] => decide (v ≠ d)
  | (a, v) :: (b, w) :: m => decide (a < b) && decide (v ≠ d) && smWf d ((b, w) :: m)

/-- A byte memory in the host's cell form; an unlisted address reads as zero. -/
abbrev Memory := List Host.Cell

/-- What a byte that is not listed reads as. The slivers, local stores and instruction stores are zero after the
resets that clear them (16 R425); mailboxes and landing areas follow (DESIGN CHOICE, log 6). -/
def Memory.blank : Byte := 0

/-- The canonical form of memory. -/
def Memory.wf (m : Memory) : Bool := smWf Memory.blank m

/-- One byte of memory. -/
def memByte (m : Memory) (a : Nat) : Byte := smGet Memory.blank m a

/-- Writes one byte. -/
def memPut (m : Memory) (a : Nat) (b : Byte) : Memory := smSet Memory.blank m a b

/-- `n` bytes from address `a` upward. -/
def memRead (m : Memory) (a : Nat) : Nat → List Byte
  | 0 => []
  | n + 1 => memByte m a :: memRead m (a + 1) n

/-- Writes a byte string from address `a` upward. -/
def memWrite (m : Memory) (a : Nat) : List Byte → Memory
  | [] => m
  | b :: bs => memWrite (memPut m a b) (a + 1) bs

/-- The number `n` little-endian bytes at `a` spell. -/
def memNat (m : Memory) (a n : Nat) : Nat := natLE (memRead m a n)

/-- Lane `i` of width `w` of a vector register, as a number (02 R35). -/
def laneOf (w : Nat) (v : VWord) (i : Nat) : Nat := (v.toNat >>> (w * i)) % 2 ^ w

/-- Packs lane values of width `w` from bit 0 upward (02 R35). -/
def packNat (w : Nat) : List Nat → Nat
  | [] => 0
  | x :: xs => x % 2 ^ w + packNat w xs * 2 ^ w

/-- A vector register from its lane values. -/
def packLanes (w : Nat) (xs : List Nat) : VWord := BitVec.ofNat 512 (packNat w xs)

/-- All lanes of width `w`. -/
def lanesOf (w : Nat) (v : VWord) : List Nat := (List.range (512 / w)).map (laneOf w v)

/-- The 64 bytes of a vector register, byte 0 in bits [7:0]. -/
def vecBytes (v : VWord) : List Byte := bytesLE 64 v.toNat

/-- A vector register from 64 bytes. -/
def vecOfBytes (bs : List Byte) : VWord := BitVec.ofNat 512 (natLE bs)

/-- Smallest number not below `a / b`. -/
def ceilDiv (a b : Nat) : Nat := (a + b - 1) / b

/-- Whether bit `i` of a number is one. -/
def bitAt (v i : Nat) : Bool := (v >>> i) % 2 = 1

/-- Number of one bits among the low `n` bits. -/
def popcountN (v : Nat) : Nat → Nat
  | 0 => 0
  | n + 1 => popcountN v n + (v >>> n) % 2

/-- The positions below `n` whose bit is one, ascending. -/
def setBits (v n : Nat) : List Nat := (List.range n).filter (fun i => bitAt v i)

/-- Replaces element `i` of a list; a list too short stays as it is. -/
def listPut {α : Type} : List α → Nat → α → List α
  | [], _, _ => []
  | _ :: xs, 0, y => y :: xs
  | x :: xs, i + 1, y => x :: listPut xs i y

/-- Cuts a list into pieces of `n` (fuel: the list's length). -/
def chunksAux {α : Type} (n : Nat) : Nat → List α → List (List α)
  | 0, _ => []
  | _ + 1, [] => []
  | f + 1, xs => xs.take n :: chunksAux n f (xs.drop n)

/-- Cuts a list into pieces of `n` elements, the last possibly shorter. -/
def chunks {α : Type} (n : Nat) (xs : List α) : List (List α) := chunksAux n xs.length xs

end Sys2Proof.Machine
end

