-- ==== Sys2Proof/Machine/Flags.lean ====
section
/-! DEFINITION. The floating-point and conversion flags (02 R42), in the bit order of CORE_FPSTAT. -/
namespace Sys2Proof.Machine

/-- A set of the six step flags: bit 0 NX, 1 UF, 2 OF, 3 DZ, 4 NV, 5 SAT (02 R42, CORE_FPSTAT). -/
abbrev FFlags := BitVec 6

/-- Inexact. -/
def fNX : FFlags := 1
/-- Underflow: tiny after rounding and inexact (02 R38). -/
def fUF : FFlags := 2
/-- Overflow. -/
def fOF : FFlags := 4
/-- Division by zero. -/
def fDZ : FFlags := 8
/-- Invalid. -/
def fNV : FFlags := 16
/-- A conversion or quantisation clamped (02 R42). -/
def fSAT : FFlags := 32

/-- `f` when the condition holds, no flag otherwise. -/
def flagIf (b : Bool) (f : FFlags) : FFlags := if b then f else 0

/-- The flags of a list of operations, taken together. -/
def orFlags (fs : List FFlags) : FFlags := fs.foldl (· ||| ·) 0

/-- CORE_FPSTAT after hardware sets step flags: bits [5:0] take them in, the rest stays (02 R42). -/
def fpstatRaise (st : Word) (f : FFlags) : Word := st ||| f.zeroExtend 32

/-- A pair of flag sets of width `n`, step flags low and run flags from bit 8: the run flags take the step flags in, and
the step flags clear (02 R42). -/
def stepToRun (n : Nat) (st : Word) : Word :=
  let step := st &&& BitVec.ofNat 32 (2 ^ n - 1)
  (st &&& ~~~ BitVec.ofNat 32 (2 ^ n - 1)) ||| (step <<< 8)

/-- A step abort clears the step flags and leaves the run flags (02 R42). -/
def dropStep (n : Nat) (st : Word) : Word := st &&& ~~~ BitVec.ofNat 32 (2 ^ n - 1)

/-- S_BOUND_EXCEEDED of CORE_MXSTAT (03 R85). -/
def mxBound : BitVec 2 := 1
/-- S_INT_WRAP of CORE_MXSTAT (03 R82). -/
def mxWrap : BitVec 2 := 2

/-- CORE_MXSTAT after the matrix or sparse unit sets its own step flags (03 R78). -/
def mxstatRaise (st : Word) (f : BitVec 2) : Word := st ||| f.zeroExtend 32

end Sys2Proof.Machine
end

