-- ==== Sys2Proof/Machine/Fp.lean ====
section
/-! DEFINITION. Number formats and IEEE arithmetic (02 R33 to R54): every value is an exact dyadic number until one
rounding narrows it. -/
namespace Sys2Proof.Machine

/-- The types of a type field (05 R137). -/
inductive Ty
  | fp64 | fp32 | fp16 | bf16 | e4m3 | e5m2 | int32 | int8 | uint8 | int4
  | mx8e4 | mx8e5 | mx6e3 | mx6e2 | mx4 | mxi8 | eb4
deriving DecidableEq, Repr

/-- The type a 5-bit code names; the codes from 0x11 are reserved (05 R137). -/
def tyOfCode : Nat → Option Ty
  | 0 => some .fp64 | 1 => some .fp32 | 2 => some .fp16 | 3 => some .bf16 | 4 => some .e4m3 | 5 => some .e5m2
  | 6 => some .int32 | 7 => some .int8 | 8 => some .uint8 | 9 => some .int4 | 10 => some .mx8e4 | 11 => some .mx8e5
  | 12 => some .mx6e3 | 13 => some .mx6e2 | 14 => some .mx4 | 15 => some .mxi8 | 16 => some .eb4 | _ => none

/-- How a binary format ends: with infinities and NaNs, with E4M3's NaN codes only, or with neither (02 R43, R44). -/
inductive FpKind
  | ieee | e4m3 | bare
deriving DecidableEq, Repr

/-- A binary format: exponent bits, trailing significand bits, exponent bias (02 R43, R44). -/
structure FpFmt where
  ew : Nat
  mw : Nat
  bias : Nat
  kind : FpKind
deriving DecidableEq, Repr

def fFP64 : FpFmt := ⟨11, 52, 1023, .ieee⟩
def fFP32 : FpFmt := ⟨8, 23, 127, .ieee⟩
def fFP16 : FpFmt := ⟨5, 10, 15, .ieee⟩
def fBF16 : FpFmt := ⟨8, 7, 127, .ieee⟩
def fE5M2 : FpFmt := ⟨5, 2, 15, .ieee⟩
def fE4M3 : FpFmt := ⟨4, 3, 7, .e4m3⟩
def fE3M2 : FpFmt := ⟨3, 2, 3, .bare⟩
def fE2M3 : FpFmt := ⟨2, 3, 1, .bare⟩
def fE2M1 : FpFmt := ⟨2, 1, 1, .bare⟩

/-- The single-value floating-point formats among the types (02 R33). -/
def fpOfTy : Ty → Option FpFmt
  | .fp64 => some fFP64 | .fp32 => some fFP32 | .fp16 => some fFP16 | .bf16 => some fBF16
  | .e4m3 => some fE4M3 | .e5m2 => some fE5M2 | _ => none

/-- The integer formats: width and signedness (02 R46). -/
def intOfTy : Ty → Option (Nat × Bool)
  | .int32 => some (32, true) | .int8 => some (8, true) | .uint8 => some (8, false) | .int4 => some (4, true)
  | _ => none

/-- Width in bits of one value of a single-value type (02 R35); 0 for block types. -/
def tyWidth : Ty → Nat
  | .fp64 => 64 | .fp32 => 32 | .int32 => 32 | .fp16 => 16 | .bf16 => 16
  | .e4m3 => 8 | .e5m2 => 8 | .int8 => 8 | .uint8 => 8 | .int4 => 4 | _ => 0

/-- Width of a format. -/
def fmtWidth (f : FpFmt) : Nat := 1 + f.ew + f.mw

/-- A value of a floating-point format: a NaN with its trailing significand, an infinity, or an exact dyadic
`(-1)^neg × m × 2^e`. -/
inductive Fv
  | nan (neg : Bool) (frac : Nat) (sig : Bool)
  | inf (neg : Bool)
  | fin (neg : Bool) (m : Nat) (e : Int)
deriving DecidableEq, Repr

def Fv.isNan : Fv → Bool | .nan _ _ _ => true | _ => false
def Fv.isSnan : Fv → Bool | .nan _ _ s => s | _ => false
def Fv.isInf : Fv → Bool | .inf _ => true | _ => false
def Fv.isZero : Fv → Bool | .fin _ m _ => m == 0 | _ => false
def Fv.neg : Fv → Bool | .nan n _ _ => n | .inf n => n | .fin n _ _ => n

/-- The value of a code (02 R43, R44). An E4M3 NaN counts as quiet (02 R51). -/
def fpDecode (f : FpFmt) (code : Nat) : Fv :=
  let neg := bitAt code (f.ew + f.mw)
  let ex := bitsOf code (f.ew + f.mw - 1) f.mw
  let fr := code % 2 ^ f.mw
  let fin := if ex = 0 then Fv.fin neg fr (1 - (f.bias : Int) - f.mw)
    else Fv.fin neg (2 ^ f.mw + fr) ((ex : Int) - f.bias - f.mw)
  match f.kind with
  | .ieee =>
    if ex = 2 ^ f.ew - 1 then
      if fr = 0 then .inf neg else .nan neg fr (!bitAt fr (f.mw - 1))
    else fin
  | .e4m3 => if ex = 15 ∧ fr = 7 then .nan neg 7 false else fin
  | .bare => fin

/-- The sign bit in place. -/
def signBit (f : FpFmt) (neg : Bool) : Nat := if neg then 2 ^ (f.ew + f.mw) else 0

/-- The default quiet NaN, sign 0 (02 R40). -/
def defaultNan (f : FpFmt) : Nat :=
  match f.kind with
  | .ieee => (2 ^ f.ew - 1) * 2 ^ f.mw + 2 ^ (f.mw - 1)
  | .e4m3 => 0x7F
  | .bare => 0

/-- The largest finite magnitude's code (02 R43, R44). -/
def maxCode (f : FpFmt) : Nat :=
  match f.kind with
  | .ieee => (2 ^ f.ew - 1) * 2 ^ f.mw - 1
  | .e4m3 => 0x7E
  | .bare => 2 ^ (f.ew + f.mw) - 1

/-- The infinity's code (IEEE-style formats). -/
def infCode (f : FpFmt) : Nat := (2 ^ f.ew - 1) * 2 ^ f.mw

/-- Sets the quiet bit of a NaN's trailing significand (02 R40); E4M3 has none. -/
def quietFrac (f : FpFmt) (fr : Nat) : Nat :=
  match f.kind with
  | .ieee => fr ||| 2 ^ (f.mw - 1)
  | _ => fr

/-- The code of a NaN value of format `f`, quieted. -/
def nanCode (f : FpFmt) (neg : Bool) (fr : Nat) : Nat :=
  match f.kind with
  | .ieee => signBit f neg + infCode f + quietFrac f fr
  | .e4m3 => signBit f neg + 0x7F
  | .bare => 0

/-- The rounding directions (02 R37), and stochastic rounding with its random word (03 R79). -/
inductive Rm
  | ne | tz | dn | up
  | sr (u : Nat)
deriving DecidableEq, Repr

/-- A direction from its 3-bit code, with CORE_FPCTL's value for the dynamic code; a reserved CORE_FPCTL value is
treated as 000 (02 R37, R42). None for the reserved codes of the instruction field. -/
def rmOfCode (dyn code : Nat) : Option Rm :=
  let plain : Nat → Option Rm := fun c =>
    match c with | 0 => some .ne | 1 => some .tz | 2 => some .dn | 3 => some .up | _ => none
  if code = 7 then some ((plain dyn).getD .ne) else plain code

/-- Where a discarded part lies: 0 nothing, 1 below half, 2 half, 3 above half. `m` is cut at its `k` low bits; `sticky`
says that more lies below. -/
def restOf (m k : Nat) (sticky : Bool) : Nat :=
  let r := m % 2 ^ k
  if k = 0 then (if sticky then 1 else 0)
  else
    let h := 2 ^ (k - 1)
    if r = 0 ∧ !sticky then 0
    else if r < h then 1
    else if r = h ∧ !sticky then 2
    else 3

/-- Whether the magnitude goes up by one unit. `d32` is the 32 bits below the kept ones (03 R79). -/
def roundsUp (rm : Rm) (neg : Bool) (odd : Bool) (rest d32 : Nat) : Bool :=
  match rm with
  | .ne => rest = 3 || (rest = 2 && odd)
  | .tz => false
  | .dn => rest != 0 && neg
  | .up => rest != 0 && !neg
  | .sr u => d32 + u ≥ 2 ^ 32

/-- `m × 2^e` (plus something below when `sticky`) rounded to a multiple of `2^q`: the multiple, and whether anything
was lost. -/
def roundAt (rm : Rm) (neg : Bool) (m : Nat) (e : Int) (sticky : Bool) (q : Int) : Nat × Bool :=
  if q ≤ e then
    let k := m <<< (e - q).toNat
    let r := if sticky then 1 else 0
    (if roundsUp rm neg (k % 2 = 1) r 0 then k + 1 else k, sticky)
  else
    let c := (q - e).toNat
    let k := m >>> c
    let r := restOf m c sticky
    let d32 := if c ≥ 32 then (m >>> (c - 32)) % 2 ^ 32 else (m <<< (32 - c)) % 2 ^ 32
    (if roundsUp rm neg (k % 2 = 1) r d32 then k + 1 else k, r != 0)

/-- Floor of the binary logarithm of `m × 2^e`, `m` not 0. -/
def topExp (m : Nat) (e : Int) : Int := (Nat.log2 m : Int) + e

/-- Whether `m × 2^e ≥ n × 2^g`. -/
def dyLe (n : Nat) (g : Int) (m : Nat) (e : Int) : Bool :=
  if g ≤ e then n ≤ m <<< (e - g).toNat else n <<< (g - e).toNat ≤ m

/-- What an overflow gives: IEEE default or saturation; E4M3 gives NaN or ±448, bare formats clamp (02 R51). -/
def overflowCode (f : FpFmt) (rm : Rm) (sat neg : Bool) : Nat :=
  let big := signBit f neg + maxCode f
  if sat then big
  else match f.kind with
    | .ieee =>
      let toInf := match rm with
        | .ne => true | .tz => false | .dn => neg | .up => !neg | .sr _ => true
      if toInf then signBit f neg + infCode f else big
    | .e4m3 => signBit f neg + 0x7F
    | .bare => big

/-- Rounds an exact value once to a format (02 R38, R50, R51): the code, and NX, UF, OF and SAT. Tininess is judged after
rounding; overflow on the value rounded with unbounded exponent. -/
def fpRound (f : FpFmt) (rm : Rm) (sat : Bool) (neg : Bool) (m : Nat) (e : Int) (sticky : Bool) : Nat × FFlags :=
  if m = 0 then (signBit f neg, flagIf sticky (fNX ||| fUF))
  else
    let emin : Int := 1 - (f.bias : Int)
    let qU := topExp m e - f.mw
    let q0 := emin - f.mw
    let (rU, _) := roundAt rm neg m e sticky qU
    let tiny := !dyLe 1 emin rU qU
    let q := max qU q0
    let (r, inexact) := roundAt rm neg m e sticky q
    let mag := ((q - q0).toNat <<< f.mw) + r
    if maxCode f < mag then
      (overflowCode f rm sat neg, fOF ||| fNX ||| flagIf sat fSAT)
    else
      (signBit f neg + mag, flagIf inexact fNX ||| flagIf (tiny && inexact) fUF)

/-- The first NaN of the operands in order, as a code of the format, quieted (02 R39). -/
def firstNan (f : FpFmt) : List Fv → Option Nat
  | [] => none
  | .nan n fr _ :: _ => some (nanCode f n fr)
  | _ :: vs => firstNan f vs

/-- Invalid for a signalling operand (02 R39). -/
def snanFlag (vs : List Fv) : FFlags := flagIf (vs.any Fv.isSnan) fNV

/-- An exact dyadic sum: sign, magnitude, exponent. A zero result keeps a common sign, else takes the sign the direction
gives (IEEE 754-2019 6.3). -/
def dyAdd (rm : Rm) (n1 : Bool) (m1 : Nat) (e1 : Int) (n2 : Bool) (m2 : Nat) (e2 : Int) : Bool × Nat × Int :=
  let e := min e1 e2
  let a := m1 <<< (e1 - e).toNat
  let b := m2 <<< (e2 - e).toNat
  if n1 = n2 then (n1, a + b, e)
  else if b < a then (n1, a - b, e)
  else if a < b then (n2, b - a, e)
  else (decide (rm = .dn), 0, e)

/-- IEEE addition of decoded operands (02 R36). -/
def fvAdd (f : FpFmt) (rm : Rm) (a b : Fv) : Nat × FFlags :=
  match firstNan f [a, b] with
  | some c => (c, snanFlag [a, b])
  | none =>
    match a, b with
    | .inf n1, .inf n2 => if n1 = n2 then (signBit f n1 + infCode f, 0) else (defaultNan f, fNV)
    | .inf n, _ => (signBit f n + infCode f, 0)
    | _, .inf n => (signBit f n + infCode f, 0)
    | .fin n1 m1 e1, .fin n2 m2 e2 =>
      let (n, m, e) := dyAdd rm n1 m1 e1 n2 m2 e2
      fpRound f rm false n m e false
    | _, _ => (defaultNan f, 0)

/-- The value with its sign turned. -/
def Fv.flip : Fv → Fv
  | .nan n fr s => .nan (!n) fr s
  | .inf n => .inf (!n)
  | .fin n m e => .fin (!n) m e

def fpAdd (f : FpFmt) (rm : Rm) (a b : Nat) : Nat × FFlags := fvAdd f rm (fpDecode f a) (fpDecode f b)

/-- IEEE subtraction; a NaN operand keeps its own sign (02 R39). -/
def fpSub (f : FpFmt) (rm : Rm) (a b : Nat) : Nat × FFlags :=
  let y := fpDecode f b
  fvAdd f rm (fpDecode f a) (if y.isNan then y else y.flip)

/-- IEEE multiplication. -/
def fpMul (f : FpFmt) (rm : Rm) (a b : Nat) : Nat × FFlags :=
  let x := fpDecode f a
  let y := fpDecode f b
  match firstNan f [x, y] with
  | some c => (c, snanFlag [x, y])
  | none =>
    let n := xor x.neg y.neg
    if (x.isInf && y.isZero) || (x.isZero && y.isInf) then (defaultNan f, fNV)
    else if x.isInf || y.isInf then (signBit f n + infCode f, 0)
    else match x, y with
      | .fin _ m1 e1, .fin _ m2 e2 => fpRound f rm false n (m1 * m2) (e1 + e2) false
      | _, _ => (defaultNan f, 0)

/-- fusedMultiplyAdd(a, b, c): with 0 × ∞ and c a quiet NaN the result is c and invalid is not set (02 R39). -/
def fpFma (f : FpFmt) (rm : Rm) (a b c : Nat) : Nat × FFlags :=
  let x := fpDecode f a
  let y := fpDecode f b
  let z := fpDecode f c
  match firstNan f [x, y, z] with
  | some d => (d, snanFlag [x, y, z])
  | none =>
    let n := xor x.neg y.neg
    if (x.isInf && y.isZero) || (x.isZero && y.isInf) then (defaultNan f, fNV)
    else if x.isInf || y.isInf then fvAdd f rm (.inf n) z
    else match x, y, z with
      | .fin _ m1 e1, .fin _ m2 e2, .fin n3 m3 e3 =>
        let (s, m, e) := dyAdd rm n (m1 * m2) (e1 + e2) n3 m3 e3
        fpRound f rm false s m e false
      | _, _, .inf n3 => (signBit f n3 + infCode f, 0)
      | _, _, _ => (defaultNan f, 0)

/-- A quotient `m1 × 2^e1 / (m2 × 2^e2)` with at least `p` significant bits: magnitude, exponent, whether more lies
below. -/
def dyDiv (p : Nat) (m1 : Nat) (e1 : Int) (m2 : Nat) (e2 : Int) : Nat × Int × Bool :=
  let k := p + 2 + Nat.log2 m2
  let num := m1 <<< k
  (num / m2, e1 - e2 - k, decide (num % m2 ≠ 0))

/-- IEEE division. -/
def fpDiv (f : FpFmt) (rm : Rm) (a b : Nat) : Nat × FFlags :=
  let x := fpDecode f a
  let y := fpDecode f b
  match firstNan f [x, y] with
  | some c => (c, snanFlag [x, y])
  | none =>
    let n := xor x.neg y.neg
    if (x.isInf && y.isInf) || (x.isZero && y.isZero) then (defaultNan f, fNV)
    else if x.isInf then (signBit f n + infCode f, 0)
    else if y.isInf then (signBit f n, 0)
    else if y.isZero then (signBit f n + infCode f, fDZ)
    else match x, y with
      | .fin _ m1 e1, .fin _ m2 e2 =>
        let (m, e, st) := dyDiv (f.mw + 3) m1 e1 m2 e2
        fpRound f rm false n m e st
      | _, _ => (defaultNan f, 0)

/-- Integer square root, one result bit per unit of fuel. -/
def isqrtAux (n : Nat) : Nat → Nat → Nat
  | 0, r => r
  | k + 1, r => let t := r + 2 ^ k; isqrtAux n k (if t * t ≤ n then t else r)

def isqrt (n : Nat) : Nat := isqrtAux n (Nat.log2 n / 2 + 1) 0

/-- IEEE square root; √−0 is −0, and below zero it is invalid (02 R38). -/
def fpSqrt (f : FpFmt) (rm : Rm) (a : Nat) : Nat × FFlags :=
  let x := fpDecode f a
  match firstNan f [x] with
  | some c => (c, snanFlag [x])
  | none =>
    if x.isZero then (a, 0)
    else if x.neg then (defaultNan f, fNV)
    else match x with
      | .fin _ m e =>
        let k := 2 * f.mw + 8
        let k := if (e - k) % 2 = 0 then k else k + 1
        let n := m <<< k
        let r := isqrt n
        fpRound f rm false false r ((e - k) / 2) (decide (r * r ≠ n))
      | _ => (a, 0)

/-- The key whose unsigned order is totalOrder (02 R49). -/
def totalOrderKey (w code : Nat) : Nat :=
  let c := code % 2 ^ w
  if 2 ^ (w - 1) ≤ c then 2 ^ w - 1 - c else c + 2 ^ (w - 1)

/-- Whether `a < b` as real numbers or infinities, no operand NaN. -/
def fvLt : Fv → Fv → Bool
  | .inf n1, .inf n2 => n1 && !n2
  | .inf n1, _ => n1
  | _, .inf n2 => !n2
  | .fin n1 m1 e1, .fin n2 m2 e2 =>
    if m1 = 0 ∧ m2 = 0 then false
    else if m1 = 0 then !n2
    else if m2 = 0 then n1
    else if n1 != n2 then n1
    else if n1 then !dyLe m1 e1 m2 e2 else !dyLe m2 e2 m1 e1
  | _, _ => false

/-- Whether two values that are no NaN compare equal; −0 equals +0 (02 R41). -/
def fvEq (a b : Fv) : Bool := !fvLt a b && !fvLt b a

/-- minimum or maximum (IEEE 754-2019): a NaN operand gives the first NaN, quieted; −0 orders below +0 (02 R36, R39). -/
def fpMinMax (f : FpFmt) (mx : Bool) (a b : Nat) : Nat × FFlags :=
  let x := fpDecode f a
  let y := fpDecode f b
  match firstNan f [x, y] with
  | some c => (c, snanFlag [x, y])
  | none =>
    let w := fmtWidth f
    let aLe := totalOrderKey w a ≤ totalOrderKey w b
    (if aLe != mx then a else b, 0)

/-- minimumNumber or maximumNumber: a number wins over a NaN; a signalling NaN sets invalid (02 R36). -/
def fpMinMaxNum (f : FpFmt) (mx : Bool) (a b : Nat) : Nat × FFlags :=
  let x := fpDecode f a
  let y := fpDecode f b
  let fl := snanFlag [x, y]
  match x.isNan, y.isNan with
  | false, false => fpMinMax f mx a b
  | true, false => (b, fl)
  | false, true => (a, fl)
  | true, true => ((firstNan f [x, y]).getD a, fl)

/-- The comparisons of FCMP and VFCMP (05 R140). -/
inductive FCond
  | eq | ne | lt | le | gt | ge | slt | sle | sgt | sge | unord | totle
deriving DecidableEq, Repr

/-- The comparison an FN value names; others are unlisted (05 R140). -/
def fcondOf : Nat → Option FCond
  | 0 => some .eq | 1 => some .ne | 2 => some .lt | 3 => some .le | 4 => some .gt | 5 => some .ge
  | 8 => some .slt | 9 => some .sle | 10 => some .sgt | 11 => some .sge | 12 => some .unord | 13 => some .totle
  | _ => none

/-- A comparison: quiet ones raise invalid for a signalling NaN, signalling ones for any NaN, TOTLE nothing; with a NaN
only not-equal and UNORD hold (02 R41, R49). -/
def fpCompare (f : FpFmt) (c : FCond) (a b : Nat) : Bool × FFlags :=
  let x := fpDecode f a
  let y := fpDecode f b
  let un := x.isNan || y.isNan
  let q := snanFlag [x, y]
  let s := flagIf un fNV
  match c with
  | .eq => (!un && fvEq x y, q)
  | .ne => (un || !fvEq x y, q)
  | .lt => (!un && fvLt x y, q)
  | .le => (!un && !fvLt y x, q)
  | .gt => (!un && fvLt y x, q)
  | .ge => (!un && !fvLt x y, q)
  | .slt => (!un && fvLt x y, s)
  | .sle => (!un && !fvLt y x, s)
  | .sgt => (!un && fvLt y x, s)
  | .sge => (!un && !fvLt x y, s)
  | .unord => (un, q)
  | .totle => (totalOrderKey (fmtWidth f) a ≤ totalOrderKey (fmtWidth f) b, 0)

/-- Conversion between floating-point formats (02 R50, R51). A format converted to itself, which R51 does not class, keeps its value, with
NaNs quieted (DESIGN CHOICE, log 80). -/
def cvtFpFp (src dst : FpFmt) (rm : Rm) (sat : Bool) (code : Nat) : Nat × FFlags :=
  match fpDecode src code with
  | .nan n fr s =>
    let c := match dst.kind, src.kind with
      | .e4m3, _ => signBit dst n + 0x7F
      | _, .ieee =>
        let q := quietFrac src fr
        let p := if src.mw ≤ dst.mw then q <<< (dst.mw - src.mw) else q >>> (src.mw - dst.mw)
        signBit dst n + infCode dst + p
      | _, _ => signBit dst n + defaultNan dst
    (c, flagIf s fNV)
  | .inf n =>
    match dst.kind with
    | .e4m3 => if sat then (signBit dst n + maxCode dst, fNV ||| fSAT) else (signBit dst n + 0x7F, fNV)
    | _ => (signBit dst n + infCode dst, 0)
  | .fin n m e => fpRound dst rm sat n m e false

/-- The limits of an integer format. -/
def intLo (w : Nat) (sgn : Bool) : Int := if sgn then -((2 ^ (w - 1) : Nat) : Int) else 0
def intHi (w : Nat) (sgn : Bool) : Int := if sgn then (2 ^ (w - 1) : Nat) - 1 else (2 ^ w : Nat) - 1

/-- Conversion to an integer format, judged on the rounded integer (02 R52). -/
def cvtFpInt (src : FpFmt) (w : Nat) (sgn : Bool) (rm : Rm) (code : Nat) : Nat × FFlags :=
  match fpDecode src code with
  | .nan _ _ _ => (0, fNV)
  | .inf n => (ofSigned w (if n then intLo w sgn else intHi w sgn), fNV ||| fSAT)
  | .fin n m e =>
    let (k, inexact) := roundAt rm n m e false 0
    let v : Int := if n then -(k : Int) else k
    if v < intLo w sgn then (ofSigned w (intLo w sgn), fNV ||| fSAT)
    else if intHi w sgn < v then (ofSigned w (intHi w sgn), fNV ||| fSAT)
    else (ofSigned w v, flagIf inexact fNX)

/-- The integer a code of an integer format stands for (02 R46). -/
def intVal (w : Nat) (sgn : Bool) (code : Nat) : Int :=
  if sgn then toSigned w code else ((code % 2 ^ w : Nat) : Int)

/-- Conversion from an integer, an exact real value (02 R53). -/
def cvtIntFp (w : Nat) (sgn : Bool) (dst : FpFmt) (rm : Rm) (sat : Bool) (code : Nat) : Nat × FFlags :=
  let v := intVal w sgn code
  fpRound dst rm sat (decide (v < 0)) v.natAbs 0 false

/-- Conversion between integer formats: clamps and sets SAT (02 R54). -/
def cvtIntInt (w : Nat) (sgn : Bool) (w' : Nat) (sgn' : Bool) (code : Nat) : Nat × FFlags :=
  let v := intVal w sgn code
  if v < intLo w' sgn' then (ofSigned w' (intLo w' sgn'), fSAT)
  else if intHi w' sgn' < v then (ofSigned w' (intHi w' sgn'), fSAT)
  else (ofSigned w' v, 0)

/-- A conversion between two single-value types; none when a type is a block type (02 R33, R50 to R54). The result is a
code of the target's width. -/
def cvtTy (src dst : Ty) (rm : Rm) (sat : Bool) (code : Nat) : Option (Nat × FFlags) :=
  match fpOfTy src, intOfTy src, fpOfTy dst, intOfTy dst with
  | some f, _, some g, _ => some (cvtFpFp f g rm sat code)
  | some f, _, _, some (w, s) => some (cvtFpInt f w s rm code)
  | _, some (w, s), some g, _ => some (cvtIntFp w s g rm sat code)
  | _, some (w, s), _, some (w', s') => some (cvtIntInt w s w' s' code)
  | _, _, _, _ => none

end Sys2Proof.Machine
end

