-- ==== Sys2Proof/Machine/Block.lean ====
section
/-! DEFINITION. Microscaling and EB4 blocks: packing, quantisation and decoding (02 R55 to R66). -/
namespace Sys2Proof.Machine

/-- The element of a block type: a small float format, or MXINT8's k × 2^-6 (02 R44, R46). -/
inductive ElemFmt
  | fp (f : FpFmt)
  | mxi8
deriving DecidableEq, Repr

/-- The element format of a block type (05 R137). -/
def elemOfTy : Ty → Option ElemFmt
  | .mx8e4 => some (.fp fE4M3) | .mx8e5 => some (.fp fE5M2) | .mx6e3 => some (.fp fE3M2)
  | .mx6e2 => some (.fp fE2M3) | .mx4 => some (.fp fE2M1) | .mxi8 => some .mxi8
  | .eb4 => some (.fp fE2M1) | _ => none

/-- Width of an element code. -/
def elemWidth : ElemFmt → Nat
  | .fp f => fmtWidth f
  | .mxi8 => 8

/-- The exponent of the top binade (02 R58). -/
def elemEmax : ElemFmt → Int
  | .fp f =>
    match f.kind with
    | .ieee => (2 ^ f.ew - 2 : Nat) - (f.bias : Int)
    | _ => (2 ^ f.ew - 1 : Nat) - (f.bias : Int)
  | .mxi8 => 0

/-- The value of an element code (02 R55). -/
def elemDecode : ElemFmt → Nat → Fv
  | .fp f, c => fpDecode f c
  | .mxi8, c => let v := toSigned 8 c; .fin (decide (v < 0)) v.natAbs (-6)

/-- What quantising one value gives: its code, its flags, and whether a non-zero input became ±0. -/
structure Quant where
  code : Nat
  flags : FFlags
  lost : Bool
deriving DecidableEq, Repr

/-- Rounds an exact value (`sticky`: more below) to an element, to nearest, ties to even, clamped (02 R58); OF is never
set. -/
def quantElem (ef : ElemFmt) (neg : Bool) (m : Nat) (e : Int) (sticky : Bool) : Quant :=
  match ef with
  | .fp f =>
    let (c, fl) := fpRound f .ne true neg m e sticky
    ⟨c, fl &&& ~~~fOF, m != 0 && c % 2 ^ (f.ew + f.mw) = 0⟩
  | .mxi8 =>
    let (k, inexact) := roundAt .ne neg m e sticky (-6)
    let v : Int := if neg then -(k : Int) else k
    let clamped := v < -128 || 127 < v
    let v' := max (-128) (min 127 v)
    ⟨ofSigned 8 v', flagIf inexact fNX ||| flagIf (inexact && k = 0) fUF ||| flagIf clamped fSAT, m != 0 && k = 0⟩

/-- The result of quantising a block: scale byte, element codes, flags, lost elements. -/
structure QBlock where
  scale : Nat
  codes : List Nat
  flags : FFlags
  lost : Nat
deriving DecidableEq, Repr

/-- The largest finite magnitude among the inputs, as a dyadic; (0, 0) for none. -/
def amaxOf : List Fv → Nat × Int
  | [] => (0, 0)
  | .fin _ m e :: vs =>
    let (m', e') := amaxOf vs
    if m = 0 then (m', e') else if m' = 0 then (m, e) else if dyLe m e m' e' then (m', e') else (m, e)
  | _ :: vs => amaxOf vs

def sumQuant (scale : Nat) (qs : List Quant) (fl : FFlags) : QBlock :=
  ⟨scale, qs.map (·.code), qs.foldl (fun a q => a ||| q.flags) fl, (qs.filter (·.lost)).length⟩

/-- MX quantisation of one block (02 R58, R59, R61). -/
def mxQuantise (ef : ElemFmt) (vs : List Fv) : QBlock :=
  if vs.any (fun v => v.isNan || v.isInf) then
    ⟨0xFF, vs.map (fun _ => 0), flagIf (vs.any (fun v => v.isSnan || v.isInf)) fNV, 0⟩
  else
    let (am, ae) := amaxOf vs
    let x : Int := if am = 0 then -127 else max (-127) (min 127 (topExp am ae - elemEmax ef))
    let qs := vs.map (fun v => match v with
      | .fin n m e => quantElem ef n m (e - x) false
      | _ => ⟨0, 0, false⟩)
    sumQuant (x + 127).toNat qs 0

/-- Decodes one MX element under scale code `s` to FP32 or BF16 (02 R60). -/
def mxDecode (ef : ElemFmt) (dst : FpFmt) (s c : Nat) : Nat × FFlags :=
  if s = 0xFF then (defaultNan dst, 0)
  else match elemDecode ef c with
    | .nan _ _ _ => (defaultNan dst, 0)
    | .inf n => (signBit dst n + infCode dst, 0)
    | .fin n m e => fpRound dst .ne false n m (e + (s : Int) - 127) false

/-- Whether an EB4 tensor scale is finite, positive and normal (02 R63). -/
def eb4ScaleOk (t : Nat) : Bool := t < 2 ^ 31 && 0 < bitsOf t 30 23 && bitsOf t 30 23 < 255

/-- The exact dyadic value of a positive finite FP32 code. -/
def posVal (t : Nat) : Nat × Int :=
  match fpDecode fFP32 t with
  | .fin _ m e => (m, e)
  | _ => (0, 0)

/-- EB4 quantisation of one block under tensor scale `t` (02 R64). -/
def eb4Quantise (t : Nat) (vs : List Fv) : QBlock :=
  if vs.any (fun v => v.isNan || v.isInf) then
    ⟨0x7F, vs.map (fun _ => 0), flagIf (vs.any (fun v => v.isSnan || v.isInf)) fNV, 0⟩
  else
    let (am, ae) := amaxOf vs
    if am = 0 then ⟨0, vs.map (fun v => if v.neg then 8 else 0), 0, 0⟩
    else
      let (tm, te) := posVal t
      let (qm, qe, qs) := dyDiv 8 am ae (6 * tm) te
      let (sc, sfl) := fpRound fE4M3 .up true false qm qe qs
      let (sm, se) := match fpDecode fE4M3 sc with | .fin _ m e => (m, e) | _ => (1, 0)
      let els := vs.map (fun v => match v with
        | .fin n m e =>
          if m = 0 then ⟨if n then 8 else 0, 0, false⟩
          else
            let (rm, re, rs) := dyDiv 8 m e (tm * sm) (te + se)
            quantElem (.fp fE2M1) n rm re rs
        | _ => ⟨0, 0, false⟩)
      sumQuant sc els (sfl &&& fSAT)

/-- Decodes one EB4 element under tensor scale `t` and block scale code `s` (02 R65). -/
def eb4Decode (dst : FpFmt) (t s c : Nat) : Nat × FFlags :=
  match fpDecode fE4M3 s, fpDecode fE2M1 c with
  | .fin n1 m1 e1, .fin n2 m2 e2 =>
    let (tm, te) := posVal t
    fpRound dst .ne false (xor n1 n2) (tm * m1 * m2) (te + e1 + e2) false
  | _, _ => (defaultNan dst, 0)

/-- Elements of a packed byte string: code `i` of width `w` lies in bits [w × i + w − 1 : w × i] (02 R57; the 3-byte
words of 6-bit elements are the same bit order). -/
def unpackCodes (w n : Nat) (bs : List Byte) : List Nat :=
  let v := natLE bs
  (List.range n).map (fun i => (v >>> (w * i)) % 2 ^ w)

/-- Packs codes of width `w` into bytes (02 R57). -/
def packCodes (w : Nat) (cs : List Nat) : List Byte := bytesLE (ceilDiv (w * cs.length) 8) (packNat w cs)

/-- BLOCK_UNDERFLOW after `n` lost elements: saturating (02 R66). -/
def addSat32 (v : Word) (n : Nat) : Word := BitVec.ofNat 32 (min (2 ^ 32 - 1) (v.toNat + n))

end Sys2Proof.Machine
end

