-- ==== Sys2Proof/Machine/Dot.lean ====
section
/-! DEFINITION. The group step of a matrix dot product, the random word of stochastic rounding, and the format classes of
the matrix unit (03 R67 to R82). -/
namespace Sys2Proof.Machine

/-- The format classes (03 R69). -/
inductive MClass
  | f64 | f32 | h16 | q8 | i8 | q4 | i4
deriving DecidableEq, Repr

/-- The class of an operand type; INT32 is no operand (03 R69). -/
def classOfTy : Ty → Option MClass
  | .fp64 => some .f64 | .fp32 => some .f32 | .fp16 => some .h16 | .bf16 => some .h16
  | .e4m3 => some .q8 | .e5m2 => some .q8 | .mx8e4 => some .q8 | .mx8e5 => some .q8
  | .mx6e3 => some .q8 | .mx6e2 => some .q8 | .mxi8 => some .q8
  | .int8 => some .i8 | .uint8 => some .i8 | .mx4 => some .q4 | .eb4 => some .q4 | .int4 => some .i4
  | .int32 => none

/-- Group size (03 R69). -/
def groupSize : MClass → Nat
  | .f64 => 4 | .f32 => 4 | .h16 => 8 | _ => 16

/-- Elements of one lane's step: G, but one in class F64 (05 R148, R149). -/
def laneElems : MClass → Nat
  | .f64 => 1 | c => groupSize c

/-- Output lanes per issue cycle (03 R69). -/
def lanesOfClass : MClass → Nat
  | .f64 => 1 | .f32 => 1 | .q4 => 8 | .i4 => 8 | _ => 4

/-- Elements in the A latch (05 R148). -/
def latchElems : MClass → Nat
  | .f64 => 8 | .f32 => 16 | .h16 => 32 | .q4 => 128 | .i4 => 128 | _ => 64

/-- Elements of one B step (05 R148). -/
def stepElems : MClass → Nat
  | .f64 => 1 | .f32 => 4 | .h16 => 32 | .q4 => 128 | .i4 => 128 | _ => 64

/-- Accumulator formats (03 R68, the AF field of 05 R138). -/
inductive AccFmt
  | fp32 | fp64 | int32
deriving DecidableEq, Repr

def accOfCode : Nat → Option AccFmt
  | 0 => some .fp32 | 1 => some .fp64 | 2 => some .int32 | _ => none

/-- Whether a class may accumulate in a format (03 R69). -/
def accAllowed : MClass → AccFmt → Bool
  | .f64, .fp64 => true | .f32, .fp32 => true | .f32, .fp64 => true
  | .h16, .fp32 => true | .q8, .fp32 => true | .q4, .fp32 => true
  | .i8, .int32 => true | .i4, .int32 => true | _, _ => false

/-- The type a running sum of an accumulator format has. -/
def tyOfAcc : AccFmt → Ty
  | .fp32 => .fp32 | .fp64 => .fp64 | .int32 => .int32

/-- The floating-point format of an accumulator (INT32 has none and never asks). -/
def fpOfAcc : AccFmt → FpFmt
  | .fp64 => fFP64 | _ => fFP32

/-- Guard bits (03 R74). -/
def guardBits : MClass → Nat
  | .f64 => 3 | .f32 => 3 | _ => 8

/-- An operand of a group step in the accumulator's terms: a NaN (its quieted code, whether it signals), an infinity, or
an exact number (03 R72). -/
inductive Opnd
  | nan (code : Nat) (sig : Bool)
  | inf (neg : Bool)
  | fin (neg : Bool) (m : Nat) (e : Int)
deriving DecidableEq, Repr

def Opnd.isZero : Opnd → Bool | .fin _ m _ => m == 0 | _ => false
def Opnd.isSig : Opnd → Bool | .nan _ s => s | _ => false
def Opnd.neg : Opnd → Bool | .nan _ _ => false | .inf n => n | .fin n _ _ => n

/-- A decoded plain float as an operand (03 R72). -/
def opndOfFv (src acc : FpFmt) (code : Nat) : Opnd :=
  match fpDecode src code with
  | .nan _ _ s => .nan (cvtFpFp src acc .ne false code).1 s
  | .inf n => .inf n
  | .fin n m e => .fin n m e

/-- An operand from its element code, its block scale byte and tensor scale (03 R72). -/
def mkOpnd (ty : Ty) (acc : FpFmt) (t scale code : Nat) : Opnd :=
  match fpOfTy ty, intOfTy ty, ty, elemOfTy ty with
  | some f, _, _, _ => opndOfFv f acc code
  | _, some (w, sgn), _, _ => let v := intVal w sgn code; .fin (decide (v < 0)) v.natAbs 0
  | _, _, .eb4, _ =>
    match fpDecode fE4M3 scale, fpDecode fE2M1 code with
    | .fin n1 m1 e1, .fin n2 m2 e2 =>
      let (tm, te) := posVal t
      .fin (xor n1 n2) (tm * m1 * m2) (te + e1 + e2)
    | _, _ => .nan (defaultNan acc) false
  | _, _, _, some ef =>
    if scale = 0xFF then .nan (defaultNan acc) false
    else match elemDecode ef code with
      | .nan _ _ _ => .nan (defaultNan acc) false
      | .inf n => .inf n
      | .fin n m e => .fin n m (e + (scale : Int) - 127)
  | _, _, _, none => .fin false 0 0

/-- One addend of a group: sign, magnitude, exponent. -/
abbrev Addend := Bool × Nat × Int

/-- What a pair of operands contributes (03 R73): a finite product, or one of the special findings. -/
inductive Contribution
  | addend (t : Addend)
  | nan (code : Nat) (sig : Bool)
  | invalid
  | infinite (neg : Bool)
deriving DecidableEq, Repr

def contribution : Opnd × Opnd → Contribution
  | (.nan c s, b) => .nan c (s || b.isSig)
  | (_, .nan c s) => .nan c s
  | (.fin n1 m1 e1, .fin n2 m2 e2) => .addend (xor n1 n2, m1 * m2, e1 + e2)
  | (a, b) => if a.isZero || b.isZero then .invalid else .infinite (xor a.neg b.neg)

/-- The largest floor-log2 among the non-zero addends (03 R73). -/
def emaxOf : List Addend → Option Int
  | [] => none
  | (_, m, e) :: ts =>
    match emaxOf ts with
    | none => if m = 0 then none else some (topExp m e)
    | some x => if m = 0 then some x else some (max x (topExp m e))

/-- An addend cut to a multiple of `2^q`: its signed multiple, and whether bits were dropped (03 R73). -/
def cutAddend (q : Int) : Addend → Int × Bool
  | (n, m, e) =>
    let (k, d) := if q ≤ e then (m <<< (e - q).toNat, false)
      else (m >>> (q - e).toNat, m % 2 ^ (q - e).toNat != 0)
    (if n then -(k : Int) else k, d)

/-- The finite part of a group step: truncate to the window, sum exactly, round once (03 R73 to R75). -/
def finitePart (f : FpFmt) (g : Nat) (rm : Rm) (ts : List Addend) : Nat × FFlags :=
  match emaxOf ts with
  | none => (signBit f (ts.all (·.1)), 0)
  | some emax =>
    let q := emax - f.mw - g
    let cuts := ts.map (cutAddend q)
    let sum := cuts.foldl (fun a c => a + c.1) (0 : Int)
    let dropped := cuts.any (·.2)
    let (c, fl) := if sum = 0 then (0, 0) else fpRound f rm false (decide (sum < 0)) sum.natAbs q false
    (c, fl ||| flagIf dropped fNX)

/-- A group step on a floating-point running sum: the new sum and the flags (03 R73, R75 to R77). -/
def groupStep (f : FpFmt) (g : Nat) (rm : Rm) (s : Nat) (ops : List (Opnd × Opnd)) : Nat × FFlags :=
  let sum := fpDecode f s
  let cs := ops.map contribution
  let adds := (match sum with | .fin n m e => [(n, m, e)] | _ => []) ++
    cs.filterMap (fun c => match c with | .addend t => some t | _ => none)
  let (r, fl) := finitePart f g rm adds
  let nans := (match sum with | .nan n fr _ => [nanCode f n fr] | _ => []) ++
    cs.filterMap (fun c => match c with | .nan c _ => some c | _ => none)
  let sig := cs.any (fun c => match c with | .nan _ s => s | _ => false)
  let inv := cs.any (fun c => match c with | .invalid => true | _ => false)
  let pinf := (match sum with | .inf false => true | _ => false) ||
    cs.any (fun c => match c with | .infinite false => true | _ => false)
  let ninf := (match sum with | .inf true => true | _ => false) ||
    cs.any (fun c => match c with | .infinite true => true | _ => false)
  match nans with
  | c :: _ => (c, fl ||| flagIf sig fNV)
  | [] =>
    if inv || (pinf && ninf) then (defaultNan f, fl ||| fNV)
    else if pinf then (infCode f, fl)
    else if ninf then (signBit f true + infCode f, fl)
    else (r, fl)

/-- A group step of an integer class on the exact running sum (03 R82). -/
def intStep (s : Int) (ops : List (Opnd × Opnd)) : Int :=
  let prod : Opnd × Opnd → Int := fun p =>
    match contribution p with
    | .addend (n, m, _) => if n then -(m : Int) else m
    | _ => 0
  ops.foldl (fun a p => a + prod p) s

/-- The exact running sum lies outside the INT32 range (03 R82). -/
def intWraps (v : Int) : Bool := v < intLo 32 true || intHi 32 true < v

/-- One round of Philox4x32 (03 R80 names the generator Philox4x32-10; its constants are the published ones, log 20). -/
def philoxRound (k0 k1 : Nat) (c : Nat × Nat × Nat × Nat) : Nat × Nat × Nat × Nat :=
  let p0 := 0xD2511F53 * c.1
  let p1 := 0xCD9E8D57 * c.2.2.1
  let hi := fun (p : Nat) => p / 2 ^ 32
  let lo := fun (p : Nat) => p % 2 ^ 32
  ((hi p1 ^^^ c.2.1) ^^^ k0, lo p1, (hi p0 ^^^ c.2.2.2) ^^^ k1, lo p0)

/-- Rounds with the key bumped after each. -/
def philoxRounds : Nat → Nat → Nat → Nat × Nat × Nat × Nat → Nat × Nat × Nat × Nat
  | 0, _, _, c => c
  | n + 1, k0, k1, c =>
    philoxRounds n ((k0 + 0x9E3779B9) % 2 ^ 32) ((k1 + 0xBB67AE85) % 2 ^ 32) (philoxRound k0 k1 c)

/-- Word x0 of Philox4x32-10 (03 R80). -/
def philoxX0 (k0 k1 c0 c1 c2 c3 : Nat) : Nat := (philoxRounds 10 k0 k1 (c0, c1, c2, c3)).1

/-- The random word of one rounding: key, sequence, accumulator index, step, core, module index (03 R80). -/
def randomWord (k0 k1 seq idx step coreIdx mod : Nat) : Nat :=
  philoxX0 k0 k1 (seq % 2 ^ 32) ((seq >>> 32) % 2 ^ 16 + (idx <<< 16)) step (coreIdx + (mod <<< 20))

/-- Sum of two running sums as the plucked spill adds them: spill accumulator first, FP32 sum widened (03 R84). -/
def spillAdd (spill sum32 : Nat) : Nat × FFlags :=
  let (w, fl) := cvtFpFp fFP32 fFP64 .ne false sum32
  let (r, fl') := fpAdd fFP64 .ne spill w
  (r, fl ||| fl')

end Sys2Proof.Machine
end

