-- ==== Sys2Proof/Machine/CoreState.lean ====
section
/-! DEFINITION. The state of one logical core (04 R96) and of the compute plane's own parts: what the pipelines, the
operand streams, the sequencer, the sparse unit and the static mesh hold. -/
namespace Sys2Proof.Machine

/-- Accumulation modes (03 R83). -/
inductive AccMode
  | direct | plucked | bowed
deriving DecidableEq, Repr

/-- What an entry was initialised with (03 R84, 05 R149): `live` since the Plane reset, format, mode, the latched spill
interval and spill word. -/
structure AccCtx where
  live : Bool
  fmt : AccFmt
  mode : AccMode
  pluckS : Nat
  spillAt : Nat
deriving DecidableEq, Repr

def AccCtx.reset : AccCtx := ⟨false, .fp32, .direct, 0, 0⟩

/-- An accumulator entry (03 R68): how it was initialised, the format its running sum stands in until the pipeline starts it
anew (03 R92), the elements of its open group with the class and selector of the last MMA that appended, its running sum, its
plucked and bowed group counts, and in INT32 the exact sum that the running sum is kept of modulo 2^32 (03 R82). -/
structure AccEntry where
  ctx : AccCtx
  sumFmt : AccFmt
  opn : List (Opnd × Opnd)
  cls : MClass
  sr : Bool
  sum : DWord
  pluckN : Nat
  groups : Nat
  exact : Int
deriving DecidableEq, Repr

def AccEntry.reset : AccEntry := ⟨.reset, .fp32, [], .f32, false, 0, 0, 0, 0⟩

/-- A drain latch word and the format it was captured in (03 R91). -/
structure LatchEntry where
  val : DWord
  fmt : AccFmt
deriving DecidableEq, Repr

def LatchEntry.reset : LatchEntry := ⟨0, .fp32⟩

/-- What the matrix pipeline will do to an entry or a tile at an issue cycle (03 R89, R91, 05 R150). -/
inductive MxAct
  | group (idx : Nat) (pairs : List (Opnd × Opnd)) (ctx : AccCtx) (cls : MClass) (sr : Bool)
  | start (idx : Nat) (ctx : AccCtx)
  | drain (idx : Nat) (ctx : AccCtx)
  | load (idx : Nat) (fmt : AccFmt) (val : DWord) (oldSpill : Option Nat)
  | clearLatch (idx : Nat) (fmt : AccFmt)
deriving DecidableEq, Repr

/-- An action of the matrix pipeline, when it is due, and the index of the instruction it comes from. -/
structure MxEvent where
  due : Nat
  act : MxAct
  pc : Nat
deriving DecidableEq, Repr

/-- An operand stream (05 R146 to R148); positions are in bytes, `lines` the last two lines read, latest first. -/
structure Stream where
  loaded : Bool
  base : Nat
  len : Nat
  ty : Ty
  koff : Nat
  t : Nat
  pos : Nat
  scales : VWord
  scalePos : Nat
  lines : List (Nat × VWord)
deriving DecidableEq, Repr

def Stream.reset : Stream := ⟨false, 0, 0, .fp64, 0, 0, 0, 0, 0, []⟩

/-- The A latch: its type, its elements each with its block's scale byte, and T (05 R148). -/
structure ALatch where
  ty : Ty
  elems : List (Nat × Nat)
  t : Nat
deriving DecidableEq, Repr

/-- The resources an instruction occupies (04 R98); `acc` stands for the accumulator tiles a sequencer holds (05 R155),
`slot` for a serving slot (04 R104), `spu` for the sparse unit. -/
inductive Res
  | fpd | mxt | div | viu | siu | lsp | smi | obp | acc | slot
deriving DecidableEq, Repr

/-- A resource occupied in issue cycles `lo` to `hi - 1`. -/
structure Busy where
  res : Res
  lo : Nat
  hi : Nat
deriving DecidableEq, Repr

/-- Where a result goes: registers, a per-core register by its offset and size, or `n` bytes of a store. -/
inductive Dst
  | s (i : Nat) | p (i : Nat) | v (i : Nat) | rx (i : Nat) | vrx (i : Nat)
  | csr (off size : Nat) | ls (a n : Nat) | is (a n : Nat)
deriving DecidableEq, Repr

/-- A result on its way: readable by instructions issued in cycle `due` or later (04 R98, R99). -/
structure Wb where
  due : Nat
  dst : Dst
  val : Nat
deriving DecidableEq, Repr

/-- An access of the core to its sliver, done in the slot that begins at issue cycle `slotAt` (04 R104): a read toward `dst`,
or a write of `data`; and the index of the instruction. -/
structure SlotOp where
  slotAt : Nat
  off : Nat
  dst : Option Dst
  data : VWord
  pc : Nat
deriving DecidableEq, Repr

/-- When a landing buffer is complete (04 R120, 05 R155, 06 R180): at COUNT = LEN, or at a total that may be known only
later. -/
inductive LandRule
  | plain
  | counted (total : Option Nat)
deriving DecidableEq, Repr

/-- A landing buffer, CORE_LBn (04 R120, R122). -/
structure LandBuf where
  base : Nat
  len : Nat
  count : Nat
  armed : Bool
  gated : Bool
  overfill : Bool
  rule : LandRule
deriving DecidableEq, Repr

def LandBuf.reset : LandBuf := ⟨0, 0, 0, false, false, false, .plain⟩

/-- A collective contribution as a fused instruction posts it (05 R154, R155, 11 R286): KIND, course entry, ordinal on that
course in the step, and the fields its frames carry; `vals` are bytes taken at issue, `ranges` the local-store ranges
read later, one per rank or one alone. -/
structure CollPost where
  kind : Nat
  ct : Nat
  seq : Nat
  rlb : Nat
  nlb : Nat
  tyb : Nat
  wire : Nat
  rop : Nat
  exact : Bool
  n : Nat
  kp : Nat
  root : Nat
  vals : List Byte
  ranges : List (Nat × Nat)
deriving DecidableEq, Repr

/-- What an outbox entry asks the tile agent for (04 R117, R118, 05 R155, 06 R177). -/
inductive ObKind
  | desc (bytes : List Byte)
  | merge (bytes : List Byte)
  | coll (p : CollPost)
deriving DecidableEq, Repr

/-- An outbox entry and the issue cycle of its post. -/
structure ObEntry where
  posted : Nat
  kind : ObKind
deriving DecidableEq, Repr

/-- Payload bytes [lo, hi) protected until the gate point of a GATE that names the outbox and issues in cycle `gateFrom` or later
(04 R119). -/
structure Protect where
  gateFrom : Nat
  lo : Nat
  hi : Nat
deriving DecidableEq, Repr

/-- The conditions a core can hold the plane for (01 R25, 04 R123, R124, 05 R151, R155, 06 R159); `fence` never holds: it
is the fence side of a STEPEND, which takes a KEY_FAULT at its gate point (05 R151). -/
inductive GateKind
  | gate (mask : Nat)
  | outbox
  | spjoin
  | capo
  | fence
  | seqBuf (b : Nat)
deriving DecidableEq, Repr

/-- A gate in flight: issued at `g`, its point at g + 39; `ok` once a test found it satisfied. -/
structure Gate where
  g : Nat
  pc : Nat
  kind : GateKind
  ok : Bool
deriving DecidableEq, Repr

/-- The fault record of a core, CORE_FAULT (05 R157). -/
structure CoreFault where
  code : Nat
  pc : Nat
  more : Bool
  issue : Nat
deriving DecidableEq, Repr

def CoreFault.none : CoreFault := ⟨0, 0, false, 0⟩

/-- The sequencer of MM.AG and MM.RS (05 R155): its start cycle, geometry, and the pieces of B: for each its array address
in local store, with the landing buffer that must be complete before its first cycle. -/
structure Seq where
  start : Nat
  next : Nat
  pc : Nat
  n : Nat
  kp : Nat
  tya : Ty
  tyb : Ty
  cls : MClass
  fmt : AccFmt
  mode : AccMode
  sr : Bool
  drain : Bool
  msa : Nat
  msb : Nat
  pieces : List (Option Nat)
  gates : List (Nat × Nat)
  aGroup : List (Nat × Nat)
  post : Option CollPost
deriving DecidableEq, Repr

/-- What a sparse-unit run leaves for the join (06 R161): status, run length, flags, counter additions, and the fault that
halts there; `ras` is SRAM_UE where the run met an uncorrectable word, `check` an upset it met (17 R441, R445). -/
structure SparseRes where
  fcode : Nat
  frow : Nat
  run : Nat
  flags : FFlags
  mx : BitVec 2
  skipped : Nat
  missed : Nat
  halt : Bool
  ras : Nat
  check : Bool
deriving DecidableEq, Repr

def SparseRes.none : SparseRes := ⟨0, 0, 0, 0, 0, 0, 0, false, 0, false⟩

/-- The sparse unit (06 R158, R169): idle; running on a descriptor read at issue, from the tuning count after the one it
issued at to the count from which it is idle; or finished and waiting for a join. -/
inductive SparseUnit
  | idle
  | running (op : Nat) (desc : List Byte) (start : Nat) (idleAt : Nat)
  | finished (r : SparseRes)
deriving DecidableEq, Repr

/-- What the matrix pipeline of a core found when issue cycle `n` began, and the actions it ran in it: an ACCINIT or ACCLD of
that cycle still discards its entries' group steps (05 R150). -/
structure MxUndo where
  n : Nat
  acc : SMap AccEntry
  latch : SMap LatchEntry
  fpstat : Word
  mxstat : Word
  srseq : BitVec 48
  spill : List Wb
  ran : List MxEvent
deriving DecidableEq, Repr

/-- An error that stands in a memory word: the array as 17 R444 numbers them, the index, what the word held when it was struck, and
whether it is uncorrectable (17 R442 to R444; log 87). -/
structure Mark where
  arr : Nat
  idx : Nat
  held : Nat
  ue : Bool
deriving DecidableEq, Repr

/-- An upset of a datapath, waiting for the next operation its residue code checks: the unit, by how much the checked value is off, and
the bits of the result it changes (17 R440; log 88). Units: 0 SIU, 1 VIU, 2 FPD, 3 MXT, 4 DIV, 5 address formation, 6 sparse unit;
8 a crossing queue at the core's router, whose next word comes late (04 R114). -/
structure Upset where
  unit : Nat
  err : Int
  flip : Nat
deriving DecidableEq, Repr

/-- The errors of a core: in its memories, in its datapaths, the halts that uncorrectable reads bring (issue cycle, index, code; 17 R445),
and the TIL_ERRCNT numbers of events not counted yet. -/
structure Ecc where
  marks : List Mark
  upsets : List Upset
  due : List (Nat × Nat × Nat)
  counts : List Nat
deriving DecidableEq, Repr

def Ecc.none : Ecc := ⟨[], [], [], []⟩

/-- One logical core (04 R96). `naks` are the KEY_FAULT and ADDRESS answers not yet taken, with the issue cycle of the request's
post (12 R321); `sparseAt` the issue cycle of the last sparse-unit instruction, which is outstanding while `sparseOut`
(06 R160); `last` the index of the instruction issued last. -/
structure Core where
  next : Nat
  halted : Bool
  pc : Nat
  brs : List (Nat × Nat)
  s : Vector Word 32
  p : Vector Bool 8
  v : Vector VWord 16
  rx : Vector DWord 8
  vrx : Vector VWord 4
  acc : SMap AccEntry
  latch : SMap LatchEntry
  mx : List MxEvent
  streams : Vector Stream 4
  aLatch : Option ALatch
  ls : Memory
  is : Memory
  lb : SMap LandBuf
  outbox : List ObEntry
  prot : List Protect
  capo : Nat
  mfSeq : Nat
  naks : List (Nat × Nat)
  fused : List CollPost
  collOrd : SMap Nat
  lateFlags : List (Nat × FFlags × BitVec 2)
  fault : CoreFault
  fpctl : Word
  fpstat : Word
  blkuf : Word
  mxstat : Word
  mxctl : Word
  srseq : BitVec 48
  spstat : Word
  spcyc : DWord
  spskip : DWord
  sparse : SparseUnit
  sparseOut : Bool
  sparseAt : Nat
  busy : List Busy
  wb : List Wb
  spill : List Wb
  slots : List SlotOp
  gates : List Gate
  seq : Option Seq
  undo : Option MxUndo
  last : Nat
  ecc : Ecc
deriving DecidableEq, Repr

/-- A core after a Plane reset (16 R425, R433). What the spec gives no reset value for (the registers, the accumulators'
contents, the A latch) is zero or empty: DESIGN CHOICE, log 6. -/
def Core.reset : Core where
  next := 0
  halted := false
  pc := 0
  brs := []
  s := Vector.replicate 32 0
  p := Vector.replicate 8 false
  v := Vector.replicate 16 0
  rx := Vector.replicate 8 0
  vrx := Vector.replicate 4 0
  acc := []
  latch := []
  mx := []
  streams := Vector.replicate 4 Stream.reset
  aLatch := none
  ls := []
  is := []
  lb := []
  outbox := []
  prot := []
  capo := 0
  mfSeq := 0
  naks := []
  fused := []
  collOrd := []
  lateFlags := []
  fault := CoreFault.none
  fpctl := 0
  fpstat := 0
  blkuf := 0
  mxstat := 0
  mxctl := 0x001700FF
  srseq := 0
  spstat := 0
  spcyc := 0
  spskip := 0
  sparse := .idle
  sparseOut := false
  sparseAt := 0
  busy := []
  wb := []
  spill := []
  slots := []
  gates := []
  seq := none
  undo := none
  last := 0
  ecc := Ecc.none

/-- A word on the static mesh (04 R112, R113): who sent it, the index of the sending instruction, the cycle it was
injected, its offsets, its place in a vector (0 to 7) and its target register. -/
structure MeshWord where
  src : Nat
  pc : Nat
  sent : Nat
  born : Nat
  dx : Int
  dy : Int
  vec : Bool
  part : Nat
  idx : Nat
  data : Nat
deriving DecidableEq, Repr

/-- TUN_RUNSTAT.RUN (13 R355). -/
inductive RunState
  | idle | armed | running | paused
deriving DecidableEq, Repr

/-- How the last run ended, SP_RUNEND.RESULT (14 R388). -/
inductive RunResult
  | none | complete | failed | aborted
deriving DecidableEq, Repr

/-- The compute plane as a whole (01 R21, R25; 13 R349 to R355): run state and launch, the issue cycle that issues now
(TIL_ISSUECNT), a hold in force with its first count, the halting issue cycle once a halt-class fault is met and
the core it is reported for, the issue cycle of the step end under way and whether a test has found it satisfied, the words on
the static mesh, the tiles whose core faults of this step the fault log holds, with the entry (17 R439), the release count whose
conditions have been sampled, with the causes found (04 R125), and the cores that have issued in the present cycle, whether with
STEPEND, as each stood before (05 R152). -/
structure Plane where
  run : RunState
  resume : Bool
  preq : Bool
  at_ : Nat
  cyc : Nat
  held : Bool
  holdAt : Nat
  contAt : Option Nat
  halted : Option Nat
  haltBy : Nat
  stepEnd : Option Nat
  stepOk : Bool
  mesh : List MeshWord
  logged : List (Nat × Option Nat)
  sample : Option (Nat × Nat)
  issued : List (Nat × Bool × Core)
deriving DecidableEq, Repr

def Plane.reset : Plane := ⟨.idle, false, false, 0, 0, false, 0, none, none, 0, none, false, [], [], none, []⟩

end Sys2Proof.Machine
end

