-- ==== Sys2Proof/Machine/FabricState.lean ====
section
/-! DEFINITION. What the dynamic plane holds: frames, the links, the Bridges' receive spaces, queues, spill and schedulers,
the Saddle engines, the tile agents with their tables, and the sliver ports (04, 07 to 12). -/
namespace Sys2Proof.Machine

/-- A frame as it stands in a buffer (08 R211, R212): the 32 header bytes with byte 0 in bits [7:0], the payload, and the
trailer. -/
structure Frame where
  hdr : BitVec 256
  payload : List Byte
  crc : BitVec 32
deriving DecidableEq, Repr

-- Links -------------------------------------------------------------------------------------------------------------

/-- A frame handed to a link: how many of its flits are not yet acknowledged, the Bridge and VOQ it came from, and whether a step
abort has discarded it since, so that only its numbered flits remain (07 R209; 08 R234; 18 R471). -/
structure Sent where
  frame : Frame
  left : Nat
  die : Nat
  q : Nat
  dead : Bool
deriving DecidableEq, Repr

/-- The link layer of one Bridge (07 R191, R192; 08 R217; 18 R470 to R472). Credits held, credits to return, and the credits this
end advertises in this training. Sending: the frames handed to the link, how many of their flits were sent and are in the retry
buffer, the next one to send among them, the sequence number of the first, and the retry round state. Receiving: the expected number,
the request state, the flits of the frame being received. Exchange: words seen, verdicts, far credits, the next KIND. -/
structure Link where
  credits : List Nat
  ret : List Nat
  adv : List Nat
  sent : List Sent
  inBuf : Nat
  cursor : Nat
  seqBase : BitVec 16
  actedRnum : Nat
  roundAck : BitVec 16
  txRounds : Nat
  expect : BitVec 16
  rnum : Nat
  awaiting : Bool
  rxRounds : Nat
  asm : List (BitVec 512)
  kind : Nat
  seen1 : Bool
  seen2 : Bool
  seen3 : Bool
  verdict : Nat
  farVerdict : Nat
  farReady : Bool
  farCred : List Nat
  downAsked : Bool
deriving DecidableEq, Repr

def Link.reset : Link where
  credits := List.replicate 12 0
  ret := List.replicate 12 0
  adv := List.replicate 12 130
  sent := []
  inBuf := 0
  cursor := 0
  seqBase := 0
  actedRnum := 0
  roundAck := 0
  txRounds := 0
  expect := 0
  rnum := 0
  awaiting := false
  rxRounds := 0
  asm := []
  kind := 1
  seen1 := false
  seen2 := false
  seen3 := false
  verdict := 0
  farVerdict := 0
  farReady := false
  farCred := List.replicate 12 0
  downAsked := false

-- Bridges -----------------------------------------------------------------------------------------------------------

/-- A copy with its place: output, virtual lane there, frame (08 R220, R221). -/
structure Copy where
  out : Nat
  vl : Nat
  frame : Frame
deriving DecidableEq, Repr

/-- A frame in a Bridge's receive space (08 R220 to R222): its port and virtual lane, its arrival number, whether the checks
passed, the copies still to place, how many copies are on their way to spill, whether its withholding was counted, whether the scheduler has selected it
from here, found it short of credits, found it red, the link a tile agent chose for it (07 R197), and the pool of the buffer
reserved for it before its request was taken (12 R322). -/
structure RxEntry where
  port : Port
  vl : Nat
  num : Nat
  frame : Frame
  checked : Bool
  mcast : Bool
  copies : List Copy
  spilling : Nat
  counted : Bool
  sel : Bool
  stall : Bool
  red : Bool
  via : Option Nat
  buf : Option Nat
deriving DecidableEq, Repr

/-- A frame in frame SRAM: the pool of its buffer (4 stands for the refill reserve, 5 for a frame that came back from its link and
holds none), and whether it is selected, was found
short of credits or red (08 R223, R226, R228, R235; 09 R250). -/
structure Held where
  frame : Frame
  pool : Nat
  sel : Bool
  stall : Bool
  red : Bool
deriving DecidableEq, Repr

/-- A frame of a VOQ's tail part: by its spill lines in order, or, when a lost link sent it to a VOQ whose tail is not empty, in the
buffer it holds (07 R209; 08 R221, R229, R231); and whether the scheduler of its output had found it short of credits or red before (08 R235, 09 R250). -/
structure Spilled where
  lines : List Nat
  held : Option Held
  stall : Bool
  red : Bool
deriving DecidableEq, Repr

/-- A virtual output queue (08 R221) with its inner tags (09 R240): `refills` while its refills follow one another, `reading` the pool
of the buffer taken for a refill whose lines are being read (08 R232). -/
structure Voq where
  sram : List Held
  spill : List Spilled
  refills : Bool
  reading : Option Nat
  tagS : BitVec 48
  tagF : BitVec 48
  awake : Bool
deriving DecidableEq, Repr

def Voq.reset : Voq := ⟨[], [], false, none, 0, 0, false⟩

/-- A copy whose spill writes are under way, with what was noted of its frame (08 R231, R235; 09 R250). -/
structure Spilling where
  q : Nat
  frame : Frame
  lines : List Nat
  rx : Nat
  stall : Bool
  red : Bool
deriving DecidableEq, Repr

/-- A selected frame in flight: the Bridge and VOQ that hold it, or the receive-space entry (09 R238); its flits; the pool of the
buffer reserved for the answer it will need (12 R322); and the stops of the Nut ring it has still to reach, each with whether it is
on sublane B there (01 R16 to R18). -/
structure InFlight where
  die : Nat
  q : Nat
  rx : Option Nat
  flits : Nat
  rsv : Option Nat
  hops : List (Nat × Bool)
deriving DecidableEq, Repr

/-- The scheduler of an output (09 R240): outer virtual time, class tags, inner virtual times, which classes are awake,
frames in flight. -/
structure Sched where
  v : BitVec 48
  tagS : List (BitVec 48)
  tagF : List (BitVec 48)
  u : List (BitVec 48)
  awake : List Bool
  flight : List InFlight
deriving DecidableEq, Repr

def Sched.reset : Sched :=
  ⟨0, List.replicate 4 0, List.replicate 4 0, List.replicate 4 0, List.replicate 4 false, []⟩

/-- A shaper or policer of one class in force (09 R243, R246): rates, sizes, enable. -/
structure Shaper where
  cir : Nat
  pir : Nat
  cbs : Nat
  pbs : Nat
  en : Bool
deriving DecidableEq, Repr

/-- Silicon values committed at Device reset (09 R246). -/
def Shaper.reset : Shaper := ⟨0x640000, 0x640000, 16640, 16640, false⟩

-- Saddle engines ----------------------------------------------------------------------------------------------------

/-- What names a collective instance at an engine (10 R256, 11 R286). -/
structure CollKey where
  ct : Nat
  pos : Nat
  step : Nat
  seq : Nat
  chunk : Nat
deriving DecidableEq, Repr

/-- What the members of a reduction must agree on (10 R257). -/
structure CollParam where
  cid : Nat
  rop : Nat
  exact : Bool
  prog : Nat
  wire : Nat
  p : Nat
  root : Nat
  nchunk : Nat
deriving DecidableEq, Repr

/-- A partial an engine holds (10 R256): the SRC and ARG its frames carry, span, flags, format, its elements (or records) as
codes. -/
structure Partial where
  src : BitVec 32
  arg : Nat
  key : CollKey
  par : CollParam
  lo : Nat
  log : Nat
  pflags : Nat
  acc : Bool
  elems : List Nat
deriving DecidableEq, Repr

/-- Frames of one partial or piece being gathered at an engine (10 R258, 11 R296). -/
structure Gathering where
  src : BitVec 32
  type : Nat
  arg : Nat
  stream : Nat
  lo : Nat
  log : Nat
  chunk : Nat
  frames : List Frame
deriving DecidableEq, Repr

/-- Kept bytes of a programmed gather awaiting their base (11 R296). -/
structure KeptPiece where
  key : CollKey
  par : CollParam
  rank : Nat
  arg : Nat
  pflags : Nat
  data : List Byte
deriving DecidableEq, Repr

/-- An entry of the stream table of a tile agent or engine (07 R203, R204): its number in the table, frames counted, and the LAST
frames held back. -/
structure StreamRow where
  slot : Nat
  src : BitVec 32
  dest : BitVec 32
  cls : Nat
  id : Nat
  arg : Nat
  count : Nat
  held : List Frame
deriving DecidableEq, Repr

/-- Where a staged frame stands (10 R272): the page reserved to an entry of the stream table, a general page, lines of the spill
region, or none of these. -/
inductive Place
  | page (slot : Nat)
  | general
  | lines (ls : List Nat)
  | none
deriving DecidableEq, Repr

/-- A Saddle engine (10 R252, R256, R272, R281): frames on their way in, its stream table, partials gathered and held, spans
already taken in, gathers awaiting bases, program slots with the step of a stream that used them, the instances whose program was found
inapplicable, and where each staged frame stands. -/
structure Engine where
  inq : List Frame
  streams : List StreamRow
  gather : List Gathering
  held : List Partial
  done : List (CollKey × Nat × Nat)
  kept : List KeptPiece
  used : List (Nat × Nat)
  bad : List CollKey
  places : List (Frame × Place)
deriving DecidableEq, Repr

def Engine.reset : Engine := ⟨[], [], [], [], [], [], [], [], []⟩

/-- A Bridge die (08): receive space, arrival counter, VOQs (keyed port × 900 + output × 12 + lane), spill writes under way,
spill lines in use, whether spill is enabled in force, schedulers run here, shapers in force, the link, the engine. -/
structure Bridge where
  recv : List RxEntry
  arrivals : Nat
  voqs : SMap Voq
  spilling : List Spilling
  lines : List Nat
  spillOn : Bool
  scheds : SMap Sched
  shapers : List Shaper
  link : Link
  eng : Engine
deriving DecidableEq, Repr

def Bridge.reset : Bridge :=
  ⟨[], 0, [], [], [], true, [], List.replicate 4 Shaper.reset, Link.reset, Engine.reset⟩

-- Tile agents -------------------------------------------------------------------------------------------------------

/-- A requester-table entry (12 R326); `posted` is the issue cycle of the request's post (12 R321). -/
structure ReqEntry where
  posted : Nat
  lc : Nat
  seq : Nat
  rlb : Nat
  rsa : Nat
  len : Nat
deriving DecidableEq, Repr

/-- What a sliver port serves (04 R105, 12 R323): a read of `len` bytes, a write, or an atomic with its operation byte
and operand bytes. -/
inductive SvcOp
  | read (len : Nat)
  | write (data : List Byte)
  | atomic (aop : Nat) (data : List Byte)
deriving DecidableEq, Repr

/-- Who sent a request to a sliver port, and what it owes (01 R19, R20; 04 R105): a request frame, from the attachment of the Bridge
that owes the answer, with the pool of the buffer reserved for that (12 R322); a Bridge, for line `line` of its spill region
(08 R229); the host, through Bridge 64 (12 R333). -/
inductive SvcFrom
  | fabric (req : Frame) (die : Nat) (rsv : Nat)
  | spill (die line : Nat)
  | host (c : Instr)
deriving DecidableEq, Repr

/-- A request in a sliver port's service queue (12 R323, R334): its offset in the sliver, who sent it, the lines served and the bytes
read so far, whether it was set aside for a recall, and whether a read met an uncorrectable burst (17 R444). -/
structure SvcReq where
  off : Nat
  op : SvcOp
  src : SvcFrom
  done : Nat
  got : List Byte
  aside : Bool
  bad : Bool
deriving DecidableEq, Repr

/-- Frames sent so far on a stream of one of the tile's cores (07 R203). -/
structure SendRow where
  lc : Nat
  dest : BitVec 32
  cls : Nat
  id : Nat
  count : Nat
deriving DecidableEq, Repr

/-- Counts an exchange has received at one core (11 R294, R295): its buffer, the counts by rank, and who sent them. -/
structure XchRecv where
  lc : Nat
  ct : Nat
  seq : Nat
  rlb : Nat
  counts : List (Option Nat)
  srcs : List (Nat × BitVec 32)
deriving DecidableEq, Repr

/-- Data a core of the tile still owes to receivers that have not sent their base (11 R294). -/
structure XchSend where
  lc : Nat
  ct : Nat
  seq : Nat
  rank : Nat
  post : CollPost
  data : List Byte
deriving DecidableEq, Repr

/-- A chunk on its way into a landing buffer (11 R300, R301): the bytes landed so far by offset, and whether a frame of it
was corrupt or tainted. -/
structure ChunkRow where
  lc : Nat
  type : Nat
  arg : Nat
  stream : Nat
  src : BitVec 32
  parts : List (Nat × List Byte)
  bad : Bool
deriving DecidableEq, Repr

/-- One core's contribution to a merge (06 R177, R178). -/
structure MergePost where
  lc : Nat
  desc : List Byte
  pairs : List Byte
deriving DecidableEq, Repr

/-- A merge of the tile's merge tree (06 R178): its first contribution's descriptor, what has been gathered, whether it
is complete. -/
structure Merge where
  mid : Nat
  first : List Byte
  got : List MergePost
  done : Bool
deriving DecidableEq, Repr

/-- A tile agent and its tile's sliver ports (04 R117, 12): frames on FRM-IN, requests on SVC-REQ with the Bridge that owes
the answer and the pool of the buffer reserved for it, the injection queues per class (each frame with whether its red was counted), the policers in force, service
queues by logical core, its tables, and while a written TIL_REFPH does not act yet the phase in force and the frame from which the new one acts
(04 R106). -/
structure Tile where
  frmIn : List Frame
  svcIn : List (Frame × Nat × Nat)
  inj : List (List (Bool × Frame))
  pol : List Shaper
  ports : SMap (List SvcReq)
  req : List ReqEntry
  filter : List (BitVec 32 × BitVec 32)
  streams : List StreamRow
  sends : List SendRow
  xrecv : List XchRecv
  xsend : List XchSend
  chunks : List ChunkRow
  arrived : List (Nat × Frame)
  poisoned : List Nat
  mergeQ : List MergePost
  merges : List Merge
  refph : Option (Nat × Nat)
deriving DecidableEq, Repr

def Tile.reset : Tile :=
  ⟨[], [], List.replicate 4 [], List.replicate 4 Shaper.reset, [], [], [], [], [], [], [], [], [], [], [], [], none⟩

-- The host's cached lines --------------------------------------------------------------------------------------------

/-- A directory entry (12 R334): a line's device physical address divided by 64, and whether it is held in E. Entries stand
in the order of their allocation. -/
structure DirLine where
  line : Nat
  excl : Bool
deriving DecidableEq, Repr

/-- A back-invalidation not yet answered (14 R373); `wb` once a WB of the line has been taken as its writeback. -/
structure Recall where
  line : Nat
  wb : Bool
deriving DecidableEq, Repr

end Sys2Proof.Machine
end

