-- ==== Sys2Proof/Machine/UnitState.lean ====
section
/-! DEFINITION. What the edge dies, the flash devices and the pins hold beside their registers: resets and boot, mailboxes and
sessions, copy channels, the tuning ring, the governor, MUTE (13 to 18). -/
namespace Sys2Proof.Machine

/-- The errors that stand in memories outside the cores, each with the die or Bridge it is in (DRAM: 0), and the upsets of units there (17
R440 to R444; logs 87 and 88). -/
structure Errs where
  marks : List (Nat × Mark)
  upsets : List Upset
deriving DecidableEq, Repr

def Errs.none : Errs := ⟨[], []⟩

/-- How far the module is from serving commands (15 R403, 16 R425, 18 R464): without input; held in a Warm or Cold reset; stopped
in boot; the Soundpost released but its Device reset sequence not complete; up. -/
inductive Life
  | off | inReset | bootHalt | released | up
deriving DecidableEq, Repr

/-- Why a Device reset is due (15 R403, 14 R390, 16 R432): the boot after a Cold or Warm reset; the RESET command, or the exit
from A3, with the mailbox whose ACK starts it. -/
inductive DeviceCause
  | cold | warm | command (n : Nat) | a3Exit (n : Nat)
deriving DecidableEq, Repr

/-- A mailbox (14 R376 to R380): its 4 KiB, the side that wrote GO, and the nonce bound to it. -/
structure Mailbox where
  mem : Memory
  owner : Side
  nonce : Option (List Byte)
deriving DecidableEq, Repr

def Mailbox.reset : Mailbox := ⟨[], .apeno, none⟩

/-- The ring receiver (13 R345, R346): consecutive valid SYNCs that count toward LOCKED, and toward its loss; the count at the
last valid SYNC, or at a master the return of its own; the count at which holdover began; the count of the last SYNC
sent. -/
structure Ring where
  good : Nat
  bad : Nat
  heard : Nat
  since : Nat
  sentAt : Option Nat
  lost : Bool
deriving DecidableEq, Repr

def Ring.reset : Ring := ⟨0, 0, 0, 0, none, false⟩

/-- The governor and the wear accounting (16 R417, R418, R423): input power of the last periods, latest first; that of the
first one since the last Warm reset; under_run; TIME95 with the seconds not yet written, the periods that do not yet
make a second, TRIPS; and the count at the end of the last period. -/
structure Governor where
  hist : List Nat
  first : Option Nat
  underRun : Nat
  time95 : Nat
  rest : Nat
  trips : Nat
  endAt : Option Nat
deriving DecidableEq, Repr

def Governor.reset : Governor := ⟨[], none, 0, 0, 0, 0, none⟩

/-- The replay-protected area (15 R401), the key programmed into FL1 at the first boot, and its 32-bit write counter (18 R476). -/
structure Rpa where
  userArb : Nat
  fwArb : Nat
  active : Nat
  time95 : Nat
  trips : Nat
  boots : Nat
  updates : Nat
  key : Option (List Byte)
  writes : Nat
deriving DecidableEq, Repr

/-- An authenticated write of the replay-protected area, which its write counter counts (15 R401, 18 R476). -/
def Rpa.written (r : Rpa) : Rpa := { r with writes := min (2 ^ 32 - 1) (r.writes + 1) }

/-- The flash devices (15 R392). FL0 and FL1 hold the complement of each byte, so that an erased byte is not listed. -/
structure Flash where
  fl0 : Memory
  fl1 : Memory
  rpa : Rpa
deriving DecidableEq, Repr

/-- What the last boot left (15 R403 to R407): the verified factory region and the user region in use in Soundpost memory with
its number, the firmware in force, the closed measurement log, the boot nonce and the keys of the sessions; and what the security die
keeps: the DeviceID scalar, the CDI, the alias scalar, and the alias certificate (15 R405, R406). -/
structure Booted where
  factory : List Byte
  user : Option (Nat × List Byte)
  fw : List Byte
  fwPkg : Option (List Byte)
  log : List Byte
  nonce : List Byte
  kHost : Option (List Byte)
  kBmc : Option (List Byte)
  deviceKey : Nat
  cdi : List Byte
  aliasKey : Nat
  aliasCert : List Byte
deriving DecidableEq, Repr

def Booted.none : Booted := ⟨[], Option.none, [], Option.none, [], [], Option.none, Option.none, 0, [], 0, []⟩

/-- MUTE and the scan network (17 R447 to R454): the mute count in force while armed, host transactions that wait for resumption, whether
one proceeds, the shift positions of the 140 segments, and a number that tells one frozen state from another. -/
structure Mute where
  due : Nat
  waiting : List Instr
  thaw : Bool
  scan : SMap Nat
  frozen : Nat
deriving DecidableEq, Repr

def Mute.reset : Mute := ⟨0, [], false, [], 0⟩

/-- The Soundpost's command executive (14 R378 to R381, R390): queued mailboxes in the order they are taken, consecutive
authentication failures, a lockout in force, and the mailbox whose POWER command waits for tiles to gate (16 R430). -/
structure Exec where
  queue : List Nat
  fails : Nat
  lockout : Bool
  draining : Option Nat
deriving DecidableEq, Repr

def Exec.reset : Exec := ⟨[], 0, false, none⟩

/-- The pins the module drives or samples that its registers do not show (18 R460): MUTE_N, ALARM_N, SMB_ALERT_N, high being
true. -/
structure Pins where
  muteN : Bool
  alarmN : Bool
  smbAlertN : Bool
deriving DecidableEq, Repr

def Pins.reset : Pins := ⟨true, true, true⟩

end Sys2Proof.Machine
end

