-- ==== Sys2Proof/Machine/State.lean ====
section
/-! DEFINITION. The state of the module. -/
namespace Sys2Proof.Machine

/-- Why a step stops with a fault. -/
inductive Fault
  /-- Raised by a command whose operands WellFormed refuses (a byte string of the wrong length, an operand outside its
  range): no such command can reach the module. Safe: the model stops where nothing happens. -/
  | illFormed (what : String)
deriving DecidableEq, Repr

/-- Why a command has no meaning here. -/
inductive Refusal
  /-- Raised by exec for a command that has no meaning yet. Safe. -/
  | notModelled (mnemonic : String)
  /-- Raised by a command that names a unit the module does not have: a core from 2^20 up, a die of another kind, a
  mailbox, channel, output or queue out of range (01 R12, R29). Safe: no such unit exists. -/
  | noSuchUnit (what : String)
deriving DecidableEq, Repr

/-- The loaded program image (04 R127 to R130): the rectangles its CODE sections cover, in module coordinates, and the
module count it was built for. -/
structure Image where
  rects : List (Nat × Nat × Nat × Nat)
  modules : Nat
deriving DecidableEq, Repr

/-- What crosses the module's boundary outwards, oldest first in `State.out` (the model's own log, log 19). -/
inductive Output
  /-- Completion of a device control space access: successful, or UR (01 R30). -/
  | mmioDone (ok : Bool)
  /-- A posted write to host memory: doorbells, copied data, status words (14). -/
  | hostWrite (addr : Nat) (data : List Byte)
  /-- A read of host memory the module makes (14 R368). -/
  | hostRead (addr len : Nat)
  /-- An answer to a coherent or uncached host request: its code and data (14 R371). -/
  | hostReply (code : Nat) (data : List Byte)
  /-- A back-invalidation of a line (14 R373). -/
  | binv (addr : Nat)
  /-- A link group sent by a Bridge (18 R469). -/
  | linkGroup (die : Nat) (g : Group)
  /-- A SYNC word on TUNE_OUT (13 R344). -/
  | sync (w : SyncWord)
  /-- A device control space read that returns `data` (01 R30). -/
  | mmioRead (data : Nat)
  /-- An SMBus transfer: acknowledged or not, and the bytes it returns (18 R477). -/
  | smbus (ack : Bool) (data : List Byte)
  /-- A bit on TDO (17 R452). -/
  | scanBit (b : Bool)
  /-- A word of the memory instrument with its CE and UE flags (17 R453). -/
  | instrument (word : Nat) (ce ue : Bool)
deriving DecidableEq, Repr

/-- The module. `out` is the model's own log of what left it (log 19), `pending` the commands waiting (log 1), `count`
the tuning count (13 R348), `muted` whether its clocks are stopped (17 R448); `regs` the device control space registers that
do not stand at their silicon reset values (00 R6);
`dram` the slivers by device physical address (01 R31); `tokSent` and `tokGot` the course entries whose tokens were sent and
came back, `stepCodes` the fail-class codes recorded outside the cores in this step (17 R438); `dir`, `recalls` and
`cohWait` the host's cached lines, unanswered back-invalidations, and host requests that wait (12 R334, 14 R373);
`polSp` and `polApl` the policers of the edge dies in force (09 R249); `copy` the descriptor each copy channel has in
progress (14 R367); `a2Saved` the tile registers kept while tiles are gated (16 R430); `due` a Device reset that waits (14
R390, 15 R403); `ucode` the Saddle microcode in force (10 R275); `smbAt` the SMBus byte offset (18 R477); `errs` the errors in memories and units
outside the cores (17 R440 to R444); `free` numbers the free values (log 15). -/
structure State where
  out : List Output
  image : Option Image
  pending : List Instr
  count : Nat
  muted : Bool
  plane : Plane
  tokSent : List Nat
  tokGot : List Nat
  cores : SMap Core
  regs : SMap (Option (BitVec 32))
  dram : Memory
  bridges : SMap Bridge
  tiles : SMap Tile
  stepCodes : List Nat
  dir : List DirLine
  recalls : List Recall
  cohWait : List Instr
  polSp : List Shaper
  polApl : List Shaper
  life : Life
  pins : Pins
  mbx : SMap Mailbox
  exec : Exec
  due : Option DeviceCause
  ring : Ring
  gov : Governor
  flash : Flash
  booted : Booted
  ucode : List Byte
  copy : SMap (Option (List Byte))
  mute : Mute
  a2Saved : SMap (Option (BitVec 32))
  smbAt : Nat
  errs : Errs
  free : Nat
deriving DecidableEq, Repr

/-- The module right after its Cold reset, boot and Device reset (16 R425): it serves commands. The spec gives no contents of
the flash devices; the model's are erased, so that the images give no record and no session key, and every register stands
at its silicon value (DESIGN CHOICE, logs 5 and 16). Registers not listed in `regs` stand at their reset values;
SEC_BOOTSTAT.STAGE is 9, and SP_BOOTSTAT has PATH 2 with both user regions rejected for NV_FORMAT, as step 6 of 15 R403 leaves
them for erased regions (log 5). The SMBus byte offset, which the spec gives no reset value, is 0 (DESIGN CHOICE, log 85). -/
def State.reset : State where
  out := []
  image := none
  pending := []
  count := 0
  muted := false
  plane := Plane.reset
  tokSent := []
  tokGot := []
  cores := []
  regs := [(101 * 2 ^ 24 + 0x10, some 0x505002), (102 * 2 ^ 24, some 9)]
  dram := []
  bridges := []
  tiles := []
  stepCodes := []
  dir := []
  recalls := []
  cohWait := []
  polSp := List.replicate 4 Shaper.reset
  polApl := List.replicate 4 Shaper.reset
  life := .up
  pins := Pins.reset
  mbx := []
  exec := Exec.reset
  due := none
  ring := Ring.reset
  gov := Governor.reset
  flash := ⟨[], [], ⟨0, 0, 0, 0, 0, 0, 0, none, 0⟩⟩
  booted := Booted.none
  ucode := []
  copy := []
  mute := Mute.reset
  a2Saved := []
  smbAt := 0
  errs := Errs.none
  free := 0

end Sys2Proof.Machine
end

