-- ==== Sys2Proof/Machine/Regs.lean ====
section
/-! DEFINITION. The register maps of the device control space (00 R6 to R8, 01 R29) outside the cores' windows: where each
register lies, its fields with access type, reset value and retention class; and the reads and writes every meaning uses.
A register's value is a run of 32-bit words kept by device control space address. -/
namespace Sys2Proof.Machine

/-- The kinds of die (01 R29). -/
inductive DieKind
  | tile | bridge | apeno | soundpost | security | tuning
deriving DecidableEq, Repr

/-- The kind of a die ID; none from 104 up (01 R30). -/
def dieKind (d : Nat) : Option DieKind :=
  if d < 64 then some .tile else if d < 100 then some .bridge
  else match d with
    | 100 => some .apeno | 101 => some .soundpost | 102 => some .security | 103 => some .tuning | _ => none

/-- Access types (00 R6). -/
inductive Acc
  | rw | ro | w1c | wo
deriving DecidableEq, Repr

/-- Retention classes (00 R7). -/
inductive Cls
  | n | c | w | d | p | s | l
deriving DecidableEq, Repr

/-- A field of a register: bits [hi:lo], access, class, the value its class's reset gives, whether that value may come
from an image (00 R6), and whether it is the die ID (TIL_REFPH). -/
structure RegField where
  hi : Nat
  lo : Nat
  acc : Acc
  cls : Cls
  rst : Nat
  img : Bool
  die : Bool
deriving DecidableEq, Repr

/-- A register, or `count` of them `stride` bytes apart. -/
structure RegDef where
  name : String
  kind : DieKind
  off : Nat
  count : Nat
  stride : Nat
  bits : Nat
  fields : List RegField
deriving DecidableEq, Repr

/-- A field with a fixed reset value. -/
def rf (hi lo : Nat) (a : Acc) (cl : Cls) (rst : Nat) : RegField := ⟨hi, lo, a, cl, rst, false, false⟩

/-- A field whose reset value an image may set; `rst` is the silicon value. -/
def ri (hi lo : Nat) (a : Acc) (cl : Cls) (rst : Nat) : RegField := ⟨hi, lo, a, cl, rst, true, false⟩

/-- The tokens of a shaper or policer after a Device reset with silicon bucket sizes: the spec's field value of 0 does not outlast that
reset, whose commit with FULL = 1 sets them to CBS and PBS (09 R246; DEDUCED, log 5). -/
def fullTokens : Nat := 0x410000

/-- Registers of the soundpost dies. -/
def soundpostRegs0 : List RegDef :=
  [ ⟨"SP_DEVICE_ID", .soundpost, 0x0, 1, 4, 32,
      [rf 31 16 .ro .n 18448, rf 15 8 .ro .n 161]⟩,
    ⟨"SP_FPRINTB", .soundpost, 0x400, 1, 32, 256,
      [rf 255 0 .ro .p 0]⟩,
    ⟨"SP_FPRINTT", .soundpost, 0x420, 1, 32, 256,
      [rf 255 0 .ro .p 0]⟩,
    ⟨"SP_VOIDSTAT", .soundpost, 0x440, 1, 4, 32,
      [rf 0 0 .ro .c 0, rf 1 1 .ro .p 0, rf 2 2 .ro .p 0, rf 3 3 .ro .p 0, rf 4 4 .ro .p 0]⟩,
    ⟨"SP_MBXCTLn", .soundpost, 0x800, 16, 8, 32,
      [rf 0 0 .wo .d 0, rf 1 1 .wo .d 0, rf 3 2 .ro .d 0, rf 4 4 .w1c .d 0, rf 6 5 .ro .d 0]⟩,
    ⟨"SP_SESSCFG", .soundpost, 0x100, 1, 4, 32,
      [ri 15 0 .rw .d 600]⟩,
    ⟨"SP_MODCNT", .soundpost, 0x110, 1, 4, 32,
      [rf 6 0 .ro .d 0]⟩,
    ⟨"SP_RUNEND", .soundpost, 0x200, 1, 8, 64,
      [rf 1 0 .ro .p 0, rf 15 8 .ro .p 0, rf 63 32 .ro .p 0]⟩,
    ⟨"SP_SERIAL", .soundpost, 0x8, 1, 8, 64,
      [ri 63 0 .ro .w 0]⟩,
    ⟨"SP_BOOTSTAT", .soundpost, 0x10, 1, 8, 64,
      [rf 1 0 .ro .w 0, rf 2 2 .ro .w 0, rf 3 3 .ro .w 0, rf 15 8 .ro .w 0, rf 23 16 .ro .w 0, rf 63 32 .ro .w 0]⟩,
    ⟨"SP_ARB", .soundpost, 0x18, 1, 8, 64,
      [rf 31 0 .ro .w 0, rf 63 32 .ro .w 0]⟩,
    ⟨"PWR_GOVCFG", .soundpost, 0x200000, 1, 8, 64,
      [ri 8 0 .rw .d 240, ri 24 16 .rw .d 320, ri 38 32 .rw .d 0, ri 47 40 .rw .d 100]⟩ ]

/-- Registers of the soundpost dies. -/
def soundpostRegs1 : List RegDef :=
  [ ⟨"PWR_STAT", .soundpost, 0x200008, 1, 4, 32,
      [rf 2 0 .ro .w 0, rf 10 4 .ro .d 0, rf 12 12 .ro .d 0, rf 13 13 .ro .d 0, rf 14 14 .ro .d 0, rf 27 16 .ro .d 1987]⟩,
    ⟨"PWR_EVT", .soundpost, 0x200010, 1, 4, 32,
      [rf 0 0 .w1c .w 0, rf 1 1 .w1c .w 0, rf 2 2 .w1c .w 0, rf 3 3 .w1c .w 0, rf 4 4 .w1c .w 0]⟩,
    ⟨"PWR_MEAS", .soundpost, 0x200018, 1, 8, 64,
      [rf 31 0 .ro .d 0, rf 63 32 .ro .d 0]⟩,
    ⟨"PWR_TEMP", .soundpost, 0x200020, 1, 8, 64,
      [rf 15 0 .ro .d 0, rf 22 16 .ro .d 0, rf 39 24 .ro .d 0, rf 45 40 .ro .d 0]⟩,
    ⟨"PWR_INPUT", .soundpost, 0x200030, 1, 8, 64,
      [rf 31 0 .ro .d 0, rf 63 32 .ro .d 0]⟩,
    ⟨"PWR_GOVCNT", .soundpost, 0x200028, 1, 8, 64,
      [rf 63 0 .rw .w 0]⟩,
    ⟨"SP_RSTCAUSE", .soundpost, 0x20, 1, 4, 32,
      [rf 2 0 .ro .c 0, rf 3 3 .ro .c 0]⟩,
    ⟨"SP_FLTLOGCTL", .soundpost, 0x2F00, 1, 8, 64,
      [rf 6 0 .ro .d 0, rf 31 16 .ro .d 0, rf 32 32 .wo .d 0]⟩,
    ⟨"SP_FLTLOGn", .soundpost, 0x3000, 64, 16, 128,
      [rf 7 0 .ro .d 0, rf 9 8 .ro .d 0, rf 22 16 .ro .d 0, rf 47 32 .ro .d 0, rf 63 48 .ro .d 0, rf 95 64 .ro .d 0, rf 103 96 .ro .d 0]⟩,
    ⟨"SP_DBGCFG", .soundpost, 0x480, 1, 4, 32,
      [ri 0 0 .rw .d 0]⟩,
    ⟨"SP_FLTREC", .soundpost, 0x450, 1, 8, 64,
      [rf 7 0 .ro .s 0, rf 9 8 .ro .s 0, rf 10 10 .ro .s 0, rf 11 11 .ro .s 0, rf 31 16 .ro .s 0, rf 47 32 .ro .s 0]⟩,
    ⟨"SP_POLRATEc", .soundpost, 0x900, 4, 32, 64,
      [ri 23 0 .rw .d 6553600, ri 31 31 .rw .d 0, ri 55 32 .rw .d 6553600]⟩ ]

/-- Registers of the soundpost dies. -/
def soundpostRegs2 : List RegDef :=
  [ ⟨"SP_POLBURSTc", .soundpost, 0x908, 4, 32, 64,
      [ri 23 0 .rw .d 16640, ri 55 32 .rw .d 16640]⟩,
    ⟨"SP_POLTOKc", .soundpost, 0x910, 4, 32, 64,
      [rf 31 0 .ro .d fullTokens, rf 63 32 .ro .d fullTokens]⟩,
    ⟨"SP_POLCMT", .soundpost, 0x980, 1, 4, 32,
      [rf 3 0 .wo .d 0, rf 4 4 .wo .d 0]⟩,
    ⟨"SP_PCNTn", .soundpost, 0xA00, 12, 8, 64,
      [rf 63 0 .rw .d 0]⟩ ]

/-- Registers of the tile dies. -/
def tileRegs0 : List RegDef :=
  [ ⟨"TIL_SRKEY0", .tile, 0x800, 1, 4, 32,
      [rf 31 0 .rw .p 0]⟩,
    ⟨"TIL_SRKEY1", .tile, 0x804, 1, 4, 32,
      [rf 31 0 .rw .p 0]⟩,
    ⟨"TIL_SRMOD", .tile, 0x808, 1, 4, 32,
      [rf 6 0 .rw .p 0]⟩,
    ⟨"TIL_STEPIDX", .tile, 0x80C, 1, 4, 32,
      [rf 31 0 .rw .p 0]⟩,
    ⟨"TIL_REFPH", .tile, 0x10000, 1, 4, 32,
      [⟨5, 0, .rw, .d, 0, true, true⟩]⟩,
    ⟨"TIL_DUMAPr", .tile, 0x1000, 128, 4, 32,
      [ri 7 0 .ro .d 255, ri 15 8 .ro .d 255, ri 23 16 .ro .d 255, ri 31 24 .ro .d 255]⟩,
    ⟨"TIL_ISSUECNT", .tile, 0x810, 1, 8, 64,
      [rf 63 0 .ro .p 0]⟩,
    ⟨"TIL_FLTPOL", .tile, 0x820, 1, 4, 32,
      [rf 0 0 .rw .p 0]⟩,
    ⟨"TIL_MFCNTn", .tile, 0x10100, 8, 8, 64,
      [rf 63 0 .rw .d 0]⟩,
    ⟨"TIL_FLTREC", .tile, 0x840, 1, 8, 64,
      [rf 7 0 .ro .s 0, rf 9 8 .ro .s 0, rf 10 10 .ro .s 0, rf 11 11 .ro .s 0, rf 31 16 .ro .s 0, rf 47 32 .ro .s 0]⟩,
    ⟨"TIL_ERRCNTn", .tile, 0x10200, 6, 8, 64,
      [rf 63 0 .rw .d 0]⟩,
    ⟨"TIL_HOLDSTAT", .tile, 0x848, 1, 4, 32,
      [rf 13 0 .ro .p 0, rf 14 14 .ro .p 0, rf 23 16 .ro .p 0]⟩ ]

/-- Registers of the tile dies. -/
def tileRegs1 : List RegDef :=
  [ ⟨"TIL_SELF", .tile, 0x830, 1, 4, 32,
      [ri 3 0 .rw .d 0, ri 7 4 .rw .d 0, ri 8 8 .rw .d 0]⟩,
    ⟨"TIL_NMCTL", .tile, 0x834, 1, 4, 32,
      [ri 11 0 .rw .d 65]⟩,
    ⟨"TIL_EPOCH", .tile, 0x838, 1, 4, 32,
      [rf 7 0 .rw .d 0]⟩,
    ⟨"TIL_RTEd", .tile, 0x2000, 100, 4, 32,
      [ri 0 0 .rw .d 0, ri 1 1 .rw .d 0, ri 2 2 .rw .d 0, ri 3 3 .rw .d 0, ri 12 4 .rw .d 0]⟩,
    ⟨"TIL_POLRATEc", .tile, 0x900, 4, 32, 64,
      [ri 23 0 .rw .d 6553600, ri 31 31 .rw .d 0, ri 55 32 .rw .d 6553600]⟩,
    ⟨"TIL_POLBURSTc", .tile, 0x908, 4, 32, 64,
      [ri 23 0 .rw .d 16640, ri 55 32 .rw .d 16640]⟩,
    ⟨"TIL_POLTOKc", .tile, 0x910, 4, 32, 64,
      [rf 31 0 .ro .d fullTokens, rf 63 32 .ro .d fullTokens]⟩,
    ⟨"TIL_POLCMT", .tile, 0x980, 1, 4, 32,
      [rf 3 0 .wo .d 0, rf 4 4 .wo .d 0]⟩,
    ⟨"TIL_PCNTn", .tile, 0xA00, 12, 8, 64,
      [rf 63 0 .rw .d 0]⟩ ]

/-- Registers of the bridge dies. -/
def bridgeRegs0 : List RegDef :=
  [ ⟨"BRG_SELF", .bridge, 0x0, 1, 4, 32,
      [ri 3 0 .rw .d 0, ri 7 4 .rw .d 0, ri 8 8 .rw .d 0]⟩,
    ⟨"BRG_PEER", .bridge, 0x10, 1, 8, 64,
      [ri 3 0 .rw .d 0, ri 7 4 .rw .d 0, ri 14 8 .rw .d 0, ri 16 16 .rw .d 0]⟩,
    ⟨"BRG_PEERSN", .bridge, 0x18, 1, 8, 64,
      [ri 63 0 .rw .d 0]⟩,
    ⟨"BRG_SEEN", .bridge, 0x20, 1, 8, 64,
      [rf 3 0 .ro .l 0, rf 7 4 .ro .l 0, rf 14 8 .ro .l 0, rf 16 16 .ro .l 0]⟩,
    ⟨"BRG_SEENSN", .bridge, 0x28, 1, 8, 64,
      [rf 63 0 .ro .l 0]⟩,
    ⟨"BRG_LINKCTL", .bridge, 0x34, 1, 4, 32,
      [ri 0 0 .rw .d 1, ri 1 1 .rw .d 1, rf 2 2 .wo .d 0]⟩,
    ⟨"BRG_LINKSTAT", .bridge, 0x30, 1, 4, 32,
      [rf 2 0 .ro .l 0, rf 8 8 .w1c .l 0, rf 9 9 .w1c .l 0, rf 31 16 .ro .l 0]⟩,
    ⟨"BRG_VLCREDv", .bridge, 0x40, 12, 4, 32,
      [ri 11 0 .rw .d 130]⟩,
    ⟨"BRG_RTEd", .bridge, 0x2000, 100, 4, 32,
      [ri 0 0 .rw .d 0, ri 1 1 .rw .d 0, ri 2 2 .rw .d 0, ri 3 3 .rw .d 0, ri 12 4 .rw .d 0]⟩,
    ⟨"BRG_NMCTL", .bridge, 0x38, 1, 4, 32,
      [ri 11 0 .rw .d 65]⟩,
    ⟨"BRG_ALPHA", .bridge, 0x100, 1, 4, 32,
      [ri 3 0 .rw .d 5, ri 7 4 .rw .d 7, ri 11 8 .rw .d 6, ri 15 12 .rw .d 3]⟩,
    ⟨"BRG_POOLSTAT", .bridge, 0x108, 1, 8, 64,
      [rf 14 0 .ro .d 16384, rf 29 16 .ro .d 8192, rf 43 32 .ro .d 3072, rf 59 48 .ro .d 2896]⟩ ]

/-- Registers of the bridge dies. -/
def bridgeRegs1 : List RegDef :=
  [ ⟨"BRG_SPILLCFG", .bridge, 0x110, 1, 4, 32,
      [ri 0 0 .rw .d 1]⟩,
    ⟨"BRG_SPILLSTAT", .bridge, 0x118, 1, 8, 64,
      [rf 26 0 .ro .d 0, rf 39 32 .ro .d 128]⟩,
    ⟨"BRG_EPOCH", .bridge, 0x120, 1, 4, 32,
      [rf 7 0 .rw .d 0]⟩,
    ⟨"BRG_CNTn", .bridge, 0x4000, 38, 8, 64,
      [rf 63 0 .rw .d 0]⟩,
    ⟨"BRG_SCHWT", .bridge, 0x300, 1, 4, 32,
      [ri 7 0 .rw .d 2, ri 15 8 .rw .d 4, ri 23 16 .rw .d 8, ri 31 24 .rw .d 1]⟩,
    ⟨"BRG_SCHVT", .bridge, 0x308, 1, 8, 64,
      [rf 47 0 .ro .d 0]⟩,
    ⟨"BRG_SHPRATEc", .bridge, 0x200, 4, 32, 64,
      [ri 23 0 .rw .d 6553600, ri 31 31 .rw .d 0, ri 55 32 .rw .d 6553600]⟩,
    ⟨"BRG_SHPBURSTc", .bridge, 0x208, 4, 32, 64,
      [ri 23 0 .rw .d 16640, ri 55 32 .rw .d 16640]⟩,
    ⟨"BRG_SHPTOKc", .bridge, 0x210, 4, 32, 64,
      [rf 31 0 .ro .d fullTokens, rf 63 32 .ro .d fullTokens]⟩,
    ⟨"BRG_SHPCMT", .bridge, 0x280, 1, 4, 32,
      [rf 3 0 .wo .d 0, rf 4 4 .wo .d 0]⟩,
    ⟨"BRG_SCNTn", .bridge, 0x4200, 12, 8, 64,
      [rf 63 0 .rw .d 0]⟩,
    ⟨"SAD_PHDRn", .bridge, 0x101000, 16, 64, 64,
      [rf 2 0 .rw .d 0, rf 3 3 .rw .d 0, rf 8 4 .rw .d 0, rf 9 9 .rw .d 0, rf 12 10 .rw .d 0, rf 13 13 .rw .d 0, rf 14 14 .rw .d 0, rf 21 16 .rw .d 0, rf 27 22 .rw .d 0, rf 47 32 .rw .d 0]⟩ ]

/-- Registers of the bridge dies. -/
def bridgeRegs2 : List RegDef :=
  [ ⟨"SAD_PCONn_0", .bridge, 0x101008, 16, 64, 64,
      [rf 63 0 .rw .d 0]⟩,
    ⟨"SAD_PCONn_1", .bridge, 0x101010, 16, 64, 64,
      [rf 63 0 .rw .d 0]⟩,
    ⟨"SAD_PCONn_2", .bridge, 0x101018, 16, 64, 64,
      [rf 63 0 .rw .d 0]⟩,
    ⟨"SAD_PCONn_3", .bridge, 0x101020, 16, 64, 64,
      [rf 63 0 .rw .d 0]⟩,
    ⟨"SAD_STAT", .bridge, 0x100000, 1, 8, 64,
      [rf 11 0 .ro .d 0, rf 42 16 .ro .d 0, rf 58 48 .ro .d 0]⟩,
    ⟨"SAD_CNTn", .bridge, 0x104000, 8, 8, 64,
      [rf 63 0 .rw .d 0]⟩,
    ⟨"BRG_LCNTn", .bridge, 0x4400, 6, 8, 64,
      [rf 63 0 .rw .d 0]⟩,
    ⟨"BRG_FLTREC", .bridge, 0x130, 1, 8, 64,
      [rf 7 0 .ro .s 0, rf 9 8 .ro .s 0, rf 10 10 .ro .s 0, rf 11 11 .ro .s 0, rf 31 16 .ro .s 0, rf 47 32 .ro .s 0]⟩,
    ⟨"SAD_IMEMw", .bridge, 0x102000, 1024, 8, 64,
      [rf 63 0 .rw .d 0]⟩ ]

/-- Registers of the tuning dies. -/
def tuningRegs0 : List RegDef :=
  [ ⟨"TUN_TOKSTAT", .tuning, 0xC00, 1, 8, 64,
      [rf 31 0 .ro .p 0, rf 38 32 .ro .p 0]⟩,
    ⟨"TUN_COUNT", .tuning, 0x0, 1, 8, 64,
      [rf 63 0 .ro .w 0]⟩,
    ⟨"TUN_RINGCTL", .tuning, 0x10, 1, 4, 32,
      [ri 0 0 .rw .d 0, ri 1 1 .rw .d 0, rf 2 2 .rw .d 0, ri 23 8 .rw .d 0]⟩,
    ⟨"TUN_HLIM", .tuning, 0x14, 1, 4, 32,
      [ri 15 0 .rw .d 1002]⟩,
    ⟨"TUN_RINGSTAT", .tuning, 0x18, 1, 8, 64,
      [rf 1 0 .ro .d 0, rf 2 2 .ro .d 0, rf 15 8 .ro .d 0, rf 47 16 .ro .d 0]⟩,
    ⟨"TUN_RUNSTAT", .tuning, 0x28, 1, 4, 32,
      [rf 1 0 .ro .p 0, rf 2 2 .ro .p 0, rf 3 3 .ro .p 0]⟩,
    ⟨"TUN_LAUNCHAT", .tuning, 0x20, 1, 8, 64,
      [rf 63 0 .ro .p 0]⟩,
    ⟨"TUN_MUTEAT", .tuning, 0x100, 1, 8, 64,
      [rf 63 0 .rw .d 0]⟩,
    ⟨"TUN_MUTECTL", .tuning, 0x108, 1, 4, 32,
      [rf 0 0 .rw .d 0, rf 1 1 .w1c .d 0, rf 3 2 .ro .d 0, rf 4 4 .ro .d 0, rf 5 5 .w1c .d 0, rf 6 6 .wo .d 0]⟩,
    ⟨"TUN_HOLDSTAT", .tuning, 0x300, 1, 4, 32,
      [rf 7 0 .ro .p 0, rf 8 8 .ro .p 0]⟩,
    ⟨"TUN_HOLDTILE", .tuning, 0x308, 1, 8, 64,
      [rf 63 0 .ro .p 0]⟩,
    ⟨"TUN_HOLDCNTn", .tuning, 0x400, 8, 8, 64,
      [rf 63 0 .rw .p 0]⟩ ]

/-- Registers of the apeno dies. -/
def apenoRegs0 : List RegDef :=
  [ ⟨"APL_DIRSTAT", .apeno, 0xC00, 1, 8, 64,
      [rf 24 0 .ro .d 0, rf 56 32 .ro .d 0]⟩,
    ⟨"APL_BCCTL", .apeno, 0x300, 1, 4, 32,
      [rf 0 0 .ro .d 0, rf 7 4 .wo .d 0]⟩,
    ⟨"APL_BCRINGc", .apeno, 0x400, 4, 32, 64,
      [rf 51 6 .rw .d 0, rf 55 52 .rw .d 0]⟩,
    ⟨"APL_BCTAILc", .apeno, 0x408, 4, 32, 32,
      [rf 19 0 .rw .d 0]⟩,
    ⟨"APL_BCSTATc", .apeno, 0x410, 4, 32, 32,
      [rf 19 0 .ro .d 0, rf 20 20 .ro .d 0]⟩,
    ⟨"APL_IRQSTAT", .apeno, 0x100, 1, 4, 32,
      [rf 25 0 .w1c .d 0]⟩,
    ⟨"APL_IRQMASK", .apeno, 0x108, 1, 4, 32,
      [rf 25 0 .rw .d 67108863]⟩,
    ⟨"APL_IVECb", .apeno, 0x1000, 32, 16, 128,
      [rf 63 0 .rw .d 0, rf 95 64 .rw .d 0]⟩,
    ⟨"APL_POLRATEc", .apeno, 0x900, 4, 32, 64,
      [ri 23 0 .rw .d 6553600, ri 31 31 .rw .d 0, ri 55 32 .rw .d 6553600]⟩,
    ⟨"APL_POLBURSTc", .apeno, 0x908, 4, 32, 64,
      [ri 23 0 .rw .d 16640, ri 55 32 .rw .d 16640]⟩,
    ⟨"APL_POLTOKc", .apeno, 0x910, 4, 32, 64,
      [rf 31 0 .ro .d fullTokens, rf 63 32 .ro .d fullTokens]⟩,
    ⟨"APL_POLCMT", .apeno, 0x980, 1, 4, 32,
      [rf 3 0 .wo .d 0, rf 4 4 .wo .d 0]⟩ ]

/-- Registers of the apeno dies. -/
def apenoRegs1 : List RegDef :=
  [ ⟨"APL_PCNTn", .apeno, 0xA00, 12, 8, 64,
      [rf 63 0 .rw .d 0]⟩ ]

/-- Registers of the security dies. -/
def securityRegs0 : List RegDef :=
  [ ⟨"SEC_BOOTSTAT", .security, 0x0, 1, 4, 32,
      [rf 3 0 .ro .c 0, rf 15 8 .ro .c 0]⟩ ]

/-- The fields of a course table entry (11 R282). -/
def cteFields : List RegField :=
  [ri 15 0 .rw .d 0, ri 23 16 .rw .d 0, ri 31 24 .rw .d 0, ri 39 32 .rw .d 0, ri 47 40 .rw .d 0, ri 53 48 .rw .d 0, ri 57 56 .rw .d 0, ri 59 58 .rw .d 0, ri 60 60 .rw .d 0, ri 68 64 .rw .d 0] ++
  (List.range 100).flatMap (fun r => [ri (256 + 16 * r + 3) (256 + 16 * r) .rw .d 0,
    ri (256 + 16 * r + 7) (256 + 16 * r + 4) .rw .d 0, ri (256 + 16 * r + 8) (256 + 16 * r + 8) .rw .d 0])

/-- The fields of a region table entry (12 R318). -/
def rgnFields : List RegField :=
  [ri 0 0 .rw .d 0, ri 1 1 .rw .d 0, ri 2 2 .rw .d 0, ri 3 3 .rw .d 0, ri 4 4 .rw .d 0, ri 5 5 .rw .d 0,
   ri 31 8 .rw .d 0, ri 106 70 .rw .d 0, rf 133 128 .ro .d 0x3F, ri 170 134 .rw .d 0]

/-- The course and region tables (11 R282, 12 R318). -/
def tableRegs : List RegDef :=
  [ ⟨"TIL_CTEn", .tile, 0x4000, 64, 0x100, 2048, cteFields⟩,
    ⟨"BRG_CTEn", .bridge, 0x8000, 64, 0x100, 2048, cteFields⟩,
    ⟨"TIL_RGNn", .tile, 0x8000, 1024, 0x20, 256, rgnFields⟩ ]

/-- Every register map. -/
def regTable : List RegDef :=
  soundpostRegs0 ++ soundpostRegs1 ++ soundpostRegs2 ++ tileRegs0 ++ tileRegs1 ++ bridgeRegs0 ++ bridgeRegs1 ++ bridgeRegs2 ++ tuningRegs0 ++ apenoRegs0 ++ apenoRegs1 ++ securityRegs0 ++ tableRegs

/-- The device control space address of an offset in a die's window (00 R8). -/
def dcs (die off : Nat) : Nat := die * 2 ^ 24 + off

/-- Where a word lies in a register: the register, and the word's number in it. -/
def findIn : List RegDef → DieKind → Nat → Option (RegDef × Nat)
  | [], _, _ => none
  | r :: rs, k, o =>
    if r.kind = k ∧ r.off ≤ o ∧ (o - r.off) / r.stride < r.count ∧ (o - r.off) % r.stride < r.bits / 8 then
      some (r, (o - r.off) % r.stride / 4)
    else findIn rs k o

/-- The register that holds the word at a device control space address. -/
def findReg (a : Nat) : Option (RegDef × Nat) :=
  match dieKind (a / 2 ^ 24) with
  | none => none
  | some k => findIn regTable k (a % 2 ^ 24)

/-- Gathers the fields that meet word `w` of a register, each value shifted into the word. -/
def wordOfFields (val : RegField → Nat) (w : Nat) : List RegField → Nat
  | [] => 0
  | f :: fs =>
    (((val f % 2 ^ (f.hi + 1 - f.lo)) <<< f.lo) >>> (32 * w)) % 2 ^ 32 + wordOfFields val w fs

/-- The mask of the fields that satisfy `q`, in word `w`. -/
def maskOf (q : RegField → Bool) (w : Nat) (fs : List RegField) : Word :=
  BitVec.ofNat 32 (wordOfFields (fun f => if q f then 2 ^ (f.hi + 1 - f.lo) - 1 else 0) w fs)

/-- The silicon reset value of word `w` of a register of die `d`. -/
def siliconWord (d : Nat) (r : RegDef) (w : Nat) : Word :=
  BitVec.ofNat 32 (wordOfFields (fun f => if f.die then d else f.rst) w r.fields)

/-- The reset value of the word at an address: the silicon value, over which a Device reset writes what the images give (00
R6, 15 R400); zero where no register lies (01 R30). -/
def resetWord (a : Nat) : Word :=
  match findReg a with
  | none => 0
  | some (r, w) => siliconWord (a / 2 ^ 24) r w

/-- The value of the word at an address. -/
def regWord (s : State) (a : Nat) : Word :=
  match smGet none s.regs a with
  | some w => w
  | none => resetWord a

/-- Writes a word as hardware does, whatever the access type. -/
def regPut (s : State) (a : Nat) (v : Word) : State := { s with regs := smSet none s.regs a (some v) }

/-- `n` words from an address, the first least significant. -/
def regNat (s : State) (a : Nat) : Nat → Nat
  | 0 => 0
  | n + 1 => (regWord s a).toNat + 2 ^ 32 * regNat s (a + 4) n

/-- Writes `n` words of a number. -/
def regPutNat (s : State) (a v : Nat) : Nat → State
  | 0 => s
  | n + 1 => regPutNat (regPut s a (BitVec.ofNat 32 v)) (a + 4) (v / 2 ^ 32) n

/-- Bits [hi:lo] of the register at an address. -/
def regBits (s : State) (a hi lo : Nat) : Nat := bitsOf (regNat s a (hi / 32 + 1)) hi lo

/-- Replaces bits [hi:lo] of a register of at most 64 bits. -/
def regSetBits (s : State) (a hi lo x : Nat) : State :=
  let n := hi / 32 + 1
  regPutNat s a (putBits (regNat s a n) hi lo x) n

/-- Adds to a 64-bit counter; counters saturate (08 R235). -/
def regCount (s : State) (a : Nat) (n : Nat) : State := regPutNat s a (min (2 ^ 64 - 1) (regNat s a 2 + n)) 2

/-- What a software write of a word leaves, by the fields' access types (00 R5, R6). -/
def writtenWord (r : RegDef) (w : Nat) (old v : Word) : Word :=
  let rw := maskOf (fun f => f.acc = .rw) w r.fields
  let w1 := maskOf (fun f => f.acc = .w1c) w r.fields
  (((old &&& ~~~ rw) ||| (v &&& rw)) &&& ~~~ (v &&& w1))

/-- A software write of one word; an offset with no register ignores it (01 R30). -/
def regWrite (s : State) (a : Nat) (v : Word) : State :=
  match findReg a with
  | none => s
  | some (r, w) => regPut s a (writtenWord r w (regWord s a) v)

/-- A stored word after the fields of the given classes return to their reset values (00 R7, 16 R433). -/
def clearedWord (q : Cls → Bool) (a : Nat) (v : Word) : Word :=
  match findReg a with
  | none => v
  | some (r, w) =>
    let m := maskOf (fun f => q f.cls) w r.fields
    (v &&& ~~~ m) ||| (resetWord a &&& m)

/-- Clears the fields of the given classes in every register whose die satisfies `dies`. -/
def clearRegs (s : State) (dies : Nat → Bool) (q : Cls → Bool) : State :=
  { s with regs := s.regs.map (fun e => match e with
      | (a, some v) => if dies (a / 2 ^ 24) then (a, some (clearedWord q a v)) else (a, some v)
      | (a, none) => (a, none)) }

/-- A tile register (32 bits). -/
def tileReg (s : State) (t off : Nat) : Word := regWord s (dcs t off)

def SP : Nat := 101
def APL : Nat := 100
def SEC : Nat := 102
def TUN : Nat := 103

end Sys2Proof.Machine
end

