-- ==== Sys2Proof/Machine/Paths.lean ====
section
/-! DEFINITION. The Nut ring and the attachments of the service mesh: where a die stands, and the way of a frame (01 R14 to R18,
R20). -/
namespace Sys2Proof.Machine

/-- The edge tile Bridge `d` is attached to: the `n`-th Bridge of its side (01 R14). -/
def attachTile (d : Nat) : Nat :=
  let n := (d - 64) % 9
  let f := 8 * n / 9
  match (d - 64) / 9 with
  | 0 => f
  | 1 => 8 * f + 7
  | 2 => 63 - f
  | _ => 8 * (7 - f)

/-- Ring position of an edge die or Bridge (01 R16). -/
def ringPos (d : Nat) : Nat :=
  if d = APL then 0 else if d = SP then 10 else if d = SEC then 20 else if d = TUN then 30
  else (d - 64) + 1 + (d - 64) / 9

/-- Segments from one position to another, clockwise (01 R17). -/
def ringDist (p q : Nat) : Nat := (q + 40 - p) % 40

/-- Whether a frame from position `p` to position `q` travels clockwise (01 R17). -/
def ringClockwise (p q : Nat) : Bool := decide (ringDist p q ≤ 20)

/-- The next position in a direction. -/
def ringNext (cw : Bool) (p : Nat) : Nat := if cw then (p + 1) % 40 else (p + 39) % 40

/-- Whether the segment from `p` in a direction is the dateline (01 R18). -/
def onDateline (cw : Bool) (p : Nat) : Bool := if cw then p = 39 else p = 0

/-- The stops a frame reaches in `n` segments from position `p`, each with whether it is on sublane B there: it enters on
sublane A and moves to B at the dateline (01 R18). -/
def ringRun (cw : Bool) : Nat → Nat → Bool → List (Nat × Bool)
  | 0, _, _ => []
  | n + 1, p, b =>
    let b' := b || onDateline cw p
    (ringNext cw p, b') :: ringRun cw n (ringNext cw p) b'

/-- The way of a frame on the ring from die `a` to die `b`; none within one Bridge (01 R17, R20). -/
def ringWay (a b : Nat) : List (Nat × Bool) :=
  let p := ringPos a
  let q := ringPos b
  if ringClockwise p q then ringRun true (ringDist p q) p false else ringRun false (ringDist q p) p false

/-- The die at which a frame held at Bridge `d` for output `o` leaves the ring: a link's Bridge, an engine's, an edge die, or the Bridge
itself for its attachment (01 R20, 08 R220). -/
def ringExit (d o : Nat) : Nat :=
  if o < 36 then 64 + o else if o = 36 then d else if o < 73 then 64 + (o - 37) else if o = 73 then SP else APL

/-- The Bridge at whose attachment traffic of an edge die for the tiles, program loading among it, enters the service mesh (01 R20). -/
def edgeEntry (die : Nat) : Nat := if die = SP then 72 else 64

/-- The Bridge at whose attachment traffic of the tiles for an edge die leaves the service mesh (01 R20). -/
def edgeLeave (die : Nat) : Nat := if die = SP then 73 else 99

/-- The only way from an edge die to the tiles: stops of the ring, then the tile of an attachment (01 R15, R20). -/
def edgeWayIn (die : Nat) : List (Nat × Bool) × Nat := (ringWay die (edgeEntry die), attachTile (edgeEntry die))

/-- The way from the tiles to an edge die. -/
def edgeWayOut (die : Nat) : Nat × List (Nat × Bool) := (attachTile (edgeLeave die), ringWay (edgeLeave die) die)

end Sys2Proof.Machine
end

