-- ==== Sys2Proof/Machine/Ecc.lean ====
section
/-! DEFINITION. Check codes of a core's memories and datapaths: the errors that stand in words, what a read of them finds, and the
upsets that residue codes catch (17 R440 to R445). No command makes an error: they come from outside (log 87). -/
namespace Sys2Proof.Machine

/-- What a word of a core's arrays holds (17 R444): 0 local store and 1 instruction store by 64-bit word, 2 the register files: by
register code, the receive registers as 05 R136 codes them, accumulator entries from 64, drain latch words from 320 (DESIGN CHOICE,
log 87). -/
def wordHeld (k : Core) (arr idx : Nat) : Nat :=
  match arr with
  | 0 => memNat k.ls (8 * idx) 8
  | 1 => memNat k.is (8 * idx) 8
  | _ =>
    if idx < 32 then ((k.s[idx]?).getD 0).toNat
    else if idx < 48 then ((k.v[idx - 32]?).getD 0).toNat
    else if idx < 56 then ((k.rx[idx - 48]?).getD 0).toNat
    else if idx < 64 then ((k.vrx[idx - 56]?).getD 0).toNat
    else if idx < 320 then (smGet AccEntry.reset k.acc (idx - 64)).sum.toNat
    else (smGet LatchEntry.reset k.latch (idx - 320)).val.toNat

/-- The errors that stand in some words: an error lasts until the word holds something else (17 R442, R443). -/
def standing (k : Core) (arr : Nat) (idxs : List Nat) : List Mark :=
  k.ecc.marks.filter (fun m => m.arr = arr && idxs.contains m.idx && m.held = wordHeld k arr m.idx)

/-- Adds events to be counted in TIL_ERRCNTn. -/
def eccNote (k : Core) (ns : List Nat) : Core :=
  if ns.isEmpty then k else { k with ecc := { k.ecc with counts := k.ecc.counts ++ ns } }

/-- A read of words of an array through its check code: the core with what is counted, and whether the read is uncorrectable (17 R442,
R444). -/
def eccRead (k : Core) (arr : Nat) (idxs : List Nat) : Core × Bool :=
  if k.ecc.marks.isEmpty then (k, false)
  else
    let ms := standing k arr idxs
    (eccNote k (ms.map (fun m => if m.ue then 3 else if arr = 0 then 0 else 1)), ms.any (·.ue))

/-- Reads of several arrays. -/
def eccReads (k : Core) : List (Nat × List Nat) → Core × Bool
  | [] => (k, false)
  | x :: xs =>
    let (k, a) := eccRead k x.1 x.2
    let (k, b) := eccReads k xs
    (k, a || b)

/-- The 64-bit words of bytes [a, a + n). -/
def wordsOf (a n : Nat) : List Nat := if n = 0 then [] else (List.range ((a + n - 1) / 8 - a / 8 + 1)).map (· + a / 8)

/-- A fault that halts the plane at the end of issue cycle `h` (17 R445). -/
def eccDue (k : Core) (h pc code : Nat) : Core := { k with ecc := { k.ecc with due := k.ecc.due ++ [(h, pc, code)] } }

/-- The upset that meets the next checked operation of one of some units, and the core without it (17 R440). -/
def takeUpset (k : Core) (units : List Nat) : Core × Option Upset :=
  match k.ecc.upsets.find? (fun u => units.contains u.unit) with
  | some u => ({ k with ecc := { k.ecc with upsets := k.ecc.upsets.erase u } }, some u)
  | none => (k, none)

/-- ARITH_CHECK where the residues modulo `m` differ (17 R440, R441): recorded, and counted in TIL_ERRCNT5. -/
def residueCheck (k : Core) (m : Nat) (u : Upset) (pc issue : Nat) : Core :=
  if u.err % (m : Int) = 0 then k
  else
    let f := k.fault
    eccNote { k with fault := if f.code = 0 then ⟨0x16, pc, false, issue⟩ else { f with more := true } } [5]

end Sys2Proof.Machine
end

