-- ==== Sys2Proof/Machine/Ops.lean ====
section
/-! DEFINITION. The named operations on cores: registers and stores, the per-core control window, results on their way,
the matrix pipeline, landing buffers and gates. -/
namespace Sys2Proof.Machine

/-- The three outcomes of a command. -/
abbrev Out := Host.Outcome State Fault Refusal

/-- Logical cores of the module: 64 tiles of 16,384 (01 R12). -/
def coreCount : Nat := 1048576

/-- Tile of a core number, and its logical core within the tile. -/
def tileOf (c : Nat) : Nat := c / 16384
def lcOf (c : Nat) : Nat := c % 16384

/-- Module coordinates of a core (04 R111): tile (tx, ty) has die ID 8 ty + tx, logical core cy × 128 + cx. -/
def gxOf (c : Nat) : Nat := 128 * (tileOf c % 8) + lcOf c % 128
def gyOf (c : Nat) : Nat := 128 * (tileOf c / 8) + lcOf c / 128

/-- The core at module coordinates. -/
def coreAt (gx gy : Nat) : Nat := (8 * (gy / 128) + gx / 128) * 16384 + (gy % 128) * 128 + gx % 128

/-- The state of a core. -/
def coreOf (s : State) (c : Nat) : Core := smGet Core.reset s.cores c

/-- Writes a core back. -/
def setCore (s : State) (c : Nat) (k : Core) : State := { s with cores := smSet Core.reset s.cores c k }

/-- Changes one core. -/
def modCore (s : State) (c : Nat) (f : Core → Core) : State := setCore s c (f (coreOf s c))

/-- Changes every core the state lists. -/
def mapCores (s : State) (f : Nat → Core → Core) : State :=
  s.cores.foldl (fun a e => setCore a e.1 (f e.1 e.2)) s

/-- Whether a rectangle (west, north, east, south) holds a core. -/
def inRect (c : Nat) (r : Nat × Nat × Nat × Nat) : Bool :=
  r.1 ≤ gxOf c && gxOf c ≤ r.2.2.1 && r.2.1 ≤ gyOf c && gyOf c ≤ r.2.2.2

/-- IDLE of CORE_PC: no CODE section of the loaded image covers the core (04 R122, R130). -/
def coreIdle (s : State) (c : Nat) : Bool :=
  match s.image with
  | none => true
  | some i => !i.rects.any (inRect c)

/-- The cores of a rectangle. -/
def rectCores (r : Nat × Nat × Nat × Nat) : List Nat :=
  (List.range (r.2.2.2 + 1 - r.2.1)).flatMap (fun j =>
    (List.range (r.2.2.1 + 1 - r.1)).map (fun i => coreAt (r.1 + i) (r.2.1 + j)))

/-- Every core that is not idle. -/
def coveredCores (s : State) : List Nat :=
  match s.image with
  | none => []
  | some i => (i.rects.flatMap rectCores).eraseDups

/-- Every core that is neither idle nor halted. -/
def activeCores (s : State) : List Nat := (coveredCores s).filter (fun c => !(coreOf s c).halted)

-- Registers ---------------------------------------------------------------------------------------------------------

/-- A scalar register. -/
def sGet (k : Core) (i : Nat) : Word := (k.s[i]?).getD 0
/-- A predicate. -/
def pGet (k : Core) (i : Nat) : Bool := (k.p[i]?).getD false
/-- A vector register. -/
def vGet (k : Core) (i : Nat) : VWord := (k.v[i]?).getD 0
/-- A scalar pair: the even register holds bits [31:0] (02 R34). -/
def pairGet (k : Core) (i : Nat) : DWord := BitVec.ofNat 64 ((sGet k i).toNat + 2 ^ 32 * (sGet k (i + 1)).toNat)

/-- A landing buffer. -/
def lbGet (k : Core) (n : Nat) : LandBuf := smGet LandBuf.reset k.lb n
def lbSet (k : Core) (n : Nat) (b : LandBuf) : Core := { k with lb := smSet LandBuf.reset k.lb n b }

/-- Whether a landing buffer is complete (04 R120, 05 R155, 06 R180). -/
def lbComplete (b : LandBuf) : Bool :=
  match b.rule with
  | .plain => b.count = b.len
  | .counted none => false
  | .counted (some t) => b.count = t

/-- CORE_LBn as a word (04 R122). -/
def lbWord (b : LandBuf) : Nat :=
  b.base + (b.len <<< 16) + (b.count <<< 32) + (if b.armed then 2 ^ 48 else 0) + (if b.gated then 2 ^ 49 else 0) +
    (if b.overfill then 2 ^ 50 else 0)

/-- CORE_FAULT as a word (05 R157). -/
def faultWord (f : CoreFault) : Nat :=
  f.code + (f.pc % 2048) <<< 8 + (if f.more then 2 ^ 19 else 0) + (f.issue % 2 ^ 44) <<< 20

/-- A 32-bit read of the per-core window by CSRR; unimplemented offsets read zero (05 R140). `idle` is CORE_PC.IDLE. -/
def csrRead32 (idle : Bool) (k : Core) (off : Nat) : Word :=
  if off = 0x000 then BitVec.ofNat 32 (k.pc % 2048 + (if idle then 2048 else 0) + (if k.halted then 4096 else 0))
  else if off = 0x008 then BitVec.ofNat 32 k.outbox.length
  else if off = 0x010 then BitVec.ofNat 32 (faultWord k.fault)
  else if off = 0x014 then BitVec.ofNat 32 (faultWord k.fault >>> 32)
  else if off = 0x018 then BitVec.ofNat 32 (k.capo % 65536)
  else if off = 0x040 then k.fpctl
  else if off = 0x044 then k.fpstat
  else if off = 0x048 then k.blkuf
  else if off = 0x04C then k.mxstat
  else if off = 0x050 then BitVec.ofNat 32 k.srseq.toNat
  else if off = 0x054 then BitVec.ofNat 32 (k.srseq.toNat >>> 32)
  else if off = 0x058 then k.mxctl
  else if off = 0x060 then k.spstat
  else if off = 0x068 then BitVec.ofNat 32 k.spcyc.toNat
  else if off = 0x06C then BitVec.ofNat 32 (k.spcyc.toNat >>> 32)
  else if off = 0x070 then BitVec.ofNat 32 k.spskip.toNat
  else if off = 0x074 then BitVec.ofNat 32 (k.spskip.toNat >>> 32)
  else if 0x100 ≤ off ∧ off < 0x180 then
    BitVec.ofNat 32 (lbWord (lbGet k ((off - 0x100) / 8)) >>> (if off % 8 = 0 then 0 else 32))
  else 0

/-- A 32-bit write of the per-core window: fields behave by their types, unimplemented offsets ignore it (05 R140, 00
R6). -/
def csrWrite32 (k : Core) (off : Nat) (v : Word) : Core :=
  if off = 0x040 then { k with fpctl := v &&& 0x7 }
  else if off = 0x044 then { k with fpstat := k.fpstat &&& ~~~ (v &&& 0x3F3F) }
  else if off = 0x048 then { k with blkuf := v }
  else if off = 0x04C then { k with mxstat := k.mxstat &&& ~~~ (v &&& 0x303) }
  else if off = 0x050 then
    { k with srseq := BitVec.ofNat 48 (putBits k.srseq.toNat 31 0 v.toNat) }
  else if off = 0x054 then
    { k with srseq := BitVec.ofNat 48 (putBits k.srseq.toNat 47 32 v.toNat) }
  else if off = 0x058 then { k with mxctl := v &&& 0x001F0FFF }
  else if off = 0x070 then { k with spskip := BitVec.ofNat 64 (putBits k.spskip.toNat 31 0 v.toNat) }
  else if off = 0x074 then { k with spskip := BitVec.ofNat 64 (putBits k.spskip.toNat 63 32 v.toNat) }
  else if 0x100 ≤ off ∧ off < 0x180 ∧ off % 8 = 4 then
    let n := (off - 0x100) / 8
    if v.getLsbD 18 then lbSet k n { lbGet k n with overfill := false } else k
  else k

/-- A CSRW of 4 or 8 bytes. -/
def csrWrite (k : Core) (off size v : Nat) : Core :=
  if size = 8 then csrWrite32 (csrWrite32 k off (BitVec.ofNat 32 v)) (off + 4) (BitVec.ofNat 32 (v >>> 32))
  else csrWrite32 k off (BitVec.ofNat 32 v)

-- Results on their way ----------------------------------------------------------------------------------------------

/-- Writes a result where it goes. -/
def applyDst (k : Core) (d : Dst) (v : Nat) : Core :=
  match d with
  | .s i => { k with s := k.s.setIfInBounds i (BitVec.ofNat 32 v) }
  | .p i => { k with p := k.p.setIfInBounds i (v % 2 = 1) }
  | .v i => { k with v := k.v.setIfInBounds i (BitVec.ofNat 512 v) }
  | .rx i => { k with rx := k.rx.setIfInBounds i (BitVec.ofNat 64 v) }
  | .vrx i => { k with vrx := k.vrx.setIfInBounds i (BitVec.ofNat 512 v) }
  | .csr off size => csrWrite k off size v
  | .ls a n => { k with ls := memWrite k.ls a (bytesLE n v) }
  | .is a n => { k with is := memWrite k.is a (bytesLE n v) }

/-- Adds a result that becomes readable in cycle `due`. -/
def addWb (k : Core) (due : Nat) (d : Dst) (v : Nat) : Core := { k with wb := k.wb ++ [⟨due, d, v⟩] }

/-- Adds the two halves of a pair result (02 R34). -/
def addPair (k : Core) (due i v : Nat) : Core :=
  addWb (addWb k due (.s i) (v % 2 ^ 32)) due (.s (i + 1)) (v / 2 ^ 32)

/-- Where a result goes to local store. -/
def isLsDst : Dst → Bool
  | .ls _ _ => true
  | _ => false

/-- A store of an instruction that issued in cycle `due - 1`: the bytes are there at once, and they are written again after a
result for local store that takes effect in cycle `due`, since a load of that cycle sees the stored bytes (04 R98, R99), and
after a spill word on its way, whose value the store replaces (03 R93). -/
def storeLs (k : Core) (due a n v : Nat) : Core :=
  let k := { k with ls := memWrite k.ls a (bytesLE n v) }
  let k := if k.spill.isEmpty then k else { k with spill := k.spill ++ [⟨due, .ls a n, v⟩] }
  if k.wb.any (fun w => decide (w.due = due) && isLsDst w.dst) then addWb k due (.ls a n) v else k

/-- Writes the results due by cycle `n`, in the order of issue, so that of two writes in one cycle the later-issued
instruction's is kept (04 R99). -/
def commitWb (k : Core) (n : Nat) : Core :=
  (k.wb.filter (fun w => w.due ≤ n)).foldl (fun a w => applyDst a w.dst w.val)
    { k with wb := k.wb.filter (fun w => !(w.due ≤ n)) }

/-- Writes the spill words due by cycle `n` (03 R84, R93). -/
def commitSpill (k : Core) (n : Nat) : Core :=
  (k.spill.filter (fun w => w.due ≤ n)).foldl (fun a w => applyDst a w.dst w.val)
    { k with spill := k.spill.filter (fun w => !(w.due ≤ n)) }

/-- Raises step flags of CORE_FPSTAT. -/
def raiseFp (k : Core) (f : FFlags) : Core := { k with fpstat := fpstatRaise k.fpstat f }
/-- Raises step flags of CORE_MXSTAT. -/
def raiseMx (k : Core) (f : BitVec 2) : Core := { k with mxstat := mxstatRaise k.mxstat f }

/-- Records a fault of a core: the first stays, MORE marks a further one (05 R157). -/
def recordFault (k : Core) (code pc issue : Nat) : Core :=
  if k.fault.code = 0 then { k with fault := ⟨code, pc, false, issue⟩ }
  else { k with fault := { k.fault with more := true } }

-- The matrix pipeline -----------------------------------------------------------------------------------------------

def accGet (k : Core) (i : Nat) : AccEntry := smGet AccEntry.reset k.acc i
def accSet (k : Core) (i : Nat) (e : AccEntry) : Core := { k with acc := smSet AccEntry.reset k.acc i e }
def latchGet (k : Core) (i : Nat) : LatchEntry := smGet LatchEntry.reset k.latch i
def latchSet (k : Core) (i : Nat) (e : LatchEntry) : Core := { k with latch := smSet LatchEntry.reset k.latch i e }

/-- The value a spill word will have once the writes on their way have landed (03 R93). -/
def spillRead (k : Core) (a : Nat) : Nat :=
  memNat (k.spill.foldl (fun m w => match w.dst with
    | .ls b n => memWrite m b (bytesLE n w.val)
    | _ => m) k.ls) a 8

/-- A spill-port write in cycle `n`: core loads see it from `n + 1` (03 R93). -/
def spillWrite (k : Core) (n a v : Nat) : Core := { k with spill := k.spill ++ [⟨n + 1, .ls a 8, v⟩] }

/-- What the random word of a rounding depends on besides SEQ and the accumulator index (03 R80). -/
structure SrKey where
  k0 : Nat
  k1 : Nat
  step : Nat
  coreIdx : Nat
  mod : Nat
deriving DecidableEq, Repr

/-- The keys of a core, from its tile's registers (03 R80, R81). -/
def srKey (s : State) (c : Nat) : SrKey :=
  let t := tileOf c
  ⟨(tileReg s t 0x800).toNat, (tileReg s t 0x804).toNat, (tileReg s t 0x80C).toNat, c, (tileReg s t 0x808).toNat⟩

/-- A group step in cycle `n` of an instruction at `pc`, and the plucked spill it may trigger (03 R73, R82 to R85, R89). A spill that
reads an uncorrectable word halts the plane, and the entry keeps its value (17 R445). -/
def mxGroup (key : SrKey) (n pc : Nat) (k : Core) (idx : Nat) (pairs : List (Opnd × Opnd)) (ctx : AccCtx) (cls : MClass)
    (sr : Bool) : Core :=
  let e := accGet k idx
  match ctx.fmt with
  | .int32 =>
    let v := intStep e.exact pairs
    raiseMx (accSet k idx { e with sum := BitVec.ofNat 64 (ofSigned 32 v), exact := v }) (if intWraps v then mxWrap else 0)
  | _ =>
    let f := fpOfAcc ctx.fmt
    let rm := if sr then Rm.sr (randomWord key.k0 key.k1 k.srseq.toNat (idx % 256) key.step key.coreIdx key.mod) else .ne
    let (v, fl) := groupStep f (guardBits cls) rm e.sum.toNat pairs
    let g := e.groups + 1
    let k := raiseFp k fl
    let k := raiseMx k (if ctx.mode = .bowed ∧ g = 4097 then mxBound else 0)
    let spills := decide (ctx.mode = .plucked ∧ e.pluckN + 1 = ctx.pluckS)
    let (k, bad) := if spills then eccRead k 0 [ctx.spillAt / 8] else (k, false)
    if bad then eccDue (accSet k idx { e with sum := BitVec.ofNat 64 v, pluckN := e.pluckN + 1, groups := g }) n pc 0x30
    else if spills then
      let (w, fl') := spillAdd (spillRead k ctx.spillAt) v
      spillWrite (raiseFp (accSet k idx { e with sum := 0, pluckN := 0, groups := g }) fl') n ctx.spillAt w
    else accSet k idx { e with sum := BitVec.ofNat 64 v, pluckN := e.pluckN + 1, groups := g }

/-- An upset of the group-step adder: the sum is off, and its residues are compared (17 R440, R441). -/
def upsetGroup (n pc : Nat) (fmt : AccFmt) (idx : Nat) (k : Core) : Core :=
  if k.ecc.upsets.isEmpty then k
  else
    match takeUpset k [2, 3] with
    | (k, some u) =>
      let e := accGet k idx
      residueCheck (accSet k idx { e with sum := e.sum ^^^ BitVec.ofNat 64 u.flip }) (if fmt = .int32 then 3 else 15) u pc (n - 6)
    | (k, none) => k

/-- One action of the matrix pipeline in cycle `n`, of an instruction at `pc`: with it, whether a floating-point group was rounded (03
R81). -/
def mxAct (key : SrKey) (n pc : Nat) (k : Core) (a : MxAct) : Core × Bool :=
  match a with
  | .group idx pairs ctx cls sr => (upsetGroup n pc ctx.fmt idx (mxGroup key n pc k idx pairs ctx cls sr), ctx.fmt ≠ .int32)
  | .start idx ctx =>
    let k := accSet k idx { accGet k idx with sumFmt := ctx.fmt, sum := 0, pluckN := 0, groups := 0, exact := 0 }
    (if ctx.mode = .plucked then spillWrite k n ctx.spillAt 0 else k, false)
  | .drain idx ctx =>
    let e := accGet k idx
    let k' := accSet k idx (if idx < 256 then { e with sum := 0, pluckN := 0, groups := 0, exact := 0 } else AccEntry.reset)
    if ctx.mode = .plucked then
      let (w, fl) := spillAdd (spillRead k ctx.spillAt) e.sum.toNat
      (spillWrite (raiseFp (latchSet k' (idx % 256) ⟨BitVec.ofNat 64 w, .fp64⟩) fl) n ctx.spillAt 0, false)
    else (latchSet k' (idx % 256) ⟨e.sum, ctx.fmt⟩, false)
  | .load idx fmt v old =>
    let k := accSet k idx { accGet k idx with
      sumFmt := fmt, sum := v, pluckN := 0, groups := 0, exact := toSigned 32 (v.toNat % 2 ^ 32) }
    (match old with | some a => spillWrite k n a 0 | none => k, false)
  | .clearLatch idx fmt => (latchSet k idx ⟨0, fmt⟩, false)

/-- Runs actions in order, gathering whether any group was rounded. -/
def mxRun (key : SrKey) (n : Nat) : List MxEvent → Core × Bool → Core × Bool
  | [], r => r
  | e :: es, (k, b) => let (k', b') := mxAct key n e.pc k e.act; mxRun key n es (k', b || b')

/-- The matrix pipeline in cycle `n`; SEQ advances by one when a group was rounded (03 R81). -/
def commitMx (key : SrKey) (n : Nat) (k : Core) : Core :=
  let now := k.mx.filter (fun e => e.due ≤ n)
  let (k', rounded) := mxRun key n now ({ k with mx := k.mx.filter (fun e => !(e.due ≤ n)) }, false)
  if rounded then { k' with srseq := k'.srseq + 1 } else k'

/-- Adds actions to the pipeline. -/
def addMx (k : Core) (due : Nat) (as : List MxAct) : Core := { k with mx := k.mx ++ as.map (fun a => ⟨due, a, k.last⟩) }

/-- Whether an action of the pipeline belongs to an entry's accumulation (05 R150). -/
def actOf (idx : Nat) : MxAct → Bool
  | .group i _ _ _ _ => i = idx
  | .start i _ => i = idx
  | .drain i _ => i = idx
  | .load i _ _ _ => i = idx
  | .clearLatch _ _ => false

/-- Appends one lane's operand pairs to an entry in issue cycle `n`; a full group enters the pipeline (03 R71, R89). -/
def appendPairs (k : Core) (n idx : Nat) (cls : MClass) (sr : Bool) (pairs : List (Opnd × Opnd)) : Core :=
  let e := accGet k idx
  let all := e.opn ++ pairs
  let g := groupSize cls
  if all.length < g then accSet k idx { e with opn := all, cls := cls, sr := sr }
  else
    addMx (accSet k idx { e with opn := all.drop g, cls := cls, sr := sr }) (n + 6)
      [.group idx (all.take g) e.ctx cls sr]

/-- Initialises an entry from issue cycle `n` on: open group emptied at once, the sum when the pipeline gets there (05
R149; DEDUCED, log 9). -/
def initEntry (k : Core) (n idx : Nat) (ctx : AccCtx) : Core :=
  addMx (accSet k idx { accGet k idx with ctx := ctx, opn := [] }) (n + 6) [.start idx ctx]

/-- DRAIN of one entry: its open group closes short, and the capture follows in cycle `n + 6` (03 R91). The rule does not date the
rounding of the short group: with the capture, in its order (DESIGN CHOICE, log 81). -/
def drainEntry (n : Nat) (k : Core) (idx : Nat) : Core :=
  let e := accGet k idx
  let short := if e.opn.isEmpty then [] else [MxAct.group idx e.opn e.ctx e.cls e.sr]
  addMx (accSet k idx { e with opn := [] }) (n + 6) (short ++ [.drain idx e.ctx])

/-- The entries of tile `a`, or of all four tiles when `a` is 4 (05 R138). -/
def tileEntries (a : Nat) : List Nat :=
  if a = 4 then List.range 256 else (List.range 64).map (· + 64 * a)

/-- DRAIN in issue cycle `n`. -/
def drainTiles (k : Core) (n a : Nat) : Core := (tileEntries a).foldl (drainEntry n) k

/-- An action of entry `idx` as one of entry `to_`; an action of another entry as it is. -/
def moveAct (idx to_ : Nat) : MxAct → MxAct
  | .group i ps x cl sr => .group (if i = idx then to_ else i) ps x cl sr
  | .start i x => .start (if i = idx then to_ else i) x
  | .drain i x => .drain (if i = idx then to_ else i) x
  | .load i f v o => .load (if i = idx then to_ else i) f v o
  | .clearLatch i f => .clearLatch i f

/-- The context of a DRAIN of entry `idx`. -/
def drainOf (idx : Nat) : MxAct → Option AccCtx
  | .drain i x => if i = idx then some x else none
  | _ => none

/-- The pipeline without what it holds for entry `idx` after its last DRAIN; what that DRAIN captures moves to entry `to_`. Says
whether there is such a DRAIN. -/
def keepDrained (idx to_ : Nat) : List MxEvent → List MxEvent × Bool
  | [] => ([], false)
  | m :: ms =>
    let (r, d) := keepDrained idx to_ ms
    if actOf idx m.act then
      if d || (drainOf idx m.act).isSome then ({ m with act := moveAct idx to_ m.act } :: r, true) else (r, d)
    else (m :: r, d)

/-- Where a DRAIN under way goes on when its entry is initialised meanwhile: entries from 256 on are the model's own, one for
each DRAIN of an entry so overtaken, until its latch update (DEDUCED, log 10). -/
def shadowOf (k : Core) (idx : Nat) : Nat :=
  idx + 256 * (1 + ((List.range (k.mx.length + 1)).find? (fun j =>
    k.mx.all (fun m => !actOf (idx + 256 * (1 + j)) m.act))).getD 0)

/-- Whether a list of events holds a DRAIN of entry `idx`. -/
def hasDrain (es : List MxEvent) (idx : Nat) : Bool := es.any (fun e => (drainOf idx e.act).isSome)

/-- What the pipeline did in cycle `n` for entries that an ACCINIT or ACCLD of that cycle initialises is undone, but for what a
DRAIN captured in it: their group steps are discarded with their flags, spills and SEQ (05 R150). -/
def discardNow (key : SrKey) (n : Nat) (k : Core) (idxs : List Nat) : Core :=
  match k.undo with
  | none => k
  | some u =>
    let gone := fun (e : MxEvent) => idxs.any (fun i => actOf i e.act && !hasDrain u.ran i)
    if u.n ≠ n || !u.ran.any gone then k
    else
      let k0 := { k with acc := u.acc, latch := u.latch, fpstat := u.fpstat, mxstat := u.mxstat, srseq := u.srseq
                         spill := u.spill, undo := none }
      let (k', rounded) := mxRun key n (u.ran.filter (fun e => !gone e)) (k0, false)
      if rounded then { k' with srseq := k'.srseq + 1 } else k'

/-- ACCINIT and ACCLD of one entry in issue cycle `n`: what the pipeline still holds for it is discarded, but for what an earlier
DRAIN captures, and it takes its initial value, readable two cycles later (03 R91, 05 R150). A plucked entry's spill word
becomes +0, at once or by the DRAIN that still merges it. -/
def loadEntry (k : Core) (n idx : Nat) (fmt : AccFmt) (v : DWord) : Core :=
  let e := accGet k idx
  let merging := k.mx.any (fun m => (drainOf idx m.act).any (fun x => x.mode = .plucked ∧ x.spillAt = e.ctx.spillAt))
  let old := if e.ctx.live ∧ e.ctx.mode = .plucked ∧ !merging then some e.ctx.spillAt else none
  let to_ := shadowOf k idx
  let (mx, drains) := keepDrained idx to_ k.mx
  let k := if drains then accSet { k with mx := mx } to_ e else { k with mx := mx }
  addMx (accSet k idx { e with ctx := ⟨true, fmt, .direct, 0, 0⟩, opn := [] }) (n + 2) [.load idx fmt v old]

-- Gates -------------------------------------------------------------------------------------------------------------

/-- Whether a condition of a core is satisfied in this state of it (04 R123, R124, 05 R151, 06 R159). -/
def gateSat (k : Core) (g : Gate) : Bool :=
  match g.kind with
  | .gate m =>
    (setBits m 16).all (fun b => (lbGet k b).armed && lbComplete (lbGet k b)) &&
      (!bitAt m 16 || k.outbox.all (fun e => g.g ≤ e.posted))
  | .outbox => k.outbox.length < 8
  | .spjoin => match k.sparse with | .running _ _ _ _ => false | _ => true
  | .capo => k.capo = 0
  | .fence => true
  | .seqBuf b => (lbGet k b).armed && lbComplete (lbGet k b)

/-- The gated bit of a buffer sets, and the flags its chunks carried join the step flags (01 R23, 10 R262). -/
def gateBuf (k : Core) (b : Nat) : Core :=
  let fl := k.lateFlags.filter (fun x => x.1 = b)
  let k := lbSet k b { lbGet k b with gated := true }
  let k := { k with lateFlags := k.lateFlags.filter (fun x => !(x.1 = b)) }
  fl.foldl (fun a x => raiseMx (raiseFp a x.2.1) x.2.2) k

/-- Adds the results of a joined sparse run (06 R161). -/
def joinSparse (k : Core) (r : SparseRes) : Core :=
  let k := raiseMx (raiseFp k r.flags) r.mx
  { k with
    spskip := BitVec.ofNat 64 (min (2 ^ 32 - 1) (k.spskip.toNat % 2 ^ 32 + r.skipped) +
      2 ^ 32 * min (2 ^ 32 - 1) (k.spskip.toNat / 2 ^ 32 + r.missed))
    spstat := BitVec.ofNat 32 (r.fcode <<< 8 + r.frow <<< 16)
    spcyc := BitVec.ofNat 64 (r.run % 2 ^ 32)
    sparse := .idle }

/-- The lowest code of a list; 0 for none (05 R157). -/
def lowestCode : List Nat → Nat
  | [] => 0
  | [c] => c
  | c :: cs => min c (lowestCode cs)

/-- The KEY_FAULT and ADDRESS answers to requests posted before the fence are taken at its gate point, the lowest code recorded
(05 R151, R157; 12 R321). -/
def takeKeyFault (k : Core) (g : Gate) : Core × Option Nat :=
  let code := lowestCode ((k.naks.filter (fun x => x.1 < g.g)).map (·.2))
  if code = 0 then (k, none)
  else (recordFault { k with naks := k.naks.filter (fun x => !(x.1 < g.g)) } code g.pc (g.g + 39), some code)

/-- What a satisfied gate does before issue cycle g + 40 issues; with it, a halt-class fault taken there (04 R123, 05
R151, 06 R161). A SPJOIN joins the sparse-unit instruction issued before it (06 R160). -/
def applyGate (k : Core) (g : Gate) : Core × Option Nat :=
  match g.kind with
  | .gate m =>
    let k := (setBits m 16).foldl gateBuf k
    (if bitAt m 16 then { k with prot := k.prot.filter (fun p => g.g < p.gateFrom) } else k, none)
  | .outbox => (k, none)
  | .spjoin =>
    if !k.sparseOut || g.g ≤ k.sparseAt then (k, none)
    else match k.sparse with
    | .finished r =>
      let k := { joinSparse k r with sparseOut := false }
      let k := if r.check then residueCheck k 15 ⟨6, 1, 0⟩ g.pc g.g else k
      if r.ras ≠ 0 then (recordFault k r.ras g.pc (g.g + 39), some r.ras)
      else if r.halt then (recordFault k r.fcode g.pc (g.g + 39), some r.fcode) else (k, none)
    | _ => ({ k with sparseOut := false }, none)
  | .capo => takeKeyFault k g
  | .fence => takeKeyFault k g
  | .seqBuf b => (gateBuf k b, none)

end Sys2Proof.Machine
end

