-- ==== Sys2Proof/Machine/Signals.lean ====
section
/-! DEFINITION. What reports leave behind: interrupts, fault records, the fault log, the end of a run, and the plane halt
(05 R156, R157; 14 R374, R375, R388; 17 R435 to R439). -/
namespace Sys2Proof.Machine

/-- Adds to the log of what left the module. -/
def emit (s : State) (o : Output) : State := { s with out := s.out ++ [o] }

-- Guards ------------------------------------------------------------------------------------------------------------

/-- PWR_STAT.STATE: 0 to 3 for A0 to A3, 4 for TRIPPED (16 R423). -/
def pwrState (s : State) : Nat := regBits s (dcs SP 0x200008) 2 0

/-- The Soundpost serves: its Device reset sequence is complete and MUTE has not stopped it (17 R449, 18 R464). -/
def soundpostRuns (s : State) : Bool := s.life = .up && !s.muted

/-- The clocks of tiles and Bridges run: the module is up, not muted, in A0 or A1 (16 R429, 17 R448). -/
def clocksRun (s : State) : Bool := soundpostRuns s && pwrState s ≤ 1

/-- The Bridges work: powered, and not stopped by MUTE or a trip (16 R429, 17 R448). -/
def bridgesOn (s : State) : Bool := soundpostRuns s && pwrState s ≤ 2

/-- Whether a die answers device control space accesses in the present power state (01 R30). -/
def dieLive (s : State) (d : Nat) : Bool :=
  if d < 64 then pwrState s ≤ 1 else if d < 100 then pwrState s ≤ 2 else d < 104

/-- ROLE of the session on a mailbox: 0 none, 1 HOST, 2 BMC (14 R379). -/
def sessionRole (s : State) (n : Nat) : Nat := regBits s (dcs SP (0x800 + 8 * n)) 6 5

/-- Whether a HOST session is open on the module (14 R366). -/
def hostSession (s : State) : Bool := (List.range 16).any (fun n => sessionRole s n = 1)

/-- A transaction of the host that the module takes: a muted module completes it after resumption (17 R450), and one that is
not up takes none (log 2). -/
def hostTxn (i : Instr) (s : State) (f : State → State) : Out :=
  .next (if s.life ≠ .up then s
    else if s.muted then { s with mute := { s.mute with waiting := s.mute.waiting ++ [i] } }
    else f s)

/-- What a device control space access of the host meets at die `d`: UR until the Device reset sequence completes and at a die
without power; a write also where no HOST session is open, unless its target is exempt (01 R30, 14 R366, 18 R464). -/
def mmioServed (s : State) (d : Nat) (exempt : Bool) : Bool := dieLive s d && (exempt || hostSession s)

/-- A device control space write of the host to die `d` (01 R30, 14 R365, R366). -/
def mmioWrite (i : Instr) (d : Nat) (exempt : Bool) (s : State) (f : State → State) : Out :=
  if s.life = .released then .next (emit s (.mmioDone false))
  else hostTxn i s (fun s => if mmioServed s d exempt then emit (f s) (.mmioDone true) else emit s (.mmioDone false))

-- Interrupts --------------------------------------------------------------------------------------------------------

/-- The doorbell write of interrupt bit `b` (14 R375). -/
def doorbell (s : State) (b : Nat) : State :=
  let a := dcs APL (0x1000 + b * 0x10)
  emit s (.hostWrite (regNat s a 2) (bytesLE 4 (regWord s (a + 8)).toNat))

/-- An interrupt event: sets the pending bit; a bit that goes from 0 to 1 unmasked sends its doorbell (14 R374, R375). -/
def raiseIrq (s : State) (b : Nat) : State :=
  let st := dcs APL 0x100
  if bitAt (regWord s st).toNat b then s
  else
    let s := regSetBits s st b b 1
    if bitAt (regWord s (dcs APL 0x108)).toNat b then s else doorbell s b

/-- Sets a bit of PWR_EVT; one that goes from 0 to 1 raises interrupt bit 24 (16 R423). -/
def powerEvent (s : State) (b : Nat) : State :=
  let a := dcs SP 0x200010
  if bitAt (regWord s a).toNat b then s else raiseIrq (regSetBits s a b b 1) 24

/-- The abort epoch of the module (08 R234). -/
def epochOf (s : State) (die : Nat) : Nat :=
  if die < 64 then regBits s (dcs die 0x838) 7 0
  else if die < 100 then regBits s (dcs die 0x120) 7 0 else regBits s (dcs 64 0x120) 7 0

/-- TIL_STEPIDX as the recording die has it; Bridges and edge dies use tile 0's copy (17 R439). -/
def stepOf (s : State) (die : Nat) : Nat := (tileReg s (if die < 64 then die else 0) 0x80C).toNat

/-- Class of a fault code as TIL_FLTREC.CLASS codes it: 0 halt, 1 fail, 2 report, 3 stop (05 R156, 17 R436, R437). -/
def faultClass (code : Nat) : Nat :=
  if code ∈ [0x16, 0x17, 0x18, 0x20, 0x21, 0x22, 0x23, 0x24, 0x25, 0x27, 0x28, 0x29, 0x2A, 0x2B, 0x2C] then 1
  else if code ∈ [0x26, 0x2D, 0x2E] then 2
  else if code ∈ [0x38, 0x39] then 3
  else 0

/-- Finds a log entry with the same key among the first `n` (17 R439). -/
def findLog (s : State) (key : Nat → Bool) : Nat → Option Nat
  | 0 => none
  | n + 1 => if key n then some n else findLog s key n

/-- Adds a fault to the fault log, coalescing equal ones, counting those beyond 64 in LOST (17 R439). -/
def logFault (s : State) (die code cls detail n : Nat) : State :=
  let ctl := dcs SP 0x2F00
  let step := stepOf s die
  let ep := epochOf s die
  let w0 := code + cls <<< 8 + die <<< 16
  let same := fun i =>
    let a := dcs SP (0x3000 + i * 0x10)
    regBits s a 7 0 = code && regBits s a 22 16 = die && regBits s a 47 32 = detail && regBits s a 95 64 = step &&
      regBits s a 103 96 = ep
  let cnt := regBits s ctl 6 0
  match findLog s same cnt with
  | some i =>
    let a := dcs SP (0x3000 + i * 0x10)
    regSetBits s a 63 48 (min 0xFFFF (regBits s a 63 48 + n))
  | none =>
    if cnt < 64 then
      let a := dcs SP (0x3000 + cnt * 0x10)
      let v := w0 + detail <<< 32 + (min 0xFFFF n) <<< 48 + step <<< 64 + ep <<< 96
      regSetBits (regPutNat s a v 4) ctl 6 0 (cnt + 1)
    else regSetBits s ctl 31 16 (min 0xFFFF (regBits s ctl 31 16 + n))

/-- The fault record a die's faults go to: its own, or the Soundpost's for an edge die (17 R437). -/
def recordAddr (die : Nat) : Nat :=
  if die < 64 then dcs die 0x840 else if die < 100 then dcs die 0x130 else dcs SP 0x450

/-- Records a fault found outside the cores, and logs it (17 R437, R439); `cls` as TIL_FLTREC.CLASS. -/
def recordAs (s : State) (die code cls detail : Nat) : State :=
  let a := recordAddr die
  let s := if regBits s a 7 0 = 0 then regSetBits (regSetBits (regSetBits s a 7 0 code) a 9 8 cls) a 31 16 detail
    else regSetBits s a 10 10 1
  let s := if cls = 1 then { regSetBits s a 11 11 1 with stepCodes := s.stepCodes ++ [code] } else s
  let s := regSetBits s a 47 32 (min 0xFFFF (regBits s a 47 32 + 1))
  logFault s die code cls detail 1

def recordDie (s : State) (die code detail : Nat) : State := recordAs s die code (faultClass code) detail

/-- Link number of a Bridge, the DETAIL of its link and frame faults (17 R439). -/
def linkNo (die : Nat) : Nat := die - 64

/-- SP_RUNEND and interrupt bit 20: a run has ended (14 R388). -/
def runEnd (s : State) (result fcode : Nat) : State :=
  let v := result + (if result = 2 then fcode <<< 8 else 0) + (stepOf s 0) <<< 32
  raiseIrq (regPutNat s (dcs SP 0x200) v 2) 20

/-- The cores of a tile that have recorded a fault, ascending. -/
def faultyCores (s : State) (t : Nat) : List Nat :=
  (s.cores.filter (fun e => tileOf e.1 = t && e.2.fault.code != 0)).map (·.1)

/-- Collects the core faults of one tile as one entry: its lowest faulty core, and how many recorded one (17 R439). While
the halting issue cycle lasts, the entry follows the faults that join it. -/
def collectTile (s : State) (t : Nat) : State :=
  match faultyCores s t with
  | [] => s
  | c :: cs =>
    let code := (coreOf s c).fault.code
    match s.plane.logged.find? (fun e => e.1 = t) with
    | some (_, some i) =>
      if s.plane.halted = some s.plane.cyc then
        regPutNat s (dcs SP (0x3000 + i * 0x10))
          (code + (faultClass code) <<< 8 + t <<< 16 + (lcOf c) <<< 32 + (min 0xFFFF (cs.length + 1)) <<< 48) 2
      else s
    | some (_, none) => s
    | none =>
      let n := regBits s (dcs SP 0x2F00) 6 0
      let s := logFault s t code (faultClass code) (lcOf c) (cs.length + 1)
      let at_ := if regBits s (dcs SP 0x2F00) 6 0 = n then none else some n
      { s with plane := { s.plane with logged := s.plane.logged ++ [(t, at_)] } }

/-- Collects every tile's core faults (17 R439). -/
def collectCoreFaults (s : State) : State := (List.range 64).foldl collectTile s

/-- A halt-class fault stops the plane at the end of issue cycle `n`: the module reports the fault of the lowest core
(05 R156, R157; 14 R374, R388). The run has ended with that report, and the plane stays halted until a step abort or a wider
reset (13 R349; DEDUCED, log 23). -/
def haltPlane (s : State) (n c code : Nat) : State :=
  match s.plane.halted with
  | none =>
    let s := { s with plane := { s.plane with halted := some n, haltBy := c, run := .idle } }
    raiseIrq (runEnd s 2 code) 22
  | some h =>
    if h = n ∧ c < s.plane.haltBy then
      regSetBits { s with plane := { s.plane with haltBy := c } } (dcs SP 0x200) 15 8 code
    else s

/-- A halt-class fault of core `c` in issue cycle `n`: recorded, and the plane halts (05 R156). -/
def coreFault (s : State) (c code pc n : Nat) : State :=
  collectCoreFaults (haltPlane (modCore s c (fun k => recordFault k code pc n)) n c code)

end Sys2Proof.Machine
end

