-- ==== Sys2Proof/Machine/Ras.lean ====
section
/-! DEFINITION. Check codes beyond the cores: what is counted and recorded of memory errors, the errors of DRAM, frame SRAM, staging and
tables, and the upsets of engines, merge trees and exact-sum homes (13 R361; 17 R435, R436, R440 to R444). -/
namespace Sys2Proof.Machine

/-- SP_VOIDSTAT.UE, when a run is in progress (13 R361, 17 R444). -/
def voidUe (s : State) : State := if s.plane.run = .idle then s else regSetBits s (dcs SP 0x440) 1 1 1

/-- Counts an event in TIL_ERRCNTn; one that is uncorrectable voids the run's guarantees (17 R444). -/
def errCount (s : State) (t n : Nat) : State :=
  let s := regCount s (dcs t (0x10200 + 8 * n)) 1
  if n = 3 ∨ n = 4 then voidUe s else s

/-- Counts what a core's reads and checks have found. -/
def eccFlush (s : State) (c : Nat) : State :=
  let k := coreOf s c
  if k.ecc.counts.isEmpty then s
  else k.ecc.counts.foldl (fun s n => errCount s (tileOf c) n) (setCore s c { k with ecc := { k.ecc with counts := [] } })

/-- A halt-class fault found outside an instruction: recorded, and the plane halts at the end of the issue cycle (17 R435). -/
def recordHalt (s : State) (die code detail : Nat) : State :=
  let s := recordAs s die code 0 detail
  if s.plane.run = .running then haltPlane s s.plane.cyc coreCount code else s

/-- The errors that stand in some entries of a unit's array; `held` is what an entry holds (17 R442 to R444). -/
def unitMarks (s : State) (arr unit : Nat) (held : Nat → Nat) (idxs : List Nat) : List Mark :=
  (s.errs.marks.filter (fun m => m.1 = unit && m.2.arr = arr && idxs.contains m.2.idx && m.2.held = held m.2.idx)).map (·.2)

/-- A read of DRAM bursts through their code: what is counted in the tile, and whether it is uncorrectable (17 R443, R444). DRAM is array
16 of no unit. -/
def dramCheck (s : State) (a n : Nat) : State × Bool :=
  if s.errs.marks.isEmpty || n = 0 then (s, false)
  else
    let ms := unitMarks s 16 0 (fun i => memNat s.dram (64 * i) 64) ((List.range ((a + n - 1) / 64 - a / 64 + 1)).map (· + a / 64))
    (ms.foldl (fun s m => errCount s (a / 2 ^ 37) (if m.ue then 4 else 2)) s, ms.any (·.ue))

/-- DRAM_UE of a class in the record of the sliver's tile (17 R439, R444). -/
def recordDram (s : State) (a cls : Nat) : State := recordAs s (a / 2 ^ 37) 0x31 cls (a / 2 ^ 23 % 16384)

/-- Whether an entry of a table has an uncorrectable error: it acts as invalid until it is rewritten (17 R444). -/
def entryLost (s : State) (die arr idx held : Nat) : Bool :=
  !s.errs.marks.isEmpty && (unitMarks s arr die (fun _ => held) [idx]).any (·.ue)

/-- A read of an entry of a table: one with an uncorrectable error is recorded and halts the plane (17 R435, R444). A die's corrected words count: a Bridge's in BRG_LCNT5. -/
def tableRead (s : State) (die arr idx held : Nat) : State :=
  if s.errs.marks.isEmpty then s
  else
    let ms := unitMarks s arr die (fun _ => held) [idx]
    let s := if 64 ≤ die ∧ die < 100 then regCount s (dcs die 0x4428) (ms.filter (fun m => !m.ue)).length else s
    if ms.any (·.ue) then
      let s := if die < 64 then errCount s die 3 else voidUe s
      recordHalt s die 0x30 (arr * 4096 + idx % 4096)
    else s

/-- SRAM_UE, fail, found by a die in an entry of an array (17 R439, R444). -/
def recordSram (s : State) (die arr idx : Nat) : State :=
  let s := if die < 64 then s else voidUe s
  recordAs s die 0x30 1 (arr * 4096 + idx % 4096)

/-- Corrected words of a Bridge count in BRG_LCNT5 (17 R442). -/
def bridgeCorrected (s : State) (d n : Nat) : State := if n = 0 then s else regCount s (dcs d 0x4428) n

/-- The errors of a Bridge's array in what is read there, taken away with it: whether one is uncorrectable, in its flit or place 0 and in
another (17 R442, R444). -/
def sramRead (s : State) (d arr : Nat) (held : List Nat) : State × Bool × Bool :=
  if s.errs.marks.isEmpty then (s, false, false)
  else
    let mine := fun (m : Nat × Mark) => m.1 = d && m.2.arr = arr && held.contains m.2.held
    let ms := (s.errs.marks.filter mine).map (·.2)
    let s := { s with errs := { s.errs with marks := s.errs.marks.filter (fun m => !mine m) } }
    (bridgeCorrected s d (ms.filter (fun m => !m.ue)).length, ms.any (fun m => m.ue && m.idx = 0), ms.any (fun m => m.ue && m.idx ≠ 0))

/-- The upset that meets the next checked operation of a unit outside the cores, and the state without it (17 R440): units 64 to 99 are
the engines, 0 to 63 the merge trees, 128 + t the exact-sum homes of tile t. -/
def takeUnitUpset (s : State) (unit : Nat) : State × Option Upset :=
  match s.errs.upsets.find? (fun u => u.unit = unit) with
  | some u => ({ s with errs := { s.errs with upsets := s.errs.upsets.erase u } }, some u)
  | none => (s, none)

/-- ARITH_CHECK of a unit outside the cores, in the record of its die (17 R441). -/
def unitCheck (s : State) (die m : Nat) (u : Upset) : State :=
  if u.err % (m : Int) = 0 then s
  else
    let s := if die < 64 then errCount s die 5 else s
    recordAs s die 0x16 1 0

end Sys2Proof.Machine
end

