-- ==== Sys2Proof/Machine/Frames.lean ====
section
/-! DEFINITION. Endpoint IDs, the frame header and its checks, flits, and the Saddle subheader (07 R183, R184; 08 R211 to
R216; 10 R254; 11 R287). -/
namespace Sys2Proof.Machine

-- Checks ------------------------------------------------------------------------------------------------------------

/-- One bit of the CRC-16 with polynomial 0x1021, most significant bit first (08 R216). -/
def crc16Bit (c : BitVec 16) (b : Bool) : BitVec 16 :=
  let x := xor (c.getLsbD 15) b
  if x then (c <<< 1) ^^^ 0x1021 else c <<< 1

/-- HCRC of a byte string (08 R216). -/
def crc16 (bs : List Byte) : BitVec 16 :=
  bs.foldl (fun c b => (List.range 8).foldl (fun c i => crc16Bit c (b.getLsbD (7 - i))) c) 0xFFFF

/-- One bit of the reflected CRC-32C (08 R216). -/
def crc32Bit (poly : BitVec 32) (c : BitVec 32) (b : Bool) : BitVec 32 :=
  if xor (c.getLsbD 0) b then (c >>> 1) ^^^ poly else c >>> 1

/-- A reflected CRC-32 with the given reversed polynomial, all-ones start and final inversion. -/
def crc32With (poly : BitVec 32) (bs : List Byte) : BitVec 32 :=
  ~~~ (bs.foldl (fun c b => (List.range 8).foldl (fun c i => crc32Bit poly c (b.getLsbD i)) c) 0xFFFFFFFF)

/-- CRC-32C (08 R216). -/
def crc32c (bs : List Byte) : BitVec 32 := crc32With 0x82F63B78 bs

-- Endpoint IDs ------------------------------------------------------------------------------------------------------

/-- An endpoint ID (07 R183). -/
def epid (y x die func lc : Nat) : BitVec 32 := BitVec.ofNat 32 (lc + func <<< 14 + die <<< 17 + x <<< 24 + y <<< 28)

def epY (e : BitVec 32) : Nat := bitsOf e.toNat 31 28
def epX (e : BitVec 32) : Nat := bitsOf e.toNat 27 24
def epDie (e : BitVec 32) : Nat := bitsOf e.toNat 23 17
def epFunc (e : BitVec 32) : Nat := bitsOf e.toNat 16 14
def epLc (e : BitVec 32) : Nat := bitsOf e.toNat 13 0

/-- Whether an endpoint ID is valid (07 R184). -/
def epidOk (e : BitVec 32) : Bool :=
  decide (epY e ≤ 9 ∧ epX e ≤ 9 ∧ (epLc e = 0 ∨ epFunc e = 0)) &&
    (match epFunc e with
     | 0 => decide (epDie e < 64) | 1 => decide (epDie e < 64) | 2 => decide (64 ≤ epDie e ∧ epDie e < 100)
     | 3 => decide (epDie e = 101) | 4 => decide (epDie e = 100) | _ => false)

/-- The module's coordinates as one die has them: BRG_SELF or TIL_SELF (07 R182, R188); (row, column). -/
def selfAt (s : State) (die : Nat) : Nat × Nat :=
  let a := if die < 64 then dcs die 0x830 else dcs (if die < 100 then die else 64) 0x0
  (regBits s a 3 0, regBits s a 7 4)

-- The header --------------------------------------------------------------------------------------------------------

/-- Bits [hi:lo] of a header counted from byte 0 (08 R212). -/
def fGet (f : Frame) (hi lo : Nat) : Nat := bitsOf f.hdr.toNat hi lo
def fSet (f : Frame) (hi lo v : Nat) : Frame := { f with hdr := BitVec.ofNat 256 (putBits f.hdr.toNat hi lo v) }

def fDest (f : Frame) : BitVec 32 := BitVec.ofNat 32 (fGet f 31 0)
def fSrc (f : Frame) : BitVec 32 := BitVec.ofNat 32 (fGet f 63 32)
def fCls (f : Frame) : Nat := fGet f 65 64
def fHop (f : Frame) : Nat := fGet f 67 66
def fLast (f : Frame) : Bool := fGet f 68 68 = 1
def fMcast (f : Frame) : Bool := fGet f 69 69 = 1
def fMdim (f : Frame) : Nat := fGet f 70 70
def fCorrupt (f : Frame) : Bool := fGet f 71 71 = 1
def fType (f : Frame) : Nat := fGet f 79 72
def fLen (f : Frame) : Nat := fGet f 92 80
def fStream (f : Frame) : Nat := fGet f 111 96
def fScount (f : Frame) : Nat := fGet f 127 112
def fSeq (f : Frame) : BitVec 32 := BitVec.ofNat 32 (fGet f 127 96)
def fArg (f : Frame) : Nat := fGet f 191 128
def fKey (f : Frame) : Nat := fGet f 215 192
def fMmask (f : Frame) : Nat := fGet f 200 192
def fAop (f : Frame) : Nat := fGet f 223 216
def fEpoch (f : Frame) : Nat := fGet f 231 224
def fHcrc (f : Frame) : Nat := fGet f 255 240

/-- The header as the checks take it: HOP and CORRUPT zero, and DEST[31:24] zero when MCAST = 1 (08 R216). -/
def checkedHdr (f : Frame) : Nat :=
  let h := putBits (putBits f.hdr.toNat 67 66 0) 71 71 0
  if fMcast f then putBits h 31 24 0 else h

def hcrcOf (f : Frame) : Nat := (crc16 (bytesLE 30 (checkedHdr f))).toNat
def fcrcOf (f : Frame) : BitVec 32 := crc32c (bytesLE 32 (checkedHdr f) ++ f.payload)

/-- A frame with its checks made. -/
def sealFrame (f : Frame) : Frame :=
  let f := fSet f 255 240 (hcrcOf f)
  { f with crc := fcrcOf f }

/-- Flits of a frame (08 R211). -/
def flitsOf (f : Frame) : Nat := ceilDiv (36 + f.payload.length) 64

/-- The fields a sender gives a frame. -/
structure FrameSpec where
  dest : BitVec 32
  src : BitVec 32
  cls : Nat
  hop : Nat
  type : Nat
  last : Bool := false
  seq : Nat := 0
  arg : Nat := 0
  key : Nat := 0
  aop : Nat := 0
  epoch : Nat
  payload : List Byte := []

/-- Builds a frame (08 R211, R212). -/
def mkFrame (p : FrameSpec) : Frame :=
  let h := p.dest.toNat + p.src.toNat <<< 32 + (p.cls % 4) <<< 64 + (p.hop % 4) <<< 66 +
    (if p.last then 1 else 0) <<< 68 + (p.type % 256) <<< 72 + p.payload.length <<< 80 + (p.seq % 2 ^ 32) <<< 96 +
    (p.arg % 2 ^ 64) <<< 128 + (p.key % 2 ^ 24) <<< 192 + (p.aop % 256) <<< 216 + (p.epoch % 256) <<< 224
  sealFrame ⟨BitVec.ofNat 256 h, p.payload, 0⟩

/-- A frame as a byte string filled up to whole flits (08 R211). -/
def frameBytes (f : Frame) : List Byte :=
  let bs := bytesLE 32 f.hdr.toNat ++ f.payload ++ bytesLE 4 f.crc.toNat
  bs ++ List.replicate (64 * flitsOf f - bs.length) 0

/-- Flit `i` of a frame. -/
def flitAt (f : Frame) (i : Nat) : BitVec 512 := vecOfBytes (bytesAt (frameBytes f) (64 * i) 64)

/-- Payload length a first flit announces; a receiver delimits the frame by it (08 R211; DEDUCED, log 28). -/
def lenOfFlit (w : BitVec 512) : Nat := bitsOf w.toNat 92 80

/-- The frame a run of flits spells. -/
def frameOfBytes (bs : List Byte) : Frame :=
  let h := natLE (bs.take 32)
  let n := bitsOf h 92 80
  ⟨BitVec.ofNat 256 h, bytesAt bs 32 n, BitVec.ofNat 32 (fieldLE bs (32 + n) 4)⟩

/-- The class TYPE requires, none where any may carry it; `false` for a reserved type (08 R213). -/
def typeOk (ty cls : Nat) : Bool :=
  if ty = 1 then true
  else if ty = 2 ∨ ty = 3 ∨ ty = 4 then cls = 0
  else if ty = 5 ∨ ty = 6 ∨ ty = 7 then cls = 1
  else if 0x10 ≤ ty ∧ ty ≤ 0x17 then cls = 2
  else false

/-- Whether a type is a memory-fabric request (08 R213). -/
def isMfReq (ty : Nat) : Bool := ty = 2 || ty = 3 || ty = 4

/-- Whether a type is a memory-fabric frame. -/
def isMf (ty : Nat) : Bool := 2 ≤ ty && ty ≤ 7

/-- Check 2 of R218. -/
def formatOk (f : Frame) : Bool :=
  decide (fLen f ≤ 4096 ∧ fLen f % 8 = 0 ∧ fHop f ≠ 3) && typeOk (fType f) (fCls f) &&
    !(fMcast f && decide (fCls f < 2))

-- Collective fields -------------------------------------------------------------------------------------------------

/-- ARG of a collective frame (11 R287). -/
def argPos (a : Nat) : Nat := bitsOf a 19 0
def argCt (a : Nat) : Nat := bitsOf a 25 20
def argRlb (a : Nat) : Nat := bitsOf a 29 26
def argNlb (a : Nat) : Nat := bitsOf a 34 30
def argStep (a : Nat) : Nat := bitsOf a 63 48
def collArg (pos ct rlb nlb step : Nat) : Nat := pos + ct <<< 20 + (rlb % 16) <<< 26 + (nlb % 32) <<< 30 + (step % 2 ^ 16) <<< 48

/-- The fields of the Saddle subheader (10 R254). -/
structure Sub where
  cid : Nat := 0
  seq : Nat := 0
  rop : Nat := 0
  exact : Bool := false
  prog : Nat := 0
  wire : Nat := 0
  p : Nat := 0
  root : Nat := 0
  lo : Nat := 0
  log : Nat := 0
  chunk : Nat := 0
  nchunk : Nat := 0
  elems : Nat := 0
  eoff : Nat := 0
  pflags : Nat := 0
  acc : Bool := false
  ccrc : Nat := 0
  cbytes : Nat := 0
deriving DecidableEq, Repr

/-- The 32 bytes of a subheader (10 R254, 11 R300). -/
def subBytes (u : Sub) : List Byte :=
  bytesLE 2 u.cid ++ bytesLE 2 u.seq ++
    [BitVec.ofNat 8 (u.rop % 8 + (if u.exact then 8 else 0) + (u.prog % 16) * 16), BitVec.ofNat 8 (u.wire % 32),
     BitVec.ofNat 8 u.p, BitVec.ofNat 8 u.root, BitVec.ofNat 8 u.lo, BitVec.ofNat 8 (u.log % 8)] ++
    bytesLE 2 u.chunk ++ bytesLE 2 u.nchunk ++ bytesLE 2 u.elems ++ bytesLE 4 u.eoff ++
    [BitVec.ofNat 8 u.pflags, if u.acc then 1 else 0, 0, 0] ++ bytesLE 4 u.ccrc ++ bytesLE 4 u.cbytes

/-- The subheader of a payload. -/
def subOf (bs : List Byte) : Sub :=
  let b4 := fieldLE bs 4 1
  { cid := fieldLE bs 0 2, seq := fieldLE bs 2 2, rop := b4 % 8, exact := bitAt b4 3, prog := b4 / 16
    wire := fieldLE bs 5 1 % 32, p := fieldLE bs 6 1, root := fieldLE bs 7 1, lo := fieldLE bs 8 1
    log := fieldLE bs 9 1 % 8, chunk := fieldLE bs 10 2, nchunk := fieldLE bs 12 2, elems := fieldLE bs 14 2
    eoff := fieldLE bs 16 4, pflags := fieldLE bs 20 1, acc := bitAt (fieldLE bs 21 1) 0, ccrc := fieldLE bs 24 4
    cbytes := fieldLE bs 28 4 }

def fSub (f : Frame) : Sub := subOf f.payload
/-- The data after the subheader. -/
def fData (f : Frame) : List Byte := f.payload.drop 32

/-- STREAM of a collective frame (11 R287). -/
def collStream (seq kind : Nat) : Nat := seq % 2 ^ 14 + (kind % 4) <<< 14

/-- Fills a byte string up to a multiple of 8 (10 R258). -/
def pad8 (bs : List Byte) : List Byte := bs ++ List.replicate (8 * ceilDiv bs.length 8 - bs.length) 0

-- Bridges and tiles in the state ------------------------------------------------------------------------------------

def bridge (s : State) (d : Nat) : Bridge := smGet Bridge.reset s.bridges d
def setBridge (s : State) (d : Nat) (b : Bridge) : State := { s with bridges := smSet Bridge.reset s.bridges d b }
def modBridge (s : State) (d : Nat) (f : Bridge → Bridge) : State := setBridge s d (f (bridge s d))
def modLink (s : State) (d : Nat) (f : Link → Link) : State := modBridge s d (fun b => { b with link := f b.link })
def modEng (s : State) (d : Nat) (f : Engine → Engine) : State := modBridge s d (fun b => { b with eng := f b.eng })
def tile (s : State) (t : Nat) : Tile := smGet Tile.reset s.tiles t
def setTile (s : State) (t : Nat) (x : Tile) : State := { s with tiles := smSet Tile.reset s.tiles t x }
def modTile (s : State) (t : Nat) (f : Tile → Tile) : State := setTile s t (f (tile s t))

/-- BRG_LINKSTAT.STATE codes (07). -/
def lsDISABLED : Nat := 0
def lsTRAINING : Nat := 1
def lsEXCHANGE : Nat := 2
def lsUP : Nat := 3
def lsMISMATCH : Nat := 4
def lsCONFIG : Nat := 5

/-- BRG_LINKSTAT.STATE of Bridge `d`. -/
def linkState (s : State) (d : Nat) : Nat := regBits s (dcs d 0x30) 2 0
def setLinkState (s : State) (d st : Nat) : State := regSetBits s (dcs d 0x30) 2 0 st

/-- A counter of a Bridge (08 R235). -/
def brgCount (s : State) (d n k : Nat) : State := regCount s (dcs d (0x4000 + 8 * n)) k

end Sys2Proof.Machine
end

