-- ==== Sys2Proof/Machine/Routing.lean ====
section
/-! DEFINITION. Peers, route tables and the choice of a frame's output (07 R186, R188, R193 to R201, R208; 11 R283, R285,
R289). -/
namespace Sys2Proof.Machine

-- Peers and links ---------------------------------------------------------------------------------------------------

/-- Peer index of coordinate `b` at own coordinate `a` (07 R186). -/
def peerIdx (a b : Nat) : Nat := if b < a then b else b - 1
/-- Coordinate of peer index `i` at own coordinate `a` (07 R186). -/
def peerCoord (a i : Nat) : Nat := if i < a then i else i + 1

/-- The two links to a row peer and to a column peer, lower number first (07 R186). -/
def rowLinks (i : Nat) : List Nat := [9 + i, 27 + i]
def colLinks (i : Nat) : List Nat := [i, 18 + i]

/-- Whether link `l` is UP. -/
def linkUp (s : State) (l : Nat) : Bool := linkState s (64 + l) = lsUP

/-- Whether a link belongs to the rows (west and east Bridges). -/
def isRowLink (l : Nat) : Bool := (9 ≤ l && l < 18) || 27 ≤ l

/-- free(l) of a virtual lane (07 R197; the exact present value, log 22). -/
def freeOf (s : State) (vl l : Nat) : Nat := ((bridge s (64 + l)).link.credits[vl]?).getD 0

/-- Route-table entry `i` as die `die` holds it: a tile agent or a Bridge (07 R193, R194); 0, not valid, where it has an uncorrectable
error (17 R444). -/
def rte (s : State) (die i : Nat) : Nat :=
  let v := (regWord s (dcs die (0x2000 + 4 * i))).toNat
  if entryLost s die 6 i v then 0 else v

/-- NMTHR as die `die` holds it (07 R194, R197). -/
def nmThr (s : State) (die : Nat) : Nat := (regWord s (dcs die (if die < 64 then 0x834 else 0x38))).toNat % 4096

/-- Best of some links by free credits, ties to the lower number (07 R197, R198). -/
def bestLink (s : State) (vl : Nat) : List Nat → Option Nat
  | [] => none
  | l :: ls =>
    match bestLink s vl ls with
    | none => some l
    | some m => if freeOf s vl m < freeOf s vl l ∨ (freeOf s vl m = freeOf s vl l ∧ l < m) then some l else some m

/-- choose() of R197. -/
def chooseLink (s : State) (vl thr : Nat) (mins nms : List Nat) : Option Nat :=
  match bestLink s vl mins, bestLink s vl nms with
  | some a, some b =>
    if thr ≤ freeOf s vl a then some a else if freeOf s vl a < freeOf s vl b then some b else some a
  | some a, none => some a
  | none, b => b

/-- The links of the permitted minimal routes from `a` to `d` (07 R196). -/
def minLinks (e : Nat) (a d : Nat × Nat) : List Nat :=
  if d.1 = a.1 then if bitAt e 1 || bitAt e 2 then rowLinks (peerIdx a.2 d.2) else []
  else if d.2 = a.2 then if bitAt e 1 || bitAt e 2 then colLinks (peerIdx a.1 d.1) else []
  else (if bitAt e 1 then rowLinks (peerIdx a.2 d.2) else []) ++ (if bitAt e 2 then colLinks (peerIdx a.1 d.1) else [])

/-- The links to the permitted intermediates of non-minimal routes (07 R196). -/
def nmLinks (e : Nat) (a d : Nat × Nat) : List Nat :=
  if !bitAt e 3 then []
  else ((List.range 9).filter (fun i => bitAt e (4 + i) && decide (peerCoord a.2 i ≠ d.2))).flatMap rowLinks

/-- First hop of a REQ or RSP frame, by die `die`'s tables (07 R196, R197); with `nm` false, the choice of an intermediate
(R198). -/
def firstHop (s : State) (die vl : Nat) (nm : Bool) (a d : Nat × Nat) : Option Nat :=
  let e := rte s die (10 * d.1 + d.2)
  if !bitAt e 0 then none
  else
    let thr := nmThr s die
    chooseLink s vl (if nm then thr else 0) ((minLinks e a d).filter (linkUp s))
      (if nm && thr ≠ 0 then (nmLinks e a d).filter (linkUp s) else [])

/-- Second hop of a minimal route: the remaining dimension (07 R198). -/
def onwardHop (s : State) (vl : Nat) (a d : Nat × Nat) : Option Nat :=
  let ls := if a.1 = d.1 then rowLinks (peerIdx a.2 d.2) else colLinks (peerIdx a.1 d.1)
  bestLink s vl (ls.filter (linkUp s))

/-- The hop of a REQ or RSP frame that has made `n` hops and comes from module `src` (07 R195 to R198). -/
def reqHop (s : State) (die vl n : Nat) (a d src : Nat × Nat) : Option Nat :=
  if 3 ≤ n then none
  else if n = 0 then firstHop s die vl true a d
  else if (a.1 = d.1 && !(n = 1 && src.1 = d.1)) || a.2 = d.2 then onwardHop s vl a d
  else firstHop s die vl false a d

/-- The hop of an MGT frame: row first, the lower-numbered UP link; VALID in the entry (07 R199). -/
def mgtHop (s : State) (die : Nat) (a d : Nat × Nat) : Option Nat :=
  if !bitAt (rte s die (10 * d.1 + d.2)) 0 then none
  else ((if a.2 ≠ d.2 then rowLinks (peerIdx a.2 d.2) else colLinks (peerIdx a.1 d.1)).filter (linkUp s)).head?

-- Courses -----------------------------------------------------------------------------------------------------------

/-- Address of course table entry `n` as die `die` holds it (11 R282). -/
def cteAddr (die n : Nat) : Nat := dcs die ((if die < 64 then 0x4000 else 0x8000) + n * 0x100)

/-- What a course table entry says (11 R282). -/
structure Course where
  cid : Nat
  p : Nat
  root : Nat
  rootEng : Nat
  cornEng : Nat
  espread : Nat
  rowPin : Nat
  colPin : Nat
  token : Bool
  prog : Nat
  members : List (Nat × Nat)
  listen : List Bool
deriving DecidableEq, Repr

/-- Entry `n` of a copy as it stands, valid or not. -/
def courseAt (s : State) (die n : Nat) : Course :=
  let a := cteAddr die n
  let w := regNat s a 3
  let p := bitsOf w 23 16
  let m := fun r => (regWord s (a + 32 + 4 * (r / 2))).toNat >>> (16 * (r % 2))
  { cid := bitsOf w 15 0, p := p, root := bitsOf w 31 24, rootEng := bitsOf w 39 32, cornEng := bitsOf w 47 40
    espread := bitsOf w 53 48, rowPin := bitsOf w 57 56, colPin := bitsOf w 59 58, token := bitAt w 60
    prog := bitsOf w 68 64
    members := (List.range (min p 100)).map (fun r => (bitsOf (m r) 7 4, bitsOf (m r) 3 0))
    listen := (List.range (min p 100)).map (fun r => bitAt (m r) 8) }

/-- Whether an entry is valid and not empty (11 R283). -/
def courseOk (c : Course) : Bool :=
  decide (0 < c.p ∧ c.p ≤ 100 ∧ c.root < c.p ∧ 64 ≤ c.rootEng ∧ c.rootEng < 100 ∧ 64 ≤ c.cornEng ∧ c.cornEng < 100 ∧
    1 ≤ c.espread ∧ c.espread ≤ 36 ∧ c.rowPin ≠ 3 ∧ c.colPin ≠ 3 ∧ c.prog ≤ 16) &&
    c.members.all (fun m => decide (m.1 ≤ 9 ∧ m.2 ≤ 9)) && decide (c.members.eraseDups.length = c.members.length)

/-- The first bytes of entry `n`, by which an error there is told from one that has been written over. -/
def courseWord (s : State) (die n : Nat) : Nat := regNat s (cteAddr die n) 3

/-- The entry a fused instruction or a frame names; none when empty or invalid, or with an uncorrectable error (11 R283, 17 R444). -/
def course? (s : State) (die n : Nat) : Option Course :=
  let c := courseAt s die n
  if courseOk c && !entryLost s die 7 n (courseWord s die n) then some c else none

/-- A read of a course table entry (17 R444). -/
def courseRead (s : State) (die n : Nat) : State := tableRead s die 7 n (courseWord s die n)

/-- The reads of route and course table entries for a frame (17 R444). -/
def routeReads (s : State) (die : Nat) (f : Frame) : State :=
  if s.errs.marks.isEmpty then s
  else
    let i := 10 * epY (fDest f) + epX (fDest f)
    let s := tableRead s die 6 i (regWord s (dcs die (0x2000 + 4 * i))).toNat
    if fCls f = 2 then courseRead s die (argCt (fArg f)) else s

/-- The rank of a module in a course (11 R284). -/
def rankOf (c : Course) (yx : Nat × Nat) : Option Nat := (List.range c.members.length).find? (fun r => c.members[r]? = some yx)

/-- Coordinates of a rank. -/
def rankAt (c : Course) (r : Nat) : Nat × Nat := (c.members[r]?).getD (0, 0)

/-- The engine of an instance (11 R289). -/
def engOf (c : Course) (d pos : Nat) : Nat := 64 + ((d - 64) + pos % max 1 c.espread) % 36

/-- The pinned link of a row hop and of a column hop to peer index `i` (11 R289). -/
def pinRow (c : Course) (pos i : Nat) : Nat :=
  match c.rowPin with | 0 => 27 + i | 1 => 9 + i | _ => if pos % 2 = 0 then 27 + i else 9 + i
def pinCol (c : Course) (pos i : Nat) : Nat :=
  match c.colPin with | 0 => i | 1 => 18 + i | _ => if pos % 2 = 0 then i else 18 + i

/-- The pinned link from module `a` to `d`, which shares its row or its column (07 R200, 11 R289). -/
def pinTo (c : Course) (pos : Nat) (a d : Nat × Nat) : Nat :=
  if a.1 = d.1 then pinRow c pos (peerIdx a.2 d.2) else pinCol c pos (peerIdx a.1 d.1)

/-- The course entry a collective frame names, as die `die` holds it, if CID and P agree (11 R285). -/
def frameCourse (s : State) (die : Nat) (f : Frame) : Option Course :=
  match course? s die (argCt (fArg f)) with
  | some c => if c.cid = (fSub f).cid ∧ c.p = (fSub f).p then some c else none
  | none => none

-- Outputs -----------------------------------------------------------------------------------------------------------

/-- The output of a frame for this module (08 R220). -/
def localOut (d : BitVec 32) : Nat :=
  match epFunc d with
  | 2 => 37 + (epDie d - 64) | 3 => 73 | 4 => 74 | _ => 36

/-- What a Bridge finds for a frame: the copies to place, or that its destination is unreachable (07 R208, 08 R221). -/
inductive Routed
  | copies (cs : List Copy)
  | unreachable
deriving DecidableEq, Repr

/-- The copies of a multicast frame admitted at the LOCAL port, ascending peer index (07 R201, 08 R224). -/
def mcastCopies (s : State) (die : Nat) (f : Frame) : Routed :=
  let a := selfAt s die
  let idx := setBits (fMmask f) 9
  let vl := 3 * fCls f + fHop f
  let peer := fun i => if fMdim f = 0 then (a.1, peerCoord a.2 i) else (peerCoord a.1 i, a.2)
  let copy := fun i l : Nat => (⟨l, vl, fSet f 31 24 ((peer i).2 + 16 * (peer i).1)⟩ : Copy)
  if fCls f = 2 then
    match frameCourse s die f with
    | none => .unreachable
    | some c => .copies (idx.map (fun i => copy i (pinTo c (argPos (fArg f)) a (peer i))))
  else
    let hops := idx.map (fun i => (i, mgtHop s die a (peer i)))
    if hops.any (fun h => h.2.isNone) then .unreachable
    else .copies (hops.filterMap (fun h => h.2.map (copy h.1)))

/-- Where a Bridge sends a frame: to a unit of this module, along its route, or nowhere (07 R185, R195 to R201; 08
R220). In A2 this module's tiles are unreachable (16 R430). -/
def routeFrame (s : State) (die : Nat) (port : Port) (f : Frame) : Routed :=
  let a := selfAt s die
  let d := fDest f
  let tgt := (epY d, epX d)
  if port = .localPort ∧ fMcast f = true then mcastCopies s die f
  else if epidOk d = false then .unreachable
  else if tgt = a then
    if localOut d = 36 ∧ regBits s (dcs SP 0x200008) 2 0 = 2 then .unreachable
    else .copies [⟨localOut d, 3 * fCls f + fHop f, f⟩]
  else
    let n := match port with | .link => fHop f + 1 | .localPort => 0
    let one := fun (l : Option Nat) (h : Nat) => match l with
      | some l => Routed.copies [⟨l, 3 * fCls f + h, fSet f 67 66 h⟩]
      | none => .unreachable
    match fCls f with
    | 2 =>
      match port, frameCourse s die f with
      | .localPort, some c =>
        if a.1 = tgt.1 ∨ a.2 = tgt.2 then one (some (pinTo c (argPos (fArg f)) a tgt)) (fHop f) else .unreachable
      | _, _ => .unreachable
    | 3 => one (if n < 3 then mgtHop s die a tgt else none) n
    | _ => one (reqHop s die (3 * fCls f + n) n a tgt (epY (fSrc f), epX (fSrc f))) n

end Sys2Proof.Machine
end

