-- ==== Sys2Proof/Machine/Operands.lean ====
section
/-! DEFINITION. The operand forms of an instruction: register codes, pairs, types, rounding, formed addresses, operand
streams and the A latch (05 R136 to R139, R146 to R148). -/
namespace Sys2Proof.Machine

/-- A scalar register code (05 R136). -/
def sReg (f : BitVec 6) : Option Nat := if f.toNat < 32 then some f.toNat else none
/-- An even scalar register, the first of a pair (02 R34, 05 R136). -/
def sPair (f : BitVec 6) : Option Nat := if f.toNat < 32 ∧ f.toNat % 2 = 0 then some f.toNat else none
/-- A predicate in a register field: codes 0x00 to 0x07 (05 R136). -/
def pReg (f : BitVec 6) : Option Nat := if f.toNat < 8 then some f.toNat else none
/-- A vector register code. -/
def vReg (f : BitVec 6) : Option Nat := if 32 ≤ f.toNat ∧ f.toNat < 48 then some (f.toNat - 32) else none
/-- An even vector register, the first of a pair. -/
def vPair (f : BitVec 6) : Option Nat :=
  if 32 ≤ f.toNat ∧ f.toNat < 48 ∧ f.toNat % 2 = 0 then some (f.toNat - 32) else none
/-- A scalar static-mesh receive register. -/
def rxReg (f : BitVec 6) : Option Nat := if 0x30 ≤ f.toNat ∧ f.toNat < 0x38 then some (f.toNat - 0x30) else none
/-- A vector static-mesh receive register. -/
def vrxReg (f : BitVec 6) : Option Nat := if 0x38 ≤ f.toNat ∧ f.toNat < 0x3C then some (f.toNat - 0x38) else none

/-- The type a type field names. -/
def tyOf (b : BitVec 5) : Option Ty := tyOfCode b.toNat

/-- The rounding direction of an instruction (02 R37). -/
def rmOf (k : Core) (b : BitVec 3) : Option Rm := rmOfCode (k.fpctl.toNat % 8) b.toNat

/-- A formed address: (s[RA] + IMM) mod 2^32 (05 R139). -/
def formAddr (k : Core) (ra : Nat) (imm : BitVec 32) : Nat :=
  ((sGet k ra + imm) ^^^ BitVec.ofNat 32 (((k.ecc.upsets.find? (fun u => u.unit = 5)).map (·.flip)).getD 0)).toNat

/-- The faults of a local-store access of `n` bytes at `a`, naturally aligned (04 R101). -/
def lsFaults (a n align : Nat) : List Nat :=
  (if a % align = 0 then [] else [0x04]) ++ (if a + n ≤ 0xC000 then [] else [0x05])

/-- The faults of a sliver offset (04 R104). -/
def sliverFaults (a : Nat) : List Nat :=
  (if a % 64 = 0 then [] else [0x04]) ++
    (if 0x800000 ≤ a then [0x05] else if 0x600000 ≤ a then [0x06] else [])

/-- The landing buffers an access of `n` bytes at `a` touches (01 R23). -/
def buffersAt (k : Core) (a n : Nat) : List LandBuf :=
  ((List.range 16).map (lbGet k)).filter (fun b => b.armed && b.base < a + n && a < b.base + b.len)

/-- LANDING_UNGATED: a load from an armed landing buffer whose gated bit is clear (01 R23, 04 R123). -/
def ungated (k : Core) (a n : Nat) : List Nat :=
  if (buffersAt k a n).any (fun b => !b.gated) then [0x08] else []

/-- OUTBOX_PAYLOAD: a store into protected payload bytes (04 R119). -/
def protectedAt (k : Core) (a n : Nat) : List Nat :=
  if k.prot.any (fun p => p.lo < a + n && a < p.hi) then [0x0C] else []

/-- A scalar or pair value by width: 64-bit values come from a pair. -/
def scalarSrc (k : Core) (w : Nat) (f : BitVec 6) : Option Nat :=
  if w = 64 then (sPair f).map (fun i => (pairGet k i).toNat) else (sReg f).map (fun i => (sGet k i).toNat)

/-- A scalar destination by width. -/
def scalarDst (w : Nat) (f : BitVec 6) : Option Nat := if w = 64 then sPair f else sReg f

/-- Writes a scalar result of width 64 to a pair, a narrower one to a register. -/
def putScalar (w : Nat) (k : Core) (due i v : Nat) : Core := if w = 64 then addPair k due i v else addWb k due (.s i) v

-- Operand streams ---------------------------------------------------------------------------------------------------

/-- Width in bits of one element of a matrix operand type (02 R57, 05 R147). -/
def elemBits (t : Ty) : Nat :=
  match elemOfTy t with
  | some e => elemWidth e
  | none => tyWidth t

/-- Elements of a block that share a scale byte; 0 for types without scales (02 R55, R62). -/
def blockLen : Ty → Nat
  | .eb4 => 16
  | .mx8e4 => 32 | .mx8e5 => 32 | .mx6e3 => 32 | .mx6e2 => 32 | .mx4 => 32 | .mxi8 => 32
  | _ => 0

def stream (k : Core) (m : Nat) : Stream := (k.streams[m]?).getD Stream.reset
def setStream (k : Core) (m : Nat) (st : Stream) : Core := { k with streams := k.streams.setIfInBounds m st }

/-- A 64-byte line of local store. -/
def lsLine (k : Core) (line : Nat) : VWord := vecOfBytes (memRead k.ls (64 * line) 64)

/-- The lines of bytes [a, a + n). -/
def linesOf (a n : Nat) : List Nat :=
  if n = 0 then [] else (List.range ((a + n - 1) / 64 - a / 64 + 1)).map (· + a / 64)

/-- The stream once it holds a line, reading it if it does not (05 R148): the last two lines read stay held. -/
def holdLine (k : Core) (st : Stream) (line : Nat) : Stream :=
  if st.lines.any (fun l => l.1 = line) then st
  else { st with lines := (line, lsLine k line) :: st.lines.take 1 }

/-- The lines a step of a stream reads from local store: those it does not hold (05 R148). -/
def freshLines (st : Stream) (count : Nat) : List Nat :=
  (linesOf (st.base + st.pos) (ceilDiv (count * elemBits st.ty) 8)).filter (fun l => !st.lines.any (fun h => h.1 = l))

/-- The words of local store a step of a stream reads. -/
def streamWords (st : Stream) (count : Nat) : Nat × List Nat := (0, (freshLines st count).flatMap (fun l => wordsOf (64 * l) 64))

/-- A byte through the stream's held lines, or from local store. -/
def streamByte (k : Core) (st : Stream) (a : Nat) : Byte :=
  match st.lines.find? (fun l => l.1 = a / 64) with
  | some l => BitVec.ofNat 8 (l.2.toNat >>> (8 * (a % 64)))
  | none => memByte k.ls a

/-- The elements a step of a stream returns with their scale bytes, the stream after it, and whether it read a line; none
when the step would pass LEN or need a scale byte beyond byte 63 (05 R147, R148). -/
def streamTake (k : Core) (st : Stream) (count : Nat) : Option (List (Nat × Nat) × Stream × Bool) :=
  let w := elemBits st.ty
  let n := ceilDiv (count * w) 8
  let bl := blockLen st.ty
  let e0 := st.pos * 8 / w
  let fresh := if bl = 0 then 0 else ceilDiv (e0 + count) bl - ceilDiv e0 bl
  if st.len < st.pos + n then none
  else if 64 < st.scalePos + fresh then none
  else
    let a := st.base + st.pos
    let touched := linesOf a n
    let reads := touched.any (fun l => !st.lines.any (fun h => h.1 = l))
    let st1 := touched.foldl (holdLine k) st
    let v := natLE ((List.range n).map (fun i => streamByte k st1 (a + i)))
    let scale := fun i =>
      if bl = 0 then 0
      else
        let b := st.scalePos + ((e0 + i) / bl + 1) - ceilDiv e0 bl
        laneOf 8 st.scales (b - 1)
    let els := (List.range count).map (fun i => ((v >>> (w * i)) % 2 ^ w, scale i))
    let p := st.pos + n
    some (els, { st1 with pos := if p = st.len then 0 else p, scalePos := st.scalePos + fresh }, reads)

/-- Operands of a group from elements and their scales. -/
def opndsOf (ty : Ty) (fmt : AccFmt) (t : Nat) (els : List (Nat × Nat)) : List Opnd :=
  els.map (fun e => mkOpnd ty (fpOfAcc fmt) t e.2 e.1)

/-- Elements `[o, o + n)` of a list. -/
def sliceOf {α : Type} (xs : List α) (o n : Nat) : List α := (xs.drop o).take n

/-- One MMA step: group `a` against each lane's elements, appended to the entries from `idx` (05 R149). -/
def mmaStep (k : Core) (n idx : Nat) (cls : MClass) (sr : Bool) (a b : List Opnd) : Core :=
  let g := laneElems cls
  (List.range (lanesOfClass cls)).foldl
    (fun k l => appendPairs k n (idx + l) cls sr (a.zip (sliceOf b (l * g) g))) k

end Sys2Proof.Machine
end

