-- ==== Sys2Proof/Config.lean ====
section
/-! DEFINITION. What one implementation fixes and what the spec leaves open: constants with no body, so that nothing can be
proved of their values. A value drawn afresh each time is a function of the counter `State.free`. -/
namespace Sys2Proof.Config

/-- The length of a sparse run in which a row faulted: R169, R171 and R173 state that of faultless runs only, and CORE_SPCYC has
it fixed by the data (DESIGN CHOICE, log 27). The arguments are the operation, the number its descriptor spells, and local store
as the run finds it. -/
opaque faultRunLength : Nat → Nat → List (Nat × BitVec 8) → BitVec 32

/-- Which of the members in its column a corner engine sends a frame on to that names no receiver: 11 R291 has such frames
follow the path of the multicast, and no field says for whom they are (UNVERIFIED, log 36). The arguments are the SRC, ARG and
STREAM of the frame's stream. -/
opaque relayPick : Nat → Nat → Nat → Nat

/-- The result of combining two elements for which 10 R260 to R267 list no operation (DESIGN CHOICE, log 37). The arguments are
ROP, WIRE and the two elements. -/
opaque unlistedCombine : Nat → Nat → Nat → Nat → Nat

/-- The 32 random bytes of a session nonce, by the number of the draw (14 R380; free value, log 15). -/
opaque sessionNonce : Nat → BitVec 256

/-- The 32-byte random boot nonce, by the number of the draw (15 R405; free value, log 15). -/
opaque bootNonce : Nat → BitVec 256

/-- The unique device secret that the SRAM PUF gives with the helper data spelled by the argument; none where reconstruction
fails (15 R403, R405; log 17). -/
opaque pufSecret : Nat → Option (BitVec 256)

/-- Version and SHA-256 of the security ROM (15 R407; log 17). -/
opaque romVersion : BitVec 64
opaque romDigest : BitVec 256

/-- The four root key hashes of the security ROM (15 R395; log 17). -/
opaque rootHash : Nat → BitVec 256

/-- The parts of the alias certificate that 15 R406 does not state, DER-encoded: 0 the serial number, 1 the issuer, 2 the validity, 3 the
subject, 4 the object identifier of the extension. The second argument is the number the DeviceID public key spells (log 15). -/
opaque certPart : Nat → Nat → List (BitVec 8)

/-- The secret number an ECDSA signature of the security die draws, by the number of the draw and of the attempt (15 R391; FIPS 186-5;
free value, log 15). -/
opaque signatureSecret : Nat → Nat → Nat

/-- Whether the flash device fails to program the header page it is given, by the number of the draw (15 R410; free value, log 50). -/
opaque flashFails : Nat → Bool

/-- Whether a WRITE of UPDATE_IMAGE that the Soundpost has taken has begun to erase its region when power is lost or a Warm or Cold
reset comes, by the number of the draw (15 R412; free value, log 50). -/
opaque writeBegun : Nat → Bool

/-- A register of a die without power as the telemetry summary gives it, by the number of the draw and its place in the
summary (14 R389, 16 R433 leave it open; log 43). -/
opaque darkField : Nat → Nat → BitVec 64

/-- Length of a scan segment less one: the ICL description gives it, not the spec (17 R452; log 18). -/
opaque segmentTop : Nat → Nat

/-- The bit a scan segment holds at a position, by the number of the frozen state (17 R452; log 18). -/
opaque scanBit : Nat → Nat → Nat → Bool

/-- Which of the exponents that can hold a PMBus value its LINEAR11 word takes, and whether a value between two of its
mantissas is given by the upper one; the argument is the value in thousandths (18 R478 states neither; log 44). -/
opaque linearPick : Int → Nat
opaque linearUp : Int → Bool

/-- The SMB_ADDR straps, the low bits of the module's SMBus addresses (18 R477; the carrier's choice, log 44). -/
opaque smbAddr : BitVec 3

end Sys2Proof.Config
end

