-- ==== Sys2Proof/Machine/SparseRun.lean ====
section
/-! DEFINITION. The runs of the sparse unit: operand forms, products, compression, bins and masks (06 R163 to R175). -/
namespace Sys2Proof.Machine

-- Operand forms -----------------------------------------------------------------------------------------------------

/-- Group length M, slots N, and metadata bytes per group of an N:M form (06 R163, R164). -/
def nmOf (form : Nat) : Option (Nat × Nat × Nat) :=
  match form with
  | 2 => some (4, 2, 1) | 3 => some (8, 2, 1) | 4 => some (16, 4, 4) | _ => none

/-- Map or metadata bytes per row (06 R163). -/
def mapBytes (form k : Nat) : Nat :=
  match form with
  | 0 => 0
  | 1 => ceilDiv k 256 * 32
  | f => match nmOf f with | some (m, _, b) => k / m * b | none => 0

/-- Stored values per row of the forms whose count the descriptor alone fixes (06 R163). -/
def slotsPerRow (form k : Nat) : Nat :=
  match nmOf form with | some (m, n, _) => k / m * n | none => k

/-- Slot index and CNT of a metadata word (06 R164). -/
def metaIndex (form v slot : Nat) : Nat :=
  match form with
  | 2 => (v >>> (2 * slot)) % 4
  | 3 => (v >>> (3 * slot)) % 8
  | _ => (v >>> (4 * slot)) % 16

def metaCnt (form v : Nat) : Nat :=
  match form with
  | 2 => bitsOf v 5 4
  | 3 => bitsOf v 7 6
  | _ => bitsOf v 18 16

/-- Whether a list of indices rises strictly. -/
def risingNat : List Nat → Bool
  | [] => true
  | [_] => true
  | a :: b :: xs => decide (a < b) && risingNat (b :: xs)

/-- Element `i` of an array of `w`-bit elements at `a` (02 R46, R57). -/
def elemAt (ls : Memory) (w a i : Nat) : Nat :=
  let bit := i * w
  (memNat ls (a + bit / 8) (ceilDiv w 8) >>> (bit % 8)) % 2 ^ w

/-- Where the parts of an operand lie: form, positions, element width, map, values, pointers if it has them. -/
structure SpArr where
  form : Nat
  k : Nat
  w : Nat
  map : Nat
  val : Nat
  ptr : Option Nat
deriving DecidableEq, Repr

/-- A row of an operand as (position, element number in its value array) of the present positions, ascending; none for a
bad index (06 R163 to R165). -/
def rowOf (ls : Memory) (o : SpArr) (r : Nat) : Option (List (Nat × Nat)) :=
  match o.form with
  | 0 => some ((List.range o.k).map (fun i => (i, r * o.k + i)))
  | 1 =>
    let n := mapBytes 1 o.k
    let m := memNat ls (o.map + r * n) n
    let ps := setBits m (8 * n)
    let (lo, hi) := match o.ptr with
      | some p => (memNat ls (p + 4 * r) 4, memNat ls (p + 4 * r + 4) 4)
      | none => (0, ps.length)
    if ps.any (fun i => decide (o.k ≤ i)) || decide (hi < lo) || decide (hi - lo ≠ ps.length) ||
        (!ps.isEmpty && decide (0xC000 < o.val + ceilDiv (hi * o.w) 8)) then none
    else some (ps.zip ((List.range ps.length).map (· + lo)))
  | f =>
    match nmOf f with
    | none => none
    | some (m, n, b) =>
      let groups := o.k / m
      let row := (List.range groups).map (fun g =>
        let v := memNat ls (o.map + r * (groups * b) + g * b) b
        let ix := (List.range (metaCnt f v)).map (metaIndex f v)
        (metaCnt f v ≤ n && risingNat ix, ix.zip ((List.range n).map (fun s => r * (groups * n) + g * n + s)), g))
      if row.all (·.1) then some (row.flatMap (fun x => x.2.1.map (fun e => (x.2.2 * m + e.1, e.2)))) else none

/-- A little-endian field of a descriptor. -/
abbrev spf (d : List Byte) (o n : Nat) : Nat := fieldLE d o n

/-- The types the sparse unit accepts (02 R33, 06 R167). -/
def spTy (b : Nat) : Option Ty :=
  match tyOfCode b with
  | some .fp64 => some .fp64 | some .fp32 => some .fp32 | some .fp16 => some .fp16 | some .bf16 => some .bf16
  | some .e4m3 => some .e4m3 | some .e5m2 => some .e5m2 | some .int8 => some .int8 | some .uint8 => some .uint8
  | some .int4 => some .int4 | _ => none

/-- THR[b] of SPBIN (06 R173). -/
def spThr (d : List Byte) (b : Nat) : Nat := if b = 0 then 0 else spf d (28 + 4 * b) 4

-- The runs ----------------------------------------------------------------------------------------------------------

/-- Matches per count and positions per window (06 R169). -/
def spRate : MClass → Nat × Nat
  | .f64 => (1, 16) | .f32 => (4, 64) | .h16 => (8, 128) | _ => (16, 256)

/-- Counts a row takes (06 R169). -/
def rowCounts (cls : MClass) (k : Nat) (ps : List Nat) : Nat :=
  let (r, w) := spRate cls
  (List.range (ceilDiv k w)).foldl (fun c i =>
    c + max 1 (ceilDiv (ps.filter (fun p => p / w = i)).length r)) 2

/-- What a row's product gives: the code, flags, matrix flags. -/
structure SpRow where
  code : Nat
  flags : FFlags
  mx : BitVec 2
deriving DecidableEq, Repr

/-- Runs the matched products of a row, in groups of G, from an initial value (06 R166); an INT32 row keeps its exact sum,
which the wrap flag looks at (03 R82). -/
def dotRow (cls : MClass) (af : AccFmt) (init : Nat) (pairs : List (Opnd × Opnd)) : SpRow :=
  let gs := chunks (groupSize cls) pairs
  match af with
  | .int32 =>
    let e := gs.foldl (fun (a : Int × BitVec 2) g =>
      let v := intStep a.1 g
      (v, a.2 ||| (if intWraps v then mxWrap else 0))) (toSigned 32 init, 0)
    ⟨ofSigned 32 e.1, 0, e.2⟩
  | _ =>
    gs.foldl (fun r g =>
      let (v, fl) := groupStep (fpOfAcc af) (guardBits cls) .ne r.code g
      ⟨v, r.flags ||| fl, r.mx⟩) ⟨init, 0, 0⟩

/-- What poisons a result of an accumulator format (05 R156). -/
def poisonCode : AccFmt → Nat
  | .int32 => 0x80000000
  | af => defaultNan (fpOfAcc af)

/-- Whether a computed result counts as a miss: greater than +0, or NaN (06 R175). -/
def spMiss (af : AccFmt) (v : Nat) : Bool :=
  match af with
  | .int32 => decide (0 < toSigned 32 v)
  | _ => match fpDecode (fpOfAcc af) v with
    | .nan _ _ _ => true
    | .inf n => !n
    | .fin n m _ => !n && m != 0

/-- A running SPDOT: local store, findings so far, whether it has stopped at a faulting row. -/
structure SpRun where
  ls : Memory
  res : SparseRes
  stop : Bool
deriving DecidableEq, Repr

/-- Notes the first faulting row (06 R170). -/
def noteRow (r : SparseRes) (code row : Nat) : SparseRes := if r.fcode = 0 then { r with fcode := code, frow := row } else r

/-- One row of SPDOT (06 R166, R170, R175). `ls0` is local store as the run found it. -/
def spdotRow (poison : Bool) (ls0 : Memory) (d : List Byte) (ta tb : Ty) (af : AccFmt) (cls : MClass)
    (b : Option (List (Nat × Nat))) (run : SpRun) (r : Nat) : SpRun :=
  if run.stop then run
  else
    let k := spf d 12 4
    let fl := spf d 6 1
    let sz := tyWidth (tyOfAcc af) / 8
    let out := spf d 26 2 + r * sz
    let a := rowOf ls0 ⟨spf d 1 1, k, tyWidth ta, spf d 18 2, spf d 16 2, some (spf d 20 2)⟩ r
    let masked := bitAt fl 1 && !bitAt (memByte ls0 (spf d 28 2 + r / 8)).toNat (r % 8)
    let audit := bitsOf fl 3 2
    let init := if bitAt fl 0 then memNat ls0 out sz else 0
    let put := fun v => memWrite run.ls out (bytesLE sz v)
    let res := if masked then { run.res with skipped := run.res.skipped + 1 } else run.res
    if masked && audit = 0 && b.isSome then { run with ls := put init, res := { res with run := res.run + 1 } }
    else
      match a, b with
      | some pa, some pb =>
        let hits := pa.filterMap (fun x => (pb.find? (fun y => y.1 = x.1)).map (fun y => (x.1, x.2, y.2)))
        let pairs := hits.map (fun h =>
          (mkOpnd ta (fpOfAcc af) 0 0 (elemAt ls0 (tyWidth ta) (spf d 16 2) h.2.1),
           mkOpnd tb (fpOfAcc af) 0 0 (elemAt ls0 (tyWidth tb) (spf d 22 2) h.2.2)))
        let w := dotRow cls af init pairs
        let res := { res with
          run := res.run + rowCounts cls k (hits.map (·.1)), flags := res.flags ||| w.flags, mx := res.mx ||| w.mx
          missed := res.missed + (if masked && spMiss af w.code then 1 else 0) }
        { run with ls := put (if masked && audit = 2 then init else w.code), res := res }
      | _, _ =>
        let res := noteRow res 0x11 r
        if poison then
          { run with
            ls := put (if masked && audit = 2 && b.isSome then init else poisonCode af)
            res := { res with missed := res.missed + (if masked && audit ≠ 0 && spMiss af (poisonCode af) then 1 else 0) } }
        else { run with res := { res with halt := true }, stop := true }

/-- SPDOT's whole run (06 R166 to R170, R175). -/
def runSpdot (poison : Bool) (ls : Memory) (d : List Byte) : Memory × SparseRes :=
  match spTy (spf d 3 1), spTy (spf d 4 1), accOfCode (spf d 5 1) with
  | some ta, some tb, some af =>
    match classOfTy ta with
    | some cls =>
      let b := rowOf ls ⟨spf d 2 1, spf d 12 4, tyWidth tb, spf d 24 2, spf d 22 2, none⟩ 0
      let e := (List.range (spf d 8 2)).foldl (spdotRow poison ls d ta tb af cls b) ⟨ls, .none, false⟩
      (e.ls, e.res)
    | none => (ls, .none)
  | _, _, _ => (ls, .none)

/-- Whether an element is zero: ±0 or integer 0 (06 R163). -/
def isZeroElem (ty : Ty) (v : Nat) : Bool :=
  match fpOfTy ty with
  | some f => v % 2 ^ (f.ew + f.mw) = 0
  | none => v = 0

/-- A row of a dense source as its non-zeros: position and code (06 R171). -/
def nonZeros (ls : Memory) (ty : Ty) (a k r : Nat) : List (Nat × Nat) :=
  ((List.range k).map (fun i => (i, elemAt ls (tyWidth ty) a (r * k + i)))).filter (fun e => !isZeroElem ty e.2)

/-- Metadata of a group with these slot indices (06 R164). -/
def metaWord (form : Nat) (ix : List Nat) : Nat :=
  let s := match form with | 2 => 2 | 3 => 3 | _ => 4
  let c := match form with | 2 => 4 | 3 => 6 | _ => 16
  packNat s ix + ix.length * 2 ^ c

/-- The groups of a row of an N:M output: each group's non-zeros by index in the group. -/
def nmGroups (m k : Nat) (nz : List (Nat × Nat)) : List (List (Nat × Nat)) :=
  (List.range (k / m)).map (fun g => (nz.filter (fun e => e.1 / m = g)).map (fun e => (e.1 % m, e.2)))

/-- Packs elements of width `w` (02 R46, R57). -/
def packElems (w : Nat) (vs : List Nat) : List Byte := bytesLE (ceilDiv (w * vs.length) 8) (packNat w vs)

/-- Pads a list of slots to `n` with zeros (06 R171). -/
def padTo (n : Nat) (xs : List Nat) : List Nat := xs ++ List.replicate (n - xs.length) 0

/-- The first index that satisfies a test. -/
def firstIdx (p : Nat → Bool) (n : Nat) : Option Nat := (List.range n).find? p

/-- SPCOMPRESS (06 R171, R172). A bitmap value row beyond local store is a bad index (R165); it stops the instruction in
the check pass like an over-full row (DEDUCED, log 26). -/
def runSpcompress (ls : Memory) (d : List Byte) : Memory × SparseRes :=
  match spTy (spf d 3 1) with
  | none => (ls, .none)
  | some ty =>
    let w := tyWidth ty
    let k := spf d 12 4
    let rows := spf d 8 2
    let form := spf d 1 1
    let nz := (List.range rows).map (nonZeros ls ty (spf d 22 2) k)
    let c := 2 * ceilDiv (rows * k * w) 512 + rows
    match nmOf form with
    | some (m, n, b) =>
      let gs := nz.map (nmGroups m k)
      match firstIdx (fun r => ((gs[r]?).getD []).any (fun g => decide (n < g.length))) rows with
      | some r => (ls, { SparseRes.none with fcode := 0x10, frow := r, halt := true })
      | none =>
        let all := gs.flatMap id
        let mb := all.flatMap (fun g => bytesLE b (metaWord form (g.map (·.1))))
        let vb := packElems w (all.flatMap (fun g => padTo n (g.map (·.2))))
        (memWrite (memWrite ls (spf d 18 2) mb) (spf d 16 2) vb, { SparseRes.none with run := c })
    | none =>
      let n := mapBytes 1 k
      let ptrs := nz.foldl (fun a r => a ++ [(a.getLast?).getD 0 + r.length]) [0]
      match firstIdx (fun r => let e := (ptrs[r + 1]?).getD 0
          !((nz[r]?).getD []).isEmpty && decide (0xC000 < spf d 16 2 + ceilDiv (e * w) 8)) rows with
      | some r => (ls, { SparseRes.none with fcode := 0x11, frow := r, halt := true })
      | none =>
        let mb := nz.flatMap (fun r => bytesLE n (r.foldl (fun v e => v + 2 ^ e.1) 0))
        let vb := packElems w (nz.flatMap (fun r => r.map (·.2)))
        let pb := ptrs.flatMap (bytesLE 4)
        (memWrite (memWrite (memWrite ls (spf d 18 2) mb) (spf d 16 2) vb) (spf d 20 2) pb,
          { SparseRes.none with run := c })

/-- Non-zeros of a row of a map, without its values; none for a bad index (06 R165, R173). -/
def rowCount (ls : Memory) (form k map r : Nat) : Option Nat :=
  match nmOf form with
  | some (m, n, b) =>
    let vs := (List.range (k / m)).map (fun g => memNat ls (map + r * (k / m * b) + g * b) b)
    if vs.all (fun v => metaCnt form v ≤ n && risingNat ((List.range (metaCnt form v)).map (metaIndex form v))) then
      some (vs.foldl (fun a v => a + metaCnt form v) 0)
    else none
  | none =>
    let n := mapBytes 1 k
    let ps := setBits (memNat ls (map + r * n) n) (8 * n)
    if ps.all (· < k) then some ps.length else none

/-- The largest bin whose threshold a count reaches (06 R173). -/
def binOf (d : List Byte) (n : Nat) : Nat :=
  (List.range 8).foldl (fun a b => if spThr d b ≤ n then b else a) 0

/-- SPBIN (06 R173). A bad index halts; the counts of the rows before it are written and the bins are not (DEDUCED from
R170, log 26). -/
def runSpbin (ls : Memory) (d : List Byte) : Memory × SparseRes :=
  let rows := spf d 8 2
  let form := spf d 1 1
  let k := spf d 12 4
  let cs := (List.range rows).map (rowCount ls form k (spf d 18 2))
  let out := fun (xs : List Nat) => memWrite ls (spf d 26 2) (xs.flatMap (bytesLE 4))
  match firstIdx (fun r => ((cs[r]?).getD none).isNone) rows with
  | some r => (out ((cs.take r).filterMap id), { SparseRes.none with fcode := 0x11, frow := r, halt := true })
  | none =>
    let ns := cs.filterMap id
    let bins := ns.map (binOf d)
    let rowsIn := fun b => (List.range rows).filter (fun r => (bins[r]?).getD 0 = b)
    let bytes := (List.range 8).flatMap (fun b => bytesLE 2 (rowsIn b).length) ++
      (List.range 8).flatMap (fun b => (rowsIn b).flatMap (bytesLE 2))
    (memWrite (out ns) (spf d 30 2) bytes,
      { SparseRes.none with run := rows + ceilDiv (rows * mapBytes form k) 64 + ceilDiv rows 32 })

/-- A finite FP32 value in units of 2^-149. -/
def unitsOf (n : Bool) (m : Nat) (e : Int) : Int :=
  let v : Int := ((m <<< (e + 149).toNat : Nat) : Int)
  if n then -v else v

/-- Whether a row is computed: not (score + BAND < THETA), in exact arithmetic (06 R174). -/
def maskBit (theta band score : Nat) : Bool :=
  match fpDecode fFP32 score, fpDecode fFP32 band, fpDecode fFP32 theta with
  | .nan _ _ _, _, _ => true
  | .inf n, _, _ => !n
  | .fin n m e, .fin nb mb eb, .fin nt mt et => !decide (unitsOf n m e + unitsOf nb mb eb < unitsOf nt mt et)
  | _, _, _ => true

/-- SPMASK (06 R174). -/
def runSpmask (ls : Memory) (d : List Byte) : Memory × SparseRes :=
  let rows := spf d 8 2
  let bs := (List.range rows).map (fun r => maskBit (spf d 32 4) (spf d 36 4) (memNat ls (spf d 16 2 + 4 * r) 4))
  (memWrite ls (spf d 26 2) ((chunks 8 bs).map (fun g => BitVec.ofNat 8 (packNat 1 (g.map (fun b => if b then 1 else 0))))),
    { SparseRes.none with run := ceilDiv rows 16 })

/-- What a run of the sparse unit leaves (06 R166 to R175); `poison` is TIL_FLTPOL. -/
def sparseRun (poison : Bool) (op : Nat) (ls : Memory) (d : List Byte) : Memory × SparseRes :=
  match op with
  | 1 => runSpdot poison ls d
  | 2 => runSpcompress ls d
  | 3 => runSpbin ls d
  | _ => runSpmask ls d

/-- The length C of a run, in counts (06 R169, R171, R173, R174); with a faulting row a free value (log 27). -/
def sparseLen (poison : Bool) (op : Nat) (ls : Memory) (d : List Byte) : Nat :=
  let r := (sparseRun poison op ls d).2
  if r.fcode = 0 then r.run else (Config.faultRunLength op (natLE d) ls).toNat

/-- The bytes of an operand's map, pointers and values; a bitmap's values as far as its rows could reach. -/
def operandBytes (form k rows w map val : Nat) (ptr : Option Nat) : List (Nat × Nat) :=
  [(map, rows * mapBytes form k), (val, ceilDiv (rows * slotsPerRow form k * w) 8)] ++
    (match form, ptr with | 1, some p => [(p, 4 * (rows + 1))] | _, _ => [])

/-- The bytes of local store a run may read (06 R163, R166, R171, R173, R174). -/
def sparseBytes (op : Nat) (d : List Byte) : List (Nat × Nat) :=
  let rows := spf d 8 2
  let k := spf d 12 4
  let w := fun b => ((spTy b).map tyWidth).getD 64
  match op with
  | 1 =>
    operandBytes (spf d 1 1) k rows (w (spf d 3 1)) (spf d 18 2) (spf d 16 2) (some (spf d 20 2)) ++
      operandBytes (spf d 2 1) k 1 (w (spf d 4 1)) (spf d 24 2) (spf d 22 2) none ++
      (if bitAt (spf d 6 1) 1 then [(spf d 28 2, ceilDiv rows 8)] else [])
  | 2 => [(spf d 22 2, ceilDiv (rows * k * w (spf d 3 1)) 8)]
  | 3 => [(spf d 18 2, rows * mapBytes (spf d 1 1) k)]
  | _ => [(spf d 16 2, 4 * rows)]

/-- A run of the sparse unit through the check codes: one that meets an uncorrectable word writes nothing and the join takes the fault;
an upset of its multipliers and adder changes the first result and is checked (17 R440, R441, R445). -/
def checkedRun (poison : Bool) (op : Nat) (d : List Byte) (k : Core) : Core × SparseRes :=
  let (ls, r) := sparseRun poison op k.ls d
  if k.ecc.marks.isEmpty && k.ecc.upsets.isEmpty then ({ k with ls := ls }, r)
  else
    let (k, bad) := eccRead k 0 ((sparseBytes op d).flatMap (fun x => wordsOf x.1 x.2))
    if bad then (k, { SparseRes.none with run := r.run, ras := 0x30 })
    else
      match op, takeUpset k [6] with
      | 1, (k, some u) =>
        let dst := spf d 26 2
        ({ k with ls := memWrite ls dst (bytesLE 8 (memNat ls dst 8 ^^^ u.flip)) }, { r with check := u.err % 15 ≠ 0 })
      | _, _ => ({ k with ls := ls }, r)

/-- The sparse unit of a core at count `x` (06 R158, R161, R169): a run whose unit is idle by then has left its bytes in local
store and its findings for the join. -/
def sparseAtCount (poison : Bool) (x : Nat) (k : Core) : Core :=
  match k.sparse with
  | .running op d start idleAt =>
    if x < idleAt then k
    else
      let (k, r) := checkedRun poison op d k
      { k with sparse := .finished { r with run := idleAt - start - 7 } }
  | _ => k

end Sys2Proof.Machine
end

