-- ==== Sys2Proof/Machine/Timing.lean ====
section
/-! DEFINITION. The issue cycle of the plane: static-mesh words, core slots, the sequencer of the fused products, gates and
holds, and the issue of one instruction (04 R97 to R104, R112 to R116, R123 to R126; 05 R134, R155 to R157). -/
namespace Sys2Proof.Machine

-- The static mesh ---------------------------------------------------------------------------------------------------

/-- Tile edges between two positions of one row or column. -/
def edges (a b : Int) : Nat := (b / 128 - a / 128).natAbs

/-- D of R113 for a word from core `c`: 2 + |dx| + |dy| + 5 per tile edge crossed. -/
def meshDelay (c : Nat) (dx dy : Int) : Nat :=
  2 + dx.natAbs + dy.natAbs + 5 * (edges (gxOf c) (gxOf c + dx) + edges (gyOf c) (gyOf c + dy))

/-- Whether the destination lies in the module grid (04 R112). -/
def meshInside (c : Nat) (dx dy : Int) : Bool :=
  0 ≤ (gxOf c : Int) + dx && (gxOf c : Int) + dx < 1024 && 0 ≤ (gyOf c : Int) + dy && (gyOf c : Int) + dy < 1024

/-- The core at the end of a word's route. -/
def meshDest (c : Nat) (dx dy : Int) : Nat := coreAt ((gxOf c : Int) + dx).toNat ((gyOf c : Int) + dy).toNat

/-- The next hop of a word at (x, y) with (rx, ry) still to go, X leg first: where it stands then, what is left, the output it takes
(04 R112). -/
def meshHop (x y rx ry : Int) : Int × Int × Int × Int × Nat :=
  if 0 < rx then (x + 1, y, rx - 1, ry, 0)
  else if rx < 0 then (x - 1, y, rx + 1, ry, 1)
  else if 0 < ry then (x, y + 1, rx, ry - 1, 2)
  else (x, y - 1, rx, ry + 1, 3)

/-- The router output a word needs in cycle `t`: it stands at (x, y) with (rx, ry) still to go and needs its next output
in cycle `u`; a hop takes one cycle, over a tile edge six (04 R112, R114). Fuel: the hops. -/
def meshOutput : Nat → Int → Int → Int → Int → Nat → Nat → Option Nat
  | 0, _, _, _, _, _, _ => none
  | f + 1, x, y, rx, ry, u, t =>
    if rx = 0 ∧ ry = 0 then none
    else
      let (x', y', rx', ry', d) := meshHop x y rx ry
      if u = t then some ((y.toNat * 1024 + x.toNat) * 4 + d)
      else if t < u then none
      else meshOutput f x' y' rx' ry' (u + if edges x x' + edges y y' = 0 then 1 else 6) t

/-- The core whose router takes a word out of a crossing queue in cycle `t`, six cycles after it reached the last router before the tile
edge (04 R114). Fuel: the hops. -/
def crossTaken : Nat → Int → Int → Int → Int → Nat → Nat → Option Nat
  | 0, _, _, _, _, _, _ => none
  | f + 1, x, y, rx, ry, u, t =>
    if rx = 0 ∧ ry = 0 then none
    else
      let (x', y', rx', ry', _) := meshHop x y rx ry
      let v := u + if edges x x' + edges y y' = 0 then 1 else 6
      if v = t ∧ u + 6 = t then some (coreAt x'.toNat y'.toNat) else crossTaken f x' y' rx' ry' v t

/-- The output a mesh word needs in cycle `t`. -/
def wordOutput (w : MeshWord) (t : Nat) : Option Nat :=
  meshOutput (w.dx.natAbs + w.dy.natAbs) (gxOf w.src) (gyOf w.src) w.dx w.dy (w.born + 1) t

/-- The cycle in which a word reaches its receive register (04 R113). -/
def wordArrives (w : MeshWord) : Nat := w.born + meshDelay w.src w.dx w.dy

/-- The receive register a word writes in cycle `t`: a vector register takes all its bits with its last word. -/
def wordWrites (w : MeshWord) (t : Nat) : Option (Nat × Bool × Nat) :=
  if wordArrives w = t ∧ (!w.vec ∨ w.part = 7) then some (meshDest w.src w.dx w.dy, w.vec, w.idx) else none

/-- Whether two words collide in cycle `t` (04 R115). -/
def collide (t : Nat) (a b : MeshWord) : Bool :=
  ((wordOutput a t).isSome && wordOutput a t == wordOutput b t) ||
    ((wordWrites a t).isSome && wordWrites a t == wordWrites b t)

/-- The words that collide with another in cycle `t`. -/
def colliders (t : Nat) (ws : List MeshWord) : List MeshWord :=
  ws.filter (fun w => 2 ≤ (ws.filter (collide t w)).length)

/-- For each core, the colliding word it sent last. -/
def lastOf (c : Nat) (ws : List MeshWord) : Option MeshWord :=
  (ws.filter (fun w => w.src = c)).foldl
    (fun a w => match a with | none => some w | some x => if x.sent ≤ w.sent then some w else some x) none

/-- The core at whose router a mesh word is absent in cycle `t` although its stamp has come (04 R114; log 88). -/
def lateAt (s : State) (t : Nat) (w : MeshWord) : Option Nat :=
  (crossTaken (w.dx.natAbs + w.dy.natAbs) (gxOf w.src) (gyOf w.src) w.dx w.dy (w.born + 1) t).filter
    (fun c => (coreOf s c).ecc.upsets.any (fun u => u.unit = 8))

/-- Absent words: CROSSING_LATE at the core of the far router, and the run's guarantee is void (04 R114; 13 R359, R361). -/
def crossLate (s : State) (t : Nat) : State :=
  if s.cores.all (fun e => e.2.ecc.upsets.isEmpty) then s
  else
    s.plane.mesh.foldl (fun s w =>
      match lateAt s t w with
      | some c =>
        let s := regSetBits (setCore s c (takeUpset (coreOf s c) [8]).1) (dcs SP 0x440) 2 2 1
        coreFault { s with plane := { s.plane with mesh := s.plane.mesh.erase w } } c 0x0F (coreOf s c).pc t
      | none => s) s

/-- The static mesh in cycle `t`: absent words and collisions halt the plane, words that arrive are delivered (04 R113 to R115). -/
def meshCycle (s : State) (t : Nat) : State :=
  let s := crossLate s t
  let ws := s.plane.mesh
  let bad := colliders t ws
  let s := (bad.map (·.src)).eraseDups.foldl (fun s c =>
    match lastOf c bad with
    | some w => coreFault s c 0x0E w.pc t
    | none => s) s
  let good := ws.filter (fun w => !bad.contains w)
  let s := good.foldl (fun s w =>
    match wordWrites w t with
    | some (c, v, i) => modCore s c (fun k => applyDst k (if v then .vrx i else .rx i) w.data)
    | none => s) s
  { s with plane := { s.plane with mesh := good.filter (fun w => t < wordArrives w) } }

-- Core slots --------------------------------------------------------------------------------------------------------

/-- Device physical address of a byte of a core's sliver (01 R31). -/
def dpaOf (c off : Nat) : Nat := c * 2 ^ 23 + off

/-- The core slots of one core that begin at cycle `n`: reads take the line then and give it at n + 18, writes write it
(04 R104). -/
def coreSlots (n : Nat) (s : State) (c : Nat) : State :=
  let k := coreOf s c
  let now := k.slots.filter (fun o => o.slotAt ≤ n)
  if now.isEmpty then s
  else
    let s := setCore s c { k with slots := k.slots.filter (fun o => !(o.slotAt ≤ n)) }
    now.foldl (fun s o =>
      match o.dst with
      | some d =>
        let (s, bad) := dramCheck s (dpaOf c o.off) 64
        modCore s c (fun k => if bad then eccDue k (n + 17) o.pc 0x31 else addWb k (n + 18) d (memNat s.dram (dpaOf c o.off) 64))
      | none => { s with dram := memWrite s.dram (dpaOf c o.off) (vecBytes o.data) }) s

-- The sequencer -----------------------------------------------------------------------------------------------------

/-- Sequencer cycles one MMA step takes: 4 in class F64, else 1 (05 R155). -/
def seqC (c : MClass) : Nat := match c with | .f64 => 4 | _ => 1

/-- Cycles per A group, per piece, and in all (05 R155). -/
def seqGroupLen (q : Seq) : Nat := 1 + q.n / lanesOfClass q.cls * seqC q.cls
def seqPieceLen (q : Seq) : Nat := q.kp / groupSize q.cls * seqGroupLen q
def seqLen (q : Seq) : Nat := q.pieces.length * seqPieceLen q

/-- The B elements of one step taken from an array in local store: step number `j` of a piece at `base`. -/
def arrayStep (k : Core) (ty : Ty) (base j count : Nat) : List (Nat × Nat) :=
  let w := elemBits ty
  let bit := j * count * w
  let v := memNat k.ls (base + bit / 8) (ceilDiv (count * w) 8 + 1)
  (List.range count).map (fun i => ((v >>> (bit % 8 + w * i)) % 2 ^ w, 0))

/-- Converts the latched value of entry `i` to the wire type with roundTiesToEven (03 R92, 05 R155). -/
def latchWire (k : Core) (wire : Ty) (i : Nat) : Nat × FFlags :=
  let e := latchGet k i
  (cvtTy (tyOfAcc e.fmt) wire .ne false e.val.toNat).getD (0, 0)

/-- The wire bytes of entries `e0` to `e0 + n − 1` of the latch, with the flags of the conversions. -/
def wireBytes (k : Core) (wire : Ty) (e0 n : Nat) : List Byte × FFlags :=
  let vs := (List.range n).map (fun i => latchWire k wire (e0 + i))
  (vs.flatMap (fun v => bytesLE (tyWidth wire / 8) v.1), orFlags (vs.map (·.2)))

/-- Adds an outbox entry posted in cycle `n` (04 R118). -/
def postOutbox (k : Core) (n : Nat) (e : ObKind) : Core := { k with outbox := k.outbox ++ [⟨n, e⟩] }

/-- Protects payload bytes posted in cycle `n` (04 R119). -/
def protect (k : Core) (n a len : Nat) : Core :=
  if len = 0 then k else { k with prot := k.prot ++ [⟨n + 1, a, a + len⟩] }

/-- A hold request of an OUTPOST that found 8 or more entries (04 R124). -/
def outboxGate (k : Core) (n pc : Nat) : Core :=
  if 8 ≤ k.outbox.length then { k with gates := k.gates ++ [⟨n, pc, .outbox, false⟩] } else k

/-- One action of the product: an A group, or one MMA step (05 R155). Step `i` of the whole order; none when a stream
cannot give what the step needs (05 R147, R148: FORMAT_DESC). -/
def seqAction (k : Core) (q : Seq) (n i : Nat) : Option Core :=
  let j := i / seqPieceLen q
  let r := i % seqPieceLen q
  let kg := r / seqGroupLen q
  let x := r % seqGroupLen q
  let cl := q.cls
  if x = 0 then
    match streamTake k (stream k q.msa) (groupSize cl) with
    | none => none
    | some (els, st, _) => some { setStream k q.msa st with seq := some { q with next := i + 1, aGroup := els } }
  else
    let step := x - 1
    let nIdx := step / seqC cl
    let e := step % seqC cl
    let count := stepElems cl
    let aOps := opndsOf q.tya q.fmt (stream k q.msa).t (sliceOf q.aGroup (e * laneElems cl) (laneElems cl))
    let idx := nIdx * lanesOfClass cl
    let done := fun (k : Core) => { k with seq := some { q with next := i + 1 } }
    match (q.pieces[j]?).getD none with
    | some base =>
      let b := arrayStep k q.tyb base (kg * (q.n / lanesOfClass cl) * seqC cl + step) count
      some (done (mmaStep k n idx cl q.sr aOps (opndsOf q.tyb q.fmt 0 b)))
    | none =>
      match streamTake k (stream k q.msb) count with
      | none => none
      | some (b, st, _) =>
        some (done (mmaStep (setStream k q.msb st) n idx cl q.sr aOps (opndsOf q.tyb q.fmt st.t b)))

/-- The words of local store that step `j` of an array reads, of `count` elements. -/
def arrayWords (ty : Ty) (base j count : Nat) : Nat × List Nat :=
  let bit := j * count * elemBits ty
  (0, wordsOf (base + bit / 8) (ceilDiv (bit % 8 + count * elemBits ty) 8))

/-- The words of local store action `i` of the product reads (17 R445). -/
def seqWords (k : Core) (q : Seq) (i : Nat) : Nat × List Nat :=
  let r := i % seqPieceLen q
  let x := r % seqGroupLen q
  if x = 0 then streamWords (stream k q.msa) (groupSize q.cls)
  else match (q.pieces[i / seqPieceLen q]?).getD none with
  | some base => arrayWords q.tyb base (r / seqGroupLen q * (q.n / lanesOfClass q.cls) * seqC q.cls + (x - 1)) (stepElems q.cls)
  | none => streamWords (stream k q.msb) (stepElems q.cls)

/-- The sequencer of one core in cycle `n`: its implicit gates, one action, the drain at the end, the post of MM.RS six
cycles later (05 R155); with it, the fault code of a failing action. -/
def seqCycle (n : Nat) (k : Core) : Core × Option Nat :=
  match k.seq with
  | none => (k, none)
  | some q =>
    let k := (q.gates.filter (fun g => g.1 = n)).foldl (fun k g =>
      let gt : Gate := ⟨n, q.pc, .seqBuf g.2, false⟩
      { k with gates := k.gates ++ [{ gt with ok := gateSat k gt }] }) k
    if n < q.start then (k, none)
    else
      let i := n - q.start
      if i < seqLen q then
        let (k, bad) := eccReads k [seqWords k q i]
        if bad then ({ k with seq := none }, some 0x30)
        else match seqAction k q n i with
        | some k => (k, none)
        | none => ({ k with seq := none }, some 0x07)
      else
        let k := if i = seqLen q ∧ q.drain then drainTiles k n 4 else k
        match q.post with
        | none => ({ k with seq := none }, none)
        | some p =>
          if i < seqLen q + 6 then (k, none)
          else
            let wire := (tyOfCode p.wire).getD .fp32
            let (k, bad) := eccRead k 2 ((List.range p.n).map (· + 320))
            if bad then ({ k with seq := none }, some 0x30) else
            let (bs, fl) := wireBytes k wire 0 p.n
            let k := outboxGate { raiseFp k fl with undo := k.undo.map (fun u => { u with fpstat := fpstatRaise u.fpstat fl }) } n q.pc
            ({ postOutbox k n (.coll { p with vals := bs }) with seq := none }, none)

-- Cycles and holds --------------------------------------------------------------------------------------------------

/-- What the matrix pipeline will do in cycle `n`, and what it finds, for an ACCINIT or ACCLD of that cycle (05 R150). -/
def mxUndo (n : Nat) (k : Core) : Option MxUndo :=
  let ran := k.mx.filter (fun e => e.due ≤ n)
  if ran.isEmpty then none else some ⟨n, k.acc, k.latch, k.fpstat, k.mxstat, k.srseq, k.spill, ran⟩

/-- The halts that uncorrectable reads of a core bring at the end of cycle `n` (17 R445). -/
def eccHalts (n : Nat) (s : State) (c : Nat) : State :=
  let now := (coreOf s c).ecc.due.filter (fun x => x.1 ≤ n)
  if now.isEmpty then s
  else
    let s := modCore s c (fun k => { k with ecc := { k.ecc with due := k.ecc.due.filter (fun x => !(x.1 ≤ n)) } })
    now.foldl (fun s x => coreFault s c x.2.2 x.2.1 n) s

/-- What takes effect in a core when issue cycle `n` begins: results, spill words, the matrix pipeline, the sequencer. -/
def coreCycle (n : Nat) (s : State) (c : Nat) : State :=
  let k := commitWb (commitSpill (coreOf s c) n) n
  let k := { commitMx (srKey s c) n k with undo := mxUndo n k }
  let (k', f) := seqCycle n { k with busy := k.busy.filter (fun b => n < b.hi) }
  let s := eccHalts n (eccFlush (setCore s c k') c) c
  match f with
  | some code => coreFault s c code ((k.seq.map (·.pc)).getD 0) n
  | none => s

/-- The cores the state lists. -/
def listedCores (s : State) : List Nat := s.cores.map (·.1)

/-- TIL_FLTPOL.SPIDX_POISON of a core's tile (05 R157). -/
def sparsePoison (s : State) (c : Nat) : Bool := (tileReg s (tileOf c) 0x820).getLsbD 0

/-- Whether a sparse unit is running. -/
def sparseRuns (k : Core) : Bool := match k.sparse with | .running _ _ _ _ => true | _ => false

/-- The sparse units whose run is over by the present count are idle; a plane halt stops them (06 R158, R169). -/
def finishSparse (s : State) : State :=
  if s.plane.halted.isSome then s
  else ((s.cores.filter (fun e => sparseRuns e.2)).map (·.1)).foldl (fun s c =>
    modCore s c (sparseAtCount (sparsePoison s c) s.count)) s

/-- Issue cycle `n` begins, before anything issues in it. -/
def enterCycle (s : State) (n : Nat) : State :=
  let s := { s with plane := { s.plane with issued := [] } }
  let cs := listedCores s
  let s := cs.foldl (fun s c => coreSlots n (coreCycle n s c) c) s
  meshCycle s n

/-- The gates of one core whose point has passed when cycle `n` is next: they take effect (04 R123). -/
def passGates (n : Nat) (s : State) (c : Nat) : State :=
  let k := coreOf s c
  let now := k.gates.filter (fun g => g.g + 40 ≤ n)
  if now.isEmpty then s
  else
    let s := setCore s c { k with gates := k.gates.filter (fun g => !(g.g + 40 ≤ n)) }
    now.foldl (fun s g =>
      let (k', f) := applyGate (coreOf s c) g
      let s := setCore s c k'
      match f with
      | some code => haltPlane s (n - 1) c code
      | none => s) s

/-- Whether some core's unsatisfied request takes force at cycle `n` (04 R123, R124). -/
def holdDue (s : State) (n : Nat) : Bool :=
  s.cores.any (fun e => e.2.gates.any (fun g => !g.ok && decide (g.g + 40 = n)))

/-- Whether the step end under way is unsatisfied when cycle `n` comes (05 R152). -/
def stepEndDue (s : State) (n : Nat) : Bool := s.plane.stepEnd = some (n - 40) && 40 ≤ n && !s.plane.stepOk

end Sys2Proof.Machine
end

