-- ==== Sys2Proof/Machine/Switch.lean ====
section
/-! DEFINITION. The switch core of a Bridge: admission, buffer pools, spill and refill, unreachable frames, and what is done
with a frame that leaves for a unit of this module (07 R208; 08 R218 to R235). -/
namespace Sys2Proof.Machine

/-- The frame dies that a command may name. -/
def isBridge (d : Nat) : Bool := 64 ≤ d && d < 100

/-- A tile's fault record takes a fault of no detail (17 R437, R439). -/
def recordTile (s : State) (t code : Nat) : State := recordDie s t code 0
/-- A Bridge's fault record takes a fault whose DETAIL is its link number (17 R439). -/
def recordBrg (s : State) (d code : Nat) : State := recordDie s d code (linkNo d)

-- Buffer pools ------------------------------------------------------------------------------------------------------

/-- Buffer size and largest payload of a pool; 4 stands for the refill reserve, 5 for a frame that holds no buffer (08 R226). -/
def poolSize : Nat → Nat | 0 => 128 | 1 => 512 | 2 => 2048 | 5 => 0 | _ => 4160
def poolCap : Nat → Nat | 0 => 64 | 1 => 448 | 2 => 1984 | _ => 4096

/-- Bits [hi:lo] of the register that counts a pool's free buffers (BRG_POOLSTAT; RSVFREE of BRG_SPILLSTAT). -/
def poolField : Nat → Nat × Nat × Nat
  | 0 => (0x108, 14, 0) | 1 => (0x108, 29, 16) | 2 => (0x108, 43, 32) | 3 => (0x108, 59, 48) | _ => (0x118, 39, 32)

def poolFree (s : State) (d p : Nat) : Nat := let f := poolField p; regBits s (dcs d f.1) f.2.1 f.2.2
def poolAdd (s : State) (d p : Nat) (k : Int) : State :=
  let f := poolField p
  if p = 5 then s else regSetBits s (dcs d f.1) f.2.1 f.2.2 ((poolFree s d p : Int) + k).toNat

/-- F: bytes of all free general buffers (08 R225). -/
def freeBytes (s : State) (d : Nat) : Nat := (List.range 4).foldl (fun n p => n + poolSize p * poolFree s d p) 0

/-- The smallest pool that can hold a payload (08 R227). -/
def smallestPool (len : Nat) : Nat := ((List.range 4).find? (fun p => len ≤ poolCap p)).getD 3

/-- The pool a request takes its buffer from: the smallest fitting one with a free buffer (08 R227). -/
def fittingPool (s : State) (d len : Nat) : Option Nat :=
  (List.range 4).find? (fun p => decide (len ≤ poolCap p ∧ 0 < poolFree s d p))

/-- Q of a VOQ (08 R225). -/
def voqBytes (q : Voq) : Nat := q.sram.foldl (fun n h => n + poolSize h.pool) 0

/-- Whether Q is strictly below α × F for a class's code (08 R225). -/
def underThreshold (s : State) (d cls q : Nat) : Bool :=
  let a := min 9 (regBits s (dcs d 0x100) (4 * cls + 3) (4 * cls))
  let f := freeBytes s d
  if 6 ≤ a then decide (q < f * 2 ^ (a - 6)) else decide (q * 2 ^ (6 - a) < f)

def voq (s : State) (d q : Nat) : Voq := smGet Voq.reset (bridge s d).voqs q
def setVoq (s : State) (d q : Nat) (v : Voq) : State :=
  modBridge s d (fun b => { b with voqs := smSet Voq.reset b.voqs q v })

/-- Number of a VOQ (08 R220). -/
def voqNo (p : Port) (out vl : Nat) : Nat := (match p with | .link => 0 | .localPort => 900) + 12 * out + vl

-- Spill -------------------------------------------------------------------------------------------------------------

/-- Device physical address of spill line `k` of Bridge `d` (08 R229). -/
def spillAddr (d k : Nat) : Nat :=
  let c := k % 2 ^ 20
  dpaOf ((c % 64) * 16384 + c / 64) (0x5DC000 + (d - 64) * 0x1000 + 64 * (k / 2 ^ 20))

/-- The lowest `n` lines not in use (R231 promises no order among free lines; DESIGN CHOICE, log 29). -/
def freeLines (used : List Nat) (n : Nat) : List Nat :=
  ((List.range (used.length + n)).filter (fun k => !used.contains k)).take n

def setLines (s : State) (d : Nat) (ls : List Nat) : State :=
  regSetBits (modBridge s d (fun b => { b with lines := ls })) (dcs d 0x118) 26 0 ls.length

/-- Whether spill can take `n` more lines (08 R221, R231). -/
def spillRoom (s : State) (d n : Nat) : Bool :=
  (bridge s d).spillOn && decide ((bridge s d).lines.length + n ≤ 2 ^ 26)

-- Receive space -----------------------------------------------------------------------------------------------------

/-- A frame arrives at a Bridge's port: it is in the receive space (08 R220). RX and LOCAL counters follow R235. `buf` is the pool of a
buffer reserved for it (12 R322). -/
def arriveWith (s : State) (d : Nat) (p : Port) (via buf : Option Nat) (f : Frame) : State :=
  let b := bridge s d
  let e : RxEntry := ⟨p, 3 * fCls f + min 2 (fHop f), b.arrivals, f, false, false, [], 0, false, false, false, false, via, buf⟩
  let s := setBridge s d { b with recv := b.recv ++ [e], arrivals := b.arrivals + 1 }
  match p with
  | .link => brgCount (brgCount s d (fCls f) 1) d (4 + fCls f) (36 + f.payload.length)
  | .localPort => brgCount s d (8 + fCls f) 1

def arriveVia (s : State) (d : Nat) (p : Port) (via : Option Nat) (f : Frame) : State := arriveWith s d p via none f
def arrive (s : State) (d : Nat) (p : Port) (f : Frame) : State := arriveVia s d p none f
def inject (s : State) (d : Nat) (f : Frame) : State := arrive s d .localPort f

/-- The credits of a frame of the LINK port return to the far end (07 R192). -/
def returnCredits (s : State) (d : Nat) (e : RxEntry) : State :=
  match e.port with
  | .link => modLink s d (fun l => { l with ret := l.ret.modify e.vl (· + flitsOf e.frame) })
  | .localPort => s

/-- A frame leaves the receive space; a buffer reserved for it and not used is free again. -/
def dropRx (s : State) (d : Nat) (e : RxEntry) : State :=
  let s := returnCredits (modBridge s d (fun b => { b with recv := b.recv.filter (fun x => x.num ≠ e.num) })) d e
  match e.buf with
  | some p => poolAdd s d p 1
  | none => s

def putRx (s : State) (d : Nat) (e : RxEntry) : State :=
  modBridge s d (fun b => { b with recv := b.recv.map (fun x => if x.num = e.num then e else x) })

/-- The NAK a module answers a request with (07 R208, 08 R214): SRC is the request's destination. -/
def nakFor (s : State) (die : Nat) (f : Frame) (code : Nat) : Frame :=
  mkFrame { dest := fSrc f, src := fDest f, cls := 1, hop := 0, type := 7, seq := (fSeq f).toNat, aop := code
            epoch := epochOf s die }

/-- An unreachable frame at Bridge `d` (07 R208). -/
def unreachableAt (s : State) (d : Nat) (f : Frame) : State :=
  let s := brgCount s d 37 1
  if isMfReq (fType f) then inject s d (nakFor s d f 1)
  else recordAs s d 0x23 (if fCls f = 3 then 2 else 1) 0

-- Placement ---------------------------------------------------------------------------------------------------------

/-- Whether frames of VOQ `q` are on their way to its tail. -/
def tailBound (s : State) (d q : Nat) : Bool := (bridge s d).spilling.any (fun x => x.q = q)

/-- place() of R221 into frame SRAM; false when refused there, with the refusal counted. What the scheduler noted of the frame while
it waited goes with it (08 R235, 09 R250). -/
def placeSram (s : State) (d q : Nat) (e : RxEntry) (f : Frame) : State × Bool :=
  let v := voq s d q
  if !v.spill.isEmpty || tailBound s d q then (s, false)
  else if !underThreshold s d (fCls f) (voqBytes v) then (brgCount s d 26 1, false)
  else
    match fittingPool s d f.payload.length with
    | some p => (poolAdd (setVoq s d q { v with sram := v.sram ++ [⟨f, p, false, e.stall, e.red⟩] }) d p (-1), true)
    | none => (brgCount s d (27 + smallestPool f.payload.length) 1, false)

/-- A held frame joins the tail of VOQ `q` in its own buffer: the SRAM part, or the tail part when that is not empty (08 R221). -/
def joinVoq (s : State) (d q : Nat) (h : Held) : State :=
  let v := voq s d q
  setVoq s d q (if v.spill.isEmpty then { v with sram := v.sram ++ [h] }
    else { v with spill := v.spill ++ [⟨[], some h, h.stall, h.red⟩] })

/-- place() of R221 for a copy of receive-space entry `e`: into frame SRAM, or its spill writes begin. An answer takes the buffer
reserved for it, and waits only while earlier frames of its VOQ are being spilled (12 R322; DEDUCED, log 74). -/
def placeCopy (s : State) (d : Nat) (e : RxEntry) (c : Copy) : State × Option Bool :=
  let q := voqNo e.port c.out c.vl
  match e.buf with
  | some p => if tailBound s d q then (s, none) else (joinVoq s d q ⟨c.frame, p, false, e.stall, e.red⟩, some false)
  | none =>
    let (s, ok) := placeSram s d q e c.frame
    if ok then (s, some false)
    else
      let n := flitsOf c.frame
      if spillRoom s d n then
        let ls := freeLines (bridge s d).lines n
        let s := setLines s d ((bridge s d).lines ++ ls)
        let s := modBridge s d (fun b => { b with spilling := b.spilling ++ [⟨q, c.frame, ls, e.num, e.stall, e.red⟩] })
        (brgCount s d 24 1, some true)
      else (s, none)

/-- Places the copies of an entry in order, as far as they are taken (08 R221, R222). -/
def placeAll (s : State) (d : Nat) (e : RxEntry) : List Copy → State
  | [] => if e.spilling = 0 then dropRx s d e else putRx s d { e with copies := [] }
  | c :: cs =>
    match placeCopy s d e c with
    | (s, some sp) => placeAll s d { e with spilling := e.spilling + (if sp then 1 else 0), buf := none } cs
    | (s, none) =>
      let s := if e.counted then s else brgCount s d 31 1
      putRx s d { e with copies := c :: cs, counted := true }

/-- The route of an entry: the link its tile agent chose while that is UP, else the Bridge's own choice (07 R197, R209). -/
def routeVia (s : State) (d : Nat) (e : RxEntry) (f : Frame) : Routed :=
  match e.via with
  | some l => if linkUp s l then .copies [⟨l, 3 * fCls f, fSet f 67 66 0⟩] else routeFrame s d e.port f
  | none => routeFrame s d e.port f

/-- admit() of R221 for an entry not yet checked: R218, then the route, then placement. -/
def admitEntry (s : State) (d : Nat) (e : RxEntry) : State :=
  let f := e.frame
  if e.checked then placeAll s d e e.copies
  else if hcrcOf f ≠ fHcrc f then brgCount (recordBrg (dropRx s d e) d 0x20) d 35 1
  else if formatOk f = false then brgCount (recordBrg (dropRx s d e) d 0x21) d 35 1
  else if fCls f < 3 ∧ fEpoch f ≠ epochOf s d then brgCount (dropRx s d e) d 36 1
  else
    let bad := fcrcOf f ≠ f.crc && !fCorrupt f
    let s := if bad then brgCount (recordBrg s d 0x22) d 34 1 else s
    let f := if bad then fSet f 71 71 1 else f
    let s := routeReads s d f
    match routeVia s d e f with
    | .unreachable => unreachableAt (dropRx s d e) d f
    | .copies cs =>
      let mc := e.port = .localPort && fMcast f
      let s := if mc then brgCount s d 33 cs.length else s
      placeAll s d { e with frame := f, checked := true, mcast := mc, copies := cs } cs

/-- The first entry of a port and lane (08 R222). -/
def laneHead (s : State) (d : Nat) (p : Port) (vl : Nat) : Option RxEntry :=
  (bridge s d).recv.find? (fun e => decide (e.port = p) && e.vl = vl)

/-- Whether an entry is the first of its port and lane. -/
def isLaneHead (s : State) (d : Nat) (e : RxEntry) : Bool := (laneHead s d e.port e.vl).map (·.num) = some e.num

/-- A retry of every waiting entry at the head of its lane, in arrival order (08 R222). -/
def retryWaiting (s : State) (d : Nat) : State :=
  ((bridge s d).recv.filter (fun e => e.checked && !e.copies.isEmpty && !e.sel && isLaneHead s d e)).foldl
    (fun s e => admitEntry s d e) s

/-- The service queue of a sliver port (04 R105). -/
def port (s : State) (t lc : Nat) : List SvcReq := smGet [] (tile s t).ports lc
def setPort (s : State) (t lc : Nat) (q : List SvcReq) : State :=
  modTile s t (fun x => { x with ports := smSet [] x.ports lc q })

/-- The tile and logical core of the sliver a device physical address lies in (01 R31). -/
def homeTile (a : Nat) : Nat := a / 2 ^ 37
def homeLc (a : Nat) : Nat := a / 2 ^ 23 % 16384

/-- A request joins the queue of the sliver port of address `a` (01 R19, 04 R105). -/
def pushSvc (s : State) (a : Nat) (op : SvcOp) (src : SvcFrom) : State :=
  setPort s (homeTile a) (homeLc a) (port s (homeTile a) (homeLc a) ++ [⟨a % 2 ^ 23, op, src, 0, [], false, false⟩])

/-- Requests of Bridge `d` for its spill line `k` that still wait for their slot (08 R232). -/
def spillWaits (s : State) (d k : Nat) : List SvcReq :=
  (port s (homeTile (spillAddr d k)) (homeLc (spillAddr d k))).filter (fun r => r.src = .spill d k)

/-- Whether every request for some spill lines has been served. -/
def linesServed (s : State) (d : Nat) (ls : List Nat) : Bool := ls.all (fun k => (spillWaits s d k).isEmpty)

/-- What a spill line holds, or will hold once its write is served. -/
def spillLine (s : State) (d k : Nat) : List Byte :=
  match (spillWaits s d k).getLast?.map (fun r => r.op) with
  | some (SvcOp.write bs) => bs
  | _ => memRead s.dram (spillAddr d k) 64

/-- The writes of a spilled frame's lines go to their slivers on SVC-REQ (08 R229, R231). -/
def spillWriteLines (s : State) (d : Nat) (f : Frame) (ls : List Nat) : State :=
  (ls.zip (chunks 64 (frameBytes f))).foldl (fun s x => pushSvc s (spillAddr d x.1) (.write x.2) (.spill d x.1)) s

/-- A receive-space entry no longer waits for the spill writes of copy `x` (08 R231). -/
def spillLeaves (s : State) (d : Nat) (x : Spilling) : State :=
  match (bridge s d).recv.find? (fun e => e.num = x.rx) with
  | none => s
  | some e =>
    if e.spilling ≤ 1 ∧ e.copies.isEmpty then dropRx s d e else putRx s d { e with spilling := e.spilling - 1 }

/-- The oldest frame whose spill writes are under way: the write of its last line is accepted, and it is admitted (08 R231). -/
def spillDone (s : State) (d : Nat) : State :=
  match (bridge s d).spilling with
  | [] => s
  | x :: xs =>
    let s := spillWriteLines s d x.frame x.lines
    let v := voq s d x.q
    let s := setVoq s d x.q { v with spill := v.spill ++ [⟨x.lines, none, x.stall, x.red⟩] }
    spillLeaves (modBridge s d (fun b => { b with spilling := xs })) d x

/-- The buffer a refill takes: a general one, else one of the reserve (08 R228). -/
def refillPool (s : State) (d len : Nat) : Option Nat :=
  match fittingPool s d len with
  | some p => some p
  | none => if 0 < poolFree s d 4 then some 4 else none

/-- The frame some spill lines hold. -/
def spilledFrame (s : State) (d : Nat) (lines : List Nat) : Frame := frameOfBytes (lines.flatMap (spillLine s d))

/-- A frame of a VOQ's tail part. -/
def tailFrame (s : State) (d : Nat) (x : Spilled) : Frame :=
  match x.held with
  | some h => h.frame
  | none => spilledFrame s d x.lines

/-- A frame leaves the tail part: its lines are free again. -/
def freeTail (s : State) (d : Nat) (x : Spilled) : State :=
  if x.lines.isEmpty then s else setLines s d ((bridge s d).lines.filter (fun k => !x.lines.contains k))

/-- A refill begins: a buffer is taken, and the lines are read once their writes have been served (08 R232, steps 1 and 2). -/
def startRefill (s : State) (d q : Nat) (v : Voq) (x : Spilled) : State :=
  if !linesServed s d x.lines then s
  else
    match refillPool s d (spilledFrame s d x.lines).payload.length with
    | none => s
    | some p =>
      let s := poolAdd (setVoq s d q { v with reading := some p }) d p (-1)
      x.lines.foldl (fun s k => pushSvc s (spillAddr d k) (.read 64) (.spill d k)) s

/-- A refill ends: the frame read is checked and appended to the SRAM part, or consumed (08 R232, steps 3 and 4). -/
def endRefill (s : State) (d q : Nat) (v : Voq) (x : Spilled) (xs : List Spilled) (p : Nat) : State :=
  let f := spilledFrame s d x.lines
  let v := { v with spill := xs, reading := none, refills := !xs.isEmpty }
  let s := freeTail s d x
  if hcrcOf f ≠ fHcrc f then brgCount (recordBrg (poolAdd (setVoq s d q v) d p 1) d 0x20) d 35 1
  else
    let bad := fcrcOf f ≠ f.crc && !fCorrupt f
    let s := if bad then brgCount (recordBrg s d 0x22) d 34 1 else s
    let f := if bad then fSet f 71 71 1 else f
    let s := if p = 4 then brgCount s d 32 1 else s
    brgCount (setVoq s d q { v with sram := v.sram ++ [⟨f, p, false, x.stall, x.red⟩] }) d 25 1

/-- Refill of a VOQ's oldest frame of the tail part, when the SRAM part is empty or the refill before it has just ended (08 R232). A
frame that stands there in its own buffer moves up as it is. -/
def refillVoq (s : State) (d q : Nat) : State :=
  let v := voq s d q
  match v.spill with
  | [] => s
  | x :: xs =>
    if !v.sram.isEmpty && !v.refills then s
    else
      match x.held, v.reading with
      | some h, _ => setVoq s d q { v with sram := v.sram ++ [h], spill := xs, refills := !xs.isEmpty }
      | none, none => startRefill s d q v x
      | none, some p => if linesServed s d x.lines then endRefill s d q v x xs p else s

-- Arrival at the units ----------------------------------------------------------------------------------------------

/-- A consumer that finds a CRC mismatch on a frame not yet marked records FRAME_CRC in its record (08 R219). -/
def consumerCheck (s : State) (rec : State → Nat → State) (f : Frame) : State × Frame :=
  if fcrcOf f ≠ f.crc && !fCorrupt f then (rec s 0x22, fSet f 71 71 1) else (s, f)

/-- What a tile agent consumes from FRM-IN (04 R117). -/
def tileTakes (f : Frame) : Bool :=
  let ty := fType f
  (ty = 1 && epFunc (fDest f) = 0) || (5 ≤ ty && ty ≤ 7) || (0x11 ≤ ty && ty ≤ 0x14)

/-- A frame reaches a tile: requests on SVC-REQ with the Bridge that owes the answer, the rest on FRM-IN; what a tile agent
does not consume records FRAME_FORMAT (04 R117, 12 R322). -/
def toTile (s : State) (d : Nat) (rsv : Option Nat) (f : Frame) : State :=
  let t := epDie (fDest f)
  let (s, f) := consumerCheck s (fun s c => recordTile s t c) f
  if isMfReq (fType f) then modTile s t (fun x => { x with svcIn := x.svcIn ++ [(f, d, rsv.getD 5)] })
  else if tileTakes f then modTile s t (fun x => { x with frmIn := x.frmIn ++ [f] })
  else recordTile s t 0x21

/-- What a Saddle engine consumes (10 R252, 11 R292). -/
def engineTakes (f : Frame) : Bool := fCls f = 2 && 0x10 ≤ fType f && fType f ≤ 0x17

/-- A frame reaches a Saddle engine, whose errors its Bridge records and counts (08 R235, 10 R252). -/
def toEngine (s : State) (d : Nat) (f : Frame) : State :=
  let (s, f) := consumerCheck s (fun s c => brgCount (recordBrg s d c) d 34 1) f
  if engineTakes f then modEng s d (fun e => { e with inq := e.inq ++ [f] }) else brgCount (recordBrg s d 0x21) d 35 1

/-- A frame leaves Bridge `d` for an output other than a link (08 R213, R220): `rsv` is the buffer reserved for the answer it will
need. A gated tile is unreachable (16 R430). -/
def deliver (s : State) (d o : Nat) (rsv : Option Nat) (f : Frame) : State :=
  if o = 36 then
    if pwrState s = 2 then unreachableAt (match rsv with | some p => poolAdd s d p 1 | none => s) d f else toTile s d rsv f
  else if o < 73 then toEngine s (64 + (o - 37)) f
  else
    let (s, _) := consumerCheck s (fun s c => recordDie s (if o = 73 then SP else APL) c 0) f
    recordDie s (if o = 73 then SP else APL) 0x21 0

/-- A frame is handed to its link, whose Bridge counts it (08 R235, 09 R238). -/
def handToLink (s : State) (d die q : Nat) (f : Frame) : State :=
  let s := modLink s d (fun l => { l with sent := l.sent ++ [⟨f, flitsOf f, die, q, false⟩] })
  brgCount (brgCount s d (12 + fCls f) 1) d (16 + fCls f) (36 + f.payload.length)

-- The step end ------------------------------------------------------------------------------------------------------

/-- Whether a frame is of the present step: a collective frame by its STEP, any other frame always (05 R152, 11 R288). -/
def ofStep (s : State) (f : Frame) : Bool :=
  !(0x10 ≤ fType f && fType f ≤ 0x17) || argStep (fArg f) = (tileReg s 0 0x80C).toNat % 2 ^ 16

/-- Whether a Bridge's queues, spill region and Saddle staging hold nothing of this step (05 R152). -/
def bridgeEmpty (s : State) (d : Nat) (b : Bridge) : Bool :=
  let free := fun f => !ofStep s f
  let now := fun (k : CollKey) => k.step = (tileReg s 0 0x80C).toNat % 2 ^ 16
  b.recv.all (fun e => free e.frame) && b.spilling.all (fun e => free e.frame) &&
    b.voqs.all (fun q => q.2.sram.all (fun h => free h.frame) && q.2.spill.all (fun x => free (tailFrame s d x))) &&
    b.link.sent.all (fun x => x.dead || free x.frame) && b.eng.inq.all free && b.eng.gather.all (fun g => g.frames.all free) &&
    b.eng.held.all (fun p => !now p.key) && b.eng.kept.all (fun p => !now p.key)

/-- Whether a request at a sliver port is of the memory fabric. -/
def isFabric (r : SvcReq) : Bool := match r.src with | .fabric .. => true | _ => false

/-- The Bridges report their queues, spill regions and Saddle staging empty of this step's frames, and the tile agents hold
nothing of the step on its way (05 R152; 07 R207). -/
def fabricEmpty (s : State) : Bool :=
  s.bridges.all (fun e => bridgeEmpty s e.1 e.2) &&
  s.tiles.all (fun e =>
    let t := e.2
    t.frmIn.all (fun f => !ofStep s f) && t.svcIn.isEmpty && t.inj.all List.isEmpty && t.ports.all (fun p => !p.2.any isFabric) &&
      t.mergeQ.isEmpty && t.merges.all (·.done) && t.xsend.isEmpty)

/-- Streams still open when the Bridges are found empty record STREAM_COUNT and close (07 R204). -/
def closeStreams (s : State) : State :=
  let s := s.tiles.foldl (fun s e =>
    let t := tile s e.1
    let s := setTile s e.1 { t with streams := [] }
    t.streams.foldl (fun s _ => recordTile s e.1 0x25) s) s
  s.bridges.foldl (fun s e =>
    let rows := (bridge s e.1).eng.streams
    let s := modEng s e.1 (fun g => { g with streams := [] })
    rows.foldl (fun s _ => recordBrg s e.1 0x25) s) s

/-- What a step end or a step abort clears in a tile agent (06 R178, 07 R204, 12 R328, R330; 11 R302). -/
def clearTileStep (t : Tile) : Tile :=
  { t with req := [], filter := [], streams := [], sends := [], xrecv := [], xsend := [], chunks := [], arrived := []
           poisoned := [], mergeQ := [], merges := [] }

/-- BRG_SPILLCFG.EN takes effect at a step end or step abort (08 R231); in A2 a Bridge acts as if it were 0 (16 R430). -/
def spillInForce (s : State) (d : Nat) : State :=
  modBridge s d (fun b => { b with spillOn := regBits s (dcs d 0x110) 0 0 = 1 && pwrState s ≤ 1 })

/-- A step end in the fabric (07 R204, 08 R231, 10 R281, 12 R330); TIL_STEPIDX has its new value. What an engine has taken in
of the next step stays. -/
def stepEndFabric (s : State) : State :=
  let next := (tileReg s 0 0x80C).toNat % 2 ^ 16
  let s := s.tiles.foldl (fun s e => setTile s e.1 (clearTileStep e.2)) s
  let s := s.bridges.foldl (fun s e => modEng s e.1 (fun g =>
    { g with done := g.done.filter (fun x => x.1.step = next), used := g.used.filter (fun x => x.2 = next), bad := g.bad.filter (fun k => k.step = next) })) s
  (List.range 36).foldl (fun s k => spillInForce s (64 + k)) s

end Sys2Proof.Machine
end

