-- ==== Sys2Proof/Machine/Plane.lean ====
section
/-! DEFINITION. The plane's course: opening an issue cycle, plane holds, step ends, and the issue of one instruction
(01 R25; 04 R97 to R100, R123 to R126; 05 R134, R151 to R157; 13 R351; 16 R419). -/
namespace Sys2Proof.Machine

-- Course tables, as the step end needs them -------------------------------------------------------------------------

/-- Bits [hi:lo] of tile 0's copy of course table entry `n` (11 R282). -/
def cteBits (s : State) (n hi lo : Nat) : Nat := regBits s (dcs 0 (0x4000 + n * 0x100)) hi lo

/-- This module's row and column (07 R480, TIL_SELF). -/
def selfYX (s : State) : Nat × Nat := (regBits s (dcs 0 0x830) 3 0, regBits s (dcs 0 0x830) 7 4)

/-- The module's rank in entry `n`, as tile 0 holds it; an invalid entry acts as an empty one (11 R283, R284). -/
def courseRank (s : State) (n : Nat) : Option Nat := (course? s 0 n).bind (fun e => rankOf e (selfYX s))

/-- The entries whose tokens this step end runs: TOKEN set, or a fused instruction issued on them (11 R303). -/
def tokenEntries (s : State) : List Nat :=
  (List.range 64).filter (fun n =>
    (courseRank s n).isSome && (cteBits s n 60 60 = 1 || s.cores.any (fun e => smGet 0 e.2.collOrd n != 0)))

-- The step end ------------------------------------------------------------------------------------------------------

/-- Every active core has issued STEPEND in the cycle of the step end (05 R152); with every core halted, none is left to
(05 R153). -/
def allEnded (s : State) (e : Nat) : Bool := (activeCores s).all (fun c => (coreOf s c).next = e + 1)

/-- A fail-class fault is recorded in the module in this step (17 R438). -/
def failSeen (s : State) : Bool :=
  s.cores.any (fun e => e.2.fault.code != 0 && faultClass e.2.fault.code = 1) ||
    (List.range 101).any (fun d => regBits s (recordAddr d) 11 11 = 1)

/-- The token status this module has gathered (11 R305). -/
def tokenStatus (s : State) : Nat := regBits s (dcs TUN 0xC00) 31 0

/-- TUN_TOKSTAT at the start of a step (11 R305). -/
def clearTokens (s : State) : State := regPutNat s (dcs TUN 0xC00) 0 2

/-- Every landing buffer a fused instruction named is complete and every outbox and count is clear (05 R152, 11 R304). -/
def coresDrained (s : State) : Bool :=
  s.cores.all (fun e => e.2.outbox.isEmpty && e.2.capo = 0)

/-- Every condition of R152 but the errors: outboxes and counts, tokens, Bridges and Saddle staging. -/
def stepDrained (s : State) : Bool :=
  coresDrained s && (tokenEntries s).all (s.tokGot.contains ·) && fabricEmpty s

/-- A core at a step end that reports no error: step flags join the run flags, class S clears (02 R42, 04 R122, 00 R7). The
payload bytes it has posted stay protected until a GATE that names the outbox (04 R119). -/
def endCore (k : Core) : Core :=
  { k with
    fpstat := stepToRun 6 k.fpstat, mxstat := stepToRun 2 k.mxstat, srseq := 0, lb := [], outbox := []
    capo := 0, mfSeq := 0, naks := [], fused := [], collOrd := [], lateFlags := [], fault := CoreFault.none, spstat := 0
    spcyc := 0 }

/-- The last cycle in which something under way in a core takes effect. -/
def coreTail (k : Core) : Nat :=
  ((k.wb ++ k.spill).map (fun (w : Wb) => w.due) ++ k.mx.map (fun (e : MxEvent) => e.due) ++
    k.slots.map (fun (o : SlotOp) => o.slotAt + 18)).foldl max 0

/-- What is under way in one core lands: register writes, spill words, the matrix pipeline, core slots (03 R89, R93; 04 R99,
R104). -/
def drainCore (s : State) (c : Nat) : State :=
  (List.range (coreTail (coreOf s c) - s.plane.cyc)).foldl (fun s i =>
    let n := s.plane.cyc + 1 + i
    coreSlots n (setCore s c (commitMx (srKey s c) n (commitWb (commitSpill (coreOf s c) n) n))) c) s

/-- The mesh words under way arrive (04 R113). -/
def drainMesh (s : State) : State :=
  let ws := s.plane.mesh
  let tail := (ws.map wordArrives).foldl max 0
  let s := (List.range (tail - s.plane.cyc)).foldl (fun s i =>
    ws.foldl (fun s w =>
      match wordWrites w (s.plane.cyc + 1 + i) with
      | some (c, v, j) => modCore s c (fun k => applyDst k (if v then .vrx j else .rx j) w.data)
      | none => s) s) s
  { s with plane := { s.plane with mesh := [] } }

/-- After the last step no core issues, and what is under way completes (05 R153; taken at once, log 3). -/
def drainPlane (s : State) : State := drainMesh ((listedCores s).foldl drainCore s)

/-- A step end with no error (05 R152; 02 R42; 03 TIL_STEPIDX; 13 R351, R361): the next step follows, or the pause, or,
with every core halted, the end of the run (05 R153). -/
def finishStep (s : State) : State :=
  let s := collectCoreFaults s
  let bound := s.cores.any (fun e => e.2.mxstat.getLsbD 0)
  let s := if bound then regSetBits s (dcs SP 0x440) 3 3 1 else s
  let s := mapCores s (fun _ => endCore)
  let s := clearRegs s (fun _ => true) (fun x => x = .s)
  let s := (List.range 64).foldl (fun s t => regPut s (dcs t 0x80C) (tileReg s t 0x80C + 1)) s
  let s := clearTokens s
  let s := stepEndFabric s
  let s := { s with tokSent := [], tokGot := [], stepCodes := [], plane := { s.plane with stepEnd := none, stepOk := false, logged := [] } }
  if (activeCores s).isEmpty then
    let s := drainPlane s
    runEnd { s with plane := { s.plane with run := .idle, preq := false, held := false } } 1 0
  else if s.plane.preq then
    let s := { s with plane := { s.plane with run := .paused, preq := false, held := true, holdAt := s.count,
                                              contAt := none } }
    raiseIrq s 21
  else s

/-- The step does not end: STEP_FAILED at issue cycle e + 39 (05 R152). -/
def failStep (s : State) (n : Nat) : State :=
  collectCoreFaults (haltPlane { s with plane := { s.plane with stepEnd := none, stepOk := false } } (n - 1) 0 0x19)

/-- The step end that is due when cycle `n` is next, once its conditions hold (05 R152, 11 R305, 17 R438). A fault taken at its
gate point has halted the plane, and the step does not end (05 R151, 12 R321). -/
def settleStep (s : State) (n : Nat) : State :=
  match s.plane.stepEnd with
  | none => s
  | some e =>
    if n < e + 40 || s.plane.halted.isSome then s
    else
      let s := closeStreams s
      if failSeen s || tokenStatus s != 0 then failStep s n else finishStep s

-- Cycles ------------------------------------------------------------------------------------------------------------

/-- A hold takes force: issue cycle `n` is not yet issued (04 R125, 17 R456). -/
def beginHold (s : State) (n : Nat) : State :=
  let p := s.plane
  let s := { s with count := s.count + 1, plane := { p with cyc := n, held := true, holdAt := s.count + 1, sample := none } }
  regSetBits (finishSparse s) (dcs TUN 0x300) 8 8 1

/-- Gates whose point has passed, then the step end, then what begins with cycle `n` (04 R123, 05 R152). Flags that join at a gate point
are set before a CSRW of the cycle before takes effect (05 R141; DESIGN CHOICE, log 83). -/
def resumeCycle (s : State) (n : Nat) : State :=
  let s := (listedCores s).foldl (passGates n) s
  let s := settleStep s n
  if s.plane.halted.isSome || s.plane.held || s.plane.run ≠ .running then s else enterCycle s n

/-- The test of a step end at the end of its issue cycle (05 R152). PENDING counts the entries whose CTOKD has not arrived (11
R305). -/
def testStepEnd (s : State) : State :=
  if s.plane.stepEnd = some s.plane.cyc then
    let s := regSetBits s (dcs TUN 0xC00) 38 32 ((tokenEntries s).filter (fun n => !s.tokGot.contains n)).length
    { s with plane := { s.plane with stepOk := allEnded s s.plane.cyc && stepDrained s } }
  else s

/-- MUTE is armed, in A0 or A1, and the next count not to execute is at most `x` (17 R447, R448). -/
def muteDue (s : State) (x : Nat) : Bool :=
  regBits s (dcs TUN 0x108) 3 2 = 1 && pwrState s ≤ 1 && s.mute.due ≤ x

/-- The module freezes at the mute count, the next count at the earliest: no domain executes it, and a hold in force stays in
force (17 R448). The number that tells this frozen state from others is drawn (log 18). -/
def freeze (s : State) : State :=
  let m := max (s.count + 1) s.mute.due
  let s := finishSparse { s with count := m - 1 }
  let s := regSetBits (regSetBits s (dcs TUN 0x108) 3 2 2) (dcs TUN 0x108) 0 0 0
  { s with count := m, muted := true, free := s.free + 1, mute := { s.mute with frozen := s.free } }

/-- Whether frame `f` is a governor frame under hold duty `d` (16 R419). -/
def governorFrame (d f : Nat) : Bool := (f % 64) * d / 64 < (f % 64 + 1) * d / 64

/-- The hold duty in force, PWR_STAT.DUTY (16 R418). -/
def holdDuty (s : State) : Nat := regBits s (dcs SP 0x200008) 10 4

/-- Whether the governor's request is present at the decision for count `x` (16 R419, R420). -/
def governorAt (s : State) (x : Nat) : Bool :=
  s.plane.run = .running && pwrState s = 0 && governorFrame (holdDuty s) (x / 128)

/-- The frame that began last before or at count `x` is counted if it is the governor's, also inside a pause (16 R420, R423). -/
def countFrame (s : State) (x : Nat) : State :=
  if (s.plane.run = .running || s.plane.run = .paused) && pwrState s = 0 && governorFrame (holdDuty s) (x / 128) then
    regCount s (dcs SP 0x200028) 1
  else s

/-- The next instruction word of an active core is uncorrectable: the plane halts before it issues (17 R445). -/
def fetchLost (s : State) : State :=
  s.cores.foldl (fun s e =>
    let k := e.2
    if !k.ecc.marks.isEmpty && (activeCores s).contains e.1 && (standing k 1 [k.pc]).any (·.ue) then
      coreFault (eccFlush (modCore s e.1 (fun k => eccNote k [3])) e.1) e.1 0x30 k.pc s.plane.cyc
    else s) s

/-- The plane goes on from its issue cycle to the next, or into a hold, the governor's among them; at the mute count it freezes
(04 R125, 16 R419, 17 R448). -/
def advance (s : State) : State :=
  let n := s.plane.cyc + 1
  let x := s.count + 1
  let f := fetchLost s
  if muteDue s x then freeze s
  else if f.plane.halted.isSome then f
  else
    let s := testStepEnd s
    let s := if x % 128 = 0 then countFrame s x else s
    if holdDue s n || stepEndDue s n || (x % 128 = 0 && governorAt s x) then beginHold s n
    else resumeCycle (finishSparse { s with count := x, plane := { s.plane with cyc := n } }) n

/-- Whether the plane can go on by itself: running, not held, not halted, its clocks running. -/
def planeRuns (s : State) : Bool := s.plane.run = .running && !s.plane.held && s.plane.halted.isNone && clocksRun s

-- Holds -------------------------------------------------------------------------------------------------------------

/-- Cause bit of an unsatisfied request (17 R456). -/
def causeOf (g : Gate) : Nat :=
  match g.kind with
  | .gate _ => 0 | .outbox => 1 | .spjoin => 2 | .capo => 3 | .fence => 3 | .seqBuf _ => 5

/-- The cause mask of a core's unsatisfied requests. -/
def coreCauses (k : Core) : Nat :=
  (List.range 6).foldl (fun m b => if k.gates.any (fun g => !g.ok && causeOf g = b) then m + 2 ^ b else m) 0

/-- Re-tests one core's requests; a request once satisfied stays so (04 R125, R126). -/
def retestCore (s : State) (c : Nat) : State :=
  modCore s c (fun k => { k with gates := k.gates.map (fun g => { g with ok := g.ok || gateSat k g }) })

/-- The sample taken for count `x`: the causes present, module-wide and per tile, and the frame counters. A step end that is not satisfied
is a cause of every core that takes part in it (17 R456; log 92). -/
def recordSample (s : State) (causes : Nat) : State :=
  let s := regSetBits s (dcs TUN 0x300) 7 0 causes
  let act := activeCores s
  let own := fun (e : Nat × Core) => coreCauses e.2 + (if bitAt causes 4 && act.contains e.1 then 2 ^ 4 else 0)
  let req := fun t => s.cores.filter (fun e => tileOf e.1 = t && own e != 0)
  let mask := (List.range 64).foldl (fun m t => if (req t).isEmpty then m else m + 2 ^ t) 0
  let s := regPutNat s (dcs TUN 0x308) mask 2
  let s := (List.range 64).foldl (fun s t =>
    match req t with
    | [] => regPut s (dcs t 0x848) 0
    | e :: _ => regPut s (dcs t 0x848) (BitVec.ofNat 32 (lcOf e.1 + 2 ^ 14 + (own e % 64) <<< 16))) s
  (List.range 8).foldl (fun s b => if bitAt causes b then regCount s (dcs TUN (0x400 + 8 * b)) 1 else s) s

/-- The next count at which a hold in force may be released: h + 128 m (01 R25, 04 R125). -/
def nextSample (s : State) : Nat := s.plane.holdAt + 128 * ((s.count - s.plane.holdAt) / 128 + 1)

/-- The sample of a hold in force, taken 40 counts before the release count `x` that it decides: every core re-tests its
conditions, and the step end its own (04 R125; 05 R152). -/
def sampleHold (s : State) (x : Nat) : State :=
  let s := finishSparse { s with count := x - 40 }
  let s := (listedCores s).foldl retestCore s
  let pend := match s.plane.stepEnd with
    | some e => allEnded s e && stepDrained s
    | none => true
  let own := s.cores.foldl (fun m e => m ||| coreCauses e.2) 0
  { s with plane := { s.plane with stepOk := s.plane.stepEnd.isSome && pend, sample := some (x, own + (if pend then 0 else 2 ^ 4)) } }

/-- Whether the step end under way has found its conditions and an error: the plane then halts at this release sample, whatever else asks
for the hold (05 R152; 17 R438). -/
def stepFails (s : State) : Bool :=
  match s.plane.stepEnd with
  | some e => s.plane.stepOk && decide (e + 40 ≤ s.plane.cyc) && (failSeen (closeStreams s) || tokenStatus s != 0)
  | none => false

/-- The decision for release count `x`, with what the sample for it found, the governor's request and a pause in force (04 R125,
R126; 13 R351, R352; 17 R438). -/
def decideHold (s : State) (x found : Nat) : State :=
  let paused := s.plane.run = .paused && (match s.plane.contAt with | some c => x < c | none => true)
  let causes := found + (if governorAt s x then 2 ^ 6 else 0) + (if paused then 2 ^ 7 else 0)
  let s := recordSample (countFrame (finishSparse { s with count := x, plane := { s.plane with sample := none } }) x) causes
  if causes ≠ 0 then (if found = 0 && stepFails s then resumeCycle s s.plane.cyc else s)
  else
    let s := regSetBits s (dcs TUN 0x300) 8 8 0
    let s := { s with plane := { s.plane with held := false, run := .running, contAt := none } }
    resumeCycle s s.plane.cyc

/-- What a hold in force does next: the sample for release count `x`, or with a sample taken the decision; a hold whose sample
was missed is not released at `x` (04 R125). -/
def releaseSample (s : State) : State :=
  let x := nextSample s
  match s.plane.sample with
  | some (y, found) => if y = x then decideHold s x found else sampleHold s x
  | none => sampleHold s x

/-- The count at which a hold in force does what it does next; none when the sample for the next release count was missed. -/
def holdEvent (s : State) : Option Nat :=
  let x := nextSample s
  if s.plane.sample.any (fun y => y.1 = x) then some x else if s.count < x - 40 then some (x - 40) else none

/-- The plane goes on until a hold is in force, at most `f` cycles. -/
def advanceToHold : Nat → State → State
  | 0, s => s
  | f + 1, s => if planeRuns s then advanceToHold f (advance s) else s

/-- Goes on until the tuning count is `x` or the plane stops. -/
def advanceTo (x : Nat) : Nat → State → State
  | 0, s => s
  | f + 1, s => if planeRuns s && s.count < x then advanceTo x f (advance s) else s

-- Issue -------------------------------------------------------------------------------------------------------------

/-- A resource an instruction needs, from `lo` cycles after its issue, for `len` cycles (04 R98). -/
structure Need where
  res : Res
  lo : Nat
  len : Nat
deriving DecidableEq, Repr

/-- What an instruction is found to be at issue: illegal; the resources it needs and whether another rule of schedule
forbids it; the faults it meets if it executes; its effect if it executes, and the effect it has even when predicated
off; with the words of the core's arrays it reads, and the modulus of the residue code that checks its result, 0 for none (17 R440,
R442). -/
structure Plan where
  illegal : Bool := false
  needs : List Need := []
  clash : Bool := false
  faults : List Nat := []
  eff : State → State := id
  always : Core → Core := id
  reads : List (Nat × List Nat) := []
  checks : Nat := 0

/-- A plan with the words its instruction reads (17 R442). -/
def Plan.reading (rs : List (Nat × List Nat)) (pl : Plan) : Plan := { pl with reads := rs }

/-- The words of registers by their codes: array 2. -/
def regWords (fs : List Nat) : Nat × List Nat := (2, fs)

/-- The codes a scalar source of width `w` reads (02 R34, 05 R136). -/
def srcCodes (w : Nat) (f : BitVec 6) : List Nat := if w = 64 then [f.toNat, f.toNat + 1] else [f.toNat]

/-- The words of a range of local store: array 0. -/
def lsWords (a n : Nat) : Nat × List Nat := (0, wordsOf a n)

/-- The plans of an instruction whose result residue codes of modulus `m` check (17 R440). -/
def residue (m : Nat) (plan : State → Core → Plan) (s : State) (k : Core) : Plan := { plan s k with checks := m }

/-- An instruction that raises ILLEGAL_INSTRUCTION (05 R135 to R137). -/
def Plan.bad : Plan := { illegal := true }

/-- Whether a need meets an occupancy (04 R99). -/
def needClash (k : Core) (n : Nat) (w : Need) : Bool :=
  k.busy.any (fun b => b.res = w.res && b.lo < n + w.lo + w.len && n + w.lo < b.hi)

/-- PEN, PNEG and PRD: whether an instruction executes (05 R134). -/
def executes (k : Core) (p : Pred) : Bool := !p.pen || (pGet k p.prd.toNat != p.pneg)

/-- The codes an instruction meets: illegal and schedule faults always, the others if it executes (05 R134). -/
def planFaults (k : Core) (n : Nat) (ex : Bool) (pl : Plan) : List Nat :=
  (if pl.illegal then [0x01] else []) ++
    (if pl.clash || pl.needs.any (needClash k n) then [0x02] else []) ++
    (if ex then pl.faults else [])

/-- The core after an instruction has issued in cycle `n`: its occupancy, the next index, delay slots counted down (04
R98, R100). -/
def retire (k : Core) (n : Nat) (needs : List Need) : Core :=
  let brs := k.brs.map (fun b => (b.1 - 1, b.2))
  let pc := match brs.find? (fun b => b.1 = 0) with
    | some b => b.2
    | none => k.pc + 1
  { k with
    next := n + 1
    pc := pc
    last := k.pc
    brs := brs.filter (fun b => b.1 != 0)
    busy := k.busy ++ needs.map (fun w => ⟨w.res, n + w.lo, n + w.lo + w.len⟩) }

/-- Opens the issue cycle in which core `c` issues next: the plane goes on when the core has issued in this one already
(04 R97; DESIGN CHOICE, log 3). -/
def openIssue (s : State) (c : Nat) : State :=
  if planeRuns s && s.plane.cyc < (coreOf s c).next then advance s else s

/-- Whether core `c` issues in the present cycle: the plane runs (or meets its halt only at the end of this cycle), the
core is neither idle nor halted, and has not issued in it yet (04 R97, R131; 05 R156). -/
def canIssue (s : State) (c : Nat) : Bool :=
  let k := coreOf s c
  !s.plane.held && clocksRun s && !coreIdle s c && !k.halted && k.next ≤ s.plane.cyc &&
    (match s.plane.halted with | none => s.plane.run = .running | some h => h = s.plane.cyc)

/-- A core as the skew of cycle `n` leaves it: as it stood before it issued, with STEP_SKEW and the index of its instruction; a
lower code it met at that instruction stays (05 R152, R157). -/
def skewCore (k before : Core) (n : Nat) : Core :=
  if k.fault.issue = n && k.fault.code ≠ 0 && before.fault.code = 0 && k.fault.code < 0x15 then
    { before with next := n + 1, fault := k.fault }
  else recordFault { before with next := n + 1 } 0x15 before.pc n

/-- STEP_SKEW: STEPEND and another instruction have issued in cycle `n`. None of that cycle's instructions executes, and every core
that was active when the cycle began records the fault (05 R152). -/
def stepSkew (s : State) (n : Nat) : State :=
  let was := s.plane.issued
  let cs := (activeCores s ++ was.map (·.1)).eraseDups
  let s := { s with plane := { s.plane with mesh := s.plane.mesh.filter (fun w => w.sent ≠ n), stepEnd := none } }
  collectCoreFaults (cs.foldl (fun s c =>
    let k := coreOf s c
    let k' := skewCore k (((was.find? (fun x => x.1 = c)).map (·.2.2)).getD k) n
    haltPlane (setCore s c k') n c k'.fault.code) s)

/-- Core `c` issues in the present cycle, `isEnd` when it is STEPEND that executes: the core is kept as it stood (05 R152). -/
def noteIssue (s : State) (c : Nat) (isEnd : Bool) : State :=
  { s with plane := { s.plane with issued := s.plane.issued ++ [(c, isEnd, coreOf s c)] } }

/-- Whether an instruction, STEPEND or not, meets one of the other kind in the present cycle (05 R152). -/
def skews (s : State) (isEnd : Bool) : Bool := s.plane.issued.any (fun x => x.2.1 != isEnd)

/-- The issue cycle whose end a halt of an uncorrectable read comes at: the one before the results an effect adds could be read, or the
present one (17 R445). -/
def lostCycle (n : Nat) (k t : Core) : Nat :=
  match (t.wb.drop k.wb.length).map (·.due) with
  | [] => n
  | d :: ds => ds.foldl min d - 1

/-- Unit of a resource in an upset (17 R440). -/
def unitOf : Res → Nat
  | .siu => 0 | .viu => 1 | .fpd => 2 | .mxt => 3 | .div => 4 | .lsp => 5 | .slot => 5 | _ => 7

/-- The effect of an instruction of core `c`, at index `pc` in issue cycle `n`, whose operands pass their check codes: an upset of its
unit changes its first result, one of address formation has changed the address, and the residues are compared (17 R440, R441). -/
def runChecked (s : State) (c n pc : Nat) (pl : Plan) : State :=
  let m := (coreOf s c).wb.length
  let t := pl.eff s
  match (if pl.checks = 0 then none else (takeUpset (coreOf t c) (pl.needs.map (fun w => unitOf w.res))).2) with
  | none => t
  | some u =>
    let k := (takeUpset (coreOf t c) (pl.needs.map (fun w => unitOf w.res))).1
    let k := { k with wb := if u.unit = 5 then k.wb else k.wb.modify m (fun w => { w with val := w.val ^^^ u.flip }) }
    eccFlush (setCore t c (residueCheck k pl.checks u pc n)) c

/-- The effect of an instruction that executes: where a word it reads is uncorrectable its destination is not written, and the plane halts
(17 R444, R445). -/
def runPlan (s : State) (c n pc : Nat) (pl : Plan) : State :=
  let k := coreOf s c
  if k.ecc.marks.isEmpty && k.ecc.upsets.isEmpty then pl.eff s
  else
    let (k', bad) := eccReads k pl.reads
    let s' := setCore s c k'
    if bad then
      let h := lostCycle n k (coreOf (pl.eff s) c)
      if h ≤ n then coreFault (eccFlush s' c) c 0x30 pc n
      else eccFlush (setCore s' c (eccDue k' h pc 0x30)) c
    else runChecked (eccFlush s' c) c n pc pl

/-- The instruction of core `c` in the present cycle: checked, retired, its effect taken (05 R134, R156, R157). Of a skew and
another fault of the instruction the lower code is recorded. -/
def issueNow (s : State) (c : Nat) (p : Pred) (isEnd : Bool) (plan : State → Core → Plan) : State :=
  let k := coreOf s c
  let n := s.plane.cyc
  if 2048 ≤ k.pc then coreFault s c 0x03 2047 n
  else
    let pl := plan s k
    let ex := executes k p
    let code := lowestCode (planFaults k n ex pl)
    let skew := skews s isEnd
    let s := noteIssue s c isEnd
    if code ≠ 0 then
      let s := coreFault (modCore s c (fun k => { k with next := n + 1 })) c code k.pc n
      if skew then stepSkew s n else s
    else if skew then stepSkew s n
    else
      let s := setCore s c (pl.always (retire k n pl.needs))
      if ex then runPlan s c n k.pc pl else s

/-- An instruction row: the plane opens the issue cycle of core `c`, and the core issues if it can; one that cannot
(the plane held, halted or not running, the core idle or halted) issues nothing (04 R97, R131; DESIGN CHOICE, log 2). -/
def issue (c : Nat) (p : Pred) (plan : State → Core → Plan) (s : State) : Out :=
  if coreCount ≤ c then .refused (.noSuchUnit "core")
  else
    let s := openIssue s c
    .next (if canIssue s c then issueNow s c p false plan else s)

/-- A plan that changes only the issuing core, in the cycle at hand. -/
def onCore (c : Nat) (needs : List Need) (f : Nat → Core → Core) (faults : List Nat := []) : Plan :=
  { needs := needs, faults := faults, eff := fun s => modCore s c (f s.plane.cyc) }

def nSIU : List Need := [⟨.siu, 0, 1⟩]
def nLSP : List Need := [⟨.lsp, 0, 1⟩]
def nVIU (o : Nat) : List Need := [⟨.viu, 0, o⟩]
def nFPD (o : Nat) : List Need := [⟨.fpd, 0, o⟩]
def nDIV (o : Nat) : List Need := [⟨.div, 0, o⟩]

end Sys2Proof.Machine
end

