-- ==== Sys2Proof/Machine/Landing.lean ====
section
/-! DEFINITION. Landing buffers as the tile agent writes them, and streams (04 R120; 07 R203, R204; 08 R219). -/
namespace Sys2Proof.Machine

/-- Whether a landing write of `n` bytes at local-store address `a` is refused (04 R120). A frame with no bytes writes
nothing, so nothing of it can be refused (DEDUCED, log 31). -/
def landRefused (b : LandBuf) (a n : Nat) : Bool :=
  n ≠ 0 && (b.gated || decide (a < b.base ∨ b.base + b.len < a + n ∨ b.len < b.count + n))

/-- Marks a refused landing (04 R120). -/
def overfill (s : State) (c b : Nat) : State :=
  let s := modCore s c (fun k => lbSet k b { lbGet k b with overfill := true })
  recordTile s (tileOf c) 0x17

/-- A landing write: bytes at an address of buffer `b` of core `c`, counted; or refused whole (04 R120). -/
def landAt (s : State) (c b a : Nat) (bs : List Byte) : State :=
  let k := coreOf s c
  let lb := lbGet k b
  if landRefused lb a bs.length then overfill s c b
  else setCore s c (lbSet { k with ls := memWrite k.ls a bs } b { lb with count := lb.count + bs.length })

/-- COUNT advances with no byte written (12 R321). -/
def landCount (s : State) (c b n : Nat) : State :=
  let k := coreOf s c
  let lb := lbGet k b
  if n ≠ 0 ∧ (lb.gated = true ∨ lb.len < lb.count + n) then overfill s c b
  else setCore s c (lbSet k b { lb with count := lb.count + n })

/-- Changes the completion rule of a buffer (05 R155, 06 R180). -/
def setRule (s : State) (c b : Nat) (r : LandRule) : State :=
  modCore s c (fun k => lbSet k b { lbGet k b with rule := r })

/-- Whether a buffer is armed in this step. -/
def armed (s : State) (c b : Nat) : Bool := (lbGet (coreOf s c) b).armed

/-- The core a frame to a tile names: DEST for frames to cores. -/
def destCore (f : Frame) : Nat := epDie (fDest f) * 16384 + epLc (fDest f)

/-- The core of this module a source EPID names, where it is a core. -/
def coreEpid (s : State) (c : Nat) : BitVec 32 :=
  let a := selfAt s (tileOf c)
  epid a.1 a.2 (tileOf c) 0 (lcOf c)

/-- The EPID of a tile agent of this module, which sends its cores' collective frames (07 R183; 11 R291, R292; DEDUCED,
log 40). -/
def tileEpid (s : State) (t : Nat) : BitVec 32 := let a := selfAt s t; epid a.1 a.2 t 1 0

-- Streams -----------------------------------------------------------------------------------------------------------

/-- What names a frame's stream; for collective frames POS and CT belong to it (07 R203, 11 R287). -/
def streamArg (f : Frame) : Nat := if fCls f = 2 then fArg f % 2 ^ 26 else 0

/-- Whether a row is a frame's stream. -/
def isRow (f : Frame) (r : StreamRow) : Bool :=
  r.src = fSrc f && r.dest = fDest f && r.cls = fCls f && r.id = fStream f && r.arg = streamArg f

/-- Whether a frame may enter a stream table of `cap` entries: its stream is open, or an entry is free (07 R204). -/
def rowRoom (cap : Nat) (rows : List StreamRow) (f : Frame) : Bool := rows.any (isRow f) || decide (rows.length < cap)

/-- The number a new entry of a stream table takes: the lowest that is free (DESIGN CHOICE, log 75). -/
def freeSlot (rows : List StreamRow) : Nat :=
  ((List.range (rows.length + 1)).find? (fun n => !rows.any (fun r => r.slot = n))).getD 0

def streamRoom (t : Tile) (f : Frame) : Bool := rowRoom 8192 t.streams f

/-- Counts an arriving frame: the table after it, the frames whose delivery it allows, in order, and whether STREAM_COUNT is
recorded (07 R203, R204). The entry closes when a LAST frame is delivered and no other is held back (DEDUCED, log 75). -/
def streamStep (rows : List StreamRow) (f : Frame) : List StreamRow × List Frame × Bool :=
  let old := rows.find? (isRow f)
  let n := (match old with | some r => r.count | none => 0) + 1
  let slot := match old with | some r => r.slot | none => freeSlot rows
  let kept := match old with | some r => r.held | none => []
  let early := fLast f && decide (n < fScount f)
  let held := kept ++ (if early then [f] else [])
  let due := held.filter (fun h => fScount h ≤ n)
  let wait := held.filter (fun h => n < fScount h)
  let now := (if early then [] else [f]) ++ due
  let rest := rows.filter (fun r => !isRow f r)
  (if now.any fLast && wait.isEmpty then rest
   else rest ++ [⟨slot, fSrc f, fDest f, fCls f, fStream f, streamArg f, n, wait⟩], now, fLast f && decide (fScount f < n))

-- FRM-IN ------------------------------------------------------------------------------------------------------------

/-- Whether a frame is a memory-fabric answer, which never waits at FRM-IN (12 R321). -/
def isAnswer (f : Frame) : Bool := 5 ≤ fType f && fType f ≤ 7

/-- The frame of a type that FRM-IN gives next: answers pass waiting frames, other frames keep their order (04 R120, 12
R321). -/
def frmHead (t : Tile) (ty : Nat) : Option Frame :=
  match t.frmIn.find? (fun f => if 5 ≤ ty ∧ ty ≤ 7 then isAnswer f else !isAnswer f) with
  | some f => if fType f = ty then some f else none
  | none => none

/-- Takes the first copy of a frame off FRM-IN. -/
def popFrm (s : State) (t : Nat) (f : Frame) : State := modTile s t (fun x => { x with frmIn := x.frmIn.erase f })

/-- A command of a tile; one whose agent does not work changes nothing (log 2). -/
def tileCmd (t : Nat) (s : State) (f : State → State) : Out :=
  if 64 ≤ t then .refused (.noSuchUnit "tile") else .next (if clocksRun s then f s else s)

/-- A command of a core's tile agent or sliver port. -/
def coreCmd (c : Nat) (s : State) (f : State → State) : Out :=
  if coreCount ≤ c then .refused (.noSuchUnit "core") else .next (if clocksRun s then f s else s)

/-- The bytes of a SEND frame land (04 R117, R120; 08 R219). -/
def landSend (s : State) (f : Frame) : State :=
  let c := destCore f
  let b := fArg f % 16
  landAt s c b ((lbGet (coreOf s c) b).base + bitsOf (fArg f) 19 4) f.payload

/-- FRAME_LAND: the SEND frame at FRM-IN lands, or waits for its buffer or a stream entry (04 R120, 07 R204). -/
def execFrameLand (t : Nat) (s : State) : Out :=
  tileCmd t s (fun s =>
    match frmHead (tile s t) 1 with
    | none => s
    | some f =>
      if !armed s (destCore f) (fArg f % 16) || !streamRoom (tile s t) f then s
      else
        let (rows, now, bad) := streamStep (tile s t).streams f
        let s := modTile (popFrm s t f) t (fun x => { x with streams := rows })
        let s := if bad then recordTile s t 0x25 else s
        now.foldl landSend s)

end Sys2Proof.Machine
end

