-- ==== Sys2Proof/Machine/Coll.lean ====
section
/-! DEFINITION. Collective frames and their paths: how values and bytes are cut into frames, the legs of upward and downward
streams, and where a source hands its frames to a Bridge (07 R200, R201; 10 R258, R260; 11 R286 to R293, R299, R300). -/
namespace Sys2Proof.Machine

-- Elements ----------------------------------------------------------------------------------------------------------

/-- Bytes of one element of a wire type (10 R258); a wire type no instruction allows counts 4. -/
def wireSize (wire : Nat) : Nat :=
  match tyOfCode wire with
  | some .fp64 => 8 | some .fp16 => 2 | some .bf16 => 2 | _ => 4

/-- Element codes of a byte string. -/
def elemsOf (sz n : Nat) (bs : List Byte) : List Nat := (List.range n).map (fun i => fieldLE bs (sz * i) sz)

/-- The identity of an operator in a wire type (10 R260). -/
def identityOf (rop wire : Nat) : Nat :=
  match tyOfCode wire with
  | some .int32 =>
    match rop with | 1 => 0x7FFFFFFF | 2 => 0x80000000 | 3 => 1 | 4 => 0xFFFFFFFF | _ => 0
  | some t =>
    match fpOfTy t with
    | some f =>
      match rop with
      | 1 => infCode f
      | 2 => signBit f true + infCode f
      | 3 => f.bias * 2 ^ f.mw
      | _ => 0
    | none => 0
  | none => 0

-- Cutting into frames -----------------------------------------------------------------------------------------------

/-- Element lists of the frames of a partial or result: `e` elements each, one frame for none (10 R258, 11 R298). -/
def cutElems {α : Type} (e : Nat) (xs : List α) : List (List α) := if xs.isEmpty then [[]] else chunks (max 1 e) xs

/-- The frames of elements of `sz` bytes whose first has index `off`: subheaders with their data (10 R254, R258). -/
def elemItems (u : Sub) (sz off : Nat) (xs : List Nat) : List (Sub × List Byte) :=
  let e := 4064 / sz
  (cutElems e xs).mapIdx (fun k ys =>
    ({ u with elems := ys.length, eoff := off + k * e }, pad8 (ys.flatMap (bytesLE sz))))

/-- The frames of a piece: 4,064 bytes each, with the chunk's check (11 R292, R300). -/
def pieceItems (u : Sub) (bs : List Byte) : List (Sub × List Byte) :=
  (cutElems 4064 bs).mapIdx (fun k ys =>
    ({ u with elems := ys.length, eoff := k * 4064, ccrc := (crc32c bs).toNat, cbytes := bs.length }, pad8 ys))

/-- Fields every frame of a collective stream shares (11 R287). -/
structure CollSpec where
  src : BitVec 32
  type : Nat
  arg : Nat
  stream : Nat
  epoch : Nat

/-- One leg of a path: destination, hop lane, multicast dimension and mask, and for a frame to one receiver beyond a corner the
receiver's rank plus one (07 R200, R201; the rank stands in the reserved KEY, DESIGN CHOICE, log 36). -/
structure Leg where
  dest : BitVec 32
  hop : Nat
  mc : Option (Nat × Nat)
  one : Nat
deriving DecidableEq, Repr

/-- The frames of a stream on one leg; the last carries LAST and SCOUNT (07 R203, 08 R212). -/
def legFrames (c : CollSpec) (items : List (Sub × List Byte)) (l : Leg) : List Frame :=
  items.mapIdx (fun k it =>
    let last := k + 1 = items.length
    let f := mkFrame { dest := l.dest, src := c.src, cls := 2, hop := l.hop, type := c.type, last := last
                       seq := c.stream + (if last then items.length <<< 16 else 0), arg := c.arg
                       key := (match l.mc with | some (_, m) => m | none => l.one), epoch := c.epoch
                       payload := subBytes it.1 ++ it.2 }
    match l.mc with
    | some (dim, _) => sealFrame (fSet (fSet f 69 69 1) 70 70 dim)
    | none => f)

/-- The frames of a stream on several legs. -/
def pathFrames (c : CollSpec) (items : List (Sub × List Byte)) (ls : List Leg) : List Frame :=
  ls.flatMap (legFrames c items)

-- Paths -------------------------------------------------------------------------------------------------------------

/-- The partner core at a module. -/
def partnerAt (pos : Nat) (yx : Nat × Nat) : BitVec 32 := epid yx.1 yx.2 (pos / 16384) 0 (pos % 16384)
/-- The engine of a field at a module. -/
def engineAt (die : Nat) (yx : Nat × Nat) : BitVec 32 := epid yx.1 yx.2 die 2 0

/-- The leg from a member at `a` to the first stage of an upward stream whose end is `final` at `root` (11 R290). -/
def upLeg (c : Course) (pos : Nat) (a root : Nat × Nat) (final : BitVec 32) : Leg :=
  if a.1 = root.1 then ⟨final, 0, none, 0⟩ else ⟨engineAt (engOf c c.cornEng pos) (a.1, root.2), 0, none, 0⟩

/-- The peer mask of coordinates other than one's own. -/
def peerMask (own : Nat) (xs : List Nat) : Nat :=
  (List.range 9).foldl (fun m i => if xs.contains (peerCoord own i) then m + 2 ^ i else m) 0

/-- One column multicast, and local delivery (11 R291). -/
def columnLegs (a : Nat × Nat) (recv : List (Nat × Nat)) (final : Nat × Nat → BitVec 32) : List Leg :=
  let col := recv.filter (fun m => m.2 = a.2 && m.1 != a.1)
  (match col with
   | [] => []
   | m :: _ => [⟨final m, 2, some (1, peerMask a.1 (col.map (·.1))), 0⟩]) ++
    (if recv.contains a then [⟨final a, 2, none, 0⟩] else [])

/-- The legs of a downward stream from `a` to its receivers (11 R291). -/
def downLegs (c : Course) (pos : Nat) (a : Nat × Nat) (recv : List (Nat × Nat)) (final : Nat × Nat → BitVec 32) : List Leg :=
  let xs := (recv.map (·.2)).filter (fun x => x != a.2)
  (match xs with
   | [] => []
   | x :: _ => [⟨engineAt (engOf c c.cornEng pos) (a.1, x), 2, some (0, peerMask a.2 xs), 0⟩]) ++ columnLegs a recv final

/-- The leg of a frame sent to one receiver only, along the same path (11 R291). -/
def downLeg (c : Course) (pos : Nat) (a to_ : Nat × Nat) (final : BitVec 32) : Leg :=
  if to_.2 = a.2 then ⟨final, 2, none, 0⟩
  else ⟨engineAt (engOf c c.cornEng pos) (a.1, to_.2), 2, none, (rankOf c to_).getD 0 + 1⟩

/-- The step a module's collective frames carry (11 R286). -/
def stepLow (s : State) (t : Nat) : Nat := (tileReg s t 0x80C).toNat % 2 ^ 16

-- Hand-over to a Bridge ---------------------------------------------------------------------------------------------


/-- The LOCAL port at which a tile agent's frame enters, with the link chosen for a REQ, RSP or MGT frame (07 R185, R197; 01
R20). A multicast enters at the Bridge of its first copy's link (DESIGN CHOICE, log 33). -/
def tileExit (f : Frame) : List Copy → Nat × Option Nat
  | [] => (64, none)
  | k :: _ => if k.out < 36 then (64 + k.out, if fCls f = 2 || fMcast f then none else some k.out) else (64, none)

/-- A frame leaves a Saddle engine: it enters the LOCAL port of the engine's Bridge (08 R220). -/
def engineSends (s : State) (d : Nat) (fs : List Frame) : State := fs.foldl (fun s f => inject s d f) s

end Sys2Proof.Machine
end

