-- ==== Sys2Proof/Machine/Queues.lean ====
section
/-! DEFINITION. The queues as the schedulers see them: tags, forwardable heads, and queues that empty other than by a selection
(09 R236, R237, R239, R242). -/
namespace Sys2Proof.Machine

/-- The Bridges the state lists. -/
def listedBridges (s : State) : List Nat := s.bridges.map (·.1)

/-- Tag `a` is before tag `b` (09 R239). -/
def tagBefore (a b : BitVec 48) : Bool := (a - b).toNat ≥ 2 ^ 47
/-- The later of two tags. -/
def tagLater (a b : BitVec 48) : BitVec 48 := if tagBefore a b then b else a
/-- The increment of a frame of `n` flits under weight `w` (09 R239). -/
def tagIncr (n w : Nat) : BitVec 48 := BitVec.ofNat 48 (ceilDiv (n * 65536) w)

/-- A VOQ with a forwardable head (09 R237): where it is, its lane, its receive-space entry if the head is still there, the
head frame, what was noted of it, the VOQ's start tag. -/
structure Cand where
  die : Nat
  q : Nat
  vl : Nat
  rx : Option Nat
  frame : Frame
  stall : Bool
  red : Bool
  tag : BitVec 48

/-- The receive-space entry that may be forwarded directly for a VOQ (08 R222). -/
def rxHead (s : State) (d : Nat) (p : Port) (o vl : Nat) : Option RxEntry :=
  (bridge s d).recv.find? (fun e =>
    decide (e.port = p) && e.checked && !e.mcast && !e.sel && e.spilling = 0 && isLaneHead s d e &&
      (match e.copies with | [c] => c.out = o && c.vl = vl | _ => false))

/-- The forwardable head of a VOQ, if it has one (09 R237). -/
def voqHead (s : State) (d : Nat) (p : Port) (o vl : Nat) : Option Cand :=
  let q := voqNo p o vl
  let v := voq s d q
  match v.sram.find? (fun h => !h.sel) with
  | some h => some ⟨d, q, vl, none, h.frame, h.stall, h.red, v.tagS⟩
  | none =>
    if v.sram.isEmpty && v.spill.isEmpty && !(bridge s d).spilling.any (fun x => x.q = q) then
      (rxHead s d p o vl).bind (fun e => (e.copies.head?).map (fun c =>
        ⟨d, q, vl, some e.num, c.frame, e.stall, e.red, v.tagS⟩))
    else none

/-- The Bridges whose VOQs a scheduler serves (09 R236). -/
def servedBy (s : State) (d o : Nat) : List Nat := if o < 36 then listedBridges s else [d]

/-- The VOQs of class `c` with a forwardable head, in the order of input port index and lane (09 R241). -/
def cands (s : State) (d o c : Nat) : List Cand :=
  (servedBy s d o).flatMap (fun e => [Port.link, .localPort].flatMap (fun p =>
    (List.range 3).filterMap (fun h => voqHead s e p o (3 * c + h))))

def sched (s : State) (d o : Nat) : Sched := smGet Sched.reset (bridge s d).scheds o
def setSched (s : State) (d o : Nat) (x : Sched) : State :=
  modBridge s d (fun b => { b with scheds := smSet Sched.reset b.scheds o x })

def tagAt (ts : List (BitVec 48)) (c : Nat) : BitVec 48 := (ts[c]?).getD 0

/-- Whether VOQ `q` of Bridge `d` still holds a frame that is not selected. -/
def voqHolds (s : State) (d q : Nat) : Bool :=
  let v := voq s d q
  v.sram.any (fun h => !h.sel) || !v.spill.isEmpty || (bridge s d).spilling.any (fun x => x.q = q) ||
    (rxHead s d (if q < 900 then .link else .localPort) (q % 900 / 12) (q % 12)).isSome

/-- The latest inner finish tag of a class's VOQs (09 R242). -/
def latestInner (s : State) (d o c : Nat) : BitVec 48 :=
  let ts := (servedBy s d o).flatMap (fun e => [Port.link, .localPort].flatMap (fun p =>
    (List.range 3).map (fun h => (voq s e (voqNo p o (3 * c + h))).tagF)))
  ts.tail.foldl tagLater (tagAt ts 0)

-- Queues that empty -------------------------------------------------------------------------------------------------

/-- The VOQs of Bridge `d` that hold nothing any more are no longer awake (09 R242). -/
def restVoqs (s : State) (d : Nat) : State :=
  (bridge s d).voqs.foldl (fun s x =>
    if x.2.awake && !voqHolds s d x.1 then setVoq s d x.1 { voq s d x.1 with awake := false } else s) s

/-- Whether no class of output `o` is backlogged (09 R237, R242). -/
def outputIdle (s : State) (d o : Nat) : Bool := (List.range 4).all (fun c => (cands s d o c).isEmpty)

/-- The scheduler of output `o` at Bridge `d` when classes lose their last frame without a selection: their inner virtual times
become the latest finish tags, and so does v when no class is backlogged (09 R242). -/
def restSched (s : State) (d o : Nat) : State :=
  let x := sched s d o
  let gone := (List.range 4).filter (fun c => (x.awake[c]?).getD false && (cands s d o c).isEmpty)
  if gone.isEmpty then s
  else
    let x := gone.foldl (fun x c => { x with awake := x.awake.set c false, u := x.u.set c (latestInner s d o c) }) x
    let x := if !outputIdle s d o then x else { x with v := x.tagF.foldl tagLater (tagAt x.tagF 0) }
    let s := setSched s d o x
    if o < 36 then regPutNat s (dcs d 0x308) x.v.toNat 2 else s

/-- Frames in flight lose their buffers: they are no longer in flight, their credits come back, and the buffers reserved for their
answers are free (07 R192; 08 R234). -/
def dropFlight (s : State) (d o : Nat) (gone : InFlight → Bool) : State :=
  let x := sched s d o
  (x.flight.filter gone).foldl (fun s i =>
    let s := if o < 36 then modLink s d (fun l => { l with credits := l.credits.modify (i.q % 12) (· + i.flits) }) else s
    match i.rsv with
    | some p => poolAdd s i.die p 1
    | none => s) (setSched s d o { x with flight := x.flight.filter (fun i => !gone i) })

/-- The same at every scheduler. -/
def dropFlights (s : State) (gone : InFlight → Bool) : State :=
  s.bridges.foldl (fun s b => b.2.scheds.foldl (fun s x => dropFlight s b.1 x.1 gone) s) s

/-- Frames left queues by other ways than a selection: what emptied is at rest (09 R242). -/
def restQueues (s : State) : State :=
  let s := (listedBridges s).foldl restVoqs s
  s.bridges.foldl (fun s b => b.2.scheds.foldl (fun s x => restSched s b.1 x.1) s) s

end Sys2Proof.Machine
end

