-- ==== Sys2Proof/Machine/LinkLayer.lean ====
section
/-! DEFINITION. The link layer: training, the exchange of identities and credits, groups with their retry, and what a link
that leaves UP does to its frames (07 R188 to R192, R209, R480; 08 R217; 16 R425; 17 R446, R450; 18 R469 to R472). -/
namespace Sys2Proof.Machine

/-- A command of Bridge `d`, which does nothing while the Bridge has no clock (log 2). -/
def bridgeCmd (d : Nat) (s : State) (f : State → State) : Out :=
  if isBridge d then .next (if bridgesOn s then f s else s) else .refused (.noSuchUnit "Bridge")

-- Configuration -----------------------------------------------------------------------------------------------------

/-- CRED of BRG_VLCREDv as it acts (07). -/
def vlCred (s : State) (d v : Nat) : Nat := max 65 (regBits s (dcs d (0x40 + 4 * v)) 11 0)

/-- Whether a link may train: ENABLE, BRG_SELF.VALID and BRG_PEER.VALID (07 R480). -/
def mayTrain (s : State) (d : Nat) : Bool :=
  regBits s (dcs d 0x34) 0 0 = 1 && regBits s (dcs d 0x0) 8 8 = 1 && regBits s (dcs d 0x10) 16 16 = 1

/-- Whether the expected peer is a position of the grid that keeps R188, and the credits keep their limit (07 R182). -/
def configOk (s : State) (d : Nat) : Bool :=
  let a := selfAt s d
  let p := (regBits s (dcs d 0x10) 3 0, regBits s (dcs d 0x10) 7 4)
  decide (p.1 ≤ 9 ∧ p.2 ≤ 9) &&
    (if isRowLink (d - 64) then decide (p.1 = a.1 ∧ p.2 ≠ a.2) else decide (p.2 = a.2 ∧ p.1 ≠ a.1)) &&
    decide ((List.range 12).foldl (fun n v => n + vlCred s d v) 0 ≤ 2048)

/-- The state a link takes when training starts or its conditions change (07 R480). -/
def trainState (s : State) (d : Nat) : Nat :=
  if !mayTrain s d then lsDISABLED else if !configOk s d then lsCONFIG else lsTRAINING

-- Leaving UP --------------------------------------------------------------------------------------------------------

/-- Another link for a frame whose link is gone, on the same hop lane (07 R209); none for unreachable. -/
def rechoose (s : State) (d : Nat) (f : Frame) : Option Nat :=
  let a := selfAt s d
  let e := fDest f
  let goal := (epY e, epX e)
  let h := fHop f
  if fCls f = 3 then mgtHop s d a goal
  else reqHop s d (3 * fCls f + h) h a goal (epY (fSrc f), epX (fSrc f))

/-- A frame handed to the lost link stands again at the head of the VOQ it came from, in no buffer of the switch (07 R202, R209;
DESIGN CHOICE, log 76). -/
def putBack (s : State) (x : Sent) : State :=
  let v := voq s x.die x.q
  setVoq s x.die x.q { v with sram := ⟨x.frame, 5, false, false, false⟩ :: v.sram }

/-- Whether a frame of the retry buffer is sent again: memory-fabric and MGT frames are (07 R209, 08 R233). -/
def resent (f : Frame) : Bool := isMf (fType f) || fCls f = 3

/-- What becomes of the frames handed to the lost link of Bridge `d`, of whose flits `n` are in the retry buffer: those to be sent
again or not yet sent go back to their VOQs in order, the others are recorded as lost; those that a step abort discarded are
gone (07 R209; 08 R233, R234). -/
def sentFrames (s : State) (d : Nat) : Nat → List Sent → State
  | _, [] => s
  | n, x :: xs =>
    let s := sentFrames s d (n - x.left) xs
    if x.dead then s
    else if n = 0 || resent x.frame then putBack s x
    else recordBrg s d 0x24

/-- One frame of SRAM of a VOQ chosen again: it keeps its buffer in its new VOQ (07 R209, 08 R221). -/
def moveHeld (s : State) (d : Nat) (p : Port) (h : Held) : State :=
  match rechoose s d h.frame with
  | some l => joinVoq s d (voqNo p l (3 * fCls h.frame + fHop h.frame)) { h with sel := false, stall := false, red := false }
  | none => unreachableAt (poolAdd s d h.pool 1) d h.frame

/-- One frame of a tail part chosen again: it keeps its lines or its buffer. -/
def moveSpilled (s : State) (d : Nat) (p : Port) (x : Spilled) : State :=
  let f := tailFrame s d x
  match x.held, rechoose s d f with
  | some h, _ => moveHeld s d p h
  | none, some l =>
    let q := voqNo p l (3 * fCls f + fHop f)
    let v := voq s d q
    setVoq s d q { v with spill := v.spill ++ [{ x with stall := false, red := false }] }
  | none, none => unreachableAt (freeTail s d x) d f

/-- The VOQs of one Bridge and port for link `o`: REQ, RSP and MGT frames are chosen again, COL frames wait (07 R209). -/
def moveVoqs (s : State) (d o : Nat) (p : Port) : State :=
  (List.range 12).foldl (fun s vl =>
    let q := voqNo p o vl
    let v := voq s d q
    if vl / 3 = 2 then setVoq s d q { v with sram := v.sram.map (fun h => { h with sel := false }) }
    else
      let s := setVoq s d q { v with sram := [], spill := [], refills := false, reading := none }
      let s := match v.reading with | some k => poolAdd s d k 1 | none => s
      let s := v.sram.foldl (fun s h => moveHeld s d p h) s
      v.spill.foldl (fun s x => moveSpilled s d p x) s) s

/-- Frames waiting in receive space for link `o` are chosen again; a selected one is no longer (07 R209). -/
def moveWaiting (s : State) (d o : Nat) : State :=
  (bridge s d).recv.foldl (fun s e =>
    if e.copies.any (fun c => c.out = o) then
      let fix := fun (c : Copy) => if c.out = o ∧ fCls c.frame ≠ 2 then
        (match rechoose s d c.frame with | some l => some { c with out := l } | none => none) else some c
      let gone := e.copies.filter (fun c => (fix c).isNone)
      let e' := { e with copies := e.copies.filterMap fix, sel := false, stall := false, red := false }
      let s := if e'.copies.isEmpty ∧ e.spilling = 0 then dropRx s d e else putRx s d e'
      gone.foldl (fun s c => unreachableAt s d c.frame) s
    else s) s

/-- A copy on its way to spill for link `o` is chosen again too, or is unreachable: it then gives its lines back, and its
receive-space entry goes on without it (07 R209). -/
def moveSpilling1 (s : State) (d o : Nat) (x : Spilling) : State :=
  let keep := fun (s : State) (x : Spilling) => modBridge s d (fun b => { b with spilling := b.spilling ++ [x] })
  if x.q % 900 / 12 = o ∧ fCls x.frame ≠ 2 then
    match rechoose s d x.frame with
    | some l => keep s { x with q := (x.q / 900) * 900 + 12 * l + x.q % 12, stall := false, red := false }
    | none =>
      let s := spillLeaves (setLines s d ((bridge s d).lines.filter (fun k => !x.lines.contains k))) d x
      unreachableAt s d x.frame
  else keep s x

/-- The copies on their way to spill, in order (07 R209). -/
def moveSpilling (s : State) (d o : Nat) : State :=
  let xs := (bridge s d).spilling
  xs.foldl (fun s x => moveSpilling1 s d o x) (modBridge s d (fun b => { b with spilling := [] }))

/-- The frames of a link that leaves UP (07 R209). -/
def loseFrames (s : State) (d : Nat) : State :=
  let o := d - 64
  let l := (bridge s d).link
  let s := modLink s d (fun x => { x with sent := [], inBuf := 0, cursor := 0 })
  let s := modBridge s d (fun b =>
    let sc := { smGet Sched.reset b.scheds o with flight := [] }
    { b with scheds := smSet Sched.reset b.scheds o sc })
  let s := sentFrames s d l.inBuf l.sent
  (listedBridges s).foldl (fun s e =>
    moveSpilling (moveWaiting (moveVoqs (moveVoqs s e o .link) e o .localPort) e o) e o) s

/-- The receive space of a link is discarded at its link reset, with what of it is on its way to spill or in flight (08 R233). -/
def dropLinkRx (s : State) (d : Nat) : State :=
  let nums := ((bridge s d).recv.filter (fun e => e.port = .link)).map (·.num)
  let s := dropFlights s (fun i => i.die = d && i.rx.any (fun n => nums.contains n))
  let lost := (bridge s d).spilling.filter (fun x => nums.contains x.rx)
  let s := if lost.isEmpty then s
    else setLines s d ((bridge s d).lines.filter (fun k => !(lost.flatMap (·.lines)).contains k))
  modBridge s d (fun b => { b with
    recv := b.recv.filter (fun e => e.port ≠ .link), spilling := b.spilling.filter (fun x => !nums.contains x.rx) })

/-- A link as its training starts: it takes the credits it will advertise (07 R192). -/
def freshLink (s : State) (d : Nat) : Link := { Link.reset with adv := (List.range 12).map (vlCred s d) }

/-- A link that starts a phase of its training over. -/
def againLink (l : Link) : Link := { Link.reset with adv := l.adv }

/-- Class L of one link clears; a departure keeps LOST and DOWNCNT (16 R425). -/
def clearL (s : State) (d : Nat) (keep : Bool) : State :=
  let w := regWord s (dcs d 0x30)
  let s := clearRegs s (fun x => x = d) (fun q => q = .l)
  if keep then regPut s (dcs d 0x30) (regWord s (dcs d 0x30) ||| (w &&& 0xFFFF0200)) else s

/-- A departure from UP: frames by R209, LOST, DOWNCNT, the link reset it causes, interrupt 23 (07 R480, 14 R374, 16
R425); `next` is the state the link takes. -/
def departUp (s : State) (d : Nat) (next : State → Nat → Nat) : State :=
  let a := dcs d 0x30
  let n := regBits s a 31 16
  let s := regSetBits (regSetBits s a 9 9 1) a 31 16 (min 0xFFFF (n + 1))
  let s := loseFrames (setLinkState s d lsDISABLED) d
  let s := modLink (dropLinkRx s d) d (fun _ => freshLink s d)
  let s := restQueues (clearL s d true)
  raiseIrq (setLinkState s d (next s d)) 23

/-- After a departure nothing else restarts: training only under AUTORETRAIN (07 R480). -/
def autoState (s : State) (d : Nat) : Nat := if regBits s (dcs d 0x34) 1 1 = 1 then trainState s d else lsDISABLED

/-- Training starts, or starts again from its first phase; from UP the link departs first (07 R480). -/
def restartTraining (s : State) (d : Nat) : State :=
  if linkState s d = lsUP then departUp s d trainState
  else setLinkState (modLink s d (fun _ => freshLink s d)) d (trainState s d)

/-- A link reset that the link's own departure does not cause (16 R425). -/
def linkReset (s : State) (d : Nat) : State :=
  let s := if linkState s d = lsUP then departUp s d (fun _ _ => lsDISABLED) else s
  let s := restQueues (modLink (dropLinkRx s d) d (fun _ => freshLink s d))
  let s := clearL s d false
  setLinkState s d (trainState s d)

/-- ENABLE = 0 takes the link to DISABLED, from UP at a frame boundary (07 R480). -/
def disableLink (s : State) (d : Nat) : State := departUp s d (fun _ _ => lsDISABLED)

-- Sending groups ----------------------------------------------------------------------------------------------------

/-- The flits handed to a link that are not yet acknowledged, in order. -/
def unackedFlits (l : Link) : List (BitVec 512) :=
  l.sent.flatMap (fun x => let n := flitsOf x.frame; (List.range x.left).map (fun i => flitAt x.frame (n - x.left + i)))

/-- The slots of a group with their idle ones, as LCRC takes them: 160 slots, then bits [287:0] of the control word (18
R470). -/
def groupCrc (ctl : Nat) (slots : List (BitVec 512)) : BitVec 32 :=
  crc32c (slots.flatMap vecBytes ++ List.replicate (64 * (160 - slots.length)) 0 ++ bytesLE 36 (ctl % 2 ^ 288))

/-- CRED of an UP group: credits returned, up to 255 a lane (18 R470). -/
def credField (ret : List Nat) : Nat := packNat 8 (ret.map (fun n => min 255 n))

/-- The exchange word of KIND `k` (18 R472). -/
def exchangeWord (s : State) (d k : Nat) : Nat :=
  let l := (bridge s d).link
  match k with
  | 1 =>
    let a := selfAt s d
    1 + a.1 <<< 2 + a.2 <<< 6 + d <<< 10 + (regNat s (dcs SP 0x8) 2) <<< 17
  | _ =>
    let ready := l.verdict = 1 && l.seen1 && l.seen2 && l.seen3
    k + l.verdict <<< 2 + (if ready then 16 else 0) +
      (packNat 12 ((l.adv.drop (6 * (k - 2))).take 6)) <<< 6

/-- Makes a group from the low 288 bits of its control word. -/
def mkGroup (ctl : Nat) (slots : List (BitVec 512)) : Group :=
  ⟨0, 0, BitVec.ofNat 320 (ctl + (groupCrc ctl slots).toNat <<< 288), slots⟩

/-- Whether no frame is partly sent on a link. -/
def atBoundary (l : Link) : Bool :=
  (l.sent.foldl (fun (a : Nat × Bool) x => (a.1 + x.left, a.2 || a.1 + x.left = l.inBuf)) (0, l.inBuf = 0)).2

/-- The link enters MISMATCH; the end that found it sets PEER_MISMATCH and records it (07 R190). -/
def mismatch (s : State) (d : Nat) : State :=
  let own := (bridge s d).link.verdict = 2
  let s := setLinkState s d lsMISMATCH
  if own then raiseIrq (recordBrg (regSetBits s (dcs d 0x30) 8 8 1) d 0x26) 23 else s

/-- Sends a group (18 R469 to R472): numbered flits from the cursor while the retry buffer holds fewer than 4,096, credits
and ACK in UP; the exchange words in rotation in EXCHANGE, where the end that found a mismatch enters MISMATCH with the first
word that carries its verdict (07 R189); nothing in the other states. -/
def sendGroup (s : State) (d : Nat) : State :=
  let l := (bridge s d).link
  if linkState s d = lsUP then
    let fl := (unackedFlits l).drop l.cursor
    let fresh := min (fl.length - (l.inBuf - l.cursor)) (4096 - l.inBuf)
    let slots := fl.take (min 160 ((l.inBuf - l.cursor) + fresh))
    let ctl := (l.seqBase + BitVec.ofNat 16 l.cursor).toNat + l.expect.toNat <<< 16 + (l.rnum % 16) <<< 32 +
      slots.length <<< 36 + (credField l.ret) <<< 44 + 1 <<< 140
    let c := l.cursor + slots.length
    let s := modLink s d (fun l => { l with
      cursor := c, inBuf := max l.inBuf c, ret := l.ret.map (fun n => n - min 255 n) })
    let s := emit s (.linkGroup d (mkGroup ctl slots))
    let l := (bridge s d).link
    if l.downAsked && atBoundary l then disableLink s d else s
  else if linkState s d = lsEXCHANGE then
    let ctl := l.expect.toNat <<< 16 + (l.rnum % 16) <<< 32 + (exchangeWord s d l.kind) <<< 44
    let s := emit (modLink s d (fun l => { l with kind := l.kind % 3 + 1 })) (.linkGroup d (mkGroup ctl []))
    if l.verdict = 2 && l.kind ≠ 1 then mismatch s d else s
  else s

-- Receiving groups --------------------------------------------------------------------------------------------------

def lcount (s : State) (d n k : Nat) : State := regCount s (dcs d (0x4400 + 8 * n)) k

/-- A flit accepted in order: the frame it completes is in receive space (08 R217, R218). -/
def takeFlit (s : State) (d : Nat) (w : BitVec 512) : State :=
  let asm := (bridge s d).link.asm ++ [w]
  let n := ceilDiv (36 + lenOfFlit ((asm[0]?).getD 0)) 64
  if asm.length < n then modLink s d (fun l => { l with asm := asm })
  else arrive (modLink s d (fun l => { l with asm := [] })) d .link (frameOfBytes (asm.flatMap vecBytes))

/-- The far end has acknowledged up to `ack`: those flits leave the retry buffer (18 R471). -/
def dropAcked : Nat → List Sent → List Sent
  | _, [] => []
  | n, x :: xs => if n < x.left then { x with left := x.left - n } :: xs else dropAcked (n - x.left) xs

def takeAck (l : Link) (ack : BitVec 16) : Link :=
  let n := (ack - l.seqBase).toNat
  if n ≤ l.inBuf then
    { l with sent := dropAcked n l.sent, inBuf := l.inBuf - n, cursor := l.cursor - n, seqBase := ack }
  else l

/-- The link passes its retry limit (17 R446). -/
def retryLimit (s : State) (d : Nat) : State := departUp (recordBrg s d 0x2E) d autoState

/-- ACK, RNUM and CRED of a passing group; a new RNUM makes the sender go back (18 R471). -/
def takeControl (s : State) (d ctl : Nat) : State :=
  let ack := BitVec.ofNat 16 (bitsOf ctl 31 16)
  let rn := bitsOf ctl 35 32
  let s := modLink s d (fun l => takeAck l ack)
  let s := if bitAt ctl 140 then
      modLink s d (fun l => { l with credits := (l.credits.zip (List.range 12)).map (fun x =>
        x.1 + bitsOf ctl (44 + 8 * x.2 + 7) (44 + 8 * x.2)) })
    else s
  let l := (bridge s d).link
  if rn = l.actedRnum then s
  else
    let rounds := if l.roundAck = ack then l.txRounds + 1 else 1
    let s := modLink s d (fun l => { l with actedRnum := rn, cursor := 0, roundAck := ack, txRounds := rounds })
    let s := lcount s d 3 1
    if 16 ≤ rounds then retryLimit s d else s

/-- A failed group: a request, unless one is out for the expected flit; a further failure at the expected number opens a
new round (18 R471). -/
def failGroup (s : State) (d : Nat) (atExpected : Bool) (flits : Nat) : State :=
  let s := lcount s d 2 flits
  let l := (bridge s d).link
  if l.awaiting && !atExpected then s
  else
    let n := l.rxRounds + 1
    let s := modLink s d (fun l => { l with rnum := (l.rnum + 1) % 16, awaiting := true, rxRounds := n })
    if 16 ≤ n then retryLimit s d else s

/-- A group received in UP; while a request is outstanding only one that begins at the expected number gives flits (18
R471). -/
def groupUp (s : State) (d : Nat) (g : Group) : State :=
  let ctl := g.ctl.toNat
  let seq := BitVec.ofNat 16 (bitsOf ctl 15 0)
  let n := min 160 (bitsOf ctl 43 36)
  let l := (bridge s d).link
  let ahead := (seq - l.expect).toNat
  if g.uncorrectable ∨ bitsOf ctl 319 288 ≠ (groupCrc ctl g.slots).toNat then
    failGroup s d (l.awaiting && seq = l.expect) 160
  else if 0 < ahead ∧ ahead < 32768 then failGroup s d false n
  else
    let skip := (l.expect - seq).toNat
    let s := takeControl s d ctl
    if linkState s d ≠ lsUP ∨ n ≤ skip ∨ (l.awaiting && decide (0 < skip)) = true then s
    else
      let s := modLink s d (fun l => { l with
        expect := l.expect + BitVec.ofNat 16 (n - skip), awaiting := false, rxRounds := 0 })
      (sliceOf g.slots skip (n - skip)).foldl (fun s w => takeFlit s d w) s

/-- The verdict of an end on the identity it received (07 R189, R190). -/
def judge (s : State) (d : Nat) (w : Nat) : State :=
  let y := bitsOf w 5 2
  let x := bitsOf w 9 6
  let die := bitsOf w 16 10
  let sn := bitsOf w 80 17
  let s := regPutNat s (dcs d 0x20) (y + x <<< 4 + die <<< 8 + 1 <<< 16) 2
  let s := regPutNat s (dcs d 0x28) sn 2
  let p := dcs d 0x10
  let ok := y = regBits s p 3 0 && x = regBits s p 7 4 && die = regBits s p 14 8 && sn = regNat s (dcs d 0x18) 2
  modLink s d (fun l => { l with seen1 := true, verdict := if ok then 1 else 2 })

/-- The link enters UP with the far end's credits (07 R192, 18 R472). -/
def enterUp (s : State) (d : Nat) : State :=
  let c := (bridge s d).link.farCred
  setLinkState (modLink s d (fun l => { againLink l with credits := c, farCred := l.farCred })) d lsUP

/-- Whether an end is ready (18 R472). -/
def linkReady (l : Link) : Bool := l.verdict = 1 && l.seen1 && l.seen2 && l.seen3

/-- A passing group received in EXCHANGE (18 R472). -/
def groupExchange (s : State) (d : Nat) (g : Group) : State :=
  let ctl := g.ctl.toNat
  if bitAt ctl 140 then
    if linkReady (bridge s d).link then groupUp (enterUp s d) d g else s
  else
    let w := bitsOf ctl 139 44
    let kind := w % 4
    let v := bitsOf w 3 2
    let s := match kind with
      | 0 => s
      | 1 => judge s d w
      | k => modLink s d (fun l => { l with
          seen2 := l.seen2 || k = 2, seen3 := l.seen3 || k = 3
          farVerdict := v, farReady := bitAt w 4
          farCred := (List.range 12).map (fun i =>
            if i / 6 = k - 2 then bitsOf w (6 + 12 * (i % 6) + 11) (6 + 12 * (i % 6)) else (l.farCred[i]?).getD 0) })
    let l := (bridge s d).link
    if l.farVerdict = 2 then mismatch s d
    else if linkReady l && l.farReady then enterUp s d
    else s

/-- A group arrives: its codewords are counted by their state; one that fails in EXCHANGE counts and is ignored, no request being open there
(17 R446, R450; 18 R471, R472; DEDUCED, log 93). -/
def receiveGroup (s : State) (d : Nat) (g : Group) : State :=
  let s := lcount (lcount s d 0 g.fixed) d 1 g.lost
  if linkState s d = lsUP then groupUp s d g
  else if linkState s d = lsEXCHANGE then
    if g.uncorrectable ∨ bitsOf g.ctl.toNat 319 288 ≠ (groupCrc g.ctl.toNat g.slots).toNat then lcount s d 2 160
    else groupExchange s d g
  else s

-- Commands ----------------------------------------------------------------------------------------------------------

/-- A write of the host to a register of Bridge `d`. -/
def bridgeWrite (i : Instr) (d : Nat) (s : State) (f : State → State) : Out :=
  if isBridge d then mmioWrite i d false s f else .refused (.noSuchUnit "Bridge")

/-- A write of ENABLE from 0 to 1 starts training at once, also from UP while the write of 0 still waits for a frame boundary; a write
of 1 over 1 is no event (07 R480). -/
def enableLink (s : State) (d : Nat) : State :=
  if regBits s (dcs d 0x34) 0 0 = 1 then s else restartTraining (regSetBits s (dcs d 0x34) 0 0 1) d

def execLinkEnable (d : Nat) (s : State) : Out := bridgeWrite (.linkEnable d) d s (fun s => enableLink s d)

/-- A write of ENABLE = 0: from UP the link goes at the next frame boundary (07 R480). -/
def clearEnable (s : State) (d : Nat) : State :=
  let s := regSetBits s (dcs d 0x34) 0 0 0
  if linkState s d = lsUP then
    if atBoundary (bridge s d).link then disableLink s d else modLink s d (fun l => { l with downAsked := true })
  else setLinkState (modLink s d (fun _ => freshLink s d)) d lsDISABLED

def execLinkDisable (d : Nat) (s : State) : Out := bridgeWrite (.linkDisable d) d s (fun s => clearEnable s d)

/-- A write of BRG_LINKCTL.RETRAIN = 1 (07 R480, 16 R425). -/
def execLinkRetrain (d : Nat) (s : State) : Out := bridgeWrite (.linkRetrain d) d s (fun s => linkReset s d)

/-- A write of BRG_LINKCTL: AUTORETRAIN is stored, a change of ENABLE and a RETRAIN act (07 R480). -/
def linkCtlWrite (s : State) (d v : Nat) : State :=
  let s := regSetBits s (dcs d 0x34) 1 1 (bitsOf v 1 1)
  let s := if bitAt v 0 then enableLink s d else if regBits s (dcs d 0x34) 0 0 = 1 then clearEnable s d else s
  if bitAt v 2 then linkReset s d else s

/-- A write of BRG_SELF, BRG_PEER or BRG_PEERSN: one that changes the value restarts training, and in MISMATCH any write of
the peer registers does (07 R190, R480). -/
def linkConfigWrite (s : State) (d : Nat) (r : LinkReg) (v : Nat) : State :=
  let (a, n) := match r with | .self => (dcs d 0x0, 1) | .peer => (dcs d 0x10, 2) | .peerSn => (dcs d 0x18, 2)
  let old := regNat s a n
  let s := (List.range n).foldl (fun s i => regWrite s (a + 4 * i) (BitVec.ofNat 32 (v >>> (32 * i)))) s
  if regNat s a n ≠ old ∨ (linkState s d = lsMISMATCH ∧ r ≠ .self) then restartTraining s d else s

def execLinkConfigWrite (d : Nat) (r : LinkReg) (v : BitVec 64) (s : State) : Out :=
  bridgeWrite (.linkConfigWrite d r v) d s (fun s => linkConfigWrite s d r v.toNat)

/-- Training reaches group lock: the link enters EXCHANGE (18 R472). -/
def execLinkLock (d : Nat) (s : State) : Out :=
  bridgeCmd d s (fun s =>
    if linkState s d = lsTRAINING then setLinkState (modLink s d againLink) d lsEXCHANGE else s)

def execLinkGroupSend (d : Nat) (s : State) : Out := bridgeCmd d s (fun s => sendGroup s d)

/-- A group arrives; a muted Bridge discards its flits and counts them (17 R450). -/
def execLinkGroupReceive (d : Nat) (g : Group) (s : State) : Out :=
  if !isBridge d then .refused (.noSuchUnit "Bridge")
  else if 160 < g.slots.length ∨ 16 < g.lost + g.fixed ∨ (g.slots.length ≠ min 160 (bitsOf g.ctl.toNat 43 36) ∧ g.uncorrectable = false) then
    .fault (.illFormed "link group")
  else if s.life = .up ∧ s.muted then .next (lcount s d 4 (bitsOf g.ctl.toNat 43 36))
  else .next (if bridgesOn s then receiveGroup s d g else s)

/-- A link loses its signal: training starts over, from UP after the departure (07 R480). -/
def execLinkSignalLoss (d : Nat) (s : State) : Out :=
  bridgeCmd d s (fun s =>
    if linkState s d = lsUP then departUp s d autoState
    else if linkState s d = lsEXCHANGE then setLinkState (modLink s d againLink) d lsTRAINING else s)

end Sys2Proof.Machine
end

