-- ==== Sys2Proof/Machine/Exact.lean ====
section
/-! DEFINITION. Exact-sum accumulators: contributions, merging and the one rounding (10 R264 to R267, 12 R315 to R317). -/
namespace Sys2Proof.Machine

/-- An exact sum: A as a signed integer in units of 2^−149, the chosen NaN with its rank, and the special-value state. -/
structure ExactSum where
  a : Int
  nanv : Nat
  rank : Nat
  nan : Bool
  pinf : Bool
  ninf : Bool
  snan : Bool
  negz : Bool
deriving DecidableEq, Repr

/-- The leaf of a value of format `f` contributed by a rank (10 R265). -/
def exactLeaf (f : FpFmt) (rank code : Nat) : ExactSum :=
  let z : ExactSum := ⟨0, 0, 0, false, false, false, false, false⟩
  match fpDecode f code with
  | .nan n fr s => { z with nan := true, nanv := nanCode f n fr, rank := rank, snan := s }
  | .inf n => if n then { z with ninf := true } else { z with pinf := true }
  | .fin n m e =>
    let v : Int := ((m <<< (e + 149).toNat : Nat) : Int)
    { z with a := if n then -v else v, negz := n && m == 0 }

/-- The merge of two accumulators (10 R265). -/
def exactAdd (l r : ExactSum) : ExactSum :=
  let left := l.nan && (!r.nan || decide (l.rank ≤ r.rank))
  { a := l.a + r.a
    nanv := if left then l.nanv else r.nanv
    rank := if left then l.rank else r.rank
    nan := l.nan || r.nan, pinf := l.pinf || r.pinf, ninf := l.ninf || r.ninf, snan := l.snan || r.snan
    negz := l.negz && r.negz }

/-- The one rounding at the end (10 R267). -/
def exactRound (f : FpFmt) (x : ExactSum) : Nat × FFlags :=
  if x.nan then (x.nanv, flagIf x.snan fNV)
  else if x.pinf && x.ninf then (defaultNan f, fNV)
  else if x.pinf then (infCode f, 0)
  else if x.ninf then (signBit f true + infCode f, 0)
  else if x.a = 0 then (signBit f x.negz, 0)
  else fpRound f .ne false (decide (x.a < 0)) x.a.natAbs (-149) false

/-- The flag byte of an accumulator (10 R264). -/
def exactFlags (x : ExactSum) : Nat :=
  (if x.nan then 1 else 0) + (if x.pinf then 2 else 0) + (if x.ninf then 4 else 0) + (if x.snan then 8 else 0) +
    (if x.negz then 16 else 0)

/-- The 48 bytes of an accumulator as a number (10 R264). -/
def exactCode (x : ExactSum) : Nat :=
  ofSigned 320 x.a + x.nanv <<< 320 + (exactFlags x) <<< 352 + x.rank <<< 360

/-- The accumulator 48 bytes spell. -/
def exactOf (v : Nat) : ExactSum :=
  { a := toSigned 320 v, nanv := bitsOf v 351 320, rank := bitsOf v 367 360, nan := bitAt v 352, pinf := bitAt v 353
    ninf := bitAt v 354, snan := bitAt v 355, negz := bitAt v 356 }

/-- An XADD of an FP32 value into a 64-byte exact-sum line (12 R315, R316). -/
def xaddLine (line c : Nat) : Nat :=
  let x := exactOf line
  let touched := bitAt line 357
  let y := exactLeaf fFP32 0 c
  let nanv := if y.nan then (if x.nan then min x.nanv y.nanv else y.nanv) else x.nanv
  let z : ExactSum :=
    { a := x.a + y.a, nanv := nanv, rank := 0, nan := x.nan || y.nan, pinf := x.pinf || y.pinf, ninf := x.ninf || y.ninf
      snan := x.snan || y.snan, negz := y.negz && (x.negz || !touched) }
  ofSigned 320 z.a + z.nanv <<< 320 + (exactFlags z + 32) <<< 352

/-- The 8 bytes an XRD returns (12 R317). -/
def xrdLine (line : Nat) : Nat :=
  if !bitAt line 357 then 0
  else
    let (v, fl) := exactRound fFP32 (exactOf line)
    v + (if fl &&& fNX ≠ 0 then 2 ^ 32 else 0) + (if fl &&& fUF ≠ 0 then 2 ^ 33 else 0) +
      (if fl &&& fOF ≠ 0 then 2 ^ 34 else 0) + (if fl &&& fNV ≠ 0 then 2 ^ 35 else 0)

end Sys2Proof.Machine
end

