-- ==== Sys2Proof/Machine/SaddleProg.lean ====
section
/-! DEFINITION. Saddle programs: slots, their validity, and the lanes that run them (10 R269 to R271, R275 to R279). -/
namespace Sys2Proof.Machine

/-- A program slot (10 R275): header, constants, instruction words. -/
structure Slot where
  hdr : Nat
  con : List Nat
  words : List Nat
deriving DecidableEq, Repr

/-- Slot `n` of the engine of die `d`. -/
def slotAt (s : State) (d n : Nat) : Slot :=
  ⟨regNat s (dcs d (0x101000 + n * 0x40)) 2,
   (List.range 4).map (fun k => regNat s (dcs d (0x101008 + n * 0x40 + 8 * k)) 2),
   (List.range 64).map (fun w => regNat s (dcs d (0x102000 + n * 0x200 + 8 * w)) 2)⟩

def slKind (x : Slot) : Nat := bitsOf x.hdr 2 0
/-- Bytes of a record. -/
def slRec (x : Slot) : Nat := if bitAt x.hdr 3 then 16 else 8
def slKty (x : Slot) : Nat := bitsOf x.hdr 8 4
def slDesc (x : Slot) : Bool := bitAt x.hdr 9
def slFmode (x : Slot) : Nat := bitsOf x.hdr 12 10
def slLeafEn (x : Slot) : Bool := bitAt x.hdr 13
def slCombEn (x : Slot) : Bool := bitAt x.hdr 14
def slLeafPc (x : Slot) : Nat := bitsOf x.hdr 21 16
def slCombPc (x : Slot) : Nat := bitsOf x.hdr 27 22
def slK (x : Slot) : Nat := bitsOf x.hdr 47 32
def slCon (x : Slot) (k : Nat) : Nat := (x.con[k]?).getD 0
def slWord (x : Slot) (w : Nat) : Nat := (x.words[w]?).getD 0

-- Validity ----------------------------------------------------------------------------------------------------------

/-- Opcode of a word. -/
def swOp (w : Nat) : Nat := bitsOf w 63 58

/-- The listed opcodes (10 R278). -/
def swListed (w : Nat) : Bool := decide (swOp w ≤ 0x17) || decide (swOp w = 0x1F)

/-- A word within the limits of R278: TY 4 to 7 fail in every word. -/
def swOk (w : Nat) : Bool := swListed w && decide (bitsOf w 41 39 ≤ 3)

/-- Words in a loop body, and its repetitions. -/
def loopLen (w : Nat) : Nat := bitsOf w 13 8 + 1
def loopReps (w : Nat) : Nat := bitsOf w 3 0 + 1

/-- Walks an entry from word `pc` to its END: the instructions it executes, or none where it breaks R279. -/
def entryCost (x : Slot) : Nat → Nat → Option Nat
  | 0, _ => none
  | f + 1, pc =>
    let w := slWord x pc
    if 63 < pc ∨ swOk w = false then none
    else if swOp w = 0 then some 1
    else if swOp w = 0x1F then
      let n := loopLen w
      let body := (List.range n).map (fun i => slWord x (pc + 1 + i))
      if 63 < pc + n ∨ body.any (fun v => !swOk v || swOp v = 0 || swOp v = 0x1F) then none
      else (entryCost x f (pc + 1 + n)).map (fun c => c + 1 + n * loopReps w)
    else (entryCost x f (pc + 1)).map (· + 1)

def entryOk (x : Slot) (pc : Nat) : Bool :=
  match entryCost x 65 pc with
  | some c => decide (c ≤ 256)
  | none => false

/-- Whether a slot is valid (10 R279). -/
def slotOk (x : Slot) : Bool :=
  let ktyOk := slKty x = 0 || slKty x = 1 || slKty x = 2 || slKty x = 3 || slKty x = 6
  let records := decide (2 ≤ slKind x)
  decide (slKind x ≤ 4) && ktyOk &&
    (!records || !(slKty x = 0 && slRec x = 8)) &&
    decide (slFmode x ≤ 5) && (slKind x ≠ 1 || slFmode x = 0) &&
    (slKind x ≠ 4 || decide (1 ≤ slK x ∧ slK x ≤ 262144 / slRec x)) &&
    (slKind x = 1 || !slCombEn x) &&
    (!slLeafEn x || entryOk x (slLeafPc x)) && (!slCombEn x || entryOk x (slCombPc x))

-- Lanes -------------------------------------------------------------------------------------------------------------

/-- A lane: its registers r0 to r15 and the flags raised, NX to NV with WRAP in bit 5 (10 R277). -/
structure Lane where
  r : List (BitVec 64)
  fl : Nat
deriving DecidableEq, Repr

def lnGet (l : Lane) (i : Nat) : BitVec 64 := (l.r[i]?).getD 0
def lnSet (l : Lane) (i : Nat) (v : BitVec 64) : Lane := { l with r := l.r.set i v }

/-- The format of TY (10 R278). -/
def swFmt (w : Nat) : FpFmt := match bitsOf w 41 39 with | 0 => fFP64 | 1 => fFP32 | 2 => fBF16 | _ => fFP16

/-- A floating-point instruction. -/
def lnFp (l : Lane) (rd : Nat) (x : Nat × FFlags) : Lane :=
  let l := lnSet l rd (BitVec.ofNat 64 x.1)
  { l with fl := l.fl ||| x.2.toNat }

/-- A 32-bit signed instruction with WRAP (10 R278). -/
def lnWrap (l : Lane) (rd : Nat) (v : Int) : Lane :=
  let out := v < intLo 32 true || intHi 32 true < v
  let l := lnSet l rd (BitVec.ofInt 64 (toSigned 32 (ofSigned 32 v)))
  if out then { l with fl := l.fl ||| 32 } else l

/-- One instruction in one lane (10 R278). -/
def lnStep (l : Lane) (w : Nat) : Lane :=
  let rd := bitsOf w 57 54
  let a := lnGet l (bitsOf w 53 50)
  let b := if bitAt w 38 then BitVec.ofInt 64 (toSigned 32 w) else lnGet l (bitsOf w 49 46)
  let c := lnGet l (bitsOf w 45 42)
  let sa := toSigned 32 a.toNat
  let sb := toSigned 32 b.toNat
  let f := swFmt w
  let fa := a.toNat % 2 ^ fmtWidth f
  let fb := b.toNat % 2 ^ fmtWidth f
  let put := lnSet l rd
  match swOp w with
  | 0x01 => put b
  | 0x02 => put (a + b)
  | 0x03 => put (a - b)
  | 0x04 => put (a &&& b)
  | 0x05 => put (a ||| b)
  | 0x06 => put (a ^^^ b)
  | 0x07 => put (a <<< (b.toNat % 64))
  | 0x08 => put (a >>> (b.toNat % 64))
  | 0x09 => put (a.sshiftRight (b.toNat % 64))
  | 0x0A => lnWrap l rd (sa + sb)
  | 0x0B => lnWrap l rd (sa * sb)
  | 0x0C => put (if a = b then 1 else 0)
  | 0x0D => put (if a.toInt < b.toInt then 1 else 0)
  | 0x0E => put (if a.toNat < b.toNat then 1 else 0)
  | 0x0F => put (if c.getLsbD 0 then a else b)
  | 0x10 => lnFp l rd (fpAdd f .ne fa fb)
  | 0x11 => lnFp l rd (fpSub f .ne fa fb)
  | 0x12 => lnFp l rd (fpMul f .ne fa fb)
  | 0x13 => lnFp l rd (fpMinMax f false fa fb)
  | 0x14 => lnFp l rd (fpMinMax f true fa fb)
  | 0x15 => lnFp l rd (fpMinMaxNum f false fa fb)
  | 0x16 => lnFp l rd (fpMinMaxNum f true fa fb)
  | 0x17 => put (BitVec.ofNat 64 (totalOrderKey (fmtWidth f) fa))
  | _ => l

/-- A loop body executed `n` times. -/
def lnLoop (body : List Nat) : Nat → Lane → Lane
  | 0, l => l
  | n + 1, l => lnLoop body n (body.foldl lnStep l)

/-- Runs an entry point to its END; a valid slot has at most 64 words before it (10 R278, R279). -/
def lnRun (x : Slot) : Nat → Nat → Lane → Lane
  | 0, _, l => l
  | f + 1, pc, l =>
    let w := slWord x pc
    if 63 < pc ∨ swOp w = 0 then l
    else if swOp w = 0x1F then
      let n := loopLen w
      lnRun x f (pc + 1 + n) (lnLoop ((List.range n).map (fun i => slWord x (pc + 1 + i))) (loopReps w) l)
    else lnRun x f (pc + 1) (lnStep l w)

/-- The registers at an entry point (10 R277). -/
def lnEntry (x : Slot) (r0 r1 r2 r3 : Nat) : Lane :=
  ⟨[r0, r1, r2, r3, 0, 0, 0, 0, 0, 0, 0, 0, slCon x 0, slCon x 1, slCon x 2, slCon x 3].map (BitVec.ofNat 64), 0⟩

/-- The leaf code on one element or record. -/
def runLeaf (x : Slot) (r0 r1 rank i : Nat) : Lane := lnRun x 65 (slLeafPc x) (lnEntry x r0 r1 rank i)
/-- The combination code on two elements. -/
def runComb (x : Slot) (l r lo log : Nat) : Lane := lnRun x 65 (slCombPc x) (lnEntry x l r lo log)

-- Records -----------------------------------------------------------------------------------------------------------

/-- Width of a key. -/
def keyWidth (x : Slot) : Nat := match slKty x with | 0 => 64 | 2 => 16 | 3 => 16 | _ => 32

/-- The order key of a record's key (10 R269, R271): totalOrder, or signed order for INT32. -/
def ordKey (x : Slot) (k : Nat) : Int :=
  if slKty x = 6 then toSigned 32 k else (totalOrderKey (keyWidth x) k : Int)

/-- The key of a record. -/
def recKey (x : Slot) (r : Nat) : Nat := r % 2 ^ keyWidth x

/-- The filter test of a record; `r4` is what the leaf code leaves (10 R271). -/
def recKept (x : Slot) (r r4 : Nat) : Bool :=
  let k := recKey x r
  let c := fun i => slCon x i % 2 ^ keyWidth x
  let inside := decide (ordKey x (c 0) ≤ ordKey x k ∧ ordKey x k ≤ ordKey x (c 1))
  match slFmode x with
  | 0 => true
  | 1 => inside
  | 2 => !inside
  | 3 => k &&& c 2 = slCon x 3
  | 4 => k &&& c 2 ≠ slCon x 3
  | _ => bitAt r4 0

/-- The leaf of records: the leaf code, then the filter (10 R271, R277); with the flags raised. -/
def recLeaf (x : Slot) (rank : Nat) (rs : List Nat) : List Nat × Nat :=
  let out := rs.mapIdx (fun i r =>
    if slLeafEn x then
      let l := runLeaf x (r % 2 ^ 64) (if slRec x = 16 then r / 2 ^ 64 else 0) rank i
      ((lnGet l 0).toNat + (if slRec x = 16 then (lnGet l 1).toNat * 2 ^ 64 else 0), (lnGet l 4).toNat, l.fl)
    else (r, 0, 0))
  ((out.filter (fun o => recKept x o.1 o.2.1)).map (·.1), out.foldl (fun f o => f ||| o.2.2) 0)

/-- Whether record `a` may stand before record `b` in a stable merge (10 R269). -/
def recLe (x : Slot) (a b : Nat) : Bool :=
  let p := ordKey x (recKey x a)
  let q := ordKey x (recKey x b)
  if slDesc x then decide (q ≤ p) else decide (p ≤ q)

/-- Inserts a record behind every record that must precede it. -/
def recInsert (x : Slot) (r : Nat) : List Nat → List Nat
  | [] => [r]
  | y :: ys => if recLe x y r then y :: recInsert x r ys else r :: y :: ys

/-- A stable sort (10 R269). -/
def recSort (x : Slot) (rs : List Nat) : List Nat := rs.foldl (fun l r => recInsert x r l) []

/-- A stable merge: on equal keys the left records come first (10 R269). -/
def recMerge (x : Slot) (l r : List Nat) : List Nat := r.foldl (fun acc y => recInsert x y acc) l

/-- Truncation: K for top-k, 262,144 bytes for a sort; with whether a sort lost records (10 R270). -/
def recCut (x : Slot) (rs : List Nat) : List Nat × Bool :=
  if slKind x = 4 then (rs.take (slK x), false)
  else let n := 262144 / slRec x; (rs.take n, decide (n < rs.length))

end Sys2Proof.Machine
end

