-- ==== Sys2Proof/Machine/SaddleTree.lean ====
section
/-! DEFINITION. The canonical tree at a Saddle engine: partials, their combination, promotion, forwarding and what the root
stage sends (10 R255 to R271, R276; 11 R286, R293, R296, R300, R305). -/
namespace Sys2Proof.Machine

def sadCount (s : State) (d n : Nat) : State := regCount s (dcs d (0x104000 + 8 * n)) 1

/-- SADDLE_SPAN, SADDLE_PROG and SADDLE_SIZE with their counters (10 SAD_CNTn). -/
def sadSpan (s : State) (d : Nat) : State := sadCount (recordBrg s d 0x27) d 6
def sadProg (s : State) (d : Nat) : State := sadCount (recordBrg s d 0x28) d 7
def sadSize (s : State) (d : Nat) : State := sadCount (recordBrg s d 0x29) d 7

-- Spans -------------------------------------------------------------------------------------------------------------

/-- log2 Pp (10 R255). -/
def logP (p : Nat) : Nat := ((List.range 8).find? (fun k => p ≤ 2 ^ k)).getD 7

/-- A span that is a node of the tree (10 R255, R257). -/
def spanOk (p lo log : Nat) : Bool := decide (lo % 2 ^ log = 0 ∧ lo < p ∧ log ≤ logP p)

/-- First rank of the sibling span. -/
def sibLo (lo log : Nat) : Nat := if lo / 2 ^ log % 2 = 0 then lo + 2 ^ log else lo - 2 ^ log

/-- The chunk index that keeps tokens apart from the reductions of their course. -/
def tokenChunk : Nat := 65536

/-- Whether a partial is a token. -/
def isToken (p : Partial) : Bool := p.key.chunk = tokenChunk

/-- Ranks whose contributions pass a stage at module `a` (10 R256, 11 R290). -/
def passes (e : Course) (a root : Nat × Nat) (r : Nat) : Bool := a = root || (rankAt e r).1 = a.1

-- Programs ----------------------------------------------------------------------------------------------------------

/-- The slot a reduction runs, where its program applies to it (10 R276). -/
def reduceSlot (s : State) (d : Nat) (par : CollParam) : Option Slot :=
  if par.prog = 0 then none
  else
    let x := slotAt s d (par.prog - 1)
    if slotOk x && slKind x = 1 && slKty x = par.wire && !par.exact then some x else none

/-- The slot a GTH.V stream runs (10 R276). -/
def gatherSlot (s : State) (d prog : Nat) : Option Slot :=
  if prog = 0 then none
  else
    let x := slotAt s d (prog - 1)
    if slotOk x && decide (2 ≤ slKind x) then some x else none

/-- The slot whose records a partial holds: a leaf formed by a SORT or TOPK program, or a merge of such (11 R296). -/
def recordSlot (s : State) (d : Nat) (par : CollParam) (pflags : Nat) : Option Slot :=
  match gatherSlot s d par.prog with
  | some x => if 3 ≤ slKind x ∧ bitAt pflags 7 = true then some x else none
  | none => none

/-- A stream of a step uses the slot of its program, from its first frame on (10 R281). -/
def markSlot (s : State) (d step prog : Nat) : State :=
  if prog = 0 ∨ (bridge s d).eng.used.contains (prog - 1, step) = true then s
  else modEng s d (fun g => { g with used := g.used ++ [(prog - 1, step)] })

/-- A stream of an instance uses its slot; one that does not apply is recorded once for the instance (10 R276, R281). -/
def useSlot (s : State) (d : Nat) (key : CollKey) (prog : Nat) (applies : Bool) : State :=
  if prog = 0 then s
  else
    let s := markSlot s d key.step prog
    if applies || (bridge s d).eng.bad.contains key then s
    else sadProg (modEng s d (fun g => { g with bad := g.bad ++ [key] })) d

-- Elements ----------------------------------------------------------------------------------------------------------

/-- Bytes of an element of a partial (10 R258): accumulators, records or values in WIRE. -/
def partSize (s : State) (d : Nat) (p : Partial) : Nat :=
  if isToken p then 8
  else if p.acc then 48
  else match recordSlot s d p.par p.pflags with
    | some x => slRec x
    | none => wireSize p.par.wire

/-- The format of an exact sum (10 R264); others are not listed. -/
def exactFmt (wire : Nat) : Option FpFmt :=
  match tyOfCode wire with | some .fp32 => some fFP32 | some .bf16 => some fBF16 | some .fp16 => some fFP16 | _ => none

/-- A leaf's elements as accumulators (10 R265, R266). -/
def toAcc (p : Partial) : Partial :=
  if !p.par.exact || p.acc then p
  else match exactFmt p.par.wire with
    | some f => { p with acc := true, elems := p.elems.map (fun c => exactCode (exactLeaf f p.lo c)) }
    | none => p

/-- INT32 combination with WRAP in bit 5 (10 R260). -/
def combineInt (rop l r : Nat) : Option (Nat × Nat) :=
  let a := toSigned 32 l
  let b := toSigned 32 r
  let wrapped := fun v : Int => (ofSigned 32 v, if v < intLo 32 true ∨ intHi 32 true < v then 32 else 0)
  match rop with
  | 0 => some (wrapped (a + b))
  | 1 => some (if b < a then r else l, 0)
  | 2 => some (if a < b then r else l, 0)
  | 3 => some (wrapped (a * b))
  | 4 => some (l &&& r, 0)
  | 5 => some (l ||| r, 0)
  | 6 => some (l ^^^ r, 0)
  | _ => none

/-- The built-in combination of two elements with the flags it raises (10 R260, R261). -/
def combineElem (rop wire l r : Nat) : Nat × Nat :=
  let other := (Config.unlistedCombine rop wire l r, 0)
  match tyOfCode wire with
  | some .int32 => (combineInt rop l r).getD other
  | some t =>
    match fpOfTy t with
    | some f =>
      let flags := fun (x : Nat × FFlags) => (x.1, x.2.toNat)
      match rop with
      | 0 => flags (fpAdd f .ne l r)
      | 1 => flags (fpMinMax f false l r)
      | 2 => flags (fpMinMax f true l r)
      | 3 => flags (fpMul f .ne l r)
      | _ => other
    | none => other
  | none => other

/-- Two element lists of one length: missing elements are copies of the other operand's (10 R257). -/
def alignElems (l r : List Nat) : List (Nat × Nat) := (l ++ r.drop l.length).zip (r ++ l.drop r.length)

/-- The elements of a combination and the flags it raises, by the left operand's parameters (10 R257, R260, R265, R276;
11 R305). -/
def combineElems (s : State) (d : Nat) (l r : Partial) : List Nat × Nat :=
  let pairs := alignElems l.elems r.elems
  if isToken l then (pairs.map (fun x => x.1 ||| x.2), 0)
  else if l.acc ≠ r.acc then (pairs.map (fun x => Config.unlistedCombine l.par.rop l.par.wire x.1 x.2), 0)
  else if l.acc then (pairs.map (fun x => exactCode (exactAdd (exactOf x.1) (exactOf x.2))), 0)
  else
    let code := (reduceSlot s d l.par).filter slCombEn
    let w := 8 * wireSize l.par.wire
    let one := fun (y : Nat × Nat) => match code with
      | some x => let z := runComb x y.1 y.2 l.lo l.log; ((lnGet z 0).toNat % 2 ^ w, z.fl)
      | none => combineElem l.par.rop l.par.wire y.1 y.2
    let out := pairs.map one
    (out.map (·.1), out.foldl (fun f o => f ||| o.2) 0)

-- Frames out --------------------------------------------------------------------------------------------------------

/-- The engine's EPID. -/
def engineEpid (s : State) (d : Nat) : BitVec 32 := engineAt d (selfAt s d)

/-- What the frames of an instance sent from an engine share (11 R287). -/
def engSpec (s : State) (d : Nat) (src : BitVec 32) (type arg seq kind : Nat) : CollSpec :=
  ⟨src, type, arg, collStream seq kind, epochOf s d⟩

/-- The subheader of a partial (10 R254). -/
def partSub (p : Partial) : Sub :=
  { cid := p.par.cid, seq := p.key.seq, rop := p.par.rop, exact := p.par.exact, prog := p.par.prog, wire := p.par.wire
    p := p.par.p, root := p.par.root, lo := p.lo, log := p.log, chunk := p.key.chunk % 65536, nchunk := p.par.nchunk
    pflags := p.pflags, acc := p.acc }

/-- Index within the operation of a chunk's first element (10 R273). -/
def chunkStart (p : Partial) : Nat := p.key.chunk * (262144 / (if p.par.exact then 48 else wireSize p.par.wire))

/-- The frames of a partial (10 R254, R258; 11 R292). -/
def partItems (s : State) (d : Nat) (p : Partial) : List (Sub × List Byte) :=
  if isToken p then [({ cid := p.par.cid, p := p.par.p, root := p.par.root, lo := p.lo, log := p.log },
    bytesLE 8 (p.elems.foldl (· ||| ·) 0))]
  else elemItems (partSub p) (partSize s d p) (chunkStart p) p.elems

/-- SPART, or CTOKU for a token. -/
def partSpec (s : State) (d : Nat) (p : Partial) : CollSpec :=
  if isToken p then engSpec s d p.src 0x15 p.arg 0 3 else engSpec s d p.src 0x10 p.arg p.key.seq 0

/-- Forwards a partial to the root stage by a column hop (10 R256, 11 R290). -/
def forwardPart (s : State) (d : Nat) (e : Course) (p : Partial) : State :=
  let dest := engineAt (engOf e e.rootEng p.key.pos) (rankAt e p.par.root)
  engineSends s d (legFrames (partSpec s d p) (partItems s d p) ⟨dest, 1, none, 0⟩)

/-- The result elements with the flags of the last rounding (10 R256, R267); a reduction of one member rounds its leaf. -/
def roundResult (q : Partial) : List Nat × Nat :=
  let p := toAcc q
  if !p.acc then (p.elems, p.pflags)
  else match exactFmt p.par.wire with
    | none => (p.elems, p.pflags)
    | some f =>
      let out := p.elems.map (fun c => exactRound f (exactOf c))
      (out.map (·.1), out.foldl (fun fl o => fl ||| o.2.toNat) (p.pflags / 64 * 64))

/-- The SDOWN frames of one member's result elements on some legs (11 R293, R300). -/
def resultFrames (s : State) (d : Nat) (p : Partial) (pflags off : Nat) (xs : List Nat) (ls : List Leg) : List Frame :=
  let sz := wireSize p.par.wire
  let bs := xs.flatMap (bytesLE sz)
  let u := { partSub p with pflags := pflags, acc := false, ccrc := (crc32c bs).toNat, cbytes := bs.length }
  pathFrames (engSpec s d (engineEpid s d) 0x11 p.arg p.key.seq 0) (elemItems u sz off xs) ls

/-- Whether an instance is a reduce-scatter: its own core's instruction says (11 R293; DEDUCED, log 38). -/
def isScatter (s : State) (p : Partial) : Bool :=
  match (coreOf s p.key.pos).fused.find? (fun q => q.ct = p.key.ct && q.seq = p.key.seq) with
  | some q => q.kind = 2
  | none => false

/-- The frames of a finished reduction (11 R291, R293). -/
def downFrames (s : State) (d : Nat) (e : Course) (p : Partial) : List Frame :=
  let a := selfAt s d
  let (xs, fl) := roundResult p
  let pos := p.key.pos
  let n := xs.length
  if isScatter s p then
    (List.range e.p).flatMap (fun r =>
      let lo := r * n / max 1 e.p
      let hi := (r + 1) * n / max 1 e.p
      let m := rankAt e r
      resultFrames s d p fl (chunkStart p + lo) ((xs.drop lo).take (hi - lo)) [downLeg e pos a m (partnerAt pos m)])
  else resultFrames s d p fl (chunkStart p) xs (downLegs e pos a e.members (partnerAt pos))

/-- A count sent toward the root core from an engine (11 R294, R296). -/
def engCount (s : State) (d : Nat) (key : CollKey) (par : CollParam) (arg r n : Nat) : List Frame :=
  legFrames (engSpec s d (engineEpid s d) 0x13 arg key.seq 1)
    [({ cid := par.cid, seq := key.seq, p := par.p, root := par.root, lo := r }, bytesLE 8 n)] ⟨partnerAt key.pos (0, 0), 1, none, 0⟩

/-- A piece sent toward the root core from an engine (11 R294, R296). -/
def engPiece (s : State) (d : Nat) (key : CollKey) (par : CollParam) (arg r pflags : Nat) (bs : List Byte) : List Frame :=
  legFrames (engSpec s d (engineEpid s d) 0x12 arg key.seq 0)
    (pieceItems { cid := par.cid, seq := key.seq, p := par.p, root := par.root, lo := r, prog := par.prog, pflags := pflags } bs)
    ⟨partnerAt key.pos (0, 0), 1, none, 0⟩

/-- Sends frames to the root's core of an instance. -/
def toRootCore (e : Course) (key : CollKey) (par : CollParam) (fs : List Frame) : List Frame :=
  fs.map (fun f => sealFrame (fSet f 31 0 (partnerAt key.pos (rankAt e par.root)).toNat))

/-- The counts and records a root engine sends for SORT and TOPK (10 R271, 11 R296). -/
def sortedFrames (s : State) (d : Nat) (e : Course) (p : Partial) (x : Slot) : List Frame :=
  let bs := p.elems.flatMap (bytesLE (slRec x))
  let counts := (List.range e.p).flatMap (fun r => engCount s d p.key p.par p.arg r (if r = 0 then bs.length else 0))
  toRootCore e p.key p.par (counts ++ (if bs.isEmpty then [] else engPiece s d p.key p.par p.arg 0 p.pflags bs))

/-- The token result goes to every member module's engine (11 R305). -/
def tokenFrames (s : State) (d : Nat) (e : Course) (p : Partial) : List Frame :=
  pathFrames (engSpec s d (engineEpid s d) 0x16 p.arg 0 3)
    [({ cid := p.par.cid, p := p.par.p }, bytesLE 8 (p.elems.foldl (· ||| ·) 0))]
    (downLegs e 0 (selfAt s d) e.members (engineAt (engOf e e.rootEng 0)))

/-- The result of an instance leaves the root stage (10 R256). -/
def finishPart (s : State) (d : Nat) (e : Course) (p : Partial) : State :=
  if isToken p then engineSends s d (tokenFrames s d e p)
  else
    let s := sadCount s d 5
    match recordSlot s d p.par p.pflags with
    | some x => engineSends s d (sortedFrames s d e p x)
    | none => engineSends s d (downFrames s d e p)

-- The tree ----------------------------------------------------------------------------------------------------------

/-- Takes a partial out of staging. -/
def dropPart (s : State) (d : Nat) (p : Partial) : State := modEng s d (fun g => { g with held := g.held.erase p })

/-- Holds a partial, whose span counts as taken in from now on. -/
def holdPart (s : State) (d : Nat) (p : Partial) : State :=
  modEng s d (fun g => { g with held := g.held ++ [p], done := g.done ++ [(p.key, p.lo, p.log)] })

/-- Whether a span of an instance has been taken in or formed here (10 R257). -/
def spanTaken (s : State) (d : Nat) (key : CollKey) (lo log : Nat) : Bool := (bridge s d).eng.done.contains (key, lo, log)

/-- Promotion (10 R255): the accumulator format in exact-sum mode, else the same bits. -/
def promotePart (s : State) (d : Nat) (p : Partial) : State :=
  sadCount (holdPart (dropPart s d p) d { toAcc p with src := engineEpid s d, log := p.log + 1 }) d 2

/-- An upset of an engine changes the first element of a combination; a mismatch of residues taints the partial (17 R440, R441). -/
def engineUpset (s : State) (d wire : Nat) (xs : List Nat) : State × List Nat × Nat :=
  match takeUnitUpset s d with
  | (s, some u) =>
    let m := if tyOfCode wire = some .int32 then 3 else 15
    (unitCheck s d m u, xs.modify 0 (· ^^^ u.flip), if u.err % (m : Int) = 0 then 0 else 64)
  | (s, none) => (s, xs, 0)

/-- Combination of two siblings, the left one first (10 R255, R257, R261, R263, R269, R270). -/
def combinePart (s : State) (d : Nat) (l r : Partial) : State :=
  let s := dropPart (dropPart s d l) d r
  let recs := recordSlot s d l.par (l.pflags &&& r.pflags)
  let s := if l.par ≠ r.par ∨ (recs.isNone ∧ l.elems.length ≠ r.elems.length) then recordBrg s d 0x18 else s
  let fl := l.pflags ||| r.pflags
  let out := fun (xs : List Nat) (a : Bool) (f : Nat) =>
    ({ l with src := engineEpid s d, log := l.log + 1, acc := a, elems := xs, pflags := fl ||| f } : Partial)
  match recs with
  | some x =>
    let (xs, lost) := recCut x (recMerge x l.elems r.elems)
    let s := if lost then sadSize s d else s
    sadCount (holdPart s d (out xs false 0)) d 1
  | none =>
    let l' := toAcc l
    let r' := toAcc { r with par := { r.par with exact := l.par.exact, wire := l.par.wire } }
    let (xs, f) := combineElems s d l' r'
    let (s, xs, t) := engineUpset s d l'.par.wire xs
    sadCount (holdPart s d (out xs l'.acc (f ||| t))) d 1

/-- What applies to a held partial (10 R256); none while it waits for its sibling. -/
def settlePart (s : State) (d : Nat) (e : Course) (p : Partial) : Option State :=
  let top := logP p.par.p
  let a := selfAt s d
  let root := rankAt e p.par.root
  let sib := sibLo p.lo p.log
  if p.log < top then
    if p.par.p ≤ sib then some (promotePart s d p)
    else
      match (bridge s d).eng.held.find? (fun q => q.key = p.key && q.log = p.log && q.lo = sib) with
      | some q => some (if p.lo < sib then combinePart s d p q else combinePart s d q p)
      | none =>
        if (List.range (2 ^ p.log)).all (fun k => p.par.p ≤ sib + k || passes e a root (sib + k)) then none
        else some (sadCount (forwardPart (dropPart s d p) d e p) d 3)
  else if a = root then some (finishPart (dropPart s d p) d e p)
  else none

/-- The first held partial of an instance to which a rule applies. -/
def settleFirst (s : State) (d : Nat) (e : Course) : List Partial → Option State
  | [] => none
  | p :: ps => match settlePart s d e p with
    | some s => some s
    | none => settleFirst s d e ps

/-- Applies the rules of R256 to an instance's partials until none applies; each application uses up a span of its tree. -/
def settle (d : Nat) (e : Course) (key : CollKey) : Nat → State → State
  | 0, s => s
  | n + 1, s =>
    match settleFirst s d e ((bridge s d).eng.held.filter (fun p => p.key = key)) with
    | some s => settle d e key n s
    | none => s

/-- A partial is complete at an engine (10 R256, R257). -/
def takePart (s : State) (d : Nat) (e : Course) (p : Partial) : State :=
  if spanTaken s d p.key p.lo p.log then sadSpan s d
  else settle d e p.key 256 (holdPart s d p)

end Sys2Proof.Machine
end

