-- ==== Sys2Proof/Machine/Staging.lean ====
section
/-! DEFINITION. Staging of a Saddle engine: which frames it holds, and the page or the spill lines each stands in (07 R204; 10 R258,
R272). -/
namespace Sys2Proof.Machine

/-- The instance of a frame (11 R286). -/
def frameKey (f : Frame) : CollKey :=
  ⟨argCt (fArg f), argPos (fArg f), argStep (fArg f), (fSub f).seq, if fType f = 0x15 then tokenChunk else (fSub f).chunk⟩

/-- Frames an engine's partials, gathers and kept pieces stand in (10 R258, R272). -/
def stagedFrames (s : State) (d : Nat) : List Frame :=
  let g := (bridge s d).eng
  g.gather.flatMap (·.frames) ++
    g.held.flatMap (fun p => legFrames (partSpec s d p) (partItems s d p) ⟨engineEpid s d, 0, none, 0⟩) ++
    g.kept.flatMap (fun k => engPiece s d k.key k.par k.arg k.rank k.pflags k.data)

/-- Whether two frames are the same part of one instance: a partial that is gathered stays where its frames stand. -/
def sameStage (f g : Frame) : Bool :=
  frameKey f = frameKey g && (fSub f).lo = (fSub g).lo && (fSub f).log = (fSub g).log && (fSub f).eoff = (fSub g).eoff

def placeLines : Place → List Nat
  | .lines ls => ls
  | _ => []

/-- Spill lines an engine's staging holds. -/
def overflowLines (s : State) (d : Nat) : List Nat := (bridge s d).eng.places.flatMap (fun x => placeLines x.2)

/-- General pages in use. -/
def generalPages (ps : List (Frame × Place)) : Nat := (ps.filter (fun x => x.2 = .general)).length

/-- The entry of the stream table a frame of an engine belongs to, or would open. -/
def entryOf (rows : List StreamRow) (f : Frame) : Nat :=
  match rows.find? (isRow f) with
  | some r => r.slot
  | none => freeSlot rows

/-- The first place that can take a new frame (10 R272): the page of its stream's entry, a general page, overflow lines while spill is
enabled; a result for which there is none stands nowhere (DESIGN CHOICE, log 77). -/
def findPlace (s : State) (d : Nat) (slot : Option Nat) (f : Frame) : State × Place :=
  let ps := (bridge s d).eng.places
  let own := slot.filter (fun n => n < 1024 && !ps.any (fun x => x.2 = .page n))
  match own with
  | some n => (s, .page n)
  | none =>
    if generalPages ps < 1024 then (s, .general)
    else if spillRoom s d (flitsOf f) then
      let ls := freeLines (bridge s d).lines (flitsOf f)
      let s := sadCount (setLines s d ((bridge s d).lines ++ ls)) d 4
      (spillWriteLines s d f ls, .lines ls)
    else (s, .none)

/-- A staged frame takes a place. -/
def stageFrame (slot : Frame → Option Nat) (d : Nat) (s : State) (f : Frame) : State :=
  let (s, p) := findPlace s d (slot f) f
  modEng s d (fun g => { g with places := g.places ++ [(f, p)] })

/-- Places that are given up free their lines (10 R272). -/
def keepPlaces (s : State) (d : Nat) (keep : Frame → Bool) : State :=
  let gone := (bridge s d).eng.places.filter (fun x => !keep x.1)
  let freed := gone.flatMap (fun x => placeLines x.2)
  let s := if freed.isEmpty then s else setLines s d ((bridge s d).lines.filter (fun k => !freed.contains k))
  modEng s d (fun g => { g with places := g.places.filter (fun x => keep x.1) })

/-- Brings places, pages and overflow lines up to date after a change of what is staged (10 R272, SAD_STAT); `slot` gives the entry of
the stream table of a frame that has just come. -/
def restage (s : State) (d : Nat) (slot : Frame → Option Nat) : State :=
  let fs := stagedFrames s d
  let s := keepPlaces s d (fun f => fs.any (sameStage f))
  let had := (bridge s d).eng.places
  let s := (fs.filter (fun f => !had.any (fun x => sameStage f x.1))).foldl (stageFrame slot d) s
  let ps := (bridge s d).eng.places
  let a := dcs d 0x100000
  let pages := (ps.filter (fun x => match x.2 with | .page _ => true | .general => true | _ => false)).length
  regSetBits (regSetBits (regSetBits s a 11 0 pages) a 42 16 (overflowLines s d).length) a 58 48 (bridge s d).eng.streams.length

/-- Whether an engine can hold one more frame (10 R272, 07 R204). -/
def engineRoom (s : State) (d : Nat) (f : Frame) : Bool :=
  let g := (bridge s d).eng
  let n := entryOf g.streams f
  rowRoom 1024 g.streams f &&
    ((decide (n < 1024) && !g.places.any (fun x => x.2 = .page n)) || decide (generalPages g.places < 1024) ||
      spillRoom s d (flitsOf f))

/-- Frames on their way to an engine: selected for its output at any Bridge, or at its input. -/
def boundFor (s : State) (d : Nat) : Nat :=
  (bridge s d).eng.inq.length + (s.bridges.map (fun b => (smGet Sched.reset b.2.scheds (37 + (d - 64))).flight.length)).sum

/-- Whether an engine has space for a frame that would be selected for it now (09 R237, 10 R272): frames on their way take general
pages first (DEDUCED, log 77). -/
def engineSpace (s : State) (d : Nat) (f : Frame) : Bool :=
  let n := boundFor s d
  if n = 0 then engineRoom s d f
  else rowRoom (1024 - n) (bridge s d).eng.streams f && decide (generalPages (bridge s d).eng.places + n < 1024)

end Sys2Proof.Machine
end

