-- ==== Sys2Proof/Machine/Egress.lean ====
section
/-! DEFINITION. The switch commands of a Bridge: admission, spill, refill, the schedulers with their shapers, departure, and
direct epoch writes (08 R221 to R234; 09 R236 to R246). -/
namespace Sys2Proof.Machine

-- Shapers -----------------------------------------------------------------------------------------------------------

/-- A shaper or policer of die `d` whose registers start at `base` (0x200 or 0x900): address of class `c`'s tokens. -/
def tokAddr (d base c : Nat) : Nat := dcs d (base + 0x20 * c + 0x10)

/-- One cycle's refill of an enabled bucket pair (09 R243). -/
def refillTokens (s : State) (d base c : Nat) (sh : Shaper) : State :=
  if !sh.en then s
  else
    let a := tokAddr d base c
    let tc := min (max 4160 sh.cbs * 256) (regBits s a 31 0 + max 1 sh.cir)
    let tp := min (max 4160 sh.pbs * 256) (regBits s a 63 32 + max 1 sh.pir)
    regPutNat s a (tc + tp * 2 ^ 32) 2

/-- Colour of a frame of `b` bytes: 0 green, 1 yellow, 2 red (09 R244). -/
def colour (s : State) (d base c : Nat) (sh : Shaper) (b : Nat) : Nat :=
  if !sh.en then 0
  else
    let a := tokAddr d base c
    if regBits s a 63 32 < 256 * b then 2 else if regBits s a 31 0 < 256 * b then 1 else 0

/-- The debit of a frame by its colour (09 R245). -/
def debit (s : State) (d base c : Nat) (sh : Shaper) (t b : Nat) : State :=
  if !sh.en then s
  else
    let a := tokAddr d base c
    let tc := if t = 0 then regBits s a 31 0 - 256 * b else regBits s a 31 0
    regPutNat s a (tc + (regBits s a 63 32 - 256 * b) * 2 ^ 32) 2

/-- The staged values of class `c` (09 R246). -/
def stagedShaper (s : State) (d base c : Nat) : Shaper :=
  let r := dcs d (base + 0x20 * c)
  ⟨regBits s r 23 0, regBits s r 55 32, regBits s (r + 8) 23 0, regBits s (r + 8) 55 32, regBits s r 31 31 = 1⟩

/-- The tokens after a commit: full or empty (09 R246). -/
def committedTokens (s : State) (d base c : Nat) (full : Bool) (sh : Shaper) : State :=
  regPutNat s (tokAddr d base c)
    (if full then max 4160 sh.cbs * 256 + max 4160 sh.pbs * 256 * 2 ^ 32 else 0) 2

/-- A commit of the masked classes (09 R246): the configurations in force and the tokens. -/
def commitShapers (s : State) (d base mask : Nat) (full : Bool) (old : List Shaper) : State × List Shaper :=
  (List.range 4).foldl (fun (a : State × List Shaper) c =>
    if bitAt mask c then
      let sh := stagedShaper a.1 d base c
      (committedTokens a.1 d base c full sh, a.2.set c sh)
    else a) (s, old)

def shaperOf (shs : List Shaper) (c : Nat) : Shaper := (shs[c]?).getD Shaper.reset

/-- A write of BRG_SHPCMT (09 R246). -/
def shaperWrite (s : State) (d v : Nat) : State :=
  let (s, shs) := commitShapers s d 0x200 (v % 16) (bitAt v 4) (bridge s d).shapers
  modBridge s d (fun b => { b with shapers := shs })

def execShaperCommit (d : Nat) (v : BitVec 32) (s : State) : Out :=
  bridgeWrite (.shaperCommit d v) d s (fun s => shaperWrite s d v.toNat)

-- Selection ---------------------------------------------------------------------------------------------------------

/-- Whether output `o` is scheduled at Bridge `d` (09 R236). -/
def schedHere (d o : Nat) : Bool := o = d - 64 || (36 ≤ o && o < 75)

/-- Payload bytes of the answer a request will need (12 R313, R314). -/
def answerLen (f : Frame) : Nat :=
  if fType f = 2 then 8 * fAop f else if fType f = 4 ∧ bitAt (fAop f) 5 = true then 8 else 0

/-- The buffer a Bridge reserves for the answer to a request before SVC-REQ takes it (12 R322). -/
def answerPool (s : State) (d : Nat) (f : Frame) : Option Nat := fittingPool s d (min 4096 (answerLen f))

/-- Whether the output can accept the whole frame (09 R237): a link by its credits, an engine by its staging (10 R272), SVC-REQ when a
buffer for the answer can be reserved (12 R322). FRM-IN and the edge dies always take a frame (DESIGN CHOICE, log 74). -/
def eligible (s : State) (d o : Nat) (k : Cand) : Bool :=
  if o < 36 then linkState s d = lsUP && decide (flitsOf k.frame ≤ ((bridge s d).link.credits[k.vl]?).getD 0)
  else if o = 36 then !isMfReq (fType k.frame) || (answerPool s d k.frame).isSome
  else if o < 73 then engineSpace s (64 + (o - 37)) k.frame
  else true

/-- inner_pick of R241. -/
def innerPick : List Cand → Option Cand
  | [] => none
  | k :: ks => match innerPick ks with
    | none => some k
    | some j => if tagBefore j.tag k.tag then some j else some k

/-- Queues that wake take the later of the virtual time and their last finish tag (09 R242). -/
def wakeVoqs (s : State) (u : BitVec 48) (ks : List Cand) : State :=
  ks.foldl (fun s k =>
    let v := voq s k.die k.q
    if v.awake then s else setVoq s k.die k.q { v with awake := true, tagS := tagLater u v.tagF }) s

def wakeAll (s : State) (d o : Nat) : State :=
  (List.range 4).foldl (fun s c =>
    let ks := cands s d o c
    if ks.isEmpty then s
    else
      let x := sched s d o
      let s := wakeVoqs s (tagAt x.u c) ks
      if (x.awake[c]?).getD false then s
      else setSched s d o { x with awake := x.awake.set c true, tagS := x.tagS.set c (tagLater x.v (tagAt x.tagF c)) }) s

/-- Marks the head of a candidate's VOQ. -/
def markHead (s : State) (k : Cand) (sel stall red : Bool) : State :=
  match k.rx with
  | some n => modBridge s k.die (fun b => { b with recv := b.recv.map (fun e =>
      if e.num = n then { e with sel := e.sel || sel, stall := e.stall || stall, red := e.red || red } else e) })
  | none =>
    let v := voq s k.die k.q
    let rec go : List Held → List Held
      | [] => []
      | h :: hs => if h.sel then h :: go hs
        else { h with sel := h.sel || sel, stall := h.stall || stall, red := h.red || red } :: hs
    setVoq s k.die k.q { v with sram := go v.sram }

/-- Counts the heads that find too few credits, once each (08 R235). -/
def countStalls (s : State) (d o c : Nat) : State :=
  if 36 ≤ o then s
  else (cands s d o c).foldl (fun s k =>
    if k.stall || eligible s d o k then s else brgCount (markHead s k false true false) d (20 + c) 1) s

/-- The tier of a class's candidate; 0 where no shaper stands (09 R240). -/
def tierOf (s : State) (d o c : Nat) (k : Cand) : Nat :=
  if o < 36 then colour s d 0x200 c (shaperOf (bridge s d).shapers c) (64 * flitsOf k.frame) else 0

/-- One class of the scan of R240 against the best so far: a lower tier, or in the same tier an earlier start tag, takes its place. -/
def outerStep (x : Sched) (best : Option (Nat × Nat × Cand)) (k : Nat × Nat × Cand) : Option (Nat × Nat × Cand) :=
  match best with
  | none => some k
  | some j =>
    if k.2.1 < j.2.1 ∨ (k.2.1 = j.2.1 ∧ tagBefore (tagAt x.tagS k.1) (tagAt x.tagS j.1)) then some k else some j

/-- The class chosen, in ascending class code (09 R240). -/
def outerPick (x : Sched) (ks : List (Nat × Nat × Cand)) : Option (Nat × Nat × Cand) := ks.foldl (outerStep x) none

/-- Outer weight of a class (09 BRG_SCHWT). -/
def weightOf (s : State) (d c : Nat) : Nat := max 1 (regBits s (dcs d 0x300) (8 * c + 7) (8 * c))

/-- The tags after a selection (09 R240, R242). -/
def advanceTags (s : State) (d o c : Nat) (k : Cand) : State :=
  let n := flitsOf k.frame
  let x := sched s d o
  let v := tagAt x.tagS c
  let f := v + tagIncr n (weightOf s d c)
  let more := !(cands s d o c).isEmpty
  let q := voq s k.die k.q
  let left := voqHolds s k.die k.q
  let fq := q.tagS + tagIncr n 1
  let s := setVoq s k.die k.q { q with tagF := fq, tagS := if left then fq else q.tagS, awake := left }
  let u := if more then q.tagS else latestInner s d o c
  let x := { x with v := v, tagF := x.tagF.set c f, tagS := if more then x.tagS.set c f else x.tagS
                    u := x.u.set c u, awake := x.awake.set c more }
  let x := if outputIdle s d o then { x with v := x.tagF.foldl tagLater (tagAt x.tagF 0) } else x
  let s := setSched s d o x
  if o < 36 then regPutNat s (dcs d 0x308) x.v.toNat 2 else s

/-- The entry of a frame selected for an output: it enters the Nut ring at its Bridge (01 R17, R20; 09 R238). -/
def flightOf (s : State) (d o : Nat) (k : Cand) : InFlight :=
  ⟨k.die, k.q, k.rx, flitsOf k.frame, if o = 36 ∧ isMfReq (fType k.frame) = true then answerPool s d k.frame else none,
   ringWay k.die (ringExit k.die o)⟩

/-- What a selection does to the frame: credits, the buffer for its answer, in flight (09 R238, 12 R322). -/
def takeSelected (s : State) (d o : Nat) (k : Cand) : State :=
  let i := flightOf s d o k
  let s := markHead s k true false false
  let s := if o < 36 then modLink s d (fun l => { l with credits := l.credits.modify k.vl (· - i.flits) }) else s
  let s := match i.rsv with | some p => poolAdd s d p (-1) | none => s
  let x := sched s d o
  setSched s d o { x with flight := x.flight ++ [i] }

/-- One Bridge cycle on the Nut ring: each frame in flight for the output moves on by one segment (01 R17; DESIGN CHOICE, log 76). -/
def ringMove (s : State) (d o : Nat) : State :=
  let x := sched s d o
  if x.flight.all (fun i => i.hops.isEmpty) then s
  else setSched s d o { x with flight := x.flight.map (fun i => { i with hops := i.hops.drop 1 }) }

/-- Counts of shaper outcomes (09 R250). -/
def shpCount (s : State) (d n : Nat) : State := regCount s (dcs d (0x4200 + 8 * n)) 1

/-- select() of R240. -/
def selectOut (s : State) (d o : Nat) : State :=
  let s := ringMove s d o
  let s := if o < 36 then (List.range 4).foldl (fun s c => refillTokens s d 0x200 c (shaperOf (bridge s d).shapers c)) s else s
  let s := wakeAll s d o
  let s := (List.range 4).foldl (fun s c => countStalls s d o c) s
  if o < 36 ∧ 4 ≤ (sched s d o).flight.length then s
  else
    let picks := (List.range 4).filterMap (fun c =>
      (innerPick ((cands s d o c).filter (eligible s d o))).map (fun k => (c, tierOf s d o c k, k)))
    let s := picks.foldl (fun s p =>
      if p.2.1 = 2 ∧ p.2.2.red = false then shpCount (markHead s p.2.2 false false true) d (8 + p.1) else s) s
    match outerPick (sched s d o) (picks.filter (fun p => p.2.1 ≠ 2)) with
    | none => s
    | some (c, t, k) =>
      let sh := shaperOf (bridge s d).shapers c
      let s := if o < 36 then shpCount (debit s d 0x200 c sh t (64 * flitsOf k.frame)) d (4 * t + c) else s
      advanceTags (takeSelected s d o k) d o c k

-- Departure ---------------------------------------------------------------------------------------------------------

/-- Takes the frame in flight out of its buffer: the frame, and its buffer freed or its credits returned (08 R222,
R223). -/
def unbuffer (s : State) (x : InFlight) : State × Option Frame :=
  match x.rx with
  | some n =>
    match (bridge s x.die).recv.find? (fun e => e.num = n) with
    | some e => (dropRx s x.die e, (e.copies.head?).map (·.frame))
    | none => (s, none)
  | none =>
    let v := voq s x.die x.q
    match v.sram with
    | h :: hs => (poolAdd (setVoq s x.die x.q { v with sram := hs }) x.die h.pool 1, some h.frame)
    | [] => (s, none)

/-- A frame read out of frame SRAM leaves: one with an uncorrectable payload flit carries CORRUPT; one with an uncorrectable header is
consumed, and what it had taken comes back; of its two faults the record keeps the lower (08 R235; 17 R437, R444). -/
def departFrame (s : State) (d o : Nat) (i : InFlight) (f : Frame) : State :=
  let (s, hdr, pay) := sramRead s i.die 4 [f.hdr.toNat]
  if hdr then
    let s := recordSram (brgCount (recordBrg s i.die 0x20) i.die 35 1) i.die 4 0
    if o < 36 then modLink s d (fun l => { l with credits := l.credits.modify (i.q % 12) (· + flitsOf f) })
    else match i.rsv with | some p => poolAdd s d p 1 | none => s
  else
    let s := if pay then recordSram s i.die 4 1 else s
    let f := if pay then fSet f 71 71 1 else f
    if o < 36 then handToLink s d i.die i.q f else deliver s d o i.rsv f

/-- The last flit of the oldest frame in flight leaves, having come the rest of its way on the ring (01 R17; 08 R223). -/
def departOut (s : State) (d o : Nat) : State :=
  let x := sched s d o
  match x.flight with
  | [] => s
  | i :: is =>
    let (s, f) := unbuffer (setSched s d o { x with flight := is }) i
    match f with
    | none => s
    | some f => departFrame s d o i f

-- Commands ----------------------------------------------------------------------------------------------------------

def execFrameAdmit (d : Nat) (port : Port) (v : Nat) (s : State) : Out :=
  if 12 ≤ v then .refused (.noSuchUnit "virtual lane")
  else bridgeCmd d s (fun s =>
    match laneHead s d port v with
    | some e => if e.checked then s else admitEntry s d e
    | none => s)

def execFrameAdmitRetry (d : Nat) (s : State) : Out := bridgeCmd d s (fun s => retryWaiting s d)

def execSpillAdmit (d : Nat) (s : State) : Out := bridgeCmd d s (fun s => spillDone s d)

def execRefill (d q : Nat) (s : State) : Out :=
  if 1800 ≤ q then .refused (.noSuchUnit "virtual output queue") else bridgeCmd d s (fun s => restQueues (refillVoq s d q))

/-- One Bridge cycle of the scheduler of output `o` at Bridge `d` (09 R236, R240). -/
def execEgressSelect (d o : Nat) (s : State) : Out :=
  if isBridge d && !schedHere d o then .refused (.noSuchUnit "scheduler") else bridgeCmd d s (fun s => selectOut s d o)

def execFrameDepart (d o : Nat) (s : State) : Out :=
  if isBridge d && !schedHere d o then .refused (.noSuchUnit "scheduler") else bridgeCmd d s (fun s => departOut s d o)

-- Epochs ------------------------------------------------------------------------------------------------------------

/-- Whether an epoch write discards a frame: REQ, RSP and COL (08 R234). -/
def epochDrops (f : Frame) : Bool := fCls f ≠ 3

/-- Discards the REQ, RSP and COL frames of one VOQ: buffers and lines are free again (08 R234). -/
def discardVoq (s : State) (d q : Nat) : State :=
  let v := voq s d q
  if q % 12 / 3 = 3 then s
  else
    let s := setVoq s d q { v with sram := [], spill := [], refills := false, reading := none }
    let s := match v.reading with | some p => poolAdd s d p 1 | none => s
    let s := v.sram.foldl (fun s h => poolAdd s d h.pool 1) s
    let s := v.spill.foldl (fun s x => freeTail (match x.held with | some h => poolAdd s d h.pool 1 | none => s) d x) s
    brgCount s d 36 (v.sram.length + v.spill.length)

/-- Discards a Bridge's REQ, RSP and COL frames in receive space, SRAM and spill, returning credits and buffers, and empties its
engine (07 R207; 08 R234; 10 R274). -/
def discardFrames (s : State) (d : Nat) : State :=
  let s := dropFlights s (fun i => i.die = d && i.q % 12 / 3 ≠ 3)
  let b := bridge s d
  let gone := b.recv.filter (fun e => epochDrops e.frame)
  let s := gone.foldl (fun s e => dropRx s d e) s
  let s := brgCount s d 36 gone.length
  let s := b.voqs.foldl (fun s x => discardVoq s d x.1) s
  let sp := b.spilling.filter (fun x => epochDrops x.frame)
  let s := if sp.isEmpty then s
    else setLines s d ((bridge s d).lines.filter (fun k => !(sp.flatMap (·.lines)).contains k))
  modBridge s d (fun b => { b with
    spilling := b.spilling.filter (fun x => !epochDrops x.frame)
    eng := { b.eng with inq := [], streams := [], gather := [], held := [], done := [], kept := [], used := [], bad := [] } })

/-- The frames handed to a link at a discard, of whose flits `n` are in the retry buffer: what is discarded, what stays. A frame not
yet begun goes at once; one with a flit in the retry buffer is a frame no more, but its numbered flits stay until they are
acknowledged, as 18 R471 needs them (08 R234; DEDUCED, log 30). -/
def discardSent : Nat → List Sent → List Sent × List Sent
  | _, [] => ([], [])
  | n, x :: xs =>
    let (gone, left) := discardSent (n - x.left) xs
    if !epochDrops x.frame || x.dead then (gone, x :: left)
    else if n = 0 then (x :: gone, left)
    else (gone, { x with dead := true } :: left)

/-- The discard in what is handed to the link: credits of frames that will not be sent come back, and STALE counts (08 R234, R235). -/
def discardRetry (s : State) (d : Nat) : State :=
  let l := (bridge s d).link
  let (gone, left) := discardSent l.inBuf l.sent
  let died := (left.filter (·.dead)).length - (l.sent.filter (·.dead)).length
  let s := modLink s d (fun l => { l with
    sent := left
    credits := gone.foldl (fun cs x => cs.modify (x.q % 12) (· + flitsOf x.frame)) l.credits })
  brgCount s d 36 (gone.length + died)

/-- The effect of a new epoch on one Bridge (08 R234). -/
def epochBridge (s : State) (d v : Nat) : State :=
  let s := regSetBits s (dcs d 0x120) 7 0 v
  discardRetry (discardFrames s d) d

end Sys2Proof.Machine
end

