-- ==== Sys2Proof/Machine/Scalar.lean ====
section
/-! DEFINITION. The scalar integer, predicate and control instructions (05 R135, R140 to R142). -/
namespace Sys2Proof.Machine

/-- A register-register integer instruction with latency `t` (05 R140, 04 R98). -/
def aluRR (c t : Nat) (op : Word → Word → Word) (f : FmtR) (_ : State) (k : Core) : Plan :=
  .reading [regWords [f.ra.toNat, f.rb.toNat]]
  (match sReg f.rd, sReg f.ra, sReg f.rb with
   | some d, some a, some b => onCore c nSIU (fun n x => addWb x (n + t) (.s d) (op (sGet k a) (sGet k b)).toNat)
   | _, _, _ => Plan.bad)

/-- A register-immediate integer instruction. -/
def aluRI (c : Nat) (op : Word → Word → Word) (f : FmtI) (_ : State) (k : Core) : Plan :=
  .reading [regWords [f.ra.toNat]]
  (match sReg f.rd, sReg f.ra with
   | some d, some a => onCore c nSIU (fun n x => addWb x (n + 1) (.s d) (op (sGet k a) f.imm).toNat)
   | _, _ => Plan.bad)

/-- A predicate instruction of two sources. -/
def predRR (c : Nat) (op : Bool → Bool → Bool) (f : FmtR) (_ : State) (k : Core) : Plan :=
  match pReg f.rd, pReg f.ra, pReg f.rb with
  | some d, some a, some b =>
    onCore c nSIU (fun n x => addWb x (n + 1) (.p d) (if op (pGet k a) (pGet k b) then 1 else 0))
  | _, _, _ => Plan.bad

/-- Shifts take the low five bits of the count (05 R140). -/
def shl32 (a b : Word) : Word := a <<< (b.toNat % 32)
def shr32 (a b : Word) : Word := a >>> (b.toNat % 32)
def sra32 (a b : Word) : Word := a.sshiftRight (b.toNat % 32)
def minS32 (a b : Word) : Word := if a.slt b then a else b
def maxS32 (a b : Word) : Word := if a.slt b then b else a
def minU32 (a b : Word) : Word := if a.ult b then a else b
def maxU32 (a b : Word) : Word := if a.ult b then b else a
/-- High word of the signed product. -/
def mulHi (a b : Word) : Word := BitVec.ofInt 32 (a.toInt * b.toInt / 2 ^ 32)
/-- High word of the unsigned product. -/
def mulHiU (a b : Word) : Word := BitVec.ofNat 32 (a.toNat * b.toNat / 2 ^ 32)

def execAdd (c : Nat) (p : Pred) (f : FmtR) (s : State) : Out := issue c p (residue 3 (aluRR c 1 (· + ·) f)) s
def execSub (c : Nat) (p : Pred) (f : FmtR) (s : State) : Out := issue c p (residue 3 (aluRR c 1 (· - ·) f)) s
def execAnd (c : Nat) (p : Pred) (f : FmtR) (s : State) : Out := issue c p (aluRR c 1 (· &&& ·) f) s
def execOr (c : Nat) (p : Pred) (f : FmtR) (s : State) : Out := issue c p (aluRR c 1 (· ||| ·) f) s
def execXor (c : Nat) (p : Pred) (f : FmtR) (s : State) : Out := issue c p (aluRR c 1 (· ^^^ ·) f) s
def execShl (c : Nat) (p : Pred) (f : FmtR) (s : State) : Out := issue c p (aluRR c 1 shl32 f) s
def execShr (c : Nat) (p : Pred) (f : FmtR) (s : State) : Out := issue c p (aluRR c 1 shr32 f) s
def execSra (c : Nat) (p : Pred) (f : FmtR) (s : State) : Out := issue c p (aluRR c 1 sra32 f) s
def execMin (c : Nat) (p : Pred) (f : FmtR) (s : State) : Out := issue c p (aluRR c 1 minS32 f) s
def execMax (c : Nat) (p : Pred) (f : FmtR) (s : State) : Out := issue c p (aluRR c 1 maxS32 f) s
def execMinu (c : Nat) (p : Pred) (f : FmtR) (s : State) : Out := issue c p (aluRR c 1 minU32 f) s
def execMaxu (c : Nat) (p : Pred) (f : FmtR) (s : State) : Out := issue c p (aluRR c 1 maxU32 f) s
def execMul (c : Nat) (p : Pred) (f : FmtR) (s : State) : Out := issue c p (residue 3 (aluRR c 3 (· * ·) f)) s
def execMulh (c : Nat) (p : Pred) (f : FmtR) (s : State) : Out := issue c p (residue 3 (aluRR c 3 mulHi f)) s
def execMulhu (c : Nat) (p : Pred) (f : FmtR) (s : State) : Out := issue c p (residue 3 (aluRR c 3 mulHiU f)) s

def execAddi (c : Nat) (p : Pred) (f : FmtI) (s : State) : Out := issue c p (residue 3 (aluRI c (· + ·) f)) s
def execAndi (c : Nat) (p : Pred) (f : FmtI) (s : State) : Out := issue c p (aluRI c (· &&& ·) f) s
def execOri (c : Nat) (p : Pred) (f : FmtI) (s : State) : Out := issue c p (aluRI c (· ||| ·) f) s
def execXori (c : Nat) (p : Pred) (f : FmtI) (s : State) : Out := issue c p (aluRI c (· ^^^ ·) f) s
def execShli (c : Nat) (p : Pred) (f : FmtI) (s : State) : Out := issue c p (aluRI c shl32 f) s
def execShri (c : Nat) (p : Pred) (f : FmtI) (s : State) : Out := issue c p (aluRI c shr32 f) s
def execSrai (c : Nat) (p : Pred) (f : FmtI) (s : State) : Out := issue c p (aluRI c sra32 f) s

/-- LI loads the immediate (05 R140). -/
def planLi (c : Nat) (f : FmtI) (_ : State) (_ : Core) : Plan :=
  match (if f.fn = 0 then sReg f.rd else none) with
  | some d => onCore c nSIU (fun n x => addWb x (n + 1) (.s d) f.imm.toNat)
  | none => Plan.bad

def execLi (c : Nat) (p : Pred) (f : FmtI) (s : State) : Out := issue c p (planLi c f) s

/-- The conditions of ICMP by FN; others are unlisted (05 R140). -/
def icmpCond (fn : Nat) (a b : Word) : Option Bool :=
  match fn with
  | 0 => some (a = b)
  | 1 => some (a ≠ b)
  | 2 => some (a.slt b)
  | 3 => some (a.sle b)
  | 4 => some (a.ult b)
  | 5 => some (a.ule b)
  | _ => none

def planIcmp (c : Nat) (f : FmtR) (_ : State) (k : Core) : Plan :=
  match pReg f.rd, sReg f.ra, sReg f.rb with
  | some d, some a, some b =>
    match icmpCond f.fn.toNat (sGet k a) (sGet k b) with
    | some r => .reading [regWords [f.ra.toNat, f.rb.toNat]] (onCore c nSIU (fun n x => addWb x (n + 1) (.p d) (if r then 1 else 0)))
    | none => Plan.bad
  | _, _, _ => Plan.bad

def execIcmp (c : Nat) (p : Pred) (f : FmtR) (s : State) : Out := issue c p (planIcmp c f) s

def execPand (c : Nat) (p : Pred) (f : FmtR) (s : State) : Out := issue c p (predRR c (· && ·) f) s
def execPor (c : Nat) (p : Pred) (f : FmtR) (s : State) : Out := issue c p (predRR c (· || ·) f) s
def execPxor (c : Nat) (p : Pred) (f : FmtR) (s : State) : Out := issue c p (predRR c xor f) s

/-- PNOT uses p[RA] only (05 R140). -/
def planPnot (c : Nat) (f : FmtR) (_ : State) (k : Core) : Plan :=
  match pReg f.rd, pReg f.ra with
  | some d, some a => onCore c nSIU (fun n x => addWb x (n + 1) (.p d) (if pGet k a then 0 else 1))
  | _, _ => Plan.bad

def execPnot (c : Nat) (p : Pred) (f : FmtR) (s : State) : Out := issue c p (planPnot c f) s

/-- The offset and width of CSRR and CSRW: IMM[8:0] alone; FN is 0; SZ 0 is 32 bits, SZ 1 is 64 (05 R140). The rule gives no other SZ
and names no fault for one: ILLEGAL_INSTRUCTION (DESIGN CHOICE, log 78). -/
def csrForm (f : FmtI) : Option (Nat × Nat) :=
  if f.fn ≠ 0 then none
  else match f.sz.toNat with
  | 0 => some (f.imm.toNat % 512, 4)
  | 1 => some (f.imm.toNat % 512, 8)
  | _ => none

/-- CSRR: the register's value as it stands at issue, to s[RD] or the pair (05 R140). -/
def planCsrr (c : Nat) (f : FmtI) (s : State) (k : Core) : Plan :=
  match csrForm f with
  | none => Plan.bad
  | some (off, size) =>
    match scalarDst (8 * size) f.rd with
    | none => Plan.bad
    | some d =>
      let i := coreIdle s c
      let v := (csrRead32 i k off).toNat + (if size = 8 then 2 ^ 32 * (csrRead32 i k (off + 4)).toNat else 0)
      onCore c nSIU (fun n x => putScalar (8 * size) x (n + 1) d v) (if off % size = 0 then [] else [0x04])

def execCsrr (c : Nat) (p : Pred) (f : FmtI) (s : State) : Out := issue c p (planCsrr c f) s

/-- CSRW takes effect at i + 1, before the flags hardware sets in that cycle (05 R141). -/
def planCsrw (c : Nat) (f : FmtI) (_ : State) (k : Core) : Plan :=
  match csrForm f with
  | none => Plan.bad
  | some (off, size) =>
    match scalarSrc k (8 * size) f.ra with
    | none => Plan.bad
    | some v =>
      .reading [regWords (srcCodes (8 * size) f.ra)]
        (onCore c nSIU (fun n x => addWb x (n + 1) (.csr off size) v) (if off % size = 0 then [] else [0x04]))

def execCsrw (c : Nat) (p : Pred) (f : FmtI) (s : State) : Out := issue c p (planCsrw c f) s

/-- RDID: logical core, tile die ID, module index, step index, or the issue cycle to a pair, by FN (05 R140). -/
def planRdid (c : Nat) (f : FmtI) (s : State) (_ : Core) : Plan :=
  let t := tileOf c
  let one := fun (v : Nat) => match sReg f.rd with
    | some d => onCore c nSIU (fun n x => addWb x (n + 1) (.s d) v)
    | none => Plan.bad
  match f.fn.toNat with
  | 0 => one (lcOf c)
  | 1 => one t
  | 2 => one (tileReg s t 0x808).toNat
  | 3 => one (tileReg s t 0x80C).toNat
  | 4 => match sPair f.rd with
    | some d => onCore c nSIU (fun n x => addPair x (n + 1) d n)
    | none => Plan.bad
  | _ => Plan.bad

def execRdid (c : Nat) (p : Pred) (f : FmtI) (s : State) : Out := issue c p (planRdid c f) s

/-- NOP issues and does nothing (05 R135). -/
def execNop (c : Nat) (s : State) : Out := issue c ⟨false, false, 0⟩ (fun _ _ => {}) s

/-- BR: two delay slots, then TARGET (04 R100, 05 R142). -/
def planBr (c : Nat) (f : FmtC) (_ : State) (_ : Core) : Plan :=
  onCore c nSIU (fun _ x => { x with brs := x.brs ++ [(2, f.target.toNat)] })

def execBr (c : Nat) (p : Pred) (f : FmtC) (s : State) : Out := issue c p (planBr c f) s

/-- BRR: the index in s[RA][10:0]; bits [31:11] must be zero (05 R142). -/
def planBrr (c : Nat) (f : FmtC) (_ : State) (k : Core) : Plan :=
  match sReg f.ra with
  | none => Plan.bad
  | some a =>
    let t := (sGet k a).toNat
    .reading [regWords [f.ra.toNat]]
      (onCore c nSIU (fun _ x => { x with brs := x.brs ++ [(2, t)] }) (if t < 2048 then [] else [0x03]))

def execBrr (c : Nat) (p : Pred) (f : FmtC) (s : State) : Out := issue c p (planBrr c f) s

/-- A gate issued in cycle `n`, tested there (04 R123). -/
def addGate (k : Core) (n pc : Nat) (kind : GateKind) : Core :=
  let g : Gate := ⟨n, pc, kind, false⟩
  { k with gates := k.gates ++ [{ g with ok := gateSat k g }] }

/-- The fence side of a step end that begins in cycle `n` with every core halted: a core with a KEY_FAULT or ADDRESS answer to
come takes it at the gate point (05 R151, R153; 12 R321). -/
def haltFence (s : State) (n : Nat) : State :=
  mapCores s (fun _ k => if k.capo = 0 && k.naks.isEmpty then k else addGate k n k.pc .fence)

/-- HALT: the core issues nothing more until the next launch; after the last HALT the step-end test runs as if STEPEND
had issued in the cycle after it (04 R131, 05 R153). Not while a sparse instruction is outstanding (06 R160). -/
def planHalt (c : Nat) (_ : State) (k : Core) : Plan :=
  { clash := k.sparseOut
    eff := fun s =>
      let s := modCore s c (fun x => { x with halted := true })
      let n := s.plane.cyc + 1
      if (activeCores s).isEmpty then haltFence { s with plane := { s.plane with stepEnd := some n } } n else s }

def execHalt (c : Nat) (p : Pred) (_ : FmtC) (s : State) : Out := issue c p (planHalt c) s

/-- GATE: every named buffer must be armed (04 R123). -/
def planGate (c : Nat) (f : FmtC) (_ : State) (k : Core) : Plan :=
  let m := f.mask.toNat
  onCore c nSIU (fun n x => addGate x n k.pc (.gate m))
    (if (setBits m 16).all (fun b => (lbGet k b).armed) then [] else [0x0A])

def execGate (c : Nat) (p : Pred) (f : FmtC) (s : State) : Out := issue c p (planGate c f) s

/-- CAPO: the fence on outstanding memory-fabric requests (05 R151). -/
def planCapo (c : Nat) (_ : State) (k : Core) : Plan := onCore c nSIU (fun n x => addGate x n k.pc .capo)

def execCapo (c : Nat) (p : Pred) (_ : FmtC) (s : State) : Out := issue c p (planCapo c) s

/-- STEPEND begins the step end of its issue cycle; it covers every earlier request as a CAPO does (05 R151, R152). -/
def planStepend (c : Nat) (_ : State) (k : Core) : Plan :=
  { needs := nSIU
    clash := k.sparseOut
    eff := fun s =>
      let n := s.plane.cyc
      let s := modCore s c (fun x => addGate x n k.pc .fence)
      { s with plane := { s.plane with stepEnd := some n, stepOk := false } } }

def execStepend (c : Nat) (p : Pred) (_ : FmtC) (s : State) : Out :=
  if coreCount ≤ c then .refused (.noSuchUnit "core")
  else
    let s := openIssue s c
    .next (if canIssue s c then issueNow s c p (executes (coreOf s c) p) (planStepend c) else s)

end Sys2Proof.Machine
end

