-- ==== Sys2Proof/Machine/ScalarFp.lean ====
section
/-! DEFINITION. The scalar floating-point instructions and conversions (02 R36 to R54; 05 R140). Flags are raised in the
issue cycle (DEDUCED, log 14). -/
namespace Sys2Proof.Machine

/-- FP64 or FP32, the types of scalar and most vector arithmetic (05 R140): the format and its width. -/
def wideFmt (b : BitVec 5) : Option (FpFmt × Nat) :=
  match b.toNat with
  | 0 => some (fFP64, 64)
  | 1 => some (fFP32, 32)
  | _ => none

/-- What a floating-point operation of up to three operands gives. -/
abbrev FpOp := FpFmt → Rm → Nat → Nat → Nat → Nat × FFlags

/-- Latency of the scalar FP row (04 R98). -/
def fpT (w : Nat) : Nat := if w = 64 then 6 else 4

/-- A scalar floating-point instruction with `ar` operands on FPD, or on DIV when `dv` (05 R140, 04 R98). -/
def fpPlan (c ar : Nat) (dv : Bool) (op : FpOp) (f : FmtR) (_ : State) (k : Core) : Plan :=
  match wideFmt f.ty, rmOf k f.rm with
  | some (fmt, w), some rm =>
    let need := if dv then nDIV (if w = 64 then 26 else 12) else nFPD 1
    let t := if dv then (if w = 64 then 26 else 12) else fpT w
    let b := if ar < 2 then some 0 else scalarSrc k w f.rb
    let d := if ar < 3 then some 0 else scalarSrc k w f.rc
    match scalarDst w f.rd, scalarSrc k w f.ra, b, d with
    | some rd, some x, some y, some z =>
      let (r, fl) := op fmt rm x y z
      .reading [regWords (((List.range ar).zip [f.ra, f.rb, f.rc]).flatMap (fun x => srcCodes w x.2))]
        (onCore c need (fun n k => putScalar w (raiseFp k fl) (n + t) rd r))
    | _, _, _, _ => Plan.bad
  | _, _ => Plan.bad

def opAdd : FpOp := fun f rm a b _ => fpAdd f rm a b
def opSub : FpOp := fun f rm a b _ => fpSub f rm a b
def opMul : FpOp := fun f rm a b _ => fpMul f rm a b
def opFma : FpOp := fun f rm a b d => fpFma f rm a b d
def opDiv : FpOp := fun f rm a b _ => fpDiv f rm a b
def opSqrt : FpOp := fun f rm a _ _ => fpSqrt f rm a
def opMin : FpOp := fun f _ a b _ => fpMinMax f false a b
def opMax : FpOp := fun f _ a b _ => fpMinMax f true a b
def opMinNum : FpOp := fun f _ a b _ => fpMinMaxNum f false a b
def opMaxNum : FpOp := fun f _ a b _ => fpMinMaxNum f true a b
/-- Sign-bit operations: no flag, no quieting (05 R140). -/
def opNeg : FpOp := fun f _ a _ _ => (a ^^^ 2 ^ (fmtWidth f - 1), 0)
def opAbs : FpOp := fun f _ a _ _ => (a % 2 ^ (fmtWidth f - 1), 0)

def execFadd (c : Nat) (p : Pred) (f : FmtR) (s : State) : Out := issue c p (residue 15 (fpPlan c 2 false opAdd f)) s
def execFsub (c : Nat) (p : Pred) (f : FmtR) (s : State) : Out := issue c p (residue 15 (fpPlan c 2 false opSub f)) s
def execFmul (c : Nat) (p : Pred) (f : FmtR) (s : State) : Out := issue c p (residue 15 (fpPlan c 2 false opMul f)) s
def execFfma (c : Nat) (p : Pred) (f : FmtR) (s : State) : Out := issue c p (residue 15 (fpPlan c 3 false opFma f)) s
def execFdiv (c : Nat) (p : Pred) (f : FmtR) (s : State) : Out := issue c p (residue 15 (fpPlan c 2 true opDiv f)) s
def execFsqrt (c : Nat) (p : Pred) (f : FmtR) (s : State) : Out := issue c p (residue 15 (fpPlan c 1 true opSqrt f)) s
def execFmin (c : Nat) (p : Pred) (f : FmtR) (s : State) : Out := issue c p (fpPlan c 2 false opMin f) s
def execFmax (c : Nat) (p : Pred) (f : FmtR) (s : State) : Out := issue c p (fpPlan c 2 false opMax f) s
def execFminnum (c : Nat) (p : Pred) (f : FmtR) (s : State) : Out := issue c p (fpPlan c 2 false opMinNum f) s
def execFmaxnum (c : Nat) (p : Pred) (f : FmtR) (s : State) : Out := issue c p (fpPlan c 2 false opMaxNum f) s
def execFneg (c : Nat) (p : Pred) (f : FmtR) (s : State) : Out := issue c p (fpPlan c 1 false opNeg f) s
def execFabs (c : Nat) (p : Pred) (f : FmtR) (s : State) : Out := issue c p (fpPlan c 1 false opAbs f) s

/-- FCMP: a comparison into a predicate; it rounds nothing, but a reserved RM is illegal (02 R37, R41; 05 R140). FP64 and FP32
only, as R140 has it (DEDUCED, log 71). -/
def planFcmp (c : Nat) (f : FmtR) (_ : State) (k : Core) : Plan :=
  match wideFmt f.ty, fcondOf f.fn.toNat, rmOf k f.rm with
  | some (fmt, w), some cond, some _ =>
    match pReg f.rd, scalarSrc k w f.ra, scalarSrc k w f.rb with
    | some d, some x, some y =>
      let (r, fl) := fpCompare fmt cond x y
      .reading [regWords (srcCodes w f.ra ++ srcCodes w f.rb)]
        (onCore c (nFPD 1) (fun n k => addWb (raiseFp k fl) (n + fpT w) (.p d) (if r then 1 else 0)))
    | _, _, _ => Plan.bad
  | _, _, _ => Plan.bad

def execFcmp (c : Nat) (p : Pred) (f : FmtR) (s : State) : Out := issue c p (planFcmp c f) s

/-- The types the scalar unit converts (02 R33). -/
def scalarCvtTy (t : Ty) : Bool :=
  match t with
  | .fp64 => true | .fp32 => true | .fp16 => true | .bf16 => true
  | .int32 => true | .int8 => true | .uint8 => true | .int4 => true | _ => false

/-- A narrow integer in a 32-bit register: sign-extended if signed, else zero-extended (05 R140). The rule says nothing of FP16 and
BF16: zeros above them (DESIGN CHOICE, log 79). -/
def extendTo32 (t : Ty) (v : Nat) : Nat :=
  match intOfTy t with
  | some (w, true) => ofSigned 32 (toSigned w v)
  | _ => v

/-- FCVT: FN[4:0] names the source type, TY the target; latency by the wider type (02 R50 to R54, 05 R140). -/
def planFcvt (c : Nat) (f : FmtR) (_ : State) (k : Core) : Plan :=
  match tyOf f.ty, tyOfCode (f.fn.toNat % 32), rmOf k f.rm with
  | some dst, some src, some rm =>
    if !scalarCvtTy dst || !scalarCvtTy src then Plan.bad
    else
      let ws := tyWidth src
      let wd := tyWidth dst
      match scalarDst wd f.rd, scalarSrc k ws f.ra with
      | some d, some x =>
        let (r, fl) := (cvtTy src dst rm f.sat (x % 2 ^ ws)).getD (0, 0)
        let t := if ws = 64 ∨ wd = 64 then 6 else 4
        .reading [regWords (srcCodes ws f.ra)]
          (onCore c (nFPD 1) (fun n k => putScalar wd (raiseFp k fl) (n + t) d (extendTo32 dst r)))
      | _, _ => Plan.bad
  | _, _, _ => Plan.bad

def execFcvt (c : Nat) (p : Pred) (f : FmtR) (s : State) : Out := issue c p (planFcvt c f) s

end Sys2Proof.Machine
end

