-- ==== Sys2Proof/Machine/VectorFp.lean ====
section
/-! DEFINITION. The vector floating-point instructions, conversions and block instructions (02 R35, R58 to R66; 05 R143,
R144, R481). -/
namespace Sys2Proof.Machine

/-- Lane-wise results packed, with the flags of all lanes. -/
def packRes (w : Nat) (rs : List (Nat × FFlags)) : VWord × FFlags := (packLanes w (rs.map (·.1)), orFlags (rs.map (·.2)))

/-- A lane-wise operation on up to three vector registers. -/
def laneOp (fmt : FpFmt) (rm : Rm) (op : FpOp) (w : Nat) (x y z : VWord) : VWord × FFlags :=
  packRes w ((List.range (512 / w)).map (fun i => op fmt rm (laneOf w x i) (laneOf w y i) (laneOf w z i)))

/-- Formats of VFMIN, VFMAX and VFCMP besides FP64 and FP32 (05 R143). -/
def narrowFmt (b : BitVec 5) : Option (FpFmt × Nat) :=
  match b.toNat with
  | 2 => some (fFP16, 16) | 3 => some (fBF16, 16) | 4 => some (fE4M3, 8) | 5 => some (fE5M2, 8) | _ => none

/-- Occupancy and latency of vector floating point (04 R98). -/
def vfNeed (dv narrow : Bool) (w : Nat) : List Need :=
  if narrow then nVIU 2 else if dv then nDIV (if w = 64 then 104 else 48) else nFPD (if w = 64 then 8 else 4)
def vfT (dv narrow : Bool) (w : Nat) : Nat :=
  if narrow then 5 else if dv then (if w = 64 then 110 else 52) else if w = 64 then 13 else 7

/-- A vector floating-point instruction with `ar` operands (05 R143); `nar` where the narrow formats are taken too. -/
def vfPlan (c ar : Nat) (dv nar : Bool) (op : FpOp) (f : FmtR) (_ : State) (k : Core) : Plan :=
  let wide := wideFmt f.ty
  let fm := match wide with | some x => some x | none => if nar then narrowFmt f.ty else none
  match fm, rmOf k f.rm with
  | some (fmt, w), some rm =>
    let b := if ar < 2 then some 0 else (vReg f.rb).map (vGet k)
    let d := if ar < 3 then some 0 else (vReg f.rc).map (vGet k)
    match vReg f.rd, vReg f.ra, b, d with
    | some rd, some ra, some y, some z =>
      let (r, fl) := laneOp fmt rm op w (vGet k ra) y z
      .reading [regWords (([f.ra, f.rb, f.rc].take ar).map (·.toNat))]
        (onCore c (vfNeed dv wide.isNone w) (fun n k => addWb (raiseFp k fl) (n + vfT dv wide.isNone w) (.v rd) r.toNat))
    | _, _, _, _ => Plan.bad
  | _, _ => Plan.bad

def execVfadd (c : Nat) (p : Pred) (f : FmtR) (s : State) : Out := issue c p (residue 15 (vfPlan c 2 false false opAdd f)) s
def execVfsub (c : Nat) (p : Pred) (f : FmtR) (s : State) : Out := issue c p (residue 15 (vfPlan c 2 false false opSub f)) s
def execVfmul (c : Nat) (p : Pred) (f : FmtR) (s : State) : Out := issue c p (residue 15 (vfPlan c 2 false false opMul f)) s
def execVffma (c : Nat) (p : Pred) (f : FmtR) (s : State) : Out := issue c p (residue 15 (vfPlan c 3 false false opFma f)) s
def execVfdiv (c : Nat) (p : Pred) (f : FmtR) (s : State) : Out := issue c p (residue 15 (vfPlan c 2 true false opDiv f)) s
def execVfsqrt (c : Nat) (p : Pred) (f : FmtR) (s : State) : Out := issue c p (residue 15 (vfPlan c 1 true false opSqrt f)) s
def execVfmin (c : Nat) (p : Pred) (f : FmtR) (s : State) : Out := issue c p (vfPlan c 2 false true opMin f) s
def execVfmax (c : Nat) (p : Pred) (f : FmtR) (s : State) : Out := issue c p (vfPlan c 2 false true opMax f) s
def execVfminnum (c : Nat) (p : Pred) (f : FmtR) (s : State) : Out := issue c p (vfPlan c 2 false false opMinNum f) s
def execVfmaxnum (c : Nat) (p : Pred) (f : FmtR) (s : State) : Out := issue c p (vfPlan c 2 false false opMaxNum f) s
def execVfneg (c : Nat) (p : Pred) (f : FmtR) (s : State) : Out := issue c p (vfPlan c 1 false false opNeg f) s
def execVfabs (c : Nat) (p : Pred) (f : FmtR) (s : State) : Out := issue c p (vfPlan c 1 false false opAbs f) s

/-- VFCMP: lanes of all ones or all zeros; a reserved RM is illegal (02 R37, 05 R143). -/
def planVfcmp (c : Nat) (f : FmtR) (_ : State) (k : Core) : Plan :=
  let wide := wideFmt f.ty
  match (match wide with | some x => some x | none => narrowFmt f.ty), fcondOf f.fn.toNat, rmOf k f.rm with
  | some (fmt, w), some cond, some _ =>
    match vReg f.rd, vReg f.ra, vReg f.rb with
    | some rd, some ra, some rb =>
      let (r, fl) := packRes w ((List.range (512 / w)).map (fun i =>
        let (b, fl) := fpCompare fmt cond (laneOf w (vGet k ra) i) (laneOf w (vGet k rb) i)
        (if b then 2 ^ w - 1 else 0, fl)))
      .reading [regWords [f.ra.toNat, f.rb.toNat]]
        (onCore c (vfNeed false wide.isNone w) (fun n k =>
          addWb (raiseFp k fl) (n + vfT false wide.isNone w) (.v rd) r.toNat))
    | _, _, _ => Plan.bad
  | _, _, _ => Plan.bad

def execVfcmp (c : Nat) (p : Pred) (f : FmtR) (s : State) : Out := issue c p (planVfcmp c f) s

/-- VCVT: same width lane by lane; wider into an even pair; narrower into the low lanes, zeros above (05 R481). -/
def planVcvt (c : Nat) (f : FmtR) (_ : State) (k : Core) : Plan :=
  match tyOf f.ty, tyOfCode (f.fn.toNat % 32), rmOf k f.rm with
  | some dst, some src, some rm =>
    let ws := tyWidth src
    let wt := tyWidth dst
    if ws = 0 ∨ wt = 0 then Plan.bad
    else
      let cv := fun x => (cvtTy src dst rm f.sat x).getD (0, 0)
      let lanes := fun (v : VWord) (n : Nat) => (List.range n).map (fun i => cv (laneOf ws v i))
      match vReg f.ra with
      | none => Plan.bad
      | some ra =>
        if ws < wt then
          match vPair f.rd with
          | none => Plan.bad
          | some rd =>
            let rs := lanes (vGet k ra) (1024 / wt)
            let (lo, f1) := packRes wt (rs.take (512 / wt))
            let (hi, f2) := packRes wt (rs.drop (512 / wt))
            .reading [regWords [f.ra.toNat]]
              (onCore c (nVIU 2) (fun n k =>
                addWb (addWb (raiseFp k (f1 ||| f2)) (n + 5) (.v rd) lo.toNat) (n + 5) (.v (rd + 1)) hi.toNat))
        else
          match vReg f.rd with
          | none => Plan.bad
          | some rd =>
            let (r, fl) := packRes wt (lanes (vGet k ra) (512 / ws))
            .reading [regWords [f.ra.toNat]] (onCore c (nVIU 2) (fun n k => addWb (raiseFp k fl) (n + 5) (.v rd) r.toNat))
  | _, _, _ => Plan.bad

def execVcvt (c : Nat) (p : Pred) (f : FmtR) (s : State) : Out := issue c p (planVcvt c f) s

/-- The wide side of a block instruction: FN[2] is 0 for FP32, 1 for BF16; FN[5:3] must be zero (05 R144). -/
def blockWide (f : FmtR) : Option (FpFmt × Nat) :=
  if 8 ≤ f.fn.toNat then none else if bitAt f.fn.toNat 2 then some (fBF16, 16) else some (fFP32, 32)

/-- The element format of an MX block type (05 R144: TY 0x0A to 0x0F). -/
def mxElem (b : BitVec 5) : Option ElemFmt :=
  match tyOf b with
  | some .eb4 => none
  | some t => elemOfTy t
  | none => none

/-- Values of `n` lanes of `w` bits from a register and the one after it. -/
def pairLanes (k : Core) (ra w n : Nat) : List Nat :=
  (lanesOf w (vGet k ra) ++ lanesOf w (vGet k (ra + 1))).take n

/-- The codes of the registers that hold a block's 32 wide values (05 R144). -/
def blockCodes (w : Nat) (f : BitVec 6) : List Nat := if w = 32 then [f.toNat, f.toNat + 1] else [f.toNat]

/-- BLOCK_UNDERFLOW after lost elements (02 R66). -/
def addLost (k : Core) (n : Nat) : Core := { k with blkuf := addSat32 k.blkuf n }

/-- VQMX: 32 values to a scale byte in s[RC] and elements in vD, or for MXFP6 in local store at s[RD] (05 R144). -/
def planVqmx (c : Nat) (f : FmtR) (_ : State) (k : Core) : Plan :=
  match blockWide f, mxElem f.ty, sReg f.rc with
  | some (fmt, w), some ef, some rc =>
    match (if w = 32 then vPair f.ra else vReg f.ra) with
    | none => Plan.bad
    | some ra =>
      let q := mxQuantise ef ((pairLanes k ra w 32).map (fpDecode fmt))
      let mem := elemWidth ef = 6
      let fin := fun (n : Nat) (k : Core) => addWb (addLost (raiseFp k q.flags) q.lost) (n + 6) (.s rc) q.scale
      if mem then
        match sReg f.rd with
        | none => Plan.bad
        | some rd =>
          let a := (sGet k rd).toNat
          .reading [regWords (f.rd.toNat :: blockCodes w f.ra)]
            { onCore c (nVIU 2 ++ nLSP)
                (fun n k => addWb (fin n k) (n + 6) (.ls a 24) (natLE (packCodes 6 q.codes)))
                (lsFaults a 24 8 ++ protectedAt k a 24) with clash := k.sparseOut }
      else
        match vReg f.rd with
        | none => Plan.bad
        | some rd =>
          .reading [regWords (blockCodes w f.ra)]
            (onCore c (nVIU 2) (fun n k => addWb (fin n k) (n + 6) (.v rd) (natLE (packCodes (elemWidth ef) q.codes))))
  | _, _, _ => Plan.bad

def execVqmx (c : Nat) (p : Pred) (f : FmtR) (s : State) : Out := issue c p (planVqmx c f) s

/-- VDQMX: a block from vA, or for MXFP6 from local store at s[RA], under the scale in s[RC][7:0], to FP32 in a pair or
BF16 in one register (02 R60, 05 R144). -/
def planVdqmx (c : Nat) (f : FmtR) (_ : State) (k : Core) : Plan :=
  match blockWide f, mxElem f.ty, sReg f.rc with
  | some (fmt, w), some ef, some rc =>
    let mem := elemWidth ef = 6
    let a := match sReg f.ra with | some ra => (sGet k ra).toNat | none => 0
    let bytes := if mem then memRead k.ls a 24 else match vReg f.ra with | some ra => vecBytes (vGet k ra) | none => []
    let okSrc := if mem then (sReg f.ra).isSome else (vReg f.ra).isSome
    match okSrc, (if w = 32 then vPair f.rd else vReg f.rd) with
    | true, some rd =>
      let rs := (unpackCodes (elemWidth ef) 32 bytes).map (mxDecode ef fmt ((sGet k rc).toNat % 256))
      let (lo, f1) := packRes w (rs.take (512 / w))
      let (hi, f2) := packRes w (rs.drop (512 / w))
      .reading (regWords [f.ra.toNat, f.rc.toNat] :: (if mem then [lsWords a 24] else []))
        { onCore c (nVIU 2 ++ (if mem then nLSP else []))
            (fun n k =>
              let k := addWb (raiseFp k (f1 ||| f2)) (n + 6) (.v rd) lo.toNat
              if w = 32 then addWb k (n + 6) (.v (rd + 1)) hi.toNat else k)
            (if mem then lsFaults a 24 8 ++ ungated k a 24 else []) with clash := mem && k.sparseOut }
    | _, _ => Plan.bad
  | _, _, _ => Plan.bad

def execVdqmx (c : Nat) (p : Pred) (f : FmtR) (s : State) : Out := issue c p (planVdqmx c f) s

/-- VQEB4: 16 values to 8 element bytes in vD[63:0] and a block scale in s[RC]; T in s[RB] (05 R144). The bits above both
are zero (DESIGN CHOICE, log 79). -/
def planVqeb4 (c : Nat) (f : FmtR) (_ : State) (k : Core) : Plan :=
  match blockWide f, tyOf f.ty, sReg f.rc, sReg f.rb, vReg f.ra, vReg f.rd with
  | some (fmt, w), some .eb4, some rc, some rb, some ra, some rd =>
    let t := (sGet k rb).toNat
    let q := eb4Quantise t (((List.range 16).map (laneOf w (vGet k ra))).map (fpDecode fmt))
    .reading [regWords [f.ra.toNat, f.rb.toNat]]
      (onCore c (nVIU 2)
        (fun n k => addWb (addWb (addLost (raiseFp k q.flags) q.lost) (n + 6) (.s rc) q.scale) (n + 6) (.v rd)
          (natLE (packCodes 4 q.codes)))
        (if eb4ScaleOk t then [] else [0x07]))
  | _, _, _, _, _, _ => Plan.bad

def execVqeb4 (c : Nat) (p : Pred) (f : FmtR) (s : State) : Out := issue c p (planVqeb4 c f) s

/-- VDQEB4: 16 values from vA[63:0] under the block scale in s[RC][7:0] and T in s[RB] (05 R144). The bits above 16 BF16 values
are zero (DESIGN CHOICE, log 79). -/
def planVdqeb4 (c : Nat) (f : FmtR) (_ : State) (k : Core) : Plan :=
  match blockWide f, tyOf f.ty, sReg f.rc, sReg f.rb, vReg f.ra, vReg f.rd with
  | some (fmt, w), some .eb4, some rc, some rb, some ra, some rd =>
    let t := (sGet k rb).toNat
    let rs := (List.range 16).map (fun i => eb4Decode fmt t ((sGet k rc).toNat % 256) (laneOf 4 (vGet k ra) i))
    let (r, fl) := packRes w rs
    .reading [regWords [f.ra.toNat, f.rb.toNat, f.rc.toNat]]
      (onCore c (nVIU 2) (fun n k => addWb (raiseFp k fl) (n + 6) (.v rd) r.toNat) (if eb4ScaleOk t then [] else [0x07]))
  | _, _, _, _, _, _ => Plan.bad

def execVdqeb4 (c : Nat) (p : Pred) (f : FmtR) (s : State) : Out := issue c p (planVdqeb4 c f) s

end Sys2Proof.Machine
end

