-- ==== Sys2Proof/Machine/VectorInt.lean ====
section
/-! DEFINITION. The vector integer, permute and move instructions (05 R143). -/
namespace Sys2Proof.Machine

/-- Lane width of an integer lane type (05 R143). -/
def intLane (b : BitVec 5) : Option Nat := (tyOf b).bind (fun t => (intOfTy t).map (·.1))

/-- Lane width of any single-value type. -/
def anyLane (b : BitVec 5) : Option Nat :=
  (tyOf b).bind (fun t => if tyWidth t = 0 then none else some (tyWidth t))

/-- A lane-wise integer operation on lane codes of width `w` (05 R143). -/
def viPlan (c : Nat) (op : Nat → Nat → Nat → Nat) (f : FmtR) (_ : State) (k : Core) : Plan :=
  match intLane f.ty, vReg f.rd, vReg f.ra, vReg f.rb with
  | some w, some rd, some ra, some rb =>
    let r := packLanes w ((List.range (512 / w)).map (fun i => op w (laneOf w (vGet k ra) i) (laneOf w (vGet k rb) i)))
    .reading [regWords [f.ra.toNat, f.rb.toNat]] (onCore c (nVIU 1) (fun n k => addWb k (n + 2) (.v rd) r.toNat))
  | _, _, _, _ => Plan.bad

/-- Lane operations; `w` is the lane width, shift counts are taken modulo it, the result wraps (05 R143). Signed and
unsigned follow the operation's name, not the lane type (DEDUCED, log 11). -/
def lnAdd (w a b : Nat) : Nat := (a + b) % 2 ^ w
def lnSub (w a b : Nat) : Nat := (a + 2 ^ w - b) % 2 ^ w
def lnAnd (_ a b : Nat) : Nat := a &&& b
def lnOr (_ a b : Nat) : Nat := a ||| b
def lnXor (_ a b : Nat) : Nat := a ^^^ b
def lnShl (w a b : Nat) : Nat := (a <<< (b % w)) % 2 ^ w
def lnShr (w a b : Nat) : Nat := a >>> (b % w)
def lnSra (w a b : Nat) : Nat := ofSigned w (toSigned w a / (2 ^ (b % w) : Nat))
def lnMin (w a b : Nat) : Nat := if toSigned w a ≤ toSigned w b then a else b
def lnMax (w a b : Nat) : Nat := if toSigned w a ≤ toSigned w b then b else a
def lnMinu (_ a b : Nat) : Nat := min a b
def lnMaxu (_ a b : Nat) : Nat := max a b
def lnMul (w a b : Nat) : Nat := (a * b) % 2 ^ w

def execVadd (c : Nat) (p : Pred) (f : FmtR) (s : State) : Out := issue c p (residue 3 (viPlan c lnAdd f)) s
def execVsub (c : Nat) (p : Pred) (f : FmtR) (s : State) : Out := issue c p (residue 3 (viPlan c lnSub f)) s
def execVand (c : Nat) (p : Pred) (f : FmtR) (s : State) : Out := issue c p (viPlan c lnAnd f) s
def execVor (c : Nat) (p : Pred) (f : FmtR) (s : State) : Out := issue c p (viPlan c lnOr f) s
def execVxor (c : Nat) (p : Pred) (f : FmtR) (s : State) : Out := issue c p (viPlan c lnXor f) s
def execVshl (c : Nat) (p : Pred) (f : FmtR) (s : State) : Out := issue c p (viPlan c lnShl f) s
def execVshr (c : Nat) (p : Pred) (f : FmtR) (s : State) : Out := issue c p (viPlan c lnShr f) s
def execVsra (c : Nat) (p : Pred) (f : FmtR) (s : State) : Out := issue c p (viPlan c lnSra f) s
def execVmin (c : Nat) (p : Pred) (f : FmtR) (s : State) : Out := issue c p (viPlan c lnMin f) s
def execVmax (c : Nat) (p : Pred) (f : FmtR) (s : State) : Out := issue c p (viPlan c lnMax f) s
def execVminu (c : Nat) (p : Pred) (f : FmtR) (s : State) : Out := issue c p (viPlan c lnMinu f) s
def execVmaxu (c : Nat) (p : Pred) (f : FmtR) (s : State) : Out := issue c p (viPlan c lnMaxu f) s
def execVmul (c : Nat) (p : Pred) (f : FmtR) (s : State) : Out := issue c p (residue 3 (viPlan c lnMul f)) s

/-- An operand of an instruction whose only listed FN is 0 (05 R135, R143). -/
def zeroFn {α : Type} (f : FmtR) (x : Option α) : Option α := if f.fn = 0 then x else none

/-- VPERM: lane i of vD takes lane (vB lane i mod lane count) of vA (05 R143). -/
def planVperm (c : Nat) (f : FmtR) (_ : State) (k : Core) : Plan :=
  match zeroFn f (anyLane f.ty), vReg f.rd, vReg f.ra, vReg f.rb with
  | some w, some rd, some ra, some rb =>
    let r := packLanes w ((List.range (512 / w)).map (fun i =>
      laneOf w (vGet k ra) (laneOf w (vGet k rb) i % (512 / w))))
    .reading [regWords [f.ra.toNat, f.rb.toNat]] (onCore c (nVIU 1) (fun n k => addWb k (n + 2) (.v rd) r.toNat))
  | _, _, _, _ => Plan.bad

def execVperm (c : Nat) (p : Pred) (f : FmtR) (s : State) : Out := issue c p (planVperm c f) s

/-- VSEL: vD ← (vA AND vC) OR (vB AND NOT vC) (05 R143). -/
def planVsel (c : Nat) (f : FmtR) (_ : State) (k : Core) : Plan :=
  match zeroFn f (vReg f.rd), vReg f.ra, vReg f.rb, vReg f.rc with
  | some rd, some ra, some rb, some rc =>
    let m := vGet k rc
    .reading [regWords [f.ra.toNat, f.rb.toNat, f.rc.toNat]]
      (onCore c (nVIU 1) (fun n k => addWb k (n + 2) (.v rd) ((vGet k ra &&& m) ||| (vGet k rb &&& ~~~ m)).toNat))
  | _, _, _, _ => Plan.bad

def execVsel (c : Nat) (p : Pred) (f : FmtR) (s : State) : Out := issue c p (planVsel c f) s

/-- VBCAST: every lane takes s[RA], the pair for 64-bit lanes, the low bits for narrow ones (05 R143). -/
def planVbcast (c : Nat) (f : FmtR) (_ : State) (k : Core) : Plan :=
  match zeroFn f (anyLane f.ty), vReg f.rd with
  | some w, some rd =>
    match scalarSrc k w f.ra with
    | some x =>
      .reading [regWords (srcCodes w f.ra)]
        (onCore c (nVIU 1) (fun n k => addWb k (n + 2) (.v rd) (packLanes w (List.replicate (512 / w) x)).toNat))
    | none => Plan.bad
  | _, _ => Plan.bad

def execVbcast (c : Nat) (p : Pred) (f : FmtR) (s : State) : Out := issue c p (planVbcast c f) s

/-- VEXT: lane (s[RB] mod lane count) of vA to s[RD] or a pair; INT8 and INT4 sign-extended (05 R143). -/
def planVext (c : Nat) (f : FmtR) (_ : State) (k : Core) : Plan :=
  match zeroFn f (tyOf f.ty), anyLane f.ty, vReg f.ra, sReg f.rb with
  | some ty, some w, some ra, some rb =>
    match scalarDst w f.rd with
    | some d =>
      let x := laneOf w (vGet k ra) ((sGet k rb).toNat % (512 / w))
      .reading [regWords [f.ra.toNat, f.rb.toNat]] (onCore c (nVIU 1) (fun n k => putScalar w k (n + 2) d (extendTo32 ty x)))
    | none => Plan.bad
  | _, _, _, _ => Plan.bad

def execVext (c : Nat) (p : Pred) (f : FmtR) (s : State) : Out := issue c p (planVext c f) s

/-- MOVRX: a receive register of the static mesh to a pair or a vector register (05 R136, R143). -/
def planMovrx (c : Nat) (f : FmtR) (_ : State) (k : Core) : Plan :=
  match zeroFn f (rxReg f.ra), zeroFn f (vrxReg f.ra) with
  | some r, _ =>
    match sPair f.rd with
    | some d =>
      .reading [regWords [f.ra.toNat]] (onCore c (nVIU 1) (fun n x => addPair x (n + 1) d ((k.rx[r]?).getD 0).toNat))
    | none => Plan.bad
  | none, some r =>
    match vReg f.rd with
    | some d =>
      .reading [regWords [f.ra.toNat]] (onCore c (nVIU 1) (fun n x => addWb x (n + 1) (.v d) ((k.vrx[r]?).getD 0).toNat))
    | none => Plan.bad
  | none, none => Plan.bad

def execMovrx (c : Nat) (p : Pred) (f : FmtR) (s : State) : Out := issue c p (planMovrx c f) s

end Sys2Proof.Machine
end

