-- ==== Sys2Proof/Machine/Local.lean ====
section
/-! DEFINITION. Local-store, sliver, static-mesh, outbox and landing-buffer instructions (04 R101 to R124; 05 R139,
R145). -/
namespace Sys2Proof.Machine

/-- Bytes of a load or store by SZ; 3 and above name no width, and no fault is named for them: ILLEGAL_INSTRUCTION (05 R145; DESIGN
CHOICE, log 78). -/
def memSize (b : BitVec 3) : Option Nat :=
  match b.toNat with | 0 => some 4 | 1 => some 8 | 2 => some 64 | _ => none

/-- LD: 4 bytes to s[RD], 8 to a pair, 64 to vD (04 R101, 05 R145). -/
def planLd (c : Nat) (f : FmtI) (_ : State) (k : Core) : Plan :=
  match memSize f.sz, sReg f.ra with
  | some n, some ra =>
    let a := formAddr k ra f.imm
    let v := memNat k.ls a n
    let bad := lsFaults a n n ++ ungated k a n
    let go := fun (g : Nat → Core → Core) =>
      .reading [regWords [f.ra.toNat], lsWords a n] { onCore c nLSP g bad with clash := k.sparseOut }
    match n with
    | 64 => match vReg f.rd with
      | some d => go (fun t k => addWb k (t + 4) (.v d) v)
      | none => Plan.bad
    | _ => match scalarDst (8 * n) f.rd with
      | some d => go (fun t k => putScalar (8 * n) k (t + 3) d v)
      | none => Plan.bad
  | _, _ => Plan.bad

def execLd (c : Nat) (p : Pred) (f : FmtI) (s : State) : Out := issue c p (residue 3 (planLd c f)) s

/-- ST: from s[RD], the pair or vD; a load issued next sees it (04 R98, R119; 05 R145). -/
def planSt (c : Nat) (f : FmtI) (_ : State) (k : Core) : Plan :=
  match memSize f.sz, sReg f.ra with
  | some n, some ra =>
    let a := formAddr k ra f.imm
    let src := if n = 64 then (vReg f.rd).map (fun i => (vGet k i).toNat) else scalarSrc k (8 * n) f.rd
    match src with
    | some v =>
      .reading [regWords (f.ra.toNat :: srcCodes (8 * n) f.rd)]
        { onCore c nLSP (fun t k => storeLs k (t + 1) a n v)
            (lsFaults a n n ++ protectedAt k a n) with clash := k.sparseOut }
    | none => Plan.bad
  | _, _ => Plan.bad

def execSt (c : Nat) (p : Pred) (f : FmtI) (s : State) : Out := issue c p (residue 3 (planSt c f)) s

/-- The issue cycle at which the serving slot of an access issued in cycle `n` begins (04 R104). -/
def slotStart (n : Nat) : Nat :=
  let o := n % 128
  n - o + (if o < 96 then 16 * (o / 16 + 1) else 128)

/-- The serving slot as a resource taken for one access. -/
def slotNeed (n : Nat) : Need := ⟨.slot, slotStart n - n, 1⟩

/-- SLD: the line at a sliver offset to vD, or to the local-store line at s[RD] (04 R104, 05 R145); an SZ of 2 or above is
ILLEGAL_INSTRUCTION (DESIGN CHOICE, log 78). One into local store is a core store, checked against protected payloads at its issue (04
R119; DESIGN CHOICE, log 82). -/
def planSld (c : Nat) (f : FmtI) (s : State) (k : Core) : Plan :=
  let n := s.plane.cyc
  match f.sz.toNat, sReg f.ra with
  | 0, some ra =>
    match vReg f.rd with
    | some d =>
      let a := formAddr k ra f.imm
      .reading [regWords [f.ra.toNat]]
        (onCore c [slotNeed n] (fun n k => { k with slots := k.slots ++ [⟨slotStart n, a, some (.v d), 0, k.last⟩] }) (sliverFaults a))
    | none => Plan.bad
  | 1, some ra =>
    match sReg f.rd with
    | some d =>
      let a := formAddr k ra f.imm
      let la := (sGet k d).toNat
      .reading [regWords [f.ra.toNat, f.rd.toNat]]
        { onCore c (slotNeed n :: nLSP)
            (fun n k => { k with slots := k.slots ++ [⟨slotStart n, a, some (.ls la 64), 0, k.last⟩] })
            (sliverFaults a ++ lsFaults la 64 64 ++ protectedAt k la 64) with clash := k.sparseOut }
    | none => Plan.bad
  | _, _ => Plan.bad

def execSld (c : Nat) (p : Pred) (f : FmtI) (s : State) : Out := issue c p (residue 3 (planSld c f)) s

/-- SST: the source is read at issue and written in the serving slot (04 R104, 05 R145); SZ as SLD (DESIGN CHOICE, log 78). -/
def planSst (c : Nat) (f : FmtI) (s : State) (k : Core) : Plan :=
  let n := s.plane.cyc
  match f.sz.toNat, sReg f.ra with
  | 0, some ra =>
    match vReg f.rd with
    | some d =>
      let a := formAddr k ra f.imm
      .reading [regWords [f.ra.toNat, f.rd.toNat]]
        (onCore c [slotNeed n]
          (fun n x => { x with slots := x.slots ++ [⟨slotStart n, a, none, vGet k d, x.last⟩] }) (sliverFaults a))
    | none => Plan.bad
  | 1, some ra =>
    match sReg f.rd with
    | some d =>
      let a := formAddr k ra f.imm
      let la := (sGet k d).toNat
      .reading [regWords [f.ra.toNat, f.rd.toNat], lsWords la 64]
        { onCore c (slotNeed n :: nLSP)
            (fun n x => { x with slots := x.slots ++ [⟨slotStart n, a, none, vecOfBytes (memRead k.ls la 64), x.last⟩] })
            (sliverFaults a ++ lsFaults la 64 64 ++ ungated k la 64) with clash := k.sparseOut }
    | none => Plan.bad
  | _, _ => Plan.bad

def execSst (c : Nat) (p : Pred) (f : FmtI) (s : State) : Out := issue c p (residue 3 (planSst c f)) s

/-- IFILL: a sliver line to instruction words s[RD] to s[RD] + 7 (04 R102, 05 R145). -/
def planIfill (c : Nat) (f : FmtI) (s : State) (k : Core) : Plan :=
  let n := s.plane.cyc
  match sReg f.ra, sReg f.rd with
  | some ra, some d =>
    let a := formAddr k ra f.imm
    let w := (sGet k d).toNat
    .reading [regWords [f.ra.toNat, f.rd.toNat]]
      (onCore c [slotNeed n]
        (fun n x => { x with slots := x.slots ++ [⟨slotStart n, a, some (.is (8 * w) 64), 0, x.last⟩] })
        (sliverFaults a ++ (if w % 8 = 0 ∧ w ≤ 2040 then [] else [0x03])))
  | _, _ => Plan.bad

def execIfill (c : Nat) (p : Pred) (f : FmtI) (s : State) : Out := issue c p (residue 3 (planIfill c f)) s

/-- Offsets of SMSEND and SMSENDV: IMM[10:0] and IMM[21:11], signed (05 R145). -/
def meshDx (f : FmtI) : Int := toSigned 11 f.imm.toNat
def meshDy (f : FmtI) : Int := toSigned 11 (f.imm.toNat >>> 11)

/-- SMSEND: a pair to RXr of another core at i + D (04 R112, R113). -/
def planSmsend (c : Nat) (f : FmtI) (_ : State) (k : Core) : Plan :=
  match sPair f.ra with
  | some ra =>
    { reads := [regWords (srcCodes 64 f.ra)]
      needs := [⟨.smi, 0, 1⟩]
      faults := if meshInside c (meshDx f) (meshDy f) then [] else [0x0D]
      eff := fun s =>
        let n := s.plane.cyc
        let w : MeshWord := ⟨c, k.pc, n, n, meshDx f, meshDy f, false, 0, bitsOf f.imm.toNat 24 22, (pairGet k ra).toNat⟩
        { s with plane := { s.plane with mesh := s.plane.mesh ++ [w] } } }
  | none => Plan.bad

def execSmsend (c : Nat) (p : Pred) (f : FmtI) (s : State) : Out := issue c p (planSmsend c f) s

/-- SMSENDV: a vector register as eight words in cycles i to i + 7; VRXr takes all bits at i + D + 7 (04 R113). -/
def planSmsendv (c : Nat) (f : FmtI) (_ : State) (k : Core) : Plan :=
  match vReg f.ra with
  | some ra =>
    { reads := [regWords [f.ra.toNat]]
      needs := [⟨.smi, 0, 8⟩]
      faults := if meshInside c (meshDx f) (meshDy f) then [] else [0x0D]
      eff := fun s =>
        let n := s.plane.cyc
        let ws := (List.range 8).map (fun j =>
          (⟨c, k.pc, n, n + j, meshDx f, meshDy f, true, j, bitsOf f.imm.toNat 23 22, (vGet k ra).toNat⟩ : MeshWord))
        { s with plane := { s.plane with mesh := s.plane.mesh ++ ws } } }
  | none => Plan.bad

def execSmsendv (c : Nat) (p : Pred) (f : FmtI) (s : State) : Out := issue c p (planSmsendv c f) s

/-- Operand bytes LEN must name for an atomic (12 R314); none for an operation of 12 to 15. -/
def atomicLen (aop : Nat) : Option Nat :=
  match aop % 16 with
  | 9 => some (if bitAt aop 4 then 16 else 8)
  | 11 => some 0
  | n => if n < 12 then some 8 else none

/-- Bytes an atomic touches at its home, which are also its alignment (12 R314). -/
def atomicTouch (aop : Nat) : Nat := if 10 ≤ aop % 16 then 64 else if bitAt aop 4 then 8 else 4

/-- Bytes a memory-fabric descriptor touches at its home (12 R312 to R314). -/
def touchOf (d : List Byte) : Nat :=
  if fieldLE d 0 1 = 4 then atomicTouch (fieldLE d 27 1) else fieldLE d 18 2

/-- Whether a memory-fabric address and range keep R311 and R312; the hole is judged apart. -/
def mfaOk (mfa n align : Nat) : Bool :=
  decide (mfa < 2 ^ 47 ∧ mfa / 2 ^ 43 ≤ 9 ∧ mfa % align = 0 ∧ mfa % 256 + n ≤ 256)

/-- What the outbox descriptor must satisfy, and what SEND and the memory operations each add (04 R118, 07 R184, 12 R312
to R314). -/
def outboxOk (k : Core) (d : List Byte) : Bool :=
  let op := fieldLE d 0 1
  let rlb := fieldLE d 1 1
  let cls := fieldLE d 2 1 % 4
  let mfa := fieldLE d 8 8
  let lsa := fieldLE d 16 2
  let len := fieldLE d 18 2
  let rsa := fieldLE d 20 2
  let aop := fieldLE d 27 1
  let payload := fun n => decide (lsa % 8 = 0 ∧ lsa + n ≤ 0xC000)
  let buf := fun n => decide (rlb < 16 ∧ rsa % 8 = 0) && (lbGet k rlb).armed && decide ((lbGet k rlb).base ≤ rsa) &&
    decide (rsa + n ≤ (lbGet k rlb).base + (lbGet k rlb).len)
  match op with
  | 1 => decide (len % 8 = 0 ∧ len ≤ 4096 ∧ cls ≠ 2) && epidOk (BitVec.ofNat 32 (fieldLE d 4 4)) && payload len
  | 2 => decide (len % 8 = 0 ∧ len ≤ 256) && mfaOk mfa len 8 && buf len
  | 3 => decide (len % 8 = 0 ∧ len ≤ 256) && mfaOk mfa len 8 && payload len
  | 4 =>
    match atomicLen aop with
    | none => false
    | some n =>
      decide (len = n) && mfaOk mfa (touchOf d) (touchOf d) && payload len &&
        (if rlb = 0xFF then decide (aop % 16 ≠ 11) else buf 8)
  | _ => false

/-- Payload bytes a posted descriptor protects (04 R119). -/
def payloadOf (d : List Byte) : Nat × Nat :=
  (fieldLE d 16 2, if fieldLE d 0 1 = 2 then 0 else fieldLE d 18 2)

/-- Whether a descriptor makes a memory-fabric request, which counts in CORE_CAPO from its post (12 R326). -/
def isMemOp (d : List Byte) : Bool := 2 ≤ fieldLE d 0 1 && fieldLE d 0 1 ≤ 4

/-- Whether the range a memory request touches meets a hole (01 R32, 12 R312). -/
def meetsHole (d : List Byte) : Bool :=
  isMemOp d && decide (0 < touchOf d) && decide (0x600000 < fieldLE d 8 8 % 2 ^ 23 + touchOf d)

/-- The faults of a descriptor; a range that touches a hole raises ADDRESS_HOLE, the lower code, in place of OUTBOX_DESC (05 R157,
12 R312). -/
def outboxFaults (k : Core) (d : List Byte) : List Nat :=
  (if meetsHole d then [0x06] else []) ++ (if outboxOk k d then [] else [0x0B])

/-- OUTPOST: checks the descriptor and appends it, protecting its payload (04 R118, R119, R124). -/
def planOutpost (c : Nat) (f : FmtI) (_ : State) (k : Core) : Plan :=
  match sReg f.ra with
  | some ra =>
    let a := formAddr k ra f.imm
    let d := memRead k.ls a 32
    .reading [regWords [f.ra.toNat], lsWords a 32]
      { onCore c (⟨.obp, 0, 8⟩ :: nLSP)
          (fun n x =>
            let (pa, pn) := payloadOf d
            let x := protect (postOutbox (outboxGate x n k.pc) n (.desc d)) n pa pn
            if isMemOp d then { x with capo := x.capo + 1 } else x)
          (lsFaults a 32 32 ++ ungated k a 32 ++ outboxFaults k d) with clash := k.sparseOut }
  | none => Plan.bad

def execOutpost (c : Nat) (p : Pred) (f : FmtI) (s : State) : Out := issue c p (residue 3 (planOutpost c f)) s

/-- LBARM: arms buffer FN with BASE = s[RA], LEN = s[RD], once per step (04 R120). -/
def planLbarm (c : Nat) (f : FmtI) (_ : State) (k : Core) : Plan :=
  match sReg f.ra, sReg f.rd with
  | some ra, some rd =>
    let b := (sGet k ra).toNat
    let l := (sGet k rd).toNat
    let i := f.fn.toNat
    .reading [regWords [f.ra.toNat, f.rd.toNat]]
      (onCore c nSIU
        (fun _ x => lbSet x i { LandBuf.reset with base := b, len := l, armed := true, overfill := (lbGet x i).overfill })
        ((if b % 64 = 0 ∧ l % 8 = 0 ∧ b + l ≤ 0xC000 then [] else [0x05]) ++
          (if (lbGet k i).armed then [0x09] else [])))
  | _, _ => Plan.bad

def execLbarm (c : Nat) (p : Pred) (f : FmtI) (s : State) : Out := issue c p (planLbarm c f) s

end Sys2Proof.Machine
end

