-- ==== Sys2Proof/Machine/Service.lean ====
section
/-! DEFINITION. The home of the memory fabric: regions, the decision of R320, the directory's part in service, the sliver
ports and the atomics (04 R105, R106; 12 R313 to R330, R334). -/
namespace Sys2Proof.Machine

-- Regions -----------------------------------------------------------------------------------------------------------

/-- Region table entry `n` of tile `t`, as a number (12 R318); 0 where it has an uncorrectable error (17 R444). -/
def regionEntry (s : State) (t n : Nat) : Nat :=
  let v := regNat s (dcs t (0x8000 + 0x20 * n)) 8
  if entryLost s t 8 n v then 0 else v

/-- The reads of a tile's region table and duplicate filter for a request (17 R444). -/
def homeReads (s : State) (t : Nat) (f : Frame) : State :=
  if s.errs.marks.isEmpty then s
  else
    let s := tableRead s t 10 0 (natLE (bytesLE 4 (fSrc f).toNat ++ bytesLE 4 (fSeq f).toNat))
    (List.range 1024).foldl (fun s i => tableRead s t 8 i (regNat s (dcs t (0x8000 + 0x20 * i)) 8)) s

/-- Whether an entry holds the bytes from `lo` to `hi` (12 R319). -/
def regionHolds (v lo hi : Nat) : Bool := bitAt v 0 && decide (bitsOf v 106 64 ≤ lo ∧ lo ≤ hi ∧ hi ≤ bitsOf v 170 128)

/-- The region of `n` bytes at `a` (12 R319); no byte counts as the address itself. -/
def regionOf (s : State) (t a n : Nat) : Option Nat :=
  ((List.range 1024).find? (fun i =>
    bitAt (regWord s (dcs t (0x8000 + 0x20 * i))).toNat 0 && regionHolds (regionEntry s t i) a (if n = 0 then a else a + n - 1))).map
    (regionEntry s t)

/-- Whether `n` bytes at `a` touch a hole (01 R32). -/
def inHole (a n : Nat) : Bool := n ≠ 0 && decide (0x600000 < a % 2 ^ 23 + n)

-- The directory's part ----------------------------------------------------------------------------------------------

def dirFind (s : State) (line : Nat) : Option DirLine := s.dir.find? (fun e => e.line = line && !entryLost s SP 11 0 line)

/-- Whether the host holds a line in E (12 R334). -/
def heldE (s : State) (line : Nat) : Bool := (dirFind s line).any (·.excl)

/-- Whether a back-invalidation of a line is unanswered (14 R373). -/
def recalled (s : State) (line : Nat) : Bool := s.recalls.any (fun r => r.line = line)

/-- The directory changes, and APL_DIRSTAT with it (12 R334, R336). -/
def setDir (s : State) (ds : List DirLine) : State :=
  let s := { s with dir := ds }
  regPutNat s (dcs APL 0xC00) (ds.length + (ds.filter (·.excl)).length <<< 32) 2

/-- A back-invalidation of a line leaves, unless one is unanswered (12 R334, 14 R373). -/
def sendBinv (s : State) (line : Nat) : State :=
  if recalled s line then s else { emit s (.binv (64 * line)) with recalls := s.recalls ++ [⟨line, false⟩] }

/-- A write to a line the host holds in S invalidates it without waiting (12 R334). -/
def writeTouch (s : State) (line : Nat) : State :=
  match dirFind s line with
  | some e => if e.excl then s else sendBinv s line
  | none => s

-- Requests ----------------------------------------------------------------------------------------------------------

/-- Bytes a request frame touches at the home (12 R313, R314, R320). -/
def reqTouch (f : Frame) : Nat :=
  match fType f with
  | 2 => 8 * fAop f
  | 3 => f.payload.length
  | _ => if 12 ≤ fAop f % 16 then 8 else atomicTouch (fAop f)

/-- Bit of the region entry that permits a request; none for an operation no permission grants (12 R319, R320). -/
def reqPermit (f : Frame) : Option Nat :=
  match fType f with
  | 2 => some 1
  | 3 => some 2
  | _ =>
    let o := fAop f % 16
    if o < 10 then some 3 else if o < 12 then some 4 else none

/-- Device physical address of a request (12 R311). -/
def reqDpa (f : Frame) : Nat := fArg f % 2 ^ 43

/-- R320, rules 2 to 4: the NAK code, or none. -/
def homeRefuses (s : State) (t : Nat) (f : Frame) : Option Nat :=
  if fCorrupt f then some 4
  else if inHole (reqDpa f) (reqTouch f) then some 3
  else
    match regionOf s t (reqDpa f) (reqTouch f) with
    | none => some 3
    | some v =>
      if bitsOf v 31 8 ≠ fKey f then some 2
      else match reqPermit f with
        | some b => if bitAt v b then none else some 2
        | none => some 2

/-- What the port does for a request (12 R313, R314). -/
def svcOpOf (f : Frame) : SvcOp :=
  match fType f with
  | 2 => .read (8 * fAop f)
  | 3 => .write f.payload
  | _ => .atomic (fAop f) f.payload

/-- Bytes a queued request touches. -/
def svcTouch (r : SvcReq) : Nat :=
  match r.src, r.op with
  | .fabric f _ _, _ => reqTouch f
  | _, .read n => n
  | _, .write bs => bs.length
  | _, .atomic aop _ => atomicTouch aop

/-- The lines a queued request touches, as line numbers of the module (12 R323). -/
def svcLines (t lc : Nat) (r : SvcReq) : List Nat := (linesOf r.off (svcTouch r)).map (· + dpaOf (t * 16384 + lc) 0 / 64)

/-- Whether a host request acts while a back-invalidation of its line is unanswered: a WB, and the answer itself (14 R373). -/
def passesRecall : Instr → Bool
  | .wb _ _ => true
  | .binvWb _ _ => true
  | _ => false

/-- Whether a queued request must wait: one of the fabric for a line held in E, one of the host for the answer to a back-invalidation of
its line (12 R334; 14 R373). A line of a spill region waits for nothing (01 R19). -/
def svcWaits (s : State) (t lc : Nat) (r : SvcReq) : Bool :=
  match r.src with
  | .fabric .. => (svcLines t lc r).any (heldE s)
  | .host c => !passesRecall c && (svcLines t lc r).any (recalled s)
  | .spill .. => false

/-- Sets aside the requests that touch a line held in E, recalling it (12 R334). -/
def setAside (s : State) (t lc : Nat) : State :=
  let q := port s t lc
  let wait := fun r => if isFabric r && r.done = 0 then (svcLines t lc r).filter (heldE s) else []
  let s' := setPort s t lc (q.map (fun r => { r with aside := r.aside || !(wait r).isEmpty }))
  q.foldl (fun a r => (wait r).foldl sendBinv a) s'

/-- Bound of a counter of a tile's memory fabric (12 R337). -/
def mfCount (s : State) (t n : Nat) : State := regCount s (dcs t (0x10100 + 8 * n)) 1

/-- An answer returns to its Bridge, where a buffer is reserved for it (12 R322). -/
def answer (s : State) (d rsv : Nat) (f : Frame) : State :=
  arriveWith s d .localPort none (if rsv = 5 then none else some rsv) f

/-- A request reaches its home tile agent (12 R320, R330); `rsv` is the pool of the buffer reserved for its answer. -/
def homeTakes (s : State) (t : Nat) (f : Frame) (d rsv : Nat) : State :=
  let x := tile s t
  let key := (fSrc f, fSeq f)
  let s := homeReads s t f
  if x.filter.contains key && !entryLost s t 10 0 (natLE (bytesLE 4 (fSrc f).toNat ++ bytesLE 4 (fSeq f).toNat)) then mfCount (poolAdd s d rsv 1) t 6
  else
    let old := if 65536 ≤ x.filter.length then x.filter.drop 1 else x.filter
    let s := setTile s t { x with filter := old ++ [key] }
    match homeRefuses s t f with
    | some code => answer (mfCount s t 5) d rsv (nakFor s d f code)
    | none =>
      let lc := reqDpa f / 2 ^ 23 % 16384
      let r : SvcReq := ⟨reqDpa f % 2 ^ 23, svcOpOf f, .fabric f d rsv, 0, [], false, false⟩
      setAside (setPort s t lc (port s t lc ++ [r])) t lc

/-- The request at the head of SVC-REQ, if it is of a type. -/
def mfRequest (ty t : Nat) (s : State) : Out :=
  tileCmd t s (fun s =>
    match (tile s t).svcIn with
    | (f, d, rsv) :: rest => if fType f = ty then homeTakes (modTile s t (fun x => { x with svcIn := rest })) t f d rsv else s
    | [] => s)

def execMfLoad (t : Nat) (s : State) : Out := mfRequest 2 t s
def execMfStore (t : Nat) (s : State) : Out := mfRequest 3 t s
def execMfAtomic (t : Nat) (s : State) : Out := mfRequest 4 t s

-- Service -----------------------------------------------------------------------------------------------------------

/-- The request a port serves next: one under way, else one set aside whose line has come back, else the first that waits for no recall
(04 R105; 12 R323, R334). -/
def portPick (s : State) (t lc : Nat) : Option SvcReq :=
  let q := port s t lc
  let free := fun r => !svcWaits s t lc r
  match q.find? (fun r => r.done ≠ 0), q.find? (fun r => r.aside && free r) with
  | some r, _ => some r
  | none, some r => some r
  | none, none => q.find? free

/-- A request leaves its port's queue. -/
def portDrop (s : State) (t lc : Nat) (r : SvcReq) : State := setPort s t lc ((port s t lc).erase r)
def portPut (s : State) (t lc : Nat) (r r' : SvcReq) : State :=
  setPort s t lc ((port s t lc).map (fun x => if x = r then r' else x))

/-- The answer of a served request of the fabric returns to its Bridge; data of an uncorrectable burst carry CORRUPT (12 R313, R322; 17
R444). -/
def sendAnswer (s : State) (r : SvcReq) (ty : Nat) (data : List Byte) : State :=
  match r.src with
  | .fabric f d rsv =>
    let a := mkFrame { dest := fSrc f, src := fDest f, cls := 1, hop := 0, type := ty
                       seq := (fSeq f).toNat, epoch := epochOf s d, payload := data }
    answer s d rsv (if r.bad then fSet a 71 71 1 else a)
  | _ => s

/-- A service-slot read of `n` bytes at `a`: an uncorrectable burst is recorded (17 R444). -/
def slotRead (s : State) (a n : Nat) : State × Bool :=
  let (s, bad) := dramCheck s a n
  (if bad then recordDram s a 1 else s, bad)

/-- A count of a served request of the fabric (12 R337). -/
def fabricCount (s : State) (t n : Nat) (r : SvcReq) : State := if isFabric r then mfCount s t n else s

/-- Bytes [lo, hi) of a request's range that lie in its `i`-th line. -/
def lineSpan (off n i : Nat) : Nat × Nat :=
  let l := off / 64 + i
  (max off (64 * l), min (off + n) (64 * l + 64))

/-- One service slot of a read or a write (04 R105, 12 R323). -/
def serveLine (s : State) (t lc : Nat) (r : SvcReq) : State :=
  let base := dpaOf (t * 16384 + lc) 0
  match r.op with
  | .read n =>
    let k := (linesOf r.off n).length
    let (lo, hi) := lineSpan r.off n r.done
    let got := if n = 0 then [] else r.got ++ memRead s.dram (base + lo) (hi - lo)
    let (s, bad) := slotRead s (base + lo) (hi - lo)
    let r' := { r with bad := r.bad || bad }
    if k ≤ r.done + 1 then sendAnswer (fabricCount (portDrop s t lc r) t 0 r) r' 5 got
    else portPut s t lc r { r' with done := r.done + 1, got := got }
  | .write bs =>
    let k := (linesOf r.off bs.length).length
    let (lo, hi) := lineSpan r.off bs.length r.done
    let s' := if bs.isEmpty then s
      else writeTouch { s with dram := memWrite s.dram (base + lo) ((bs.drop (lo - r.off)).take (hi - lo)) } ((base + lo) / 64)
    if k ≤ r.done + 1 then sendAnswer (fabricCount (portDrop s' t lc r) t 1 r) r 6 []
    else portPut s' t lc r { r with done := r.done + 1 }
  | .atomic _ _ => s

/-- The refresh phase of tile `t` in frame `f`: a write acts from a frame whose index is a multiple of 64 (04 R106). -/
def refreshPhase (s : State) (t f : Nat) : Nat :=
  match (tile s t).refph with
  | some (old, first) => if f < first then old else regBits s (dcs t 0x10000) 5 0
  | none => regBits s (dcs t 0x10000) 5 0

/-- Whether the frame of count `n` is one in which tile `t` refreshes its slivers in the service slot (04 R106). -/
def refreshFrame (s : State) (t n : Nat) : Bool := (n / 128 + refreshPhase s t (n / 128)) % 64 = 0

/-- A write of TIL_REFPH (04 R106). -/
def refphWrite (s : State) (t : Nat) (v : BitVec 32) : State :=
  let f := s.count / 128
  let old := refreshPhase s t f
  modTile (regWrite s (dcs t 0x10000) v) t (fun x => { x with refph := some (old, 64 * (f / 64 + 1)) })

/-- REFRESH: the service slot of a frame in which a tile refreshes its slivers serves nothing, and their bytes stay; in another frame
nothing is refreshed (04 R106). -/
def execRefresh (t : Nat) (s : State) : Out := tileCmd t s (fun s => s)

-- Atomics -----------------------------------------------------------------------------------------------------------

/-- The new memory value of an integer atomic of width `w` (12 R314). -/
def atomicNew (o w m a a2 : Nat) : Nat :=
  match o with
  | 0 => (m + a) % 2 ^ w
  | 1 => m &&& a
  | 2 => m ||| a
  | 3 => m ^^^ a
  | 4 => if toSigned w a < toSigned w m then a else m
  | 5 => if toSigned w m < toSigned w a then a else m
  | 6 => min m a
  | 7 => max m a
  | 8 => a
  | 9 => if m = a then a2 else m
  | _ => m

/-- Serves an atomic: the memory value it leaves, the 8 bytes it may return, and its counter (12 R314 to R317, R337). -/
def atomicServe (dram : Memory) (a aop : Nat) (data : List Byte) : Memory × List Byte × Nat :=
  match aop % 16 with
  | 10 => (memWrite dram a (bytesLE 64 (xaddLine (memNat dram a 64) (fieldLE data 0 4))), bytesLE 8 0, 3)
  | 11 => (dram, bytesLE 8 (xrdLine (memNat dram a 64)), 4)
  | o =>
    let n := if bitAt aop 4 then 8 else 4
    let m := memNat dram a n
    (memWrite dram a (bytesLE n (atomicNew o (8 * n) m (fieldLE data 0 n) (fieldLE data n n))), bytesLE 8 m, 2)

/-- NAK CORRUPT for an atomic whose burst is uncorrectable: nothing is written (17 R444). -/
def nakAtomic (s : State) (t : Nat) (r : SvcReq) : State :=
  match r.src with
  | .fabric f d rsv => answer (mfCount s t 5) d rsv (nakFor s d f 4)
  | _ => s

/-- An upset of the exact-sum adder of a tile changes the line at `a`, and the residues are compared (17 R440, R441). -/
def homeUpset (s : State) (t a : Nat) : State × Memory :=
  match takeUnitUpset s (128 + t) with
  | (s, some u) => (unitCheck s t 3 u, memWrite s.dram a (bytesLE 64 (memNat s.dram a 64 ^^^ u.flip)))
  | (s, none) => (s, s.dram)

/-- The service of the port's next request, if it is an atomic of operation `o`: one whole two-slot service, or the one slot
of an XRD (04 R105, 12 R323). -/
def serveAtomic (o c : Nat) (s : State) : Out :=
  coreCmd c s (fun s =>
    let t := tileOf c
    let lc := lcOf c
    let s := setAside s t lc
    match portPick s t lc with
    | some r =>
      match r.op with
      | .atomic aop data =>
        if aop % 16 = o ∧ refreshFrame s t s.count = false then
          let a := dpaOf c r.off
          let (s, bad) := slotRead s a (atomicTouch aop)
          let (m, v, n) := atomicServe s.dram a aop data
          if bad && o ≠ 11 then nakAtomic (portDrop s t lc r) t r
          else
            let s := { mfCount (portDrop s t lc r) t n with dram := m }
            let (s, m') := if o = 10 then homeUpset s t a else (s, m)
            let s := if o = 11 then s else writeTouch { s with dram := m' } (a / 64)
            let r := { r with bad := bad }
            if bitAt aop 5 then sendAnswer s r 5 v else sendAnswer s r 6 []
        else s
      | _ => s
    | none => s)

def execAtomicAdd (c : Nat) (s : State) : Out := serveAtomic 0 c s
def execAtomicAnd (c : Nat) (s : State) : Out := serveAtomic 1 c s
def execAtomicOr (c : Nat) (s : State) : Out := serveAtomic 2 c s
def execAtomicXor (c : Nat) (s : State) : Out := serveAtomic 3 c s
def execAtomicMin (c : Nat) (s : State) : Out := serveAtomic 4 c s
def execAtomicMax (c : Nat) (s : State) : Out := serveAtomic 5 c s
def execAtomicMinu (c : Nat) (s : State) : Out := serveAtomic 6 c s
def execAtomicMaxu (c : Nat) (s : State) : Out := serveAtomic 7 c s
def execSwap (c : Nat) (s : State) : Out := serveAtomic 8 c s
def execCas (c : Nat) (s : State) : Out := serveAtomic 9 c s
def execXadd (c : Nat) (s : State) : Out := serveAtomic 10 c s
def execXrd (c : Nat) (s : State) : Out := serveAtomic 11 c s

end Sys2Proof.Machine
end

