-- ==== Sys2Proof/Machine/Agent.lean ====
section
/-! DEFINITION. The tile agent's sending side: outboxes, injection queues and policers, the requester table, and the answers of
the memory fabric (04 R117, R118; 09 R247 to R249; 12 R321, R326, R327; 11 R293 to R296). -/
namespace Sys2Proof.Machine

-- The requester -----------------------------------------------------------------------------------------------------

/-- The requester-table entry an answer matches (12 R327). -/
def reqEntry (t : Tile) (lc : Nat) (seq : Nat) : Option ReqEntry := t.req.find? (fun e => e.lc = lc && e.seq = seq)

/-- Whether the requester-table entry of an answer has an uncorrectable error (17 R444). -/
def reqLost (s : State) (t : Nat) (f : Frame) : Bool := entryLost s t 9 0 (fSeq f).toNat

/-- An answer has been processed: the entry is released and OUT decreases (12 R327). -/
def releaseReq (s : State) (c : Nat) (e : ReqEntry) : State :=
  let s := modTile s (tileOf c) (fun x => { x with req := x.req.erase e })
  modCore s c (fun k => { k with capo := k.capo - 1 })

/-- A fault waiting for the first fence issued after the post of its request (12 R321). -/
def addNakFault (k : Core) (posted code : Nat) : Core := { k with naks := k.naks ++ [(posted, code)] }

/-- A NAK at the requester (12 R321). -/
def takeNak (s : State) (c : Nat) (e : ReqEntry) (code : Nat) : State :=
  let s := if e.rlb < 16 then landCount s c e.rlb e.len else s
  let s := match code with
    | 1 => recordTile s (tileOf c) 0x23
    | 2 => modCore s c (fun k => addNakFault k e.posted 0x12)
    | 3 => modCore s c (fun k => addNakFault k e.posted 0x05)
    | _ => s
  releaseReq s c e

/-- An answer from FRM-IN: `land` is what it does with its entry; one that matches none records MF_DUPLICATE (12 R331). -/
def takeAnswer (ty t : Nat) (land : State → Nat → ReqEntry → Frame → State) (s : State) : Out :=
  tileCmd t s (fun s =>
    match frmHead (tile s t) ty with
    | none => s
    | some f =>
      let s := popFrm s t f
      let c := destCore f
      let s := tableRead s t 9 0 (fSeq f).toNat
      match (reqEntry (tile s t) (lcOf c) (fSeq f).toNat).filter (fun _ => !reqLost s t f) with
      | none => mfCount (recordTile s t 0x2C) t 7
      | some e => land s c e f)

/-- MF_DATA: the bytes land at RSA (12 R321). -/
def execMfData (t : Nat) (s : State) : Out :=
  takeAnswer 5 t (fun s c e f => releaseReq (if e.rlb < 16 then landAt s c e.rlb e.rsa f.payload else s) c e) s

def execMfAck (t : Nat) (s : State) : Out := takeAnswer 6 t (fun s c e _ => releaseReq s c e) s

def execNak (t : Nat) (s : State) : Out := takeAnswer 7 t (fun s c e f => takeNak s c e (fAop f)) s

-- Sending -----------------------------------------------------------------------------------------------------------

/-- A frame leaves a tile agent: its own reachability check, then FRM-OUT (07 R197, R208; 01 R20). -/
def agentEmit (s : State) (t : Nat) (f : Frame) : State :=
  match routeFrame s t .localPort f with
  | .copies cs => let (d, via) := tileExit f cs; arriveVia s d .localPort via f
  | .unreachable =>
    if isMfReq (fType f) then
      match reqEntry (tile s t) (epLc (fSrc f)) (fSeq f).toNat with
      | some e => takeNak s (t * 16384 + epLc (fSrc f)) e 1
      | none => s
    else recordAs s t 0x23 (if fCls f = 3 then 2 else 1) 0

/-- The injection queue of a class. -/
def injQ (s : State) (t k : Nat) : List (Bool × Frame) := ((tile s t).inj[k]?).getD []
def setInj (s : State) (t k : Nat) (q : List (Bool × Frame)) : State :=
  modTile s t (fun x => { x with inj := x.inj.set k q })

/-- A count of policer outcomes (09 R250). -/
def polCount (s : State) (d n : Nat) : State := regCount s (dcs d (0xA00 + 8 * n)) 1

/-- Releases frames of a class from the head of its injection queue while they are not red (09 R247, R248). -/
def releaseInj (t k : Nat) : Nat → State → State
  | 0, s => s
  | n + 1, s =>
    match injQ s t k with
    | [] => s
    | (seen, f) :: rest =>
      let sh := shaperOf (tile s t).pol k
      let col := colour s t 0x900 k sh (64 * flitsOf f)
      if col = 2 then
        if seen then s else polCount (setInj s t k ((true, f) :: rest)) t (8 + k)
      else releaseInj t k n (agentEmit (polCount (debit (setInj s t k rest) t 0x900 k sh col (64 * flitsOf f)) t (4 * col + k)) t f)

/-- Frames of one class are ready to leave a tile agent; RSP frames are never policed (09 R247). -/
def agentSends (s : State) (t k : Nat) (fs : List Frame) : State :=
  if k = 1 then fs.foldl (fun s f => agentEmit s t f) s
  else
    let q := injQ s t k ++ fs.map (fun f => (false, f))
    releaseInj t k q.length (setInj s t k q)

/-- Whether a class's outbox entries must wait for a held frame (09 R248). -/
def classHeld (s : State) (t k : Nat) : Bool := k ≠ 1 && !(injQ s t k).isEmpty

-- SEND and memory-fabric entries ------------------------------------------------------------------------------------

/-- An agent-port read of payload bytes of a core: whether a word is uncorrectable, which is recorded (17 R444). -/
def payloadRead (s : State) (c : Nat) (spans : List (Nat × Nat)) : State × Bool :=
  if (coreOf s c).ecc.marks.isEmpty then (s, false)
  else
    let ws := spans.flatMap (fun x => wordsOf x.1 x.2)
    let (k, bad) := eccRead (coreOf s c) 0 ws
    let s := eccFlush (setCore s c k) c
    (if bad then recordSram s (tileOf c) 3 (ws.headD 0) else s, bad)

/-- Frames that carry what an uncorrectable read gave (17 R444). -/
def spoil (bad : Bool) (fs : List Frame) : List Frame := if bad then fs.map (fun f => fSet f 71 71 1) else fs

/-- The SEND frame of a descriptor, and the stream counts after it (04 R118; 07 R203; 08 R212). -/
def sendFrame (s : State) (c : Nat) (d : List Byte) : State × Frame :=
  let t := tileOf c
  let cls := fieldLE d 2 1 % 4
  let last := bitAt (fieldLE d 2 1) 2
  let dest := BitVec.ofNat 32 (fieldLE d 4 4)
  let ad := fieldLE d 8 8
  let id := ad % 2 ^ 16
  let isMine := fun (r : SendRow) => r.lc = lcOf c && r.dest = dest && r.cls = cls && r.id = id
  let n := (match (tile s t).sends.find? isMine with | some r => r.count | none => 0) + 1
  let rest := (tile s t).sends.filter (fun r => !isMine r)
  let s := modTile s t (fun x => { x with sends := if last then rest else rest ++ [⟨lcOf c, dest, cls, id, n⟩] })
  (s, mkFrame { dest := dest, src := coreEpid s c, cls := cls, hop := 0, type := 1, last := last
                seq := id + (if last then (n % 2 ^ 16) <<< 16 else 0), arg := bitsOf ad 35 16, epoch := epochOf s t
                payload := memRead (coreOf s c).ls (fieldLE d 16 2) (fieldLE d 18 2) })

/-- The request frame of a memory descriptor, and its requester-table entry (12 R310 to R314, R326). -/
def mfFrame (s : State) (c posted : Nat) (d : List Byte) : ReqEntry × Frame :=
  let t := tileOf c
  let op := fieldLE d 0 1
  let rlb := if op = 3 then 0xFF else fieldLE d 1 1
  let mfa := fieldLE d 8 8
  let len := fieldLE d 18 2
  let aop := fieldLE d 27 1 % 32 + (if rlb < 16 then 32 else 0)
  let seq := (coreOf s c).mfSeq
  (⟨posted, lcOf c, seq, rlb, fieldLE d 20 2, if op = 2 then len else if op = 4 then 8 else 0⟩,
   mkFrame { dest := epid (selfAt s t).1 (bitsOf mfa 46 43) (bitsOf mfa 42 37) 1 0, src := coreEpid s c, cls := 0, hop := 0
             type := op, seq := seq, arg := mfa, key := fieldLE d 24 3
             aop := if op = 2 then len / 8 else if op = 4 then aop else 0, epoch := epochOf s t
             payload := if op = 2 then [] else memRead (coreOf s c).ls (fieldLE d 16 2) len })

/-- Whether the requester table takes one more request of a core (12 R326). -/
def reqRoom (t : Tile) (lc : Nat) : Bool :=
  decide ((t.req.filter (fun e => e.lc = lc)).length < 256 ∧ t.req.length < 65536)

-- Collective entries ------------------------------------------------------------------------------------------------

/-- The subheader fields every frame of an instance shares: ROP, EXACT and WIRE are the descriptor's, P and CID the entry's (10
R254, 11 R293; DEDUCED for pieces and counts, log 72). -/
def postSub (c : Course) (p : CollPost) : Sub :=
  { cid := c.cid, seq := p.seq, p := c.p, rop := p.rop, exact := p.exact, wire := p.wire }

/-- What a post's frames share. -/
def postSpec (s : State) (c : Nat) (p : CollPost) (type kind : Nat) : CollSpec :=
  ⟨tileEpid s (tileOf c), type, collArg c p.ct p.rlb p.nlb (stepLow s (tileOf c)), collStream p.seq kind, epochOf s (tileOf c)⟩

/-- The frames of an instance's leaf (11 R293, R299). -/
def leafFrames (s : State) (c : Nat) (e : Course) (r : Nat) (p : CollPost) : List Frame :=
  let a := selfAt s (tileOf c)
  let root := rankAt e e.root
  let sz := wireSize p.wire
  let vals := elemsOf sz p.n p.vals
  let xs := if (e.listen[r]?).getD false then vals.map (fun _ => if p.exact then 0 else identityOf p.rop p.wire) else vals
  let u := { postSub e p with rop := p.rop, exact := p.exact, prog := e.prog % 16, wire := p.wire, root := e.root, lo := r
                              nchunk := 1 }
  legFrames (postSpec s c p 0x10 0) (elemItems u sz 0 xs) (upLeg e c a root (engineAt (engOf e e.rootEng c) root))

/-- Members of a course other than a rank. -/
def othersOf (e : Course) (r : Nat) : List (Nat × Nat) := e.members.eraseIdx r

/-- The frames of an MM.AG piece (11 R292, R293). -/
def pieceFrames (s : State) (c : Nat) (e : Course) (r : Nat) (p : CollPost) (bs : List Byte) : List Frame :=
  pathFrames (postSpec s c p 0x12 0) (pieceItems { postSub e p with lo := r } bs)
    (downLegs e c (selfAt s (tileOf c)) (othersOf e r) (partnerAt c))

/-- One CCOUNT to a rank on a leg (11 R292, R294). -/
def countFrames (s : State) (c : Nat) (e : Course) (r : Nat) (p : CollPost) (n : Nat) (l : Leg) : List Frame :=
  legFrames (postSpec s c p 0x13 1) [({ postSub e p with root := p.root, lo := r }, bytesLE 8 n)] l

/-- The frames a collective entry sends when it leaves the outbox, and the data it keeps for bases to come (11 R293 to
R296). -/
def postFrames (s : State) (c : Nat) (e : Course) (r : Nat) (p : CollPost) : List Frame × List XchSend :=
  let a := selfAt s (tileOf c)
  let bytes := fun (x : Nat × Nat) => memRead (coreOf s c).ls x.1 x.2
  match p.kind with
  | 1 => (p.ranges.flatMap (fun x => pieceFrames s c e r p (bytes x)), [])
  | 4 =>
    let rs := (List.range e.p).zip p.ranges
    (rs.flatMap (fun x => countFrames s c e r p x.2.2 (downLeg e c a (rankAt e x.1) (partnerAt c (rankAt e x.1)))),
     (rs.filter (fun x => x.2.2 ≠ 0)).map (fun x => ⟨lcOf c, p.ct, p.seq, x.1, p, bytes x.2⟩))
  | 5 =>
    let root := rankAt e p.root
    let data := p.ranges.flatMap bytes
    if e.prog = 0 then
      (countFrames s c e r p data.length (upLeg e c a root (partnerAt c root)),
       if data.isEmpty then [] else [⟨lcOf c, p.ct, p.seq, p.root, p, data⟩])
    else
      (legFrames (postSpec s c p 0x12 0) (pieceItems { postSub e p with root := p.root, prog := e.prog % 16, lo := r } data)
        (upLeg e c a root (engineAt (engOf e e.rootEng c) root)), [])
  | _ => (leafFrames s c e r p, [])

-- OUTBOX_DRAIN ------------------------------------------------------------------------------------------------------

/-- The entry at the head of an outbox leaves it. -/
def popOutbox (s : State) (c : Nat) : State := modCore s c (fun k => { k with outbox := k.outbox.drop 1 })

/-- Drains a descriptor entry (04 R117, R118; 12 R326). -/
def drainDesc (s : State) (c posted : Nat) (d : List Byte) : State :=
  let t := tileOf c
  if fieldLE d 0 1 = 1 then
    let cls := fieldLE d 2 1 % 4
    if classHeld s t cls then s
    else
      let (s, f) := sendFrame s c d
      let (s, bad) := payloadRead s c [(fieldLE d 16 2, fieldLE d 18 2)]
      agentSends (popOutbox s c) t cls (spoil bad [f])
  else if classHeld s t 0 || !reqRoom (tile s t) (lcOf c) then s
  else
    let (e, f) := mfFrame s c posted d
    let s := modTile s t (fun x => { x with req := x.req ++ [e] })
    let s := modCore (popOutbox s c) c (fun k => { k with mfSeq := k.mfSeq + 1 })
    let (s, bad) := payloadRead s c [(fieldLE d 16 2, f.payload.length)]
    agentSends s t 0 (spoil bad [f])

/-- Drains a collective entry; one whose course entry is gone is consumed as unreachable (07 R208). -/
def drainColl (s : State) (c : Nat) (p : CollPost) : State :=
  let t := tileOf c
  if classHeld s t 2 then s
  else
    let s := courseRead s t p.ct
    match course? s t p.ct with
    | none => recordTile (popOutbox s c) t 0x23
    | some e =>
      match rankOf e (selfAt s t) with
      | none => recordTile (popOutbox s c) t 0x23
      | some r =>
        let (fs, owed) := postFrames s c e r p
        let s := modTile (popOutbox s c) t (fun x => { x with xsend := x.xsend ++ owed })
        let (s, bad) := payloadRead s c p.ranges
        agentSends s t 2 (spoil bad fs)

/-- OUTBOX_DRAIN: the tile agent takes the oldest outbox entry of a core (04 R117, 06 R177). -/
def execOutboxDrain (c : Nat) (s : State) : Out :=
  coreCmd c s (fun s =>
    match (coreOf s c).outbox with
    | [] => s
    | e :: _ =>
      match e.kind with
      | .desc d => drainDesc s c e.posted d
      | .coll p => drainColl s c p
      | .merge d =>
        let bs := memRead (coreOf s c).ls (fieldLE d 8 2) (fieldLE d 10 2 * (if fieldLE d 1 1 = 1 then 16 else 8))
        modTile (popOutbox s c) (tileOf c) (fun x => { x with mergeQ := x.mergeQ ++ [⟨lcOf c, d, bs⟩] }))

-- Policers ----------------------------------------------------------------------------------------------------------

/-- Whether a die has injection policers: the tiles, the Soundpost and the Apeno die (09 R247). -/
def hasPolicer (d : Nat) : Bool := d < 64 || d = SP || d = APL

/-- The policers in force of a die. -/
def policersOf (s : State) (d : Nat) : List Shaper :=
  if d < 64 then (tile s d).pol else if d = SP then s.polSp else s.polApl

def setPolicers (s : State) (d : Nat) (ps : List Shaper) : State :=
  if d < 64 then modTile s d (fun x => { x with pol := ps })
  else if d = SP then { s with polSp := ps } else { s with polApl := ps }

/-- POLICER_RELEASE: one cycle of a source's domain for class `k`: refill, then the frames no longer red leave (09 R243,
R247). -/
def execPolicerRelease (d k : Nat) (s : State) : Out :=
  if !hasPolicer d || 4 ≤ k then .refused (.noSuchUnit "policer")
  else .next (
    if !soundpostRuns s || !dieLive s d then s
    else
      let s := refillTokens s d 0x900 k (shaperOf (policersOf s d) k)
      if d < 64 then releaseInj d k (injQ s d k).length s else s)

/-- A write of a POLCMT register (09 R246, R249). -/
def policerWrite (s : State) (d v : Nat) : State :=
  let (s, ps) := commitShapers s d 0x900 (v % 16) (bitAt v 4) (policersOf s d)
  setPolicers s d ps

def execPolicerCommit (d : Nat) (v : BitVec 32) (s : State) : Out :=
  if !hasPolicer d then .refused (.noSuchUnit "policer")
  else mmioWrite (.policerCommit d v) d false s (fun s => policerWrite s d v.toNat)

end Sys2Proof.Machine
end

