-- ==== Sys2Proof/Machine/Crypto.lean ====
section
/-! DEFINITION. The published algorithms the Soundpost and the security die run: SHA-256, HMAC-SHA-256, HMAC counter mode key
derivation, ECDSA and ECDH over P-256, AES-256-GCM (14 R380; 15 R391, R394, R399, R405). -/
namespace Sys2Proof.Machine

-- SHA-256 (FIPS 180-4) ----------------------------------------------------------------------------------------------

def shaK0 : List Word := [0x428a2f98, 0x71374491, 0xb5c0fbcf, 0xe9b5dba5, 0x3956c25b, 0x59f111f1, 0x923f82a4, 0xab1c5ed5, 0xd807aa98, 0x12835b01, 0x243185be, 0x550c7dc3, 0x72be5d74, 0x80deb1fe, 0x9bdc06a7, 0xc19bf174]
def shaK1 : List Word := [0xe49b69c1, 0xefbe4786, 0x0fc19dc6, 0x240ca1cc, 0x2de92c6f, 0x4a7484aa, 0x5cb0a9dc, 0x76f988da, 0x983e5152, 0xa831c66d, 0xb00327c8, 0xbf597fc7, 0xc6e00bf3, 0xd5a79147, 0x06ca6351, 0x14292967]
def shaK2 : List Word := [0x27b70a85, 0x2e1b2138, 0x4d2c6dfc, 0x53380d13, 0x650a7354, 0x766a0abb, 0x81c2c92e, 0x92722c85, 0xa2bfe8a1, 0xa81a664b, 0xc24b8b70, 0xc76c51a3, 0xd192e819, 0xd6990624, 0xf40e3585, 0x106aa070]
def shaK3 : List Word := [0x19a4c116, 0x1e376c08, 0x2748774c, 0x34b0bcb5, 0x391c0cb3, 0x4ed8aa4a, 0x5b9cca4f, 0x682e6ff3, 0x748f82ee, 0x78a5636f, 0x84c87814, 0x8cc70208, 0x90befffa, 0xa4506ceb, 0xbef9a3f7, 0xc67178f2]

/-- The round constants of SHA-256. -/
def shaK : List Word := shaK0 ++ shaK1 ++ shaK2 ++ shaK3

/-- The eight working words. -/
structure Sha where
  a : Word
  b : Word
  c : Word
  d : Word
  e : Word
  f : Word
  g : Word
  h : Word
deriving DecidableEq, Repr

/-- The initial hash value. -/
def shaInit : Sha :=
  ⟨0x6a09e667, 0xbb67ae85, 0x3c6ef372, 0xa54ff53a, 0x510e527f, 0x9b05688c, 0x1f83d9ab, 0x5be0cd19⟩

/-- One round, with its constant and schedule word. -/
def shaRound (x : Sha) (kw : Word × Word) : Sha :=
  let s1 := x.e.rotateRight 6 ^^^ x.e.rotateRight 11 ^^^ x.e.rotateRight 25
  let t1 := x.h + s1 + ((x.e &&& x.f) ^^^ (~~~x.e &&& x.g)) + kw.1 + kw.2
  let s0 := x.a.rotateRight 2 ^^^ x.a.rotateRight 13 ^^^ x.a.rotateRight 22
  let t2 := s0 + ((x.a &&& x.b) ^^^ (x.a &&& x.c) ^^^ (x.b &&& x.c))
  ⟨t1 + t2, x.a, x.b, x.c, x.d + t1, x.e, x.f, x.g⟩

/-- Extends the message schedule by `n` words; `w` holds the words so far, latest first. -/
def shaSchedule : Nat → List Word → List Word
  | 0, w => w
  | n + 1, w =>
    let x := (w[1]?).getD 0
    let y := (w[14]?).getD 0
    let s1 := x.rotateRight 17 ^^^ x.rotateRight 19 ^^^ x >>> 10
    let s0 := y.rotateRight 7 ^^^ y.rotateRight 18 ^^^ y >>> 3
    shaSchedule n ((s1 + (w[6]?).getD 0 + s0 + (w[15]?).getD 0) :: w)

/-- One 64-byte block. -/
def shaBlock (h : Sha) (blk : List Byte) : Sha :=
  let w := (shaSchedule 48 (((chunks 4 blk).map (fun b => BitVec.ofNat 32 (natBE b))).reverse)).reverse
  let x := (shaK.zip w).foldl shaRound h
  ⟨h.a + x.a, h.b + x.b, h.c + x.c, h.d + x.d, h.e + x.e, h.f + x.f, h.g + x.g, h.h + x.h⟩

/-- The padding of a message of `n` bytes. -/
def shaPad (n : Nat) : List Byte := 0x80 :: List.replicate ((119 - n % 64) % 64) 0 ++ bytesBE 8 (8 * n)

/-- The eight words as 32 bytes. -/
def shaBytes (h : Sha) : List Byte :=
  [h.a, h.b, h.c, h.d, h.e, h.f, h.g, h.h].flatMap (fun w => bytesBE 4 w.toNat)

/-- SHA-256 of a byte string. -/
def sha256 (m : List Byte) : List Byte := shaBytes ((chunks 64 (m ++ shaPad m.length)).foldl shaBlock shaInit)

/-- HMAC-SHA-256 (FIPS 198-1). -/
def hmac (key m : List Byte) : List Byte :=
  let k := bytesAt (if 64 < key.length then sha256 key else key) 0 64
  sha256 (k.map (fun b => b ^^^ 0x5C) ++ sha256 (k.map (fun b => b ^^^ 0x36) ++ m))

/-- An ASCII string as bytes. -/
def ascii (t : String) : List Byte := t.toList.map (fun c => BitVec.ofNat 8 c.toNat)

/-- Output block `i` of the counter-mode derivation of 15 R405: NIST SP 800-108 with a 32-bit counter before the label, a zero
byte, the context (the boot nonce for the alias key, else none) and the output length in bits. SP 800-108 leaves these widths to
the implementation and R405 does not state them (PRESUMED, log 17). -/
def kdfWith (key : List Byte) (label : String) (context : List Byte) (i bits : Nat) : List Byte :=
  hmac key (bytesBE 4 i ++ ascii label ++ [0] ++ context ++ bytesBE 4 bits)

def kdfBlock (key : List Byte) (label : String) (i bits : Nat) : List Byte := kdfWith key label [] i bits

-- P-256 (FIPS 186-5) ------------------------------------------------------------------------------------------------

def p256P : Nat := 0xffffffff00000001000000000000000000000000ffffffffffffffffffffffff
def p256N : Nat := 0xffffffff00000000ffffffffffffffffbce6faada7179e84f3b9cac2fc632551
def p256B : Nat := 0x5ac635d8aa3a93e7b3ebbd55769886bc651d06b0cc53b0f63bce3c3e27d2604b
def p256Gx : Nat := 0x6b17d1f2e12c4247f8bce6e563a440f277037d812deb33a0f4a13945d898c296
def p256Gy : Nat := 0x4fe342e2fe1a7f9b8ee7eb4a7c0f9e162bce33576b315ececbb6406837bf51f5

/-- `b` to the power spelled by the low `n` bits of `e`, modulo `m`. -/
def powMod (m b e : Nat) : Nat → Nat
  | 0 => 1 % m
  | n + 1 =>
    let r := powMod m (b * b % m) (e / 2) n
    if e % 2 = 1 then b * r % m else r

/-- The inverse modulo a prime of 256 bits. -/
def invMod (m a : Nat) : Nat := powMod m (a % m) (m - 2) 256

/-- A point of the curve, none being the point at infinity. -/
abbrev Point := Option (Nat × Nat)

/-- The sum of two points. -/
def ptAdd : Point → Point → Point
  | none, q => q
  | p, none => p
  | some (x1, y1), some (x2, y2) =>
    if x1 = x2 ∧ (y1 + y2) % p256P = 0 then none
    else
      let l := if x1 = x2 then (3 * x1 * x1 + (p256P - 3)) * invMod p256P (2 * y1) % p256P
        else (y2 + p256P - y1) * invMod p256P (x2 + p256P - x1) % p256P
      let x3 := (l * l + 2 * p256P - x1 - x2) % p256P
      some (x3, (l * (x1 + p256P - x3) + p256P - y1) % p256P)

/-- A multiple of a point by the low `n` bits of `k`. -/
def ptMul (k : Nat) (q : Point) : Nat → Point
  | 0 => none
  | n + 1 =>
    let r := ptMul (k / 2) (ptAdd q q) n
    if k % 2 = 1 then ptAdd q r else r

/-- The point a public key of 64 bytes spells, if it lies on the curve (15 R391). -/
def ptOfBytes (bs : List Byte) : Point :=
  let x := natBE (bytesAt bs 0 32)
  let y := natBE (bytesAt bs 32 32)
  if x < p256P ∧ y < p256P ∧ y * y % p256P = (x * x * x + (p256P - 3) * x + p256B) % p256P then some (x, y) else none

/-- Whether a signature of 64 bytes verifies under a public key over a digest (15 R391, R395). -/
def ecdsaOk (key sig digest : List Byte) : Bool :=
  let r := natBE (bytesAt sig 0 32)
  let s := natBE (bytesAt sig 32 32)
  match ptOfBytes key with
  | none => false
  | some q =>
    if r = 0 ∨ p256N ≤ r ∨ s = 0 ∨ p256N ≤ s then false
    else
      let w := invMod p256N s
      match ptAdd (ptMul (natBE digest * w % p256N) (some (p256Gx, p256Gy)) 256) (ptMul (r * w % p256N) (some q) 256) with
      | none => false
      | some (x, _) => x % p256N = r

/-- The first output block from the `i`-th on, of at most `n`, that is neither 0 nor at least the group order (15 R405). -/
def kdfSearch (key : List Byte) (label : String) (context : List Byte) : Nat → Nat → Nat
  | 0, _ => 1
  | n + 1, i =>
    let k := natBE (kdfWith key label context i 256)
    if 0 < k ∧ k < p256N then k else kdfSearch key label context n (i + 1)

/-- A private scalar: every value of the 32-bit counter is gone through (15 R405). -/
def kdfScalarIn (key : List Byte) (label : String) (context : List Byte) : Nat := kdfSearch key label context (2 ^ 32 - 1) 1
def kdfScalar (key : List Byte) (label : String) : Nat := kdfScalarIn key label []

/-- The public key of a private scalar as 64 bytes (15 R391). -/
def publicKey (d : Nat) : List Byte :=
  match ptMul d (some (p256Gx, p256Gy)) 256 with
  | some (x, y) => bytesBE 32 x ++ bytesBE 32 y
  | none => List.replicate 64 0

/-- An ECDSA signature by a private scalar over a digest with a secret number: r and s; none where either is 0 (FIPS 186-5). -/
def ecdsaWith (d : Nat) (digest : List Byte) (k : Nat) : Option (Nat × Nat) :=
  match ptMul k (some (p256Gx, p256Gy)) 256 with
  | none => none
  | some (x, _) =>
    let r := x % p256N
    let s := invMod p256N k * (natBE digest + r * d) % p256N
    if r = 0 ∨ s = 0 then none else some (r, s)

/-- An ECDSA signature that draws secret numbers from 1 to n - 1 until one serves, at most `n` times (15 R391; FIPS 186-5). -/
def ecdsaSign (d : Nat) (digest : List Byte) (draw : Nat → Nat) : Nat → Nat × Nat
  | 0 => (0, 0)
  | n + 1 =>
    match ecdsaWith d digest (1 + draw n % (p256N - 1)) with
    | some x => x
    | none => ecdsaSign d digest draw n

/-- The 64 bytes of a signature: r, then s (15 R391). -/
def sigBytes (x : Nat × Nat) : List Byte := bytesBE 32 x.1 ++ bytesBE 32 x.2

/-- The X coordinate of the ECDH product, as 32 bytes; none for a key off the curve. -/
def ecdhX (d : Nat) (pub : List Byte) : Option (List Byte) :=
  match ptOfBytes pub with
  | none => none
  | some q => (ptMul d (some q) 256).map (fun p => bytesBE 32 p.1)

-- AES-256 (FIPS 197) and GCM (SP 800-38D) ---------------------------------------------------------------------------

/-- Product in GF(2^8) with the polynomial of AES; `n` bits of `b`. -/
def gf8 (a b : Nat) : Nat → Nat
  | 0 => 0
  | n + 1 =>
    let a2 := if 128 ≤ a then (2 * a) ^^^ 0x11B else 2 * a
    let r := gf8 a2 (b / 2) n
    if b % 2 = 1 then a ^^^ r else r

/-- `a` to the power 254 in GF(2^8), which inverts it: x^254 as the product of the powers x^2, x^4, up to x^128. -/
def gf8Inv (a : Nat) : Nat :=
  (List.range 7).foldl (fun (acc : Nat × Nat) _ => let q := gf8 acc.2 acc.2 8; (gf8 acc.1 q 8, q)) (1, a) |>.1

/-- The S-box. -/
def sbox (b : Nat) : Nat :=
  let x := gf8Inv b
  let rot := fun n => (x * 2 ^ n % 256) ||| (x / 2 ^ (8 - n))
  x ^^^ rot 1 ^^^ rot 2 ^^^ rot 3 ^^^ rot 4 ^^^ 0x63

/-- The words of the key schedule, latest first, `n` of them added to the eight of the key. -/
def aesExpand : Nat → Nat → List (List Nat) → List (List Nat)
  | 0, _, ws => ws
  | n + 1, i, ws =>
    let t := (ws[0]?).getD []
    let t := if i % 8 = 0 then
        match (t.drop 1 ++ t.take 1).map sbox with
        | b :: bs => (b ^^^ 2 ^ (i / 8 - 1)) :: bs
        | [] => []
      else if i % 8 = 4 then t.map sbox else t
    aesExpand n (i + 1) ((((ws[7]?).getD []).zip t).map (fun x => x.1 ^^^ x.2) :: ws)

/-- The fifteen round keys of a 32-byte key. -/
def aesKeys (key : List Byte) : List (List Nat) :=
  let ws := aesExpand 52 8 ((chunks 4 (key.map (·.toNat))).reverse)
  (chunks 4 ws.reverse).map (fun k => k.flatMap id)

def xorNats (a b : List Nat) : List Nat := (a.zip b).map (fun x => x.1 ^^^ x.2)

/-- ShiftRows on a state in column order. -/
def shiftRows (s : List Nat) : List Nat :=
  (List.range 16).map (fun i => let j := (i + 4 * (i % 4)) % 16; (s[j]?).getD 0)

/-- MixColumns. -/
def mixColumns (s : List Nat) : List Nat :=
  (chunks 4 s).flatMap (fun col =>
    (List.range 4).map (fun i =>
      let g := fun (j : Nat) => let m := (i + j) % 4; (col[m]?).getD 0
      gf8 (g 0) 2 8 ^^^ gf8 (g 1) 3 8 ^^^ g 2 ^^^ g 3))

/-- One block under a key schedule. -/
def aesBlock (keys : List (List Nat)) (blk : List Nat) : List Nat :=
  let s := xorNats blk ((keys[0]?).getD [])
  let s := (List.range 13).foldl (fun s r => xorNats (mixColumns (shiftRows (s.map sbox))) ((keys[r + 1]?).getD [])) s
  xorNats (shiftRows (s.map sbox)) ((keys[14]?).getD [])

/-- Product in GF(2^128) of GCM; the first operand's bits from the most significant down. -/
def gf128 (x v : Nat) : Nat → Nat
  | 0 => 0
  | n + 1 =>
    let v2 := if v % 2 = 1 then (v / 2) ^^^ (0xE1 * 2 ^ 120) else v / 2
    let r := gf128 x v2 n
    if bitAt x n then v ^^^ r else r

/-- GHASH of whole blocks. -/
def ghash (h : Nat) (blocks : List Nat) : Nat := blocks.foldl (fun y b => gf128 (y ^^^ b) h 128) 0

/-- AES-256-GCM decryption without additional data under a 96-bit IV; none when the tag fails. -/
def gcmOpen (key iv ct tag : List Byte) : Option (List Byte) :=
  let ks := aesKeys key
  let enc := fun (c : Nat) => aesBlock ks (iv.map (·.toNat) ++ (bytesBE 4 c).map (·.toNat))
  let num := fun (bs : List Nat) => bs.foldl (fun a b => 256 * a + b) 0
  let h := num (aesBlock ks (List.replicate 16 0))
  let blks := chunks 16 ct
  let full := blks.map (fun b => natBE (bytesAt b 0 16))
  let t := ghash h (full ++ [8 * ct.length]) ^^^ num (enc 1)
  if t ≠ natBE tag then none
  else
    some ((blks.zip (List.range blks.length)).flatMap (fun x =>
      (x.1.zip (enc (x.2 + 2))).map (fun y => y.1 ^^^ BitVec.ofNat 8 y.2)))

end Sys2Proof.Machine
end

