-- ==== Sys2Proof/Machine/Images.lean ====
section
/-! DEFINITION. The tables that commands and images carry, and the signed containers of the flash devices: their form, what
makes one valid, and what their records do (14 R383, R384; 15 R394 to R402). -/
namespace Sys2Proof.Machine

-- Tables ------------------------------------------------------------------------------------------------------------

/-- The dies that hold copies of a table: tiles and Bridges. -/
def tileDies : List Nat := List.range 64
def bridgeDies : List Nat := (List.range 36).map (· + 64)

/-- Writes a byte string, word by word, to the fields of a register that software may write (00 R6). -/
def writeWords (s : State) (a : Nat) (bs : List Byte) : State :=
  ((chunks 4 bs).zip (List.range bs.length)).foldl (fun s x => regWrite s (a + 4 * x.2) (BitVec.ofNat 32 (natLE x.1))) s

/-- Whether a SET_TOPOLOGY payload passes (14 R383). -/
def topologyOk (p : List Byte) : Bool :=
  decide (fieldLE p 0 1 ≤ 9 ∧ fieldLE p 1 1 ≤ 9 ∧ 1 ≤ fieldLE p 2 1 ∧ fieldLE p 2 1 ≤ 100) && fieldLE p 3 1 % 4 ≠ 3

/-- BRG_SELF and TIL_SELF as a topology gives them. -/
def topologySelf (p : List Byte) : Nat := fieldLE p 0 1 + fieldLE p 1 1 <<< 4 + 1 <<< 8

/-- BRG_PEER of link `k` as a topology gives it (14 R383). -/
def topologyPeer (p : List Byte) (k : Nat) : Nat :=
  let o := 16 + 16 * k
  fieldLE p o 1 % 16 + (fieldLE p (o + 1) 1 % 16) <<< 4 + (fieldLE p (o + 2) 1 % 128) <<< 8 + (fieldLE p (o + 3) 1 % 2) <<< 16

/-- What SET_TOPOLOGY writes beside the registers of the links: TIL_SELF, routes, NMTHR, ring settings, MODULES (14 R383). -/
def writeTopology (s : State) (p : List Byte) : State :=
  let nm := BitVec.ofNat 32 (fieldLE p 6 2)
  let rte := (p.drop 592).take 400
  let s := tileDies.foldl (fun s t =>
    let s := regWrite s (dcs t 0x830) (BitVec.ofNat 32 (topologySelf p))
    regWrite (writeWords s (dcs t 0x2000) rte) (dcs t 0x834) nm) s
  let s := bridgeDies.foldl (fun s d => regWrite (writeWords s (dcs d 0x2000) rte) (dcs d 0x38) nm) s
  let s := regSetBits (regSetBits s (dcs TUN 0x10) 1 0 (fieldLE p 3 1 % 4)) (dcs TUN 0x10) 23 8 (fieldLE p 4 2)
  regPut s (dcs SP 0x110) (BitVec.ofNat 32 (fieldLE p 2 1))

/-- The registers of one link; whether they changed (14 R383). -/
def writeLink (s : State) (p : List Byte) (d : Nat) : State × Bool :=
  let look := fun (s : State) => (regNat s (dcs d 0x0) 1, regNat s (dcs d 0x10) 2, regNat s (dcs d 0x18) 2)
  let old := look s
  let s := regWrite s (dcs d 0x0) (BitVec.ofNat 32 (topologySelf p))
  let s := writeWords s (dcs d 0x10) (bytesLE 8 (topologyPeer p (d - 64)))
  let s := writeWords s (dcs d 0x18) (bytesAt p (16 + 16 * (d - 64) + 8) 8)
  (s, look s ≠ old)

/-- A course table entry from its 256 bytes (11 R282). -/
def courseOfBytes (bs : List Byte) : Course :=
  let w := natLE (bs.take 12)
  let p := bitsOf w 23 16
  let m := fun r => fieldLE bs (32 + 2 * r) 2
  { cid := bitsOf w 15 0, p := p, root := bitsOf w 31 24, rootEng := bitsOf w 39 32, cornEng := bitsOf w 47 40
    espread := bitsOf w 53 48, rowPin := bitsOf w 57 56, colPin := bitsOf w 59 58, token := bitAt w 60
    prog := bitsOf w 68 64
    members := (List.range (min p 100)).map (fun r => (bitsOf (m r) 7 4, bitsOf (m r) 3 0))
    listen := (List.range (min p 100)).map (fun r => bitAt (m r) 8) }

/-- Whether an entry image may be written: empty or valid (11 R283). -/
def courseMay (bs : List Byte) : Bool := (courseOfBytes bs).p = 0 || courseOk (courseOfBytes bs)

/-- Writes course entries from `first` on into every copy (11 R282, 14 R384). -/
def writeCourses (s : State) (first : Nat) (es : List (List Byte)) : State :=
  (es.zip (List.range es.length)).foldl (fun s e =>
    let s := tileDies.foldl (fun s t => writeWords s (dcs t (0x4000 + 0x100 * (first + e.2))) e.1) s
    bridgeDies.foldl (fun s d => writeWords s (dcs d (0x8000 + 0x100 * (first + e.2))) e.1) s) s

/-- Writes region entries from `first` on into every copy (12 R318, 14 R384). -/
def writeRegions (s : State) (first : Nat) (es : List (List Byte)) : State :=
  (es.zip (List.range es.length)).foldl (fun s e =>
    tileDies.foldl (fun s t => writeWords s (dcs t (0x8000 + 0x20 * (first + e.2))) e.1) s) s

-- Containers --------------------------------------------------------------------------------------------------------

/-- A section of a container: type, offset, length (15 R394). -/
structure Section where
  type : Nat
  off : Nat
  len : Nat
deriving DecidableEq, Repr

/-- The section table of a container (15 R394). -/
def sections (bs : List Byte) : List Section :=
  (List.range (min 64 (fieldLE bs 0x18 2))).map (fun i =>
    let o := 0x100 + 16 * i
    ⟨fieldLE bs o 2, fieldLE bs (o + 4) 4, fieldLE bs (o + 8) 4⟩)

/-- The bytes of a section of a type, if the container has one. -/
def sectionOf (bs : List Byte) (ty : Nat) : Option (List Byte) :=
  ((sections bs).find? (fun x => x.type = ty)).map (fun x => (bs.drop x.off).take x.len)

/-- The section types a kind allows (15 R396). -/
def typeAllowed (kind ty : Nat) : Bool :=
  match ty with
  | 1 => kind = 1 || kind = 3
  | 2 => kind = 1 || kind = 3
  | 3 => kind = 1 || kind = 2
  | 4 => kind = 1 || kind = 2
  | 5 => kind = 1
  | 6 => kind = 1
  | 7 => kind = 1
  | 8 => kind = 1
  | 9 => kind = 1 || kind = 2
  | 10 => kind = 2
  | _ => false

/-- The section types a kind must contain (15 R396). -/
def typesNeeded : Nat → List Nat
  | 1 => [1, 2, 5, 6, 7, 8]
  | 3 => [1]
  | _ => []

/-- Sections lie within LENGTH, do not overlap, and no type appears twice (15 R394, R395). -/
def sectionsOk (len : Nat) : List Section → Bool
  | [] => true
  | x :: xs =>
    decide (x.off + x.len ≤ len) &&
      xs.all (fun y => y.type ≠ x.type && decide (x.off + x.len ≤ y.off ∨ y.off + y.len ≤ x.off)) && sectionsOk len xs

-- DEFAULTS records --------------------------------------------------------------------------------------------------

/-- The dies a record names: one, every tile, or every Bridge (15 R397). -/
def recordDies (d : Nat) : List Nat := if d = 0xF0 then tileDies else if d = 0xF1 then bridgeDies else [d]

/-- The bits of a field within its register. -/
def fieldMask (f : RegField) : Nat := (2 ^ (f.hi + 1 - f.lo) - 1) <<< f.lo

/-- Whether a record is one R397 allows: no bit selected, or whole "img" fields of a register at its address. -/
def recordOk (r : List Byte) : Bool :=
  let a := fieldLE r 0 4
  let mask := fieldLE r 16 8
  if mask = 0 then true
  else if a % 4 ≠ 0 then false
  else match recordDies (a / 2 ^ 24) with
    | [] => false
    | d :: _ =>
      match findReg (dcs d (a % 2 ^ 24)) with
      | none => false
      | some (g, w) =>
        let m := mask <<< (32 * w)
        let img := g.fields.filter (·.img)
        img.all (fun f => m &&& fieldMask f = 0 || m &&& fieldMask f = fieldMask f) &&
          m = img.foldl (fun n f => n + (m &&& fieldMask f)) 0

/-- What a record writes (15 R397). -/
def applyRecord (s : State) (r : List Byte) : State :=
  let a := fieldLE r 0 4
  let put := fun (s : State) (a : Nat) (v m : Nat) =>
    if m = 0 then s
    else regPut s a ((regWord s a &&& ~~~ BitVec.ofNat 32 m) ||| (BitVec.ofNat 32 v &&& BitVec.ofNat 32 m))
  (recordDies (a / 2 ^ 24)).foldl (fun s d =>
    let x := dcs d (a % 2 ^ 24)
    put (put s x (fieldLE r 8 4) (fieldLE r 16 4)) (x + 4) (fieldLE r 12 4) (fieldLE r 20 4)) s

-- TABLES blocks -----------------------------------------------------------------------------------------------------

/-- The blocks of a TABLES section, up to `n` of them: kind and payload; none when one does not lie within the section (15
R398). -/
def tableBlocks : Nat → List Byte → Option (List (Nat × List Byte))
  | 0, bs => if bs.isEmpty then some [] else none
  | n + 1, bs =>
    if bs.isEmpty then some []
    else
      let len := fieldLE bs 4 4
      if bs.length < 8 + len then none
      else (tableBlocks n (bs.drop (8 + len))).map (fun r => (fieldLE bs 0 1, (bs.drop 8).take len) :: r)

/-- Entries of `size` bytes behind an 8-byte head. -/
def blockEntries (size : Nat) (p : List Byte) : List (List Byte) := chunks size (p.drop 8)

/-- Whether a block passes the checks of its command (14 R383, R384; 15 R398). COUNT of a region block goes to 1,024, which its
byte does not hold: it follows from the block's length, and the byte holds its low bits (DEDUCED, log 46). -/
def blockOk (b : Nat × List Byte) : Bool :=
  let p := b.2
  match b.1 with
  | 1 => p.length = 992 && topologyOk p
  | 2 =>
    let k := fieldLE p 1 1
    p.length = 8 + 256 * k && decide (1 ≤ k ∧ fieldLE p 0 1 + k ≤ 64) && (blockEntries 256 p).all courseMay
  | 3 =>
    let k := (p.length - 8) / 32
    p.length = 8 + 32 * k && decide (1 ≤ k ∧ fieldLE p 0 2 + k ≤ 1024) && fieldLE p 2 1 = k % 256
  | _ => false

/-- What a block writes at a Device reset (15 R400). -/
def applyBlock (s : State) (b : Nat × List Byte) : State :=
  match b.1 with
  | 1 => bridgeDies.foldl (fun s d => (writeLink s b.2 d).1) (writeTopology s b.2)
  | 2 => writeCourses s (fieldLE b.2 0 1) (blockEntries 256 b.2)
  | _ => writeRegions s (fieldLE b.2 0 2) (blockEntries 32 b.2)

/-- The DEFAULTS records and TABLES blocks of a container, in the order of 15 R400. -/
def applyContainer (s : State) (bs : List Byte) : State :=
  let s := (chunks 24 ((sectionOf bs 3).getD [])).foldl applyRecord s
  ((tableBlocks 3 ((sectionOf bs 4).getD [])).getD []).foldl applyBlock s

-- Validity ----------------------------------------------------------------------------------------------------------

/-- Whether a section's own content keeps its rules (15 R396 to R399). -/
def contentOk (bs : List Byte) : Bool :=
  (match sectionOf bs 3 with
    | some d => d.length % 24 = 0 && (chunks 24 d).all recordOk
    | none => true) &&
  (match sectionOf bs 4 with
    | some d => (match tableBlocks 3 d with | some b => b.all blockOk | none => false)
    | none => true) &&
  (match sectionOf bs 5 with | some d => d.length = 32768 | none => true) &&
  (match sectionOf bs 8 with | some d => d.length = 32 | none => true) &&
  (match sectionOf bs 9 with | some d => d.length = 156 | none => true)

/-- LENGTH of a container. -/
def containerLen (bs : List Byte) : Nat := fieldLE bs 8 8

/-- MAGIC, FORMAT, KIND, LENGTH, sections and records (15 R394 to R398). -/
def containerFormat (kind size : Nat) (bs : List Byte) : Bool :=
  let n := containerLen bs
  decide (bs.take 4 = [0x4D, 0x51, 0x4E, 0x56]) && fieldLE bs 6 2 = 1 && fieldLE bs 4 2 = kind &&
    decide (n ≤ size ∧ n ≤ bs.length ∧ 1 ≤ fieldLE bs 0x18 2 ∧ fieldLE bs 0x18 2 ≤ 64 ∧
      0x100 + 16 * fieldLE bs 0x18 2 ≤ n) &&
    sectionsOk n (sections bs) && (sections bs).all (fun x => typeAllowed kind x.type) &&
    (typesNeeded kind).all (fun t => (sections bs).any (fun x => x.type = t)) && contentOk bs

/-- DIGEST matches and SIG verifies under SIGNER (15 R395). -/
def containerSigned (bs : List Byte) : Bool :=
  decide (sha256 ((bs.drop 0x100).take (containerLen bs - 0x100)) = (bs.drop 0x20).take 32) &&
    ecdsaOk ((bs.drop 0x40).take 64) ((bs.drop 0x80).take 64) (sha256 (bs.take 0x80))

/-- SHA-256 of SIGNER (15 R395). -/
def signerHash (bs : List Byte) : List Byte := sha256 ((bs.drop 0x40).take 64)

/-- The signer is a Myqueco root; a ROM entry of all zeros is unused (15 R395). -/
def signerRoot (bs : List Byte) : Bool :=
  (List.range 4).any (fun i => let h := (Config.rootHash i).toNat; h ≠ 0 && decide (bytesBE 32 h = signerHash bs))

/-- A valid factory region (15 R395). -/
def factoryValid (bs : List Byte) : Bool :=
  containerFormat 1 0x2000000 bs && containerSigned bs && signerRoot bs && fieldLE bs 0x14 4 = 0

/-- The status for which a user region is not bootable under the factory region in use and the counters; 0 when it is (15
R395, R402, R410). -/
def userStatus (factory : List Byte) (userArb fwArb : Nat) (bs : List Byte) : Nat :=
  let pkg := sectionOf bs 10
  if !containerFormat 2 0x4000000 bs || !pkg.all (fun p => containerFormat 3 p.length p) then 0x50
  else if (sectionOf factory 8) ≠ some (signerHash bs) || !pkg.all signerRoot then 0x51
  else if !containerSigned bs || !pkg.all containerSigned then 0x52
  else if fieldLE bs 0x14 4 < userArb || pkg.any (fun p => fieldLE p 0x14 4 < fwArb) ||
      fieldLE bs 0x10 4 ≠ fieldLE (pkg.getD factory) 0x10 4 then 0x53
  else 0

-- Flash -------------------------------------------------------------------------------------------------------------

/-- Bytes of a flash device: it holds the complement, so that an erased byte is not listed (15 R392; log 16). -/
def flashRead (m : Memory) (a n : Nat) : List Byte := (memRead m a n).map (~~~ ·)

/-- Programs bytes into an erased part. -/
def flashWrite (m : Memory) (a : Nat) (bs : List Byte) : Memory := memWrite m a (bs.map (~~~ ·))

/-- Erases [lo, hi). -/
def flashErase (m : Memory) (lo hi : Nat) : Memory := m.filter (fun e => decide (e.1 < lo ∨ hi ≤ e.1))

/-- The container at an address by its LENGTH; no more than its first fields where LENGTH exceeds the region, which makes it
invalid. -/
def flashContainer (m : Memory) (a size : Nat) : List Byte :=
  let n := natLE (flashRead m (a + 8) 8)
  flashRead m a (if n ≤ size then n else 0x20)

def factoryCopy (s : State) (c : Nat) : List Byte :=
  flashContainer (if c = 0 then s.flash.fl0 else s.flash.fl1) 0 0x2000000

def userRegion (s : State) (r : Nat) : List Byte :=
  flashContainer (if r = 0 then s.flash.fl0 else s.flash.fl1) 0x2000000 0x4000000

-- Session keys ------------------------------------------------------------------------------------------------------

/-- The keys of a KEYS section, K_HOST then K_BMC; a section that fails decryption is absent (15 R399). -/
def unwrapKeys (wrap : Nat) (sec : List Byte) : Option (List Byte) :=
  match ecdhX wrap (sec.take 64) with
  | none => none
  | some z => gcmOpen (hmac z (ascii "MQSK")) (bytesAt sec 64 12) (bytesAt sec 76 64) (bytesAt sec 140 16)

/-- A key of all zeros is absent (15 R399). -/
def presentKey (k : List Byte) : Option (List Byte) := if natLE k = 0 then none else some k

/-- The session key at an offset under the layering of 15 R400: the user's, else the factory's. -/
def layeredKey (wrap : Nat) (factory : List Byte) (user : Option (List Byte)) (o : Nat) : Option (List Byte) :=
  let one := fun (bs : List Byte) => (sectionOf bs 9).bind (fun k => (unwrapKeys wrap k).bind (fun p => presentKey (bytesAt p o 32)))
  match user.bind one with
  | some k => some k
  | none => one factory

end Sys2Proof.Machine
end

