-- ==== Sys2Proof/Machine/PlaneCmd.lean ====
section
/-! DEFINITION. The events of the plane's course: the start of a run, holds, release samples, governor frames, and the passing
of time to a count (04 R125, R126; 13 R344, R349; 16 R419, R420). -/
namespace Sys2Proof.Machine

-- The start of a run ------------------------------------------------------------------------------------------------

/-- Whether the governor presents a request for the frame that begins at count `x` while a run is armed (13 R349, 16 R420). -/
def governorArmed (s : State) (x : Nat) : Bool := pwrState s = 0 && governorFrame (holdDuty s) (x / 128)

/-- The count at which an armed run starts: L, or the first later slot frame that no governor request delays, under the duty in
force; a frame that has begun already was delayed (13 R349). None at full duty. -/
def startCount (s : State) : Option Nat :=
  let m0 := if s.count < s.plane.at_ then 0 else (s.count - s.plane.at_) / 128 + 1
  ((List.range 64).map (fun m => s.plane.at_ + 128 * (m0 + m))).find? (fun x => !governorArmed s x)

/-- START: issue cycle 0 issues at count `x` (04 R132, 13 R349). -/
def startRun (s : State) (x : Nat) : State :=
  enterCycle { s with count := x, plane := { s.plane with run := .running, cyc := 0, held := false } } 0

-- Time --------------------------------------------------------------------------------------------------------------

/-- Nothing happens up to count `x`, or MUTE stops the counter at its own count (17 R448). -/
def passIdle (s : State) (x : Nat) : State :=
  if muteDue s x then freeze s else finishSparse { s with count := max s.count x }

/-- A hold in force takes release samples: the plane is not halted, its clocks run, and it is not a pause outside A0 (04 R125,
R126; 16 R429). -/
def takesSamples (s : State) : Bool :=
  s.plane.held && s.plane.halted.isNone && clocksRun s &&
    (s.plane.run = .running || (s.plane.run = .paused && pwrState s = 0))

/-- Time passes to count `x`, in at most `f` stretches: the plane issues nothing further and goes on, its holds take their
samples, and an armed run starts (04 R97, R125; 13 R349; log 3). -/
def pass (x : Nat) : Nat → State → State
  | 0, s => s
  | f + 1, s =>
    if s.muted || x ≤ s.count then s
    else if planeRuns s then pass x f (advanceTo x (x - s.count) s)
    else if takesSamples s then
      match holdEvent s with
      | some y => if y ≤ x && !muteDue s y then pass x f (releaseSample s) else passIdle s x
      | none => pass x f (passIdle s (min x (nextSample s)))
    else match s.plane.run, startCount s with
      | .armed, some l =>
        if l ≤ x && clocksRun s && !muteDue s l then pass x f (startRun s l) else passIdle s x
      | _, _ => passIdle s x

/-- Time passes to count `x` (log 3). -/
def passTo (s : State) (x : Nat) : State := pass x (x - s.count) s

-- Events ------------------------------------------------------------------------------------------------------------

/-- RUN_START: the armed run starts, or the module freezes first (13 R349, 17 R448). A module without clocks starts nothing
(log 2). -/
def execRunStart (s : State) : Out :=
  .next (
    if s.plane.run ≠ .armed || !clocksRun s then s
    else match startCount s with
      | none => s
      | some l => passTo s l)

/-- PLANE_HOLD: the hold that a request in flight brings takes force; without one nothing happens (04 R125; log 2). -/
def execPlaneHold (s : State) : Out :=
  let s' := advanceToHold 168 s
  .next (if s'.plane.held && !s.plane.held then s' else s)

/-- RELEASE_SAMPLE: the next release sample of a hold in force (04 R125, R126). -/
def execReleaseSample (s : State) : Out := .next (if takesSamples s then passTo s (nextSample s) else s)

/-- The next governor frame under duty `d` that begins after count `x` (16 R419). -/
def nextGovernorFrame (d x : Nat) : Option Nat := ((List.range 64).map (fun i => x / 128 + 1 + i)).find? (governorFrame d)

/-- GOVERNOR_FRAME: time passes to the governor's next frame. It starts a hold, or falls inside one; a frame while a run is
running is counted, also inside a pause (16 R419, R420, R423). Requests are ignored in other run states and outside A0. -/
def execGovernorFrame (s : State) : Out :=
  .next (
    if (s.plane.run ≠ .running && s.plane.run ≠ .paused) || s.plane.halted.isSome || !clocksRun s || pwrState s ≠ 0 then s
    else match nextGovernorFrame (holdDuty s) s.count with
      | none => s
      | some f => passTo s (128 * f))

/-- One count passes, in which the plane goes on (log 1). The counter stands
still in a muted module and in one that is off or held in reset. -/
def tick (s : State) : State :=
  if s.muted || s.life = .off || s.life = .inReset || s.life = .bootHalt then s else passTo s (s.count + 1)

end Sys2Proof.Machine
end

