-- ==== Sys2Proof/Machine/Mailbox.lean ====
section
/-! DEFINITION. Mailboxes, the order in which commands are taken, the checks they share, their responses, and sessions (14 R376
to R382). -/
namespace Sys2Proof.Machine

-- Mailboxes ---------------------------------------------------------------------------------------------------------

def mbx (s : State) (n : Nat) : Mailbox := smGet Mailbox.reset s.mbx n
def setMbx (s : State) (n : Nat) (m : Mailbox) : State := { s with mbx := smSet Mailbox.reset s.mbx n m }

/-- Address of SP_MBXCTLn (14 R379). -/
def mbxCtl (n : Nat) : Nat := dcs SP (0x800 + 8 * n)

/-- STATE of a mailbox: 0 IDLE, 1 BUSY, 2 DONE (14 R377). -/
def mbxState (s : State) (n : Nat) : Nat := regBits s (mbxCtl n) 3 2
def setMbxState (s : State) (n x : Nat) : State := regSetBits s (mbxCtl n) 3 2 x

/-- Fields of a request (14 R376). -/
def reqCode (s : State) (n : Nat) : Nat := memNat (mbx s n).mem 0 2
def reqLen (s : State) (n : Nat) : Nat := memNat (mbx s n).mem 4 4
def reqTag (s : State) (n : Nat) : Nat := memNat (mbx s n).mem 8 4
def reqPay (s : State) (n o k : Nat) : Nat := memNat (mbx s n).mem (0x20 + o) k
def reqBytes (s : State) (n o k : Nat) : List Byte := memRead (mbx s n).mem (0x20 + o) k

/-- Writes to a mailbox's memory from one side: ignored while BUSY, and while the other side owns the command (14 R377,
R379). -/
def mbxWrite (s : State) (n : Nat) (side : Side) (o : Nat) (bs : List Byte) : State :=
  let m := mbx s n
  if mbxState s n = 1 ∨ (mbxState s n = 2 ∧ m.owner ≠ side) then s
  else setMbx s n { m with mem := memWrite m.mem o (bs.take (0x1000 - o)) }

-- Checks ------------------------------------------------------------------------------------------------------------

/-- Response status codes (14 R382, 15 R412, 16 R432). -/
def stOK : Nat := 0x00
def stBUSY : Nat := 0x01
def stNO_SESSION : Nat := 0x02
def stROLE : Nat := 0x03
def stBAD_CMD : Nat := 0x04
def stBAD_LEN : Nat := 0x05
def stAUTH_FAILED : Nat := 0x06
def stNO_KEY : Nat := 0x07
def stLOCKOUT : Nat := 0x08
def stPWR_STATE : Nat := 0x41
def stPWR_TRIPPED : Nat := 0x42

/-- The row of the opcode table a request asks for: its CMD times 16, and what its payload selects; none for an unlisted
CMD, OP, SEL or KIND (14 R382, R389, R390; 15 R408, R409; 16 R432). -/
def reqRow (s : State) (n : Nat) : Option Nat :=
  let c := reqCode s n
  let b0 := reqPay s n 0 1
  if c ∈ [0x01, 0x02, 0x03, 0x10, 0x11, 0x12, 0x20, 0x21, 0x30, 0x31, 0x32, 0x33] then some (16 * c)
  else if c = 0x40 then
    if b0 = 0 then some 0x400 else if b0 = 1 ∧ reqPay s n 1 1 ≤ 3 then some (0x401 + reqPay s n 1 1) else none
  else if c = 0x41 then if b0 ≤ 1 then some (0x410 + b0) else none
  else if c = 0x50 then if reqPay s n 32 1 ≤ 3 then some (0x500 + reqPay s n 32 1) else none
  else if c = 0x60 then if b0 ≤ 2 then some (0x600 + b0) else none
  else if c = 0x70 then if 1 ≤ b0 ∧ b0 ≤ 3 then some (0x700 + b0) else none
  else none

/-- Whether a command code is listed (14 R382). -/
def codeListed (c : Nat) : Bool :=
  c ∈ [0x01, 0x02, 0x03, 0x10, 0x11, 0x12, 0x20, 0x21, 0x30, 0x31, 0x32, 0x33, 0x40, 0x41, 0x50, 0x60, 0x70]

/-- Whether a role may send a command (14 R382). -/
def roleMay (c role : Nat) : Bool :=
  if c ∈ [0x01, 0x02] then true
  else if c ∈ [0x03, 0x40, 0x41, 0x60] then role = 1 || role = 2
  else role = 1

/-- The LEN a command defines, where some LEN fits (14 R382 to R390; 15 R408, R409; 16 R432). -/
def lenOf (s : State) (n : Nat) : Option Nat :=
  match reqCode s n with
  | 0x02 => some 36
  | 0x10 => some 992
  | 0x11 => some (8 + 256 * reqPay s n 1 1)
  | 0x12 => some (8 + 32 * reqPay s n 2 1)
  | 0x20 => some 32
  | 0x21 => if reqPay s n 9 1 ≤ 64 then some (56 + 8 * reqPay s n 9 1) else none
  | 0x30 => some 16
  | 0x32 => some 8
  | 0x33 => some 8
  | 0x40 => some 8
  | 0x41 => some 8
  | 0x50 => some 40
  | 0x60 => some 16
  | 0x70 => some 32
  | _ => some 0

/-- Whether a request's LEN is the one its command defines. -/
def lenOk (s : State) (n : Nat) : Bool := reqLen s n ≤ 2016 && lenOf s n = some (reqLen s n)

/-- TUN_RUNSTAT.RUN is armed or running (14 R382). -/
def runBusy (s : State) : Bool := s.plane.run = .armed || s.plane.run = .running

/-- The first of the shared checks that a request fails, in the order of 14 R382; OK when it passes them. -/
def sharedStatus (s : State) (n : Nat) : Nat :=
  let c := reqCode s n
  let r := sessionRole s n
  if r = 0 ∧ c ∉ [0x01, 0x02] then stNO_SESSION
  else if !codeListed c then stBAD_CMD
  else if !roleMay c r then stROLE
  else if !lenOk s n then stBAD_LEN
  else if pwrState s = 4 ∧ c ∉ [0x01, 0x02, 0x03, 0x41, 0x50] ∧ ¬ (c = 0x40 ∧ reqPay s n 0 1 = 0) then stPWR_TRIPPED
  else if (pwrState s = 2 ∨ pwrState s = 3) ∧ c ∈ [0x10, 0x11, 0x12, 0x20, 0x30, 0x32] then stPWR_STATE
  else if runBusy s ∧ c ∈ [0x10, 0x11, 0x12, 0x20, 0x21, 0x70] then stBUSY
  else stOK

-- Responses ---------------------------------------------------------------------------------------------------------

/-- What a command answers: status, DETAIL, payload (14 R376). -/
structure Answer where
  status : Nat
  detail : Nat
  data : List Byte
deriving DecidableEq, Repr

/-- A bare status. -/
def Answer.st (x : Nat) : Answer := ⟨x, 0, []⟩

/-- The answer is written, the mailbox is DONE, its interrupt set, and the command no longer queued (14 R376, R377, R374);
SMB_ALERT_N goes low for a command whose GO came over SMBus (18 R477). -/
def respond (s : State) (n : Nat) (a : Answer) : State :=
  let m := mbx s n
  let hdr := bytesLE 2 (reqCode s n) ++ bytesLE 2 a.status ++ bytesLE 4 a.data.length ++ bytesLE 4 (reqTag s n) ++
    bytesLE 4 a.detail ++ List.replicate 16 0
  let s := setMbx s n { m with mem := memWrite (memWrite m.mem 0x800 hdr) 0x820 a.data }
  let s := { s with exec := { s.exec with queue := s.exec.queue.erase n } }
  let s := if m.owner = .smbus then { s with pins := { s.pins with smbAlertN := false } } else s
  raiseIrq (setMbxState s n 2) n

/-- What a request that asks for no row is answered (14 R382, R389, R390; 15 R408, R409; 16 R432). -/
def rowlessStatus (s : State) (n : Nat) : Nat :=
  let x := sharedStatus s n
  if x ≠ stOK then x else if reqCode s n = 0x50 then 0x58 else stBAD_LEN

/-- Requests at the front of the queue that ask for no row of the opcode table are answered at once (log 42). -/
def settleQueue : Nat → State → State
  | 0, s => s
  | f + 1, s =>
    if s.exec.draining.isSome then s
    else match s.exec.queue with
      | [] => s
      | n :: _ => if (reqRow s n).isSome then s else settleQueue f (respond s n (.st (rowlessStatus s n)))

/-- A command of mailbox `n` for row `row`: taken when it is the next and the Soundpost runs; then the shared checks, then its
own effect, which answers (14 R378, R382). A row that is not the next command changes nothing (log 2). -/
def mbxTaken (s : State) (n row : Nat) : Bool :=
  soundpostRuns s && s.exec.draining.isNone && s.exec.queue.head? = some n && reqRow s n = some row

def mbxCmd (n row : Nat) (s : State) (f : State → State × Answer) : Out :=
  if 16 ≤ n then .refused (.noSuchUnit "mailbox")
  else .next (
    if !mbxTaken s n row then s
    else if sharedStatus s n ≠ stOK then settleQueue 16 (respond s n (.st (sharedStatus s n)))
    else
      let r := f s
      settleQueue 16 (respond r.1 n r.2))

-- GO and ACK --------------------------------------------------------------------------------------------------------

/-- Whether the request of a mailbox is taken ahead of those queued before it: ABORT_STEP and RESET (14 R378). -/
def urgent (s : State) (n : Nat) : Bool := reqCode s n = 0x33 || reqCode s n = 0x60

/-- GO from one side (14 R377 to R379). -/
def goWrite (s : State) (n : Nat) (side : Side) : State :=
  let st := mbxState s n
  if st ≠ 0 ∧ (mbx s n).owner ≠ side then s
  else if st = 1 then regSetBits s (mbxCtl n) 4 4 1
  else
    let s := setMbxState (setMbx s n { mbx s n with owner := side }) n 1
    let q := s.exec.queue
    let q := if urgent s n then (if s.exec.draining.isSome then q.take 1 ++ n :: q.drop 1 else n :: q) else q ++ [n]
    settleQueue 16 { s with exec := { s.exec with queue := q } }

/-- ACK from one side in DONE: back to IDLE; SMB_ALERT_N is released (14 R377, R379; 18 R477). -/
def ackWrite (s : State) (n : Nat) (side : Side) : State :=
  if mbxState s n ≠ 2 ∨ (mbx s n).owner ≠ side then s
  else
    let s := if side = .smbus then { s with pins := { s.pins with smbAlertN := true } } else s
    setMbxState s n 0

/-- Whether an ACK of mailbox `n` starts the Device reset that waits (14 R390, 16 R432). -/
def ackStarts (s : State) (n : Nat) : Bool := s.due = some (.command n) || s.due = some (.a3Exit n)

-- Sessions ----------------------------------------------------------------------------------------------------------

/-- APL_BCCTL.EN follows the HOST sessions (14 R367). -/
def syncCopyEnable (s : State) : State := regSetBits s (dcs APL 0x300) 0 0 (if hostSession s then 1 else 0)

/-- ROLE of a mailbox changes. -/
def setRole (s : State) (n role : Nat) : State := syncCopyEnable (regSetBits s (mbxCtl n) 6 5 role)

/-- SESSION_NONCE (14 R380). -/
def execSessionNonce (n : Nat) (s : State) : Out :=
  mbxCmd n 0x010 s (fun s =>
    let v := bytesLE 32 (Config.sessionNonce s.free).toNat
    ({ setMbx s n { mbx s n with nonce := some v } with free := s.free + 1 }, ⟨stOK, 0, v⟩))

/-- The message a session proof signs: "MQSO", the nonce, the mailbox index, ROLE (14 R380). -/
def proofMessage (nonce : List Byte) (n role : Nat) : List Byte := ascii "MQSO" ++ nonce ++ bytesLE 1 n ++ bytesLE 1 role

/-- The key of a role; a key of all zeros is absent (14 R380, 15 R399). -/
def roleKey (s : State) (role : Nat) : Option (List Byte) := if role = 1 then s.booted.kHost else s.booted.kBmc

/-- A failed proof: the nonce is consumed, and the eighth failure in a row starts a lockout (14 R380). -/
def authFailed (s : State) (n : Nat) : State :=
  let s := setMbx s n { mbx s n with nonce := none }
  if s.exec.fails + 1 = 8 then { s with exec := { s.exec with fails := 0, lockout := true } }
  else { s with exec := { s.exec with fails := s.exec.fails + 1 } }

/-- The own checks and the effect of SESSION_OPEN (14 R380). -/
def sessionOpen (s : State) (n : Nat) : State × Answer :=
  let role := reqPay s n 0 1
  if role = 0 ∨ 2 < role ∨ (role = 1 ∧ n = 15) then (s, .st stROLE)
  else match roleKey s role with
    | none => (s, .st stNO_KEY)
    | some k =>
      match (mbx s n).nonce with
      | none => (authFailed s n, .st stAUTH_FAILED)
      | some v =>
        if hmac k (proofMessage v n role) = reqBytes s n 4 32 then
          let s := setMbx s n { mbx s n with nonce := none }
          (setRole { s with exec := { s.exec with fails := 0 } } n role, .st stOK)
        else (authFailed s n, .st stAUTH_FAILED)

/-- SESSION_OPEN: LOCKOUT comes before any other check of it (14 R380; DEDUCED against the order of R382, log 45). -/
def execSessionOpen (n : Nat) (s : State) : Out :=
  if s.exec.lockout && n < 16 && mbxTaken s n 0x020 then .next (settleQueue 16 (respond s n (.st stLOCKOUT)))
  else mbxCmd n 0x020 s (fun s => sessionOpen s n)

/-- SESSION_CLOSE (14 R381). -/
def execSessionClose (n : Nat) (s : State) : Out := mbxCmd n 0x030 s (fun s => (setRole s n 0, .st stOK))

/-- NONCE_EXPIRY: 60 s after it was issued a nonce is no longer valid (14 R380). -/
def execNonceExpiry (n : Nat) (s : State) : Out :=
  if 16 ≤ n then .refused (.noSuchUnit "mailbox")
  else .next (if soundpostRuns s then setMbx s n { mbx s n with nonce := none } else s)

/-- LOCKOUT_EXPIRY: the 10 s are over (14 R380). -/
def execLockoutExpiry (s : State) : Out :=
  .next (if soundpostRuns s then { s with exec := { s.exec with lockout := false } } else s)

/-- SESSION_IDLE_EXPIRY: an idle session closes, unless idle close is disabled or a command is queued or in progress (14
R381). -/
def execSessionIdleExpiry (n : Nat) (s : State) : Out :=
  if 16 ≤ n then .refused (.noSuchUnit "mailbox")
  else .next (
    if soundpostRuns s && sessionRole s n ≠ 0 && regBits s (dcs SP 0x100) 15 0 ≠ 0 && mbxState s n ≠ 1 then
      raiseIrq (setRole s n 0) 25
    else s)

end Sys2Proof.Machine
end

