-- ==== Sys2Proof/Machine/CollLand.lean ====
section
/-! DEFINITION. Collective frames at tile agents: landing of results, pieces and counts, bases, chunk checks and poison, and
the comparison of partners (05 R154, R155; 10 R262; 11 R288, R293 to R302). -/
namespace Sys2Proof.Machine

-- Partners ----------------------------------------------------------------------------------------------------------

/-- The fused instruction of a core that a frame's instance belongs to, once it has issued (11 R286). -/
def postOf (k : Core) (f : Frame) : Option CollPost :=
  k.fused.find? (fun p => p.ct = argCt (fArg f) && p.seq = (fSub f).seq)

/-- Index of the first result element a member receives, and of the one after its last (11 R293). -/
def firstElem (e : Course) (r : Nat) (p : CollPost) : Nat := if p.kind = 2 then r * p.n / max 1 e.p else 0
def lastElem (e : Course) (r : Nat) (p : CollPost) : Nat := if p.kind = 2 then (r + 1) * p.n / max 1 e.p else p.n

/-- Whether what a partner's frame shows differs from the matching instruction of member `r` (05 R154, 11 R288). The frames of a
piece show KP, N and TYB by its size alone, those of a result N by where its elements lie, and a reduction's engine sends no
partner's RLB (DEDUCED, log 72). A frame of an engine shows nothing of the partners but its type. -/
def mismatched (e : Course) (r : Nat) (p : CollPost) (f : Frame) : Bool :=
  let u := fSub f
  let own := epFunc (fSrc f) = 2
  let rlbBad := p.rlb % 16 ≠ argRlb (fArg f)
  let nlbBad := (if p.kind = 1 then p.nlb % 32 else 0) ≠ argNlb (fArg f)
  let opBad := u.wire ≠ p.wire || u.rop ≠ p.rop || u.exact ≠ p.exact
  let gather := p.kind = 5
  let gthBad := gather && !own && (u.root ≠ p.root || (if u.lo = p.root then rlbBad else argRlb (fArg f) ≠ 15))
  match fType f with
  | 0x11 => !(p.kind = 2 || p.kind = 3) || opBad || rlbBad || nlbBad || decide (u.eoff < firstElem e r p) ||
      (fLast f && u.eoff + u.elems ≠ lastElem e r p)
  | 0x12 =>
    !(p.kind = 1 || p.kind = 4 || gather) || nlbBad || (!own && opBad) || (!gather && rlbBad) || gthBad ||
      (p.kind = 1 && decide (u.cbytes ≠ (p.ranges.map (·.2)).sum)) || (p.kind = 4 && u.root ≠ 0)
  | 0x13 => !(p.kind = 4 || gather) || nlbBad || (!own && opBad) || (!gather && rlbBad) || gthBad || (p.kind = 4 && u.root ≠ 0)
  | _ => !(p.kind = 4 || gather)

/-- `mismatched` for a frame at tile `t`, of a course the module may belong to. -/
def mismatchedAt (s : State) (t : Nat) (p : CollPost) (f : Frame) : Bool :=
  match course? s t p.ct with
  | some e => mismatched e ((rankOf e (selfAt s t)).getD 0) p f
  | none => false

/-- What an arriving frame shows is compared with the matching instruction, or kept until that issues. -/
def checkPartner (s : State) (t : Nat) (f : Frame) : State :=
  let c := destCore f
  match postOf (coreOf s c) f with
  | some p => if mismatchedAt s t p f then recordTile s t 0x18 else s
  | none => modTile s t (fun x => { x with arrived := x.arrived ++ [(lcOf c, { f with payload := f.payload.take 32 })] })

/-- The comparison at a fused instruction's issue (11 R288). -/
def checkArrived (s : State) (c : Nat) (p : CollPost) : State :=
  let t := tileOf c
  let mine := fun (x : Nat × Frame) => x.1 = lcOf c && argCt (fArg x.2) = p.ct && (fSub x.2).seq = p.seq
  let hit := (tile s t).arrived.filter mine
  let s := modTile s t (fun x => { x with arrived := x.arrived.filter (fun y => !mine y) })
  if hit.any (fun x => mismatchedAt s t p x.2) then recordTile s t 0x18 else s

-- Chunks and poison -------------------------------------------------------------------------------------------------

/-- CPOISON of a course, once per course and step of the module (11 R302). -/
def sendPoison (s : State) (t ct : Nat) (e : Course) : State :=
  if s.tiles.any (fun x => x.2.poisoned.contains ct) then s
  else
    let s := modTile s t (fun x => { x with poisoned := x.poisoned ++ [ct] })
    let a := selfAt s t
    match rankOf e a with
    | none => s
    | some r =>
      let spec : CollSpec := ⟨tileEpid s t, 0x17, collArg 0 ct 0 0 (stepLow s t), collStream 0 3, epochOf s t⟩
      agentSends s t 2 (pathFrames spec [({ cid := e.cid, p := e.p, lo := r }, [])]
        (downLegs e 0 a (othersOf e r) (engineAt (engOf e e.rootEng 0))))

/-- Bytes in offset order. -/
def partBytes (ps : List (Nat × List Byte)) : List Byte :=
  (ps.foldl (fun m x => smInsert x.1 x.2 m) ([] : SMap (List Byte))).flatMap (·.2)

/-- Bytes of a chunk have landed at an offset of it: with the CBYTES-th one the chunk is checked (11 R300, R301). -/
def chunkLanded (s : State) (t : Nat) (e : Course) (f : Frame) (off : Nat) (bs : List Byte) : State :=
  let u := fSub f
  let lc := lcOf (destCore f)
  let mine := fun (x : ChunkRow) =>
    x.lc = lc && x.type = fType f && x.arg = streamArg f && x.stream = fStream f && x.src = fSrc f
  let old := (tile s t).chunks.find? mine
  let rest := (tile s t).chunks.filter (fun x => !mine x)
  let parts := (match old with | some x => x.parts | none => []) ++ [(off, bs)]
  let bad := (match old with | some x => x.bad | none => false) || fCorrupt f || bitAt u.pflags 6
  if (parts.map (·.2.length)).sum < u.cbytes then
    modTile s t (fun x => { x with chunks := rest ++ [⟨lc, fType f, streamArg f, fStream f, fSrc f, parts, bad⟩] })
  else
    let s := modTile s t (fun x => { x with chunks := rest })
    if bad || (crc32c (partBytes parts)).toNat ≠ u.ccrc then sendPoison (recordTile s t 0x2A) t (argCt (fArg f)) e else s

/-- Bytes land at offset `off` of buffer `b` of a core; `chunkOff` is their place in the chunk. -/
def landChunk (s : State) (t : Nat) (e : Course) (f : Frame) (b off chunkOff : Nat) (bs : List Byte) : State :=
  let c := destCore f
  let lb := lbGet (coreOf s c) b
  if landRefused lb (lb.base + off) bs.length then overfill s c b
  else chunkLanded (landAt s c b (lb.base + off) bs) t e f chunkOff bs

-- SDOWN -------------------------------------------------------------------------------------------------------------

/-- A result frame lands, and its chunk's flags wait for the gate (10 R262, 11 R293). -/
def landDown (s : State) (t : Nat) (e : Course) (f : Frame) : State :=
  let c := destCore f
  let u := fSub f
  let b := argRlb (fArg f)
  match postOf (coreOf s c) f, rankOf e (selfAt s t) with
  | some p, some r =>
    let sz := wireSize u.wire
    let first := firstElem e r p
    if u.eoff < first then overfill s c b
    else
      let off := (u.eoff - first) * sz
      let s := landChunk s t e f b off off ((fData f).take (u.elems * sz))
      modCore s c (fun k => { k with lateFlags := k.lateFlags ++
        [(b, BitVec.ofNat 6 (u.pflags % 32), if bitAt u.pflags 5 then mxWrap else 0)] })
  | _, _ => s

-- CPIECE ------------------------------------------------------------------------------------------------------------

/-- The buffer and the place in it of an MM.AG piece from rank `q` (05 R155): `pb` bytes per piece. -/
def pieceSlot (p r rlb nlb pb q : Nat) : Nat × Nat :=
  let g := ceilDiv p (max 1 nlb)
  let b := q / max 1 g
  (rlb + b, (q - b * g - (if b * g ≤ r ∧ r < q then 1 else 0)) * pb)

/-- The exchange a frame belongs to at its receiver. -/
def xchRow (t : Tile) (f : Frame) : Option XchRecv :=
  t.xrecv.find? (fun x => x.lc = epLc (fDest f) && x.ct = argCt (fArg f) && x.seq = (fSub f).seq)

/-- Header bytes of an exchange buffer for `p` members (05 R155). -/
def xchHead (p : Nat) : Nat := 8 * ceilDiv (4 * p) 8

/-- The place of rank `q`'s data once every count is known (11 R294). -/
def xchBase (x : XchRecv) (q : Nat) : Nat := xchHead x.counts.length + ((x.counts.take q).map (·.getD 0)).sum

/-- The buffer counts and pieces of an exchange land in: the frame's, or at the root of a GTH.V the one its instruction names; none while the frame
cannot tell (05 R155, 11 R288; DEDUCED, log 34). -/
def countBuf (k : Core) (f : Frame) : Option Nat :=
  match postOf k f with
  | some p => some (if p.kind = 5 then p.rlb else argRlb (fArg f))
  | none => if argRlb (fArg f) = 15 then none else some (argRlb (fArg f))

/-- Where a piece lands: its buffer, which the frame names itself, and offset; none while that is not known (05 R155, 11 R288,
R294). -/
def pieceAt (s : State) (t : Nat) (e : Course) (f : Frame) : Option (Nat × Nat) :=
  let u := fSub f
  if argNlb (fArg f) ≠ 0 then
    match rankOf e (selfAt s t) with
    | some r =>
      let (b, o) := pieceSlot e.p r (argRlb (fArg f)) (argNlb (fArg f)) u.cbytes u.lo
      some (b, o + u.eoff)
    | none => none
  else
    match xchRow (tile s t) f with
    | some x =>
      if x.counts.all (·.isSome) then (countBuf (coreOf s (destCore f)) f).map (fun b => (b, xchBase x u.lo + u.eoff)) else none
    | none => none

/-- A piece frame lands (11 R294). -/
def landPiece (s : State) (t : Nat) (e : Course) (f : Frame) : State :=
  match pieceAt s t e f with
  | some (b, off) => landChunk s t e f b off (fSub f).eoff ((fData f).take (fSub f).elems)
  | none => s

-- CCOUNT and CBASE --------------------------------------------------------------------------------------------------

/-- Whether the counts came from a root engine that sends sorted records with no base (11 R296). -/
def sortedCounts (s : State) (e : Course) (src : BitVec 32) : Bool :=
  let x := slotAt s (epDie src) (e.prog - 1)
  epFunc src = 2 && e.prog ≠ 0 && slotOk x && decide (3 ≤ slKind x)

/-- The CBASE frames of a receiver whose counts are complete (11 R294, R295). -/
def baseFrames (s : State) (c : Nat) (e : Course) (r : Nat) (x : XchRecv) (refuse : Bool) : List Frame :=
  let t := tileOf c
  let a := selfAt s t
  (List.range x.counts.length).flatMap (fun q =>
    match x.counts[q]?, x.srcs.find? (fun y => y.1 = q) with
    | some (some n), some (_, src) =>
      if n = 0 || sortedCounts s e src then []
      else
        let spec : CollSpec := ⟨tileEpid s t, 0x14, collArg c x.ct x.rlb 0 (stepLow s t), collStream x.seq 2, epochOf s t⟩
        let v := (if refuse then 2 ^ 32 else xchBase x q - xchHead x.counts.length)
        legFrames spec [({ cid := e.cid, seq := x.seq, p := e.p, lo := r }, bytesLE 8 v)]
          (downLeg e c a (epY src, epX src) (if epFunc src = 2 then src else partnerAt c (epY src, epX src)))
    | _, _ => [])

/-- The last count of an exchange has landed: padding, the completion rule, and the bases (11 R294, R295). -/
def countsComplete (s : State) (c : Nat) (e : Course) (x : XchRecv) : State :=
  let t := tileOf c
  let lb := lbGet (coreOf s c) x.rlb
  let h := xchHead x.counts.length
  let pad := h - 4 * x.counts.length
  let s := landAt s c x.rlb (lb.base + 4 * x.counts.length) (List.replicate pad 0)
  let total := xchBase x x.counts.length
  let full := lb.len < total
  let s := if full then setRule (overfill s c x.rlb) c x.rlb (.counted (some (lbGet (coreOf s c) x.rlb).count))
    else setRule s c x.rlb (.counted (some total))
  match rankOf e (selfAt s t) with
  | some r => agentSends s t 2 (baseFrames s c e r x full)
  | none => s

/-- A count lands (11 R294). -/
def landCountFrame (s : State) (t : Nat) (e : Course) (f : Frame) : State :=
  let c := destCore f
  let q := (fSub f).lo
  match countBuf (coreOf s c) f with
  | none => s
  | some b =>
    let old := (xchRow (tile s t) f).getD
      ⟨lcOf c, argCt (fArg f), (fSub f).seq, b, List.replicate e.p none, []⟩
    let rest := (tile s t).xrecv.filter (fun x => !(x.lc = old.lc && x.ct = old.ct && x.seq = old.seq))
    if old.counts[q]? ≠ some none then overfill s c b
    else
      let n := fieldLE (fData f) 0 4
      let x := { old with counts := old.counts.set q (some n), srcs := old.srcs ++ [(q, fSrc f)] }
      let s := modTile s t (fun y => { y with xrecv := rest ++ [x] })
      let s := match (lbGet (coreOf s c) b).rule with
        | .plain => setRule s c b (.counted none)
        | .counted _ => s
      let s := landAt s c b ((lbGet (coreOf s c) b).base + 4 * q) (bytesLE 4 n)
      if x.counts.all (·.isSome) then countsComplete s c e x else s

/-- A sender receives its base, and sends its data (11 R294, R295). -/
def takeBase (s : State) (t : Nat) (e : Course) (f : Frame) : State :=
  let c := destCore f
  let u := fSub f
  let mine := fun (x : XchSend) => x.lc = lcOf c && x.ct = argCt (fArg f) && x.seq = u.seq && x.rank = u.lo
  match (tile s t).xsend.find? mine, rankOf e (selfAt s t) with
  | some x, some q =>
    let s := modTile s t (fun y => { y with xsend := y.xsend.filter (fun z => !mine z) })
    if bitAt (fieldLE (fData f) 0 8) 32 then s
    else
      let a := selfAt s t
      let goal := rankAt e u.lo
      let leg := if x.post.kind = 5 then upLeg e c a goal (partnerAt c goal) else downLeg e c a goal (partnerAt c goal)
      agentSends s t 2 (legFrames (postSpec s c x.post 0x12 0)
        (pieceItems { postSub e x.post with root := x.post.root, lo := q } x.data) leg)
  | _, _ => s

-- The frame at FRM-IN -----------------------------------------------------------------------------------------------

/-- Whether a collective frame must wait at FRM-IN: its buffer is not armed or not yet known (04 R120, 11 R288). -/
def collWaits (s : State) (t : Nat) (e : Course) (f : Frame) : Bool :=
  let c := destCore f
  match fType f with
  | 0x11 => (postOf (coreOf s c) f).isNone || !armed s c (argRlb (fArg f))
  | 0x12 => match pieceAt s t e f with | some (b, _) => !armed s c b | none => true
  | 0x13 => match countBuf (coreOf s c) f with | some b => !armed s c b | none => true
  | _ => false

/-- What the tile agent does with a delivered collective frame. -/
def collDeliver (s : State) (t : Nat) (e : Course) (f : Frame) : State :=
  match fType f with
  | 0x11 => landDown s t e f
  | 0x12 => landPiece s t e f
  | 0x13 => landCountFrame s t e f
  | _ => takeBase s t e f

/-- The collective frame of a type at FRM-IN of a tile (07 R203, R208; 11 R285, R288). -/
def collFrm (ty t : Nat) (s : State) : State :=
  match frmHead (tile s t) ty with
  | none => s
  | some f =>
    let s := courseRead s t (argCt (fArg f))
    match frameCourse s t f with
    | none => recordTile (popFrm s t f) t 0x23
    | some e =>
      if argStep (fArg f) = (stepLow s t + 1) % 2 ^ 16 then s
      else if argStep (fArg f) ≠ stepLow s t then popFrm s t f
      else if collWaits s t e f || !streamRoom (tile s t) f then s
      else
        let (rows, now, bad) := streamStep (tile s t).streams f
        let s := modTile (popFrm s t f) t (fun x => { x with streams := rows })
        let s := if bad then recordTile s t 0x25 else s
        now.foldl (fun s f => collDeliver s t e f) (checkPartner s t f)

end Sys2Proof.Machine
end

