-- ==== Sys2Proof/Machine/Saddle.lean ====
section
/-! DEFINITION. Saddle engines at work: staging, streams, partials, programmed gathers, relays, tokens and poison (07 R200 to
R204; 10 R252 to R258, R271, R272, R276; 11 R285 to R296, R302 to R305). -/
namespace Sys2Proof.Machine

-- Gathering ---------------------------------------------------------------------------------------------------------

/-- The gathering a frame belongs to: one partial or piece of one stream. -/
def isPartOf (f : Frame) (g : Gathering) : Bool :=
  let u := fSub f
  g.src = fSrc f && g.type = fType f && g.arg = fArg f && g.stream = fStream f && g.lo = u.lo && g.log = u.log && g.chunk = u.chunk

/-- Adds a delivered frame to its gathering: the frames gathered, in EOFF order, once its LAST frame is there (07 R203). -/
def gatherFrame (s : State) (d : Nat) (f : Frame) : State × Option (List Frame) :=
  let u := fSub f
  let old := (bridge s d).eng.gather.find? (isPartOf f)
  let fs := (match old with | some g => g.frames | none => []) ++ [f]
  let rest := (bridge s d).eng.gather.filter (fun g => !isPartOf f g)
  if fLast f then
    (modEng s d (fun g => { g with gather := rest }),
     some ((fs.foldl (fun m x => smInsert (fSub x).eoff x m) ([] : SMap Frame)).map (·.2)))
  else
    (modEng s d (fun g => { g with gather := rest ++ [⟨fSrc f, fType f, fArg f, fStream f, u.lo, u.log, u.chunk, fs⟩] }), none)

/-- The parameters a frame's subheader gives. -/
def frameParam (u : Sub) : CollParam := ⟨u.cid, u.rop, u.exact, u.prog, u.wire, u.p, u.root, u.nchunk⟩

/-- The subheader of an upward frame with the program its stream runs. The 4 bits of PROG cannot say 16: a stream of a course that names
slot 15 runs it, unless it belongs to a reduce-scatter (10 R275, R281; 11 R282, R293; DEDUCED, log 57). -/
def progSub (s : State) (e : Course) (f : Frame) : Sub :=
  let u := fSub f
  let scatter := (coreOf s (argPos (fArg f))).fused.any (fun q => q.ct = argCt (fArg f) && q.seq = u.seq && q.kind = 2)
  if u.prog = 0 ∧ e.prog = 16 ∧ scatter = false then { u with prog := 16 } else u

/-- PFLAGS of gathered frames, with TAINT where one arrived corrupt (10 R261, R263). -/
def gatheredFlags (fs : List Frame) : Nat :=
  fs.foldl (fun m f => m ||| (fSub f).pflags ||| (if fCorrupt f then 64 else 0)) 0

/-- What staging has kept of gathered frames: TAINT where a word is uncorrectable (17 R444). -/
def stagedFlags (s : State) (d : Nat) (fs : List Frame) : State × Nat :=
  let (s, a, b) := sramRead s d 5 (fs.map (fun f => f.hdr.toNat))
  if a || b then (recordSram s d 5 0, gatheredFlags fs ||| 64) else (s, gatheredFlags fs)

/-- The frames that lie beside a frame being gathered for the same span from another sender (10 R257). -/
def spanGathered (s : State) (d : Nat) (f : Frame) : Bool :=
  let u := fSub f
  (bridge s d).eng.gather.any (fun g => g.type = 0x10 && g.arg = fArg f && g.stream = fStream f && g.lo = u.lo &&
    g.log = u.log && g.chunk = u.chunk && g.src ≠ fSrc f)

-- SPART -------------------------------------------------------------------------------------------------------------

/-- The leaf code of a REDUCE program on a partial no engine has received yet (10 R276, R277). -/
def applyLeaf (s : State) (d : Nat) (p : Partial) : Partial :=
  match (reduceSlot s d p.par).filter slLeafEn with
  | some x =>
    if bitAt p.pflags 7 then p
    else
      let w := 8 * wireSize p.par.wire
      let out := p.elems.mapIdx (fun i c => runLeaf x c 0 p.lo (chunkStart p + i))
      { p with elems := out.map (fun l => (lnGet l 0).toNat % 2 ^ w)
               pflags := out.foldl (fun m l => m ||| l.fl) (p.pflags ||| 128) }
  | none => p

/-- A partial's frames are all there (10 R256, R276). -/
def spartDone (s : State) (d : Nat) (e : Course) (f : Frame) (fs : List Frame) : State :=
  let u := progSub s e (fs.headD f)
  let par := frameParam u
  let key := frameKey f
  let (s, fl) := stagedFlags s d fs
  let applies := (reduceSlot s d par).isSome || (recordSlot s d par fl).isSome
  let s := useSlot s d key par.prog applies
  let p : Partial := ⟨fSrc f, fArg f, key, par, u.lo, u.log, fl, u.acc, []⟩
  let sz := partSize s d p
  let p := { p with elems := fs.flatMap (fun x => elemsOf sz (fSub x).elems (fData x)) }
  takePart s d e (applyLeaf s d p)

/-- A delivered SPART frame (10 R256, R257). -/
def takeSpart (s : State) (d : Nat) (e : Course) (f : Frame) : State :=
  let u := fSub f
  if !spanOk u.p u.lo u.log || spanTaken s d (frameKey f) u.lo u.log || spanGathered s d f then sadSpan s d
  else
    match gatherFrame (markSlot s d (argStep (fArg f)) (progSub s e f).prog) d f with
    | (s, none) => s
    | (s, some fs) => spartDone s d e f fs

-- Programmed gathers ------------------------------------------------------------------------------------------------

/-- A member's bytes are all at its first engine (10 R271; 11 R296). -/
def pieceDone (s : State) (d : Nat) (e : Course) (f : Frame) (fs : List Frame) : State :=
  let u := progSub s e f
  let par := frameParam u
  let key := frameKey f
  let bytes := fs.flatMap (fun x => (fData x).take (fSub x).elems)
  let slot := gatherSlot s d par.prog
  let s := useSlot s d key par.prog slot.isSome
  let (s, fl) := stagedFlags s d fs
  let kept := fun (s : State) (bs : List Byte) (fl : Nat) =>
    let s := engineSends s d (toRootCore e key par (engCount s d key par (fArg f) u.lo bs.length))
    if bs.isEmpty then s
    else modEng s d (fun g => { g with kept := g.kept ++ [⟨key, par, u.lo, fArg f, fl, bs⟩] })
  match slot with
  | none => kept s bytes fl
  | some x =>
    let s := if bytes.length % slRec x = 0 then s else sadSize s d
    let (rs, lf) := recLeaf x u.lo (elemsOf (slRec x) (bytes.length / slRec x) bytes)
    let fl := fl ||| lf ||| 128
    if slKind x = 2 then kept s (rs.flatMap (bytesLE (slRec x))) fl
    else
      let (cut, lost) := recCut x (recSort x rs)
      let s := if lost then sadSize s d else s
      takePart s d e ⟨engineEpid s d, fArg f, key, { par with nchunk := 1 }, u.lo, 0, fl, false, cut⟩

/-- A delivered CPIECE frame of a programmed GTH.V (11 R296). -/
def takePiece (s : State) (d : Nat) (e : Course) (f : Frame) : State :=
  match gatherFrame (markSlot s d (argStep (fArg f)) (progSub s e f).prog) d f with
  | (s, none) => s
  | (s, some fs) => pieceDone s d e f fs

/-- The kept piece a base is for: bases come in ascending rank order (11 R294, R296; DEDUCED, log 35). -/
def keptFor (s : State) (d : Nat) (f : Frame) : Option KeptPiece :=
  let mine := (bridge s d).eng.kept.filter (fun k => k.key = frameKey f)
  mine.foldl (fun m k => match m with | some b => some (if k.rank < b.rank then k else b) | none => some k) none

/-- A base for a piece kept at this engine (11 R294 to R296). -/
def takeEngineBase (s : State) (d : Nat) (e : Course) (f : Frame) (k : KeptPiece) : State :=
  let s := modEng s d (fun g => { g with kept := g.kept.erase k })
  if bitAt (fieldLE (fData f) 0 8) 32 then s
  else engineSends s d (toRootCore e k.key k.par (engPiece s d k.key k.par k.arg k.rank k.pflags k.data))

-- Relays ------------------------------------------------------------------------------------------------------------

/-- The new frame of a relay on a leg (11 R287; the multicast fields go with DEST, DEDUCED, log 39). -/
def reframe (s : State) (d : Nat) (f : Frame) (l : Leg) : Frame :=
  let f := fSet (fSet (fSet f 31 0 l.dest.toNat) 67 66 l.hop) 231 224 (epochOf s d)
  let f := match l.mc with
    | some (dim, m) => fSet (fSet (fSet f 69 69 1) 70 70 dim) 200 192 m
    | none => if fMcast f then fSet (fSet (fSet f 69 69 0) 70 70 0) 200 192 0 else f
  sealFrame f

/-- Where a downward frame of a type ends in a module (11 R291, R292). -/
def downEnd (e : Course) (f : Frame) (yx : Nat × Nat) : BitVec 32 :=
  if fType f = 0x16 ∨ fType f = 0x17 then engineAt (engOf e e.rootEng 0) yx else partnerAt (argPos (fArg f)) yx

/-- The one member a corner sends a downward frame on to that is for one receiver only: for a result the rank its elements
belong to, else the rank the source put into KEY, and where that is 0 one member of the corner's column for the whole stream (11
R291, R293; DESIGN CHOICE and free value, log 36). -/
def relayTarget (s : State) (d : Nat) (e : Course) (f : Frame) : Option (Nat × Nat) :=
  let u := fSub f
  let n := u.cbytes / wireSize u.wire
  if fType f = 0x11 ∧ 0 < n then e.members[u.eoff / n]?
  else
    let ms := e.members.filter (fun m => m.2 = (selfAt s d).2)
    match fKey f, ms with
    | r + 1, _ => e.members[r]?
    | 0, [m] => some m
    | 0, _ => ms[Config.relayPick (fSrc f).toNat (fArg f) (fStream f) % max 1 ms.length]?

/-- A corner engine sends a downward frame on (11 R291). -/
def relayDown (s : State) (d : Nat) (e : Course) (f : Frame) : State :=
  let a := selfAt s d
  if fMcast f then
    engineSends s d ((columnLegs a e.members (downEnd e f)).map (reframe s d f))
  else
    match relayTarget s d e f with
    | some m => engineSends s d [reframe s d f ⟨downEnd e f m, 2, none, 0⟩]
    | none => recordBrg s d 0x23

/-- A corner engine sends an upward count or piece on to the root core (11 R290, R294). -/
def relayUp (s : State) (d : Nat) (e : Course) (f : Frame) : State :=
  engineSends s d [reframe s d f ⟨partnerAt (argPos (fArg f)) (rankAt e (fSub f).root), 1, none, 0⟩]

/-- Whether a frame to engines has reached its end: not the copy of a row multicast (11 R291). -/
def atEnd (f : Frame) : Bool := !(fMcast f && fMdim f = 0)

-- Tokens and poison -------------------------------------------------------------------------------------------------

/-- A token leaf or partial arrives (11 R305). -/
def takeTokenUp (s : State) (d : Nat) (e : Course) (f : Frame) : State :=
  let u := fSub f
  let key := frameKey f
  if !spanOk u.p u.lo u.log then sadSpan s d
  else
    takePart s d e ⟨fSrc f, fArg f, key, ⟨u.cid, 5, false, 0, 0, u.p, e.root, 1⟩, u.lo, u.log, 0, false, [fieldLE (fData f) 0 4]⟩

/-- Whether a frame is of the module's present step (11 R288, R302, R305). -/
def nowStep (s : State) (d : Nat) (f : Frame) : Bool := argStep (fArg f) = (stepOf s d) % 2 ^ 16

/-- A token result arrives (11 R305). -/
def takeTokenDown (s : State) (d : Nat) (f : Frame) : State :=
  if !nowStep s d f then s
  else
    let a := dcs TUN 0xC00
    let s := regSetBits s a 31 0 (regBits s a 31 0 ||| fieldLE (fData f) 0 4)
    let s := regSetBits s a 38 32 (regBits s a 38 32 - 1)
    { s with tokGot := s.tokGot ++ [argCt (fArg f)] }

/-- A poison arrives (11 R302). -/
def takePoison (s : State) (d : Nat) (f : Frame) : State := if nowStep s d f then recordBrg s d 0x2B else s

-- Commands ----------------------------------------------------------------------------------------------------------

/-- What an engine does with a delivered frame (10 R252, 11 R292). -/
def engineDeliver (d : Nat) (e : Course) (s : State) (f : Frame) : State :=
  match fType f with
  | 0x10 => takeSpart s d e f
  | 0x11 => relayDown s d e f
  | 0x12 => if fHop f = 2 then relayDown s d e f else if (progSub s e f).prog = 0 then relayUp s d e f else takePiece s d e f
  | 0x13 => if fHop f = 2 then relayDown s d e f else relayUp s d e f
  | 0x14 => match keptFor s d f with | some k => takeEngineBase s d e f k | none => relayDown s d e f
  | 0x15 => takeTokenUp s d e f
  | 0x16 => if atEnd f then takeTokenDown s d f else relayDown s d e f
  | _ => if atEnd f then takePoison s d f else relayDown s d e f

/-- An engine takes the frame at its input, if it is of a type; one that must wait keeps those behind it waiting (10 R257, R272; 11 R285;
07 R203, R204). -/
def engineFrm (ty d : Nat) (s : State) : State :=
  match (bridge s d).eng.inq.head?.filter (fun f => fType f = ty) with
  | none => s
  | some f =>
    let pop := fun s => modEng s d (fun g => { g with inq := g.inq.erase f })
    let s := courseRead s d (argCt (fArg f))
    match frameCourse s d f with
    | none => recordBrg (pop s) d 0x23
    | some e =>
      if !engineRoom s d f then s
      else
        let s := if ty = 0x10 then sadCount s d 0 else s
        let n := entryOf (bridge s d).eng.streams f
        let (rows, now, bad) := streamStep (bridge s d).eng.streams f
        let s := modEng (pop s) d (fun g => { g with streams := rows })
        let s := if bad then recordBrg s d 0x25 else s
        restage (now.foldl (engineDeliver d e) s) d (fun g => if sameStage g f then some n else none)

/-- A collective frame at the Saddle engine of a Bridge die. -/
def engineCmd (ty d : Nat) (s : State) : Out := bridgeCmd d s (fun s => if clocksRun s then engineFrm ty d s else s)

/-- A collective frame at a tile agent (below 64) or a Saddle engine. -/
def collCmd (ty d : Nat) (s : State) : Out := if d < 64 then tileCmd d s (collFrm ty d) else engineCmd ty d s

def execSpart (d : Nat) (s : State) : Out := engineCmd 0x10 d s
def execSdown (d : Nat) (s : State) : Out := collCmd 0x11 d s
def execCpiece (d : Nat) (s : State) : Out := collCmd 0x12 d s
def execCcount (d : Nat) (s : State) : Out := collCmd 0x13 d s
def execCbase (d : Nat) (s : State) : Out := collCmd 0x14 d s
def execCtoku (d : Nat) (s : State) : Out := engineCmd 0x15 d s
def execCtokd (d : Nat) (s : State) : Out := engineCmd 0x16 d s
def execCpoison (d : Nat) (s : State) : Out := engineCmd 0x17 d s

-- TOKEN_SEND --------------------------------------------------------------------------------------------------------

/-- Whether every landing buffer that fused instructions of the step named is complete (11 R304). -/
def fusedComplete (s : State) : Bool :=
  s.cores.all (fun x => x.2.fused.all (fun p =>
    let n := if p.kind = 1 then p.nlb else if p.rlb < 16 then 1 else 0
    (List.range n).all (fun i => lbComplete (lbGet x.2 (p.rlb + i)))))

/-- Whether every piece the module owes has been sent (11 R304). -/
def piecesSent (s : State) : Bool :=
  s.tiles.all (fun x => x.2.xsend.isEmpty && ((x.2.inj[2]?).getD []).isEmpty)

/-- The token status word of this module (11 R304). -/
def ownStatus (s : State) : Nat :=
  (if failSeen s then 1 else 0) + (if s.stepCodes.contains 0x2A then 2 else 0) + (if s.stepCodes.contains 0x2B then 4 else 0) +
    (if s.stepCodes.contains 0x18 then 8 else 0)

/-- Whether the module sends its token of entry `n` (11 R303, R304, R306). -/
def tokenDue (s : State) (n : Nat) : Bool :=
  s.plane.halted.isNone && (match s.plane.stepEnd with | some e => allEnded s e | none => false) &&
    s.cores.all (fun x => x.2.outbox.isEmpty) && fusedComplete s && piecesSent s && (tokenEntries s).contains n &&
    !s.tokSent.contains n

/-- Sends the token of entry `n` (11 R304). -/
def sendToken (s : State) (n : Nat) (e : Course) (r : Nat) : State :=
  let d := engOf e e.rootEng 0
  let a := selfAt s d
  let root := rankAt e e.root
  let spec := engSpec s d (engineEpid s d) 0x15 (collArg 0 n 0 0 (stepLow s 0)) 0 3
  let fs := legFrames spec [({ cid := e.cid, p := e.p, root := e.root, lo := r }, bytesLE 8 (ownStatus s))]
    (upLeg e 0 a root (engineAt d root))
  engineSends { s with tokSent := s.tokSent ++ [n] } d fs

/-- TOKEN_SEND: the module's token of course table entry `n`, once it is due (11 R303, R304). -/
def execTokenSend (n : Nat) (s : State) : Out :=
  if 64 ≤ n then .refused (.noSuchUnit "course table entry")
  else .next (
    if !clocksRun s || !tokenDue s n then s
    else
      let d := 64 + (cteBits s n 39 32 - 64) % 36
      match course? s d n with
      | none => s
      | some e => match rankOf e (selfAt s d) with
        | some r => sendToken s n e r
        | none => s)

end Sys2Proof.Machine
end

