-- ==== Sys2Proof/Machine/Resets.lean ====
section
/-! DEFINITION. Step abort, Plane, Device, Warm and Cold resets, and what each clears (00 R7; 08 R234; 14 R388; 16 R425 to R434). -/
namespace Sys2Proof.Machine

-- Step abort --------------------------------------------------------------------------------------------------------

/-- A core at a step abort: class S clears, the sparse unit and the sequencer stop, and what is in flight in its pipelines is
discarded (02 R42, 06 R162, 16 R433; DESIGN CHOICE, log 47). The entries it discards protect no payload any more (04 R119; DEDUCED,
log 73). -/
def abortCore (k : Core) : Core :=
  { k with
    fpstat := k.fpstat &&& 0xFFFFFFC0, mxstat := k.mxstat &&& 0xFFFFFFFC, srseq := 0, lb := [], outbox := [], prot := []
    capo := 0, mfSeq := 0, naks := [], fused := [], collOrd := [], lateFlags := [], fault := CoreFault.none, spstat := 0
    spcyc := 0, sparse := .idle, sparseOut := false, gates := [], seq := none, busy := [], wb := [], spill := [], slots := []
    mx := [], undo := none, brs := [], acc := k.acc.filter (fun e => decide (e.1 < 256)) }

/-- A tile agent at a step abort: its tables clear, and no request or frame of the step stays in its queues (08 R234, 12
R328). -/
def abortTile (t : Tile) : Tile :=
  { clearTileStep t with
    frmIn := t.frmIn.filter (fun f => !epochDrops f), svcIn := []
    ports := (t.ports.map (fun p => (p.1, p.2.filter (fun r => !isFabric r)))).filter (fun p => !p.2.isEmpty)
    inj := t.inj.map (fun q => q.filter (fun x => !epochDrops x.2)) }

/-- Buffers reserved for answers of requests that an abort takes away are free again (12 R322). -/
def freeAnswers (s : State) : State :=
  let owed := s.tiles.flatMap (fun e => e.2.svcIn.map (fun x => (x.2.1, x.2.2)) ++
    (e.2.ports.flatMap (·.2)).filterMap (fun r => match r.src with | .fabric _ d p => some (d, p) | _ => none))
  owed.foldl (fun s x => poolAdd s x.1 x.2 1) s

/-- Steps 2 and 3 of an abort (14 R388): each Bridge and tile takes its epoch, and class S clears; core faults are collected
before (17 R439). Dies without power take none. The plane is halted no more (05 R156), and the step that follows starts with no token
status (11 R305). -/
def abortStep (s : State) (epoch : Nat → Nat) : State :=
  let s := collectCoreFaults s
  let s := restQueues ((bridgeDies.filter (dieLive s)).foldl (fun s d => restage (epochBridge s d (epoch d % 256)) d (fun _ => none)) s)
  let s := (tileDies.filter (dieLive s)).foldl (fun s t => regSetBits s (dcs t 0x838) 7 0 (epoch t % 256)) s
  let s := mapCores s (fun _ => abortCore)
  let s := freeAnswers s
  let s := s.tiles.foldl (fun s e => setTile s e.1 (abortTile e.2)) s
  let s := clearRegs s (fun _ => true) (fun x => x = .s)
  let s := bridgeDies.foldl spillInForce s
  let s := regSetBits (clearTokens s) (dcs TUN 0x300) 8 8 0
  { s with tokSent := [], tokGot := [], stepCodes := []
           plane := { s.plane with mesh := [], logged := [], stepEnd := none, stepOk := false, halted := none, haltBy := 0
                                   held := false, sample := none, issued := [] } }

/-- The plane stops for good: the run, if one is armed, running or paused, ends as ABORTED (14 R388, 16 R426). A pause requested
and not yet in effect stays so: no step of R388 clears PREQ (13 R351, 16 R433). -/
def endRun (s : State) : State :=
  if s.plane.run = .idle then s
  else
    runEnd { s with plane := { s.plane with run := .idle, contAt := none } } 3 0

/-- ABORT_STEP with an epoch for every die (14 R388). -/
def stepAbort (s : State) (epoch : Nat → Nat) : State := endRun (abortStep s epoch)

-- Plane reset -------------------------------------------------------------------------------------------------------

/-- How wide the reset of a code of SP_RSTCAUSE is: Cold, Warm, Device by either cause, Plane by any, none (16 R428). -/
def causeWidth (code : Nat) : Nat :=
  match code with
  | 0 => 4 | 1 => 3 | 2 => 2 | 3 => 2 | 7 => 0 | _ => 1

/-- SP_RSTCAUSE.LAST when a reset finishes, unless it holds a wider one (16 R428). -/
def resetDone (s : State) (code : Nat) : State :=
  if causeWidth (regBits s (dcs SP 0x20) 2 0) ≤ causeWidth code then regSetBits s (dcs SP 0x20) 2 0 code else s

/-- MUTE is disarmed; one in force is not (17 R447). -/
def disarm (s : State) : State :=
  let a := dcs TUN 0x108
  if regBits s a 3 2 = 1 then regSetBits (regSetBits s a 3 2 0) a 0 0 0 else s

/-- A Plane reset (16 R425, R426): an abort in the current epochs first, then classes P and S clear and no image is loaded; it
disarms MUTE (17 R449). The survival table keeps class L, so no link is reset (16 R433; DEDUCED, log 48). -/
def planeReset (s : State) : State :=
  let s := disarm s
  let s := stepAbort s (epochOf s)
  let s := clearRegs s (fun _ => true) (fun x => x = .p || x = .s)
  { s with cores := [], image := none, plane := Plane.reset }

-- Device reset ------------------------------------------------------------------------------------------------------

/-- Whether a row of the disabled-unit map is valid (04 R109). -/
def mapRowOk (es : List Nat) : Bool :=
  let cols := es.takeWhile (fun c => c ≠ 255)
  es.all (fun c => c = 255 || decide (c ≤ 131)) && (es.drop cols.length).all (fun c => c = 255) &&
    (cols.zip (cols.drop 1)).all (fun p => decide (p.1 < p.2))

/-- Whether every row of a tile's map is valid (04 R109). -/
def tileMapOk (s : State) (t : Nat) : Bool :=
  (List.range 128).all (fun r => mapRowOk ((bytesLE 4 (regWord s (dcs t (0x1000 + 4 * r))).toNat).map (·.toNat)))

/-- Loads the map; a tile with an invalid row records MAP_INVALID (04 R109, 15 R396). -/
def loadMap (s : State) : State :=
  let rows := chunks 4 ((sectionOf s.booted.factory 5).getD [])
  let s := (rows.zip (List.range rows.length)).foldl (fun s x =>
    regPut s (dcs (x.2 / 128) (0x1000 + 4 * (x.2 % 128))) (BitVec.ofNat 32 (natLE x.1))) s
  tileDies.foldl (fun s t => if tileMapOk s t then s else recordTile s t 0x2D) s

/-- A unit's configuration in force after a Device reset: all four classes committed with FULL = 1 (09 R246, R249). -/
def commitAll (s : State) (d base : Nat) (old : List Shaper) : State × List Shaper := commitShapers s d base 15 true old

/-- The shapers and policers after a Device reset. -/
def commitUnits (s : State) : State :=
  let s := bridgeDies.foldl (fun s d =>
    let r := commitAll s d 0x200 (bridge s d).shapers
    modBridge r.1 d (fun b => { b with shapers := r.2 })) s
  (tileDies ++ [APL, SP]).foldl (fun s d =>
    let r := commitAll s d 0x900 (policersOf s d)
    setPolicers r.1 d r.2) s

/-- The images a Device reset applies, in the order of 15 R400: factory, then the user region in use. -/
def applyImages (s : State) : State :=
  let s := applyContainer s s.booted.factory
  match s.booted.user with
  | some (_, bs) => applyContainer s bs
  | none => s

/-- The state of a link after a Device reset (07 R480, 16 R425). -/
def startLinks (s : State) : State := bridgeDies.foldl (fun s d => setLinkState s d (trainState s d)) s

/-- What a reset of class D and everything narrower leaves before the images are applied (16 R425, R433): the fabric, the tile
agents, the directory, the copy channels, sessions and mailboxes are empty; the nonces, the failure count and a lockout
stay, which no row of R425 names (DEDUCED, log 49). -/
def clearDevice (s : State) : State :=
  let s := clearRegs s (fun _ => true) (fun x => x = .d || x = .l)
  { s with bridges := [], tiles := [], dir := [], recalls := [], cohWait := [], copy := [], a2Saved := []
           polSp := List.replicate 4 Shaper.reset, polApl := List.replicate 4 Shaper.reset
           exec := { s.exec with queue := [], draining := none }, ring := { Ring.reset with sentAt := s.ring.sentAt, heard := s.count }
           gov := { s.gov with underRun := 0 }, pins := { s.pins with smbAlertN := true }, mute := Mute.reset }

/-- The tile registers move to Soundpost memory (16 R430). -/
def saveTiles (s : State) : State :=
  { s with a2Saved := s.regs.filter (fun e => decide (e.1 < 64 * 2 ^ 24))
           regs := s.regs.filter (fun e => decide (64 * 2 ^ 24 ≤ e.1)) }

/-- The Saddle microcode in force after a Device reset: the firmware package's, where one is in force and carries it, else the factory
region's (10 R275; 15 R396, R404). -/
def loadUcode (s : State) : State :=
  { s with ucode := ((s.booted.fwPkg.bind (fun b => sectionOf b 2)).orElse (fun _ => sectionOf s.booted.factory 2)).getD [] }

/-- A Device reset (16 R425, R434): `code` is what SP_RSTCAUSE records. In A2 the image values of the gated tiles are those that will be
written back (16 R430; DEDUCED, log 52). -/
def deviceReset (s : State) (code : Nat) : State :=
  let s := clearDevice (planeReset s)
  let s := loadUcode (loadMap (applyImages s))
  let s := commitUnits (bridgeDies.foldl spillInForce s)
  let s := if pwrState s = 2 then saveTiles s else s
  let s := regSetBits s (dcs TUN 0x18) 1 0 (if regBits s (dcs TUN 0x10) 1 1 = 1 then 3 else 0)
  resetDone { startLinks s with due := none, life := .up } code

/-- SP_RSTCAUSE code of a Device reset's cause (16 R428). -/
def causeCode : DeviceCause → Nat
  | .cold => 0
  | .warm => 1
  | .command _ => 2
  | .a3Exit _ => 3

/-- The Device reset that is due: after the boot, it completes the Soundpost's reset sequence; after an exit from A3, slivers
are zero (15 R403, 16 R431). -/
def dueReset (s : State) : State :=
  match s.due with
  | none => s
  | some c => deviceReset s (causeCode c)

/-- DEVICE_RESET: the Device reset that is due starts, 10 ms after DONE or at the end of the boot; none is due otherwise, and
none occurs while the module is muted (14 R390, 17 R449; log 2). -/
def execDeviceReset (s : State) : Out :=
  .next (if (s.life = .up ∨ s.life = .released) ∧ s.muted = false then dueReset s else s)

/-- RESET_PLANE: before the response is written (14 R390). -/
def execResetPlane (n : Nat) (s : State) : Out :=
  mbxCmd n 0x601 s (fun s => (resetDone (planeReset s) 4, .st stOK))

/-- RESET_DEVICE: the response is written; the reset starts at ACK or 10 ms later (14 R390). -/
def execResetDevice (n : Nat) (s : State) : Out :=
  mbxCmd n 0x600 s (fun s => ({ s with due := some (.command n) }, .st stOK))

/-- RESET_LINK: each link of LMASK, as a write of RETRAIN (14 R390). -/
def execResetLink (n : Nat) (s : State) : Out :=
  mbxCmd n 0x602 s (fun s =>
    let m := reqPay s n 8 8
    (((bridgeDies.filter (dieLive s)).filter (fun d => bitAt m (d - 64))).foldl linkReset s, .st stOK))

-- Warm and Cold resets ----------------------------------------------------------------------------------------------

/-- Whether the Warm or Cold reset that begins now follows a trip; one that starts anew before it has finished still does (16 R428). -/
def tripSeen (s : State) : Bool :=
  pwrState s = 4 || (s.life ≠ .up && s.life ≠ .off && regBits s (dcs SP 0x20) 3 3 = 1)

/-- What a Warm reset leaves, with the module held in reset until the boot (16 R425, R433; 15 R403): classes W and narrower
clear, slivers are zero, MUTE ends. Every die but the security die is in reset, so what the Soundpost holds of images and
keys waits for the boot to bring it again. Mailbox memory, which the spec gives no class, keeps its bytes (DESIGN CHOICE, log 84). -/
def warmState (s : State) : State :=
  let tripped := tripSeen s
  let s := clearRegs s (fun _ => true) (fun x => x ≠ .n && x ≠ .c)
  let s := clearDevice s
  let s := { s with cores := [], image := none, plane := Plane.reset, count := 0, muted := false, dram := [], tokSent := [], tokGot := []
                    stepCodes := [], ring := Ring.reset, exec := Exec.reset, mbx := s.mbx.foldl (fun m e => smSet Mailbox.reset m e.1 { e.2 with nonce := none }) []
                    gov := { s.gov with hist := [], first := none, rest := 0, endAt := none, underRun := 0 }
                    booted := Booted.none, ucode := [], due := none, life := .inReset, pins := { s.pins with alarmN := true } }
  regSetBits s (dcs SP 0x20) 3 3 (if tripped then 1 else 0)

/-- What a Cold reset leaves: class C clears too (16 R425). -/
def coldState (s : State) : State :=
  let tripped := tripSeen s
  let s := { warmState s with regs := [], due := some .cold }
  regSetBits s (dcs SP 0x20) 3 3 (if tripped then 1 else 0)

/-- A user region is erased, its header page first (15 R410). -/
def eraseRegion (f : Flash) (r : Nat) : Flash :=
  if r = 0 then { f with fl0 := flashErase f.fl0 0x2000000 0x6000000 } else { f with fl1 := flashErase f.fl1 0x2000000 0x6000000 }

/-- A WRITE of UPDATE_IMAGE that the Soundpost has taken is interrupted: where it had begun, its region is left without a header; the
region in force is never written (15 R412; the moment is a free value, log 50). -/
def stopWrite (s : State) : State :=
  match s.exec.queue with
  | n :: _ =>
    let r := reqPay s n 1 1
    if soundpostRuns s && mbxTaken s n 0x701 && decide (r ≤ 1) && !s.booted.user.any (fun u => u.1 = r) then
      let f := if Config.writeBegun s.free then eraseRegion s.flash r else s.flash
      { s with flash := f, free := s.free + 1 }
    else s
  | [] => s

/-- COLD_RESET: POR_N goes low; without input there is nothing to reset (16 R425, R428). -/
def execColdReset (s : State) : Out := .next (if s.life = .off then s else coldState (stopWrite s))

/-- WARM_RESET: PERST_N goes low; a Cold reset that has not booted yet absorbs it (16 R425, R428). -/
def execWarmReset (s : State) : Out :=
  .next (if s.life = .off then s
    else if s.due = some .cold ∧ s.life ≠ .up then { warmState s with due := some .cold }
    else { warmState (stopWrite s) with due := some .warm })

/-- POWER_LOSS: the 48 V input is removed. All volatile state is lost, the ring bypass closes, and flash keeps old or new
contents (18 R461, R465; 15 R412). -/
def execPowerLoss (s : State) : Out :=
  let s' := coldState (stopWrite s)
  .next { s' with life := .off, due := none, mbx := [], smbAt := 0, gov := Governor.reset, regs := [] }

/-- POWER_UP: the input passes 44.0 V and MOD_PWROK rises; the module stands in its Cold reset until the boot (16 R425, 18
R464). -/
def execPowerUp (s : State) : Out :=
  .next (if s.life = .off then { s with life := .inReset, due := some .cold } else s)

end Sys2Proof.Machine
end

