-- ==== Sys2Proof/Machine/Boot.lean ====
section
/-! DEFINITION. The boot, the measurement log, attestation and the update of images (15 R391 to R413). -/
namespace Sys2Proof.Machine

-- The device certificate --------------------------------------------------------------------------------------------

/-- The first DER item of a byte string: tag, content, what follows. -/
def derItem (bs : List Byte) : Option (Byte × List Byte × List Byte) :=
  match bs with
  | t :: l :: r =>
    let n := l.toNat
    let (len, r) := if n < 128 then (n, r) else (natBE (r.take (n - 128)), r.drop (n - 128))
    if r.length < len then none else some (t, r.take len, r.drop len)
  | _ => none

/-- The DER items of a byte string, up to `n`. -/
def derItems : Nat → List Byte → List (Byte × List Byte)
  | 0, _ => []
  | n + 1, bs =>
    match derItem bs with
    | some (t, v, r) => (t, v) :: derItems n r
    | none => []

/-- The number an uppercase hexadecimal string spells. -/
def hexNat (bs : List Byte) : Nat :=
  bs.foldl (fun n b => 16 * n + (if b.toNat < 0x40 then b.toNat - 0x30 else b.toNat - 0x37)) 0

/-- The attributes of an X.501 name: object identifier and value. -/
def nameParts (name : List Byte) : List (List Byte × List Byte) :=
  (derItems 32 name).flatMap (fun rdn => (derItems 8 rdn.2).filterMap (fun atv =>
    match derItems 2 atv.2 with
    | [(_, oid), (_, v)] => some (oid, v)
    | _ => none))

/-- The module serial: the serialNumber attribute of the subject of the device certificate (15 R406, R413). -/
def certSerial (cert : List Byte) : Nat :=
  match derItem cert with
  | none => 0
  | some (_, body, _) =>
    match derItem body with
    | none => 0
    | some (_, tbs, _) =>
      let items := (derItems 16 tbs).filter (fun x => x.1 ≠ 0xA0)
      match (nameParts (((items[4]?).getD (0, [])).2)).find? (fun p => p.1 = [0x55, 0x04, 0x05]) with
      | some (_, v) => hexNat v
      | none => 0

-- The alias certificate ---------------------------------------------------------------------------------------------

/-- A DER item: tag, length, content (X.690). -/
def der (tag : Byte) (v : List Byte) : List Byte :=
  let n := v.length
  tag :: (if n < 128 then [BitVec.ofNat 8 n] else if n < 256 then [0x81, BitVec.ofNat 8 n] else 0x82 :: bytesBE 2 n) ++ v

/-- A DER integer of a number: no more bytes than it needs, and a zero byte before a set top bit. -/
def derInt (x : Nat) : List Byte :=
  let bs := (bytesBE 33 x).dropWhile (· = 0)
  der 0x02 (match bs with | [] => [0] | b :: _ => if 0x80 ≤ b.toNat then 0 :: bs else bs)

/-- The identifiers of ECDSA with SHA-256, of an elliptic curve key, and of P-256 (RFC 5480, RFC 5758). -/
def derEcdsa : List Byte := der 0x30 [0x06, 0x08, 0x2A, 0x86, 0x48, 0xCE, 0x3D, 0x04, 0x03, 0x02]
def derEcKey : List Byte :=
  der 0x30 ([0x06, 0x07, 0x2A, 0x86, 0x48, 0xCE, 0x3D, 0x02, 0x01] ++ [0x06, 0x08, 0x2A, 0x86, 0x48, 0xCE, 0x3D, 0x03, 0x01, 0x07])

/-- What the alias certificate says: X.509 v3, the alias public key, and an extension with the SHA-256 of the closed log (15 R406);
what R406 does not state is free, and that the extension holds the digest as an octet string is a DESIGN CHOICE (log 15). -/
def aliasTbs (deviceKey aliasKey : Nat) (digest : List Byte) : List Byte :=
  let part := fun i => Config.certPart i (natBE (publicKey deviceKey))
  der 0x30 (der 0xA0 (derInt 2) ++ part 0 ++ derEcdsa ++ part 1 ++ part 2 ++ part 3 ++
    der 0x30 (derEcKey ++ der 0x03 ([0, 4] ++ publicKey aliasKey)) ++
    der 0xA3 (der 0x30 (der 0x30 (part 4 ++ der 0x04 (der 0x04 digest)))))

/-- The alias certificate, signed by the DeviceID key; `k` numbers the draw of its secret number (15 R403, R406). -/
def aliasCert (deviceKey aliasKey : Nat) (digest : List Byte) (k : Nat) : List Byte :=
  let tbs := aliasTbs deviceKey aliasKey digest
  let x := ecdsaSign deviceKey (sha256 tbs) (Config.signatureSecret k) (2 ^ 32)
  der 0x30 (tbs ++ derEcdsa ++ der 0x03 (0 :: der 0x30 (derInt x.1 ++ derInt x.2)))

-- The measurement log -----------------------------------------------------------------------------------------------

/-- Entries of the measurement log in order, from their kinds, infos and digests (15 R407). -/
def logBytes (es : List (Nat × Nat × List Byte)) : List Byte :=
  (es.zip (List.range es.length)).flatMap (fun e =>
    bytesLE 2 e.2 ++ bytesLE 2 e.1.1 ++ [0, 0, 0, 0] ++ bytesLE 8 e.1.2.1 ++ bytesAt e.1.2.2 0 32)

/-- The entries of a container's header and sections (15 R407). -/
def measureContainer (kindHdr info : Nat) (bs : List Byte) : List (Nat × Nat × List Byte) :=
  (kindHdr, info, sha256 (bs.take 0x100)) ::
    (sections bs).map (fun x => (kindHdr + 1, x.type, sha256 ((bs.drop x.off).take x.len)))

-- BOOT --------------------------------------------------------------------------------------------------------------

/-- A halt of the boot: the dies stay in reset and ALARM_N goes low (15 R403). -/
def bootHalt (s : State) (step code : Nat) : State :=
  let s := regPut s (dcs SEC 0) (BitVec.ofNat 32 (step + code <<< 8))
  { s with life := .bootHalt, pins := { s.pins with alarmN := false } }

/-- Step 1: the factory copy in use (15 R403). -/
def bootFactory (s : State) : Option (Nat × List Byte) :=
  ([0, 1].find? (fun c => factoryValid (factoryCopy s c))).map (fun c => (c, factoryCopy s c))

/-- Step 6: the region taken, none for factory only, and the status for which each was rejected (15 R402, R403). -/
def bootUser (s : State) (fac : List Byte) : Option (Nat × List Byte) × Nat × Nat :=
  let st := fun r => userStatus fac s.flash.rpa.userArb s.flash.rpa.fwArb (userRegion s r)
  let a := if s.flash.rpa.active = 0 then 0 else 1
  let rej := fun (r x : Nat) => if r = 0 then (x, 0) else (0, x)
  if st a = 0 then (some (a, userRegion s a), 0, 0)
  else
    let x := rej a (st a)
    if st (1 - a) = 0 then (some (1 - a, userRegion s (1 - a)), x)
    else
      let y := rej (1 - a) (st (1 - a))
      (none, x.1 + y.1, x.2 + y.2)

/-- Steps 7 to 9 once the images are chosen (15 R403 to R407). -/
def bootRelease (s : State) (copy : Nat) (fac uds : List Byte) (user : Option (Nat × List Byte)) (rej : Nat × Nat) : State :=
  let pkg := user.bind (fun u => sectionOf u.2 10)
  let carrier := pkg.getD fac
  let fw := (sectionOf carrier 1).getD []
  let ver := fieldLE carrier 0x10 4
  let r := s.flash.rpa
  let log := logBytes (
    [(1, Config.romVersion.toNat, bytesBE 32 Config.romDigest.toNat)] ++ measureContainer 2 copy fac ++
    (match user with
      | some (n, bs) => measureContainer 4 n bs
      | none => [(4, 0xFF, List.replicate 32 0)]) ++
    [(6, ver + (if pkg.isSome then 2 ^ 32 else 0), sha256 fw), (7, 0, sha256 ((sectionOf fac 5).getD [])),
     (8, r.userArb + r.fwArb * 2 ^ 32, List.replicate 32 0)])
  let wrap := kdfScalar uds "MQKWRAP"
  let nonce := bytesLE 32 (Config.bootNonce s.free).toNat
  let device := kdfScalar uds "MQDEVID"
  let cdi := hmac uds (sha256 log)
  let own := kdfScalarIn cdi "MQALIAS" nonce
  let b : Booted :=
    { factory := fac, user := user, fw := fw, fwPkg := pkg, log := log
      nonce := nonce, deviceKey := device, cdi := cdi, aliasKey := own
      aliasCert := aliasCert device own (sha256 log) s.free
      kHost := layeredKey wrap fac (user.map (·.2)) 0
      kBmc := layeredKey wrap fac (user.map (·.2)) 32 }
  let s := regPut s (dcs SEC 0) 9
  let s := regPutNat s (dcs SP 0x10)
    ((match user with | some (n, _) => n | none => 2) + (if pkg.isSome then 4 else 0) + copy <<< 3 + rej.1 <<< 8 +
      rej.2 <<< 16 + ver <<< 32) 2
  let s := regPutNat s (dcs SP 0x18) (r.userArb + r.fwArb <<< 32) 2
  let s := regPutNat s (dcs SP 0x8) (certSerial ((sectionOf fac 7).getD [])) 2
  let f := { s.flash with rpa := { r with boots := r.boots + 1 }.written }
  let g := { s.gov with time95 := max s.gov.time95 r.time95, trips := max s.gov.trips r.trips }
  { s with booted := b, free := s.free + 1, flash := f, gov := g, life := .released }

/-- BOOT: the pins are released and the security die boots the module, or halts (15 R403). A module that is not held in a Warm
or Cold reset does not boot (log 2). The key of the replay-protected area is programmed at the first boot (R401). -/
def execBoot (s : State) : Out :=
  .next (
    if s.life ≠ .inReset then s
    else match bootFactory s with
      | none => bootHalt s 1 1
      | some (c, fac) =>
        match Config.pufSecret (natLE ((sectionOf fac 6).getD [])) with
        | none => bootHalt s 3 2
        | some u =>
          let uds := bytesBE 32 u.toNat
          let key := kdfBlock uds "MQRPA" 1 256
          if s.flash.rpa.key ≠ none ∧ s.flash.rpa.key ≠ some key then bootHalt s 5 3
          else
            let f := { s.flash with rpa := { s.flash.rpa with key := some key } }
            let s := { s with flash := f }
            let u := bootUser s fac
            bootRelease s c fac uds u.1 u.2)

-- Attestation -------------------------------------------------------------------------------------------------------

/-- SHA-256 of the closed log (15 R408). -/
def logDigest (s : State) : List Byte := sha256 s.booted.log

/-- A 256-bit register as its 32 bytes. -/
def hashReg (s : State) (a : Nat) : List Byte := bytesLE 32 (regNat s a 8)

/-- The quote (15 R408). -/
def quote (s : State) (nonce : List Byte) : State × List Byte :=
  let m := nonce ++ logDigest s ++ hashReg s (dcs SP 0x400) ++ hashReg s (dcs SP 0x420) ++ bytesLE 8 (regNat s (dcs SP 0x8) 2)
  let sig := ecdsaSign s.booted.aliasKey (sha256 (ascii "MQAT" ++ m)) (Config.signatureSecret s.free) (2 ^ 32)
  ({ s with free := s.free + 1 }, m ++ sigBytes sig)

/-- ATTEST_QUOTE (15 R408). -/
def execAttestQuote (n : Nat) (s : State) : Out :=
  mbxCmd n 0x500 s (fun s => let r := quote s (reqBytes s n 0 32); (r.1, ⟨stOK, 0, r.2⟩))

/-- An object's bytes from OFFSET, at most 2,012 of them (15 R408). -/
def attestObject (s : State) (n : Nat) (obj : List Byte) : State × Answer :=
  let o := reqPay s n 36 4
  if obj.length ≤ o then (s, .st 0x58) else (s, ⟨stOK, 0, bytesLE 4 obj.length ++ (obj.drop o).take 2012⟩)

def execAttestLog (n : Nat) (s : State) : Out := mbxCmd n 0x501 s (fun s => attestObject s n s.booted.log)

def execAttestAliasCert (n : Nat) (s : State) : Out :=
  mbxCmd n 0x502 s (fun s => attestObject s n s.booted.aliasCert)

def execAttestDeviceCert (n : Nat) (s : State) : Out :=
  mbxCmd n 0x503 s (fun s => attestObject s n ((sectionOf s.booted.factory 7).getD []))

-- UPDATE_IMAGE ------------------------------------------------------------------------------------------------------

/-- What UPDATE_IMAGE programs: the region erased, its sections, then the header page (15 R410). -/
def programRegion (f : Flash) (r : Nat) (bs : List Byte) : Flash :=
  let f := eraseRegion f r
  if r = 0 then { f with fl0 := flashWrite f.fl0 0x2000000 bs } else { f with fl1 := flashWrite f.fl1 0x2000000 bs }

/-- What the flash device holds of an image it was told to program: its header page may fail (15 R410; free value, log 50). -/
def programmed (bs : List Byte) (fails : Bool) : List Byte := if fails then (bs.take 256).map (~~~ ·) ++ bs.drop 256 else bs

/-- The own checks and the effect of WRITE: the host's image, none where it fails the read (15 R409, R410). The container is read back
and checked, and a mismatch is answered NV_WRITE. -/
def updateWrite (s : State) (n : Nat) (img : Option (List Byte)) : State × Answer :=
  let r := reqPay s n 1 1
  if 1 < r ∨ reqPay s n 8 8 % 64 ≠ 0 then (s, .st stBAD_LEN)
  else if s.booted.user.any (fun u => u.1 = r) then (s, .st 0x54)
  else
    let s := emit s (.hostRead (reqPay s n 8 8) (reqPay s n 16 8))
    match img with
    | none => (s, .st 0x14)
    | some bs =>
      let x := userStatus s.booted.factory s.flash.rpa.userArb s.flash.rpa.fwArb bs
      if x ≠ 0 then (s, .st x)
      else
        let f := programRegion s.flash r (programmed (bs.take (containerLen bs)) (Config.flashFails s.free))
        let s := { s with flash := f, free := s.free + 1 }
        if userStatus s.booted.factory s.flash.rpa.userArb s.flash.rpa.fwArb (userRegion s r) ≠ 0 then (s, .st 0x55)
        else
          let f := { f with rpa := { f.rpa with updates := f.rpa.updates + 1 }.written }
          ({ s with flash := f }, .st stOK)

/-- UPDATE_IMAGE_WRITE with the LENGTH bytes the host answers (15 R409, R410). -/
def execUpdateImageWrite (n : Nat) (img : Option (List Byte)) (s : State) : Out :=
  if n < 16 && mbxTaken s n 0x701 && img.any (fun b => b.length ≠ reqPay s n 16 8) then .fault (.illFormed "image length")
  else mbxCmd n 0x701 s (fun s => updateWrite s n img)

/-- UPDATE_IMAGE_ACTIVATE (15 R411). -/
def execUpdateImageActivate (n : Nat) (s : State) : Out :=
  mbxCmd n 0x702 s (fun s =>
    let r := reqPay s n 1 1
    if 1 < r then (s, .st stBAD_LEN)
    else if userStatus s.booted.factory s.flash.rpa.userArb s.flash.rpa.fwArb (userRegion s r) ≠ 0 then (s, .st 0x56)
    else
      let f := { s.flash with rpa := { s.flash.rpa with active := r }.written }
      ({ s with flash := f }, .st stOK))

/-- UPDATE_IMAGE_COMMIT: the counters rise to the ARBs of the images in force, and never fall (15 R411). -/
def execUpdateImageCommit (n : Nat) (s : State) : Out :=
  mbxCmd n 0x703 s (fun s =>
    if 1 < reqPay s n 1 1 then (s, .st stBAD_LEN)
    else match s.booted.user with
      | none => (s, .st 0x57)
      | some (_, bs) =>
        let u := max s.flash.rpa.userArb (fieldLE bs 0x14 4)
        let w := match s.booted.fwPkg with
          | some p => max s.flash.rpa.fwArb (fieldLE p 0x14 4)
          | none => s.flash.rpa.fwArb
        let f := { s.flash with rpa := { s.flash.rpa with userArb := u, fwArb := w }.written }
        (regPutNat { s with flash := f } (dcs SP 0x18) (u + w <<< 32) 2, .st stOK))

end Sys2Proof.Machine
end

