-- ==== Sys2Proof/Machine/HostPort.lean ====
section
/-! DEFINITION. The coherent requests of the host and its answers to back-invalidations (12 R333 to R336; 14 R371 to R373). -/
namespace Sys2Proof.Machine

/-- Completion codes of a host request: success, unsupported or absent target, refused (14 R364). -/
def SC : Nat := 0
def UR : Nat := 1
def CA : Nat := 2

/-- Completes a host request. -/
def reply (s : State) (code : Nat) (data : List Byte) : State := emit s (.hostReply code data)

/-- The checks of R319 and R320 with HOST in place of the key (12 R333, 14 R371): `need` are the permission bits. -/
def hostMay (s : State) (a n : Nat) (need : List Nat) : Bool :=
  !inHole a n && (regionOf s (a / 2 ^ 37) a n).any (fun v => bitAt v 5 && need.all (fun b => bitAt v b))

/-- The address a host request names, if it is one. -/
def cohAddr : Instr → Option Nat
  | .rdS a | .rdE a | .wb a _ | .drop a => some a
  | .rdNc a _ | .wrNc a _ _ => some a
  | _ => none

/-- The entries of a line's set, in the order of their allocation (12 R334). -/
def dirSet (s : State) (line : Nat) : List DirLine := s.dir.filter (fun e => e.line % 2 ^ 20 = line % 2 ^ 20)

/-- Lines of the set that a WB has freed while their back-invalidation is unanswered: a grant waits for the answer (12 R334). -/
def freedUnanswered (s : State) (line : Nat) : Nat :=
  (s.recalls.filter (fun r => r.wb && r.line % 2 ^ 20 = line % 2 ^ 20)).length

/-- Frees a line's entry. -/
def dirFree (s : State) (line : Nat) : State := setDir s (s.dir.filter (fun e => e.line ≠ line))

/-- The bytes of a line, or part of one. -/
def dramRead (s : State) (a n : Nat) : List Byte := memRead s.dram a n
def dramWrite (s : State) (a : Nat) (bs : List Byte) : State := { s with dram := memWrite s.dram a bs }

/-- A grant of a line in S or E: the entry made or upgraded, and the line returned; none while a full set waits for its
victim (12 R334, 14 R371). -/
def grant (s : State) (a : Nat) (excl : Bool) : State × Bool :=
  let line := a / 64
  match dirFind s line with
  | some e =>
    let s := setDir s (s.dir.map (fun x => if x.line = line then { x with excl := e.excl || excl } else x))
    (reply s SC (dramRead s a 64), true)
  | none =>
    let set_ := dirSet s line
    let left := freedUnanswered s line
    if 16 ≤ set_.length + left then
      match left, set_ with
      | 0, v :: _ => (sendBinv s v.line, false)
      | _, _ => (s, false)
    else
      let s := setDir s (s.dir ++ [⟨line, excl⟩])
      (reply s SC (dramRead s a 64), true)

/-- Writes the bytes that are enabled. -/
def enabledWrite (s : State) (a : Nat) : List Bool → List Byte → State
  | e :: es, b :: bs => enabledWrite (if e then dramWrite s a [b] else s) (a + 1) es bs
  | _, _ => s

/-- A read by the host: one that meets an uncorrectable burst completes with CA (17 R444). -/
def hostReads (s : State) (a n : Nat) (go : State → State × Bool) : State × Bool :=
  let s := if s.errs.marks.isEmpty then s else tableRead s SP 11 0 (a / 64)
  let (s, bad) := dramCheck s a n
  if bad then (reply (recordDram s a 2) CA [], true) else go s

/-- The effect of a host request to a line that nothing keeps waiting; with it, whether it completed (14 R371, R372). -/
def cohAct (s : State) (c : Instr) : State × Bool :=
  match c with
  | .rdS a =>
    if !hostMay s a 64 [1] || heldE s (a / 64) then (reply s CA [], true) else hostReads s a 64 (fun s => grant s a false)
  | .rdE a => if !hostMay s a 64 [1, 2] then (reply s CA [], true) else hostReads s a 64 (fun s => grant s a true)
  | .rdNc a n =>
    if !hostMay s a n [1] || (dirFind s (a / 64)).isSome then (reply s CA [], true) else hostReads s a n (fun s => (reply s SC (dramRead s a n), true))
  | .wrNc a be d =>
    if !hostMay s a d.length [2] || (dirFind s (a / 64)).isSome then (reply s CA [], true)
    else (reply (enabledWrite s a be d) SC [], true)
  | .wb a d =>
    if !hostMay s a 64 [2] || !heldE s (a / 64) then (reply s CA [], true)
    else
      let s := dirFree (dramWrite s a d) (a / 64)
      (reply { s with recalls := s.recalls.map (fun r => if r.line = a / 64 then { r with wb := true } else r) } SC [], true)
  | .drop a =>
    if !hostMay s a 64 [] || (dirFind s (a / 64)).isNone then (reply s CA [], true)
    else (reply (dirFree s (a / 64)) SC [], true)
  | _ => (s, true)

/-- Whether a host request names a line. -/
def ofLine (line : Nat) (c : Instr) : Bool := (cohAddr c).any (fun a => a / 64 = line)

/-- Whether an earlier host request to a line waits, at the Apeno die or at its sliver port. -/
def lineBusy (s : State) (line : Nat) : Bool :=
  s.cohWait.any (ofLine line) ||
    (port s (homeTile (64 * line)) (homeLc (64 * line))).any (fun r => match r.src with | .host c => ofLine line c | _ => false)

/-- What a host request asks of the sliver port (14 R371). -/
def hostOp : Instr → SvcOp
  | .rdNc _ n => .read n
  | .wrNc _ _ d => .write d
  | .wb _ d => .write d
  | .binvWb _ d => .write d
  | _ => .read 64

/-- A host request goes by Bridge 64 to the service queue of its sliver port, or waits: for the answer to a back-invalidation of its
line, or behind an earlier request to it, which a WB passes only as the writeback of a recalled line (01 R20; 12 R333, R334; 14
R372, R373). -/
def cohTry (s : State) (c : Instr) : State :=
  let a := (cohAddr c).getD 0
  let line := a / 64
  if if passesRecall c then lineBusy s line && !recalled s line else recalled s line || lineBusy s line then
    { s with cohWait := s.cohWait ++ [c] }
  else pushSvc s a (hostOp c) (.host c)

/-- The waiting requests, in order. -/
def cohRetry (s : State) : State := s.cohWait.foldl cohTry { s with cohWait := [] }

/-- The data of an answer to a back-invalidation is written, and the recall is over (12 R334, 14 R373). -/
def takeWriteback (s : State) (a : Nat) (d : List Byte) : State :=
  let s := if heldE s (a / 64) then dramWrite s a d else s
  dirFree { s with recalls := s.recalls.filter (fun x => x.line ≠ a / 64) } (a / 64)

/-- A host request in its service slot; one that must wait for a victim stands first among those that wait (12 R334). -/
def serveHost (s : State) (c : Instr) : State :=
  match c with
  | .binvWb a d => cohRetry (takeWriteback s a d)
  | _ =>
    let r := cohAct s c
    cohRetry (if r.2 then r.1 else { r.1 with cohWait := c :: r.1.cohWait })

/-- SERVICE_SLOT: in slot 7 of the frame the count stands in, the port serves one line of the next read or write, if that is what comes
next and refresh does not take the slot (04 R105, R106; 12 R323, R333). -/
def execServiceSlot (c : Nat) (s : State) : Out :=
  coreCmd c s (fun s =>
    let t := tileOf c
    let lc := lcOf c
    let s := setAside s t lc
    if refreshFrame s t s.count then s
    else
      match portPick s t lc with
      | some r => match r.src with
        | .host q => serveHost (portDrop s t lc r) q
        | _ => serveLine s t lc r
      | none => s)

/-- Host requests not answered yet: those that wait, and those at the sliver ports. -/
def hostOpen (s : State) : List Instr :=
  s.cohWait ++ (s.tiles.flatMap (fun t => t.2.ports.flatMap (·.2))).filterMap (fun r => match r.src with
    | .host (.binvWb _ _) => none
    | .host c => some c
    | _ => none)

/-- They find their tile absent (14 R364). -/
def failHost (s : State) : State := (hostOpen s).foldl (fun s _ => reply s UR []) { s with cohWait := [] }

/-- A host request for `n` bytes at `a`: a tile without power is absent (14 R364, R371; 16 R429). -/
def hostReq (c : Instr) (a n : Nat) (s : State) : Out :=
  if 2 ^ 43 ≤ a ∨ n < 8 ∨ 64 < a % 64 + n then .fault (.illFormed "host address")
  else hostTxn c s (fun s => if dieLive s (a / 2 ^ 37) then cohTry s c else reply s UR [])

def execRdS (a : Nat) (s : State) : Out := hostReq (.rdS a) a 64 s
def execRdE (a : Nat) (s : State) : Out := hostReq (.rdE a) a 64 s
def execRdNc (a len : Nat) (s : State) : Out := hostReq (.rdNc a len) a len s
def execWrNc (a : Nat) (be : List Bool) (data : List Byte) (s : State) : Out :=
  if be.length ≠ data.length then .fault (.illFormed "byte enables") else hostReq (.wrNc a be data) a data.length s
def execWb (a : Nat) (data : List Byte) (s : State) : Out :=
  if data.length ≠ 64 then .fault (.illFormed "line") else hostReq (.wb a data) a 64 s
def execDrop (a : Nat) (s : State) : Out := hostReq (.drop a) a 64 s

/-- The host's answer to a back-invalidation: with data when it had modified the line, which a service slot writes (12 R333; 14 R373).
Data that follows a WB of the line, or of a line held in S, is discarded; an answer to no back-invalidation changes nothing
(log 2). -/
def binvAnswer (s : State) (a : Nat) (data : Option (List Byte)) : State :=
  match s.recalls.find? (fun r => r.line = a / 64) with
  | none => s
  | some r =>
    match data.filter (fun _ => !r.wb && heldE s (a / 64)) with
    | some d => pushSvc s a (.write d) (.host (.binvWb a d))
    | none =>
      let s := { s with recalls := s.recalls.filter (fun x => x.line ≠ a / 64) }
      cohRetry (if r.wb then s else dirFree s (a / 64))

/-- The answer as a transaction. -/
def binvTxn (c : Instr) (a : Nat) (data : Option (List Byte)) (s : State) : Out :=
  if 2 ^ 43 ≤ a ∨ a % 64 ≠ 0 ∨ data.any (fun d => d.length ≠ 64) then .fault (.illFormed "line")
  else hostTxn c s (fun s => binvAnswer s a data)

def execBinvAck (a : Nat) (s : State) : Out := binvTxn (.binvAck a) a none s
def execBinvWb (a : Nat) (data : List Byte) (s : State) : Out := binvTxn (.binvWb a data) a (some data) s

end Sys2Proof.Machine
end

