-- ==== Sys2Proof/Machine/Copy.lean ====
section
/-! DEFINITION. The copy channels of the Apeno die (14 R367 to R370). -/
namespace Sys2Proof.Machine

-- Registers of a channel --------------------------------------------------------------------------------------------

def bcRing (ch : Nat) : Nat := dcs APL (0x400 + 0x20 * ch)
def bcTail (ch : Nat) : Nat := dcs APL (0x408 + 0x20 * ch)
def bcStat (ch : Nat) : Nat := dcs APL (0x410 + 0x20 * ch)

/-- Descriptors of a ring. -/
def ringSize (s : State) (ch : Nat) : Nat := 2 ^ (min 15 (regBits s (bcRing ch) 55 52) + 4)

/-- HEAD and TAIL of a channel; a TAIL beyond the ring is taken modulo its size (14). -/
def ringHead (s : State) (ch : Nat) : Nat := regBits s (bcStat ch) 19 0
def ringTail (s : State) (ch : Nat) : Nat := regBits s (bcTail ch) 19 0 % ringSize s ch

/-- Host address of the descriptor at HEAD. -/
def ringAt (s : State) (ch : Nat) : Nat := 64 * regBits s (bcRing ch) 51 6 + 32 * ringHead s ch

/-- The descriptor a channel has in progress: its 32 bytes, then its host address. -/
def inProgress (s : State) (ch : Nat) : Option (List Byte) := smGet none s.copy ch
def setInProgress (s : State) (ch : Nat) (d : Option (List Byte)) : State := { s with copy := smSet none s.copy ch d }

/-- Whether a channel takes its next descriptor (14 R367). -/
def channelReady (s : State) (ch : Nat) : Bool :=
  soundpostRuns s && regBits s (dcs APL 0x300) 0 0 = 1 && regBits s (bcStat ch) 20 20 = 0 && (inProgress s ch).isNone &&
    ringHead s ch ≠ ringTail s ch

/-- A write of a channel's ring: HEAD and TAIL become 0 (14). -/
def copyRingWrite (s : State) (ch v : Nat) : State :=
  let s := regWrite (regWrite s (bcRing ch) (BitVec.ofNat 32 v)) (bcRing ch + 4) (BitVec.ofNat 32 (v >>> 32))
  regSetBits (regSetBits s (bcStat ch) 19 0 0) (bcTail ch) 19 0 0

/-- A write of APL_BCCTL: RESUMEc clears HALT of channel c (14 R370). -/
def copyResume (s : State) (v : Nat) : State :=
  (List.range 4).foldl (fun s c => if bitAt v (4 + c) then regSetBits s (bcStat c) 20 20 0 else s) s

-- Descriptors -------------------------------------------------------------------------------------------------------

/-- A copy descriptor (14 R367). -/
structure Desc where
  haddr : Nat
  maddr : Nat
  len : Nat
  dir : Nat
  irq : Bool
  at_ : Nat
deriving DecidableEq, Repr

def descOf (bs : List Byte) : Desc :=
  ⟨fieldLE bs 0 8, fieldLE bs 8 8, fieldLE bs 16 4, fieldLE bs 20 1, bitAt (fieldLE bs 21 1) 0, fieldLE bs 32 8⟩

def descSpace (x : Desc) : Nat := bitsOf x.maddr 63 62

/-- The core a local-store or instruction-store address names (14 R368). -/
def descCore (x : Desc) : Nat := bitsOf x.maddr 42 23
def descOff (x : Desc) : Nat := bitsOf x.maddr 15 0

/-- Whether a descriptor receives STATUS RANGE (14 R368). Other bits that are not zero, and an instruction-store offset that
names no index, break the range limit (DEDUCED, log 53). -/
def descRange (x : Desc) : Bool :=
  x.haddr % 64 ≠ 0 || x.len % 64 ≠ 0 || decide (x.len < 64 ∨ 16777216 < x.len) || decide (1 < x.dir) ||
    bitsOf x.maddr 61 43 ≠ 0 ||
    (match descSpace x with
      | 0 => inHole (bitsOf x.maddr 42 0) x.len
      | 1 => bitsOf x.maddr 22 16 ≠ 0 || decide (0xC000 < descOff x + x.len)
      | 2 => bitsOf x.maddr 22 16 ≠ 0 || descOff x % 8 ≠ 0 || decide (16384 < descOff x + x.len)
      | _ => true)

/-- Whether it receives STATUS BUSY (14 R368; 16 R429): instruction stores written while a run is armed or running, and tiles
without power, a trip included (DEDUCED, log 53). -/
def descBusy (s : State) (x : Desc) : Bool :=
  (descSpace x = 2 && x.dir = 0 && runBusy s) || !dieLive s (bitsOf x.maddr 42 37)

/-- Whether a line of the host's directory lies in a descriptor's sliver bytes. -/
def descLine (x : Desc) (line : Nat) : Bool :=
  descSpace x = 0 && decide (bitsOf x.maddr 42 0 < 64 * line + 64 ∧ 64 * line < bitsOf x.maddr 42 0 + x.len)

/-- Whether a line of the descriptor is still held in E: it is recalled first (14 R369). -/
def descWaits (s : State) (x : Desc) : Bool := s.dir.any (fun e => e.excl && descLine x e.line)

/-- The recalls of the descriptor's lines held in E (14 R369, R373). -/
def descRecall (s : State) (x : Desc) : State :=
  ((s.dir.filter (fun e => e.excl && descLine x e.line)).map (·.line)).foldl sendBinv s

/-- Whether a sliver port of the descriptor's bytes is between the slots of one request: none of another request falls there (12
R323). -/
def descBetween (s : State) (x : Desc) : Bool :=
  descSpace x = 0 && s.tiles.any (fun t => t.2.ports.any (fun p => p.2.any (fun r =>
    decide (r.done ≠ 0) && (svcLines t.1 p.1 r).any (descLine { x with maddr := x.maddr / 2 ^ 23 * 2 ^ 23, len := x.len + 2 ^ 23 }))))

/-- The bulk transactions of `n` bytes of host memory from an address: 64 to 512 bytes each (14 R364; that they are as long as they may
be is a DESIGN CHOICE, log 53). -/
def bulkSpans (a n : Nat) : List (Nat × Nat) :=
  (List.range (ceilDiv n 512)).map (fun i => (a + 512 * i, min 512 (n - 512 * i)))

/-- Reads and writes of host memory by a channel. -/
def bulkRead (s : State) (a n : Nat) : State := (bulkSpans a n).foldl (fun s p => emit s (.hostRead p.1 p.2)) s
def bulkWrite (s : State) (a : Nat) (bs : List Byte) : State :=
  (bulkSpans a bs.length).foldl (fun s p => emit s (.hostWrite p.1 ((bs.drop (p.1 - a)).take p.2))) s

/-- The bytes a descriptor reads from the module. -/
def descRead (s : State) (x : Desc) (n : Nat) : List Byte :=
  match descSpace x with
  | 0 => memRead s.dram (bitsOf x.maddr 42 0) n
  | 1 => memRead (coreOf s (descCore x)).ls (descOff x) n
  | _ => memRead (coreOf s (descCore x)).is (descOff x) n

/-- What the check codes find in them: uncorrected bytes are copied, and the fault is fail during a run, else a report (17 R444). -/
def bulkCheck (s : State) (x : Desc) (n : Nat) : State :=
  if descSpace x ≠ 0 then s
  else
    let a := bitsOf x.maddr 42 0
    let (s, bad) := dramCheck s a n
    if bad then recordDram s a (if s.plane.run = .idle then 2 else 1) else s

/-- The bytes a descriptor writes to the module; lines the host holds in S are invalidated (14 R369). -/
def descWrite (s : State) (x : Desc) (bs : List Byte) : State :=
  match descSpace x with
  | 0 =>
    let a := bitsOf x.maddr 42 0
    let touched := (s.dir.filter (fun e => descLine { x with len := bs.length } e.line)).map (·.line)
    touched.foldl writeTouch { s with dram := memWrite s.dram a bs }
  | 1 => modCore s (descCore x) (fun k => { k with ls := memWrite k.ls (descOff x) bs })
  | _ => modCore s (descCore x) (fun k => { k with is := memWrite k.is (descOff x) bs })

/-- STATUS goes to the host and HEAD advances (14 R369). -/
def descEnd (s : State) (ch : Nat) (x : Desc) (status : Nat) : State :=
  let s := emit (setInProgress s ch none) (.hostWrite (x.at_ + 22) [BitVec.ofNat 8 status])
  regSetBits s (bcStat ch) 19 0 ((ringHead s ch + 1) % ringSize s ch)

/-- A channel halts: its interrupt is set (14 R370, R374). -/
def haltChannel (s : State) (ch : Nat) : State := raiseIrq (regSetBits s (bcStat ch) 20 20 1) (16 + ch)

/-- A descriptor completes with IRQ as its FLAGS say (14 R367, R374). -/
def descDone (s : State) (ch : Nat) (x : Desc) (status : Nat) : State :=
  let s := descEnd s ch x status
  if x.irq then raiseIrq s (16 + ch) else s

/-- The next descriptor of a channel (14 R367 to R370): none where the host fails the read. -/
def takeDesc (s : State) (ch : Nat) (desc : Option (List Byte)) : State :=
  let s := emit s (.hostRead (ringAt s ch) 32)
  match desc with
  | none => haltChannel s ch
  | some bs =>
    let bs := bs ++ bytesLE 8 (ringAt s ch)
    let x := descOf bs
    if descRange x then descDone s ch x 1
    else if descBusy s x then descDone s ch x 2
    else
      let s := setInProgress s ch (some bs)
      descRecall (if x.dir = 0 then bulkRead s x.haddr x.len else s) x

-- Commands ----------------------------------------------------------------------------------------------------------

/-- A command of copy channel `ch`. -/
def channelCmd (ch : Nat) (s : State) (o : Out) : Out :=
  if 4 ≤ ch then .refused (.noSuchUnit "copy channel") else if s.life = .up then o else .next s

def execCopyDoorbell (ch : Nat) (v : BitVec 32) (s : State) : Out :=
  if 4 ≤ ch then .refused (.noSuchUnit "copy channel")
  else mmioWrite (.copyDoorbell ch v) APL false s (fun s => regWrite s (bcTail ch) v)

def execCopyRingWrite (ch : Nat) (v : BitVec 64) (s : State) : Out :=
  if 4 ≤ ch then .refused (.noSuchUnit "copy channel")
  else mmioWrite (.copyRingWrite ch v) APL false s (fun s => copyRingWrite s ch v.toNat)

def execCopyResume (ch : Nat) (s : State) : Out :=
  if 4 ≤ ch then .refused (.noSuchUnit "copy channel")
  else mmioWrite (.copyResume ch) APL false s (fun s => copyResume s (2 ^ (4 + ch)))

/-- COPY_DESCRIPTOR: a channel takes the descriptor at HEAD, whose bytes the host gives (14 R368; log 2). -/
def execCopyDescriptor (ch : Nat) (desc : Option (List Byte)) (s : State) : Out :=
  if desc.any (fun d => d.length ≠ 32) then .fault (.illFormed "descriptor")
  else channelCmd ch s (.next (if channelReady s ch then takeDesc s ch desc else s))

/-- COPY_DESCRIPTOR_DONE: every byte takes effect, then the status and HEAD (14 R369). The bytes of slivers take their service slots here,
between the requests of their ports; a line the host has come to hold in E is recalled first (04 R105; DESIGN CHOICE, log 53).
`data` is what the host memory gave, for a copy to the module. Tiles that have lost power meanwhile answer as those that had none at its start (DEDUCED, log 53). -/
def execCopyDescriptorDone (ch : Nat) (data : List Byte) (s : State) : Out :=
  channelCmd ch s (
    match inProgress s ch with
    | none => .next s
    | some bs =>
      let x := descOf bs
      if !soundpostRuns s || descBetween s x then .next s
      else if descWaits s x then .next (descRecall s x)
      else if !dieLive s (bitsOf x.maddr 42 37) then .next (descDone s ch x 2)
      else if data.length ≠ (if x.dir = 0 then x.len else 0) then .fault (.illFormed "bulk data")
      else if x.dir = 0 then .next (descDone (descWrite s x data) ch x 0)
      else .next (descDone (bulkWrite (bulkCheck s x x.len) x.haddr (descRead s x x.len)) ch x 0))

/-- HOST_ERR: the host answers a bulk transaction of the descriptor with an error; `data` are the bytes copied before (14 R370).
The failed descriptor counts as taken, so HEAD passes it (DEDUCED, log 53). -/
def execHostErr (ch : Nat) (data : List Byte) (s : State) : Out :=
  channelCmd ch s (
    match inProgress s ch with
    | none => .next s
    | some bs =>
      let x := descOf bs
      if !soundpostRuns s || (!data.isEmpty && descBetween s x) then .next s
      else if !data.isEmpty && descWaits s x then .next (descRecall s x)
      else if x.len ≤ data.length then .fault (.illFormed "bulk data")
      else
        let s := if data.isEmpty then s
          else if x.dir = 0 then descWrite s x data
          else bulkWrite (bulkCheck s x data.length) x.haddr (descRead s x data.length)
        .next (haltChannel (descEnd s ch x 3) ch))

end Sys2Proof.Machine
end

