-- ==== Sys2Proof/Machine/Tuning.lean ====
section
/-! DEFINITION. The tuning ring and the arming of MUTE (13 R344 to R348; 17 R447, R448, R454). -/
namespace Sys2Proof.Machine

-- The ring ----------------------------------------------------------------------------------------------------------

def ringCtl : Nat := dcs TUN 0x10
def ringStat : Nat := dcs TUN 0x18

/-- STATE of TUN_RINGSTAT: 0 ACQUIRE, 1 LOCKED, 2 HOLDOVER, 3 SOLO (13). -/
def ringState (s : State) : Nat := regBits s ringStat 1 0

/-- The ring enters a state; the runs of SYNCs that count toward or against lock begin anew (13 R345). -/
def setRingState (s : State) (x : Nat) : State :=
  let r := { s.ring with good := 0, bad := 0 }
  regSetBits { s with ring := r } ringStat 1 0 x

/-- HOLDOVER begins, unless it is in force (13 R346). -/
def enterHoldover (s : State) : State :=
  if ringState s = 2 then s
  else
    let r := { s.ring with since := s.count }
    setRingState { s with ring := r } 2

/-- HTIME: sync periods elapsed in the present holdover, saturating (13 R346). -/
def htime (s : State) : Nat := if ringState s = 2 then min (2 ^ 32 - 1) ((s.count - s.ring.since) / 2 ^ 20) else 0

/-- TUN_RINGSTAT as it reads. -/
def ringStatWord (s : State) : Nat := putBits (regNat s ringStat 2) 47 16 (htime s)

/-- What a change of TUN_RINGCTL does (13 R346, R348): SOLO takes state SOLO, and leaves it for ACQUIRE; HOLD forces HOLDOVER. A
module that becomes master waits for its own SYNC from now on (DEDUCED, log 54). -/
def ringFollows (s : State) (old : Nat) : State :=
  let solo := regBits s ringCtl 1 1 = 1
  let s := if regBits s ringCtl 0 0 = 1 ∧ bitsOf old 0 0 = 0 then
      let r := { s.ring with heard := s.count }
      { s with ring := r }
    else s
  let s := if solo then (if ringState s = 3 then s else setRingState s 3)
    else if ringState s = 3 then
      let r := { s.ring with heard := s.count }
      setRingState { s with ring := r } 0
    else s
  if !solo ∧ regBits s ringCtl 2 2 = 1 then enterHoldover s else s

/-- A write of TUN_RINGCTL (13). -/
def ringCtlWrite (s : State) (v : Nat) : State := ringFollows (regWrite s ringCtl (BitVec.ofNat 32 v)) (regNat s ringCtl 1)

def execTunRingctlWrite (v : BitVec 32) (s : State) : Out :=
  mmioWrite (.tunRingctlWrite v) TUN false s (fun s => ringCtlWrite s v.toNat)

/-- HCHK of a SYNC word: CRC-16 over COUNT and FLAGS (18 R474). -/
def syncChk (count : BitVec 64) (flags : BitVec 8) : BitVec 16 := crc16 (bytesLE 8 count.toNat ++ [flags])

/-- The SYNC word of a count, with its OPEN flag (18 R474). -/
def syncWord (x : Nat) (opn : Bool) : SyncWord :=
  let f : BitVec 8 := if opn then 1 else 0
  ⟨BitVec.ofNat 64 x, f, syncChk (BitVec.ofNat 64 x) f, true⟩

/-- Whether a word is a valid SYNC (18 R474). -/
def syncValid (w : SyncWord) : Bool := w.clean && w.hchk = syncChk w.count w.flags

/-- OPEN of a SYNC word (18 R474). -/
def syncOpen (w : SyncWord) : Bool := w.flags.getLsbD 0

/-- The next count at which the master sends (13 R344). -/
def nextSync (s : State) : Nat :=
  let x := 2 ^ 20 * ceilDiv (max 1 s.count) (2 ^ 20)
  if s.ring.sentAt = some x then x + 2 ^ 20 else x

/-- SYNC_SEND: the ring master sends its count, with OPEN while its own SYNC does not return (13 R344, R346; log 2). -/
def execSyncSend (s : State) : Out :=
  .next (
    if !soundpostRuns s || regBits s ringCtl 0 0 = 0 then s
    else
      let x := nextSync s
      let s := passTo s x
      if s.muted then s
      else
        let r := { s.ring with sentAt := some x }
        emit { s with ring := r } (.sync (syncWord x s.ring.lost)))

/-- ERR of TUN_RINGSTAT: in two's complement, saturating at ±127 (13). -/
def errField (e : Int) : Nat := ofSigned 8 (max (-127) (min 127 e))

/-- What a valid SYNC without OPEN does by state (13 R345, R346). The SYNC that ends a holdover counts toward nothing else
(DEDUCED, log 54). -/
def syncActs (s : State) (e : Int) (target : Nat) : State :=
  let near := decide (e.natAbs ≤ 2)
  match ringState s with
  | 0 =>
    if near then
      if s.ring.good + 1 = 16 then setRingState s 1
      else
        let r := { s.ring with good := s.ring.good + 1 }
        { s with ring := r }
    else
      let r := { s.ring with good := 0 }
      let s := { s with ring := r }
      if s.plane.run = .idle then
        let r := { s.ring with heard := target }
        { s with count := target, ring := r }
      else s
  | 1 =>
    if near then
      let r := { s.ring with bad := 0 }
      { s with ring := r }
    else if s.ring.bad + 1 = 4 then setRingState s 0
    else
      let r := { s.ring with bad := s.ring.bad + 1 }
      { s with ring := r }
  | 2 => if regBits s ringCtl 2 2 = 0 then setRingState s 0 else s
  | _ => s

/-- A SYNC taken at the module's own count; at the master it is its own that has returned (13 R344 to R346). -/
def takeSync (s : State) (w : SyncWord) : State :=
  let target := w.count.toNat + regBits s ringCtl 23 8
  let e : Int := (s.count : Int) - (target : Int)
  let r := { s.ring with heard := s.count, lost := false }
  let s := { s with ring := r }
  let s := regSetBits (regSetBits s ringStat 15 8 (errField e)) ringStat 2 2 (if syncOpen w then 1 else 0)
  if syncOpen w then enterHoldover s else syncActs s e target

/-- SYNC_RECEIVE: a ring word arrives on TUNE_IN. A module passes it on, but not the master its own; a module without power or
in reset passes it through its bypass; a muted one opens the ring; SOLO ignores it, and so does every module a word that is no valid SYNC (13 R344, R345, R348; 17 R455; 18 R474). -/
def execSyncReceive (w : SyncWord) (s : State) : Out :=
  .next (
    if s.muted then s
    else if s.life ≠ .up then emit s (.sync w)
    else
      let s := if regBits s ringCtl 0 0 = 1 then s else emit s (.sync w)
      if ringState s = 3 || !syncValid w then s else takeSync s w)

/-- SYNC_TIMEOUT: 2^21 counts without a valid SYNC, or at the master without its own (13 R346). -/
def execSyncTimeout (s : State) : Out :=
  .next (
    if !soundpostRuns s || ringState s = 3 then s
    else
      let s := passTo s (s.ring.heard + 2 ^ 21)
      if s.muted then s
      else if regBits s ringCtl 0 0 = 1 then
        let r := { s.ring with lost := true }
        enterHoldover (regSetBits { s with ring := r } ringStat 2 2 1)
      else enterHoldover s)

-- Arming MUTE -------------------------------------------------------------------------------------------------------

def muteCtl : Nat := dcs TUN 0x108
def muteAt (s : State) : Nat := regNat s (dcs TUN 0x100) 2

/-- STATE of TUN_MUTECTL: 0 running, 1 armed, 2 muted (17). -/
def muteState (s : State) : Nat := regBits s muteCtl 3 2

/-- MUTE is armed at the present TUN_MUTEAT from a source: 0 MUTE-at, 1 MUTE_N. -/
def armMute (s : State) (src : Nat) : State :=
  let m := { s.mute with due := muteAt s }
  regSetBits (regSetBits (regSetBits { s with mute := m } muteCtl 0 0 1) muteCtl 3 2 1) muteCtl 4 4 src

/-- An arming is refused (17 R447). -/
def muteLate (s : State) : State := regSetBits s muteCtl 1 1 1

/-- A write of ARM = 1 (17 R447): while the pin has armed MUTE the smaller count applies; over an arming of its own it arms anew
(DEDUCED, log 55). -/
def armWrite (s : State) : State :=
  if 1 < pwrState s ∨ muteAt s < s.count + 1024 then muteLate s
  else if muteState s = 1 ∧ regBits s muteCtl 4 4 = 1 ∧ s.mute.due ≤ muteAt s then s
  else armMute s 0

/-- A write of TUN_MUTECTL while the module is not muted: ARM, then LATE and REFUSED; RESUME is ignored (17). -/
def muteCtlWrite (s : State) (v : Nat) : State :=
  let s := regWrite s muteCtl (BitVec.ofNat 32 (v - v % 2 + regBits s muteCtl 0 0))
  if bitAt v 0 then armWrite s else disarm s

def execMuteArm (s : State) : Out := mmioWrite .muteArm TUN false s armWrite
def execMuteDisarm (s : State) : Out := mmioWrite .muteDisarm TUN false s disarm

/-- MUTE_N_FALL: a falling edge of MUTE_N (17 R447). -/
def execMuteNFall (s : State) : Out :=
  .next (
    if !s.pins.muteN then s
    else
      let s := { s with pins := { s.pins with muteN := false } }
      if !soundpostRuns s then s
      else if 1 < pwrState s then muteLate s
      else
        let m := 256 * ceilDiv (s.count + 64) 256
        if muteState s = 1 ∧ (regBits s muteCtl 4 4 = 1 ∨ s.mute.due ≤ m) then s
        else armMute (regPutNat s (dcs TUN 0x100) m 2) 1)

/-- MUTE_FREEZE: time passes to the mute count (17 R448; log 2). -/
def execMuteFreeze (s : State) : Out :=
  .next (if soundpostRuns s && muteState s = 1 && pwrState s ≤ 1 then passTo s (max (s.count + 1) s.mute.due) else s)

end Sys2Proof.Machine
end

