-- ==== Sys2Proof/Machine/Dcs.lean ====
section
/-! DEFINITION. Writes of the host to the device control space: what each register does when it is written (00 R5, R6; 01 R29,
R30; 14 R365, R366). -/
namespace Sys2Proof.Machine

-- Registers with effects --------------------------------------------------------------------------------------------

/-- A write of APL_IRQMASK: a mask bit cleared over a pending one sends its doorbell (14 R375). -/
def irqMaskWrite (s : State) (v : Word) : State :=
  let old := (regWord s (dcs APL 0x108)).toNat
  let pend := (regWord s (dcs APL 0x100)).toNat
  let s := regWrite s (dcs APL 0x108) v
  let new := (regWord s (dcs APL 0x108)).toNat
  (List.range 26).foldl (fun s b => if bitAt old b && !bitAt new b && bitAt pend b then doorbell s b else s) s

/-- The fault log is emptied (17 R439). -/
def clearFaultLog (s : State) : State :=
  let s := (List.range 64).foldl (fun s i => regPutNat s (dcs SP (0x3000 + 0x10 * i)) 0 4) s
  let p := { s.plane with logged := s.plane.logged.map (fun e => (e.1, none)) }
  regPutNat { s with plane := p } (dcs SP 0x2F00) 0 2

/-- A write of SP_MBXCTLn from one side: OVERRUN, then GO and ACK; while the other side owns a command it is ignored (14 R377,
R379). -/
def mbxCtlWrite (s : State) (n : Nat) (side : Side) (v : Word) : State :=
  if mbxState s n ≠ 0 ∧ (mbx s n).owner ≠ side then s
  else
    let s := regWrite s (mbxCtl n) v
    let s := if v.getLsbD 0 then goWrite s n side else s
    if v.getLsbD 1 then
      let due := ackStarts s n && mbxState s n = 2 && decide ((mbx s n).owner = side)
      let s := ackWrite s n side
      if due then dueReset s else s
    else s

/-- The slot a Saddle register belongs to (10 R275). -/
def slotOf (o : Nat) : Option Nat :=
  if 0x101000 ≤ o ∧ o < 0x101400 ∧ o % 0x40 < 0x28 then some ((o - 0x101000) / 0x40)
  else if 0x102000 ≤ o ∧ o < 0x104000 then some ((o - 0x102000) / 0x200) else none

/-- A host write to a slot that a stream of this step uses records SADDLE_PROG (10 R281). -/
def slotTouch (s : State) (d o : Nat) : State :=
  match slotOf o with
  | some i => if (bridge s d).eng.used.contains (i, (tileReg s 0 0x80C).toNat % 2 ^ 16) then sadProg s d else s
  | none => s

/-- A write of BRG_EPOCH: the step-abort discard on that Bridge alone (08 R234). -/
def epochWrite (s : State) (d v : Nat) : State := restQueues (restage (epochBridge s d (v % 256)) d (fun _ => none))

/-- Whether a course or region table entry lies at an offset: written during a step, it is ignored (11 R282, 12 R318). -/
def inTable (d o : Nat) : Bool :=
  if d < 64 then decide (0x4000 ≤ o ∧ o < 0x10000) else decide (0x8000 ≤ o ∧ o < 0xC000)

/-- A word of a register of Bridge `d`: BRG_SELF, BRG_PEER and BRG_PEERSN restart training where they change, or in MISMATCH
(07 R190, R480). -/
def bridgeWord (s : State) (d o : Nat) (v : Word) : State :=
  let a := dcs d o
  if o = 0x34 then linkCtlWrite s d v.toNat
  else if o = 0x0 ∨ o = 0x10 ∨ o = 0x14 ∨ o = 0x18 ∨ o = 0x1C then
    let old := regWord s a
    let s := regWrite s a v
    if regWord s a ≠ old ∨ (linkState s d = lsMISMATCH ∧ o ≠ 0x0) then restartTraining s d else s
  else if o = 0x120 then epochWrite s d v.toNat
  else if o = 0x280 then shaperWrite s d v.toNat
  else if inTable d o && s.plane.run = .running then s
  else regWrite s a v

/-- A word of a register of a tile: the per-core window, the policers, the tables (01 R29). -/
def tileWord (s : State) (t o : Nat) (v : Word) : State :=
  if 0x100000 ≤ o ∧ o < 0x900000 then
    modCore s (t * 16384 + (o - 0x100000) / 0x200) (fun k => csrWrite32 k ((o - 0x100000) % 0x200) v)
  else if o = 0x980 then policerWrite s t v.toNat
  else if o = 0x10000 then refphWrite s t v
  else if inTable t o && s.plane.run = .running then s
  else regWrite s (dcs t o) v

/-- A word of the Apeno die's registers (14). -/
def apenoWord (s : State) (o : Nat) (v : Word) : State :=
  if o = 0x108 then irqMaskWrite s v
  else if o = 0x300 then copyResume s v.toNat
  else if 0x400 ≤ o ∧ o < 0x480 ∧ o % 0x20 < 8 then
    let ch := (o - 0x400) / 0x20
    regSetBits (regSetBits (regWrite s (dcs APL o) v) (bcStat ch) 19 0 0) (bcTail ch) 19 0 0
  else if o = 0x980 then policerWrite s APL v.toNat
  else regWrite s (dcs APL o) v

/-- A word of the Soundpost's registers and mailboxes (14, 16, 17). -/
def soundpostWord (s : State) (o : Nat) (v : Word) : State :=
  if 0x800 ≤ o ∧ o < 0x880 ∧ o % 8 = 0 then mbxCtlWrite s ((o - 0x800) / 8) .apeno v
  else if 0x100000 ≤ o ∧ o < 0x110000 then mbxWrite s ((o - 0x100000) / 0x1000) .apeno (o % 0x1000) (bytesLE 4 v.toNat)
  else if o = 0x980 then policerWrite s SP v.toNat
  else if o = 0x2F04 then (if v.getLsbD 0 then clearFaultLog s else s)
  else regWrite s (dcs SP o) v

/-- A word of the Tuning die's registers (13, 17). -/
def tuningWord (s : State) (o : Nat) (v : Word) : State :=
  if o = 0x10 then ringCtlWrite s v.toNat else if o = 0x108 then muteCtlWrite s v.toNat else regWrite s (dcs TUN o) v

/-- A word written by the host at an address (01 R29, R30). -/
def wordWrite (s : State) (a : Nat) (v : Word) : State :=
  let d := a / 2 ^ 24
  let o := a % 2 ^ 24
  if d < 64 then tileWord s d o v
  else if d < 100 then bridgeWord s d o v
  else if d = 100 then apenoWord s o v
  else if d = 101 then soundpostWord s o v
  else if d = 103 then tuningWord s o v
  else regWrite s a v

/-- A write of 4 or 8 bytes, the low word first. -/
def dcsStore (s : State) (a sz v : Nat) : State :=
  let d := a / 2 ^ 24
  let s := if 64 ≤ d ∧ d < 100 then slotTouch s d (a % 2 ^ 24) else s
  let s := wordWrite s a (BitVec.ofNat 32 v)
  if sz = 8 then wordWrite s (a + 4) (BitVec.ofNat 32 (v / 2 ^ 32)) else s

/-- A word a read of the host returns: the per-core window, a mailbox memory, a register; an offset that is not implemented reads as
zero (01 R29, R30; 14 R376). -/
def wordRead (s : State) (a : Nat) : Nat :=
  let d := a / 2 ^ 24
  let o := a % 2 ^ 24
  if d < 64 ∧ 0x100000 ≤ o ∧ o < 0x900000 then
    let c := d * 16384 + (o - 0x100000) / 0x200
    (csrRead32 (coreIdle s c) (coreOf s c) ((o - 0x100000) % 0x200)).toNat
  else if d = SP ∧ 0x100000 ≤ o ∧ o < 0x110000 then natLE (memRead (mbx s ((o - 0x100000) / 0x1000)).mem (o % 0x1000) 4)
  else (regWord s a).toNat

/-- What a read of `sz` bytes at an address returns, none for UR: width and alignment, absent and unpowered dies; it needs no session
(01 R30; 14 R365, R366). -/
def dcsRead (s : State) (a sz : Nat) : Option Nat :=
  if (sz = 4 ∨ sz = 8) ∧ a % sz = 0 ∧ dieLive s (a / 2 ^ 24) = true then
    some (wordRead s a + (if sz = 8 then wordRead s (a + 4) * 2 ^ 32 else 0))
  else none

/-- A device control space read as a transaction (14 R364 to R366): `after` is what the read itself changes. -/
def dcsReadTxn (i : Instr) (a sz : Nat) (after : State → State) (s : State) : Out :=
  if s.life = .released then .next (emit s (.mmioDone false))
  else hostTxn i s (fun s =>
    match dcsRead s a sz with
    | some v => after (emit s (.mmioRead v))
    | none => emit s (.mmioDone false))

/-- The targets a write reaches without a HOST session (14 R366). -/
def sessionExempt (a : Nat) : Bool :=
  a / 2 ^ 24 = 101 &&
    (let o := a % 2 ^ 24; decide (0x100000 ≤ o ∧ o < 0x110000) || decide (0x800 ≤ o ∧ o < 0x880))

/-- A device control space write as a transaction: UR for a width or alignment that R30 does not allow (01 R30, 14 R366). -/
def dcsTxn (i : Instr) (a sz v : Nat) (s : State) : Out :=
  if (sz = 4 ∨ sz = 8) ∧ a % sz = 0 then mmioWrite i (a / 2 ^ 24) (sessionExempt a) s (fun s => dcsStore s a sz v)
  else if s.life = .released then .next (emit s (.mmioDone false))
  else hostTxn i s (fun s => emit s (.mmioDone false))

-- Commands ----------------------------------------------------------------------------------------------------------

def execDcsWrite (a : BitVec 32) (sz : Nat) (v : BitVec 64) (s : State) : Out :=
  dcsTxn (.dcsWrite a sz v) a.toNat sz v.toNat s

/-- SADDLE_SLOT_WRITE: a write to the header, a constant or a word of a Saddle slot (10 R281). -/
def execSaddleSlotWrite (a : BitVec 32) (sz : Nat) (v : BitVec 64) (s : State) : Out :=
  if isBridge (a.toNat / 2 ^ 24) && (slotOf (a.toNat % 2 ^ 24)).isSome then
    dcsTxn (.saddleSlotWrite a sz v) a.toNat sz v.toNat s
  else .refused (.noSuchUnit "Saddle slot")

/-- EPOCH_WRITE: a direct write of BRG_EPOCH (08 R234). -/
def execEpochWrite (d : Nat) (v : BitVec 32) (s : State) : Out :=
  bridgeWrite (.epochWrite d v) d s (fun s => epochWrite s d v.toNat)

def execIrqMaskWrite (v : BitVec 32) (s : State) : Out :=
  mmioWrite (.irqMaskWrite v) APL false s (fun s => irqMaskWrite s v)

/-- FAULT_LOG_CLEAR (17 R439). -/
def execFaultLogClear (s : State) : Out := mmioWrite .faultLogClear SP false s clearFaultLog

/-- A read of SP_RSTCAUSE: the value, then LAST becomes 7 (16 R428). No read of another address changes anything, so that the table
has no row for one (log 74). -/
def execRstcauseRead (s : State) : Out :=
  dcsReadTxn .rstcauseRead (dcs SP 0x20) 4 (fun s => regSetBits s (dcs SP 0x20) 2 0 7) s

/-- A write of SP_MBXCTLn from a side. Over the Apeno link it is served without a session; SMBus reaches MBX15 alone, and is not
served by a module that is muted or not up (14 R366, R379; 17 R449). -/
def mbxCtlCmd (i : Instr) (n : Nat) (src : Side) (v : Word) (s : State) : Out :=
  if 16 ≤ n then .refused (.noSuchUnit "mailbox")
  else match src with
    | .apeno => mmioWrite i SP true s (fun s => mbxCtlWrite s n .apeno v)
    | .smbus =>
      if n ≠ 15 then .refused (.noSuchUnit "mailbox over SMBus")
      else .next (if soundpostRuns s then mbxCtlWrite s n .smbus v else s)

def execMbxGo (n : Nat) (src : Side) (s : State) : Out := mbxCtlCmd (.mbxGo n src) n src 1 s
def execMbxAck (n : Nat) (src : Side) (s : State) : Out := mbxCtlCmd (.mbxAck n src) n src 2 s

end Sys2Proof.Machine
end

