-- ==== Sys2Proof/Machine/MatrixInstr.lean ====
section
/-! DEFINITION. The matrix instructions: streams, the A latch, products and the accumulator instructions (05 R146 to R150;
03 R70, R84, R91, R92). -/
namespace Sys2Proof.Machine

/-- A stream number from FN; 4 and above are illegal (05 R146). -/
def streamNo (n : Nat) : Option Nat := if n < 4 then some n else none

/-- The faults of a stream descriptor (05 R146). -/
def streamDescFaults (d : List Byte) : List Nat :=
  let base := fieldLE d 0 2
  let len := fieldLE d 2 2
  let koff := fieldLE d 8 4
  (if base % 64 = 0 then [] else [0x04]) ++
  (if base + len ≤ 0xC000 then [] else [0x05]) ++
  (if len = 0 then [0x07] else []) ++
  (match tyOfCode (fieldLE d 4 1) with
   | none => [0x07]
   | some ty =>
     if (classOfTy ty).isNone || decide (blockLen ty ≠ 0 ∧ koff % blockLen ty ≠ 0) ||
       (ty = .eb4 && !eb4ScaleOk (fieldLE d 12 4)) then [0x07] else [])

/-- The stream a descriptor loads: position, line latches and scale position start afresh (05 R146). -/
def streamOfDesc (old : Stream) (d : List Byte) : Stream :=
  { old with
    loaded := true, base := fieldLE d 0 2, len := fieldLE d 2 2, ty := (tyOfCode (fieldLE d 4 1)).getD .fp64
    koff := fieldLE d 8 4, t := fieldLE d 12 4, pos := 0, scalePos := 0, lines := [] }

/-- MSET (05 R146). -/
def planMset (c : Nat) (f : FmtI) (_ : State) (k : Core) : Plan :=
  match sReg f.ra, streamNo f.fn.toNat with
  | some ra, some m =>
    let a := formAddr k ra f.imm
    let d := memRead k.ls a 32
    .reading [regWords [f.ra.toNat], lsWords a 32]
      { onCore c nLSP (fun _ x => setStream x m (streamOfDesc (stream x m) d))
          (lsFaults a 32 32 ++ ungated k a 32 ++ streamDescFaults d) with clash := k.sparseOut }
  | _, _ => Plan.bad

def execMset (c : Nat) (p : Pred) (f : FmtI) (s : State) : Out := issue c p (residue 3 (planMset c f)) s

/-- MSCALE: fills the stream's scale buffer; it does not load the stream (05 R146, R147). -/
def planMscale (c : Nat) (f : FmtR) (_ : State) (k : Core) : Plan :=
  match vReg f.ra, streamNo f.fn.toNat with
  | some a, some m =>
    .reading [regWords [f.ra.toNat]]
      (onCore c (nVIU 1) (fun _ x => setStream x m { stream x m with scales := vGet k a, scalePos := 0 }))
  | _, _ => Plan.bad

def execMscale (c : Nat) (p : Pred) (f : FmtR) (s : State) : Out := issue c p (planMscale c f) s

/-- What taking `count` elements of a stream gives, and the faults it meets: FORMAT_DESC from an unloaded or exhausted
stream, LANDING_UNGATED on a line read from an ungated buffer (01 R23, 05 R146 to R148; the latter DEDUCED, log 25). -/
def takeOf (k : Core) (m count : Nat) : Option (List (Nat × Nat) × Stream × Bool) × List Nat :=
  let st := stream k m
  match if st.loaded then streamTake k st count else none with
  | none => (none, [0x07])
  | some (els, st', reads) =>
    (some (els, st', reads), (freshLines st count).flatMap (fun l => ungated k (64 * l) 64))

/-- MALDA: the next latch unit of a stream to the A latch (05 R148). -/
def planMalda (c : Nat) (f : FmtI) (_ : State) (k : Core) : Plan :=
  match streamNo f.fn.toNat with
  | none => Plan.bad
  | some m =>
    let st := stream k m
    let cls := (classOfTy st.ty).getD .f64
    let (r, bad) := takeOf k m (latchElems cls)
    .reading [streamWords st (latchElems cls)]
      { onCore c nLSP
          (fun _ x => match r with
            | some (els, st', _) => { setStream x m st' with aLatch := some ⟨st.ty, els, st.t⟩ }
            | none => x) bad with clash := k.sparseOut }

def execMalda (c : Nat) (p : Pred) (f : FmtI) (s : State) : Out := issue c p (planMalda c f) s

/-- The matrix resource of a class (04 R98). -/
def mxRes : MClass → Res
  | .f64 => .fpd | .f32 => .fpd | _ => .mxt

/-- The accumulator tiles as a resource: held by a sequencer, and named by every other instruction that touches them
(05 R155). -/
def nACC : List Need := [⟨.acc, 0, 1⟩]

/-- MODE of format M (05 R138, 03 R83). -/
def mmaMode (m : Nat) : Option AccMode := match m with | 0 => some .direct | 1 => some .plucked | _ => none

/-- What an MMA initialises an entry with: S and the spill word latched from CORE_MXCTL (03 R84). -/
def mmaCtx (k : Core) (idx : Nat) (fmt : AccFmt) (mode : AccMode) : AccCtx :=
  ⟨true, fmt, mode, k.mxctl.toNat % 4096 + 1, bitsOf k.mxctl.toNat 20 16 * 2048 + idx * 8⟩

/-- Whether an MMA with INIT = 0 may append to an entry (05 R149): its mode and format must be those the entry was
initialised with. An entry never initialised holds no accumulation to differ from; it goes on in direct mode whatever MODE
says, since only INIT = 1 enters plucked mode (03 R84; DESIGN CHOICE, log 68). -/
def mmaAppends (e : AccEntry) (fmt : AccFmt) (mode : AccMode) : Bool :=
  !e.ctx.live || decide (e.ctx.mode = mode ∧ e.ctx.fmt = fmt)

/-- The checks of an MMA on its fields and the latch: the class, format, mode and A type it runs with (03 R70, R84; 05
R149). -/
def mmaForm (k : Core) (f : FmtM) : Option (MClass × AccFmt × AccMode × ALatch) :=
  match tyOf f.tya, tyOf f.tyb, accOfCode f.af.toNat, mmaMode f.mode.toNat, k.aLatch with
  | some ta, some tb, some fmt, some mode, some la =>
    match classOfTy ta with
    | none => none
    | some cls =>
      let l := lanesOfClass cls
      let idx := 64 * f.acc.toNat + f.ent.toNat
      if classOfTy tb = some cls ∧ accAllowed cls fmt ∧ f.ent.toNat + l ≤ 64 ∧
          f.esel.toNat < latchElems cls / laneElems cls ∧ la.ty = ta ∧
          (mode = .plucked → fmt = .fp32) ∧
          (if f.init then mode = .plucked → bitsOf k.mxctl.toNat 20 16 < 24
           else ∀ j ∈ List.range l, mmaAppends (accGet k (idx + j)) fmt mode = true)
      then some (cls, fmt, mode, la) else none
  | _, _, _, _, _ => none

/-- MMA: one B step against the selected A group, appended to the class's lanes (05 R149). -/
def planMma (c : Nat) (f : FmtM) (_ : State) (k : Core) : Plan :=
  match mmaForm k f with
  | none => Plan.bad
  | some (cls, fmt, mode, la) =>
    let m := f.msb.toNat
    let st := stream k m
    let g := laneElems cls
    let idx := 64 * f.acc.toNat + f.ent.toNat
    let ents := (List.range (lanesOfClass cls)).map (· + idx)
    let (r, bad) := takeOf k m (stepElems cls)
    let reads := match r with | some (_, _, b) => b | none => false
    let adopt := fun (x : Core) i =>
      let e := accGet x i
      if e.ctx.live then x else accSet x i { e with ctx := ⟨true, fmt, .direct, 0, 0⟩, sumFmt := fmt }
    { onCore c (⟨mxRes cls, 0, 1⟩ :: nACC ++ (if reads then nLSP else []))
        (fun n x => match r with
          | none => x
          | some (els, st', _) =>
            let x := setStream x m st'
            let x := if f.init then ents.foldl (fun x i => initEntry x n i (mmaCtx x i fmt mode)) x
              else ents.foldl adopt x
            mmaStep x n idx cls f.sr (opndsOf la.ty fmt la.t (sliceOf la.elems (f.esel.toNat * g) g))
              (opndsOf st.ty fmt st.t els)) bad with
      illegal := st.loaded && decide (tyOf f.tyb ≠ some st.ty)
      reads := [streamWords st (stepElems cls)]
      clash := k.sparseOut && reads }

def execMma (c : Nat) (p : Pred) (f : FmtM) (s : State) : Out := issue c p (planMma c f) s

/-- ACCINIT: every entry of the tile or tiles, and their drain latches (05 R150). -/
def planAccinit (c : Nat) (f : FmtA) (s : State) (_ : Core) : Plan :=
  match accOfCode f.af.toNat with
  | some fmt =>
    if 4 < f.acc.toNat then Plan.bad
    else
      let es := tileEntries f.acc.toNat
      onCore c (nVIU 1 ++ nACC) (fun n x =>
        addMx (es.foldl (fun x i => loadEntry x n i fmt 0) (discardNow (srKey s c) n x es)) (n + 2) (es.map (fun i => .clearLatch i fmt)))
  | none => Plan.bad

def execAccinit (c : Nat) (p : Pred) (f : FmtA) (s : State) : Out := issue c p (planAccinit c f) s

/-- Whether TY is the lane type AF names (05 R150). -/
def laneTyOf (fmt : AccFmt) (b : BitVec 5) : Bool := decide (tyOf b = some (tyOfAcc fmt))

/-- ACCLD: the lanes of RV to entries ENT upward, in direct mode (05 R150). -/
def planAccld (c : Nat) (f : FmtA) (s : State) (k : Core) : Plan :=
  match accOfCode f.af.toNat, vReg f.rv with
  | some fmt, some v =>
    let w := tyWidth (tyOfAcc fmt)
    let n := 512 / w
    if 4 ≤ f.acc.toNat ∨ laneTyOf fmt f.ty = false ∨ 64 < f.ent.toNat + n then Plan.bad
    else
      let idx := 64 * f.acc.toNat + f.ent.toNat
      .reading [regWords [f.rv.toNat]] (onCore c (nVIU 1 ++ nACC) (fun t x =>
        (List.range n).foldl (fun x j => loadEntry x t (idx + j) fmt (BitVec.ofNat 64 (laneOf w (vGet k v) j)))
          (discardNow (srKey s c) t x ((List.range n).map (· + idx)))))
  | _, _ => Plan.bad

def execAccld (c : Nat) (p : Pred) (f : FmtA) (s : State) : Out := issue c p (planAccld c f) s

/-- DRAIN of a tile, or of all four (03 R91, 05 R150). -/
def planDrain (c : Nat) (f : FmtA) (_ : State) (_ : Core) : Plan :=
  if 4 < f.acc.toNat then Plan.bad else onCore c nACC (fun n x => drainTiles x n f.acc.toNat)

def execDrain (c : Nat) (p : Pred) (f : FmtA) (s : State) : Out := issue c p (planDrain c f) s

/-- ACCRD: entries or their latched values to the lanes of RV, converted to TY with roundTiesToEven (03 R92). -/
def planAccrd (c : Nat) (f : FmtA) (_ : State) (k : Core) : Plan :=
  match tyOf f.ty, vReg f.rv with
  | some ty, some v =>
    let w := tyWidth ty
    let n := 512 / w
    if 4 ≤ f.acc.toNat ∨ ¬ (ty = .fp64 ∨ ty = .fp32 ∨ ty = .int32) ∨ 64 < f.ent.toNat + n then Plan.bad
    else
      let idx := 64 * f.acc.toNat + f.ent.toNat
      let one := fun i =>
        let (fmt, val) := if f.latch then ((latchGet k i).fmt, (latchGet k i).val)
          else ((accGet k i).sumFmt, (accGet k i).sum)
        (cvtTy (tyOfAcc fmt) ty .ne false val.toNat).getD (0, 0)
      let rs := (List.range n).map (fun j => one (idx + j))
      .reading [regWords ((List.range n).map (fun j => (if f.latch then 320 else 64) + idx + j))] (onCore c (nVIU 1 ++ nACC) (fun t x =>
        addWb (raiseFp x (orFlags (rs.map (·.2)))) (t + 3) (.v v) (packNat w (rs.map (·.1)))))
  | _, _ => Plan.bad

def execAccrd (c : Nat) (p : Pred) (f : FmtA) (s : State) : Out := issue c p (planAccrd c f) s

end Sys2Proof.Machine
end

