-- ==== Sys2Proof/Machine/Fused.lean ====
section
/-! DEFINITION. The fused collective instructions MM.AG, MM.RS, ACC.AR, XCH.V and GTH.V (05 R154, R155; 11 R286, R288,
R298). -/
namespace Sys2Proof.Machine

/-- The collective descriptor (05 R154). -/
structure CollDesc where
  kind : Nat
  init : Bool
  drain : Bool
  exact : Bool
  sr : Bool
  af : Nat
  rlb : Nat
  nlb : Nat
  tya : Nat
  tyb : Nat
  wire : Nat
  rop : Nat
  n : Nat
  msa : Nat
  msb : Nat
  kp : Nat
  srcacc : Nat
  root : Nat
  e0 : Nat
  slsa : Nat
  slen : Nat
deriving DecidableEq, Repr

/-- The descriptor 64 bytes spell. -/
def collDescOf (d : List Byte) : CollDesc :=
  let fl := fieldLE d 1 1
  { kind := fieldLE d 0 1, init := bitAt fl 0, drain := bitAt fl 1, exact := bitAt fl 2, sr := bitAt fl 3, af := bitsOf fl 5 4
    rlb := fieldLE d 2 1, nlb := fieldLE d 3 1, tya := fieldLE d 4 1, tyb := fieldLE d 5 1, wire := fieldLE d 6 1
    rop := fieldLE d 7 1, n := fieldLE d 8 2, msa := fieldLE d 10 1, msb := fieldLE d 11 1, kp := fieldLE d 12 4
    srcacc := fieldLE d 16 1, root := fieldLE d 17 1, e0 := fieldLE d 18 2, slsa := fieldLE d 20 2, slen := fieldLE d 22 2 }

/-- What every fused instruction takes from its issue: the descriptor, the course with the module's rank, the ordinal on the
course (05 R154, 11 R286). -/
structure CollAt where
  ct : Nat
  d : CollDesc
  e : Course
  r : Nat
  seq : Nat

/-- WIRE as a type a reduction may carry, and its size (05 R154). -/
def wireOk (w : Nat) : Bool := w = 0 || w = 1 || w = 2 || w = 3 || w = 6

/-- The limits the descriptor table sets on the fields every fused instruction has: RLB, WIRE, ROP, N and the streams (05
R154). -/
def limitsOk (d : CollDesc) : Bool :=
  decide (d.rlb < 16 ∨ d.rlb = 0xFF) && wireOk d.wire && decide (d.rop ≤ 6 ∧ d.n ≤ 256 ∧ d.msa < 4 ∧ d.msb < 4)

/-- The limits of ROP and EXACT by WIRE, in a reduction (05 R155). -/
def ropOk (d : CollDesc) : Bool :=
  (decide (d.rop < 4) || d.wire = 6) && (!d.exact || (d.rop = 0 && (d.wire = 1 || d.wire = 2 || d.wire = 3)))

/-- COLL_DESC where a check fails (05 R154). -/
def collFaults (ok : Bool) : List Nat := if ok then [] else [0x13]

/-- Whether buffer `b` is armed with LEN `n` (05 R154). -/
def armedLen (k : Core) (b n : Nat) : Bool := decide (b < 16) && (lbGet k b).armed && (lbGet k b).len = n

/-- The checks every fused instruction makes, and those of its own `own`, each with its code (05 R154, R157; 11 R286). -/
def fusedFaults (k : Core) (a kind : Nat) (e : Option (Course × Nat)) (seq : Nat) (own : Option (Course × Nat) → List Nat) :
    List Nat :=
  let bad := lsFaults a 64 64
  if bad.isEmpty then
    let d := collDescOf (memRead k.ls a 64)
    ungated k a 64 ++ collFaults (d.kind = kind && decide (seq < 16384) && limitsOk d) ++ own e ++
      (if e.isNone then [0x14] else [])
  else bad

/-- The course of a fused instruction and the module's rank in it (05 R154; 11 R282 to R284). -/
def fusedCourse (s : State) (c ct : Nat) : Option (Course × Nat) :=
  match course? s (tileOf c) ct with
  | some e => (rankOf e (selfAt s (tileOf c))).map (fun r => (e, r))
  | none => none

/-- An instance begins at a core: its ordinal is used up, it is known to the tile agent, and what partners' frames have shown
is compared with it (11 R286, R288). -/
def beginColl (c : Nat) (p : CollPost) (s : State) : State :=
  let s := modCore s c (fun k => { k with collOrd := smSet 0 k.collOrd p.ct (p.seq + 1), fused := k.fused ++ [p] })
  checkArrived s c p

/-- A post: outbox entry, hold request, protected ranges (04 R119, R124; 05 R155). -/
def postColl (c pc : Nat) (p : CollPost) (s : State) : State :=
  let n := s.plane.cyc
  modCore s c (fun k =>
    p.ranges.foldl (fun k x => protect k n x.1 x.2) (postOutbox (outboxGate k n pc) n (.coll p)))

/-- A fused instruction that reads no words at issue but its descriptor's. -/
def noWords (_ : Core) (_ : CollDesc) (_ : Nat) : List (Nat × List Nat) := []

/-- The plan of a fused instruction: `own` its checks, `needs` its resources, `eff` its effect, `reads` the words it reads beside its
descriptor. -/
def planFused (c : Nat) (f : FmtX) (kind : Nat) (own : Core → CollDesc → Option (Course × Nat) → List Nat)
    (needs : Core → CollDesc → Nat → List Need) (eff : Nat → CollAt → State → State) (reads : Core → CollDesc → Nat → List (Nat × List Nat)) (s : State) (k : Core) : Plan :=
  match sReg f.ra with
  | none => Plan.bad
  | some ra =>
    let a := formAddr k ra f.imm
    let d := collDescOf (memRead k.ls a 64)
    let ct := f.ct.toNat
    let seq := smGet 0 k.collOrd ct
    let e := fusedCourse s c ct
    { reads := regWords [f.ra.toNat] :: lsWords a 64 :: reads k d ((e.map (fun x => x.1.p)).getD 0)
      checks := 3
      needs := nLSP ++ needs k d ((e.map (fun x => x.1.p)).getD 0)
      clash := k.sparseOut
      faults := fusedFaults k a kind e seq (own k d)
      eff := fun s => match e with
        | some (e, r) => eff k.pc ⟨ct, d, e, r, seq⟩ s
        | none => s }

/-- The fields of a post. -/
def postFields (x : CollAt) (kind : Nat) : CollPost :=
  { kind := kind, ct := x.ct, seq := x.seq, rlb := x.d.rlb, nlb := if kind = 1 then x.d.nlb else 0, tyb := x.d.tyb
    wire := x.d.wire, rop := x.d.rop, exact := x.d.exact, n := x.d.n, kp := x.d.kp, root := if kind = 5 then x.d.root else 0
    vals := [], ranges := [] }

-- Products ----------------------------------------------------------------------------------------------------------

/-- The classes and formats of a fused product (03 R69, R70; 05 R155). -/
def fusedForm (d : CollDesc) : Option (Ty × Ty × MClass × AccFmt) :=
  match tyOfCode d.tya, tyOfCode d.tyb, accOfCode d.af with
  | some ta, some tb, some fmt =>
    match classOfTy ta with
    | some cl => if classOfTy tb = some cl ∧ accAllowed cl fmt = true then some (ta, tb, cl, fmt) else none
    | none => none
  | _, _, _ => none

/-- PB: bytes of a piece (05 R155). -/
def pieceBytes (d : CollDesc) (tb : Ty) : Nat := d.kp * d.n * elemBits tb / 8

/-- What a fused product meets in a stream it reads: FORMAT_DESC from an unloaded one, COLL_DESC from one of another type (05 R146,
R155). -/
def streamFaults (k : Core) (m : Nat) (ty : Ty) : List Nat :=
  if m < 4 then
    if (stream k m).loaded then collFaults (decide ((stream k m).ty = ty)) else [0x07]
  else []

/-- The types of a fused product (02 R33, 03 R70, 05 R137, R154): a code that names no type, or no accumulator format, is a field
outside its limits; a type the matrix unit does not accept, a mix of classes, or a format the class does not allow is an illegal
instruction. -/
def formFaults (d : CollDesc) : List Nat :=
  match tyOfCode d.tya, tyOfCode d.tyb with
  | some ta, some tb =>
    match classOfTy ta, accOfCode d.af with
    | some cl, some fmt => if classOfTy tb = some cl ∧ accAllowed cl fmt = true then [] else [0x01]
    | some cl, none => (if classOfTy tb = some cl then [] else [0x01]) ++ [0x13]
    | none, _ => [0x01]
  | _, _ => [0x13]

/-- The type, geometry and stream checks of a fused product (05 R155): stream MSA is read when KP is not 0, stream MSB when there
are elements of B. -/
def productFaults (k : Core) (d : CollDesc) (gather : Bool) : List Nat :=
  formFaults d ++
  match fusedForm d with
  | none => []
  | some (ta, tb, cl, _) =>
    let readsB := decide (d.kp * d.n ≠ 0)
    collFaults (decide (d.n % lanesOfClass cl = 0 ∧ d.kp % groupSize cl = 0) && (decide (blockLen ta ≠ 32) || decide (d.kp % 32 = 0)) &&
      (!gather || (blockLen tb = 0 && (!readsB || (stream k d.msb).len = pieceBytes d tb)))) ++
    (if d.kp = 0 then [] else streamFaults k d.msa ta) ++ (if readsB then streamFaults k d.msb tb else [])

/-- Cycles of a fused product with `pieces` pieces (05 R155). -/
def productLen (d : CollDesc) (cl : MClass) (pieces : Nat) : Nat :=
  pieces * (d.kp / groupSize cl * (1 + d.n / lanesOfClass cl * seqC cl))

/-- The resources of a product that starts `off` cycles after its issue (05 R155). -/
def productNeeds (d : CollDesc) (pieces off : Nat) (drains : Bool) : List Need :=
  match fusedForm d with
  | none => []
  | some (_, _, cl, _) =>
    let n := productLen d cl pieces
    [⟨.lsp, off, n⟩, ⟨mxRes cl, off, n⟩, ⟨.acc, 0, off + n + (if drains then 6 else 0)⟩]

/-- The entries a product begins with: initialised, or as they stand, in the product's mode unless plucked (03 R83, R85; 05
R149; DEDUCED, log 41). -/
def enterProduct (k : Core) (n : Nat) (d : CollDesc) (fmt : AccFmt) (mode : AccMode) : Core :=
  (List.range d.n).foldl (fun k i =>
    let x := accGet k i
    if d.init then initEntry k n i ⟨true, fmt, mode, 0, 0⟩
    else if !x.ctx.live then accSet k i { x with ctx := ⟨true, fmt, mode, 0, 0⟩, sumFmt := fmt }
    else if x.ctx.mode = .plucked then k
    else let y := { x.ctx with mode := mode }; accSet k i { x with ctx := y }) k

/-- Starts the sequencer (05 R155). -/
def startSeq (c pc : Nat) (x : CollAt) (off : Nat) (mode : AccMode) (drains : Bool) (pieces : List (Option Nat))
    (gates : List (Nat × Nat)) (post : Option CollPost) (s : State) : State :=
  match fusedForm x.d with
  | none => s
  | some (ta, tb, cl, fmt) =>
    let n := s.plane.cyc
    let q : Seq :=
      { start := n + off, next := 0, pc := pc, n := x.d.n, kp := x.d.kp, tya := ta, tyb := tb, cls := cl, fmt := fmt
        mode := mode, sr := x.d.sr, drain := drains, msa := x.d.msa, msb := x.d.msb, pieces := pieces
        gates := gates.filter (fun g => n < g.1), aGroup := [], post := post }
    modCore s c (fun k =>
      let k := enterProduct k n x.d fmt mode
      let k := (gates.filter (fun g => g.1 = n)).foldl (fun k g => addGate k n pc (.seqBuf g.2)) k
      { k with seq := some q })

-- MM.AG -------------------------------------------------------------------------------------------------------------

/-- Remote ranks of receive buffer number `b` (05 R155). -/
def remoteRanks (p nlb r b : Nat) : List Nat :=
  let q := ceilDiv p (max 1 nlb)
  (List.range p).filter (fun j => b * q ≤ j && j < (b + 1) * q && j != r)

/-- The checks of MM.AG: the product, NLB, and with the course its receive buffers (05 R154, R155). -/
def ownMmAg (k : Core) (d : CollDesc) (e : Option (Course × Nat)) : List Nat :=
  productFaults k d true ++ collFaults (decide (d.rlb ≤ 15 ∧ 1 ≤ d.nlb ∧ d.nlb ≤ 16 - d.rlb)) ++
  match fusedForm d, e with
  | some (_, tb, _, _), some (e, r) =>
    collFaults ((List.range d.nlb).all (fun b => armedLen k (d.rlb + b) (pieceBytes d tb * (remoteRanks e.p d.nlb r b).length)))
  | _, _ => []

/-- Where the pieces of B stand in local store, by rank (05 R155). -/
def pieceBases (k : Core) (d : CollDesc) (e : Course) (r pb : Nat) : List (Option Nat) :=
  (List.range e.p).map (fun j =>
    if j = r then some (stream k d.msb).base
    else let x := pieceSlot e.p r d.rlb d.nlb pb j; some ((lbGet k x.1).base + x.2))

/-- The implicit gates: the cycle of each test, 40 before the first use of the buffer (05 R155); a product of no cycles uses
none. -/
def pieceGates (x : CollAt) (cl : MClass) (n : Nat) : List (Nat × Nat) :=
  let len := productLen x.d cl 1
  if len = 0 then []
  else (List.range x.d.nlb).filterMap (fun b =>
    (remoteRanks x.e.p x.d.nlb x.r b).head?.map (fun j => (n + j * len, x.d.rlb + b)))

def effMmAg (c pc : Nat) (x : CollAt) (s : State) : State :=
  match fusedForm x.d with
  | none => s
  | some (_, tb, cl, _) =>
    let pb := pieceBytes x.d tb
    let k := coreOf s c
    let post := { postFields x 1 with ranges := [((stream k x.d.msb).base, pb)] }
    let s := startSeq c pc x 40 .bowed x.d.drain (pieceBases k x.d x.e x.r pb) (pieceGates x cl s.plane.cyc) none s
    beginColl c post (postColl c pc post s)

/-- MM.AG (05 R155). -/
def planMmAg (c : Nat) (f : FmtX) : State → Core → Plan :=
  planFused c f 1 ownMmAg (fun _ d p => ⟨.obp, 0, 8⟩ :: productNeeds d p 40 d.drain) (effMmAg c) noWords

def execMmAg (c : Nat) (p : Pred) (f : FmtX) (s : State) : Out := issue c p (planMmAg c f) s

-- MM.RS -------------------------------------------------------------------------------------------------------------

/-- The checks of MM.RS (05 R154, R155). -/
def ownMmRs (k : Core) (d : CollDesc) (e : Option (Course × Nat)) : List Nat :=
  productFaults k d false ++ collFaults (ropOk d) ++
  match e with
  | some (e, _) =>
    let bytes := d.n / max 1 e.p * wireSize d.wire
    collFaults (decide (d.n % max 1 e.p = 0 ∧ bytes % 8 = 0) && armedLen k d.rlb bytes)
  | none => []

def effMmRs (c pc : Nat) (x : CollAt) (s : State) : State :=
  let post := postFields x 2
  beginColl c post (startSeq c pc x 1 .direct true [none] [] (some post) s)

/-- MM.RS; its post occupies OBP from s + C + 6 (05 R155). -/
def planMmRs (c : Nat) (f : FmtX) : State → Core → Plan :=
  planFused c f 2 ownMmRs
    (fun _ d _ =>
      let n := (productNeeds d 1 1 true)
      n ++ (match fusedForm d with | some (_, _, cl, _) => [⟨.obp, productLen d cl 1 + 7, 8⟩] | none => []))
    (effMmRs c) noWords

def execMmRs (c : Nat) (p : Pred) (f : FmtX) (s : State) : Out := issue c p (planMmRs c f) s

-- ACC.AR ------------------------------------------------------------------------------------------------------------

/-- The checks of ACC.AR (05 R154, R155). -/
def ownAccAr (k : Core) (d : CollDesc) (_ : Option (Course × Nat)) : List Nat :=
  collFaults (ropOk d && decide (d.srcacc ≤ 4 ∧ d.e0 + d.n ≤ (if d.srcacc = 4 then 256 else 64)) &&
    decide (d.n * wireSize d.wire % 8 = 0) && armedLen k d.rlb (d.n * wireSize d.wire))

def effAccAr (c pc : Nat) (x : CollAt) (s : State) : State :=
  let e0 := if x.d.srcacc = 4 then x.d.e0 else 64 * x.d.srcacc + x.d.e0
  let (bs, fl) := wireBytes (coreOf s c) ((tyOfCode x.d.wire).getD .fp32) e0 x.d.n
  let post := { postFields x 3 with vals := bs }
  beginColl c post (postColl c pc post (modCore s c (fun k => raiseFp k fl)))

/-- ACC.AR (05 R155). -/
def planAccAr (c : Nat) (f : FmtX) : State → Core → Plan :=
  planFused c f 3 ownAccAr (fun _ _ _ => ⟨.obp, 0, 8⟩ :: nACC) (effAccAr c)
    (fun _ d _ => [regWords ((List.range d.n).map (· + 320 + (if d.srcacc = 4 then d.e0 else 64 * d.srcacc + d.e0)))])

def execAccAr (c : Nat) (p : Pred) (f : FmtX) (s : State) : Out := issue c p (planAccAr c f) s

-- XCH.V and GTH.V ---------------------------------------------------------------------------------------------------

/-- The send table: address and count for each rank (05 R155). -/
def sendTable (k : Core) (a p : Nat) : List (Nat × Nat) :=
  (List.range p).map (fun r => (memNat k.ls (a + 8 * r) 2, memNat k.ls (a + 8 * r + 2) 2))

/-- A range of local store that may be sent. -/
def sendable (x : Nat × Nat) : Bool := decide (x.2 % 8 = 0 ∧ x.1 + x.2 ≤ 0xC000)

/-- The receive buffer of an exchange completes by its counts, however many have landed (05 R155). -/
def byCounts (s : State) (c b : Nat) : State :=
  if (lbGet (coreOf s c) b).rule = .plain then setRule s c b (.counted none) else s

/-- The checks of XCH.V: its buffer, and with the course its send table (05 R154, R155). -/
def ownXchV (k : Core) (d : CollDesc) (e : Option (Course × Nat)) : List Nat :=
  collFaults (d.slsa % 8 = 0 && decide (d.rlb < 16) && (lbGet k d.rlb).armed) ++
  match e with
  | some (e, _) => collFaults (decide (d.slsa + 8 * e.p ≤ 0xC000) && (sendTable k d.slsa e.p).all sendable)
  | none => []

def effXchV (c pc : Nat) (x : CollAt) (s : State) : State :=
  let post := { postFields x 4 with ranges := sendTable (coreOf s c) x.d.slsa x.e.p }
  beginColl c post (postColl c pc post (byCounts s c x.d.rlb))

/-- XCH.V; the table read takes LSP for a cycle per line from i + 1 (05 R155). -/
def planXchV (c : Nat) (f : FmtX) : State → Core → Plan :=
  planFused c f 4 ownXchV (fun _ _ p => [⟨.obp, 0, 8⟩, ⟨.lsp, 1, ceilDiv (8 * p) 64⟩]) (effXchV c)
    (fun _ d p => [lsWords d.slsa (8 * p)])

def execXchV (c : Nat) (p : Pred) (f : FmtX) (s : State) : Out := issue c p (planXchV c f) s

/-- The checks of GTH.V: its send data, and with the course ROOT and the root's buffer (05 R154, R155). -/
def ownGthV (k : Core) (d : CollDesc) (e : Option (Course × Nat)) : List Nat :=
  collFaults (d.slsa % 8 = 0 && sendable (d.slsa, d.slen)) ++
  match e with
  | some (e, r) =>
    collFaults (decide (d.root < e.p) && (if r = d.root then decide (d.rlb < 16) && (lbGet k d.rlb).armed else d.rlb = 0xFF))
  | none => []

def effGthV (c pc : Nat) (x : CollAt) (s : State) : State :=
  let post := { postFields x 5 with ranges := [(x.d.slsa, x.d.slen)] }
  beginColl c post (postColl c pc post (if x.r = x.d.root then byCounts s c x.d.rlb else s))

/-- GTH.V (05 R155). -/
def planGthV (c : Nat) (f : FmtX) : State → Core → Plan :=
  planFused c f 5 ownGthV (fun _ _ _ => [⟨.obp, 0, 8⟩]) (effGthV c) noWords

def execGthV (c : Nat) (p : Pred) (f : FmtX) (s : State) : Out := issue c p (planGthV c f) s

end Sys2Proof.Machine
end

