-- ==== Sys2Proof/Machine/MergeTree.lean ====
section
/-! DEFINITION. The merge tree of a tile (06 R177 to R180). -/
namespace Sys2Proof.Machine

/-- Fields of a merge descriptor (06 R177). -/
def mgVt (d : List Byte) : Nat := fieldLE d 1 1
def mgPcnt (d : List Byte) : Nat := fieldLE d 4 2

/-- What every contributor must give alike: VT, OP, DLB, PCNT and DCORE (06 R178). -/
def mgSame (d e : List Byte) : Bool := (d.drop 1).take 7 = (e.drop 1).take 7

/-- Bytes of a pair (06 R177). -/
def pairSize (vt : Nat) : Nat := if vt = 1 then 16 else 8

/-- The pairs of a contribution: key and value. -/
def pairsOf (vt : Nat) (bs : List Byte) : List (Nat × Nat) :=
  (chunks (pairSize vt) bs).map (fun p => (fieldLE p 0 4, if vt = 1 then fieldLE p 8 8 else fieldLE p 4 4))

/-- One combination of the tree; it sets no flag (06 R179). -/
def mergeOp (vt op a b : Nat) : Nat :=
  match vt with
  | 2 =>
    match op with
    | 0 => (a + b) % 2 ^ 32
    | 1 => if toSigned 32 b < toSigned 32 a then b else a
    | _ => if toSigned 32 a < toSigned 32 b then b else a
  | _ =>
    let f := if vt = 1 then fFP64 else fFP32
    match op with
    | 0 => (fpAdd f .ne a b).1
    | 1 => (fpMinMax f false a b).1
    | _ => (fpMinMax f true a b).1

/-- The first value of a key: a NaN is quieted (06 R179). -/
def mergeFirst (vt a : Nat) : Nat :=
  if vt = 2 then a
  else
    let f := if vt = 1 then fFP64 else fFP32
    match fpDecode f a with
    | .nan n fr _ => nanCode f n fr
    | _ => a

/-- Adds a pair to the output: the value under its key combined with what stands there (06 R179). -/
def mergePair (vt op : Nat) (m : SMap Nat) (p : Nat × Nat) : SMap Nat :=
  match m.find? (fun x => x.1 = p.1) with
  | some (_, v) => m.map (fun x => if x.1 = p.1 then (p.1, mergeOp vt op v p.2) else x)
  | none => smInsert p.1 (mergeFirst vt p.2) m

/-- Contributions in ascending order of source core, those of one source in the order they came (06 R179). -/
def insertPost (x : MergePost) : List MergePost → List MergePost
  | [] => [x]
  | y :: ys => if x.lc < y.lc then x :: y :: ys else y :: insertPost x ys

/-- The output pairs of a complete merge, ascending by key (06 R179). -/
def mergeOut (vt op : Nat) (got : List MergePost) : SMap Nat :=
  ((got.foldl (fun l x => insertPost x l) []).flatMap (fun x => pairsOf vt x.pairs)).foldl (mergePair vt op) []

/-- The bytes the tree writes (06 R180). -/
def mergeImage (vt : Nat) (m : SMap Nat) : List Byte :=
  bytesLE 8 m.length ++ m.flatMap (fun x => if vt = 1 then bytesLE 8 x.1 ++ bytesLE 8 x.2 else bytesLE 4 x.1 ++ bytesLE 4 x.2)

/-- The output lands in DCORE's buffer DLB (06 R180). -/
def mergeLand (s : State) (t : Nat) (d : List Byte) (m : SMap Nat) : State :=
  let c := t * 16384 + fieldLE d 6 2
  let b := fieldLE d 3 1
  let bs := mergeImage (mgVt d) m
  landAt (setRule s c b (.counted (some bs.length))) c b (lbGet (coreOf s c) b).base bs

/-- Whether a contribution would complete its merge while the destination is not armed: it waits (04 R120, R121). -/
def mergeWaits (s : State) (t : Nat) (x : MergePost) (got : Nat) : Bool :=
  mgPcnt x.desc ≤ got + 1 && !armed s (t * 16384 + fieldLE x.desc 6 2) (fieldLE x.desc 3 1)

/-- An upset of a merge tree changes its first value, and the residues are compared (17 R440, R441). -/
def mergeUpset (s : State) (t vt : Nat) (m : SMap Nat) : State × SMap Nat :=
  match takeUnitUpset s t with
  | (s, some u) => (unitCheck s t (if vt = 2 then 3 else 15) u, m.modify 0 (fun x => (x.1, x.2 ^^^ u.flip)))
  | (s, none) => (s, m)

/-- A contribution that the merge takes: the merge after it, landed if it is complete (06 R178 to R180). -/
def mergeTake (s : State) (t : Nat) (g : Merge) (x : MergePost) : State :=
  let g := { g with got := g.got ++ [x] }
  let full := mgPcnt g.first ≤ g.got.length
  let s := modTile s t (fun y =>
    { y with merges := y.merges.filter (fun h => h.mid ≠ g.mid) ++ [if full then { g with done := true, got := [] } else g] })
  if full then
    let (s, m) := mergeUpset s t (mgVt g.first) (mergeOut (mgVt g.first) (fieldLE g.first 2 1) g.got)
    mergeLand s t g.first m
  else s

/-- MERGE_CONTRIBUTION: the oldest contribution on its way reaches the tile's merge tree (06 R178). -/
def execMergeContribution (t : Nat) (s : State) : Out :=
  tileCmd t s (fun s =>
    match (tile s t).mergeQ with
    | [] => s
    | x :: rest =>
      let pop := fun (s : State) => modTile s t (fun y => { y with mergeQ := rest })
      match (tile s t).merges.find? (fun g => g.mid = fieldLE x.desc 0 1) with
      | none => if mergeWaits s t x 0 then s else mergeTake (pop s) t ⟨fieldLE x.desc 0 1, x.desc, [], false⟩ x
      | some g =>
        if g.done || !mgSame g.first x.desc then recordTile (pop s) t 0x18
        else if mergeWaits s t x g.got.length then s
        else mergeTake (pop s) t g x)

end Sys2Proof.Machine
end

