-- ==== Sys2Proof/Machine/Power.lean ====
section
/-! DEFINITION. The governor, the wear accounting and the power states (16 R414 to R424, R429 to R432). -/
namespace Sys2Proof.Machine

-- The governor ------------------------------------------------------------------------------------------------------

/-- PWR_GOVCFG as it acts: SUSTAIN, PEAK in watts, FLOOR, TLIM in degrees (16). -/
def govSustain (s : State) : Nat := 100 * max 60 (min 240 (regBits s (dcs SP 0x200000) 8 0))
def govPeak (s : State) : Nat := max (govSustain s) (100 * min 320 (regBits s (dcs SP 0x200000) 24 16))
def govFloor (s : State) : Nat := min 64 (regBits s (dcs SP 0x200000) 38 32)
def govTlim (s : State) : Nat := max 85 (min 105 (regBits s (dcs SP 0x200000) 47 40))

/-- 5,007 times A: the sum of P over the last 5,007 periods, those before the first measurement at its value (16 R417). -/
def sumA (hist : List Nat) (first : Nat) : Nat :=
  let l := hist.take 5007
  l.sum + (5007 - l.length) * first

/-- B: the periods among the last 20,028 whose P exceeded the sustained limit (16 R417); periods before the first
measurement are none (DEDUCED, log 51). -/
def countB (hist : List Nat) (sustain : Nat) : Nat := (hist.filter (fun p => decide (sustain < p))).length

/-- The test of a period as 16 R418 names it. -/
structure Verdict where
  isOver : Bool
  isUnder : Bool
  isHot : Bool
deriving DecidableEq, Repr

/-- The tests of 16 R418 on the values of a period; temperatures are in units of 0.125 °C. -/
def verdict (limit sustain tlim p a : Nat) (tl td : Int) : Verdict :=
  let hot := decide (8 * tlim ≤ tl ∨ 680 ≤ td)
  { isHot := hot
    isOver := decide (limit < p ∨ 5007 * sustain < a) || hot
    isUnder := decide (p + 1000 ≤ limit ∧ a + 5007 * 500 ≤ 5007 * sustain ∧ tl < 8 * (tlim - 3 : Int) ∧ td < 656) }

/-- The hold duty and under_run after a period (16 R418). -/
def nextDuty (v : Verdict) (floor d run : Nat) : Nat × Nat :=
  let (d, run) :=
    if v.isOver then (min 64 (d + 8), 0)
    else if v.isUnder then (if run + 1 = 16 then (max floor (d - 1), 0) else (d, run + 1))
    else (d, 0)
  (max d floor, run)

/-- The measurements of a period as the registers hold them (16); AVG5 is the mean rounded down (DEDUCED, log 51). -/
def recordMeasures (s : State) (m : Sensors) (a : Nat) : State :=
  let s := regPutNat s (dcs SP 0x200018) (m.power + (a / 5007) <<< 32) 2
  let s := regPutNat s (dcs SP 0x200020)
    (ofSigned 16 m.tLogic + m.logicDie <<< 16 + (ofSigned 16 m.tDram) <<< 24 + m.dramTile <<< 40) 2
  regPutNat s (dcs SP 0x200030) (m.volt + m.amp <<< 32) 2

/-- TIME95 after a period: every 1,002 periods at 95 °C or more make a second (16 R423). -/
def countTime95 (g : Governor) (hot : Bool) : Governor :=
  if !hot then g
  else if g.rest + 1 = 1002 then { g with rest := 0, time95 := g.time95 + 1 }
  else { g with rest := g.rest + 1 }

/-- The events of a period (16 R421, R423). -/
def governorEvents (s : State) (m : Sensors) (v : Verdict) (peakOut avgOver : Bool) : State :=
  let s := if decide (760 ≤ m.tLogic ∨ 640 ≤ m.tDram) then powerEvent s 0 else s
  let s := if v.isHot then powerEvent s 1 else s
  let s := if peakOut then powerEvent s 2 else s
  if avgOver then powerEvent s 3 else s

/-- The end of a governor period with its measurements (16 R417, R418, R421, R423). -/
def governorPeriod (s : State) (m : Sensors) : State :=
  let first := s.gov.first.getD m.power
  let hist := (m.power :: s.gov.hist).take 20028
  let a := sumA hist first
  let b := countB hist (govSustain s)
  let v := verdict (if b < 1987 then govPeak s else govSustain s) (govSustain s) (govTlim s) m.power a m.tLogic m.tDram
  let x := nextDuty v (govFloor s) (holdDuty s) s.gov.underRun
  let low := regBits s (dcs SP 0x200008) 12 12 = 1
  let avg := decide (5007 * govSustain s < a)
  let g := countTime95 { s.gov with hist := hist, first := some first, underRun := x.2 } (decide (760 ≤ m.tLogic))
  let s := { s with gov := g }
  let w := dcs SP 0x200008
  let s := regSetBits (regSetBits s w 10 4 x.1) w 12 12 (if 1987 ≤ b then 1 else 0)
  let s := regSetBits (regSetBits s w 13 13 (if v.isOver then 1 else 0)) w 14 14 (if v.isHot then 1 else 0)
  let s := regSetBits s w 27 16 (1987 - b)
  governorEvents (recordMeasures s m a) m v (1987 ≤ b && !low) avg

/-- The count at which the governor's period in progress ends (16 R417). -/
def periodEnd (s : State) : Nat :=
  let x := 2 ^ 20 * ceilDiv (max 1 s.count) (2 ^ 20)
  if s.gov.endAt = some x then x + 2 ^ 20 else x

/-- GOVERNOR_PERIOD: the period in progress ends, unless the counter stops before (16 R417). -/
def execGovernorPeriod (m : Sensors) (s : State) : Out :=
  if 2 ^ 32 ≤ m.power ∨ 2 ^ 32 ≤ m.volt ∨ 2 ^ 32 ≤ m.amp ∨ 104 ≤ m.logicDie ∨ 64 ≤ m.dramTile ∨
      m.tLogic < -32768 ∨ 32767 < m.tLogic ∨ m.tDram < -32768 ∨ 32767 < m.tDram then .fault (.illFormed "measurements")
  else .next (
    if !soundpostRuns s then s
    else
      let x := periodEnd s
      let s := passTo s x
      if s.muted then s
      else
        let g := { s.gov with endAt := some x }
        governorPeriod { s with gov := g } m)

/-- TIME95 and TRIPS go to the replay-protected area (16 R423). -/
def writeWear (s : State) : State :=
  let f := { s.flash with rpa := { s.flash.rpa with time95 := s.gov.time95, trips := s.gov.trips }.written }
  { s with flash := f }

/-- WEAR_LOG_WRITE: once every 600 s in A0 (16 R423; log 2). -/
def execWearLogWrite (s : State) : Out := .next (if soundpostRuns s && pwrState s = 0 then writeWear s else s)

-- The power block ---------------------------------------------------------------------------------------------------

/-- The 64-byte power and thermal block (16 R424). -/
def powerBlock (s : State) : List Byte :=
  let r := fun o n => bytesLE (4 * n) (regNat s (dcs SP o) n)
  r 0x200008 1 ++ r 0x200010 1 ++ r 0x200018 2 ++ r 0x200020 2 ++ r 0x200030 2 ++ r 0x200028 2 ++
    bytesLE 8 s.gov.time95 ++ bytesLE 4 s.gov.trips ++ List.replicate 12 0

/-- POWER with OP 0 (16 R432). -/
def execPowerQuery (n : Nat) (s : State) : Out := mbxCmd n 0x400 s (fun s => (s, ⟨stOK, 0, powerBlock s⟩))

-- Exits -------------------------------------------------------------------------------------------------------------

def setPwr (s : State) (x : Nat) : State := regSetBits s (dcs SP 0x200008) 2 0 x

/-- The hold duty is 0 after an exit (16 R418). -/
def zeroDuty (s : State) : State :=
  let g := { s.gov with underRun := 0 }
  regSetBits { s with gov := g } (dcs SP 0x200008) 10 4 0

/-- Exit from A1: core clocks restart (16 R429). -/
def exitA1 (s : State) : State := if pwrState s = 1 then zeroDuty (setPwr s 0) else s

/-- Tile registers return from the Soundpost's memory (16 R430). -/
def restoreTiles (s : State) : State :=
  { s with regs := s.a2Saved ++ s.regs.filter (fun e => decide (64 * 2 ^ 24 ≤ e.1)), a2Saved := [] }

/-- Exit from A2: the tiles' registers, then a Plane reset (16 R429, R430). -/
def exitA2 (s : State) : State :=
  let s := planeReset (restoreTiles (zeroDuty (setPwr s 0)))
  resetDone (bridgeDies.foldl spillInForce s) 6

/-- Exit from A3 up to its Device reset: slivers are zero (16 R431). -/
def exitA3 (s : State) : State := zeroDuty (setPwr { s with dram := [] } 0)

/-- A passage through A0 on the way to another state (16 R432). Out of A3 the Device reset is part of it (DEDUCED, log 52). -/
def throughA0 (s : State) : State :=
  match pwrState s with
  | 1 => exitA1 s
  | 2 => exitA2 s
  | 3 => deviceReset (exitA3 s) 3
  | _ => s

-- POWER SET ---------------------------------------------------------------------------------------------------------

def stPWR_RUN : Nat := 0x40

/-- The answer of a POWER command: the block after any transition (16 R432). -/
def powerAnswer (s : State) : State × Answer := (s, ⟨stOK, 0, powerBlock s⟩)

/-- POWER_SET_A0 (16 R429, R432): out of A3 the response is written first, and the Device reset starts at ACK or 10 ms later. -/
def execPowerSetA0 (n : Nat) (s : State) : Out :=
  mbxCmd n 0x401 s (fun s =>
    match pwrState s with
    | 3 => powerAnswer { exitA3 s with due := some (.a3Exit n) }
    | _ => powerAnswer (throughA0 s))

/-- POWER_SET_A1 (16 R429). -/
def execPowerSetA1 (n : Nat) (s : State) : Out :=
  mbxCmd n 0x402 s (fun s =>
    if pwrState s = 1 then powerAnswer s
    else if s.plane.run ≠ .idle ∧ s.plane.run ≠ .paused then (s, .st stPWR_RUN)
    else powerAnswer (setPwr (throughA0 s) 1))

/-- Entry to A2 begins: no Bridge takes frames to spill, and the tiles wait for spill to be empty (16 R430). -/
def beginA2 (s : State) (n : Nat) : State :=
  let s := throughA0 s
  let s := bridgeDies.foldl (fun s d => modBridge s d (fun b => { b with spillOn := false })) s
  { s with exec := { s.exec with draining := some n } }

/-- POWER_SET_A2: the answer waits for the tiles to be gated (16 R430, R432). -/
def execPowerSetA2 (n : Nat) (s : State) : Out :=
  if 16 ≤ n then .refused (.noSuchUnit "mailbox")
  else .next (
    if !mbxTaken s n 0x403 then s
    else if sharedStatus s n ≠ stOK then settleQueue 16 (respond s n (.st (sharedStatus s n)))
    else if pwrState s = 2 then settleQueue 16 (respond s n (powerAnswer s).2)
    else if s.plane.run ≠ .idle then settleQueue 16 (respond s n (.st stPWR_RUN))
    else beginA2 s n)

/-- No Bridge holds spilled frames or staging lines (16 R430). -/
def spillEmpty (s : State) : Bool := s.bridges.all (fun e => e.2.lines.isEmpty && e.2.eng.places.all (fun x => (placeLines x.2).isEmpty))

/-- What is kept of a tile agent without power: the policers in force, which a commit alone changes (09 R246, R249; 16 R430,
R434). -/
def gatedTile (t : Tile) : Tile := { Tile.reset with pol := t.pol }

/-- The tiles lose power after their registers are kept; host requests that wait find them absent (14 R364; 16 R430). -/
def gateTiles (s : State) : State :=
  let s := saveTiles (failHost s)
  let tiles := s.tiles.foldl (fun m e => smSet Tile.reset m e.1 (gatedTile e.2)) []
  setPwr { s with cores := [], tiles := tiles } 2

/-- A2_TILE_GATE: spill is empty, so the tiles are gated and the command is answered (16 R430). -/
def execA2TileGate (s : State) : Out :=
  .next (
    match s.exec.draining with
    | none => s
    | some n =>
      if !soundpostRuns s || !spillEmpty s then s
      else
        let s := gateTiles s
        settleQueue 16 (respond { s with exec := { s.exec with draining := none } } n (powerAnswer s).2))

/-- A die group without power holds nothing (16 R431, R433). -/
def darken (s : State) : State :=
  { s with regs := s.regs.filter (fun e => decide (100 * 2 ^ 24 ≤ e.1)), cores := [], tiles := [], bridges := [], image := none
           a2Saved := [], tokSent := [], tokGot := [], stepCodes := [] }

/-- Entry to A3: every link leaves UP, and only the edge dies keep power (16 R429, R431). -/
def enterA3 (s : State) : State :=
  let s := (bridgeDies.filter (fun d => linkState s d = lsUP)).foldl disableLink s
  setPwr (darken (failHost s)) 3

/-- POWER_SET_A3 (16 R429, R431). -/
def execPowerSetA3 (n : Nat) (s : State) : Out :=
  mbxCmd n 0x404 s (fun s =>
    if pwrState s = 3 then powerAnswer s
    else if s.plane.run ≠ .idle then (s, .st stPWR_RUN)
    else powerAnswer (enterA3 (throughA0 s)))

end Sys2Proof.Machine
end

