-- ==== Sys2Proof/Machine/Program.lean ====
section
/-! DEFINITION. The commands of the Soundpost that set tables, load programs and control runs (04 R127 to R132; 13 R349 to R352,
R360; 14 R383 to R388). -/
namespace Sys2Proof.Machine

-- Tables ------------------------------------------------------------------------------------------------------------

def stTOPOLOGY : Nat := 0x18
def stCOURSE : Nat := 0x19
def stREGION : Nat := 0x1A
def stPROG : Nat := 0x1B

/-- SET_TOPOLOGY: every register it names, the ring settings in force, and training on each link whose values changed (14
R383). -/
def setTopology (s : State) (p : List Byte) : State :=
  let old := regNat s ringCtl 1
  let s := ringFollows (writeTopology s p) old
  (bridgeDies.filter (dieLive s)).foldl (fun s d =>
    let r := writeLink s p d
    if r.2 then restartTraining r.1 d else r.1) s

def execSetTopology (n : Nat) (s : State) : Out :=
  mbxCmd n 0x100 s (fun s =>
    let p := reqBytes s n 0 992
    if topologyOk p then (setTopology s p, .st stOK) else (s, .st stTOPOLOGY))

/-- SET_COURSE_TABLE (14 R384). -/
def execSetCourseTable (n : Nat) (s : State) : Out :=
  mbxCmd n 0x110 s (fun s =>
    let first := reqPay s n 0 1
    let k := reqPay s n 1 1
    if k = 0 ∨ 64 < first + k then (s, .st stCOURSE)
    else
      let es := chunks 256 (reqBytes s n 8 (256 * k))
      match (List.range k).find? (fun i => !courseMay ((es[i]?).getD [])) with
      | some i => (s, ⟨stCOURSE, first + i, []⟩)
      | none => (writeCourses s first es, .st stOK))

/-- SET_REGION_TABLE (14 R384). -/
def execSetRegionTable (n : Nat) (s : State) : Out :=
  mbxCmd n 0x120 s (fun s =>
    let first := reqPay s n 0 2
    let k := reqPay s n 2 1
    if k = 0 ∨ 1024 < first + k then (s, .st stREGION)
    else (writeRegions s first (chunks 32 (reqBytes s n 8 (32 * k))), .st stOK))

-- Program images ----------------------------------------------------------------------------------------------------

def stFORMAT : Nat := 0x10
def stDIGEST : Nat := 0x11
def stMODULES : Nat := 0x12
def stSECTION : Nat := 0x13
def stHOST_READ : Nat := 0x14
def stMAP : Nat := 0x15

/-- A section entry of a program image (04 R128). -/
structure Sect where
  type : Nat
  rect : Nat × Nat × Nat × Nat
  dst : Nat
  src : Nat
  len : Nat
deriving DecidableEq, Repr

/-- Section entry `i` (04 R128). -/
def sectAt (img : List Byte) (i : Nat) : Sect :=
  let o := 0x40 + 32 * i
  ⟨fieldLE img o 2, (fieldLE img (o + 4) 2, fieldLE img (o + 6) 2, fieldLE img (o + 8) 2, fieldLE img (o + 10) 2),
    fieldLE img (o + 0xC) 4, fieldLE img (o + 0x10) 8, fieldLE img (o + 0x18) 4⟩

/-- MODULES and SECTIONS of an image header (04 R127). -/
def imgModules (img : List Byte) : Nat := fieldLE img 0x10 2
def imgSections (img : List Byte) : Nat := fieldLE img 0x12 2

/-- The section entries of an image. -/
def sects (img : List Byte) : List Sect := (List.range (imgSections img)).map (sectAt img)

/-- Whether an entry keeps R128 and R129 in an image of `len` bytes. -/
def sectOk (len : Nat) (x : Sect) : Bool :=
  let (x0, y0, x1, y1) := x.rect
  decide (x0 ≤ x1 ∧ x1 ≤ 1023 ∧ y0 ≤ y1 ∧ y1 ≤ 1023 ∧ x.src + x.len ≤ len) &&
    (match x.type with
      | 1 => decide (x.len % 8 = 0 ∧ x.dst + x.len / 8 ≤ 2048)
      | 2 => decide (x.dst + x.len ≤ 0xC000)
      | 3 => decide (x.dst % 64 = 0 ∧ x.len % 64 = 0 ∧ x.dst + x.len ≤ 0x600000)
      | _ => false)

/-- Writes a section into every core of its rectangle (04 R128, R130). -/
def writeSect (s : State) (img : List Byte) (x : Sect) : State :=
  let bs := (img.drop x.src).take x.len
  (rectCores x.rect).foldl (fun s c =>
    match x.type with
    | 1 => modCore s c (fun k => { k with is := memWrite k.is (8 * x.dst) bs })
    | 2 => modCore s c (fun k => { k with ls := memWrite k.ls x.dst bs })
    | _ => { s with dram := memWrite s.dram (dpaOf c x.dst) bs }) s

/-- The status of steps 3 to 5 of 04 R130 with its DETAIL; OK when the image passes. -/
def imageStatus (s : State) (img : List Byte) (len : Nat) : Nat × Nat :=
  if img.take 4 ≠ [0x4D, 0x51, 0x50, 0x49] ∨ fieldLE img 4 2 ≠ 1 ∨ fieldLE img 8 8 ≠ len ∨ imgSections img = 0 ∨
      len < 0x40 + 32 * imgSections img then (stFORMAT, 0)
  else if sha256 (img.drop 0x40) ≠ (img.drop 0x20).take 32 then (stDIGEST, 0)
  else if regBits s (dcs SP 0x110) 6 0 = 0 ∨ imgModules img ≠ regBits s (dcs SP 0x110) 6 0 then (stMODULES, 0)
  else match (List.range (imgSections img)).find? (fun i => !sectOk len (sectAt img i)) with
    | some i => (stSECTION, i)
    | none => (stOK, 0)

/-- The digest of the disabled-unit map (13 R360). -/
def mapDigest (s : State) : List Byte :=
  sha256 (tileDies.flatMap (fun t => (List.range 128).flatMap (fun r => bytesLE 4 (regWord s (dcs t (0x1000 + 4 * r))).toNat)))

/-- SP_FPRINTB and SP_FPRINTT (13 R360). -/
def writeFingerprints (s : State) (img : List Byte) (key0 key1 mod : Nat) : State :=
  let b := sha256 ((img.drop 0x20).take 32 ++ bytesLE 4 key0 ++ bytesLE 4 key1 ++ bytesLE 2 (imgModules img) ++ bytesLE 1 mod ++ [0])
  let t := sha256 (b ++ bytesLE 4 (regBits s (dcs SP 0x10) 63 32) ++ mapDigest s)
  regPutNat (regPutNat s (dcs SP 0x400) (natLE b) 8) (dcs SP 0x420) (natLE t) 8

/-- Seeds, module index and fault policy in every tile (04 R130, 14 R385). -/
def writeSeeds (s : State) (key0 key1 mod pol : Nat) : State :=
  tileDies.foldl (fun s t =>
    let s := regPut (regPut s (dcs t 0x800) (BitVec.ofNat 32 key0)) (dcs t 0x804) (BitVec.ofNat 32 key1)
    regPut (regPut s (dcs t 0x808) (BitVec.ofNat 32 (mod % 128))) (dcs t 0x820) (BitVec.ofNat 32 (pol % 2))) s

/-- Steps 6 to 8 of 04 R130, and what a load leaves in the Soundpost (13 R360, R361). -/
def placeImage (s : State) (n : Nat) (img : List Byte) : State :=
  let xs := sects img
  let s := xs.foldl (fun s x => writeSect s img x) s
  let i : Image := ⟨(xs.filter (fun x => x.type = 1)).map (·.rect), imgModules img⟩
  let s := writeSeeds { s with image := some i } (reqPay s n 16 4) (reqPay s n 20 4) (reqPay s n 24 1) (reqPay s n 25 1)
  let s := writeFingerprints s img (reqPay s n 16 4) (reqPay s n 20 4) (reqPay s n 24 1)
  regPut s (dcs SP 0x440) 0

/-- LOAD_PROGRAM past the shared checks (04 R130, 14 R385). -/
def loadProgram (s : State) (n : Nat) (img : Option (List Byte)) : State × Answer :=
  if reqPay s n 0 8 % 64 ≠ 0 then (s, .st stBAD_LEN)
  else match tileDies.find? (fun t => !tileMapOk s t) with
    | some t => (s, ⟨stMAP, t, []⟩)
    | none =>
      let s := resetDone (planeReset s) 5
      let s := emit s (.hostRead (reqPay s n 0 8) (reqPay s n 8 8))
      match img with
      | none => (s, .st stHOST_READ)
      | some bs =>
        let r := imageStatus s bs (reqPay s n 8 8)
        if r.1 ≠ stOK then (s, ⟨r.1, r.2, []⟩) else (placeImage s n bs, .st stOK)

/-- LOAD_PROGRAM with the LENGTH bytes the host answers; none where it fails a read (14 R385). -/
def execLoadProgram (n : Nat) (img : Option (List Byte)) (s : State) : Out :=
  if n < 16 && mbxTaken s n 0x200 && img.any (fun b => b.length ≠ reqPay s n 8 8) then .fault (.illFormed "image length")
  else mbxCmd n 0x200 s (fun s => loadProgram s n img)

-- Saddle programs ---------------------------------------------------------------------------------------------------

/-- The slot a request carries: header, constants, words up to NWORDS, then END words of zero (14 R386). -/
def reqSlot (s : State) (n : Nat) : Slot :=
  let w := fun o => reqPay s n o 8
  ⟨w 16, (List.range 4).map (fun k => w (24 + 8 * k)),
    (List.range 64).map (fun i => if i < reqPay s n 9 1 then w (56 + 8 * i) else 0)⟩

/-- Writes slot `i` of the engine of die `d`. -/
def writeSlot (s : State) (d i : Nat) (x : Slot) : State :=
  let put := fun (s : State) (a v : Nat) => writeWords s a (bytesLE 8 v)
  let s := put s (dcs d (0x101000 + 0x40 * i)) x.hdr
  let s := (x.con.zip (List.range 4)).foldl (fun s c => put s (dcs d (0x101008 + 0x40 * i + 8 * c.2)) c.1) s
  (x.words.zip (List.range 64)).foldl (fun s w => put s (dcs d (0x102000 + 0x200 * i + 8 * w.2)) w.1) s

/-- LOAD_SADDLE_PROGRAM (14 R386). -/
def execLoadSaddleProgram (n : Nat) (s : State) : Out :=
  mbxCmd n 0x210 s (fun s =>
    let i := reqPay s n 8 1
    let x := reqSlot s n
    if 15 < i || !slotOk x then (s, ⟨stPROG, i, []⟩)
    else
      let ds := (bridgeDies.filter (dieLive s)).filter (fun d => bitAt (reqPay s n 0 8) (d - 64))
      (ds.foldl (fun s d => writeSlot s d i x) s, .st stOK))

-- Runs --------------------------------------------------------------------------------------------------------------

def stNO_IMAGE : Nat := 0x20
def stALIGN : Nat := 0x21
def stLATE : Nat := 0x22
def stRING : Nat := 0x23
def stHOLDOVER : Nat := 0x24
def stNOT_PAUSED : Nat := 0x25
def stNOT_RUNNING : Nat := 0x26

/-- The refusals of a launch at count L, in order; OK when none applies (13 R349). -/
def launchStatus (s : State) (l : Nat) : Nat :=
  if s.plane.run ≠ .idle then stBUSY
  else if s.image.isNone || tileDies.any (fun t => !tileMapOk s t) then stNO_IMAGE
  else if l % 128 ≠ 0 then stALIGN
  else if l < s.count + 65536 then stLATE
  else if ringState s = 0 ∨ (ringState s = 3 ∧ s.image.any (fun i => i.modules ≠ 1)) then stRING
  else if ringState s = 2 ∧ regBits s (dcs TUN 0x14) 15 0 ≤ htime s then stHOLDOVER
  else stOK

/-- A core at an accepted launch: PC, HALTED and CORE_SRSEQ clear, and it has issued nothing (13 R349); any GATE of the run that
names the outbox ends the protection of payloads posted before (04 R119). -/
def launchCore (k : Core) : Core :=
  { k with pc := 0, halted := false, srseq := 0, next := 0, brs := [], busy := []
           prot := k.prot.map (fun x => { x with gateFrom := 0 }) }

/-- An accepted launch (13 R349): `resume` is the step index in RESUME mode. What the table of R349 does not name stays: a pause
requested and not yet in effect, and a plane halt, which only a step abort or a wider reset leaves (05 R156). -/
def armRun (s : State) (l : Nat) (resume : Option Nat) : State :=
  let s := mapCores s (fun _ => launchCore)
  let s := tileDies.foldl (fun s t => regPut s (dcs t 0x80C) (BitVec.ofNat 32 (resume.getD 0))) s
  let s := regPutNat s (dcs TUN 0x20) l 2
  let s := regSetBits s (dcs SP 0x440) 4 4 (if resume.isSome then 1 else 0)
  { s with plane := { s.plane with run := .armed, resume := resume.isSome, at_ := l, cyc := 0, held := false, contAt := none
                                   stepEnd := none, stepOk := false, logged := [], sample := none, issued := [] } }

/-- LAUNCH; an accepted one exits A1 first (13 R349, 14 R387, 16 R429; log 52). -/
def execLaunch (n : Nat) (s : State) : Out :=
  mbxCmd n 0x300 s (fun s =>
    let l := reqPay s n 0 8
    let mode := reqPay s n 8 1
    if 1 < mode then (s, .st stBAD_LEN)
    else if launchStatus s l ≠ stOK then (s, .st (launchStatus s l))
    else (armRun (exitA1 s) l (if mode = 1 then some (reqPay s n 12 4) else none), .st stOK))

/-- PAUSE (13 R351, 14 R387). -/
def execPause (n : Nat) (s : State) : Out :=
  mbxCmd n 0x310 s (fun s =>
    if s.plane.run ≠ .running then (s, .st stNOT_RUNNING)
    else ({ s with plane := { s.plane with preq := true } }, .st stOK))

/-- CONTINUE at count C (13 R352, 14 R387). -/
def execContRun (n : Nat) (s : State) : Out :=
  mbxCmd n 0x320 s (fun s =>
    let c := reqPay s n 0 8
    if s.plane.run ≠ .paused then (s, .st stNOT_PAUSED)
    else if c < s.count + 65536 then (s, .st stLATE)
    else
      let s := regPutNat (exitA1 s) (dcs TUN 0x20) c 2
      ({ s with plane := { s.plane with contAt := some c } }, .st stOK))

/-- ABORT_STEP (14 R388). -/
def execAbortStep (n : Nat) (s : State) : Out :=
  mbxCmd n 0x330 s (fun s => (stepAbort s (fun _ => reqPay s n 0 1), .st stOK))

end Sys2Proof.Machine
end

