-- ==== Sys2Proof/Machine/Replay.lean ====
section
/-! DEFINITION. Resumption from MUTE, the scan network, and trips (16 R416, R422; 17 R449 to R454; 18 R462, R479). -/
namespace Sys2Proof.Machine

-- Transactions that waited ------------------------------------------------------------------------------------------

/-- A transaction of the host that reached a muted module (17 R450). -/
def waited (i : Instr) (s : State) : Out :=
  match i with
  | .linkEnable d => execLinkEnable d s
  | .linkDisable d => execLinkDisable d s
  | .linkRetrain d => execLinkRetrain d s
  | .linkConfigWrite d r v => execLinkConfigWrite d r v s
  | .shaperCommit d v => execShaperCommit d v s
  | .policerCommit d v => execPolicerCommit d v s
  | .epochWrite d v => execEpochWrite d v s
  | .copyDoorbell ch v => execCopyDoorbell ch v s
  | .copyRingWrite ch v => execCopyRingWrite ch v s
  | .copyResume ch => execCopyResume ch s
  | .irqMaskWrite v => execIrqMaskWrite v s
  | .dcsWrite a sz v => execDcsWrite a sz v s
  | .saddleSlotWrite a sz v => execSaddleSlotWrite a sz v s
  | .faultLogClear => execFaultLogClear s
  | .rstcauseRead => execRstcauseRead s
  | .mbxGo n src => execMbxGo n src s
  | .mbxAck n src => execMbxAck n src s
  | .tunRingctlWrite v => execTunRingctlWrite v s
  | .muteArm => execMuteArm s
  | .muteDisarm => execMuteDisarm s
  | .rdS a => execRdS a s
  | .rdE a => execRdE a s
  | .rdNc a n => execRdNc a n s
  | .wrNc a be d => execWrNc a be d s
  | .wb a d => execWb a d s
  | .drop a => execDrop a s
  | .binvAck a => execBinvAck a s
  | .binvWb a d => execBinvWb a d s
  | _ => .next s

/-- The state an outcome leaves. -/
def afterOut (s : State) : Out → State
  | .next t => t
  | _ => s

/-- The host transactions that waited complete in their order (14 R365, 17 R450). -/
def replay (s : State) : State :=
  let w := s.mute.waiting
  w.foldl (fun s i => afterOut s (waited i s)) { s with mute := { s.mute with waiting := [] } }

-- Resumption --------------------------------------------------------------------------------------------------------

/-- Resumption is asked for: it proceeds when every segment stands at shift position 0, else it is refused (17 R454). -/
def askResume (s : State) : State :=
  if !s.muted || s.mute.thaw then s
  else if s.mute.scan.isEmpty then { s with mute := { s.mute with thaw := true } }
  else regSetBits s muteCtl 5 5 1

/-- MUTE_N_RISE: a rising edge of MUTE_N (17 R454). -/
def execMuteNRise (s : State) : Out :=
  .next (if s.pins.muteN then s else askResume { s with pins := { s.pins with muteN := true } })

/-- MUTE_RESUME: a write of RESUME, through the instrument of the MUTE controller while the module is muted, and without effect
otherwise or with MUTE_N low (17 R454). -/
def execMuteResume (s : State) : Out :=
  if s.muted then .next (if s.pins.muteN then askResume s else s) else mmioWrite .muteResume TUN false s id

/-- Clocks run again: the mute count is the next one executed (17 R454). -/
def unmute (s : State) : State :=
  let m := { s.mute with thaw := false, scan := [] }
  regSetBits { s with muted := false, count := s.count - 1, mute := m } muteCtl 3 2 0

/-- MUTE_THAW: 4,096 reference periods after a resumption that proceeds (17 R454; log 2). -/
def execMuteThaw (s : State) : Out := .next (if s.muted && s.mute.thaw then replay (unmute s) else s)

-- The scan network --------------------------------------------------------------------------------------------------

/-- The scan segments and the memory instrument are reachable (17 R451). -/
def scanOpen (s : State) : Bool := regBits s (dcs SP 0x480) 0 0 = 1

/-- SCAN_SHIFT: one shift of a segment, by the order of the domains in 01 R27: it recirculates while the module is muted, and
shifts nothing otherwise. The security die's is never reachable (17 R451, R452; log 18). -/
def execScanShift (seg : Nat) (s : State) : Out :=
  if 140 ≤ seg then .refused (.noSuchUnit "scan segment")
  else .next (
    if !scanOpen s || seg = 138 then s
    else if !s.muted then emit s (.scanBit false)
    else
      let p := smGet 0 s.mute.scan seg
      let m := { s.mute with scan := smSet 0 s.mute.scan seg ((p + 1) % (Config.segmentTop seg + 1)) }
      emit { s with mute := m } (.scanBit (Config.scanBit seg p s.mute.frozen)))

/-- A word of an array: 64 bits of a store, or an accumulator entry (17 R453). -/
def arrayWord (k : Core) (arr : MemArray) (a : Nat) : Nat :=
  match arr with
  | .localStore => memNat k.ls (8 * a) 8
  | .instrStore => memNat k.is (8 * a) 8
  | .accumulator => (accGet k a).sum.toNat

/-- Whether an error stands in a word of an array, correctable or not (17 R453). -/
def arrayErr (k : Core) (arr : MemArray) (a : Nat) (ue : Bool) : Bool :=
  let ms := match arr with
    | .localStore => standing k 0 [a]
    | .instrStore => standing k 1 [a]
    | .accumulator => standing k 2 [64 + a]
  ms.any (fun m => m.ue == ue)

/-- Words of an array. -/
def arraySize : MemArray → Nat
  | .localStore => 6144
  | .instrStore => 2048
  | .accumulator => 256

/-- MEMORY_INSTRUMENT_READ: a word of a core's array while the module is muted, with the errors that stand in it; nothing is recorded (17
R453; log 18). -/
def execMemoryInstrumentRead (c : Nat) (arr : MemArray) (a : Nat) (s : State) : Out :=
  if coreCount ≤ c then .refused (.noSuchUnit "core")
  else if arraySize arr ≤ a then .fault (.illFormed "array address")
  else .next (if scanOpen s && s.muted then emit s (.instrument (arrayWord (coreOf s c) arr a) (arrayErr (coreOf s c) arr a false) (arrayErr (coreOf s c) arr a true)) else s)

/-- IDCODE of the test access port: version 1 for revision A1, part 0x4810, manufacturer 0x627, and the 1 that ends it (18 R479). -/
def tapIdcode : BitVec 32 := 0x1#4 ++ 0x4810#16 ++ 0x627#11 ++ 1#1

/-- TAP_RESET: TRST_N low resets the test access port and nothing else (18 R479; log 18). -/
def execTapReset (s : State) : Out := .next s

-- Trips -------------------------------------------------------------------------------------------------------------

/-- The muted state is lost at a trip (17 R448). -/
def loseMute (s : State) : State :=
  if !s.muted then s
  else
    let m := { s.mute with thaw := false, scan := [] }
    regSetBits { s with muted := false, mute := m } muteCtl 3 2 0

/-- Tile logic, DRAM and Bridges lose power, and their links leave UP (16 R422, R433). Requests of the host that waited find
their tile absent. -/
def loseDies (s : State) : State :=
  let up := bridgeDies.any (fun d => linkState s d = lsUP)
  let s := failHost s
  let s := { darken s with dram := [], plane := { s.plane with mesh := [] } }
  if up then raiseIrq s 23 else s

/-- What a trip records and sets in the Soundpost (16 R422). -/
def recordTrip (s : State) (code : Nat) : State :=
  let s := recordAs s SP code 3 0
  let s := powerEvent (regSetBits s (dcs SP 0x440) 0 0 1) 4
  { s with pins := { s.pins with alarmN := false } }

/-- A command that waited for tiles to gate is answered; a Device reset that waited does not come (16 R422). -/
def endWaits (s : State) : State :=
  let s := { s with due := none, life := .up }
  match s.exec.draining with
  | none => s
  | some n => settleQueue 16 (respond { s with exec := { s.exec with draining := none } } n (.st stPWR_TRIPPED))

/-- A trip, in the order of 16 R422; a module that is off, in reset or TRIPPED takes none. -/
def trip (s : State) (code : Nat) : State :=
  if (s.life ≠ .up ∧ s.life ≠ .released) ∨ pwrState s = 4 then s
  else
    let s := recordTrip (loseDies (loseMute s)) code
    let s := if code = 0x38 then
        let g := { s.gov with trips := s.gov.trips + 1 }
        writeWear { s with gov := g }
      else s
    replay (endWaits (setPwr s 4))

def execThermalTrip (s : State) : Out := .next (trip s 0x38)
def execPowerTrip (s : State) : Out := .next (trip s 0x39)

/-- UNDERVOLTAGE_STOP acts as a power trip (18 R462). -/
def execUndervoltageStop (s : State) : Out := .next (trip s 0x39)

end Sys2Proof.Machine
end

