-- ==== Sys2Proof/Machine/Smbus.lean ====
section
/-! DEFINITION. SMBus and PMBus (18 R477, R478). `pec` says that the packet error code is right or absent. -/
namespace Sys2Proof.Machine

/-- The Soundpost answers on SMBus: released from reset and not muted (15 R403, 18 R477; DEDUCED, log 61). -/
def smbAnswers (s : State) : Bool := (s.life = .up || s.life = .released) && !s.muted

/-- An SMBus transfer: no address is acknowledged while the module is muted or in reset; a wrong packet error code is not
acknowledged and changes nothing (18 R477). -/
def smbCmd (pec : Bool) (s : State) (f : State → State) : Out :=
  .next (if smbAnswers s && pec then f s else emit s (.smbus false []))

/-- An acknowledged transfer and the bytes it returns. -/
def smbAck (s : State) (bs : List Byte) : State := emit s (.smbus true bs)

/-- SMB_SET_OFFSET: a multiple of 4 in [11:0]; other values are not acknowledged (18 R477). -/
def execSmbSetOffset (v : BitVec 16) (pec : Bool) (s : State) : Out :=
  smbCmd pec s (fun s =>
    if v.toNat % 4 = 0 ∧ v.toNat < 4096 then smbAck { s with smbAt := v.toNat } [] else emit s (.smbus false []))

/-- SMB_BLOCK_WRITE: writes at the offset and advances it (18 R477). -/
def execSmbBlockWrite (data : List Byte) (pec : Bool) (s : State) : Out :=
  if data.length < 4 ∨ 32 < data.length ∨ data.length % 4 ≠ 0 then .fault (.illFormed "block length")
  else smbCmd pec s (fun s =>
    smbAck { mbxWrite s 15 .smbus s.smbAt data with smbAt := min 4096 (s.smbAt + data.length) } [])

/-- SMB_BLOCK_READ: up to 32 bytes from the offset, fewer at the end (18 R477). -/
def execSmbBlockRead (pec : Bool) (s : State) : Out :=
  smbCmd pec s (fun s =>
    let n := min 32 (4096 - s.smbAt)
    smbAck { s with smbAt := s.smbAt + n } (memRead (mbx s 15).mem s.smbAt n))

/-- SMB_READ_CTL: SP_MBXCTL15 bits [6:0] (18 R477). -/
def execSmbReadCtl (pec : Bool) (s : State) : Out :=
  smbCmd pec s (fun s => smbAck s (bytesLE 1 (regBits s (mbxCtl 15) 6 0)))

/-- SMB_ALERT_RESPONSE: a module that holds SMB_ALERT_N low answers with its mailbox address and releases it; another does not
answer (18 R477; the address as SMBus has it, log 44). -/
def execSmbAlertResponse (pec : Bool) (s : State) : Out :=
  smbCmd pec s (fun s =>
    if s.pins.smbAlertN then emit s (.smbus false [])
    else smbAck { s with pins := { s.pins with smbAlertN := true } } (bytesLE 1 (2 * (0x60 + Config.smbAddr.toNat))))

-- PMBus -------------------------------------------------------------------------------------------------------------

/-- The value v/1000 in units of 2^N, as a numerator over `den`: v = num·2^N·1000 exactly when it divides. -/
def linearScaled (v : Int) (n : Int) : Int × Int := if n < 0 then (v * 2 ^ n.natAbs, 1000) else (v, 1000 * 2 ^ n.natAbs)

/-- The exponents whose mantissas enclose v/1000 (18 R478). -/
def linearExps (v : Int) : List Int :=
  ((List.range 32).map (fun i => (i : Int) - 16)).filter (fun n =>
    let (a, b) := linearScaled v n
    decide (-1024 * b ≤ a ∧ a ≤ 1023 * b))

/-- A LINEAR11 word for a value in thousandths: the spec names the format, not its rounding, so the exponent among those that
can hold the value and the neighbour taken for a value between two mantissas are free (log 44). A value that no exponent can
hold has a free word. -/
def linear11 (v : Int) : Nat :=
  let es := linearExps v
  match es[Config.linearPick v % es.length]? with
  | none => Config.linearPick v % 65536
  | some n =>
    let (a, b) := linearScaled v n
    let m := if a % b = 0 then a / b else a / b + (if Config.linearUp v then 1 else 0)
    ofSigned 11 m + ofSigned 5 n <<< 11

/-- A PMBus word. -/
def pmbusWord (pec : Bool) (s : State) (f : State → Nat) : Out := smbCmd pec s (fun s => smbAck s (bytesLE 2 (f s)))

/-- STATUS_WORD (18 R478). -/
def execStatusWord (pec : Bool) (s : State) : Out :=
  pmbusWord pec s (fun s =>
    let v := regBits s (dcs SP 0x200030) 31 0
    4 * regBits s (dcs SP 0x200008) 14 14 + (if pwrState s = 4 then 64 else 0) +
      (if v < 40000 ∨ 59500 < v then 8192 else 0))

def execReadVin (pec : Bool) (s : State) : Out := pmbusWord pec s (fun s => linear11 (regBits s (dcs SP 0x200030) 31 0))
def execReadIin (pec : Bool) (s : State) : Out := pmbusWord pec s (fun s => linear11 (regBits s (dcs SP 0x200030) 63 32))

/-- A temperature field, in thousandths of a degree. -/
def milliDegrees (v : Nat) : Int := 125 * toSigned 16 v

def execReadTemperature1 (pec : Bool) (s : State) : Out :=
  pmbusWord pec s (fun s => linear11 (milliDegrees (regBits s (dcs SP 0x200020) 15 0)))
def execReadTemperature2 (pec : Bool) (s : State) : Out :=
  pmbusWord pec s (fun s => linear11 (milliDegrees (regBits s (dcs SP 0x200020) 39 24)))
def execReadPin (pec : Bool) (s : State) : Out :=
  pmbusWord pec s (fun s => linear11 (1000 * regBits s (dcs SP 0x200018) 31 0))

/-- PMBUS_REVISION (18 R478). -/
def execPmbusRevision (pec : Bool) (s : State) : Out := smbCmd pec s (fun s => smbAck s [0x33])

end Sys2Proof.Machine
end

