-- ==== Sys2Proof/Machine/Sparse.lean ====
section
/-! DEFINITION. The instructions of the sparse unit, and SPMERGE (06). -/
namespace Sys2Proof.Machine

-- The descriptor ----------------------------------------------------------------------------------------------------

/-- Alignment of a value array of element width `w` (06 R176). -/
def valAlign (w : Nat) : Nat := if w < 8 then 8 else w / 8

/-- A misaligned or out-of-range array: FORMAT_DESC and ADDRESS_RANGE (06 R176). -/
def arrFaults (a n align : Nat) : List Nat :=
  (if a % align = 0 then [] else [0x07]) ++ (if a + n ≤ 0xC000 then [] else [0x05])

/-- ROWS and K within their limits (06 R168). -/
def rowsKOk (d : List Byte) : Bool :=
  decide (1 ≤ spf d 8 2 ∧ spf d 8 2 ≤ 4096 ∧ 16 ≤ spf d 12 4 ∧ spf d 12 4 ≤ 65536 ∧ spf d 12 4 % 16 = 0)

/-- The faults of an operand's map, pointers and values, as far as the descriptor fixes them: where a bitmap's values end depends
on the data, and an unlisted form fixes no range (06 R165, R176). -/
def operandFaults (form k rows w map val : Nat) (ptr : Option Nat) : List Nat :=
  if 4 < form then []
  else
    (if form = 0 then [] else arrFaults map (rows * mapBytes form k) 8) ++
    (match form, ptr with | 1, some p => arrFaults p (4 * (rows + 1)) 1 | _, _ => []) ++
    (if form = 1 then (if val % valAlign w = 0 then [] else [0x07])
     else arrFaults val (ceilDiv (rows * slotsPerRow form k * w) 8) (valAlign w))

/-- FORMAT_DESC for a field outside its limits (06 R176). -/
def fieldFaults (bad : Bool) : List Nat := if bad then [0x07] else []

/-- The width of a type field where the sparse unit accepts it. -/
def spWidth (b : Nat) : Option Nat := (spTy b).map tyWidth

/-- Whether TYA, TYB and AF go together (06 R167). -/
def spTypesOk (a b af : Nat) : Bool :=
  match spTy a, spTy b, accOfCode af with
  | some ta, some tb, some f =>
    decide (classOfTy tb = classOfTy ta ∧ (classOfTy ta).map (fun c => accAllowed c f) = some true)
  | _, _, _ => false

/-- SPDOT's descriptor checks: every field, and with ROWS and K within limits every range whose type or form is known (05 R157;
06 R166 to R168, R175, R176). -/
def spdotFaults (d : List Byte) : List Nat :=
  let rows := spf d 8 2
  let k := spf d 12 4
  let fl := spf d 6 1
  fieldFaults (!spTypesOk (spf d 3 1) (spf d 4 1) (spf d 5 1) || !rowsKOk d ||
    decide (4 < spf d 1 1 ∨ 4 < spf d 2 1 ∨ spf d 0 1 ≠ 1) || (bitAt fl 1 && bitsOf fl 3 2 = 3)) ++
  (if rowsKOk d then
    ((spWidth (spf d 3 1)).map (fun w => operandFaults (spf d 1 1) k rows w (spf d 18 2) (spf d 16 2) (some (spf d 20 2)))).getD [] ++
    ((spWidth (spf d 4 1)).map (fun w => operandFaults (spf d 2 1) k 1 w (spf d 24 2) (spf d 22 2) none)).getD [] ++
    ((accOfCode (spf d 5 1)).map (fun f => arrFaults (spf d 26 2) (rows * (tyWidth (tyOfAcc f) / 8)) 8)).getD [] ++
    (if bitAt fl 1 then arrFaults (spf d 28 2) (ceilDiv rows 8) 1 else [])
   else [])

/-- SPCOMPRESS's descriptor checks (06 R171, R176). -/
def spcompressFaults (d : List Byte) : List Nat :=
  let rows := spf d 8 2
  let k := spf d 12 4
  fieldFaults ((spTy (spf d 3 1)).isNone || !rowsKOk d || decide (spf d 1 1 = 0 ∨ 4 < spf d 1 1 ∨ spf d 0 1 ≠ 2)) ++
  (match spWidth (spf d 3 1) with
   | some w =>
     if rowsKOk d then
       (if spf d 1 1 = 0 then [] else operandFaults (spf d 1 1) k rows w (spf d 18 2) (spf d 16 2) (some (spf d 20 2))) ++
         arrFaults (spf d 22 2) (ceilDiv (rows * k * w) 8) (valAlign w)
     else []
   | none => [])

/-- SPBIN's descriptor checks (06 R173, R176). -/
def spbinFaults (d : List Byte) : List Nat :=
  let rows := spf d 8 2
  let form := spf d 1 1
  fieldFaults (!rowsKOk d || decide (form = 0 ∨ 4 < form ∨ spf d 0 1 ≠ 3) ||
    (List.range 7).any (fun b => decide (spThr d (b + 1) < spThr d b))) ++
  (if rowsKOk d then
    (if form = 0 ∨ 4 < form then [] else arrFaults (spf d 18 2) (rows * mapBytes form (spf d 12 4)) 8) ++
      arrFaults (spf d 26 2) (4 * rows) 8 ++ arrFaults (spf d 30 2) (16 + 2 * rows) 1
   else [])

/-- SPMASK's descriptor checks (06 R174, R176). -/
def spmaskFaults (d : List Byte) : List Nat :=
  let rows := spf d 8 2
  let fin := fun v => match fpDecode fFP32 v with | .fin _ _ _ => true | _ => false
  let neg := fun v => match fpDecode fFP32 v with | .fin n m _ => n && m != 0 | _ => false
  let rowsOk := decide (1 ≤ rows ∧ rows ≤ 4096)
  fieldFaults (!rowsOk || decide (spf d 0 1 ≠ 4) || !fin (spf d 32 4) || !fin (spf d 36 4) || neg (spf d 36 4)) ++
  (if rowsOk then arrFaults (spf d 16 2) (4 * rows) 4 ++ arrFaults (spf d 26 2) (ceilDiv rows 8) 8 else [])

-- The instructions --------------------------------------------------------------------------------------------------

/-- A sparse-unit instruction: its descriptor checked and read at issue; its run starts at the next tuning count and leaves the
unit idle C + 7 counts on; outstanding from issue on, predicated off or not (06 R158, R160, R169, R176, R181). -/
def planSparse (c op : Nat) (check : List Byte → List Nat) (f : FmtI) (s : State) (k : Core) : Plan :=
  match sReg f.ra with
  | none => Plan.bad
  | some ra =>
    if f.fn ≠ 0 then Plan.bad
    else
      let a := formAddr k ra f.imm
      let d := memRead k.ls a 64
      let c0 := s.count + 1
      let idle := c0 + sparseLen (sparsePoison s c) op k.ls d + 7
      { onCore c nLSP (fun _ x => { x with sparse := .running op d c0 idle })
          (lsFaults a 64 64 ++ ungated k a 64 ++ check d) with
        reads := [regWords [f.ra.toNat], lsWords a 64]
        checks := 3
        clash := k.sparseOut
        always := fun x => { x with sparseOut := true, sparseAt := s.plane.cyc } }

def execSpdot (c : Nat) (p : Pred) (f : FmtI) (s : State) : Out := issue c p (planSparse c 1 spdotFaults f) s
def execSpcompress (c : Nat) (p : Pred) (f : FmtI) (s : State) : Out := issue c p (planSparse c 2 spcompressFaults f) s
def execSpbin (c : Nat) (p : Pred) (f : FmtI) (s : State) : Out := issue c p (planSparse c 3 spbinFaults f) s
def execSpmask (c : Nat) (p : Pred) (f : FmtI) (s : State) : Out := issue c p (planSparse c 4 spmaskFaults f) s

/-- SPJOIN: a gate on the sparse unit (06 R159 to R162). -/
def planSpjoin (c : Nat) (_ : State) (k : Core) : Plan := onCore c nSIU (fun n x => addGate x n k.pc .spjoin)

def execSpjoin (c : Nat) (p : Pred) (_ : FmtC) (s : State) : Out := issue c p (planSpjoin c) s

/-- SPARSE_RUN_DONE: time passes to the count from which core `c`'s sparse unit is idle, its bytes in local store and its findings
waiting for the join (06 R158, R161, R169). Not while MUTE or a plane halt stops it, nor when no run is under way (log 2). -/
def execSparseRunDone (c : Nat) (s : State) : Out :=
  if coreCount ≤ c then .refused (.noSuchUnit "core")
  else
    match (coreOf s c).sparse with
    | .running _ _ _ idle => .next (if clocksRun s && s.plane.halted.isNone then passTo s idle else s)
    | _ => .next s

/-- SPMERGE's descriptor checks (06 R177). -/
def mergeFaults (d : List Byte) : List Nat :=
  let vt := spf d 1 1
  let n := spf d 10 2
  let lim := if vt = 1 then 256 else 512
  if 3 < spf d 0 1 ∨ 2 < vt ∨ 2 < spf d 2 1 ∨ 15 < spf d 3 1 ∨ spf d 4 2 = 0 ∨ 128 < spf d 4 2 ∨ 16384 ≤ spf d 6 2 ∨
      spf d 8 2 % 8 ≠ 0 ∨ lim < n then [0x07]
  else if spf d 8 2 + n * (if vt = 1 then 16 else 8) ≤ 0xC000 then [] else [0x05]

/-- Bytes of the pairs a merge descriptor posts. -/
def mergeBytes (d : List Byte) : Nat := spf d 10 2 * (if spf d 1 1 = 1 then 16 else 8)

/-- SPMERGE: posts the core's pairs to the tile's merge tree (06 R177). -/
def planSpmerge (c : Nat) (f : FmtI) (_ : State) (k : Core) : Plan :=
  match sReg f.ra with
  | none => Plan.bad
  | some ra =>
    if f.fn ≠ 0 then Plan.bad
    else
      let a := formAddr k ra f.imm
      let d := memRead k.ls a 32
      { onCore c (⟨.obp, 0, 8⟩ :: nLSP)
          (fun n x => protect (postOutbox (outboxGate x n k.pc) n (.merge d)) n (spf d 8 2) (mergeBytes d))
          (lsFaults a 32 32 ++ ungated k a 32 ++ mergeFaults d) with
        reads := [regWords [f.ra.toNat], lsWords a 32]
        checks := 3
        clash := k.sparseOut }

def execSpmerge (c : Nat) (p : Pred) (f : FmtI) (s : State) : Out := issue c p (planSpmerge c f) s

end Sys2Proof.Machine
end

