-- ==== Sys2Proof/Machine/Telemetry.lean ====
section
/-! DEFINITION. TELEMETRY (14 R389). -/
namespace Sys2Proof.Machine

/-- TUN_RUNSTAT (13). -/
def runstatWord (s : State) : Nat :=
  (match s.plane.run with | .idle => 0 | .armed => 1 | .running => 2 | .paused => 3) +
    (if s.plane.resume then 4 else 0) + (if s.plane.preq then 8 else 0)

/-- A sum over all cores, saturating (14 R389). -/
def coreSum (s : State) (f : Core → Nat) : Nat := min (2 ^ 64 - 1) ((s.cores.map (fun e => f e.2)).sum)

/-- A field of dies that have no power: free, by its place (14 R389 and 16 R433 give no value; log 43). -/
def poweredField (s : State) (d place n v : Nat) : List Byte :=
  bytesLE n (if dieLive s d then v else (Config.darkField s.free place).toNat)

/-- Bit k = 1 when link Lk is UP. -/
def upMask (s : State) : Nat := (bridgeDies.map (fun d => if linkState s d = lsUP then 2 ^ (d - 64) else 0)).sum

/-- The summary (14 R389). -/
def summary (s : State) : List Byte :=
  let r := fun o n => bytesLE (4 * n) (regNat s (dcs SP o) n)
  r 0 1 ++ bytesLE 4 (runstatWord s) ++ bytesLE 8 (ringStatWord s) ++ bytesLE 8 (regNat s (dcs TUN 0xC00) 2) ++
    poweredField s 0 0 4 (tileReg s 0 0x80C).toNat ++ r 0x440 1 ++
    poweredField s 0 1 8 (coreSum s (fun k => k.blkuf.toNat)) ++
    poweredField s 0 2 8 (coreSum s (fun k => k.spskip.toNat % 2 ^ 32)) ++
    poweredField s 0 3 8 (coreSum s (fun k => k.spskip.toNat / 2 ^ 32)) ++
    bytesLE 8 (upMask s) ++
    poweredField s 64 4 8 (min (2 ^ 64 - 1) ((s.bridges.map (fun e => e.2.lines.length)).sum)) ++
    r 0x200 2 ++ List.replicate 32 0 ++ powerBlock s

/-- TELEMETRY_SUMMARY (14 R389). -/
def execTelemetrySummary (n : Nat) (s : State) : Out :=
  mbxCmd n 0x410 s (fun s => ({ s with free := s.free + 1 }, ⟨stOK, 0, summary s⟩))

/-- The 50 counters of a Bridge: BRG_CNT, then BRG_SCNT (14 R389). -/
def bridgeCounters (s : State) (d : Nat) : List Byte :=
  ((List.range 38).flatMap (fun i => poweredField s d (5 + i) 8 (regNat s (dcs d (0x4000 + 8 * i)) 2))) ++
    ((List.range 12).flatMap (fun i => poweredField s d (43 + i) 8 (regNat s (dcs d (0x4200 + 8 * i)) 2)))

/-- TELEMETRY_BRIDGE (14 R389). -/
def execTelemetryBridge (n : Nat) (s : State) : Out :=
  mbxCmd n 0x411 s (fun s =>
    let d := reqPay s n 1 1
    if isBridge d then ({ s with free := s.free + 1 }, ⟨stOK, 0, bridgeCounters s d⟩) else (s, .st stBAD_LEN))

end Sys2Proof.Machine
end

