-- ==== Sys2Proof/Machine/Dispatch.lean ====
section
/-! DEFINITION. One arm per command: its meaning. -/
namespace Sys2Proof.Machine

/-- The effect of a command on everything but the queue. -/
def exec (i : Instr) (s : State) : Host.Outcome State Fault Refusal :=
  match i with
  | .nop c => Sys2Proof.Machine.execNop c s
  | .halt c p f => Sys2Proof.Machine.execHalt c p f s
  | .stepend c p f => Sys2Proof.Machine.execStepend c p f s
  | .gate c p f => Sys2Proof.Machine.execGate c p f s
  | .capo c p f => Sys2Proof.Machine.execCapo c p f s
  | .br c p f => Sys2Proof.Machine.execBr c p f s
  | .brr c p f => Sys2Proof.Machine.execBrr c p f s
  | .add c p f => Sys2Proof.Machine.execAdd c p f s
  | .sub c p f => Sys2Proof.Machine.execSub c p f s
  | .and c p f => Sys2Proof.Machine.execAnd c p f s
  | .or c p f => Sys2Proof.Machine.execOr c p f s
  | .xor c p f => Sys2Proof.Machine.execXor c p f s
  | .shl c p f => Sys2Proof.Machine.execShl c p f s
  | .shr c p f => Sys2Proof.Machine.execShr c p f s
  | .sra c p f => Sys2Proof.Machine.execSra c p f s
  | .min c p f => Sys2Proof.Machine.execMin c p f s
  | .max c p f => Sys2Proof.Machine.execMax c p f s
  | .minu c p f => Sys2Proof.Machine.execMinu c p f s
  | .maxu c p f => Sys2Proof.Machine.execMaxu c p f s
  | .mul c p f => Sys2Proof.Machine.execMul c p f s
  | .mulh c p f => Sys2Proof.Machine.execMulh c p f s
  | .mulhu c p f => Sys2Proof.Machine.execMulhu c p f s
  | .icmp c p f => Sys2Proof.Machine.execIcmp c p f s
  | .pand c p f => Sys2Proof.Machine.execPand c p f s
  | .por c p f => Sys2Proof.Machine.execPor c p f s
  | .pxor c p f => Sys2Proof.Machine.execPxor c p f s
  | .pnot c p f => Sys2Proof.Machine.execPnot c p f s
  | .addi c p f => Sys2Proof.Machine.execAddi c p f s
  | .andi c p f => Sys2Proof.Machine.execAndi c p f s
  | .ori c p f => Sys2Proof.Machine.execOri c p f s
  | .xori c p f => Sys2Proof.Machine.execXori c p f s
  | .shli c p f => Sys2Proof.Machine.execShli c p f s
  | .shri c p f => Sys2Proof.Machine.execShri c p f s
  | .srai c p f => Sys2Proof.Machine.execSrai c p f s
  | .li c p f => Sys2Proof.Machine.execLi c p f s
  | .csrr c p f => Sys2Proof.Machine.execCsrr c p f s
  | .csrw c p f => Sys2Proof.Machine.execCsrw c p f s
  | .rdid c p f => Sys2Proof.Machine.execRdid c p f s
  | .fadd c p f => Sys2Proof.Machine.execFadd c p f s
  | .fsub c p f => Sys2Proof.Machine.execFsub c p f s
  | .fmul c p f => Sys2Proof.Machine.execFmul c p f s
  | .ffma c p f => Sys2Proof.Machine.execFfma c p f s
  | .fdiv c p f => Sys2Proof.Machine.execFdiv c p f s
  | .fsqrt c p f => Sys2Proof.Machine.execFsqrt c p f s
  | .fmin c p f => Sys2Proof.Machine.execFmin c p f s
  | .fmax c p f => Sys2Proof.Machine.execFmax c p f s
  | .fminnum c p f => Sys2Proof.Machine.execFminnum c p f s
  | .fmaxnum c p f => Sys2Proof.Machine.execFmaxnum c p f s
  | .fneg c p f => Sys2Proof.Machine.execFneg c p f s
  | .fabs c p f => Sys2Proof.Machine.execFabs c p f s
  | .fcmp c p f => Sys2Proof.Machine.execFcmp c p f s
  | .fcvt c p f => Sys2Proof.Machine.execFcvt c p f s
  | .vfadd c p f => Sys2Proof.Machine.execVfadd c p f s
  | .vfsub c p f => Sys2Proof.Machine.execVfsub c p f s
  | .vfmul c p f => Sys2Proof.Machine.execVfmul c p f s
  | .vffma c p f => Sys2Proof.Machine.execVffma c p f s
  | .vfdiv c p f => Sys2Proof.Machine.execVfdiv c p f s
  | .vfsqrt c p f => Sys2Proof.Machine.execVfsqrt c p f s
  | .vfmin c p f => Sys2Proof.Machine.execVfmin c p f s
  | .vfmax c p f => Sys2Proof.Machine.execVfmax c p f s
  | .vfminnum c p f => Sys2Proof.Machine.execVfminnum c p f s
  | .vfmaxnum c p f => Sys2Proof.Machine.execVfmaxnum c p f s
  | .vfneg c p f => Sys2Proof.Machine.execVfneg c p f s
  | .vfabs c p f => Sys2Proof.Machine.execVfabs c p f s
  | .vfcmp c p f => Sys2Proof.Machine.execVfcmp c p f s
  | .vcvt c p f => Sys2Proof.Machine.execVcvt c p f s
  | .vadd c p f => Sys2Proof.Machine.execVadd c p f s
  | .vsub c p f => Sys2Proof.Machine.execVsub c p f s
  | .vand c p f => Sys2Proof.Machine.execVand c p f s
  | .vor c p f => Sys2Proof.Machine.execVor c p f s
  | .vxor c p f => Sys2Proof.Machine.execVxor c p f s
  | .vshl c p f => Sys2Proof.Machine.execVshl c p f s
  | .vshr c p f => Sys2Proof.Machine.execVshr c p f s
  | .vsra c p f => Sys2Proof.Machine.execVsra c p f s
  | .vmin c p f => Sys2Proof.Machine.execVmin c p f s
  | .vmax c p f => Sys2Proof.Machine.execVmax c p f s
  | .vminu c p f => Sys2Proof.Machine.execVminu c p f s
  | .vmaxu c p f => Sys2Proof.Machine.execVmaxu c p f s
  | .vmul c p f => Sys2Proof.Machine.execVmul c p f s
  | .vperm c p f => Sys2Proof.Machine.execVperm c p f s
  | .vsel c p f => Sys2Proof.Machine.execVsel c p f s
  | .vbcast c p f => Sys2Proof.Machine.execVbcast c p f s
  | .vext c p f => Sys2Proof.Machine.execVext c p f s
  | .vqmx c p f => Sys2Proof.Machine.execVqmx c p f s
  | .vdqmx c p f => Sys2Proof.Machine.execVdqmx c p f s
  | .vqeb4 c p f => Sys2Proof.Machine.execVqeb4 c p f s
  | .vdqeb4 c p f => Sys2Proof.Machine.execVdqeb4 c p f s
  | .movrx c p f => Sys2Proof.Machine.execMovrx c p f s
  | .ld c p f => Sys2Proof.Machine.execLd c p f s
  | .st c p f => Sys2Proof.Machine.execSt c p f s
  | .sld c p f => Sys2Proof.Machine.execSld c p f s
  | .sst c p f => Sys2Proof.Machine.execSst c p f s
  | .ifill c p f => Sys2Proof.Machine.execIfill c p f s
  | .smsend c p f => Sys2Proof.Machine.execSmsend c p f s
  | .smsendv c p f => Sys2Proof.Machine.execSmsendv c p f s
  | .outpost c p f => Sys2Proof.Machine.execOutpost c p f s
  | .lbarm c p f => Sys2Proof.Machine.execLbarm c p f s
  | .mset c p f => Sys2Proof.Machine.execMset c p f s
  | .mscale c p f => Sys2Proof.Machine.execMscale c p f s
  | .malda c p f => Sys2Proof.Machine.execMalda c p f s
  | .mma c p f => Sys2Proof.Machine.execMma c p f s
  | .accinit c p f => Sys2Proof.Machine.execAccinit c p f s
  | .accld c p f => Sys2Proof.Machine.execAccld c p f s
  | .drain c p f => Sys2Proof.Machine.execDrain c p f s
  | .accrd c p f => Sys2Proof.Machine.execAccrd c p f s
  | .mmAg c p f => Sys2Proof.Machine.execMmAg c p f s
  | .mmRs c p f => Sys2Proof.Machine.execMmRs c p f s
  | .accAr c p f => Sys2Proof.Machine.execAccAr c p f s
  | .xchV c p f => Sys2Proof.Machine.execXchV c p f s
  | .gthV c p f => Sys2Proof.Machine.execGthV c p f s
  | .spdot c p f => Sys2Proof.Machine.execSpdot c p f s
  | .spcompress c p f => Sys2Proof.Machine.execSpcompress c p f s
  | .spbin c p f => Sys2Proof.Machine.execSpbin c p f s
  | .spmask c p f => Sys2Proof.Machine.execSpmask c p f s
  | .spmerge c p f => Sys2Proof.Machine.execSpmerge c p f s
  | .spjoin c p f => Sys2Proof.Machine.execSpjoin c p f s
  | .sparseRunDone c => Sys2Proof.Machine.execSparseRunDone c s
  | .governorPeriod m => Sys2Proof.Machine.execGovernorPeriod m s
  | .linkEnable d => Sys2Proof.Machine.execLinkEnable d s
  | .linkDisable d => Sys2Proof.Machine.execLinkDisable d s
  | .linkRetrain d => Sys2Proof.Machine.execLinkRetrain d s
  | .linkConfigWrite d r v => Sys2Proof.Machine.execLinkConfigWrite d r v s
  | .linkLock d => Sys2Proof.Machine.execLinkLock d s
  | .linkGroupSend d => Sys2Proof.Machine.execLinkGroupSend d s
  | .linkGroupReceive d g => Sys2Proof.Machine.execLinkGroupReceive d g s
  | .linkSignalLoss d => Sys2Proof.Machine.execLinkSignalLoss d s
  | .frameAdmit d port v => Sys2Proof.Machine.execFrameAdmit d port v s
  | .frameAdmitRetry d => Sys2Proof.Machine.execFrameAdmitRetry d s
  | .spillAdmit d => Sys2Proof.Machine.execSpillAdmit d s
  | .refill d q => Sys2Proof.Machine.execRefill d q s
  | .egressSelect d o => Sys2Proof.Machine.execEgressSelect d o s
  | .frameDepart d o => Sys2Proof.Machine.execFrameDepart d o s
  | .outboxDrain c => Sys2Proof.Machine.execOutboxDrain c s
  | .policerRelease d k => Sys2Proof.Machine.execPolicerRelease d k s
  | .frameLand t => Sys2Proof.Machine.execFrameLand t s
  | .mfLoad t => Sys2Proof.Machine.execMfLoad t s
  | .mfStore t => Sys2Proof.Machine.execMfStore t s
  | .mfAtomic t => Sys2Proof.Machine.execMfAtomic t s
  | .serviceSlot c => Sys2Proof.Machine.execServiceSlot c s
  | .refresh t => Sys2Proof.Machine.execRefresh t s
  | .atomicAdd c => Sys2Proof.Machine.execAtomicAdd c s
  | .atomicAnd c => Sys2Proof.Machine.execAtomicAnd c s
  | .atomicOr c => Sys2Proof.Machine.execAtomicOr c s
  | .atomicXor c => Sys2Proof.Machine.execAtomicXor c s
  | .atomicMin c => Sys2Proof.Machine.execAtomicMin c s
  | .atomicMax c => Sys2Proof.Machine.execAtomicMax c s
  | .atomicMinu c => Sys2Proof.Machine.execAtomicMinu c s
  | .atomicMaxu c => Sys2Proof.Machine.execAtomicMaxu c s
  | .swap c => Sys2Proof.Machine.execSwap c s
  | .cas c => Sys2Proof.Machine.execCas c s
  | .xadd c => Sys2Proof.Machine.execXadd c s
  | .xrd c => Sys2Proof.Machine.execXrd c s
  | .mfData t => Sys2Proof.Machine.execMfData t s
  | .mfAck t => Sys2Proof.Machine.execMfAck t s
  | .nak t => Sys2Proof.Machine.execNak t s
  | .spart d => Sys2Proof.Machine.execSpart d s
  | .sdown d => Sys2Proof.Machine.execSdown d s
  | .cpiece d => Sys2Proof.Machine.execCpiece d s
  | .ccount d => Sys2Proof.Machine.execCcount d s
  | .cbase d => Sys2Proof.Machine.execCbase d s
  | .tokenSend n => Sys2Proof.Machine.execTokenSend n s
  | .ctoku d => Sys2Proof.Machine.execCtoku d s
  | .ctokd d => Sys2Proof.Machine.execCtokd d s
  | .cpoison d => Sys2Proof.Machine.execCpoison d s
  | .mergeContribution t => Sys2Proof.Machine.execMergeContribution t s
  | .rdS a => Sys2Proof.Machine.execRdS a s
  | .rdE a => Sys2Proof.Machine.execRdE a s
  | .rdNc a len => Sys2Proof.Machine.execRdNc a len s
  | .wrNc a be data => Sys2Proof.Machine.execWrNc a be data s
  | .wb a data => Sys2Proof.Machine.execWb a data s
  | .drop a => Sys2Proof.Machine.execDrop a s
  | .binvAck a => Sys2Proof.Machine.execBinvAck a s
  | .binvWb a data => Sys2Proof.Machine.execBinvWb a data s
  | .copyDoorbell ch v => Sys2Proof.Machine.execCopyDoorbell ch v s
  | .copyRingWrite ch v => Sys2Proof.Machine.execCopyRingWrite ch v s
  | .copyResume ch => Sys2Proof.Machine.execCopyResume ch s
  | .copyDescriptor ch desc => Sys2Proof.Machine.execCopyDescriptor ch desc s
  | .copyDescriptorDone ch data => Sys2Proof.Machine.execCopyDescriptorDone ch data s
  | .hostErr ch data => Sys2Proof.Machine.execHostErr ch data s
  | .irqMaskWrite v => Sys2Proof.Machine.execIrqMaskWrite v s
  | .dcsWrite a sz v => Sys2Proof.Machine.execDcsWrite a sz v s
  | .epochWrite d v => Sys2Proof.Machine.execEpochWrite d v s
  | .shaperCommit d v => Sys2Proof.Machine.execShaperCommit d v s
  | .policerCommit d v => Sys2Proof.Machine.execPolicerCommit d v s
  | .saddleSlotWrite a sz v => Sys2Proof.Machine.execSaddleSlotWrite a sz v s
  | .mbxGo n src => Sys2Proof.Machine.execMbxGo n src s
  | .mbxAck n src => Sys2Proof.Machine.execMbxAck n src s
  | .sessionNonce n => Sys2Proof.Machine.execSessionNonce n s
  | .sessionOpen n => Sys2Proof.Machine.execSessionOpen n s
  | .sessionClose n => Sys2Proof.Machine.execSessionClose n s
  | .nonceExpiry n => Sys2Proof.Machine.execNonceExpiry n s
  | .sessionIdleExpiry n => Sys2Proof.Machine.execSessionIdleExpiry n s
  | .setTopology n => Sys2Proof.Machine.execSetTopology n s
  | .setCourseTable n => Sys2Proof.Machine.execSetCourseTable n s
  | .setRegionTable n => Sys2Proof.Machine.execSetRegionTable n s
  | .loadProgram n img => Sys2Proof.Machine.execLoadProgram n img s
  | .loadSaddleProgram n => Sys2Proof.Machine.execLoadSaddleProgram n s
  | .launch n => Sys2Proof.Machine.execLaunch n s
  | .pause n => Sys2Proof.Machine.execPause n s
  | .contRun n => Sys2Proof.Machine.execContRun n s
  | .abortStep n => Sys2Proof.Machine.execAbortStep n s
  | .powerQuery n => Sys2Proof.Machine.execPowerQuery n s
  | .powerSetA0 n => Sys2Proof.Machine.execPowerSetA0 n s
  | .powerSetA1 n => Sys2Proof.Machine.execPowerSetA1 n s
  | .powerSetA2 n => Sys2Proof.Machine.execPowerSetA2 n s
  | .powerSetA3 n => Sys2Proof.Machine.execPowerSetA3 n s
  | .telemetrySummary n => Sys2Proof.Machine.execTelemetrySummary n s
  | .telemetryBridge n => Sys2Proof.Machine.execTelemetryBridge n s
  | .attestQuote n => Sys2Proof.Machine.execAttestQuote n s
  | .attestLog n => Sys2Proof.Machine.execAttestLog n s
  | .attestAliasCert n => Sys2Proof.Machine.execAttestAliasCert n s
  | .attestDeviceCert n => Sys2Proof.Machine.execAttestDeviceCert n s
  | .resetDevice n => Sys2Proof.Machine.execResetDevice n s
  | .resetPlane n => Sys2Proof.Machine.execResetPlane n s
  | .resetLink n => Sys2Proof.Machine.execResetLink n s
  | .updateImageWrite n img => Sys2Proof.Machine.execUpdateImageWrite n img s
  | .updateImageActivate n => Sys2Proof.Machine.execUpdateImageActivate n s
  | .updateImageCommit n => Sys2Proof.Machine.execUpdateImageCommit n s
  | .syncReceive w => Sys2Proof.Machine.execSyncReceive w s
  | .scanShift seg => Sys2Proof.Machine.execScanShift seg s
  | .memoryInstrumentRead c arr a => Sys2Proof.Machine.execMemoryInstrumentRead c arr a s
  | .smbSetOffset v pec => Sys2Proof.Machine.execSmbSetOffset v pec s
  | .smbBlockWrite data pec => Sys2Proof.Machine.execSmbBlockWrite data pec s
  | .smbBlockRead pec => Sys2Proof.Machine.execSmbBlockRead pec s
  | .smbReadCtl pec => Sys2Proof.Machine.execSmbReadCtl pec s
  | .smbAlertResponse pec => Sys2Proof.Machine.execSmbAlertResponse pec s
  | .statusWord pec => Sys2Proof.Machine.execStatusWord pec s
  | .readVin pec => Sys2Proof.Machine.execReadVin pec s
  | .readIin pec => Sys2Proof.Machine.execReadIin pec s
  | .readTemperature1 pec => Sys2Proof.Machine.execReadTemperature1 pec s
  | .readTemperature2 pec => Sys2Proof.Machine.execReadTemperature2 pec s
  | .readPin pec => Sys2Proof.Machine.execReadPin pec s
  | .pmbusRevision pec => Sys2Proof.Machine.execPmbusRevision pec s
  | .tunRingctlWrite v => Sys2Proof.Machine.execTunRingctlWrite v s
  | .planeHold => Sys2Proof.Machine.execPlaneHold s
  | .releaseSample => Sys2Proof.Machine.execReleaseSample s
  | .runStart => Sys2Proof.Machine.execRunStart s
  | .governorFrame => Sys2Proof.Machine.execGovernorFrame s
  | .wearLogWrite => Sys2Proof.Machine.execWearLogWrite s
  | .thermalTrip => Sys2Proof.Machine.execThermalTrip s
  | .powerTrip => Sys2Proof.Machine.execPowerTrip s
  | .undervoltageStop => Sys2Proof.Machine.execUndervoltageStop s
  | .powerLoss => Sys2Proof.Machine.execPowerLoss s
  | .coldReset => Sys2Proof.Machine.execColdReset s
  | .warmReset => Sys2Proof.Machine.execWarmReset s
  | .boot => Sys2Proof.Machine.execBoot s
  | .deviceReset => Sys2Proof.Machine.execDeviceReset s
  | .faultLogClear => Sys2Proof.Machine.execFaultLogClear s
  | .rstcauseRead => Sys2Proof.Machine.execRstcauseRead s
  | .lockoutExpiry => Sys2Proof.Machine.execLockoutExpiry s
  | .a2TileGate => Sys2Proof.Machine.execA2TileGate s
  | .syncSend => Sys2Proof.Machine.execSyncSend s
  | .syncTimeout => Sys2Proof.Machine.execSyncTimeout s
  | .muteArm => Sys2Proof.Machine.execMuteArm s
  | .muteDisarm => Sys2Proof.Machine.execMuteDisarm s
  | .muteNFall => Sys2Proof.Machine.execMuteNFall s
  | .muteFreeze => Sys2Proof.Machine.execMuteFreeze s
  | .muteNRise => Sys2Proof.Machine.execMuteNRise s
  | .muteResume => Sys2Proof.Machine.execMuteResume s
  | .muteThaw => Sys2Proof.Machine.execMuteThaw s
  | .tapReset => Sys2Proof.Machine.execTapReset s
  | .powerUp => Sys2Proof.Machine.execPowerUp s

end Sys2Proof.Machine
end

