-- ==== Sys2Proof/Machine/Fetch.lean ====
section
/-! DEFINITION. The cores issuing by themselves: the word at a core's index is fetched, decoded and issued (04 R97, R102, R129; 05
R133, R135). -/
namespace Sys2Proof.Machine

/-- The instruction word at the index of a core; words no section has written are zero (05 R133, R135). -/
def fetchWord (k : Core) : BitVec 64 := BitVec.ofNat 64 (memNat k.is (8 * k.pc) 8)

/-- Core `c` issues the word at its index, if it can issue in the present cycle. A word that spells no instruction raises
ILLEGAL_INSTRUCTION (05 R135). -/
def fetchCore (s : State) (c : Nat) : State :=
  if canIssue s c then
    let w := fetchWord (coreOf s c)
    let s := eccFlush (modCore s c (fun k => (eccRead k 1 [k.pc]).1)) c
    match decodeInsn c w with
    | some i => match exec i s with
      | .next t => t
      | _ => s
    | none => issueNow s c (predOf w) false (fun _ _ => Plan.bad)
  else s

/-- Every active core that has not issued in the present cycle issues (04 R97). -/
def fetchCycle (s : State) : State := if planeRuns s then (activeCores s).foldl fetchCore s else s

/-- What passes when no command waits: the cores issue the present cycle, and one count passes (04 R97; log 1). -/
def idleStep (s : State) : State := tick (fetchCycle s)

end Sys2Proof.Machine
end

