-- ==== Sys2Proof/Safety.lean ====
section
/-! DEFINITION. What a claim may ask of states and runs. -/
namespace Sys2Proof.Safety
open Sys2Proof.Machine

/-- A step that neither faults nor is refused. -/
def Goes (s : State) : Prop := ∃ t, step s = .next t

/-- Every register and memory the state keeps as a sparse map stands in its canonical form: equal contents are equal data. The
registers kept while tiles are gated are those of tile dies. -/
def Canonical (s : State) : Prop :=
  Memory.wf s.dram = true ∧ smWf none s.regs = true ∧ smWf Core.reset s.cores = true ∧ smWf Bridge.reset s.bridges = true ∧
    smWf Tile.reset s.tiles = true ∧ smWf Mailbox.reset s.mbx = true ∧ smWf none s.a2Saved = true ∧
    ∀ e ∈ s.a2Saved, e.1 < 64 * 2 ^ 24

/-- The non-volatile counters of `t` are nowhere below those of `s` (15 R411, 16 R423, R434). -/
def NeverFell (s t : State) : Prop :=
  s.flash.rpa.userArb ≤ t.flash.rpa.userArb ∧ s.flash.rpa.fwArb ≤ t.flash.rpa.fwArb ∧ s.flash.rpa.boots ≤ t.flash.rpa.boots ∧
    s.flash.rpa.updates ≤ t.flash.rpa.updates

/-- The run so far has met no event that withdraws a guarantee (13 R361). -/
def Unvoided (s : State) : Prop := regBits s (dcs SP 0x440) 4 0 = 0

/-- It is the turn of core `c` in the present cycle (04 R97, R131; 05 R156): the plane runs and is neither held nor halted, the
core is covered by the image, is not halted and has not issued in this cycle yet, its instruction lies in the store, and no error
stands in its memories or datapaths (17 R440, R442). -/
structure Turn (s : State) (c : Nat) : Prop where
  lists : c < coreCount
  running : s.plane.run = .running
  notHeld : s.plane.held = false
  notHalted : s.plane.halted = none
  clocked : clocksRun s = true
  covered : coreIdle s c = false
  active : (coreOf s c).halted = false
  turn : (coreOf s c).next ≤ s.plane.cyc
  inStore : (coreOf s c).pc < 2048
  sound : (coreOf s c).ecc = Ecc.none

/-- Core `c` issues in the present cycle: it is its turn, and no core has issued STEPEND in this cycle (05 R152). -/
structure Ready (s : State) (c : Nat) : Prop extends Turn s c where
  noSkew : skews s false = false

/-- Core `c` issues in the present cycle and its predicate lets the instruction execute (05 R134). -/
structure Fires (s : State) (c : Nat) (p : Pred) : Prop extends Ready s c where
  executes : executes (coreOf s c) p = true

/-- None of the resources an instruction needs is occupied when it needs it (04 R98, R99). -/
def Vacant (s : State) (c : Nat) (needs : List Need) : Prop := needs.any (needClash (coreOf s c) s.plane.cyc) = false

/-- The state once core `c` has issued an instruction with these needs in the present cycle, `g` being what the instruction
itself does to the core; nothing else in the module changes, but that the issue is noted until the cycle ends (05 R152). -/
def afterIssue (s : State) (c : Nat) (needs : List Need) (g : Core → Core) : State :=
  setCore (noteIssue s c false) c (g (retire (coreOf s c) s.plane.cyc needs))

/-- A write of the host to die `d` is served: the module is up and not muted, the die has power, and a HOST session is open (01
R30; 14 R365, R366). -/
structure Served (s : State) (d : Nat) : Prop where
  up : s.life = .up
  awake : s.muted = false
  served : mmioServed s d false = true

/-- Bridge `d` exists and works (16 R429, 17 R448). -/
structure BridgeWorks (s : State) (d : Nat) : Prop where
  bridge : isBridge d = true
  works : bridgesOn s = true

end Sys2Proof.Safety
end

