-- ==== Sys2Proof/WellFormed.lean ====
section
/-! DEFINITION. Well-formed commands: the units they name exist, and byte strings have the lengths their rules give. -/
namespace Sys2Proof

/-- A logical core of the module (01 R12). -/
def coreOk (c : Nat) : Bool := decide (c < 1048576)

/-- A Bridge die (01 R29). -/
def bridgeOk (d : Nat) : Bool := decide (64 ≤ d ∧ d < 100)

/-- A die with policers: a tile, the Apeno die, the Soundpost (09 R249). -/
def policerOk (d : Nat) : Bool := decide (d < 64 ∨ d = 100 ∨ d = 101)

/-- An output scheduled at a Bridge: its link, or a local target (08 R220, 09 R236). -/
def outputOk (d o : Nat) : Bool := decide (o = d - 64 ∨ (36 ≤ o ∧ o < 75))

/-- A host request of `n` bytes lies within one line of the module's address space (14 R371). -/
def hostOk (a n : Nat) : Bool := decide (a < 2 ^ 43 ∧ 8 ≤ n ∧ a % 64 + n ≤ 64)

/-- A line's address (14 R373). -/
def lineOk (a : Nat) : Bool := decide (a < 2 ^ 43 ∧ a % 64 = 0)

/-- A mailbox, as a side reaches it (14 R379). -/
def mailboxOk (n : Nat) (src : Side) : Bool :=
  match src with
  | .apeno => decide (n < 16)
  | .smbus => decide (n = 15)

/-- The header, a constant or a word of a Saddle slot (10 R275). -/
def slotAddress (a : Nat) : Bool :=
  let d := a / 2 ^ 24
  let o := a % 2 ^ 24
  bridgeOk d && decide ((0x101000 ≤ o ∧ o < 0x101400 ∧ o % 0x40 < 0x28) ∨ (0x102000 ≤ o ∧ o < 0x104000))

/-- The measurements of a governor period fit the registers that report them (16). -/
def sensorsOk (m : Sensors) : Bool :=
  decide (m.power < 2 ^ 32 ∧ m.volt < 2 ^ 32 ∧ m.amp < 2 ^ 32 ∧ m.logicDie < 104 ∧ m.dramTile < 64 ∧ -32768 ≤ m.tLogic ∧
    m.tLogic ≤ 32767 ∧ -32768 ≤ m.tDram ∧ m.tDram ≤ 32767)

/-- A link group: at most 160 slots, and as many as NFLIT says where its 16 codewords can be read (18 R469, R470). -/
def groupOk (g : Group) : Bool :=
  decide (g.slots.length ≤ 160) && decide (g.lost + g.fixed ≤ 16) &&
    (g.uncorrectable || decide (g.slots.length = min 160 ((g.ctl.toNat >>> 36) % 256)))

/-- A word of an array of the memory instrument (17 R453). -/
def arrayOk (arr : MemArray) (a : Nat) : Bool :=
  match arr with
  | .localStore => decide (a < 6144)
  | .instrStore => decide (a < 2048)
  | .accumulator => decide (a < 256)

/-- Whether a command is well-formed. What depends on the state besides (the bytes of a descriptor or an image have the length
it asks for) its meaning checks. -/
def Instr.wf (i : Instr) : Bool :=
  match i with
  | .nop c => coreOk c
  | .halt c _ _ => coreOk c
  | .stepend c _ _ => coreOk c
  | .gate c _ _ => coreOk c
  | .capo c _ _ => coreOk c
  | .br c _ _ => coreOk c
  | .brr c _ _ => coreOk c
  | .add c _ _ => coreOk c
  | .sub c _ _ => coreOk c
  | .and c _ _ => coreOk c
  | .or c _ _ => coreOk c
  | .xor c _ _ => coreOk c
  | .shl c _ _ => coreOk c
  | .shr c _ _ => coreOk c
  | .sra c _ _ => coreOk c
  | .min c _ _ => coreOk c
  | .max c _ _ => coreOk c
  | .minu c _ _ => coreOk c
  | .maxu c _ _ => coreOk c
  | .mul c _ _ => coreOk c
  | .mulh c _ _ => coreOk c
  | .mulhu c _ _ => coreOk c
  | .icmp c _ _ => coreOk c
  | .pand c _ _ => coreOk c
  | .por c _ _ => coreOk c
  | .pxor c _ _ => coreOk c
  | .pnot c _ _ => coreOk c
  | .addi c _ _ => coreOk c
  | .andi c _ _ => coreOk c
  | .ori c _ _ => coreOk c
  | .xori c _ _ => coreOk c
  | .shli c _ _ => coreOk c
  | .shri c _ _ => coreOk c
  | .srai c _ _ => coreOk c
  | .li c _ _ => coreOk c
  | .csrr c _ _ => coreOk c
  | .csrw c _ _ => coreOk c
  | .rdid c _ _ => coreOk c
  | .fadd c _ _ => coreOk c
  | .fsub c _ _ => coreOk c
  | .fmul c _ _ => coreOk c
  | .ffma c _ _ => coreOk c
  | .fdiv c _ _ => coreOk c
  | .fsqrt c _ _ => coreOk c
  | .fmin c _ _ => coreOk c
  | .fmax c _ _ => coreOk c
  | .fminnum c _ _ => coreOk c
  | .fmaxnum c _ _ => coreOk c
  | .fneg c _ _ => coreOk c
  | .fabs c _ _ => coreOk c
  | .fcmp c _ _ => coreOk c
  | .fcvt c _ _ => coreOk c
  | .vfadd c _ _ => coreOk c
  | .vfsub c _ _ => coreOk c
  | .vfmul c _ _ => coreOk c
  | .vffma c _ _ => coreOk c
  | .vfdiv c _ _ => coreOk c
  | .vfsqrt c _ _ => coreOk c
  | .vfmin c _ _ => coreOk c
  | .vfmax c _ _ => coreOk c
  | .vfminnum c _ _ => coreOk c
  | .vfmaxnum c _ _ => coreOk c
  | .vfneg c _ _ => coreOk c
  | .vfabs c _ _ => coreOk c
  | .vfcmp c _ _ => coreOk c
  | .vcvt c _ _ => coreOk c
  | .vadd c _ _ => coreOk c
  | .vsub c _ _ => coreOk c
  | .vand c _ _ => coreOk c
  | .vor c _ _ => coreOk c
  | .vxor c _ _ => coreOk c
  | .vshl c _ _ => coreOk c
  | .vshr c _ _ => coreOk c
  | .vsra c _ _ => coreOk c
  | .vmin c _ _ => coreOk c
  | .vmax c _ _ => coreOk c
  | .vminu c _ _ => coreOk c
  | .vmaxu c _ _ => coreOk c
  | .vmul c _ _ => coreOk c
  | .vperm c _ _ => coreOk c
  | .vsel c _ _ => coreOk c
  | .vbcast c _ _ => coreOk c
  | .vext c _ _ => coreOk c
  | .vqmx c _ _ => coreOk c
  | .vdqmx c _ _ => coreOk c
  | .vqeb4 c _ _ => coreOk c
  | .vdqeb4 c _ _ => coreOk c
  | .movrx c _ _ => coreOk c
  | .ld c _ _ => coreOk c
  | .st c _ _ => coreOk c
  | .sld c _ _ => coreOk c
  | .sst c _ _ => coreOk c
  | .ifill c _ _ => coreOk c
  | .smsend c _ _ => coreOk c
  | .smsendv c _ _ => coreOk c
  | .outpost c _ _ => coreOk c
  | .lbarm c _ _ => coreOk c
  | .mset c _ _ => coreOk c
  | .mscale c _ _ => coreOk c
  | .malda c _ _ => coreOk c
  | .mma c _ _ => coreOk c
  | .accinit c _ _ => coreOk c
  | .accld c _ _ => coreOk c
  | .drain c _ _ => coreOk c
  | .accrd c _ _ => coreOk c
  | .mmAg c _ _ => coreOk c
  | .mmRs c _ _ => coreOk c
  | .accAr c _ _ => coreOk c
  | .xchV c _ _ => coreOk c
  | .gthV c _ _ => coreOk c
  | .spdot c _ _ => coreOk c
  | .spcompress c _ _ => coreOk c
  | .spbin c _ _ => coreOk c
  | .spmask c _ _ => coreOk c
  | .spmerge c _ _ => coreOk c
  | .spjoin c _ _ => coreOk c
  | .sparseRunDone c => coreOk c
  | .governorPeriod m => sensorsOk m
  | .linkEnable d => bridgeOk d
  | .linkDisable d => bridgeOk d
  | .linkRetrain d => bridgeOk d
  | .linkConfigWrite d _ _ => bridgeOk d
  | .linkLock d => bridgeOk d
  | .linkGroupSend d => bridgeOk d
  | .linkGroupReceive d g => bridgeOk d && groupOk g
  | .linkSignalLoss d => bridgeOk d
  | .frameAdmit d _ v => bridgeOk d && decide (v < 12)
  | .frameAdmitRetry d => bridgeOk d
  | .spillAdmit d => bridgeOk d
  | .refill d q => bridgeOk d && decide (q < 1800)
  | .egressSelect d o => bridgeOk d && outputOk d o
  | .frameDepart d o => bridgeOk d && outputOk d o
  | .outboxDrain c => coreOk c
  | .policerRelease d k => policerOk d && decide (k < 4)
  | .frameLand t => decide (t < 64)
  | .mfLoad t => decide (t < 64)
  | .mfStore t => decide (t < 64)
  | .mfAtomic t => decide (t < 64)
  | .serviceSlot c => coreOk c
  | .refresh t => decide (t < 64)
  | .atomicAdd c => coreOk c
  | .atomicAnd c => coreOk c
  | .atomicOr c => coreOk c
  | .atomicXor c => coreOk c
  | .atomicMin c => coreOk c
  | .atomicMax c => coreOk c
  | .atomicMinu c => coreOk c
  | .atomicMaxu c => coreOk c
  | .swap c => coreOk c
  | .cas c => coreOk c
  | .xadd c => coreOk c
  | .xrd c => coreOk c
  | .mfData t => decide (t < 64)
  | .mfAck t => decide (t < 64)
  | .nak t => decide (t < 64)
  | .spart d => bridgeOk d
  | .sdown d => decide (d < 100)
  | .cpiece d => decide (d < 100)
  | .ccount d => decide (d < 100)
  | .cbase d => decide (d < 100)
  | .tokenSend n => decide (n < 64)
  | .ctoku d => bridgeOk d
  | .ctokd d => bridgeOk d
  | .cpoison d => bridgeOk d
  | .mergeContribution t => decide (t < 64)
  | .rdS a => hostOk a 64
  | .rdE a => hostOk a 64
  | .rdNc a len => hostOk a len
  | .wrNc a be data => hostOk a data.length && decide (be.length = data.length)
  | .wb a data => hostOk a 64 && decide (data.length = 64)
  | .drop a => hostOk a 64
  | .binvAck a => lineOk a
  | .binvWb a data => lineOk a && decide (data.length = 64)
  | .copyDoorbell ch _ => decide (ch < 4)
  | .copyRingWrite ch _ => decide (ch < 4)
  | .copyResume ch => decide (ch < 4)
  | .copyDescriptor ch desc => decide (ch < 4) && (match desc with | some x => decide (x.length = 32) | none => true)
  | .copyDescriptorDone ch _ => decide (ch < 4)
  | .hostErr ch _ => decide (ch < 4)
  | .irqMaskWrite _ => true
  | .dcsWrite _ _ _ => true
  | .epochWrite d _ => bridgeOk d
  | .shaperCommit d _ => bridgeOk d
  | .policerCommit d _ => policerOk d
  | .saddleSlotWrite a _ _ => slotAddress a.toNat
  | .mbxGo n src => mailboxOk n src
  | .mbxAck n src => mailboxOk n src
  | .sessionNonce n => decide (n < 16)
  | .sessionOpen n => decide (n < 16)
  | .sessionClose n => decide (n < 16)
  | .nonceExpiry n => decide (n < 16)
  | .sessionIdleExpiry n => decide (n < 16)
  | .setTopology n => decide (n < 16)
  | .setCourseTable n => decide (n < 16)
  | .setRegionTable n => decide (n < 16)
  | .loadProgram n _ => decide (n < 16)
  | .loadSaddleProgram n => decide (n < 16)
  | .launch n => decide (n < 16)
  | .pause n => decide (n < 16)
  | .contRun n => decide (n < 16)
  | .abortStep n => decide (n < 16)
  | .powerQuery n => decide (n < 16)
  | .powerSetA0 n => decide (n < 16)
  | .powerSetA1 n => decide (n < 16)
  | .powerSetA2 n => decide (n < 16)
  | .powerSetA3 n => decide (n < 16)
  | .telemetrySummary n => decide (n < 16)
  | .telemetryBridge n => decide (n < 16)
  | .attestQuote n => decide (n < 16)
  | .attestLog n => decide (n < 16)
  | .attestAliasCert n => decide (n < 16)
  | .attestDeviceCert n => decide (n < 16)
  | .resetDevice n => decide (n < 16)
  | .resetPlane n => decide (n < 16)
  | .resetLink n => decide (n < 16)
  | .updateImageWrite n _ => decide (n < 16)
  | .updateImageActivate n => decide (n < 16)
  | .updateImageCommit n => decide (n < 16)
  | .syncReceive _ => true
  | .scanShift seg => decide (seg < 140)
  | .memoryInstrumentRead c arr a => coreOk c && arrayOk arr a
  | .smbSetOffset _ _ => true
  | .smbBlockWrite data _ => decide (4 ≤ data.length ∧ data.length ≤ 32 ∧ data.length % 4 = 0)
  | .smbBlockRead _ => true
  | .smbReadCtl _ => true
  | .smbAlertResponse _ => true
  | .statusWord _ => true
  | .readVin _ => true
  | .readIin _ => true
  | .readTemperature1 _ => true
  | .readTemperature2 _ => true
  | .readPin _ => true
  | .pmbusRevision _ => true
  | .tunRingctlWrite _ => true
  | .planeHold => true
  | .releaseSample => true
  | .runStart => true
  | .governorFrame => true
  | .wearLogWrite => true
  | .thermalTrip => true
  | .powerTrip => true
  | .undervoltageStop => true
  | .powerLoss => true
  | .coldReset => true
  | .warmReset => true
  | .boot => true
  | .deviceReset => true
  | .faultLogClear => true
  | .rstcauseRead => true
  | .lockoutExpiry => true
  | .a2TileGate => true
  | .syncSend => true
  | .syncTimeout => true
  | .muteArm => true
  | .muteDisarm => true
  | .muteNFall => true
  | .muteFreeze => true
  | .muteNRise => true
  | .muteResume => true
  | .muteThaw => true
  | .tapReset => true
  | .powerUp => true

end Sys2Proof
end

