-- ==== Sys2Proof/Certificates/Slice0/Obligations.lean ====
section
/-! DEFINITION. What is claimed of the block: one proposition each, listed in OBLIGATIONS.json. -/
open Sys2Proof Sys2Proof.Machine Sys2Proof.Safety

namespace Sys2Proof.Claims

-- Instruction rows --------------------------------------------------------------------------------------------------

/-- The integer rows of format R with their operations and the latency of their row of R98 (05 R140). -/
def integerRows : List ((Nat → Pred → FmtR → Instr) × (Word → Word → Word) × Nat) :=
  [(.add, (fun x y => x + y), 1), (.sub, (fun x y => x - y), 1), (.and, (fun x y => x &&& y), 1),
   (.or, (fun x y => x ||| y), 1), (.xor, (fun x y => x ^^^ y), 1),
   (.shl, (fun x y => x <<< (y.toNat % 32)), 1), (.shr, (fun x y => x >>> (y.toNat % 32)), 1),
   (.sra, (fun x y => x.sshiftRight (y.toNat % 32)), 1),
   (.min, (fun x y => BitVec.ofInt 32 (min x.toInt y.toInt)), 1),
   (.max, (fun x y => BitVec.ofInt 32 (max x.toInt y.toInt)), 1),
   (.minu, (fun x y => BitVec.ofNat 32 (min x.toNat y.toNat)), 1),
   (.maxu, (fun x y => BitVec.ofNat 32 (max x.toNat y.toNat)), 1),
   (.mul, (fun x y => BitVec.ofInt 32 (x.toInt * y.toInt)), 3),
   (.mulh, (fun x y => BitVec.ofInt 32 (x.toInt * y.toInt / 2 ^ 32)), 3),
   (.mulhu, (fun x y => BitVec.ofNat 32 (x.toNat * y.toNat / 2 ^ 32)), 3)]

/-- The integer rows of format I with their operations on the register and the immediate (05 R140). -/
def immediateRows : List ((Nat → Pred → FmtI → Instr) × (Word → Word → Word)) :=
  [(.addi, (fun x y => x + y)), (.andi, (fun x y => x &&& y)), (.ori, (fun x y => x ||| y)), (.xori, (fun x y => x ^^^ y)),
   (.shli, (fun x y => x <<< (y.toNat % 32))), (.shri, (fun x y => x >>> (y.toNat % 32))),
   (.srai, (fun x y => x.sshiftRight (y.toNat % 32)))]

/-- The predicate rows with their operations; PNOT uses its first operand only (05 R140). -/
def predicateRows : List ((Nat → Pred → FmtR → Instr) × (Bool → Bool → Bool)) :=
  [(.pand, (fun x y => x && y)), (.por, (fun x y => x || y)), (.pxor, (fun x y => x != y))]

/-- The comparisons of ICMP by FN: equal, not equal, signed below and not above, unsigned below and not above (05 R140). -/
def compares : List (Nat × (Word → Word → Bool)) :=
  [(0, fun x y => decide (x = y)), (1, fun x y => decide (x ≠ y)), (2, fun x y => decide (x.toInt < y.toInt)),
   (3, fun x y => decide (x.toInt ≤ y.toInt)), (4, fun x y => decide (x.toNat < y.toNat)),
   (5, fun x y => decide (x.toNat ≤ y.toNat))]

end Sys2Proof.Claims

open Sys2Proof.Claims

/-- 05 R140, 04 R98: an integer row of format R gives s[RD] the result after its latency, changes nothing else and sets no
flag. 05 R140: an integer row of format I, and LI. 05 R140: predicates and comparisons give p[RD] their result at i + 1. -/
def Obligations.IntegerAndPredicateRowsComplete : Prop :=
  (∀ row ∈ integerRows, ∀ (s : State) (c : Nat) (p : Pred) (f : FmtR) (a b d : Nat),
    Fires s c p → Vacant s c nSIU → sReg f.ra = some a → sReg f.rb = some b → sReg f.rd = some d →
    exec (row.1 c p f) s = .next (afterIssue s c nSIU (fun k =>
      { k with wb := k.wb ++ [⟨s.plane.cyc + row.2.2, .s d, (row.2.1 (sGet (coreOf s c) a) (sGet (coreOf s c) b)).toNat⟩] }))) ∧
  (∀ row ∈ immediateRows, ∀ (s : State) (c : Nat) (p : Pred) (f : FmtI) (a d : Nat),
    Fires s c p → Vacant s c nSIU → sReg f.ra = some a → sReg f.rd = some d →
    exec (row.1 c p f) s = .next (afterIssue s c nSIU (fun k =>
      { k with wb := k.wb ++ [⟨s.plane.cyc + 1, .s d, (row.2 (sGet (coreOf s c) a) f.imm).toNat⟩] }))) ∧
  (∀ (s : State) (c : Nat) (p : Pred) (f : FmtI) (d : Nat), Fires s c p → Vacant s c nSIU → f.fn = 0 → sReg f.rd = some d →
    exec (.li c p f) s = .next (afterIssue s c nSIU (fun k =>
      { k with wb := k.wb ++ [⟨s.plane.cyc + 1, .s d, f.imm.toNat⟩] }))) ∧
  (∀ row ∈ predicateRows, ∀ (s : State) (c : Nat) (p : Pred) (f : FmtR) (a b d : Nat),
    Fires s c p → Vacant s c nSIU → pReg f.ra = some a → pReg f.rb = some b → pReg f.rd = some d →
    exec (row.1 c p f) s = .next (afterIssue s c nSIU (fun k =>
      { k with wb := k.wb ++ [⟨s.plane.cyc + 1, .p d, (row.2 (pGet (coreOf s c) a) (pGet (coreOf s c) b)).toNat⟩] }))) ∧
  (∀ (s : State) (c : Nat) (p : Pred) (f : FmtR) (a d : Nat), Fires s c p → Vacant s c nSIU → pReg f.ra = some a →
    pReg f.rd = some d →
    exec (.pnot c p f) s = .next (afterIssue s c nSIU (fun k =>
      { k with wb := k.wb ++ [⟨s.plane.cyc + 1, .p d, (!pGet (coreOf s c) a).toNat⟩] }))) ∧
  (∀ row ∈ compares, ∀ (s : State) (c : Nat) (p : Pred) (f : FmtR) (a b d : Nat),
    Fires s c p → Vacant s c nSIU → f.fn.toNat = row.1 → sReg f.ra = some a → sReg f.rb = some b → pReg f.rd = some d →
    exec (.icmp c p f) s = .next (afterIssue s c nSIU (fun k =>
      { k with wb := k.wb ++ [⟨s.plane.cyc + 1, .p d, (row.2 (sGet (coreOf s c) a) (sGet (coreOf s c) b)).toNat⟩] })))

/-- 05 R140: CSRR reads the per-core register at IMM[8:0] as it stands; RDID by FN reads the logical core, the tile, the
module index, the step index, or the issue cycle into a pair. 05 R140, R141: CSRW takes effect at i + 1, by the types of the
fields: FPCTL and MXCTL take the written bits, FPSTAT and MXSTAT lose the bits written as ones, BLKUF takes the value, and no
other register of the core changes. -/
def Obligations.PerCoreRegistersAreReadAndWritten : Prop :=
  (∀ (s : State) (c : Nat) (p : Pred) (f : FmtI) (d : Nat), Fires s c p → Vacant s c nSIU → f.fn = 0 →
    (f.sz = 0 → f.imm.toNat % 512 % 4 = 0 → sReg f.rd = some d →
      exec (.csrr c p f) s = .next (afterIssue s c nSIU (fun k =>
        { k with wb := k.wb ++ [⟨s.plane.cyc + 1, .s d, (csrRead32 false (coreOf s c) (f.imm.toNat % 512)).toNat⟩] }))) ∧
    (f.sz = 1 → f.imm.toNat % 512 % 8 = 0 → sPair f.rd = some d →
      exec (.csrr c p f) s = .next (afterIssue s c nSIU (fun k =>
        { k with wb := k.wb ++ [⟨s.plane.cyc + 1, .s d, (csrRead32 false (coreOf s c) (f.imm.toNat % 512)).toNat⟩] ++
          [⟨s.plane.cyc + 1, .s (d + 1), (csrRead32 false (coreOf s c) (f.imm.toNat % 512 + 4)).toNat⟩] })))) ∧
  (∀ (s : State) (c : Nat) (p : Pred) (f : FmtI) (d : Nat), Fires s c p → Vacant s c nSIU → sReg f.rd = some d →
    ∀ r ∈ [(0, c % 16384), (1, c / 16384), (2, (tileReg s (c / 16384) 0x808).toNat),
      (3, (tileReg s (c / 16384) 0x80C).toNat)], f.fn.toNat = r.1 →
      exec (.rdid c p f) s = .next (afterIssue s c nSIU (fun k =>
        { k with wb := k.wb ++ [⟨s.plane.cyc + 1, .s d, r.2⟩] }))) ∧
  (∀ (s : State) (c : Nat) (p : Pred) (f : FmtI) (d : Nat), Fires s c p → Vacant s c nSIU → sPair f.rd = some d →
    f.fn = 4 → exec (.rdid c p f) s = .next (afterIssue s c nSIU (fun k =>
      { k with wb := k.wb ++ [⟨s.plane.cyc + 1, .s d, s.plane.cyc % 2 ^ 32⟩] ++
        [⟨s.plane.cyc + 1, .s (d + 1), s.plane.cyc / 2 ^ 32⟩] }))) ∧
  (∀ (s : State) (c : Nat) (p : Pred) (f : FmtI) (a : Nat), Fires s c p → Vacant s c nSIU → f.fn = 0 →
    (f.sz = 0 → f.imm.toNat % 512 % 4 = 0 → sReg f.ra = some a →
      exec (.csrw c p f) s = .next (afterIssue s c nSIU (fun k =>
        { k with wb := k.wb ++ [⟨s.plane.cyc + 1, .csr (f.imm.toNat % 512) 4, (sGet (coreOf s c) a).toNat⟩] }))) ∧
    (f.sz = 1 → f.imm.toNat % 512 % 8 = 0 → sPair f.ra = some a →
      exec (.csrw c p f) s = .next (afterIssue s c nSIU (fun k =>
        { k with wb := k.wb ++ [⟨s.plane.cyc + 1, .csr (f.imm.toNat % 512) 8, (pairGet (coreOf s c) a).toNat⟩] })))) ∧
  (∀ (k : Core) (v : Nat),
    applyDst k (.csr 0x40 4) v = { k with fpctl := BitVec.ofNat 32 v &&& 0x7 } ∧
    applyDst k (.csr 0x44 4) v = { k with fpstat := k.fpstat &&& ~~~ (BitVec.ofNat 32 v &&& 0x3F3F) } ∧
    applyDst k (.csr 0x48 4) v = { k with blkuf := BitVec.ofNat 32 v } ∧
    applyDst k (.csr 0x4C 4) v = { k with mxstat := k.mxstat &&& ~~~ (BitVec.ofNat 32 v &&& 0x303) } ∧
    applyDst k (.csr 0x58 4) v = { k with mxctl := BitVec.ofNat 32 v &&& 0x001F0FFF })

/-- 05 R135, R142: NOP does nothing; BR and BRR begin a branch with two delay slots; GATE and CAPO take their place among the
core's gates, tested as they issue. 04 R100: the two instructions after a branch issue, then the target's. -/
def Obligations.ControlRowsComplete : Prop :=
  (∀ (s : State) (c : Nat), Ready s c → exec (.nop c) s = .next (afterIssue s c [] id)) ∧
  (∀ (s : State) (c : Nat) (p : Pred) (f : FmtC), Fires s c p → Vacant s c nSIU →
    exec (.br c p f) s = .next (afterIssue s c nSIU (fun k => { k with brs := k.brs ++ [(2, f.target.toNat)] }))) ∧
  (∀ (s : State) (c : Nat) (p : Pred) (f : FmtC) (a : Nat), Fires s c p → Vacant s c nSIU → sReg f.ra = some a →
    (sGet (coreOf s c) a).toNat < 2048 →
    exec (.brr c p f) s =
      .next (afterIssue s c nSIU (fun k => { k with brs := k.brs ++ [(2, (sGet (coreOf s c) a).toNat)] }))) ∧
  (∀ (s : State) (c : Nat) (p : Pred) (f : FmtC), Fires s c p → Vacant s c nSIU →
    (∀ b < 16, f.mask.getLsbD b = true → (lbGet (coreOf s c) b).armed = true) →
    exec (.gate c p f) s = .next (afterIssue s c nSIU (fun k =>
      let g : Gate := ⟨s.plane.cyc, (coreOf s c).pc, .gate f.mask.toNat, false⟩
      { k with gates := k.gates ++ [{ g with ok := gateSat k g }] }))) ∧
  (∀ (s : State) (c : Nat) (p : Pred) (f : FmtC), Fires s c p → Vacant s c nSIU →
    exec (.capo c p f) s = .next (afterIssue s c nSIU (fun k =>
      { k with gates := k.gates ++ [⟨s.plane.cyc, (coreOf s c).pc, .capo, decide (k.capo = 0)⟩] }))) ∧
  (∀ (k : Core) (n t : Nat) (w0 w1 w2 : List Need), k.brs = [] →
    let k0 := retire k n w0
    let k1 := retire { k0 with brs := k0.brs ++ [(2, t)] } (n + 1) w1
    let k2 := retire k1 (n + 2) w2
    k0.pc = k.pc + 1 ∧ k1.pc = k.pc + 2 ∧ k2.pc = t ∧ k2.brs = [])

/-- 04 R131, 05 R152, R153: HALT stops the core; the last one begins the step end of the next cycle, and a core with an answer to
come fences there. STEPEND begins the step end of its cycle, or joins the one begun in it, where no core has issued another
instruction in that cycle. -/
def Obligations.HaltAndStependComplete : Prop :=
  (∀ (s : State) (c : Nat) (p : Pred) (f : FmtC), Fires s c p → (coreOf s c).sparseOut = false →
    ((∃ d ∈ activeCores s, d ≠ c) →
      exec (.halt c p f) s = .next (afterIssue s c [] (fun k => { k with halted := true }))) ∧
    ((∀ d ∈ activeCores s, d = c) →
      ∃ t, exec (.halt c p f) s = .next t ∧ (coreOf t c).halted = true ∧ (coreOf t c).s = (coreOf s c).s ∧
        t.plane.stepEnd = some (s.plane.cyc + 1) ∧ t.plane.cyc = s.plane.cyc ∧ t.plane.run = s.plane.run ∧
        t = { s with cores := t.cores, plane := t.plane })) ∧
  (∀ (s : State) (c : Nat) (p : Pred) (f : FmtC), Turn s c → executes (coreOf s c) p = true → Vacant s c nSIU →
    (coreOf s c).sparseOut = false →
    skews s true = false →
    ∃ t, exec (.stepend c p f) s = .next t ∧
      coreOf t c = (let k := retire (coreOf s c) s.plane.cyc nSIU
        { k with gates := k.gates ++ [⟨s.plane.cyc, (coreOf s c).pc, .fence, true⟩] }) ∧
      (∀ d, d ≠ c → coreOf t d = coreOf s d) ∧
      t = { s with cores := t.cores
                   plane := { (noteIssue s c true).plane with stepEnd := some s.plane.cyc, stepOk := false } })

namespace Sys2Proof.Claims

/-- The scalar floating-point rows: operands, whether they run on the divider, and the operation of IEEE 754 with its flags
(05 R140, 02 R36 to R41). -/
def scalarFpRows : List ((Nat → Pred → FmtR → Instr) × Nat × Bool × (FpFmt → Rm → Nat → Nat → Nat → Nat × FFlags)) :=
  [(.fadd, 2, false, (fun f r x y _ => fpAdd f r x y)), (.fsub, 2, false, (fun f r x y _ => fpSub f r x y)),
   (.fmul, 2, false, (fun f r x y _ => fpMul f r x y)), (.ffma, 3, false, (fun f r x y z => fpFma f r x y z)),
   (.fdiv, 2, true, (fun f r x y _ => fpDiv f r x y)), (.fsqrt, 1, true, (fun f r x _ _ => fpSqrt f r x)),
   (.fmin, 2, false, (fun f _ x y _ => fpMinMax f false x y)), (.fmax, 2, false, (fun f _ x y _ => fpMinMax f true x y)),
   (.fminnum, 2, false, (fun f _ x y _ => fpMinMaxNum f false x y)),
   (.fmaxnum, 2, false, (fun f _ x y _ => fpMinMaxNum f true x y)),
   (.fneg, 1, false, (fun f _ x _ _ => (x ^^^ 2 ^ (fmtWidth f - 1), 0))),
   (.fabs, 1, false, (fun f _ x _ _ => (x % 2 ^ (fmtWidth f - 1), 0)))]

/-- The vector floating-point rows; the last field tells the rows that take the narrow formats too (05 R143). -/
def vectorFpRows :
    List ((Nat → Pred → FmtR → Instr) × Nat × Bool × Bool × (FpFmt → Rm → Nat → Nat → Nat → Nat × FFlags)) :=
  [(.vfadd, 2, false, false, (fun f r x y _ => fpAdd f r x y)), (.vfsub, 2, false, false, (fun f r x y _ => fpSub f r x y)),
   (.vfmul, 2, false, false, (fun f r x y _ => fpMul f r x y)), (.vffma, 3, false, false, (fun f r x y z => fpFma f r x y z)),
   (.vfdiv, 2, true, false, (fun f r x y _ => fpDiv f r x y)), (.vfsqrt, 1, true, false, (fun f r x _ _ => fpSqrt f r x)),
   (.vfmin, 2, false, true, (fun f _ x y _ => fpMinMax f false x y)),
   (.vfmax, 2, false, true, (fun f _ x y _ => fpMinMax f true x y)),
   (.vfminnum, 2, false, false, (fun f _ x y _ => fpMinMaxNum f false x y)),
   (.vfmaxnum, 2, false, false, (fun f _ x y _ => fpMinMaxNum f true x y)),
   (.vfneg, 1, false, false, (fun f _ x _ _ => (x ^^^ 2 ^ (fmtWidth f - 1), 0))),
   (.vfabs, 1, false, false, (fun f _ x _ _ => (x % 2 ^ (fmtWidth f - 1), 0)))]

/-- The integer lane rows: the result of a lane of width `w` from the codes of its operands' lanes (05 R143). -/
def vectorIntRows : List ((Nat → Pred → FmtR → Instr) × (Nat → Nat → Nat → Nat)) :=
  [(.vadd, (fun w a b => (a + b) % 2 ^ w)), (.vsub, (fun w a b => (2 ^ w + a - b) % 2 ^ w)), (.vand, (fun _ a b => a &&& b)),
   (.vor, (fun _ a b => a ||| b)), (.vxor, (fun _ a b => a ^^^ b)), (.vshl, (fun w a b => (a * 2 ^ (b % w)) % 2 ^ w)),
   (.vshr, (fun w a b => a / 2 ^ (b % w))), (.vsra, (fun w a b => ofSigned w (toSigned w a / 2 ^ (b % w)))),
   (.vmin, (fun w a b => ofSigned w (min (toSigned w a) (toSigned w b)))),
   (.vmax, (fun w a b => ofSigned w (max (toSigned w a) (toSigned w b)))),
   (.vminu, (fun _ a b => min a b)), (.vmaxu, (fun _ a b => max a b)), (.vmul, (fun w a b => (a * b) % 2 ^ w))]

end Sys2Proof.Claims

/-- 05 R140, 04 R98: a scalar floating-point row rounds once, raises its flags and writes its result after its latency: FPD
for one cycle and 4 (FP32) or 6 (FP64) cycles, the divider for 12 or 26. 02 R41, R50 to R54, 05 R140: FCMP gives p[RD] the
relation FN names; FCVT converts from the type FN names to TY, narrow integers extended to 32 bits. -/
def Obligations.ScalarFloatingPointRowsComplete : Prop :=
  (∀ row ∈ scalarFpRows, ∀ (s : State) (c : Nat) (p : Pred) (f : FmtR) (fmt : FpFmt) (w d x y z : Nat) (rm : Rm),
    (f.ty = 0 ∧ fmt = fFP64 ∧ w = 64 ∨ f.ty = 1 ∧ fmt = fFP32 ∧ w = 32) →
    rmOf (coreOf s c) f.rm = some rm → scalarDst w f.rd = some d → scalarSrc (coreOf s c) w f.ra = some x →
    (if 2 ≤ row.2.1 then scalarSrc (coreOf s c) w f.rb = some y else y = 0) →
    (if 3 ≤ row.2.1 then scalarSrc (coreOf s c) w f.rc = some z else z = 0) →
    let t := if row.2.2.1 then (if w = 64 then 26 else 12) else (if w = 64 then 6 else 4)
    let needs := if row.2.2.1 then nDIV t else nFPD 1
    Fires s c p → Vacant s c needs →
    exec (row.1 c p f) s = .next (afterIssue s c needs (fun k =>
      putScalar w (raiseFp k (row.2.2.2 fmt rm x y z).2) (s.plane.cyc + t) d (row.2.2.2 fmt rm x y z).1))) ∧
  (∀ (s : State) (c : Nat) (p : Pred) (f : FmtR) (fmt : FpFmt) (w d x y : Nat) (cond : FCond),
    (f.ty = 0 ∧ fmt = fFP64 ∧ w = 64 ∨ f.ty = 1 ∧ fmt = fFP32 ∧ w = 32) → fcondOf f.fn.toNat = some cond → (rmOf (coreOf s c) f.rm).isSome = true →
    pReg f.rd = some d → scalarSrc (coreOf s c) w f.ra = some x → scalarSrc (coreOf s c) w f.rb = some y →
    Fires s c p → Vacant s c (nFPD 1) →
    exec (.fcmp c p f) s = .next (afterIssue s c (nFPD 1) (fun k =>
      addWb (raiseFp k (fpCompare fmt cond x y).2) (s.plane.cyc + if w = 64 then 6 else 4) (.p d)
        (fpCompare fmt cond x y).1.toNat))) ∧
  (∀ (s : State) (c : Nat) (p : Pred) (f : FmtR) (src dst : Ty) (rm : Rm) (d x : Nat) (r : Nat × FFlags),
    tyOf f.ty = some dst → tyOfCode (f.fn.toNat % 32) = some src → rmOf (coreOf s c) f.rm = some rm →
    scalarCvtTy src = true → scalarCvtTy dst = true →
    scalarDst (tyWidth dst) f.rd = some d → scalarSrc (coreOf s c) (tyWidth src) f.ra = some x →
    cvtTy src dst rm f.sat (x % 2 ^ tyWidth src) = some r →
    Fires s c p → Vacant s c (nFPD 1) →
    exec (.fcvt c p f) s = .next (afterIssue s c (nFPD 1) (fun k =>
      putScalar (tyWidth dst) (raiseFp k r.2) (s.plane.cyc + if tyWidth src = 64 ∨ tyWidth dst = 64 then 6 else 4) d
        (extendTo32 dst r.1))))

/-- 05 R143, 02 R35: a vector floating-point row works lane by lane, joins the flags of all lanes and writes vD alone. -/
def Obligations.VectorFloatingPointRowsWorkByLane : Prop :=
  ∀ row ∈ vectorFpRows, ∀ (s : State) (c : Nat) (p : Pred) (f : FmtR) (fmt : FpFmt) (w ra rd : Nat) (rm : Rm) (y z : VWord)
      (narrow : Bool),
    (wideFmt f.ty = some (fmt, w) ∧ narrow = false ∨
      row.2.2.2.1 = true ∧ narrowFmt f.ty = some (fmt, w) ∧ narrow = true) →
    rmOf (coreOf s c) f.rm = some rm → vReg f.ra = some ra → vReg f.rd = some rd →
    (if 2 ≤ row.2.1 then (vReg f.rb).map (vGet (coreOf s c)) = some y else y = 0) →
    (if 3 ≤ row.2.1 then (vReg f.rc).map (vGet (coreOf s c)) = some z else z = 0) →
    Fires s c p → Vacant s c (vfNeed row.2.2.1 narrow w) →
    ∃ (r : VWord) (fl : FFlags),
      (∀ i < 512 / w, laneOf w r i =
        (row.2.2.2.2 fmt rm (laneOf w (vGet (coreOf s c) ra) i) (laneOf w y i) (laneOf w z i)).1 % 2 ^ w) ∧
      (∀ b < 6, fl.getLsbD b = true ↔ ∃ i < 512 / w,
        (row.2.2.2.2 fmt rm (laneOf w (vGet (coreOf s c) ra) i) (laneOf w y i) (laneOf w z i)).2.getLsbD b = true) ∧
      exec (row.1 c p f) s = .next (afterIssue s c (vfNeed row.2.2.1 narrow w) (fun k =>
        addWb (raiseFp k fl) (s.plane.cyc + vfT row.2.2.1 narrow w) (.v rd) r.toNat))

/-- 05 R143: integer lanes wrap, and a row writes every lane of vD and nothing else. -/
def Obligations.VectorIntegerRowsWorkByLane : Prop :=
  ∀ row ∈ vectorIntRows, ∀ (s : State) (c : Nat) (p : Pred) (f : FmtR) (w ra rb rd : Nat),
    intLane f.ty = some w → vReg f.ra = some ra → vReg f.rb = some rb → vReg f.rd = some rd →
    Fires s c p → Vacant s c (nVIU 1) →
    ∃ r : VWord,
      (∀ i < 512 / w, laneOf w r i = row.2 w (laneOf w (vGet (coreOf s c) ra) i) (laneOf w (vGet (coreOf s c) rb) i)) ∧
      exec (row.1 c p f) s = .next (afterIssue s c (nVIU 1) (fun k =>
        { k with wb := k.wb ++ [⟨s.plane.cyc + 2, .v rd, r.toNat⟩] }))

/-- 05 R143: VFCMP gives each lane all ones or all zeros; VPERM picks lanes, VSEL bits, VBCAST copies a scalar to every lane,
VEXT takes one lane to a scalar register, MOVRX a receive register of the mesh to a pair or a vector register. 05 R481: VCVT
converts every lane to a type of the same width, the lowest 1,024 / wt lanes to a wider one in a pair, every lane into the low
lanes of a narrower one with zeros above. -/
def Obligations.VectorComparesMovesAndConversionsComplete : Prop :=
  (∀ (s : State) (c : Nat) (p : Pred) (f : FmtR) (fmt : FpFmt) (w ra rb rd : Nat) (cond : FCond) (narrow : Bool),
    (wideFmt f.ty = some (fmt, w) ∧ narrow = false ∨ narrowFmt f.ty = some (fmt, w) ∧ narrow = true) →
    fcondOf f.fn.toNat = some cond → (rmOf (coreOf s c) f.rm).isSome = true → vReg f.ra = some ra → vReg f.rb = some rb → vReg f.rd = some rd →
    Fires s c p → Vacant s c (vfNeed false narrow w) →
    let at_ := fun i => fpCompare fmt cond (laneOf w (vGet (coreOf s c) ra) i) (laneOf w (vGet (coreOf s c) rb) i)
    ∃ (r : VWord) (fl : FFlags), (∀ i < 512 / w, laneOf w r i = if (at_ i).1 then 2 ^ w - 1 else 0) ∧
      (∀ b < 6, fl.getLsbD b = true ↔ ∃ i < 512 / w, (at_ i).2.getLsbD b = true) ∧
      exec (.vfcmp c p f) s = .next (afterIssue s c (vfNeed false narrow w) (fun k =>
        addWb (raiseFp k fl) (s.plane.cyc + vfT false narrow w) (.v rd) r.toNat))) ∧
  (∀ (s : State) (c : Nat) (p : Pred) (f : FmtR) (w ra rb rd : Nat), Fires s c p → Vacant s c (nVIU 1) → f.fn = 0 →
    anyLane f.ty = some w → vReg f.ra = some ra → vReg f.rb = some rb → vReg f.rd = some rd →
    ∃ r : VWord,
      (∀ i < 512 / w, laneOf w r i = laneOf w (vGet (coreOf s c) ra) (laneOf w (vGet (coreOf s c) rb) i % (512 / w))) ∧
      exec (.vperm c p f) s = .next (afterIssue s c (nVIU 1) (fun k => addWb k (s.plane.cyc + 2) (.v rd) r.toNat))) ∧
  (∀ (s : State) (c : Nat) (p : Pred) (f : FmtR) (ra rb rc rd : Nat), Fires s c p → Vacant s c (nVIU 1) → f.fn = 0 →
    vReg f.ra = some ra → vReg f.rb = some rb → vReg f.rc = some rc → vReg f.rd = some rd →
    ∃ r : VWord, (∀ i < 512, r.getLsbD i =
        if (vGet (coreOf s c) rc).getLsbD i then (vGet (coreOf s c) ra).getLsbD i else (vGet (coreOf s c) rb).getLsbD i) ∧
      exec (.vsel c p f) s = .next (afterIssue s c (nVIU 1) (fun k => addWb k (s.plane.cyc + 2) (.v rd) r.toNat))) ∧
  (∀ (s : State) (c : Nat) (p : Pred) (f : FmtR) (w x rd : Nat), Fires s c p → Vacant s c (nVIU 1) → f.fn = 0 →
    anyLane f.ty = some w → scalarSrc (coreOf s c) w f.ra = some x → vReg f.rd = some rd →
    ∃ r : VWord, (∀ i < 512 / w, laneOf w r i = x % 2 ^ w) ∧
      exec (.vbcast c p f) s = .next (afterIssue s c (nVIU 1) (fun k => addWb k (s.plane.cyc + 2) (.v rd) r.toNat))) ∧
  (∀ (s : State) (c : Nat) (p : Pred) (f : FmtR) (ty : Ty) (w ra rb d : Nat), Fires s c p → Vacant s c (nVIU 1) → f.fn = 0 →
    tyOf f.ty = some ty → anyLane f.ty = some w → vReg f.ra = some ra → sReg f.rb = some rb → scalarDst w f.rd = some d →
    exec (.vext c p f) s = .next (afterIssue s c (nVIU 1) (fun k => putScalar w k (s.plane.cyc + 2) d
      (extendTo32 ty (laneOf w (vGet (coreOf s c) ra) ((sGet (coreOf s c) rb).toNat % (512 / w))))))) ∧
  (∀ (s : State) (c : Nat) (p : Pred) (f : FmtR) (d : Nat), Fires s c p → Vacant s c (nVIU 1) → f.fn = 0 →
    (∀ (r : Fin 8), rxReg f.ra = some r.val → sPair f.rd = some d →
      exec (.movrx c p f) s =
        .next (afterIssue s c (nVIU 1) (fun k => addPair k (s.plane.cyc + 1) d (coreOf s c).rx[r].toNat))) ∧
    (∀ (r : Fin 4), vrxReg f.ra = some r.val → vReg f.rd = some d →
      exec (.movrx c p f) s =
        .next (afterIssue s c (nVIU 1) (fun k => addWb k (s.plane.cyc + 1) (.v d) (coreOf s c).vrx[r].toNat)))) ∧
  (∀ (s : State) (c : Nat) (p : Pred) (f : FmtR) (src dst : Ty) (rm : Rm) (ra : Nat),
    tyOf f.ty = some dst → tyOfCode (f.fn.toNat % 32) = some src → rmOf (coreOf s c) f.rm = some rm →
    tyWidth src ≠ 0 → tyWidth dst ≠ 0 → vReg f.ra = some ra → Fires s c p → Vacant s c (nVIU 2) →
    let ws := tyWidth src
    let wt := tyWidth dst
    let cv := fun i => ((cvtTy src dst rm f.sat (laneOf ws (vGet (coreOf s c) ra) i)).getD (0, 0)).1
    (∀ rd, ws < wt → vPair f.rd = some rd → ∃ (lo hi : VWord) (fl : FFlags),
      (∀ i < 512 / wt, laneOf wt lo i = cv i % 2 ^ wt ∧ laneOf wt hi i = cv (512 / wt + i) % 2 ^ wt) ∧
      exec (.vcvt c p f) s = .next (afterIssue s c (nVIU 2) (fun k =>
        addWb (addWb (raiseFp k fl) (s.plane.cyc + 5) (.v rd) lo.toNat) (s.plane.cyc + 5) (.v (rd + 1)) hi.toNat))) ∧
    (∀ rd, wt ≤ ws → vReg f.rd = some rd → ∃ (r : VWord) (fl : FFlags),
      (∀ i < 512 / wt, laneOf wt r i = if i < 512 / ws then cv i % 2 ^ wt else 0) ∧
      exec (.vcvt c p f) s = .next (afterIssue s c (nVIU 2) (fun k =>
        addWb (raiseFp k fl) (s.plane.cyc + 5) (.v rd) r.toNat))))

/-- 05 R144, 02 R60 to R66: VQMX and VQEB4 give a block's scale byte and its elements, count what they lost, and write MXFP6
elements to local store; VDQMX and VDQEB4 give the values of a block. -/
def Obligations.BlockRowsComplete : Prop :=
  (∀ (s : State) (c : Nat) (p : Pred) (f : FmtR) (fmt : FpFmt) (w ra rc : Nat) (ef : ElemFmt),
    blockWide f = some (fmt, w) → mxElem f.ty = some ef → sReg f.rc = some rc →
    (if w = 32 then vPair f.ra else vReg f.ra) = some ra → Fires s c p →
    let q := mxQuantise ef ((pairLanes (coreOf s c) ra w 32).map (fpDecode fmt))
    (∀ rd, elemWidth ef ≠ 6 → vReg f.rd = some rd → Vacant s c (nVIU 2) →
      exec (.vqmx c p f) s = .next (afterIssue s c (nVIU 2) (fun k =>
        addWb (addWb (addLost (raiseFp k q.flags) q.lost) (s.plane.cyc + 6) (.s rc) q.scale) (s.plane.cyc + 6) (.v rd)
          (natLE (packCodes (elemWidth ef) q.codes))))) ∧
    (∀ rd, elemWidth ef = 6 → sReg f.rd = some rd → Vacant s c (nVIU 2 ++ nLSP) → (coreOf s c).sparseOut = false →
      (sGet (coreOf s c) rd).toNat % 8 = 0 → (sGet (coreOf s c) rd).toNat + 24 ≤ 0xC000 →
      protectedAt (coreOf s c) (sGet (coreOf s c) rd).toNat 24 = [] →
      exec (.vqmx c p f) s = .next (afterIssue s c (nVIU 2 ++ nLSP) (fun k =>
        addWb (addWb (addLost (raiseFp k q.flags) q.lost) (s.plane.cyc + 6) (.s rc) q.scale) (s.plane.cyc + 6)
          (.ls (sGet (coreOf s c) rd).toNat 24) (natLE (packCodes 6 q.codes)))))) ∧
  (∀ (s : State) (c : Nat) (p : Pred) (f : FmtR) (fmt : FpFmt) (w rc rd : Nat) (ef : ElemFmt) (bytes : List Byte),
    blockWide f = some (fmt, w) → mxElem f.ty = some ef → sReg f.rc = some rc →
    (if w = 32 then vPair f.rd else vReg f.rd) = some rd → Fires s c p →
    let needs := nVIU 2 ++ (if elemWidth ef = 6 then nLSP else [])
    Vacant s c needs →
    (elemWidth ef ≠ 6 ∧ (∃ ra, vReg f.ra = some ra ∧ bytes = vecBytes (vGet (coreOf s c) ra)) ∨
      elemWidth ef = 6 ∧ (coreOf s c).sparseOut = false ∧ ∃ ra, sReg f.ra = some ra ∧ (sGet (coreOf s c) ra).toNat % 8 = 0 ∧
        (sGet (coreOf s c) ra).toNat + 24 ≤ 0xC000 ∧ ungated (coreOf s c) (sGet (coreOf s c) ra).toNat 24 = [] ∧
        bytes = memRead (coreOf s c).ls (sGet (coreOf s c) ra).toNat 24) →
    let rs := (unpackCodes (elemWidth ef) 32 bytes).map (mxDecode ef fmt ((sGet (coreOf s c) rc).toNat % 256))
    let lo := packRes w (rs.take (512 / w))
    let hi := packRes w (rs.drop (512 / w))
    exec (.vdqmx c p f) s = .next (afterIssue s c needs (fun k =>
      let k := addWb (raiseFp k (lo.2 ||| hi.2)) (s.plane.cyc + 6) (.v rd) lo.1.toNat
      if w = 32 then addWb k (s.plane.cyc + 6) (.v (rd + 1)) hi.1.toNat else k))) ∧
  (∀ (s : State) (c : Nat) (p : Pred) (f : FmtR) (fmt : FpFmt) (w ra rb rc rd : Nat),
    blockWide f = some (fmt, w) → tyOf f.ty = some .eb4 → sReg f.rc = some rc → sReg f.rb = some rb → vReg f.ra = some ra →
    vReg f.rd = some rd → eb4ScaleOk (sGet (coreOf s c) rb).toNat = true → Fires s c p → Vacant s c (nVIU 2) →
    let t := (sGet (coreOf s c) rb).toNat
    let q := eb4Quantise t ((List.range 16).map (fun i => fpDecode fmt (laneOf w (vGet (coreOf s c) ra) i)))
    let r := packRes w ((List.range 16).map (fun i =>
      eb4Decode fmt t ((sGet (coreOf s c) rc).toNat % 256) (laneOf 4 (vGet (coreOf s c) ra) i)))
    exec (.vqeb4 c p f) s = .next (afterIssue s c (nVIU 2) (fun k =>
      addWb (addWb (addLost (raiseFp k q.flags) q.lost) (s.plane.cyc + 6) (.s rc) q.scale) (s.plane.cyc + 6) (.v rd)
        (natLE (packCodes 4 q.codes)))) ∧
    exec (.vdqeb4 c p f) s = .next (afterIssue s c (nVIU 2) (fun k =>
      addWb (raiseFp k r.2) (s.plane.cyc + 6) (.v rd) r.1.toNat)))

/-- 04 R101, 05 R145: LD gives 4 bytes to a register, 8 to a pair, 64 to a vector register, and changes no memory. 04 R101, 05
R145: ST writes its bytes at the formed address, leaves every other byte of local store and everything else as it was; a result of an earlier
instruction for the same cycle of local store does not come over them. -/
def Obligations.LoadsAndStoresReachTheirBytes : Prop :=
  (∀ (s : State) (c : Nat) (p : Pred) (f : FmtI) (n ra : Nat),
    memSize f.sz = some n → sReg f.ra = some ra →
    let a := (sGet (coreOf s c) ra + f.imm).toNat
    a % n = 0 → a + n ≤ 0xC000 → ungated (coreOf s c) a n = [] → (coreOf s c).sparseOut = false →
    Fires s c p → Vacant s c nLSP →
    let v := natLE (memRead (coreOf s c).ls a n)
    (∀ d, n = 4 → sReg f.rd = some d →
      exec (.ld c p f) s = .next (afterIssue s c nLSP (fun k => addWb k (s.plane.cyc + 3) (.s d) v))) ∧
    (∀ d, n = 8 → sPair f.rd = some d →
      exec (.ld c p f) s = .next (afterIssue s c nLSP (fun k => addPair k (s.plane.cyc + 3) d v))) ∧
    (∀ d, n = 64 → vReg f.rd = some d →
      exec (.ld c p f) s = .next (afterIssue s c nLSP (fun k => addWb k (s.plane.cyc + 4) (.v d) v)))) ∧
  (∀ (s : State) (c : Nat) (p : Pred) (f : FmtI) (n ra v : Nat),
    memSize f.sz = some n → sReg f.ra = some ra →
    (if n = 64 then (vReg f.rd).map (fun i => (vGet (coreOf s c) i).toNat) else scalarSrc (coreOf s c) (8 * n) f.rd) = some v →
    let a := (sGet (coreOf s c) ra + f.imm).toNat
    a % n = 0 → a + n ≤ 0xC000 → protectedAt (coreOf s c) a n = [] → (coreOf s c).sparseOut = false →
    Fires s c p → Vacant s c nLSP →
    ∃ t, exec (.st c p f) s = .next t ∧
      (∀ j < n, memByte (coreOf t c).ls (a + j) = BitVec.ofNat 8 (v / 256 ^ j)) ∧
      (∀ x, x < a ∨ a + n ≤ x → memByte (coreOf t c).ls x = memByte (coreOf s c).ls x) ∧
      t = afterIssue s c nLSP (fun k => storeLs k (s.plane.cyc + 1) a n v))

/-- 04 R104, 05 R145: SLD, SST and IFILL take the serving slot that follows their issue; the line goes to a vector register,
a line of local store or eight instruction words, or comes from a vector register or local store as it is at issue. A line that comes
to local store is checked against protected payloads at issue (the model's choice, log 82). -/
def Obligations.SliverRowsTakeTheirSlot : Prop :=
  ∀ (s : State) (c : Nat) (p : Pred) (f : FmtI) (ra : Nat), sReg f.ra = some ra → Fires s c p →
    let n := s.plane.cyc
    let a := (sGet (coreOf s c) ra + f.imm).toNat
    a % 64 = 0 → a < 0x600000 →
    (∀ d, f.sz = 0 → vReg f.rd = some d → Vacant s c [slotNeed n] →
      exec (.sld c p f) s = .next (afterIssue s c [slotNeed n] (fun k =>
        { k with slots := k.slots ++ [⟨slotStart n, a, some (.v d), 0, k.last⟩] })) ∧
      exec (.sst c p f) s = .next (afterIssue s c [slotNeed n] (fun k =>
        { k with slots := k.slots ++ [⟨slotStart n, a, none, vGet (coreOf s c) d, k.last⟩] }))) ∧
    (∀ d, f.sz = 1 → sReg f.rd = some d → Vacant s c (slotNeed n :: nLSP) → (coreOf s c).sparseOut = false →
      let la := (sGet (coreOf s c) d).toNat
      la % 64 = 0 → la + 64 ≤ 0xC000 →
      (protectedAt (coreOf s c) la 64 = [] →
        exec (.sld c p f) s = .next (afterIssue s c (slotNeed n :: nLSP) (fun k =>
          { k with slots := k.slots ++ [⟨slotStart n, a, some (.ls la 64), 0, k.last⟩] }))) ∧
      (ungated (coreOf s c) la 64 = [] →
        exec (.sst c p f) s = .next (afterIssue s c (slotNeed n :: nLSP) (fun k =>
          { k with slots := k.slots ++ [⟨slotStart n, a, none, vecOfBytes (memRead (coreOf s c).ls la 64), k.last⟩] })))) ∧
    (∀ d, sReg f.rd = some d → Vacant s c [slotNeed n] → (sGet (coreOf s c) d).toNat % 8 = 0 →
      (sGet (coreOf s c) d).toNat ≤ 2040 →
      exec (.ifill c p f) s = .next (afterIssue s c [slotNeed n] (fun k =>
        { k with slots := k.slots ++ [⟨slotStart n, a, some (.is (8 * (sGet (coreOf s c) d).toNat) 64), 0, k.last⟩] })))

/-- 04 R112, R113, 05 R145: SMSEND and SMSENDV put one word and eight words on the static mesh, each in its own cycle, toward
the core at their offsets. -/
def Obligations.MeshSendsInjectTheirWords : Prop :=
  ∀ (s : State) (c : Nat) (p : Pred) (f : FmtI), Fires s c p → meshInside c (meshDx f) (meshDy f) = true →
    let n := s.plane.cyc
    (∀ ra, sPair f.ra = some ra → Vacant s c [⟨.smi, 0, 1⟩] →
      ∃ t, exec (.smsend c p f) s = .next t ∧
        t = { afterIssue s c [⟨.smi, 0, 1⟩] id with plane := { (noteIssue s c false).plane with mesh := s.plane.mesh ++
          [⟨c, (coreOf s c).pc, n, n, toSigned 11 f.imm.toNat, toSigned 11 (f.imm.toNat / 2 ^ 11), false, 0,
            f.imm.toNat / 2 ^ 22 % 8, (pairGet (coreOf s c) ra).toNat⟩] } }) ∧
    (∀ ra, vReg f.ra = some ra → Vacant s c [⟨.smi, 0, 8⟩] →
      let words := (List.range 8).map (fun j => MeshWord.mk c (coreOf s c).pc n (n + j) (toSigned 11 f.imm.toNat)
        (toSigned 11 (f.imm.toNat / 2 ^ 11)) true j (f.imm.toNat / 2 ^ 22 % 4) (vGet (coreOf s c) ra).toNat)
      ∃ t, exec (.smsendv c p f) s = .next t ∧
        t = { afterIssue s c [⟨.smi, 0, 8⟩] id with plane := { (noteIssue s c false).plane with mesh := s.plane.mesh ++ words } })

/-- 04 R118 to R120, R124, 05 R145: OUTPOST checks its descriptor and appends it to the outbox with its payload protected, and
counts a memory request in CORE_CAPO; LBARM arms a buffer once with BASE and LEN and nothing landed. -/
def Obligations.OutpostAndLbarmComplete : Prop :=
  (∀ (s : State) (c : Nat) (p : Pred) (f : FmtI) (ra : Nat), sReg f.ra = some ra →
    let a := (sGet (coreOf s c) ra + f.imm).toNat
    let d := memRead (coreOf s c).ls a 32
    a % 32 = 0 → a + 32 ≤ 0xC000 → ungated (coreOf s c) a 32 = [] → outboxFaults (coreOf s c) d = [] →
    (coreOf s c).sparseOut = false → Fires s c p → Vacant s c (⟨.obp, 0, 8⟩ :: nLSP) →
    ∃ t, exec (.outpost c p f) s = .next t ∧
      (coreOf t c).outbox = (coreOf s c).outbox ++ [⟨s.plane.cyc, .desc d⟩] ∧
      (coreOf t c).capo = (coreOf s c).capo + (if isMemOp d then 1 else 0) ∧
      (coreOf t c).prot = (coreOf s c).prot ++ (if (payloadOf d).2 = 0 then []
        else [⟨s.plane.cyc + 1, (payloadOf d).1, (payloadOf d).1 + (payloadOf d).2⟩]) ∧
      (coreOf t c).gates = (coreOf s c).gates ++ (if 8 ≤ (coreOf s c).outbox.length
        then [⟨s.plane.cyc, (coreOf s c).pc, .outbox, false⟩] else []) ∧
      t = afterIssue s c (⟨.obp, 0, 8⟩ :: nLSP) (fun k => { k with
        outbox := (coreOf t c).outbox, capo := (coreOf t c).capo, prot := (coreOf t c).prot, gates := (coreOf t c).gates })) ∧
  (∀ (s : State) (c : Nat) (p : Pred) (f : FmtI) (ra rd : Nat), sReg f.ra = some ra → sReg f.rd = some rd →
    Fires s c p → Vacant s c nSIU → (sGet (coreOf s c) ra).toNat % 64 = 0 → (sGet (coreOf s c) rd).toNat % 8 = 0 →
    (sGet (coreOf s c) ra).toNat + (sGet (coreOf s c) rd).toNat ≤ 0xC000 → (lbGet (coreOf s c) f.fn.toNat).armed = false →
    exec (.lbarm c p f) s = .next (afterIssue s c nSIU (fun k => lbSet k f.fn.toNat
      ⟨(sGet (coreOf s c) ra).toNat, (sGet (coreOf s c) rd).toNat, 0, true, false, (lbGet k f.fn.toNat).overfill, .plain⟩)))

/-- 05 R146, R148: MSET loads a stream from its descriptor and starts it afresh, MSCALE its scales, MALDA takes the next latch
unit of a stream to the A latch. -/
def Obligations.StreamRowsComplete : Prop :=
  (∀ (s : State) (c : Nat) (p : Pred) (f : FmtI) (ra m : Nat), sReg f.ra = some ra → f.fn.toNat = m → m < 4 →
    let a := (sGet (coreOf s c) ra + f.imm).toNat
    let d := memRead (coreOf s c).ls a 32
    a % 32 = 0 → a + 32 ≤ 0xC000 → ungated (coreOf s c) a 32 = [] → streamDescFaults d = [] →
    (coreOf s c).sparseOut = false → Fires s c p → Vacant s c nLSP →
    ∃ ty, tyOfCode (fieldLE d 4 1) = some ty ∧
      exec (.mset c p f) s = .next (afterIssue s c nLSP (fun k => setStream k m
        ⟨true, fieldLE d 0 2, fieldLE d 2 2, ty, fieldLE d 8 4, fieldLE d 12 4, 0, (stream k m).scales, 0, []⟩))) ∧
  (∀ (s : State) (c : Nat) (p : Pred) (f : FmtR) (ra m : Nat), vReg f.ra = some ra → f.fn.toNat = m → m < 4 →
    Fires s c p → Vacant s c (nVIU 1) →
    exec (.mscale c p f) s = .next (afterIssue s c (nVIU 1) (fun k => setStream k m
      { stream k m with scales := vGet (coreOf s c) ra, scalePos := 0 }))) ∧
  (∀ (s : State) (c : Nat) (p : Pred) (f : FmtI) (m : Nat) (els : List (Nat × Nat)) (st' : Stream) (reads : Bool),
    f.fn.toNat = m → m < 4 →
    let st := stream (coreOf s c) m
    takeOf (coreOf s c) m (latchElems ((classOfTy st.ty).getD .f64)) = (some (els, st', reads), []) →
    (coreOf s c).sparseOut = false → Fires s c p → Vacant s c nLSP →
    exec (.malda c p f) s = .next (afterIssue s c nLSP (fun k =>
      { setStream k m st' with aLatch := some ⟨st.ty, els, st.t⟩ })))

/-- 05 R149, 03 R71, R84, R89: MMA takes one step of stream MSB and appends, in each of the L lanes of its class, the products
with the selected group of the A latch to that lane's entry, initialised first where INIT asks for it; a full group enters the
pipeline six cycles later. No register, no store and no other entry changes. 05 R150, 03 R91, R92: ACCINIT and ACCLD give
entries a value and a format in direct mode, two cycles later, and where the pipeline has done nothing in this cycle touch no other
entry; DRAIN sends the open groups and then the sums to the drain latch; ACCRD reads entries or latched values to a vector register,
rounded to nearest. -/
def Obligations.AccumulationRowsComplete : Prop :=
  (∀ (s : State) (c : Nat) (p : Pred) (f : FmtM) (cls : MClass) (fmt : AccFmt) (mode : AccMode) (la : ALatch)
      (els : List (Nat × Nat)) (st' : Stream) (reads : Bool),
    let st := stream (coreOf s c) f.msb.toNat
    let g := laneElems cls
    let idx := 64 * f.acc.toNat + f.ent.toNat
    mmaForm (coreOf s c) f = some (cls, fmt, mode, la) → tyOf f.tyb = some st.ty →
    takeOf (coreOf s c) f.msb.toNat (stepElems cls) = (some (els, st', reads), []) →
    (reads = true → (coreOf s c).sparseOut = false) → Fires s c p →
    Vacant s c (⟨mxRes cls, 0, 1⟩ :: nACC ++ (if reads then nLSP else [])) →
    let a := opndsOf la.ty fmt la.t (sliceOf la.elems (f.esel.toNat * g) g)
    let b := opndsOf st.ty fmt st.t els
    ∃ t, exec (.mma c p f) s = .next t ∧
      (∀ l < lanesOfClass cls,
        let e := accGet (coreOf s c) (idx + l)
        let ctx := if f.init then mmaCtx (coreOf s c) (idx + l) fmt mode
          else if e.ctx.live then e.ctx else ⟨true, fmt, .direct, 0, 0⟩
        let all := (if f.init then [] else e.opn) ++ a.zip (sliceOf b (l * g) g)
        accGet (coreOf t c) (idx + l) = { e with
          ctx := ctx, sumFmt := if f.init || e.ctx.live then e.sumFmt else fmt, cls := cls, sr := f.sr
          opn := if all.length < groupSize cls then all else all.drop (groupSize cls) } ∧
        (f.init = true → ⟨s.plane.cyc + 6, .start (idx + l) ctx, (coreOf s c).pc⟩ ∈ (coreOf t c).mx) ∧
        (groupSize cls ≤ all.length →
          ⟨s.plane.cyc + 6, .group (idx + l) (all.take (groupSize cls)) ctx cls f.sr, (coreOf s c).pc⟩ ∈ (coreOf t c).mx)) ∧
      (∀ i, i < idx ∨ idx + lanesOfClass cls ≤ i → accGet (coreOf t c) i = accGet (coreOf s c) i) ∧
      t = afterIssue s c (⟨mxRes cls, 0, 1⟩ :: nACC ++ (if reads then nLSP else [])) (fun k =>
        { setStream k f.msb.toNat st' with acc := (coreOf t c).acc, mx := (coreOf t c).mx })) ∧
  (∀ (s : State) (c : Nat) (p : Pred) (f : FmtA) (fmt : AccFmt), accOfCode f.af.toNat = some fmt → f.acc.toNat ≤ 4 →
    Fires s c p → Vacant s c (nVIU 1 ++ nACC) →
    ∃ t, exec (.accinit c p f) s = .next t ∧
      (∀ i < 256, f.acc.toNat = 4 ∨ i / 64 = f.acc.toNat →
        (accGet (coreOf t c) i).ctx = ⟨true, fmt, .direct, 0, 0⟩ ∧ (accGet (coreOf t c) i).opn = [] ∧
        (∃ old, ⟨s.plane.cyc + 2, .load i fmt 0 old, (coreOf s c).pc⟩ ∈ (coreOf t c).mx) ∧
        ⟨s.plane.cyc + 2, .clearLatch i fmt, (coreOf s c).pc⟩ ∈ (coreOf t c).mx) ∧
      ((coreOf s c).undo = none →
        (∀ i < 256, f.acc.toNat ≠ 4 → i / 64 ≠ f.acc.toNat → accGet (coreOf t c) i = accGet (coreOf s c) i) ∧
        t = afterIssue s c (nVIU 1 ++ nACC) (fun k => { k with acc := (coreOf t c).acc, mx := (coreOf t c).mx }))) ∧
  (∀ (s : State) (c : Nat) (p : Pred) (f : FmtA) (fmt : AccFmt) (v : Nat),
    let w := tyWidth (tyOfAcc fmt)
    let idx := 64 * f.acc.toNat + f.ent.toNat
    accOfCode f.af.toNat = some fmt → vReg f.rv = some v → f.acc.toNat < 4 → tyOf f.ty = some (tyOfAcc fmt) →
    f.ent.toNat + 512 / w ≤ 64 → Fires s c p → Vacant s c (nVIU 1 ++ nACC) →
    ∃ t, exec (.accld c p f) s = .next t ∧
      (∀ j < 512 / w,
        (accGet (coreOf t c) (idx + j)).ctx = ⟨true, fmt, .direct, 0, 0⟩ ∧ (accGet (coreOf t c) (idx + j)).opn = [] ∧
        ∃ old, ⟨s.plane.cyc + 2, .load (idx + j) fmt (BitVec.ofNat 64 (laneOf w (vGet (coreOf s c) v) j)) old, (coreOf s c).pc⟩ ∈
          (coreOf t c).mx) ∧
      ((coreOf s c).undo = none →
        (∀ i < 256, i < idx ∨ idx + 512 / w ≤ i → accGet (coreOf t c) i = accGet (coreOf s c) i) ∧
        t = afterIssue s c (nVIU 1 ++ nACC) (fun k => { k with acc := (coreOf t c).acc, mx := (coreOf t c).mx }))) ∧
  (∀ (s : State) (c : Nat) (p : Pred) (f : FmtA), f.acc.toNat ≤ 4 → Fires s c p → Vacant s c nACC →
    ∃ t, exec (.drain c p f) s = .next t ∧
      (∀ i < 256, f.acc.toNat = 4 ∨ i / 64 = f.acc.toNat →
        let e := accGet (coreOf s c) i
        accGet (coreOf t c) i = { e with opn := [] } ∧ ⟨s.plane.cyc + 6, .drain i e.ctx, (coreOf s c).pc⟩ ∈ (coreOf t c).mx ∧
        (e.opn ≠ [] → ⟨s.plane.cyc + 6, .group i e.opn e.ctx e.cls e.sr, (coreOf s c).pc⟩ ∈ (coreOf t c).mx)) ∧
      (∀ i, f.acc.toNat ≠ 4 → i / 64 ≠ f.acc.toNat → accGet (coreOf t c) i = accGet (coreOf s c) i) ∧
      t = afterIssue s c nACC (fun k => { k with acc := (coreOf t c).acc, mx := (coreOf t c).mx })) ∧
  (∀ (s : State) (c : Nat) (p : Pred) (f : FmtA) (ty : Ty) (v : Nat),
    let w := tyWidth ty
    let idx := 64 * f.acc.toNat + f.ent.toNat
    let one := fun i =>
      if f.latch then (cvtTy (tyOfAcc (latchGet (coreOf s c) i).fmt) ty .ne false (latchGet (coreOf s c) i).val.toNat).getD (0, 0)
      else (cvtTy (tyOfAcc (accGet (coreOf s c) i).sumFmt) ty .ne false (accGet (coreOf s c) i).sum.toNat).getD (0, 0)
    tyOf f.ty = some ty → vReg f.rv = some v → f.acc.toNat < 4 → (ty = .fp64 ∨ ty = .fp32 ∨ ty = .int32) →
    f.ent.toNat + 512 / w ≤ 64 → Fires s c p → Vacant s c (nVIU 1 ++ nACC) →
    ∃ (r : Nat) (fl : FFlags), (∀ j < 512 / w, (r / 2 ^ (w * j)) % 2 ^ w = (one (idx + j)).1 % 2 ^ w) ∧
      (∀ b < 6, fl.getLsbD b = true ↔ ∃ j < 512 / w, (one (idx + j)).2.getLsbD b = true) ∧
      exec (.accrd c p f) s = .next (afterIssue s c (nVIU 1 ++ nACC) (fun k =>
        addWb (raiseFp k fl) (s.plane.cyc + 3) (.v v) r)))

namespace Sys2Proof.Claims

/-- The post of a fused instruction with descriptor `d` on course entry `ct`, ordinal `seq` (05 R154, R155). -/
def fusedPost (d : CollDesc) (kind ct seq : Nat) (vals : List Byte) (ranges : List (Nat × Nat)) : CollPost :=
  ⟨kind, ct, seq, d.rlb, if kind = 1 then d.nlb else 0, d.tyb, d.wire, d.rop, d.exact, d.n, d.kp,
    if kind = 5 then d.root else 0, vals, ranges⟩

/-- The plane-hold request of a post that finds eight entries or more (04 R124). -/
def postGates (s : State) (c : Nat) : List Gate :=
  if 8 ≤ (coreOf s c).outbox.length then [⟨s.plane.cyc, (coreOf s c).pc, .outbox, false⟩] else []

/-- The byte ranges a post protects (04 R119). -/
def postRanges (s : State) (rs : List (Nat × Nat)) : List Protect :=
  (rs.filter (fun r => r.2 ≠ 0)).map (fun r => ⟨s.plane.cyc + 1, r.1, r.1 + r.2⟩)

end Sys2Proof.Claims

/-- 05 R154, R155, 11 R286: a fused instruction whose checks pass uses up its ordinal on its course and is known by its post.
ACC.AR, XCH.V and GTH.V put the post in the outbox and protect what it sends; MM.AG does so and starts the sequencer 40
cycles later, MM.RS starts it in the next cycle. No register and no byte of local store changes, nor any other core. -/
def Obligations.FusedRowsPostTheirInstance : Prop :=
  ∀ (s : State) (c : Nat) (p : Pred) (f : FmtX) (ra r : Nat) (e : Course),
    sReg f.ra = some ra →
    let a := (sGet (coreOf s c) ra + f.imm).toNat
    let d := collDescOf (memRead (coreOf s c).ls a 64)
    let ct := f.ct.toNat
    let seq := smGet 0 (coreOf s c).collOrd ct
    let ok := fun (kind : Nat) (own : Core → CollDesc → Option (Course × Nat) → List Nat) =>
      fusedFaults (coreOf s c) a kind (some (e, r)) seq (own (coreOf s c) d) = []
    fusedCourse s c ct = some (e, r) → (coreOf s c).sparseOut = false → Fires s c p →
    (ok 3 ownAccAr → Vacant s c (nLSP ++ ⟨.obp, 0, 8⟩ :: nACC) →
      let w := wireBytes (coreOf s c) ((tyOfCode d.wire).getD .fp32)
        (if d.srcacc = 4 then d.e0 else 64 * d.srcacc + d.e0) d.n
      let post := fusedPost d 3 ct seq w.1 []
      ∃ t, exec (.accAr c p f) s = .next t ∧ (∀ b, b ≠ c → coreOf t b = coreOf s b) ∧
        coreOf t c = (let k := raiseFp (retire (coreOf s c) s.plane.cyc (nLSP ++ ⟨.obp, 0, 8⟩ :: nACC)) w.2
          { k with outbox := k.outbox ++ [⟨s.plane.cyc, .coll post⟩], gates := k.gates ++ postGates s c
                   collOrd := smSet 0 k.collOrd ct (seq + 1), fused := k.fused ++ [post] })) ∧
    (ok 4 ownXchV → Vacant s c (nLSP ++ [⟨.obp, 0, 8⟩, ⟨.lsp, 1, ceilDiv (8 * e.p) 64⟩]) →
      let table := sendTable (coreOf s c) d.slsa e.p
      let post := fusedPost d 4 ct seq [] table
      ∃ t, exec (.xchV c p f) s = .next t ∧ (∀ b, b ≠ c → coreOf t b = coreOf s b) ∧
        coreOf t c = (let k := retire (coreOf s c) s.plane.cyc (nLSP ++ [⟨.obp, 0, 8⟩, ⟨.lsp, 1, ceilDiv (8 * e.p) 64⟩])
          { k with outbox := k.outbox ++ [⟨s.plane.cyc, .coll post⟩], gates := k.gates ++ postGates s c
                   prot := k.prot ++ postRanges s table, collOrd := smSet 0 k.collOrd ct (seq + 1)
                   fused := k.fused ++ [post], lb := (coreOf t c).lb }) ∧
        (∀ b, b ≠ d.rlb → lbGet (coreOf t c) b = lbGet (coreOf s c) b) ∧ (lbGet (coreOf t c) d.rlb).rule ≠ .plain) ∧
    (ok 5 ownGthV → Vacant s c (nLSP ++ [⟨.obp, 0, 8⟩]) →
      let post := fusedPost d 5 ct seq [] [(d.slsa, d.slen)]
      ∃ t, exec (.gthV c p f) s = .next t ∧ (∀ b, b ≠ c → coreOf t b = coreOf s b) ∧
        coreOf t c = (let k := retire (coreOf s c) s.plane.cyc (nLSP ++ [⟨.obp, 0, 8⟩])
          { k with outbox := k.outbox ++ [⟨s.plane.cyc, .coll post⟩], gates := k.gates ++ postGates s c
                   prot := k.prot ++ postRanges s [(d.slsa, d.slen)], collOrd := smSet 0 k.collOrd ct (seq + 1)
                   fused := k.fused ++ [post], lb := (coreOf t c).lb }) ∧
        (∀ b, b ≠ d.rlb ∨ r ≠ d.root → lbGet (coreOf t c) b = lbGet (coreOf s c) b)) ∧
    (ok 1 ownMmAg → Vacant s c (nLSP ++ ⟨.obp, 0, 8⟩ :: productNeeds d e.p 40 d.drain) →
      ∃ t ta tb cl fmt pb, exec (.mmAg c p f) s = .next t ∧ (∀ b, b ≠ c → coreOf t b = coreOf s b) ∧
        fusedForm d = some (ta, tb, cl, fmt) ∧ pb = d.kp * d.n * elemBits tb / 8 ∧
        (coreOf t c).outbox = (coreOf s c).outbox ++
          [⟨s.plane.cyc, .coll (fusedPost d 1 ct seq [] [((stream (coreOf s c) d.msb).base, pb)])⟩] ∧
        (coreOf t c).collOrd = smSet 0 (coreOf s c).collOrd ct (seq + 1) ∧
        (∃ q, (coreOf t c).seq = some q ∧ q.start = s.plane.cyc + 40 ∧ q.mode = .bowed ∧ q.n = d.n ∧ q.kp = d.kp ∧
          q.drain = d.drain ∧ q.pieces.length = e.p ∧ q.post = none) ∧
        (coreOf t c).s = (coreOf s c).s ∧ (coreOf t c).p = (coreOf s c).p ∧ (coreOf t c).v = (coreOf s c).v ∧
        (coreOf t c).ls = (coreOf s c).ls) ∧
    (ok 2 ownMmRs → Vacant s c (nLSP ++ (productNeeds d 1 1 true ++
        match fusedForm d with | some (_, _, cl, _) => [⟨.obp, productLen d cl 1 + 7, 8⟩] | none => [])) →
      ∃ t, exec (.mmRs c p f) s = .next t ∧ (∀ b, b ≠ c → coreOf t b = coreOf s b) ∧
        (coreOf t c).outbox = (coreOf s c).outbox ∧ (coreOf t c).collOrd = smSet 0 (coreOf s c).collOrd ct (seq + 1) ∧
        (∃ q, (coreOf t c).seq = some q ∧ q.start = s.plane.cyc + 1 ∧ q.mode = .direct ∧ q.n = d.n ∧ q.kp = d.kp ∧
          q.drain = true ∧ q.pieces = [none] ∧ q.post = some (fusedPost d 2 ct seq [] [])) ∧
        (coreOf t c).s = (coreOf s c).s ∧ (coreOf t c).p = (coreOf s c).p ∧ (coreOf t c).v = (coreOf s c).v ∧
        (coreOf t c).ls = (coreOf s c).ls)

namespace Sys2Proof.Claims

/-- The sparse-unit rows: their number and the checks of their descriptor (06). -/
def sparseRows : List ((Nat → Pred → FmtI → Instr) × Nat × (List Byte → List Nat)) :=
  [(.spdot, 1, spdotFaults), (.spcompress, 2, spcompressFaults), (.spbin, 3, spbinFaults), (.spmask, 4, spmaskFaults)]

end Sys2Proof.Claims

/-- 06 R158 to R162, R169, R176, R177, R181: a sparse-unit row starts the unit on the descriptor it read, from the next tuning count
to the seventh after its run, SPJOIN is a gate on it, SPMERGE posts the core's pairs and protects them. -/
def Obligations.SparseRowsStartTheUnit : Prop :=
  (∀ row ∈ sparseRows, ∀ (s : State) (c : Nat) (p : Pred) (f : FmtI) (ra : Nat), sReg f.ra = some ra → f.fn = 0 →
    let a := (sGet (coreOf s c) ra + f.imm).toNat
    let d := memRead (coreOf s c).ls a 64
    a % 64 = 0 → a + 64 ≤ 0xC000 → ungated (coreOf s c) a 64 = [] → row.2.2 d = [] → (coreOf s c).sparseOut = false →
    Fires s c p → Vacant s c nLSP →
    exec (row.1 c p f) s = .next (afterIssue s c nLSP (fun k =>
      { k with sparseOut := true, sparseAt := s.plane.cyc
               sparse := .running row.2.1 d (s.count + 1)
                 (s.count + 1 + sparseLen (sparsePoison s c) row.2.1 (coreOf s c).ls d + 7) }))) ∧
  (∀ (s : State) (c : Nat) (p : Pred) (f : FmtC), Fires s c p → Vacant s c nSIU →
    exec (.spjoin c p f) s = .next (afterIssue s c nSIU (fun k => { k with
      gates := k.gates ++ [⟨s.plane.cyc, (coreOf s c).pc, .spjoin,
        match k.sparse with | .running _ _ _ _ => false | _ => true⟩] }))) ∧
  (∀ (s : State) (c : Nat) (p : Pred) (f : FmtI) (ra : Nat), sReg f.ra = some ra → f.fn = 0 →
    let a := (sGet (coreOf s c) ra + f.imm).toNat
    let d := memRead (coreOf s c).ls a 32
    let n := fieldLE d 10 2 * (if fieldLE d 1 1 = 1 then 16 else 8)
    a % 32 = 0 → a + 32 ≤ 0xC000 → ungated (coreOf s c) a 32 = [] → mergeFaults d = [] → (coreOf s c).sparseOut = false →
    Fires s c p → Vacant s c (⟨.obp, 0, 8⟩ :: nLSP) →
    exec (.spmerge c p f) s = .next (afterIssue s c (⟨.obp, 0, 8⟩ :: nLSP) (fun k => { k with
      outbox := k.outbox ++ [⟨s.plane.cyc, .merge d⟩], gates := k.gates ++ postGates s c
      prot := k.prot ++ postRanges s [(fieldLE d 8 2, n)] })))

/-- 06 R158, R161, R169: SPARSE_RUN_DONE takes the module to the count from which the unit is idle; a run that is over has left its
bytes in local store and its findings, its length among them, for the join. With a plane that stands still nothing else of the core
changes, nor a core whose unit does not run. 06 R174: bit r of the bytes SPMASK writes is one except where score + BAND is below
THETA; bytes beyond them stay. How long a run with a faulting row takes is a free value (the model's, log 27). -/
def Obligations.SparseRunLeavesItsFindings : Prop :=
  (∀ (s : State) (c op st idle : Nat) (d : List Byte), c < coreCount → (coreOf s c).sparse = .running op d st idle →
    clocksRun s = true → s.plane.halted = none →
    exec (.sparseRunDone c) s = .next (passTo s idle) ∧
    ((coreOf s c).ecc = Ecc.none → s.muted = false → s.count < idle → muteDue s idle = false → s.plane.run = .paused → s.plane.held = true →
      1 ≤ pwrState s →
      let x := sparseRun (sparsePoison s c) op (coreOf s c).ls d
      ∃ t, exec (.sparseRunDone c) s = .next t ∧ t.count = idle ∧
        coreOf t c = { coreOf s c with ls := x.1, sparse := .finished { x.2 with run := idle - st - 7 } } ∧
        (∀ b, sparseRuns (coreOf s b) = false → coreOf t b = coreOf s b) ∧ t = { s with count := idle, cores := t.cores })) ∧
  (∀ (poison : Bool) (x op st idle : Nat) (d : List Byte) (k : Core), k.sparse = .running op d st idle →
    (x < idle → sparseAtCount poison x k = k) ∧
    (idle ≤ x → k.ecc = Ecc.none → sparseAtCount poison x k = (let y := sparseRun poison op k.ls d
      { k with ls := y.1, sparse := .finished { y.2 with run := idle - st - 7 } }))) ∧
  (∀ (poison : Bool) (ls : Memory) (d : List Byte) (r : Nat), r < fieldLE d 8 2 →
    let out := fieldLE d 26 2
    let m := (sparseRun poison 4 ls d).1
    ((memByte m (out + r / 8)).getLsbD (r % 8) = maskBit (fieldLE d 32 4) (fieldLE d 36 4)
      (natLE (memRead ls (fieldLE d 16 2 + 4 * r) 4))) ∧
    (∀ x, x < out ∨ out + (fieldLE d 8 2 + 7) / 8 ≤ x → memByte m x = memByte ls x))

-- The plane's events ------------------------------------------------------------------------------------------------

/-- 04 R125, R132, 13 R349, 16 R420: RUN_START starts the armed run at its count in issue cycle 0; PLANE_HOLD takes force before
the next cycle issues; RELEASE_SAMPLE takes the sample of the next count h + 128 m, 40 counts before it, releases the hold when
no request is left and keeps it while one is; GOVERNOR_FRAME holds the running plane at the frame's first count and counts the frame. -/
def Obligations.PlaneEventsTakeForce : Prop :=
  (∀ (s : State) (l : Nat), s.plane.run = .armed → clocksRun s = true → startCount s = some l → s.count < l →
    muteDue s l = false → exec .runStart s = .next (startRun s l) ∧ (startRun s l).count = l ∧
      ((∀ e ∈ s.cores, e.2.seq = none ∧ e.2.slots = [] ∧ e.2.mx = [] ∧ e.2.ecc = Ecc.none) → s.plane.mesh = [] →
        (startRun s l).plane.run = .running ∧ (startRun s l).plane.cyc = 0 ∧ (startRun s l).plane.held = false)) ∧
  (∀ (s : State), planeRuns s = true → holdDue s (s.plane.cyc + 1) = true → muteDue s (s.count + 1) = false →
    (∀ e ∈ s.cores, e.2.ecc.marks = [] ∧ sparseRuns e.2 = false) →
    ∃ t, exec .planeHold s = .next t ∧ t.plane.held = true ∧ t.plane.cyc = s.plane.cyc + 1 ∧ t.count = s.count + 1 ∧
      t.plane.holdAt = s.count + 1 ∧ regBits t (dcs TUN 0x300) 8 8 = 1 ∧ t.cores = s.cores ∧ t.dram = s.dram) ∧
  (∀ (s : State), takesSamples s = true → muteDue s (nextSample s) = false → s.plane.sample = none →
    s.count < nextSample s - 40 → Canonical s →
    ∃ t, exec .releaseSample s = .next t ∧ t.count = nextSample s ∧
      ((∃ e ∈ s.cores, ∃ g ∈ e.2.gates, g.ok = false ∧ gateSat e.2 g = false ∧ sparseRuns e.2 = false) →
        t.plane.held = true) ∧
      (s.plane.run = .running → s.plane.stepEnd = none → governorAt s (nextSample s) = false →
        (∀ e ∈ s.cores, ∀ g ∈ e.2.gates, g.ok = true) → t.plane.held = false)) ∧
  (∀ (s : State) (f : Nat), planeRuns s = true → pwrState s = 0 → s.count + 1 = 128 * f →
    governorFrame (holdDuty s) f = true → muteDue s (s.count + 1) = false → (∀ e ∈ s.cores, e.2.ecc.marks = []) →
    ∃ t, exec .governorFrame s = .next t ∧ t.plane.held = true ∧ t.count = 128 * f ∧ t.plane.holdAt = 128 * f ∧
      regNat t (dcs SP 0x200028) 2 = min (2 ^ 64 - 1) (regNat s (dcs SP 0x200028) 2 + 1))

/-- 16 R417, R418, R421, R423: GOVERNOR_PERIOD takes its measurements into the history, sets the duty and the status bits by the
tests of the period and reports the measurements; the duty stays between its floor and 64. WEAR_LOG_WRITE puts TIME95 and
TRIPS into flash in A0. -/
def Obligations.GovernorPeriodSetsTheDuty : Prop :=
  (∀ (s : State) (m : Sensors), (Instr.governorPeriod m).wf = true → soundpostRuns s = true →
    let p := passTo s (periodEnd s)
    p.muted = false →
    let hist := (m.power :: p.gov.hist).take 20028
    let a := sumA hist (p.gov.first.getD m.power)
    let b := countB hist (govSustain p)
    let v := verdict (if b < 1987 then govPeak p else govSustain p) (govSustain p) (govTlim p) m.power a m.tLogic m.tDram
    ∃ t, exec (.governorPeriod m) s = .next t ∧ t.gov.hist = hist ∧ t.gov.endAt = some (periodEnd s) ∧
      holdDuty t = (nextDuty v (govFloor p) (holdDuty p) p.gov.underRun).1 ∧
      t.gov.underRun = (nextDuty v (govFloor p) (holdDuty p) p.gov.underRun).2 ∧
      regBits t (dcs SP 0x200008) 12 12 = (if 1987 ≤ b then 1 else 0) ∧
      regBits t (dcs SP 0x200008) 13 13 = (if v.isOver then 1 else 0) ∧
      regBits t (dcs SP 0x200008) 14 14 = (if v.isHot then 1 else 0) ∧
      regBits t (dcs SP 0x200018) 31 0 = m.power ∧ regBits t (dcs SP 0x200030) 31 0 = m.volt ∧
      regBits t (dcs SP 0x200030) 63 32 = m.amp) ∧
  (∀ (v : Verdict) (floor d run : Nat), floor ≤ 64 → d ≤ 64 →
    floor ≤ (nextDuty v floor d run).1 ∧ (nextDuty v floor d run).1 ≤ 64 ∧ (v.isOver = true → d ≤ (nextDuty v floor d run).1)) ∧
  (∀ (s : State), soundpostRuns s = true → pwrState s = 0 →
    ∃ t, exec .wearLogWrite s = .next t ∧ t.flash.rpa.time95 = s.gov.time95 ∧ t.flash.rpa.trips = s.gov.trips ∧
      t = { s with flash := { s.flash with rpa := t.flash.rpa } } ∧
      t.flash.rpa = { s.flash.rpa with time95 := s.gov.time95, trips := s.gov.trips }.written)

/-- 16 R422, R431, R433, 18 R461, R462: a trip takes the power of tiles, DRAM and Bridges, sets TRIPPED, VOIDSTAT and ALARM_N,
and a thermal one counts in TRIPS and flash; a module already TRIPPED takes none. POWER_LOSS loses all that is volatile and
keeps flash, but for an image write under way; POWER_UP stands the module in its Cold reset. -/
def Obligations.TripsAndPowerComplete : Prop :=
  (∀ (s : State), s.life = .up → pwrState s ≠ 4 → s.mute.waiting = [] → s.exec.draining = none →
    ∀ x ∈ [(Instr.thermalTrip, s.gov.trips + 1), (Instr.powerTrip, s.gov.trips), (Instr.undervoltageStop, s.gov.trips)],
      ∃ t, exec x.1 s = .next t ∧ pwrState t = 4 ∧ t.cores = [] ∧ t.tiles = [] ∧ t.bridges = [] ∧ t.dram = [] ∧
        t.pins.alarmN = false ∧ t.life = .up ∧ t.muted = false ∧ t.gov.trips = x.2 ∧
        (x.1 = .thermalTrip → t.flash.rpa.trips = s.gov.trips + 1) ∧ regBits t (dcs SP 0x440) 0 0 = 1) ∧
  (∀ (s : State), s.life = .up → pwrState s = 4 →
    exec .thermalTrip s = .next s ∧ exec .powerTrip s = .next s ∧ exec .undervoltageStop s = .next s) ∧
  (∀ (s : State), ∃ t, exec .powerLoss s = .next t ∧ t.life = .off ∧ (s.exec.queue = [] → t.flash = s.flash) ∧
    t.flash.rpa = s.flash.rpa ∧ t.out = s.out ∧ t.regs = [] ∧
    t.cores = [] ∧ t.tiles = [] ∧ t.bridges = [] ∧ t.dram = [] ∧ t.mbx = [] ∧ t.image = none ∧ t.booted = Booted.none ∧
    t.gov = Governor.reset ∧ t.plane = Plane.reset) ∧
  (∀ (s : State), s.life = .off → exec .powerUp s = .next { s with life := .inReset, due := some .cold })

/-- 15 R403, R411, 16 R425, R428, R433, R434: COLD_RESET and WARM_RESET hold the module in reset with plane, cores, memory and
keys gone and the flash as it was, but for an image write under way; BOOT without a valid factory region halts, and one that releases the Soundpost counts in
BOOTS; DEVICE_RESET performs the reset that is due. -/
def Obligations.ResetsAndBootComplete : Prop :=
  (∀ (s : State), s.life ≠ .off →
    ∀ x ∈ [(Instr.coldReset, DeviceCause.cold),
        (Instr.warmReset, if s.due = some .cold ∧ s.life ≠ .up then DeviceCause.cold else DeviceCause.warm)],
      ∃ t, exec x.1 s = .next t ∧ t.life = .inReset ∧ t.due = some x.2 ∧ t.cores = [] ∧ t.dram = [] ∧ t.bridges = [] ∧
        t.tiles = [] ∧ t.image = none ∧ t.plane = Plane.reset ∧ t.count = 0 ∧ t.muted = false ∧ t.booted = Booted.none ∧
        t.exec = Exec.reset ∧ t.pins.alarmN = true ∧ (s.exec.queue = [] → t.flash = s.flash) ∧ t.flash.rpa = s.flash.rpa ∧
        t.gov.time95 = s.gov.time95 ∧ t.gov.trips = s.gov.trips ∧
        regBits t (dcs SP 0x20) 3 3 =
          (if pwrState s = 4 ∨ (s.life ≠ .up ∧ regBits s (dcs SP 0x20) 3 3 = 1) then 1 else 0)) ∧
  (∀ (s : State), s.life = .inReset → bootFactory s = none →
    ∃ t, exec .boot s = .next t ∧ t.life = .bootHalt ∧ t.pins.alarmN = false ∧ t.flash = s.flash ∧
      regWord t (dcs SEC 0) = 0x101 ∧ t = { s with life := t.life, pins := t.pins, regs := t.regs }) ∧
  (∀ (s : State), s.life = .inReset → ∃ t, exec .boot s = .next t ∧ (t.life = .bootHalt ∨ t.life = .released) ∧
      (t.life = .released → t.flash.rpa.boots = s.flash.rpa.boots + 1 ∧ regWord t (dcs SEC 0) = 9 ∧
        ∃ c, bootFactory s = some (c, t.booted.factory))) ∧
  (∀ (s : State) (c : DeviceCause), s.life = .up ∨ s.life = .released → s.muted = false → s.due = some c →
    ∃ t, exec .deviceReset s = .next t ∧ t.life = .up ∧ t.due = none ∧ t.image = none ∧ t.cores = [] ∧
      t.plane = Plane.reset ∧ t.dir = [] ∧ t.recalls = [] ∧ t.copy = [] ∧ t.mute = Mute.reset ∧ t.exec.queue = [] ∧
      t.flash = s.flash)

-- Links -------------------------------------------------------------------------------------------------------------

/-- 07 R190, R480, 16 R425, 18 R472: ENABLE 0 to 1 starts training at once, ENABLE 1 to 0 takes the link to DISABLED, from UP
at the next frame boundary; RETRAIN resets the link; a changed BRG_PEERSN restarts training; group lock leads from TRAINING to
EXCHANGE, and a lost signal back. 18 R469 to R472, 17 R450: a Bridge in UP sends its next unacknowledged flits with their
number, its credits and a valid LCRC; in EXCHANGE the three identity words in rotation, and with a verdict of mismatch it goes to
MISMATCH once the verdict has been sent; in no other state anything. A group
whose LCRC fails is asked for again and nothing of it is taken; a good one without flits releases what it acknowledges and
adds its credits; a muted Bridge discards it and counts its flits. -/
def Obligations.LinksMoveAndExchangeGroups : Prop :=
  (∀ (s : State) (d : Nat), isBridge d = true →
    (Served s d → regBits s (dcs d 0x34) 0 0 = 0 → linkState s d ≠ lsUP →
      ∃ t, exec (.linkEnable d) s = .next t ∧ regBits t (dcs d 0x34) 0 0 = 1 ∧ (bridge t d).link = freshLink s d ∧
        linkState t d = (if regBits s (dcs d 0x0) 8 8 = 1 ∧ regBits s (dcs d 0x10) 16 16 = 1
          then (if configOk s d then lsTRAINING else lsCONFIG) else lsDISABLED) ∧
        (∀ e, e ≠ d → bridge t e = bridge s e) ∧ t.out = s.out ++ [.mmioDone true] ∧
        t = { s with regs := t.regs, bridges := t.bridges, out := t.out }) ∧
    (Served s d → linkState s d ≠ lsUP →
      ∃ t, exec (.linkDisable d) s = .next t ∧ regBits t (dcs d 0x34) 0 0 = 0 ∧ (bridge t d).link = freshLink s d ∧
        linkState t d = lsDISABLED ∧ t = { s with regs := t.regs, bridges := t.bridges, out := s.out ++ [.mmioDone true] }) ∧
    (Served s d → linkState s d = lsUP → atBoundary (bridge s d).link = false →
      ∃ t, exec (.linkDisable d) s = .next t ∧ regBits t (dcs d 0x34) 0 0 = 0 ∧ linkState t d = lsUP ∧
        (bridge t d).link = { (bridge s d).link with downAsked := true }) ∧
    (Served s d → linkState s d = lsUP → atBoundary (bridge s d).link = true →
      ∃ t, exec (.linkDisable d) s = .next t ∧ regBits t (dcs d 0x34) 0 0 = 0 ∧ linkState t d = lsDISABLED ∧
        (bridge t d).link = freshLink s d) ∧
    (Served s d → linkState s d = lsUP → regBits s (dcs d 0x34) 0 0 = 0 →
      ∃ t, exec (.linkEnable d) s = .next t ∧ linkState t d = trainState t d) ∧
    (Served s d → linkState s d ≠ lsUP →
      ∃ t, exec (.linkRetrain d) s = .next t ∧ linkState t d = trainState t d ∧ (bridge t d).link = freshLink s d ∧
        (∀ e ∈ (bridge t d).recv, e.port = .localPort)) ∧
    (∀ v : BitVec 64, Served s d → linkState s d ≠ lsUP → regNat s (dcs d 0x18) 2 ≠ v.toNat →
      ∃ t, exec (.linkConfigWrite d .peerSn v) s = .next t ∧ regNat t (dcs d 0x18) 2 = v.toNat ∧
        linkState t d = trainState t d ∧ (bridge t d).link = freshLink s d) ∧
    (bridgesOn s = true → linkState s d = lsTRAINING →
      ∃ t, exec (.linkLock d) s = .next t ∧ linkState t d = lsEXCHANGE ∧
        (bridge t d).link = againLink (bridge s d).link ∧
        t = { s with regs := t.regs, bridges := t.bridges }) ∧
    (bridgesOn s = true → linkState s d = lsEXCHANGE →
      ∃ t, exec (.linkSignalLoss d) s = .next t ∧ linkState t d = lsTRAINING ∧
        (bridge t d).link = againLink (bridge s d).link ∧
        t = { s with regs := t.regs, bridges := t.bridges })) ∧
  (∀ (s : State) (d : Nat), isBridge d = true →
    (bridgesOn s = true → linkState s d = lsUP → (bridge s d).link.downAsked = false →
      (bridge s d).link.ret.length = 12 →
      ∃ (t : State) (g : Group), exec (.linkGroupSend d) s = .next t ∧ t.out = s.out ++ [.linkGroup d g] ∧
        g.uncorrectable = false ∧ bitsOf g.ctl.toNat 319 288 = (groupCrc g.ctl.toNat g.slots).toNat ∧
        g.slots.length ≤ 160 ∧ g.slots <+: (unackedFlits (bridge s d).link).drop (bridge s d).link.cursor ∧
        (bridge t d).link.cursor = (bridge s d).link.cursor + g.slots.length ∧
        t = { s with bridges := t.bridges, out := t.out }) ∧
    (bridgesOn s = true → linkState s d = lsEXCHANGE → (bridge s d).link.kind ≤ 3 → (bridge s d).link.verdict ≤ 1 →
      ∃ (t : State) (g : Group), exec (.linkGroupSend d) s = .next t ∧ t.out = s.out ++ [.linkGroup d g] ∧ g.slots = [] ∧
        bitsOf g.ctl.toNat 319 288 = (groupCrc g.ctl.toNat []).toNat ∧
        (bridge t d).link = { (bridge s d).link with kind := (bridge s d).link.kind % 3 + 1 }) ∧
    (bridgesOn s = true → linkState s d = lsEXCHANGE → (bridge s d).link.verdict = 2 → (bridge s d).link.kind ≠ 1 →
      ∃ t, exec (.linkGroupSend d) s = .next t ∧ linkState t d = lsMISMATCH ∧ regBits t (dcs d 0x30) 8 8 = 1) ∧
    (linkState s d ≠ lsUP → linkState s d ≠ lsEXCHANGE → exec (.linkGroupSend d) s = .next s) ∧
    (∀ g : Group, (Instr.linkGroupReceive d g).wf = true → bridgesOn s = true → linkState s d = lsUP →
      g.uncorrectable = false → bitsOf g.ctl.toNat 319 288 ≠ (groupCrc g.ctl.toNat g.slots).toNat →
      (bridge s d).link.awaiting = false → (bridge s d).link.rxRounds < 15 →
      ∃ t, exec (.linkGroupReceive d g) s = .next t ∧
        bridge t d = { bridge s d with link := { (bridge s d).link with
          rnum := ((bridge s d).link.rnum + 1) % 16, awaiting := true, rxRounds := (bridge s d).link.rxRounds + 1 } } ∧
        t = { s with bridges := t.bridges, regs := t.regs }) ∧
    (∀ g : Group, (Instr.linkGroupReceive d g).wf = true → bridgesOn s = true → linkState s d = lsUP →
      g.uncorrectable = false → bitsOf g.ctl.toNat 319 288 = (groupCrc g.ctl.toNat g.slots).toNat → g.slots = [] →
      BitVec.ofNat 16 g.ctl.toNat = (bridge s d).link.expect → g.ctl.toNat / 2 ^ 32 % 16 = (bridge s d).link.actedRnum →
      let l := (bridge s d).link
      let n := (BitVec.ofNat 16 (g.ctl.toNat / 2 ^ 16) - l.seqBase).toNat
      n ≤ l.inBuf → l.credits.length = 12 →
      ∃ t, exec (.linkGroupReceive d g) s = .next t ∧ (bridge t d).link.inBuf = l.inBuf - n ∧
        (bridge t d).link.sent = dropAcked n l.sent ∧ (bridge t d).link.seqBase = BitVec.ofNat 16 (g.ctl.toNat / 2 ^ 16) ∧
        (∀ v < 12, (bridge t d).link.credits[v]? = l.credits[v]?.map (fun c => c +
          (if g.ctl.getLsbD 140 then g.ctl.toNat / 2 ^ (44 + 8 * v) % 256 else 0))) ∧
        regNat t (dcs d 0x4400) 2 = min (2 ^ 64 - 1) (regNat s (dcs d 0x4400) 2 + g.fixed) ∧
        (∀ e, e ≠ d → bridge t e = bridge s e)) ∧
    (∀ g : Group, (Instr.linkGroupReceive d g).wf = true → s.life = .up → s.muted = true →
      exec (.linkGroupReceive d g) s = .next (regCount s (dcs d 0x4420) (g.ctl.toNat / 2 ^ 36 % 256))))

-- The switch --------------------------------------------------------------------------------------------------------

namespace Sys2Proof.Claims

/-- `f` passes the checks of a Bridge and carries its payload unmarked (08 R218, R219). -/
def cleanAt (s : State) (d : Nat) (f : Frame) : Prop :=
  hcrcOf f = fHcrc f ∧ formatOk f = true ∧ (fCls f < 3 → fEpoch f = epochOf s d) ∧ fcrcOf f = f.crc

/-- VOQ `q` of Bridge `d` takes a frame of class `cls` with `n` payload bytes into a buffer of pool `p`: none of its frames is in
spill or on the way there, its bytes are below the threshold, and `p` is the smallest fitting pool with a free buffer (08 R221,
R225, R227). -/
def takesInto (s : State) (d q cls n p : Nat) : Prop :=
  (voq s d q).spill = [] ∧ (bridge s d).spilling = [] ∧ underThreshold s d cls (voqBytes (voq s d q)) = true ∧
    fittingPool s d n = some p

/-- Entry `e` of the receive space stands in VOQ `q` of Bridge `d` as `f` in a buffer of pool `p` (08 R221). -/
def placedIn (s t : State) (d q p : Nat) (e : RxEntry) (f : Frame) : Prop :=
  voq t d q = { voq s d q with sram := (voq s d q).sram ++ [⟨f, p, false, e.stall, e.red⟩] } ∧
    poolFree t d p = poolFree s d p - 1 ∧ (bridge t d).recv = (bridge s d).recv.filter (fun x => x.num ≠ e.num) ∧
    (∀ b, b ≠ d → bridge t b = bridge s b) ∧ t.dram = s.dram ∧ t.cores = s.cores ∧ t.tiles = s.tiles

end Sys2Proof.Claims

/-- 08 R218, R219, R221, R222, R227: FRAME_ADMIT discards the first frame of its lane when a check fails, gives it to the VOQ of its
copy in the smallest fitting free buffer, an answer in the buffer reserved for it, and leaves it where it is when neither buffer nor
spill takes it; FRAME_ADMIT_RETRY
places a frame that waits at the head of its lane. -/
def Obligations.FrameAdmissionPlacesOrDiscards : Prop :=
  ∀ (s : State) (d : Nat) (port : Port) (v : Nat) (e : RxEntry), BridgeWorks s d → v < 12 → s.errs = Errs.none →
    (laneHead s d port v = none → exec (.frameAdmit d port v) s = .next s) ∧
    (laneHead s d port v = some e → e.checked = false →
      hcrcOf e.frame ≠ fHcrc e.frame ∨ formatOk e.frame = false ∨ (fCls e.frame < 3 ∧ fEpoch e.frame ≠ epochOf s d) →
      ∃ t, exec (.frameAdmit d port v) s = .next t ∧
        (bridge t d).recv = (bridge s d).recv.filter (fun x => x.num ≠ e.num) ∧ (bridge t d).voqs = (bridge s d).voqs ∧
        (e.port = .link → (bridge t d).link.ret = (bridge s d).link.ret.modify e.vl (· + flitsOf e.frame)) ∧
        t.dram = s.dram ∧ t.cores = s.cores ∧ t.tiles = s.tiles) ∧
    (∀ (c : Copy) (p : Nat), laneHead s d port v = some e → e.checked = false → cleanAt s d e.frame → e.spilling = 0 →
      e.buf = none → routeVia s d e e.frame = .copies [c] → takesInto s d (voqNo e.port c.out c.vl) (fCls c.frame) c.frame.payload.length p →
      ∃ t, exec (.frameAdmit d port v) s = .next t ∧ placedIn s t d (voqNo e.port c.out c.vl) p e c.frame) ∧
    (∀ (c : Copy) (p : Nat), laneHead s d port v = some e → e.checked = false → cleanAt s d e.frame → e.spilling = 0 →
      e.buf = some p → routeVia s d e e.frame = .copies [c] → (bridge s d).spilling = [] →
      (voq s d (voqNo e.port c.out c.vl)).spill = [] →
      ∃ t, exec (.frameAdmit d port v) s = .next t ∧
        voq t d (voqNo e.port c.out c.vl) = { voq s d (voqNo e.port c.out c.vl) with
          sram := (voq s d (voqNo e.port c.out c.vl)).sram ++ [⟨c.frame, p, false, e.stall, e.red⟩] } ∧
        (bridge t d).recv = (bridge s d).recv.filter (fun x => x.num ≠ e.num)) ∧
    (∀ (c : Copy), laneHead s d port v = some e → e.checked = false → cleanAt s d e.frame → e.spilling = 0 →
      e.buf = none → routeVia s d e e.frame = .copies [c] → (bridge s d).spillOn = false →
      (voq s d (voqNo e.port c.out c.vl)).spill ≠ [] ∨
        underThreshold s d (fCls c.frame) (voqBytes (voq s d (voqNo e.port c.out c.vl))) = false →
      ∃ t e', exec (.frameAdmit d port v) s = .next t ∧ (bridge t d).voqs = (bridge s d).voqs ∧ e'.copies = [c] ∧
        e'.checked = true ∧ e'.num = e.num ∧ e'.frame = e.frame ∧
        (bridge t d).recv = (bridge s d).recv.map (fun x => if x.num = e.num then e' else x)) ∧
    (∀ (c : Copy) (p : Nat), (bridge s d).recv.filter (fun e => e.checked && !e.copies.isEmpty && !e.sel && isLaneHead s d e) =
        [e] → e.copies = [c] → e.spilling = 0 → e.buf = none →
      takesInto s d (voqNo e.port c.out c.vl) (fCls c.frame) c.frame.payload.length p →
      ∃ t, exec (.frameAdmitRetry d) s = .next t ∧ placedIn s t d (voqNo e.port c.out c.vl) p e c.frame)

/-- 08 R223, R229, R231, R232: SPILL_ADMIT accepts the writes of the oldest frame on its way to spill: they go to their slivers, and its
VOQ holds the frame in its lines; REFILL takes a buffer for the oldest spilled frame of an empty queue and reads its lines, then
checks the frame, appends it to the queue in that buffer and frees its lines; FRAME_DEPART takes
the oldest frame in flight out of its buffer to the link. 09 R236 to R238, R240: a scheduler with no forwardable head, or a
link with four frames in flight, selects nothing; one with a forwardable head that the output can take puts one of them in
flight, by the shorter way on the Nut ring, on which each frame in flight moves on one segment (01 R17), and, on a link, takes its
flits from the credits.
That a command whose occasion is absent changes nothing is the model's choice (log 2). -/
def Obligations.SpillsRefillsAndSelection : Prop :=
  (∀ (s : State) (d : Nat), BridgeWorks s d →
    (∀ (x : Spilling) (xs : List Spilling) (e : RxEntry), (bridge s d).spilling = x :: xs →
      (bridge s d).recv.find? (fun e => e.num = x.rx) = some e → e.spilling ≤ 1 → e.copies = [] → e.buf = none →
      ∃ t, exec (.spillAdmit d) s = .next t ∧ (bridge t d).spilling = xs ∧
        voq t d x.q = { voq s d x.q with spill := (voq s d x.q).spill ++ [⟨x.lines, none, x.stall, x.red⟩] } ∧
        (bridge t d).recv = (bridge s d).recv.filter (fun y => y.num ≠ e.num) ∧
        t.tiles = (spillWriteLines s d x.frame x.lines).tiles ∧
        t = { s with bridges := t.bridges, tiles := t.tiles }) ∧
    ((bridge s d).spilling = [] → exec (.spillAdmit d) s = .next s) ∧
    (∀ (q p : Nat) (x : Spilled) (xs : List Spilled), q < 1800 → (voq s d q).sram = [] → (voq s d q).spill = x :: xs →
      x.held = none → linesServed s d x.lines = true →
      let f := spilledFrame s d x.lines
      ((voq s d q).reading = none → refillPool s d f.payload.length = some p →
        ∃ t, exec (.refill d q) s = .next t ∧ voq t d q = { voq s d q with reading := some p } ∧
          poolFree t d p = poolFree s d p - 1 ∧ t.dram = s.dram ∧ t.cores = s.cores ∧
          t.tiles = (x.lines.foldl (fun s k => pushSvc s (spillAddr d k) (.read 64) (.spill d k)) s).tiles) ∧
      ((voq s d q).reading = some p → hcrcOf f = fHcrc f → fcrcOf f = f.crc →
        ∃ t, exec (.refill d q) s = .next t ∧
          voq t d q = { voq s d q with
            sram := [⟨f, p, false, x.stall, x.red⟩], spill := xs, reading := none, refills := !xs.isEmpty } ∧
          (bridge t d).lines = (bridge s d).lines.filter (fun k => !x.lines.contains k) ∧
          t.dram = s.dram ∧ t.cores = s.cores ∧ t.tiles = s.tiles)) ∧
    (∀ (o : Nat) (x : InFlight) (xs : List InFlight) (h : Held) (hs : List Held), o = d - 64 → (sched s d o).flight = x :: xs →
      x.rx = none → (voq s x.die x.q).sram = h :: hs → s.errs = Errs.none → h.pool < 5 →
      poolFree s x.die h.pool + 1 < 2 ^ ((poolField h.pool).2.1 + 1 - (poolField h.pool).2.2) →
      ∃ t, exec (.frameDepart d o) s = .next t ∧ (sched t d o).flight = xs ∧
        voq t x.die x.q = { voq s x.die x.q with sram := hs } ∧ poolFree t x.die h.pool = poolFree s x.die h.pool + 1 ∧
        (bridge t d).link = { (bridge s d).link with
          sent := (bridge s d).link.sent ++ [⟨h.frame, flitsOf h.frame, x.die, x.q, false⟩] }) ∧
    (∀ o, schedHere d o = true → (sched s d o).flight = [] → exec (.frameDepart d o) s = .next s)) ∧
  (∀ (s : State) (d o : Nat), BridgeWorks s d → schedHere d o = true →
    let moved := (sched s d o).flight.map (fun i => { i with hops := i.hops.drop 1 })
    (36 ≤ o → (∀ c < 4, cands s d o c = []) → (∀ i ∈ (sched s d o).flight, i.hops = []) →
      exec (.egressSelect d o) s = .next s) ∧
    (36 ≤ o → (∃ c < 4, ∃ k ∈ cands s d o c, eligible s d o k = true) →
      ∃ t, ∃ c < 4, ∃ k ∈ cands s d o c, eligible s d o k = true ∧ exec (.egressSelect d o) s = .next t ∧
        (sched t d o).flight = moved ++ [flightOf s d o k] ∧ t.dram = s.dram ∧ t.cores = s.cores) ∧
    (o < 36 → 4 ≤ (sched s d o).flight.length →
      ∃ t, exec (.egressSelect d o) s = .next t ∧ (sched t d o).flight = moved ∧
        (bridge t d).link.sent = (bridge s d).link.sent ∧ (bridge t d).link.credits = (bridge s d).link.credits) ∧
    (o < 36 → (sched s d o).flight.length < 4 → (∀ c < 4, (shaperOf (bridge s d).shapers c).en = false) →
      (∃ c < 4, ∃ k ∈ cands s d o c, eligible s d o k = true) →
      ∃ t, ∃ c < 4, ∃ k ∈ cands s d o c, eligible s d o k = true ∧ exec (.egressSelect d o) s = .next t ∧
        (sched t d o).flight = moved ++ [flightOf s d o k] ∧
        (bridge t d).link.credits = (bridge s d).link.credits.modify k.vl (· - flitsOf k.frame)))

-- The tile agent ----------------------------------------------------------------------------------------------------

/-- 09 R239, R241, R243, R244: start tags compare over 48 bits modulo 2^48; a bucket pair gains its rates a cycle up to its
sizes, none below 4,160 bytes; a frame is red below the peak bucket, else yellow below the committed one, else green. 04 R117,
R118, 09 R243, R247, R248, 12 R326: OUTBOX_DRAIN takes the oldest entry of an outbox: a SEND frame or a memory request leaves
it unless its class holds a frame back, a request with its entry in the requester table and the core's next number;
POLICER_RELEASE lets every frame of a class without policer go and refills a policed one's tokens.
That a command whose occasion is absent changes nothing is the model's choice (log 2). -/
def Obligations.TokensOutboxAndPolicersComplete : Prop :=
  (∀ (a : BitVec 48) (n : Nat), 0 < n → n < 2 ^ 47 → tagBefore a (a + BitVec.ofNat 48 n) = true ∧
    tagBefore (a + BitVec.ofNat 48 n) a = false) ∧
  (∀ (s : State) (d base c : Nat) (sh : Shaper), sh.en = true → sh.cbs < 2 ^ 24 → sh.pbs < 2 ^ 24 →
    let a := tokAddr d base c
    let t := refillTokens s d base c sh
    regBits t a 31 0 = min (max 4160 sh.cbs * 256) (regBits s a 31 0 + max 1 sh.cir) ∧
      regBits t a 63 32 = min (max 4160 sh.pbs * 256) (regBits s a 63 32 + max 1 sh.pir) ∧ t = { s with regs := t.regs }) ∧
  (∀ (s : State) (d base c b : Nat) (sh : Shaper), sh.en = true →
    let p := regBits s (tokAddr d base c) 63 32
    let q := regBits s (tokAddr d base c) 31 0
    (colour s d base c sh b = 2 ↔ p < 256 * b) ∧ (colour s d base c sh b = 1 ↔ 256 * b ≤ p ∧ q < 256 * b) ∧
      (colour s d base c sh b = 0 ↔ 256 * b ≤ p ∧ 256 * b ≤ q)) ∧
  (∀ (s : State) (c : Nat), c < coreCount → clocksRun s = true →
    ((coreOf s c).outbox = [] → exec (.outboxDrain c) s = .next s) ∧
    (∀ (i : Nat) (d : List Byte) (r : List ObEntry), (coreOf s c).outbox = ⟨i, .desc d⟩ :: r → fieldLE d 0 1 = 1 →
      (classHeld s (tileOf c) (fieldLE d 2 1 % 4) = true → exec (.outboxDrain c) s = .next s) ∧
      (classHeld s (tileOf c) (fieldLE d 2 1 % 4) = false → ∃ t, exec (.outboxDrain c) s = .next t ∧
        (coreOf t c).outbox = r ∧ (coreOf t c).ls = (coreOf s c).ls ∧ (coreOf t c).s = (coreOf s c).s ∧
        ∀ b, b ≠ c → coreOf t b = coreOf s b)) ∧
    (∀ (i : Nat) (d : List Byte) (r : List ObEntry) (cs : List Copy), (coreOf s c).outbox = ⟨i, .desc d⟩ :: r →
      fieldLE d 0 1 ≠ 1 → classHeld s (tileOf c) 0 = false → reqRoom (tile s (tileOf c)) (lcOf c) = true →
      (shaperOf (tile s (tileOf c)).pol 0).en = false → (tile s (tileOf c)).inj ≠ [] → (coreOf s c).ecc.marks = [] →
      let x := mfFrame s c i d
      routeFrame s (tileOf c) .localPort x.2 = .copies cs →
      ∃ t e, exec (.outboxDrain c) s = .next t ∧ coreOf t c = { coreOf s c with outbox := r, mfSeq := (coreOf s c).mfSeq + 1 } ∧
        (tile t (tileOf c)).req = (tile s (tileOf c)).req ++ [x.1] ∧ e.frame = x.2 ∧ e.port = .localPort ∧
        (bridge t (tileExit x.2 cs).1).recv = (bridge s (tileExit x.2 cs).1).recv ++ [e]) ∧
    (∀ (i : Nat) (d : List Byte) (r : List ObEntry), (coreOf s c).outbox = ⟨i, .desc d⟩ :: r → fieldLE d 0 1 ≠ 1 →
      reqRoom (tile s (tileOf c)) (lcOf c) = false → exec (.outboxDrain c) s = .next s) ∧
    (∀ k < 4, (shaperOf (tile s (tileOf c)).pol k).en = false → k < (tile s (tileOf c)).inj.length →
      ∃ t, exec (.policerRelease (tileOf c) k) s = .next t ∧ injQ t (tileOf c) k = [] ∧ t.dram = s.dram) ∧
    (∀ k < 4, injQ s (tileOf c) k = [] →
      exec (.policerRelease (tileOf c) k) s =
        .next (refillTokens s (tileOf c) 0x900 k (shaperOf (tile s (tileOf c)).pol k))))

/-- 04 R120, 07 R203, R204: the first SEND frame of a tile waits while its buffer is not armed; else it leaves, and a frame of
a stream without LAST lands: its bytes stand at BASE plus its offset, COUNT grows by them, and every other byte stays; a frame
that does not fit writes nothing and marks OVERFILL. 12 R321, R327: an answer that matches an entry of the requester table
releases it and counts CORE_CAPO down; MF_DATA's bytes land at RSA, and a NAK of code 2 or 3 leaves PROTECTION_FAULT or
ADDRESS_FAULT, with the cycle of its post, for a fence to come.
That a command whose occasion is absent changes nothing is the model's choice (log 2). -/
def Obligations.FramesAndAnswersLand : Prop :=
  (∀ (s : State) (t : Nat) (f : Frame), t < 64 → clocksRun s = true → frmHead (tile s t) 1 = some f →
    let c := destCore f
    let b := fArg f % 16
    let lb := lbGet (coreOf s c) b
    let a := lb.base + bitsOf (fArg f) 19 4
    (lb.armed = false → exec (.frameLand t) s = .next s) ∧
    (lb.armed = true → (tile s t).streams.find? (isRow f) = none → (tile s t).streams.length < 8192 → fLast f = false →
      ∃ u, exec (.frameLand t) s = .next u ∧ (tile u t).frmIn = (tile s t).frmIn.erase f ∧
        (∀ x, x ≠ c → coreOf u x = coreOf s x) ∧ u.dram = s.dram ∧ u.bridges = s.bridges ∧
        (lb.gated = false → a + f.payload.length ≤ lb.base + lb.len → lb.count + f.payload.length ≤ lb.len →
          lbGet (coreOf u c) b = { lb with count := lb.count + f.payload.length } ∧
          memRead (coreOf u c).ls a f.payload.length = f.payload ∧
          (∀ x, x < a ∨ a + f.payload.length ≤ x → memByte (coreOf u c).ls x = memByte (coreOf s c).ls x)) ∧
        (f.payload ≠ [] → lb.gated = true ∨ lb.base + lb.len < a + f.payload.length ∨ lb.len < lb.count + f.payload.length →
          lbGet (coreOf u c) b = { lb with overfill := true } ∧ (coreOf u c).ls = (coreOf s c).ls))) ∧
  (∀ (s : State) (t : Nat), t < 64 → clocksRun s = true → s.errs = Errs.none →
    (∀ (f : Frame) (e : ReqEntry), frmHead (tile s t) 6 = some f → tileOf (destCore f) = t →
      reqEntry (tile s t) (lcOf (destCore f)) (fSeq f).toNat = some e →
      ∃ u, exec (.mfAck t) s = .next u ∧ (tile u t).req = (tile s t).req.erase e ∧
        coreOf u (destCore f) = { coreOf s (destCore f) with capo := (coreOf s (destCore f)).capo - 1 } ∧
        (tile u t).frmIn = (tile s t).frmIn.erase f ∧ u = { s with cores := u.cores, tiles := u.tiles }) ∧
    (∀ (f : Frame) (e : ReqEntry), frmHead (tile s t) 5 = some f → tileOf (destCore f) = t →
      reqEntry (tile s t) (lcOf (destCore f)) (fSeq f).toNat = some e → e.rlb < 16 →
      let lb := lbGet (coreOf s (destCore f)) e.rlb
      landRefused lb e.rsa f.payload.length = false →
      ∃ u, exec (.mfData t) s = .next u ∧ (tile u t).req = (tile s t).req.erase e ∧
        (coreOf u (destCore f)).capo = (coreOf s (destCore f)).capo - 1 ∧
        lbGet (coreOf u (destCore f)) e.rlb = { lb with count := lb.count + f.payload.length } ∧
        memRead (coreOf u (destCore f)).ls e.rsa f.payload.length = f.payload ∧
        (∀ x, x < e.rsa ∨ e.rsa + f.payload.length ≤ x →
          memByte (coreOf u (destCore f)).ls x = memByte (coreOf s (destCore f)).ls x)) ∧
    (∀ (f : Frame) (e : ReqEntry), frmHead (tile s t) 7 = some f → tileOf (destCore f) = t →
      reqEntry (tile s t) (lcOf (destCore f)) (fSeq f).toNat = some e → 16 ≤ e.rlb → fAop f = 2 ∨ fAop f = 3 →
      ∃ u, exec (.nak t) s = .next u ∧ (tile u t).req = (tile s t).req.erase e ∧
        coreOf u (destCore f) = { coreOf s (destCore f) with
          capo := (coreOf s (destCore f)).capo - 1
          naks := (coreOf s (destCore f)).naks ++ [(e.posted, if fAop f = 2 then 0x12 else 0x05)] } ∧
        u = { s with cores := u.cores, tiles := u.tiles }) ∧
    (∀ r ∈ [(Instr.mfData t, 5), (Instr.mfAck t, 6), (Instr.nak t, 7)], frmHead (tile s t) r.2 = none →
      exec r.1 s = .next s))

-- The memory fabric -------------------------------------------------------------------------------------------------

/-- 12 R320, R322, R330, R334: the first request at its home tile agent joins the queue of its sliver's port when a region of its key
permits it, is answered otherwise by a NAK in the buffer reserved for its answer, and is dropped and counted when it came before. -/
def Obligations.HomeTakesOrRefusesRequests : Prop :=
  ∀ (s : State) (t d rsv : Nat) (f : Frame) (rest : List (Frame × Nat × Nat)), t < 64 → clocksRun s = true →
    s.errs = Errs.none → (tile s t).svcIn = (f, d, rsv) :: rest →
    ∀ r ∈ [(Instr.mfLoad t, 2), (Instr.mfStore t, 3), (Instr.mfAtomic t, 4)], fType f = r.2 →
      ∃ u, exec r.1 s = .next u ∧ (tile u t).svcIn = rest ∧ u.dram = s.dram ∧ u.cores = s.cores ∧
        ((fSrc f, fSeq f) ∈ (tile s t).filter → (tile u t).filter = (tile s t).filter ∧ (tile u t).ports = (tile s t).ports ∧
          u.bridges = s.bridges) ∧
        ((fSrc f, fSeq f) ∉ (tile s t).filter → (fSrc f, fSeq f) ∈ (tile u t).filter) ∧
        (∀ code, (fSrc f, fSeq f) ∉ (tile s t).filter → homeRefuses s t f = some code →
          (tile u t).ports = (tile s t).ports ∧ ∃ e, (bridge u d).recv = (bridge s d).recv ++ [e] ∧
            e.frame = nakFor s d f code ∧ e.port = .localPort ∧ e.buf = (if rsv = 5 then none else some rsv)) ∧
        ((fSrc f, fSeq f) ∉ (tile s t).filter → homeRefuses s t f = none → s.dir = [] →
          port u t (reqDpa f / 2 ^ 23 % 16384) = port s t (reqDpa f / 2 ^ 23 % 16384) ++
            [⟨reqDpa f % 2 ^ 23, svcOpOf f, .fabric f d rsv, 0, [], false, false⟩] ∧ u.bridges = s.bridges)

/-- 04 R105, R106, 12 R313, R323: a service slot serves one line of the port's next read or write: a read of one line returns its
bytes as MF_DATA, a write of one line writes exactly them and returns MF_ACK. The slot of a refresh frame, whose index and the
tile's phase are together a multiple of 64, serves nothing; nor does REFRESH. -/
def Obligations.ServiceSlotServesOneLine : Prop :=
  ∀ (s : State) (c : Nat) (r : SvcReq) (req : Frame) (die rsv : Nat), c < coreCount → clocksRun s = true → s.dir = [] →
    s.errs = Errs.none → (portPick s (tileOf c) (lcOf c) = some r → r.src = .fabric req die rsv ∧ r.bad = false) →
    (refreshFrame s (tileOf c) s.count = true ↔ (s.count / 128 + refreshPhase s (tileOf c) (s.count / 128)) % 64 = 0) ∧
    (portPick s (tileOf c) (lcOf c) = none ∨ refreshFrame s (tileOf c) s.count = true →
      ∃ t, exec (.serviceSlot c) s = .next t ∧
        port t (tileOf c) (lcOf c) = port s (tileOf c) (lcOf c) ∧ t = { s with tiles := t.tiles }) ∧
    (∀ n, refreshFrame s (tileOf c) s.count = false → portPick s (tileOf c) (lcOf c) = some r → r.op = .read n → 0 < n → (linesOf r.off n).length = 1 → r.done = 0 →
      r.got = [] →
      ∃ t e, exec (.serviceSlot c) s = .next t ∧ port t (tileOf c) (lcOf c) = (port s (tileOf c) (lcOf c)).erase r ∧
        (bridge t die).recv = (bridge s die).recv ++ [e] ∧ fType e.frame = 5 ∧ fDest e.frame = fSrc req ∧
        fSeq e.frame = fSeq req ∧ e.frame.payload = memRead s.dram (dpaOf c r.off) n ∧ t.dram = s.dram) ∧
    (∀ bs, refreshFrame s (tileOf c) s.count = false → portPick s (tileOf c) (lcOf c) = some r → r.op = .write bs → bs ≠ [] → (linesOf r.off bs.length).length = 1 →
      r.done = 0 →
      ∃ t e, exec (.serviceSlot c) s = .next t ∧ port t (tileOf c) (lcOf c) = (port s (tileOf c) (lcOf c)).erase r ∧
        (bridge t die).recv = (bridge s die).recv ++ [e] ∧ fType e.frame = 6 ∧ fDest e.frame = fSrc req ∧
        fSeq e.frame = fSeq req ∧ memRead t.dram (dpaOf c r.off) bs.length = bs ∧
        (∀ a, a < dpaOf c r.off ∨ dpaOf c r.off + bs.length ≤ a → memByte t.dram a = memByte s.dram a)) ∧
    exec (.refresh (tileOf c)) s = .next s

namespace Sys2Proof.Claims

/-- The integer atomics: the memory value after the operation on the value before, from the operand A and, for CAS, A2 (12
R314). -/
def atomicRows : List ((Nat → Instr) × Nat × (Nat → Nat → Nat → Nat → Nat)) :=
  [(.atomicAdd, 0, (fun w m a _ => (m + a) % 2 ^ w)), (.atomicAnd, 1, (fun _ m a _ => m &&& a)),
   (.atomicOr, 2, (fun _ m a _ => m ||| a)), (.atomicXor, 3, (fun _ m a _ => m ^^^ a)),
   (.atomicMin, 4, (fun w m a _ => ofSigned w (min (toSigned w m) (toSigned w a)))),
   (.atomicMax, 5, (fun w m a _ => ofSigned w (max (toSigned w m) (toSigned w a)))),
   (.atomicMinu, 6, (fun _ m a _ => min m a)), (.atomicMaxu, 7, (fun _ m a _ => max m a)), (.swap, 8, (fun _ _ a _ => a)),
   (.cas, 9, (fun _ m a b => if m = a then b else m))]

end Sys2Proof.Claims

/-- 12 R314, R315 to R317, R323: an integer atomic replaces 4 or 8 bytes by its result and returns the value before in MF_DATA, or
only an MF_ACK where none is asked for; XADD adds an FP32 value to an exact accumulator of one line, XRD reads it, rounded. -/
def Obligations.AtomicsUpdateTheirBytes : Prop :=
  ∀ (s : State) (c : Nat) (r : SvcReq) (aop : Nat) (data : List Byte) (req : Frame) (die rsv : Nat), c < coreCount →
    clocksRun s = true → s.dir = [] → s.errs = Errs.none → refreshFrame s (tileOf c) s.count = false →
    r.src = .fabric req die rsv → r.bad = false → portPick s (tileOf c) (lcOf c) = some r → r.op = .atomic aop data →
    let a := dpaOf c r.off
    let answered := fun (t : State) (v : List Byte) =>
      port t (tileOf c) (lcOf c) = (port s (tileOf c) (lcOf c)).erase r ∧
      ∃ e, (bridge t die).recv = (bridge s die).recv ++ [e] ∧ fDest e.frame = fSrc req ∧ fSeq e.frame = fSeq req ∧
        (if bitAt aop 5 then fType e.frame = 5 ∧ e.frame.payload = v else fType e.frame = 6 ∧ e.frame.payload = [])
    (∀ row ∈ atomicRows, aop % 16 = row.2.1 →
      let n := if bitAt aop 4 then 8 else 4
      ∃ t, exec (row.1 c) s = .next t ∧
        memNat t.dram a n = row.2.2 (8 * n) (memNat s.dram a n) (fieldLE data 0 n) (fieldLE data n n) ∧
        (∀ x, x < a ∨ a + n ≤ x → memByte t.dram x = memByte s.dram x) ∧ answered t (bytesLE 8 (memNat s.dram a n))) ∧
    (aop % 16 = 10 → ∃ t, exec (.xadd c) s = .next t ∧
      memNat t.dram a 64 = xaddLine (memNat s.dram a 64) (fieldLE data 0 4) % 2 ^ 512 ∧
      (∀ x, x < a ∨ a + 64 ≤ x → memByte t.dram x = memByte s.dram x) ∧ answered t (bytesLE 8 0)) ∧
    (aop % 16 = 11 → ∃ t, exec (.xrd c) s = .next t ∧ t.dram = s.dram ∧
      answered t (bytesLE 8 (xrdLine (memNat s.dram a 64))))

-- Collectives -------------------------------------------------------------------------------------------------------

namespace Sys2Proof.Claims

/-- The first collective frame of its type at FRM-IN of tile `t` is `f`, of the present step and of course `e`; nothing keeps it
waiting, its stream is new and goes on after it, and the agent holds back no memory request in the class of collective frames (04
R120, 07 R203, 08 R213, 11 R285, R288). -/
def deliversNow (s : State) (t ty : Nat) (f : Frame) (e : Course) : Prop :=
  s.errs = Errs.none ∧ frmHead (tile s t) ty = some f ∧ frameCourse s t f = some e ∧ argStep (fArg f) = stepLow s t ∧ collWaits s t e f = false ∧
    (tile s t).streams.find? (isRow f) = none ∧ (tile s t).streams.length < 8192 ∧ fLast f = false ∧
    ∀ x ∈ injQ s t 2, isMfReq (fType x.2) = false

/-- The bytes `bs` have landed in buffer `b` of core `c` at address `a`, and no other byte of the core's store changed. -/
def landedAt (s t : State) (c b a : Nat) (bs : List Byte) : Prop :=
  (lbGet (coreOf t c) b).count = (lbGet (coreOf s c) b).count + bs.length ∧ memRead (coreOf t c).ls a bs.length = bs ∧
    (∀ x, x < a ∨ a + bs.length ≤ x → memByte (coreOf t c).ls x = memByte (coreOf s c).ls x) ∧ ∀ k, k ≠ c → coreOf t k = coreOf s k

/-- The first frame at the engine of Bridge `d` is `f`, of type `ty` and course `e`; there is room for it, and its stream is new (07
R203, R204, 10 R272, 11 R285). -/
def engineTurn (s : State) (d ty : Nat) (f : Frame) (e : Course) : Prop :=
  BridgeWorks s d ∧ clocksRun s = true ∧ s.errs = Errs.none ∧ (bridge s d).eng.inq.head? = some f ∧ fType f = ty ∧
    frameCourse s d f = some e ∧ engineRoom s d f = true ∧ (bridge s d).eng.streams.find? (isRow f) = none

end Sys2Proof.Claims

/-- 10 R254, 11 R285, R288, R293, R294: result, piece and count frames of the present step land where their subheader
says: SDOWN at its element index, CPIECE at its offset, CCOUNT at the sender's rank; CBASE releases the bytes owed to its
sender; a frame that must wait changes nothing. 11 R291: the engine at the corner of a row sends the copy of a row multicast
it receives on along its column, one frame on each leg, whatever the frame's type.
That a command whose occasion is absent changes nothing is the model's choice (log 2). -/
def Obligations.CollectiveFramesLandAndRelay : Prop :=
  (∀ (s : State) (t : Nat) (f : Frame) (e : Course), t < 64 → clocksRun s = true →
    let c := destCore f
    let u := fSub f
    (∀ (p : CollPost) (r : Nat), deliversNow s t 0x11 f e → postOf (coreOf s c) f = some p → rankOf e (selfAt s t) = some r →
      firstElem e r p ≤ u.eoff →
      let b := argRlb (fArg f)
      let a := (lbGet (coreOf s c) b).base + (u.eoff - firstElem e r p) * wireSize u.wire
      let bs := (fData f).take (u.elems * wireSize u.wire)
      landRefused (lbGet (coreOf s c) b) a bs.length = false →
      ∃ v, exec (.sdown t) s = .next v ∧ (tile v t).frmIn = (tile s t).frmIn.erase f ∧ landedAt s v c b a bs ∧
        (coreOf v c).lateFlags = (coreOf s c).lateFlags ++
          [(b, BitVec.ofNat 6 (u.pflags % 32), if bitAt u.pflags 5 then mxWrap else 0)]) ∧
    (∀ (b off : Nat), deliversNow s t 0x12 f e → pieceAt s t e f = some (b, off) →
      let a := (lbGet (coreOf s c) b).base + off
      let bs := (fData f).take u.elems
      landRefused (lbGet (coreOf s c) b) a bs.length = false →
      ∃ v, exec (.cpiece t) s = .next v ∧ (tile v t).frmIn = (tile s t).frmIn.erase f ∧ landedAt s v c b a bs) ∧
    (∀ (b q : Nat) (x : XchRecv), deliversNow s t 0x13 f e → countBuf (coreOf s c) f = some b → xchRow (tile s t) f = some x →
      u.lo ≠ q → x.counts[u.lo]? = some none → x.counts[q]? = some none →
      let a := (lbGet (coreOf s c) b).base + 4 * u.lo
      let n := fieldLE (fData f) 0 4
      landRefused (lbGet (coreOf s c) b) a 4 = false →
      ∃ v, exec (.ccount t) s = .next v ∧ (tile v t).frmIn = (tile s t).frmIn.erase f ∧ landedAt s v c b a (bytesLE 4 n) ∧
        { x with counts := x.counts.set u.lo (some n), srcs := x.srcs ++ [(u.lo, fSrc f)] } ∈ (tile v t).xrecv ∧
        (lbGet (coreOf v c) b).rule ≠ .plain) ∧
    (∀ (x : XchSend) (r : Nat), deliversNow s t 0x14 f e → rankOf e (selfAt s t) = some r →
      let mine := fun (y : XchSend) => y.lc = lcOf c && y.ct = argCt (fArg f) && y.seq = u.seq && y.rank = u.lo
      (tile s t).xsend.find? mine = some x →
      ∃ v, exec (.cbase t) s = .next v ∧ (tile v t).frmIn = (tile s t).frmIn.erase f ∧
        (tile v t).xsend = (tile s t).xsend.filter (fun y => !mine y) ∧ v.cores = s.cores ∧
        (bitAt (fieldLE (fData f) 0 8) 32 = true → v.bridges = s.bridges)) ∧
    (∀ r ∈ [(Instr.sdown t, 0x11), (Instr.cpiece t, 0x12), (Instr.ccount t, 0x13), (Instr.cbase t, 0x14)],
      frmHead (tile s t) r.2 = some f → frameCourse s t f = some e → argStep (fArg f) = stepLow s t →
      collWaits s t e f = true → exec r.1 s = .next s)) ∧
  (∀ (s : State) (d : Nat) (f : Frame) (e : Course),
    ∀ r ∈ [(Instr.sdown d, 0x11), (Instr.cpiece d, 0x12), (Instr.ccount d, 0x13), (Instr.cbase d, 0x14)],
      engineTurn s d r.2 f e → fLast f = false → fMcast f = true → fHop f = 2 → keptFor s d f = none →
      ∃ t es, exec r.1 s = .next t ∧ (bridge t d).recv = (bridge s d).recv ++ es ∧
        es.map (fun (x : RxEntry) => x.frame) =
          (columnLegs (selfAt s d) e.members (downEnd e f)).map (reframe s d f) ∧
        (∀ x ∈ es, x.port = .localPort) ∧ (bridge t d).eng.inq = (bridge s d).eng.inq.erase f ∧
        t.cores = s.cores ∧ t.dram = s.dram)

namespace Sys2Proof.Claims

/-- An order in which accumulators are merged: leaves are the ranks' codes. -/
inductive SumTree
  | leaf (rank code : Nat)
  | node (l r : SumTree)

/-- The leaves from left to right. -/
def SumTree.leaves : SumTree → List (Nat × Nat)
  | .leaf r c => [(r, c)]
  | .node l r => l.leaves ++ r.leaves

/-- The 48 bytes an engine holds for a tree: leaves by R265, siblings merged by R265. -/
def SumTree.code (f : FpFmt) : SumTree → Nat
  | .leaf r c => exactCode (exactLeaf f r c)
  | .node l r => exactCode (exactAdd (exactOf (l.code f)) (exactOf (r.code f)))

end Sys2Proof.Claims

/-- 10 R264 to R267: exact-sum accumulators of the same contributions by distinct ranks are the same 48 bytes whatever the tree and
the order in which they were merged. -/
def Obligations.ExactSumsDoNotDependOnTheOrder : Prop :=
  ∀ f ∈ [fFP32, fBF16, fFP16], ∀ (x y : SumTree), x.leaves.Perm y.leaves → (x.leaves.map (·.1)).Nodup →
    (∀ l ∈ x.leaves, l.1 < 256 ∧ l.2 < 2 ^ (if f = fFP32 then 32 else 16)) → x.code f = y.code f

/-- 10 R256, R257, 11 R304, R305: an engine of the root module holds a partial, or a token, until its sibling comes; a token
result of this step joins the token status and ends the wait for its course; a poison is recorded. 10 R255, R257, R260, R261,
R263: two siblings of one kind combine element by element, the left operand first, into a partial of the parent span, which
joins both operands' flags with those raised; a partial without sibling is promoted with its elements as they are. -/
def Obligations.EnginesHoldAndCombinePartials : Prop :=
  (∀ (s : State) (d : Nat) (f : Frame) (e : Course),
    let u := fSub f
    let alone := fun (key : CollKey) => spanOk u.p u.lo u.log = true ∧ u.log < logP u.p ∧ sibLo u.lo u.log < u.p ∧
      spanTaken s d key u.lo u.log = false ∧ (bridge s d).eng.gather = [] ∧ (∀ q ∈ (bridge s d).eng.held, q.key ≠ key)
    (engineTurn s d 0x10 f e → fLast f = true → fScount f = 1 → u.prog = 0 → e.prog ≠ 16 → selfAt s d = rankAt e u.root →
      alone (frameKey f) →
      ∃ t, exec (.spart d) s = .next t ∧ (bridge t d).eng.inq = (bridge s d).eng.inq.erase f ∧
        (bridge t d).eng.held = (bridge s d).eng.held ++ [⟨fSrc f, fArg f, frameKey f, frameParam u, u.lo, u.log,
          gatheredFlags [f], u.acc, elemsOf (if u.acc then 48 else wireSize u.wire) u.elems (fData f)⟩] ∧
        t.cores = s.cores ∧ t.dram = s.dram) ∧
    (engineTurn s d 0x15 f e → fLast f = true → fScount f = 1 → selfAt s d = rankAt e e.root → alone (frameKey f) →
      ∃ t, exec (.ctoku d) s = .next t ∧ (bridge t d).eng.inq = (bridge s d).eng.inq.erase f ∧
        (bridge t d).eng.held = (bridge s d).eng.held ++ [⟨fSrc f, fArg f, frameKey f, ⟨u.cid, 5, false, 0, 0, u.p, e.root, 1⟩,
          u.lo, u.log, 0, false, [fieldLE (fData f) 0 4]⟩] ∧ t.cores = s.cores ∧ t.dram = s.dram) ∧
    (engineTurn s d 0x16 f e → fLast f = true → fScount f = 1 → atEnd f = true → nowStep s d f = true →
      ∃ t, exec (.ctokd d) s = .next t ∧ t.tokGot = s.tokGot ++ [argCt (fArg f)] ∧
        regBits t (dcs TUN 0xC00) 31 0 = regBits s (dcs TUN 0xC00) 31 0 ||| fieldLE (fData f) 0 4 ∧
        regBits t (dcs TUN 0xC00) 38 32 = regBits s (dcs TUN 0xC00) 38 32 - 1 ∧ t.cores = s.cores ∧ t.dram = s.dram) ∧
    (engineTurn s d 0x17 f e → fLast f = true → fScount f = 1 → atEnd f = true → nowStep s d f = true →
      ∃ t, exec (.cpoison d) s = .next t ∧ 0x2B ∈ t.stepCodes ∧ t.cores = s.cores ∧ t.dram = s.dram)) ∧
  (∀ (s : State) (d : Nat) (l r : Partial), s.errs = Errs.none → l.par = r.par → l.par.prog = 0 → l.par.exact = false → l.acc = false →
    r.acc = false → isToken l = false → l.elems.length = r.elems.length →
    let el := fun (i : Nat) => combineElem l.par.rop l.par.wire (l.elems.getD i 0) (r.elems.getD i 0)
    (∃ f xs, (bridge (combinePart s d l r) d).eng.held = (((bridge s d).eng.held.erase l).erase r) ++
        [{ l with src := engineEpid s d, log := l.log + 1, elems := xs, pflags := l.pflags ||| r.pflags ||| f }] ∧
      xs.length = l.elems.length ∧ (∀ i < xs.length, xs.getD i 0 = (el i).1) ∧
      (∀ b, bitAt f b = true ↔ ∃ i < xs.length, bitAt (el i).2 b = true)) ∧
    (bridge (promotePart s d l) d).eng.held = (bridge s d).eng.held.erase l ++
      [{ l with src := engineEpid s d, log := l.log + 1 }])

/-- 06 R178 to R180, 11 R303, R304: a contribution joins its merge; the last one makes the tree land its pairs in the named buffer and
sets the buffer's length to complete; one that would complete it while that buffer is not armed waits. TOKEN_SEND sends the module's
status of a course entry once, when the step's work is done, and otherwise nothing.
That a command whose occasion is absent changes nothing is the model's choice (log 2). -/
def Obligations.MergesAndTokensComplete : Prop :=
  (∀ (s : State) (t : Nat) (x : MergePost) (rest : List MergePost), t < 64 → clocksRun s = true →
    (tile s t).mergeQ = x :: rest →
    let c := t * 16384 + fieldLE x.desc 6 2
    let b := fieldLE x.desc 3 1
    ((∀ g ∈ (tile s t).merges, g.mid ≠ fieldLE x.desc 0 1) → 1 < mgPcnt x.desc →
      ∃ u, exec (.mergeContribution t) s = .next u ∧ (tile u t).mergeQ = rest ∧
        (tile u t).merges = (tile s t).merges ++ [⟨fieldLE x.desc 0 1, x.desc, [x], false⟩] ∧ u = { s with tiles := u.tiles }) ∧
    (∀ g : Merge, (tile s t).merges.find? (fun g => g.mid = fieldLE x.desc 0 1) = some g → g.done = false →
      mgSame g.first x.desc = true → mgPcnt g.first = g.got.length + 1 → armed s c b = true →
      let bs := mergeImage (mgVt x.desc) (mergeOut (mgVt x.desc) (fieldLE x.desc 2 1) (g.got ++ [x]))
      let lb := lbGet (coreOf s c) b
      landRefused lb lb.base bs.length = false → s.errs = Errs.none →
      ∃ u, exec (.mergeContribution t) s = .next u ∧ (tile u t).mergeQ = rest ∧ landedAt s u c b lb.base bs ∧
        (lbGet (coreOf u c) b).rule = .counted (some bs.length) ∧
        { g with done := true, got := [] } ∈ (tile u t).merges) ∧
    ((∀ g ∈ (tile s t).merges, g.mid ≠ fieldLE x.desc 0 1) → mgPcnt x.desc ≤ 1 → armed s c b = false →
      exec (.mergeContribution t) s = .next s)) ∧
  (∀ (s : State) (n r : Nat) (e : Course), n < 64 → clocksRun s = true →
    let d := 64 + (cteBits s n 39 32 - 64) % 36
    (tokenDue s n = false → exec (.tokenSend n) s = .next s) ∧
    (tokenDue s n = true → course? s d n = some e → rankOf e (selfAt s d) = some r →
      let g := engOf e e.rootEng 0
      ∃ t x, exec (.tokenSend n) s = .next t ∧ t.tokSent = s.tokSent ++ [n] ∧ (bridge t g).recv = (bridge s g).recv ++ [x] ∧
        x.port = .localPort ∧ fType x.frame = 0x15 ∧ fLast x.frame = true ∧ fieldLE (fData x.frame) 0 8 = ownStatus s ∧
        t = { s with tokSent := t.tokSent, bridges := t.bridges, regs := t.regs }))

-- The host ----------------------------------------------------------------------------------------------------------

namespace Sys2Proof.Claims

/-- The host may reach device physical address `a` now: the module is up and not muted, the tile has power, no host request to the
line is open and no back-invalidation of it is unanswered (14 R371 to R373, 16 R429). -/
structure Reaches (s : State) (a : Nat) : Prop where
  up : s.life = .up
  awake : s.muted = false
  power : dieLive s (a / 2 ^ 37) = true
  inside : a < 2 ^ 43
  first : lineBusy s (a / 64) = false
  settled : recalled s (a / 64) = false

/-- Host request `i` at address `a` stands alone at its sliver port, whose service slot is not one of refresh; no other waits at the
Apeno die, and no error stands in a memory (04 R105, R106; 12 R333). -/
structure AtPort (s : State) (i : Instr) (a : Nat) : Prop where
  clocked : clocksRun s = true
  inside : a < 2 ^ 43
  alone : port s (a / 2 ^ 37) (a / 2 ^ 23 % 16384) = [⟨a % 2 ^ 23, hostOp i, .host i, 0, [], false, false⟩]
  slot : refreshFrame s (a / 2 ^ 37) s.count = false
  first : s.cohWait = []
  sound : s.errs = Errs.none

/-- A service slot has left only its effect on the directory, the answers and what hangs on them, besides the port. -/
def slotOnly (s t : State) : Prop :=
  t = { s with dir := t.dir, out := t.out, regs := t.regs, tiles := t.tiles, dram := t.dram, recalls := t.recalls }

end Sys2Proof.Claims

/-- 01 R20, 12 R333, R334, 14 R371 to R373: a host request goes to the service queue of its sliver port by Bridge 64; where a
back-invalidation of the line is unanswered, or an earlier request to it is open, it waits; an absent tile answers UR. The answer
to a back-invalidation without data frees the line and ends the wait; data of a line held exclusively go to the port; data after
a writeback of the line, or of a line held in S, are discarded. In the service slot of its port RD_S and RD_E return the line and
enter it in the directory, shared or exclusive, where HOST and the permissions allow; RD_NC returns uncached bytes and WR_NC writes
the enabled ones, both only of lines the host does not hold; WB writes the line it held exclusively and gives it up, DROP gives a
line up unwritten; what is not allowed is answered CA and changes nothing; the data of an answer are written, and the line is free. -/
def Obligations.CoherenceCommandsComplete : Prop :=
  (∀ (s : State) (a n : Nat) (be : List Bool) (d w : List Byte), a % 64 = 0 → w.length = 64 → 8 ≤ n → n ≤ 64 →
    be.length = d.length → 8 ≤ d.length → d.length ≤ 64 →
    ∀ i ∈ [Instr.rdS a, .rdE a, .rdNc a n, .wrNc a be d, .wb a w, .drop a],
      (Reaches s a → exec i s = .next (pushSvc s a (hostOp i) (.host i)) ∧
        port (pushSvc s a (hostOp i) (.host i)) (a / 2 ^ 37) (a / 2 ^ 23 % 16384) =
          port s (a / 2 ^ 37) (a / 2 ^ 23 % 16384) ++ [⟨a % 2 ^ 23, hostOp i, .host i, 0, [], false, false⟩]) ∧
      (s.life = .up → s.muted = false → dieLive s (a / 2 ^ 37) = true → a < 2 ^ 43 →
        (i ≠ .wb a w ∧ recalled s (a / 64) = true) ∨ (recalled s (a / 64) = false ∧ lineBusy s (a / 64) = true) →
        exec i s = .next { s with cohWait := s.cohWait ++ [i] }) ∧
      (s.life = .up → s.muted = false → dieLive s (a / 2 ^ 37) = false → a < 2 ^ 43 →
        exec i s = .next { s with out := s.out ++ [.hostReply 1 []] })) ∧
  (∀ (s : State) (a n : Nat), Reaches s a → 8 ≤ n → a % 64 + n ≤ 64 →
    exec (.rdNc a n) s = .next (pushSvc s a (.read n) (.host (.rdNc a n)))) ∧
  (∀ (s : State) (a : Nat) (be : List Bool) (d : List Byte), Reaches s a → be.length = d.length → 8 ≤ d.length →
    a % 64 + d.length ≤ 64 → exec (.wrNc a be d) s = .next (pushSvc s a (.write d) (.host (.wrNc a be d)))) ∧
  (∀ (s : State) (a : Nat) (r : Recall) (d : List Byte), s.life = .up → s.muted = false → a < 2 ^ 43 → a % 64 = 0 →
    s.cohWait = [] → s.recalls.find? (fun r => r.line = a / 64) = some r → d.length = 64 →
    (r.wb = false → s.errs = Errs.none → ∀ i ∈ [Instr.binvAck a] ++ (if heldE s (a / 64) then [] else [.binvWb a d]),
      ∃ t, exec i s = .next t ∧ recalled t (a / 64) = false ∧ dirFind t (a / 64) = none ∧
        (∀ l, l ≠ a / 64 → dirFind t l = dirFind s l ∧ recalled t l = recalled s l) ∧ t.dram = s.dram ∧ t.out = s.out) ∧
    (r.wb = false → heldE s (a / 64) = true →
      exec (.binvWb a d) s = .next (pushSvc s a (.write d) (.host (.binvWb a d)))) ∧
    (r.wb = true → ∀ i ∈ [Instr.binvAck a, .binvWb a d],
      exec i s = .next { s with recalls := s.recalls.filter (fun x => x.line ≠ a / 64) })) ∧
  (∀ (s : State) (a : Nat), recalled s (a / 64) = false →
    let slot := exec (.serviceSlot (a / 2 ^ 23)) s
    (∀ r ∈ [(Instr.rdS a, false, [1]), (Instr.rdE a, true, [1, 2])], AtPort s r.1 a → a % 64 = 0 →
      hostMay s a 64 r.2.2 = true → dirFind s (a / 64) = none →
      (dirSet s (a / 64)).length + freedUnanswered s (a / 64) < 16 →
      ∃ t, slot = .next t ∧ t.dir = s.dir ++ [⟨a / 64, r.2.1⟩] ∧ t.dram = s.dram ∧ t.recalls = s.recalls ∧
        t.out = s.out ++ [.hostReply 0 (memRead s.dram a 64)] ∧ slotOnly s t) ∧
    (∀ n, AtPort s (.rdNc a n) a → 8 ≤ n → a % 64 + n ≤ 64 → hostMay s a n [1] = true → dirFind s (a / 64) = none →
      ∃ t, slot = .next t ∧ t = { s with out := s.out ++ [.hostReply 0 (memRead s.dram a n)], tiles := t.tiles }) ∧
    (∀ (be : List Bool) (d : List Byte), AtPort s (.wrNc a be d) a → be.length = d.length → 8 ≤ d.length →
      a % 64 + d.length ≤ 64 → hostMay s a d.length [2] = true → dirFind s (a / 64) = none →
      ∃ t, slot = .next t ∧
        (∀ i < d.length, memByte t.dram (a + i) = if be[i]? = some true then d.getD i 0 else memByte s.dram (a + i)) ∧
        (∀ x, x < a ∨ a + d.length ≤ x → memByte t.dram x = memByte s.dram x) ∧
        t = { s with dram := t.dram, out := s.out ++ [.hostReply 0 []], tiles := t.tiles }) ∧
    (∀ d : List Byte, AtPort s (.wb a d) a → d.length = 64 → a % 64 = 0 → hostMay s a 64 [2] = true →
      heldE s (a / 64) = true →
      ∃ t, slot = .next t ∧ memRead t.dram a 64 = d ∧
        (∀ x, x < a ∨ a + 64 ≤ x → memByte t.dram x = memByte s.dram x) ∧ dirFind t (a / 64) = none ∧
        (∀ l, l ≠ a / 64 → dirFind t l = dirFind s l) ∧ t.out = s.out ++ [.hostReply 0 []] ∧ slotOnly s t) ∧
    (AtPort s (.drop a) a → a % 64 = 0 → hostMay s a 64 [] = true → (dirFind s (a / 64)).isSome = true →
      ∃ t, slot = .next t ∧ dirFind t (a / 64) = none ∧ (∀ l, l ≠ a / 64 → dirFind t l = dirFind s l) ∧
        t.dram = s.dram ∧ t.out = s.out ++ [.hostReply 0 []] ∧ slotOnly s t) ∧
    (∀ r ∈ [(Instr.rdS a, [1]), (Instr.rdE a, [1, 2]), (Instr.rdNc a 64, [1]), (Instr.drop a, [])], AtPort s r.1 a →
      a % 64 = 0 → hostMay s a 64 r.2 = false →
      ∃ t, slot = .next t ∧ t = { s with out := s.out ++ [.hostReply 2 []], tiles := t.tiles }) ∧
    (AtPort s (.rdS a) a → a % 64 = 0 → heldE s (a / 64) = true → hostMay s a 64 [1] = true →
      ∃ t, slot = .next t ∧ t = { s with out := s.out ++ [.hostReply 2 []], tiles := t.tiles })) ∧
  (∀ (s : State) (a : Nat) (d : List Byte), AtPort s (.binvWb a d) a → d.length = 64 → a % 64 = 0 → heldE s (a / 64) = true →
    ∃ t, exec (.serviceSlot (a / 2 ^ 23)) s = .next t ∧ memRead t.dram a 64 = d ∧
      (∀ x, x < a ∨ a + 64 ≤ x → memByte t.dram x = memByte s.dram x) ∧ recalled t (a / 64) = false ∧
      dirFind t (a / 64) = none ∧ t.out = s.out ∧ slotOnly s t)

namespace Sys2Proof.Claims

/-- Channel `ch` has descriptor `x` in progress, whose 32 bytes and address are `bs`; its tile has power, no line of it waits
for the host, and its slivers' ports are between requests (12 R323; 14 R367, R369). -/
structure Copying (s : State) (ch : Nat) (bs : List Byte) : Prop where
  channel : ch < 4
  up : s.life = .up
  awake : s.muted = false
  power : dieLive s (bitsOf (descOf bs).maddr 42 37) = true
  held : inProgress s ch = some bs
  free : descWaits s (descOf bs) = false
  between : descBetween s (descOf bs) = false

/-- The descriptor of channel `ch` has ended with a status: the status byte has gone to the host, HEAD has advanced, and nothing is
in progress (14 R369). -/
def endedWith (s t : State) (ch : Nat) (x : Desc) (status : Nat) : Prop :=
  .hostWrite (x.at_ + 22) [BitVec.ofNat 8 status] ∈ t.out ∧ ringHead t ch = (ringHead s ch + 1) % ringSize s ch ∧
    inProgress t ch = none

end Sys2Proof.Claims

/-- 14 R367 to R370: a doorbell sets TAIL, a new ring starts at 0, RESUME clears HALT. A ready channel reads the descriptor at HEAD:
one out of range ends with status 1, one for a busy store or an unpowered tile with 2, another is carried out, and a failed read
halts the channel. Completion writes every byte and reports status 0; a host error reports 3 and halts. -/
def Obligations.CopyChannelsComplete : Prop :=
  (∀ (s : State) (ch : Nat), ch < 4 → Served s APL →
    (∀ v : BitVec 32, ∃ t, exec (.copyDoorbell ch v) s = .next t ∧ regBits t (bcTail ch) 19 0 = v.toNat % 2 ^ 20 ∧
      t = { s with regs := t.regs, out := s.out ++ [.mmioDone true] }) ∧
    (∀ v : BitVec 64, ∃ t, exec (.copyRingWrite ch v) s = .next t ∧ regBits t (bcRing ch) 51 6 = bitsOf v.toNat 51 6 ∧
      regBits t (bcRing ch) 55 52 = bitsOf v.toNat 55 52 ∧ ringHead t ch = 0 ∧ regBits t (bcTail ch) 19 0 = 0 ∧
      t = { s with regs := t.regs, out := s.out ++ [.mmioDone true] }) ∧
    (∃ t, exec (.copyResume ch) s = .next t ∧ regBits t (bcStat ch) 20 20 = 0 ∧
      t = { s with regs := t.regs, out := s.out ++ [.mmioDone true] })) ∧
  (∀ (s : State) (ch : Nat), ch < 4 → s.life = .up → channelReady s ch = true →
    (∃ t, exec (.copyDescriptor ch none) s = .next t ∧ .hostRead (ringAt s ch) 32 ∈ t.out ∧ regBits t (bcStat ch) 20 20 = 1 ∧
      regBits t (dcs APL 0x100) (16 + ch) (16 + ch) = 1 ∧ ringHead t ch = ringHead s ch) ∧
    (∀ d : List Byte, d.length = 32 →
      let bs := d ++ bytesLE 8 (ringAt s ch)
      let x := descOf bs
      ∃ t, exec (.copyDescriptor ch (some d)) s = .next t ∧ .hostRead (ringAt s ch) 32 ∈ t.out ∧ t.dram = s.dram ∧
        t.cores = s.cores ∧ (descRange x = true → endedWith s t ch x 1) ∧
        (descRange x = false → descBusy s x = true → endedWith s t ch x 2) ∧
        (descRange x = false → descBusy s x = false → inProgress t ch = some bs ∧ ringHead t ch = ringHead s ch))) ∧
  (∀ (s : State) (ch : Nat) (bs data : List Byte), Copying s ch bs →
    let x := descOf bs
    (x.dir = 0 → data.length = x.len → descSpace x = 0 →
      ∃ t, exec (.copyDescriptorDone ch data) s = .next t ∧ endedWith s t ch x 0 ∧
        memRead t.dram (bitsOf x.maddr 42 0) x.len = data ∧ t.cores = s.cores ∧
        ∀ y, y < bitsOf x.maddr 42 0 ∨ bitsOf x.maddr 42 0 + x.len ≤ y → memByte t.dram y = memByte s.dram y) ∧
    (x.dir = 0 → data.length = x.len → descSpace x = 1 →
      ∃ t, exec (.copyDescriptorDone ch data) s = .next t ∧ endedWith s t ch x 0 ∧ t.dram = s.dram ∧
        coreOf t (descCore x) = { coreOf s (descCore x) with ls := memWrite (coreOf s (descCore x)).ls (descOff x) data } ∧
        ∀ c, c ≠ descCore x → coreOf t c = coreOf s c) ∧
    (x.dir = 0 → data.length = x.len → descSpace x = 2 →
      ∃ t, exec (.copyDescriptorDone ch data) s = .next t ∧ endedWith s t ch x 0 ∧ t.dram = s.dram ∧
        coreOf t (descCore x) = { coreOf s (descCore x) with is := memWrite (coreOf s (descCore x)).is (descOff x) data } ∧
        ∀ c, c ≠ descCore x → coreOf t c = coreOf s c) ∧
    (x.dir = 1 →
      ∃ t, exec (.copyDescriptorDone ch []) s = .next t ∧ endedWith s t ch x 0 ∧ t.dram = s.dram ∧ t.cores = s.cores ∧
        ∀ i, 512 * i < x.len →
          .hostWrite (x.haddr + 512 * i) (((descRead s x x.len).drop (512 * i)).take (min 512 (x.len - 512 * i))) ∈ t.out) ∧
    (0 < x.len → ∃ t, exec (.hostErr ch []) s = .next t ∧ endedWith s t ch x 3 ∧ regBits t (bcStat ch) 20 20 = 1 ∧
      t.dram = s.dram ∧ t.cores = s.cores))

-- Device control space ----------------------------------------------------------------------------------------------

namespace Sys2Proof.Claims

/-- A write the host made was served, and left only its effect on the fields the equation names. -/
def servedOnly (s t : State) : Prop := t = { s with regs := t.regs, out := s.out ++ [.mmioDone true] }

end Sys2Proof.Claims

/-- 00 R5, R6, 01 R30, 14 R366, R375, 17 R439: a served write of a read-write register gives it the value, of a core's window
acts by the fields' types; the interrupt mask takes its value and sends the doorbell of each pending bit it opens;
FAULT_LOG_CLEAR empties the log; a read of SP_RSTCAUSE, which needs no session, returns it and sets LAST to 7. A bad width or
alignment, and a write that is not served, is answered UR and changes nothing; with no HOST session only the mailbox memories and
SP_MBXCTLn take writes. 08 R234, 09 R246, R249, 10 R281: EPOCH_WRITE sets the Bridge's epoch
and leaves it no REQ, RSP or COL frame; a shaper or policer commit puts the staged values of the named classes in force and
fills or empties their tokens, and leaves the other classes; a slot write gives a Saddle constant its value. -/
def Obligations.ControlSpaceAndFabricSettingsComplete : Prop :=
  (∀ (s : State) (t o : Nat) (v : BitVec 64), t < 64 → o = 0x800 ∨ o = 0x804 → Served s t →
    ∃ u, exec (.dcsWrite (BitVec.ofNat 32 (dcs t o)) 4 v) s = .next u ∧ regWord u (dcs t o) = BitVec.ofNat 32 v.toNat ∧
      servedOnly s u) ∧
  (∀ (s : State) (c : Nat) (v : BitVec 64), c < coreCount → Served s (tileOf c) →
    ∃ u, exec (.dcsWrite (BitVec.ofNat 32 (dcs (tileOf c) (0x100000 + 0x200 * lcOf c + 0x44))) 4 v) s = .next u ∧
      coreOf u c = { coreOf s c with fpstat := (coreOf s c).fpstat &&& ~~~ (BitVec.ofNat 32 v.toNat &&& 0x3F3F) } ∧
      (∀ b, b ≠ c → coreOf u b = coreOf s b) ∧ u = { s with cores := u.cores, out := s.out ++ [.mmioDone true] }) ∧
  (∀ (s : State) (a : BitVec 32) (sz : Nat) (v : BitVec 64), s.life = .up → s.muted = false →
    ¬ ((sz = 4 ∨ sz = 8) ∧ a.toNat % sz = 0) ∨ mmioServed s (a.toNat / 2 ^ 24) (sessionExempt a.toNat) = false →
    exec (.dcsWrite a sz v) s = .next { s with out := s.out ++ [.mmioDone false] }) ∧
  (∀ (s : State) (v : BitVec 64), s.life = .up → s.muted = false → hostSession s = false →
    (∀ (a : BitVec 32) (sz : Nat), sessionExempt a.toNat = false →
      exec (.dcsWrite a sz v) s = .next { s with out := s.out ++ [.mmioDone false] }) ∧
    (∀ n o, n < 16 → o < 0x1000 → o % 4 = 0 → mbxState s n = 0 →
      ∃ u, exec (.dcsWrite (BitVec.ofNat 32 (dcs SP (0x100000 + 0x1000 * n + o))) 4 v) s = .next u ∧
        memRead (mbx u n).mem o 4 = bytesLE 4 v.toNat ∧ u = { s with mbx := u.mbx, out := s.out ++ [.mmioDone true] }) ∧
    (∀ n, n < 16 → ∃ u, exec (.dcsWrite (BitVec.ofNat 32 (mbxCtl n)) 4 v) s = .next u ∧
      u.out.getLast? = some (.mmioDone true))) ∧
  (∀ (s : State) (v : BitVec 32), Served s APL →
    ∃ u, exec (.irqMaskWrite v) s = .next u ∧ regWord u (dcs APL 0x108) = v &&& 0x3FFFFFF ||| regWord s (dcs APL 0x108) &&& 0xFC000000 ∧
      (∀ b < 26, bitAt (regWord s (dcs APL 0x108)).toNat b = true → v.getLsbD b = false →
        bitAt (regWord s (dcs APL 0x100)).toNat b = true →
        .hostWrite (regNat s (dcs APL (0x1000 + b * 0x10)) 2)
          (bytesLE 4 (regWord s (dcs APL (0x1000 + b * 0x10) + 8)).toNat) ∈ u.out) ∧
      (v = 0x3FFFFFF → u.out = s.out ++ [.mmioDone true]) ∧ u = { s with regs := u.regs, out := u.out }) ∧
  (∀ s : State, Served s SP → ∃ u, exec .faultLogClear s = .next u ∧ regBits u (dcs SP 0x2F00) 6 0 = 0 ∧
      regBits u (dcs SP 0x2F00) 31 16 = 0 ∧ (∀ i < 64, regNat u (dcs SP (0x3000 + 0x10 * i)) 4 = 0) ∧ u.cores = s.cores) ∧
  (∀ s : State, s.life = .up → s.muted = false →
    ∃ u, exec .rstcauseRead s = .next u ∧ u.out = s.out ++ [.mmioRead (regNat s (dcs SP 0x20) 1)] ∧
      regBits u (dcs SP 0x20) 2 0 = 7 ∧ regBits u (dcs SP 0x20) 3 3 = regBits s (dcs SP 0x20) 3 3) ∧
  (∀ (s : State) (d : Nat) (v : BitVec 32), isBridge d = true → Served s d →
    ∃ t, exec (.epochWrite d v) s = .next t ∧ epochOf t d = v.toNat % 256 ∧ (∀ e ∈ (bridge t d).recv, fCls e.frame = 3) ∧
      (∀ e ∈ (bridge t d).spilling, fCls e.frame = 3) ∧ (bridge t d).eng.held = [] ∧ (bridge t d).eng.inq = [] ∧
      (∀ b, b ≠ d → (bridge t b).recv = (bridge s b).recv ∧ (bridge t b).spilling = (bridge s b).spilling ∧
        (bridge t b).eng = (bridge s b).eng ∧ epochOf t b = epochOf s b) ∧ t.cores = s.cores ∧ t.tiles = s.tiles) ∧
  (∀ (s : State) (d : Nat) (v : BitVec 32), isBridge d = true → Served s d → (bridge s d).shapers.length = 4 →
    ∃ t, exec (.shaperCommit d v) s = .next t ∧ (∀ b, b ≠ d → bridge t b = bridge s b) ∧
      (∀ c < 4, shaperOf (bridge t d).shapers c =
        if v.getLsbD c then stagedShaper s d 0x200 c else shaperOf (bridge s d).shapers c) ∧
      (∀ c < 4, v.getLsbD c = true →
        regBits t (tokAddr d 0x200 c) 31 0 = (if v.getLsbD 4 then max 4160 (stagedShaper s d 0x200 c).cbs * 256 else 0) ∧
        regBits t (tokAddr d 0x200 c) 63 32 = (if v.getLsbD 4 then max 4160 (stagedShaper s d 0x200 c).pbs * 256 else 0))) ∧
  (∀ (s : State) (d : Nat) (v : BitVec 32), hasPolicer d = true → Served s d → (policersOf s d).length = 4 →
    ∃ t, exec (.policerCommit d v) s = .next t ∧
      (∀ c < 4, shaperOf (policersOf t d) c = if v.getLsbD c then stagedShaper s d 0x900 c else shaperOf (policersOf s d) c) ∧
      t.cores = s.cores ∧ t.bridges = s.bridges) ∧
  (∀ (s : State) (d i k : Nat) (v : BitVec 64), isBridge d = true → Served s d → i < 16 → k < 4 →
    let a := dcs d (0x101008 + 0x40 * i + 8 * k)
    (i, (tileReg s 0 0x80C).toNat % 2 ^ 16) ∉ (bridge s d).eng.used →
    ∃ t, exec (.saddleSlotWrite (BitVec.ofNat 32 a) 8 v) s = .next t ∧ regNat t a 2 = v.toNat ∧ servedOnly s t)

-- Mailboxes ---------------------------------------------------------------------------------------------------------

namespace Sys2Proof.Claims

/-- The request in mailbox `n` is the only one queued and asks for row `row`; the Soundpost runs and is free to take it (14 R378). -/
structure Next (s : State) (n row : Nat) : Prop where
  box : n < 16
  takes : mbxTaken s n row = true
  alone : s.exec.queue = [n]

/-- It passes the checks that all commands share (14 R382). -/
structure Taken (s : State) (n row : Nat) : Prop extends Next s n row where
  passes : sharedStatus s n = stOK

/-- Mailbox `n` holds a response: DONE, with status, payload length, tag, detail and payload in their places, its interrupt pending
and the command no longer queued (14 R374, R376, R377). -/
def answers (s t : State) (n status detail : Nat) (data : List Byte) : Prop :=
  mbxState t n = 2 ∧ memNat (mbx t n).mem 0x802 2 = status ∧ memNat (mbx t n).mem 0x804 4 = data.length ∧
    memNat (mbx t n).mem 0x808 4 = reqTag s n ∧ memNat (mbx t n).mem 0x80C 4 = detail ∧
    memRead (mbx t n).mem 0x820 data.length = data ∧ bitAt (regWord t (dcs APL 0x100)).toNat n = true ∧ t.exec.queue = []

/-- The rows of the command executive and what a request must hold to ask for each (14 R382, R389, R390; 15 R408, R409; 16 R432). -/
def mailboxRows : List ((Nat → Instr) × Nat) :=
  [(.sessionNonce, 0x010), (.sessionOpen, 0x020), (.sessionClose, 0x030), (.setTopology, 0x100), (.setCourseTable, 0x110),
   (.setRegionTable, 0x120), ((fun n => .loadProgram n none), 0x200), (.loadSaddleProgram, 0x210), (.launch, 0x300),
   (.pause, 0x310), (.contRun, 0x320), (.abortStep, 0x330), (.powerQuery, 0x400), (.powerSetA0, 0x401), (.powerSetA1, 0x402),
   (.powerSetA2, 0x403), (.powerSetA3, 0x404), (.telemetrySummary, 0x410), (.telemetryBridge, 0x411), (.attestQuote, 0x500),
   (.attestLog, 0x501), (.attestAliasCert, 0x502), (.attestDeviceCert, 0x503), (.resetDevice, 0x600), (.resetPlane, 0x601),
   (.resetLink, 0x602), ((fun n => .updateImageWrite n none), 0x701), (.updateImageActivate, 0x702), (.updateImageCommit, 0x703)]

end Sys2Proof.Claims

/-- 14 R378, R382: every command passes the same checks in the same order before its own, and one that fails a check does nothing but
answer its status; a mailbox that is not the next one is not served.
That a command whose occasion is absent changes nothing is the model's choice (log 2). -/
def Obligations.MailboxCommandsAreCheckedAlike : Prop :=
  (∀ row ∈ mailboxRows, ∀ (s : State) (n : Nat), Next s n row.2 → (row.2 = 0x020 → s.exec.lockout = false) →
    sharedStatus s n ≠ 0 →
    ∃ t, exec (row.1 n) s = .next t ∧ answers s t n (sharedStatus s n) 0 [] ∧ t.cores = s.cores ∧ t.plane = s.plane ∧
      t.bridges = s.bridges ∧ t.tiles = s.tiles ∧ t.dram = s.dram ∧ t.flash = s.flash ∧ t.image = s.image ∧ t.due = s.due) ∧
  (∀ row ∈ mailboxRows, ∀ (s : State) (n : Nat), n < 16 → mbxTaken s n row.2 = false → exec (row.1 n) s = .next s) ∧
  (∀ (s : State) (n : Nat), sessionRole s n = 0 → reqCode s n ≠ 1 → reqCode s n ≠ 2 → sharedStatus s n = 2) ∧
  (∀ (s : State) (n : Nat), sessionRole s n = 2 → reqCode s n ∈ [0x10, 0x11, 0x12, 0x20, 0x21, 0x30, 0x31, 0x32, 0x33, 0x50, 0x70] →
    sharedStatus s n = 3) ∧
  (∀ (s : State) (n : Nat), sessionRole s n = 1 → reqCode s n ∈ [0x10, 0x20, 0x30] → lenOk s n = true → pwrState s = 4 →
    sharedStatus s n = 0x42) ∧
  (∀ (s : State) (n : Nat), sessionRole s n = 1 → reqCode s n ∈ [0x10, 0x20, 0x70] → lenOk s n = true → pwrState s = 0 →
    s.plane.run = .running → sharedStatus s n = 1)

/-- 14 R377 to R379: GO makes an idle mailbox BUSY and queues it, ABORT_STEP and RESET ahead of the others; GO on a BUSY one sets
OVERRUN; ACK makes a DONE one idle, and starts the Device reset that waits for it. -/
def Obligations.GoAndAckMoveTheMailbox : Prop :=
  ∀ (s : State) (n : Nat), n < 16 → s.life = .up → s.muted = false →
    ∀ x ∈ [(Side.apeno, n), (Side.smbus, 15)], x.2 = n →
    (mbxState s n = 0 → s.exec.draining = none → (∀ m ∈ n :: s.exec.queue, (reqRow s m).isSome = true) →
      ∃ t, exec (.mbxGo n x.1) s = .next t ∧ mbxState t n = 1 ∧ (mbx t n).owner = x.1 ∧ (mbx t n).mem = (mbx s n).mem ∧
        t.exec.queue = (if urgent s n then n :: s.exec.queue else s.exec.queue ++ [n]) ∧ t.cores = s.cores ∧ t.plane = s.plane) ∧
    (mbxState s n = 1 → (mbx s n).owner = x.1 →
      ∃ t, exec (.mbxGo n x.1) s = .next t ∧ mbxState t n = 1 ∧ regBits t (mbxCtl n) 4 4 = 1 ∧ t.exec = s.exec ∧
        t.mbx = s.mbx) ∧
    (mbxState s n = 2 → (mbx s n).owner = x.1 → s.due = none →
      ∃ t, exec (.mbxAck n x.1) s = .next t ∧ mbxState t n = 0 ∧ t.exec = s.exec ∧ t.mbx = s.mbx ∧
        (x.1 = .smbus → t.pins.smbAlertN = true)) ∧
    (mbxState s n = 2 → (mbx s n).owner = x.1 → s.due = some (.command n) →
      ∃ t, exec (.mbxAck n x.1) s = .next t ∧ t.due = none ∧ t.life = .up ∧ t.image = none ∧ t.cores = [])

/-- 14 R380, R381: a nonce of 32 bytes is bound to its mailbox; SESSION_OPEN with the proof over it opens the role and consumes it, a
wrong proof consumes it and counts, the eighth in a row locks out, and in a lockout none is tried; SESSION_CLOSE and idle expiry
close the session; nonces and lockouts expire. The order of the lockout check is the model's (log 45).
That a command whose occasion is absent changes nothing is the model's choice (log 2). -/
def Obligations.SessionsOpenAndClose : Prop :=
  (∀ (s : State) (n : Nat), Taken s n 0x010 →
    ∃ t v, exec (.sessionNonce n) s = .next t ∧ v.length = 32 ∧ (mbx t n).nonce = some v ∧ answers s t n 0 0 v ∧
      sessionRole t n = sessionRole s n ∧ t.cores = s.cores ∧ t.plane = s.plane) ∧
  (∀ (s : State) (n : Nat) (k v : List Byte), Taken s n 0x020 → s.exec.lockout = false →
    let role := reqPay s n 0 1
    role = 1 ∧ n ≠ 15 ∨ role = 2 → roleKey s role = some k → (mbx s n).nonce = some v →
    (hmac k (proofMessage v n role) = reqBytes s n 4 32 →
      ∃ t, exec (.sessionOpen n) s = .next t ∧ answers s t n 0 0 [] ∧ sessionRole t n = role ∧ (mbx t n).nonce = none ∧
        t.exec.fails = 0 ∧ regBits t (dcs APL 0x300) 0 0 = (if hostSession t then 1 else 0) ∧ t.cores = s.cores) ∧
    (hmac k (proofMessage v n role) ≠ reqBytes s n 4 32 →
      ∃ t, exec (.sessionOpen n) s = .next t ∧ answers s t n 6 0 [] ∧ sessionRole t n = sessionRole s n ∧
        (mbx t n).nonce = none ∧ t.exec.lockout = decide (s.exec.fails + 1 = 8) ∧
        t.exec.fails = if s.exec.fails + 1 = 8 then 0 else s.exec.fails + 1)) ∧
  (∀ (s : State) (n : Nat), Next s n 0x020 → s.exec.lockout = true →
    ∃ t, exec (.sessionOpen n) s = .next t ∧ answers s t n 8 0 [] ∧ (mbx t n).nonce = (mbx s n).nonce ∧
      t.exec.fails = s.exec.fails ∧ sessionRole t n = sessionRole s n) ∧
  (∀ (s : State) (n : Nat), Taken s n 0x030 → ∃ t, exec (.sessionClose n) s = .next t ∧ answers s t n 0 0 [] ∧
    sessionRole t n = 0 ∧ (∀ m < 16, m ≠ n → sessionRole t m = sessionRole s m) ∧ t.cores = s.cores ∧ t.plane = s.plane) ∧
  (∀ (s : State) (n : Nat), soundpostRuns s = true → n < 16 →
    (∃ t, exec (.nonceExpiry n) s = .next t ∧ (mbx t n).nonce = none ∧ (mbx t n).mem = (mbx s n).mem ∧ t = { s with mbx := t.mbx }) ∧
    exec .lockoutExpiry s = .next { s with exec := { s.exec with lockout := false } } ∧
    (sessionRole s n ≠ 0 → regBits s (dcs SP 0x100) 15 0 ≠ 0 → mbxState s n ≠ 1 →
      ∃ t, exec (.sessionIdleExpiry n) s = .next t ∧ sessionRole t n = 0 ∧ bitAt (regWord t (dcs APL 0x100)).toNat 25 = true) ∧
    (regBits s (dcs SP 0x100) 15 0 = 0 ∨ mbxState s n = 1 → exec (.sessionIdleExpiry n) s = .next s))

/-- 14 R383, R384: SET_TOPOLOGY gives every tile and Bridge its coordinates and the module count; SET_COURSE_TABLE and
SET_REGION_TABLE write the entries into every copy; a payload that fails its checks is refused with nothing written. -/
def Obligations.TablesAreSet : Prop :=
  (∀ (s : State) (n : Nat), Taken s n 0x100 →
    let p := reqBytes s n 0 992
    (topologyOk p = true → ∃ t, exec (.setTopology n) s = .next t ∧ answers s t n 0 0 [] ∧
      (∀ i < 64, regBits t (dcs i 0x830) 8 0 = topologySelf p) ∧
      (∀ d, isBridge d = true → dieLive s d = true → regBits t (dcs d 0x0) 8 0 = topologySelf p ∧
        ∀ x ∈ [(3, 0), (7, 4), (14, 8), (16, 16)], regBits t (dcs d 0x10) x.1 x.2 = bitsOf (topologyPeer p (d - 64)) x.1 x.2) ∧
      regBits t (dcs SP 0x110) 6 0 = fieldLE p 2 1 ∧ t.cores = s.cores) ∧
    (topologyOk p = false → ∃ t, exec (.setTopology n) s = .next t ∧ answers s t n 0x18 0 [] ∧ t.bridges = s.bridges ∧
      t.ring = s.ring ∧ ∀ i < 64, regWord t (dcs i 0x830) = regWord s (dcs i 0x830))) ∧
  (∀ (s : State) (n : Nat), Taken s n 0x110 →
    let first := reqPay s n 0 1
    let k := reqPay s n 1 1
    let es := chunks 256 (reqBytes s n 8 (256 * k))
    1 ≤ k → first + k ≤ 64 →
    ((∀ e ∈ es, courseMay e = true) → ∃ t, exec (.setCourseTable n) s = .next t ∧ answers s t n 0 0 [] ∧
      ∀ i < k, (∀ d < 64, regBits t (dcs d (0x4000 + 0x100 * (first + i))) 31 0 = fieldLE (es.getD i []) 0 4) ∧
        ∀ d, isBridge d = true → regBits t (dcs d (0x8000 + 0x100 * (first + i))) 31 0 = fieldLE (es.getD i []) 0 4) ∧
    (∀ i < k, (∀ j < i, courseMay (es.getD j []) = true) → courseMay (es.getD i []) = false →
      ∃ t, exec (.setCourseTable n) s = .next t ∧ answers s t n 0x19 (first + i) [] ∧ t.bridges = s.bridges ∧ t.tiles = s.tiles)) ∧
  (∀ (s : State) (n : Nat), Taken s n 0x120 →
    let first := reqPay s n 0 2
    let k := reqPay s n 2 1
    let es := chunks 32 (reqBytes s n 8 (32 * k))
    (1 ≤ k → first + k ≤ 1024 → s.errs = Errs.none → ∃ t, exec (.setRegionTable n) s = .next t ∧ answers s t n 0 0 [] ∧
      ∀ i < k, ∀ d < 64, ∀ x ∈ [(5, 0), (31, 8), (106, 70), (170, 134)],
        bitsOf (regionEntry t d (first + i)) x.1 x.2 = bitsOf (natLE (es.getD i [])) x.1 x.2) ∧
    (k = 0 ∨ 1024 < first + k → ∃ t, exec (.setRegionTable n) s = .next t ∧ answers s t n 0x1A 0 [] ∧ t.cores = s.cores))

/-- 04 R127 to R130, 14 R385, R386: a valid image resets the plane and puts its sections where they name, with the seeds, and covers
the rectangles of its CODE sections; a bad one leaves no image. A valid Saddle slot is written to the Bridges its mask names. -/
def Obligations.ProgramsAreLoaded : Prop :=
  (∀ (s : State) (n : Nat), Taken s n 0x200 → reqPay s n 0 8 % 64 = 0 → (∀ t < 64, tileMapOk s t = true) →
    (∀ img : List Byte, img.length = reqPay s n 8 8 → imageStatus s img img.length = (0, 0) →
      ∃ t, exec (.loadProgram n (some img)) s = .next t ∧ answers s t n 0 0 [] ∧ t.plane = Plane.reset ∧
        t.image = some ⟨((sects img).filter (fun x => x.type = 1)).map (·.rect), imgModules img⟩ ∧
        (∀ xs x, sects img = xs ++ [x] → ∀ c ∈ rectCores x.rect,
          let bs := (img.drop x.src).take x.len
          (x.type = 1 → memRead (coreOf t c).is (8 * x.dst) x.len = bs) ∧
          (x.type = 2 → memRead (coreOf t c).ls x.dst x.len = bs) ∧ (x.type = 3 → memRead t.dram (dpaOf c x.dst) x.len = bs)) ∧
        (∀ i < 64, (regWord t (dcs i 0x800)).toNat = reqPay s n 16 4 ∧ (regWord t (dcs i 0x804)).toNat = reqPay s n 20 4)) ∧
    (∀ img : List Byte, img.length = reqPay s n 8 8 → (imageStatus s img img.length).1 ≠ 0 →
      ∃ t, exec (.loadProgram n (some img)) s = .next t ∧
        answers s t n (imageStatus s img img.length).1 (imageStatus s img img.length).2 [] ∧ t.image = none ∧ t.cores = []) ∧
    (∃ t, exec (.loadProgram n none) s = .next t ∧ answers s t n 0x14 0 [] ∧ t.image = none ∧ t.cores = [])) ∧
  (∀ (s : State) (n : Nat), Taken s n 0x210 →
    let i := reqPay s n 8 1
    let x := reqSlot s n
    (i ≤ 15 → slotOk x = true → ∃ t, exec (.loadSaddleProgram n) s = .next t ∧ answers s t n 0 0 [] ∧
      (∀ d, isBridge d = true → dieLive s d = true → bitAt (reqPay s n 0 8) (d - 64) = true →
        (∀ k < 4, regNat t (dcs d (0x101008 + 0x40 * i + 8 * k)) 2 = x.con.getD k 0) ∧
        (∀ w < 64, regNat t (dcs d (0x102000 + 0x200 * i + 8 * w)) 2 = x.words.getD w 0)) ∧
      (∀ d, isBridge d = true → bitAt (reqPay s n 0 8) (d - 64) = false →
        ∀ w < 64, regNat t (dcs d (0x102000 + 0x200 * i + 8 * w)) 2 = regNat s (dcs d (0x102000 + 0x200 * i + 8 * w)) 2)) ∧
    (15 < i ∨ slotOk x = false → ∃ t, exec (.loadSaddleProgram n) s = .next t ∧ answers s t n 0x1B i [] ∧ t.bridges = s.bridges))

/-- 13 R349, R351, R352, 14 R387, R388, 16 R429: an accepted LAUNCH arms the run at its count with every core at index 0 and the step
index set; PAUSE asks for a pause at the next step end, CONTINUE sets the count at which it ends, ABORT_STEP ends the run as aborted
in the new epoch with no fault or work left in the cores; what does not fit the run state or the clock is refused. -/
def Obligations.RunsAreControlled : Prop :=
  (∀ (s : State) (n : Nat), Taken s n 0x300 → reqPay s n 8 1 ≤ 1 →
    let l := reqPay s n 0 8
    (launchStatus s l = 0 → pwrState s ≤ 1 → ∃ t, exec (.launch n) s = .next t ∧ answers s t n 0 0 [] ∧ t.plane.run = .armed ∧ t.plane.at_ = l ∧
      t.plane.halted = s.plane.halted ∧ t.plane.preq = s.plane.preq ∧ regNat t (dcs TUN 0x20) 2 = l ∧ pwrState t = 0 ∧ t.count = s.count ∧
      (∀ c, (coreOf t c).pc = 0 ∧ (coreOf t c).halted = false ∧ (coreOf t c).srseq = 0) ∧
      ∀ i < 64, (regWord t (dcs i 0x80C)).toNat = if reqPay s n 8 1 = 1 then reqPay s n 12 4 else 0) ∧
    (launchStatus s l ≠ 0 → ∃ t, exec (.launch n) s = .next t ∧ answers s t n (launchStatus s l) 0 [] ∧ t.plane = s.plane ∧
      t.cores = s.cores) ∧
    (s.plane.run = .idle → s.image.isSome = true → (∀ i < 64, tileMapOk s i = true) → l % 128 = 0 → s.count + 65536 ≤ l →
      ringState s = 1 → launchStatus s l = 0)) ∧
  (∀ (s : State) (n : Nat), Taken s n 0x310 →
    (s.plane.run = .running → ∃ t, exec (.pause n) s = .next t ∧ answers s t n 0 0 [] ∧ t.plane = { s.plane with preq := true } ∧
      t.cores = s.cores) ∧
    (s.plane.run ≠ .running → ∃ t, exec (.pause n) s = .next t ∧ answers s t n 0x26 0 [] ∧ t.plane = s.plane)) ∧
  (∀ (s : State) (n : Nat), Taken s n 0x320 →
    let c := reqPay s n 0 8
    (s.plane.run = .paused → s.count + 65536 ≤ c → ∃ t, exec (.contRun n) s = .next t ∧ answers s t n 0 0 [] ∧
      t.plane = { s.plane with contAt := some c } ∧ regNat t (dcs TUN 0x20) 2 = c ∧ t.cores = s.cores) ∧
    (s.plane.run = .paused → c < s.count + 65536 → ∃ t, exec (.contRun n) s = .next t ∧ answers s t n 0x22 0 [] ∧ t.plane = s.plane) ∧
    (s.plane.run ≠ .paused → ∃ t, exec (.contRun n) s = .next t ∧ answers s t n 0x25 0 [] ∧ t.plane = s.plane)) ∧
  (∀ (s : State) (n : Nat), Taken s n 0x330 → pwrState s ≤ 1 →
    ∃ t, exec (.abortStep n) s = .next t ∧ answers s t n 0 0 [] ∧ t.plane.run = .idle ∧ t.plane.halted = none ∧
      t.plane.preq = s.plane.preq ∧
      t.tokSent = [] ∧ t.stepCodes = [] ∧ (∀ d < 100, epochOf t d = reqPay s n 0 1) ∧
      (∀ e ∈ t.cores, e.2.outbox = [] ∧ e.2.fault = CoreFault.none ∧ e.2.gates = [] ∧ e.2.lb = []) ∧
      (s.plane.run ≠ .idle → regBits t (dcs SP 0x200) 1 0 = 3 ∧ bitAt (regWord t (dcs APL 0x100)).toNat 20 = true))

/-- 16 R424, R429 to R432: POWER answers with the power block of the state it leaves: A1 from A0 with the plane idle or paused; A0
from A1; A3 takes all power but the edge dies'; A2 waits until no frame is spilled and then gates the tiles, keeping their
registers and the policers in force; from A3, A0 leaves the memory empty and a Device reset due. A run in the way is answered PWR_RUN. That A2_TILE_GATE
before its time changes nothing is the model's choice (log 2). -/
def Obligations.PowerStatesAreSet : Prop :=
  (∀ (s : State) (n : Nat), Taken s n 0x400 → ∃ t, exec (.powerQuery n) s = .next t ∧ answers s t n 0 0 (powerBlock s) ∧
    t.cores = s.cores ∧ t.plane = s.plane ∧ pwrState t = pwrState s) ∧
  (∀ (s : State) (n : Nat), Taken s n 0x401 →
    (pwrState s = 1 → ∃ t, exec (.powerSetA0 n) s = .next t ∧ answers s t n 0 0 (powerBlock t) ∧ pwrState t = 0 ∧ holdDuty t = 0 ∧
      t.cores = s.cores ∧ t.plane = s.plane) ∧
    (pwrState s = 3 → ∃ t, exec (.powerSetA0 n) s = .next t ∧ answers s t n 0 0 (powerBlock t) ∧ pwrState t = 0 ∧ t.dram = [] ∧
      t.due = some (.a3Exit n)) ∧
    (pwrState s = 2 → Canonical s → ∃ t, exec (.powerSetA0 n) s = .next t ∧ answers s t n 0 0 (powerBlock t) ∧ pwrState t = 0 ∧ t.cores = [] ∧
      t.image = none ∧ t.a2Saved = [] ∧ ∀ i < 64, regBits t (dcs i 0x830) 8 0 = bitsOf (match smGet none s.a2Saved (dcs i 0x830) with
        | some w => w.toNat | none => 0) 8 0)) ∧
  (∀ (s : State) (n : Nat), Taken s n 0x402 → pwrState s = 0 →
    (s.plane.run = .idle ∨ s.plane.run = .paused → ∃ t, exec (.powerSetA1 n) s = .next t ∧ answers s t n 0 0 (powerBlock t) ∧
      pwrState t = 1 ∧ t.cores = s.cores ∧ t.dram = s.dram ∧ t.plane = s.plane) ∧
    (s.plane.run = .armed ∨ s.plane.run = .running → ∃ t, exec (.powerSetA1 n) s = .next t ∧ answers s t n 0x40 0 [] ∧
      pwrState t = 0)) ∧
  (∀ (s : State) (n : Nat), Taken s n 0x403 → pwrState s = 0 → s.plane.run = .idle →
    ∃ t, exec (.powerSetA2 n) s = .next t ∧ t.exec.draining = some n ∧ (∀ d, isBridge d = true → (bridge t d).spillOn = false) ∧
      t.cores = s.cores ∧ t.dram = s.dram ∧ pwrState t = 0 ∧ t.mbx = s.mbx) ∧
  (∀ (s : State) (n : Nat), n < 16 → soundpostRuns s = true → s.exec.draining = some n →
    (spillEmpty s = false → exec .a2TileGate s = .next s) ∧
    (spillEmpty s = true → s.exec.queue = [n] → Canonical s → ∃ t, exec .a2TileGate s = .next t ∧ answers s t n 0 0 (powerBlock t) ∧
      pwrState t = 2 ∧ t.cores = [] ∧ (∀ i, tile t i = { Tile.reset with pol := (tile s i).pol }) ∧ t.exec.draining = none ∧ t.bridges = s.bridges ∧ t.dram = s.dram ∧
      t.a2Saved = s.regs.filter (fun e => decide (e.1 < 64 * 2 ^ 24)))) ∧
  (∀ (s : State) (n : Nat), Taken s n 0x404 → pwrState s = 0 → s.plane.run = .idle →
    ∃ t, exec (.powerSetA3 n) s = .next t ∧ answers s t n 0 0 (powerBlock t) ∧ pwrState t = 3 ∧ t.cores = [] ∧ t.tiles = [] ∧
      t.bridges = [] ∧ t.image = none)

/-- 14 R389, 15 R408, 16 R424: the power and thermal block has its 64 bytes from the power registers, TIME95 and TRIPS, and is what
POWER answers and the telemetry summary ends with; TELEMETRY gives the summary block, and a Bridge's 50 counters; ATTEST quotes the nonce with the digest of the
measurement log, the fingerprints and the serial under an ECDSA signature by the alias key, whose secret draw is free, and gives the log and the certificates
from an offset, or status 0x58 beyond their end. -/
def Obligations.TelemetryAndAttestationAnswer : Prop :=
  (∀ s : State, (powerBlock s).length = 64 ∧
    (∀ x ∈ [(0, 4, 0x200008, 1), (4, 4, 0x200010, 1), (8, 8, 0x200018, 2), (16, 8, 0x200020, 2), (24, 8, 0x200030, 2),
        (32, 8, 0x200028, 2)], fieldLE (powerBlock s) x.1 x.2.1 = regNat s (dcs SP x.2.2.1) x.2.2.2) ∧
    fieldLE (powerBlock s) 40 8 = s.gov.time95 % 2 ^ 64 ∧ fieldLE (powerBlock s) 48 4 = s.gov.trips % 2 ^ 32 ∧
    fieldLE (powerBlock s) 52 12 = 0) ∧
  (∀ (s : State) (n : Nat), Taken s n 0x400 → ∃ t, exec (.powerQuery n) s = .next t ∧ answers s t n 0 0 (powerBlock s)) ∧
  (∀ (s : State) (n : Nat), Taken s n 0x410 →
    ∃ t data, exec (.telemetrySummary n) s = .next t ∧ answers s t n 0 0 data ∧ data.length = 176 ∧
      fieldLE data 0 4 = regNat s (dcs SP 0x0) 1 ∧ fieldLE data 4 4 = runstatWord s ∧ fieldLE data 16 8 = regNat s (dcs TUN 0xC00) 2 ∧
      (pwrState s ≤ 1 → fieldLE data 24 4 = (tileReg s 0 0x80C).toNat) ∧ fieldLE data 28 4 = regNat s (dcs SP 0x440) 1 ∧
      fieldLE data 72 8 = regNat s (dcs SP 0x200) 2 ∧ data.drop 112 = powerBlock s ∧ t.cores = s.cores ∧ t.plane = s.plane) ∧
  (∀ (s : State) (n : Nat), Taken s n 0x411 →
    let d := reqPay s n 1 1
    (isBridge d = true → dieLive s d = true → ∃ t data, exec (.telemetryBridge n) s = .next t ∧ answers s t n 0 0 data ∧
      data.length = 400 ∧ (∀ i < 38, fieldLE data (8 * i) 8 = regNat s (dcs d (0x4000 + 8 * i)) 2) ∧
      ∀ i < 12, fieldLE data (304 + 8 * i) 8 = regNat s (dcs d (0x4200 + 8 * i)) 2) ∧
    (isBridge d = false → ∃ t, exec (.telemetryBridge n) s = .next t ∧ answers s t n 5 0 [])) ∧
  (∀ (s : State) (n : Nat), Taken s n 0x500 →
    let m := reqBytes s n 0 32 ++ sha256 s.booted.log ++ bytesLE 32 (regNat s (dcs SP 0x400) 8) ++
      bytesLE 32 (regNat s (dcs SP 0x420) 8) ++ bytesLE 8 (regNat s (dcs SP 0x8) 2)
    let sig := sigBytes (ecdsaSign s.booted.aliasKey (sha256 (ascii "MQAT" ++ m)) (Config.signatureSecret s.free) (2 ^ 32))
    ∃ t, exec (.attestQuote n) s = .next t ∧ sig.length = 64 ∧ answers s t n 0 0 (m ++ sig) ∧ t.cores = s.cores) ∧
  (∀ (s : State) (n : Nat),
    let o := reqPay s n 36 4
    let part := fun (i : Instr) (obj : List Byte) => ∃ t, exec i s = .next t ∧ t.cores = s.cores ∧
      (o < obj.length → answers s t n 0 0 (bytesLE 4 obj.length ++ (obj.drop o).take 2012)) ∧
      (obj.length ≤ o → answers s t n 0x58 0 [])
    (Taken s n 0x501 → part (.attestLog n) s.booted.log) ∧
    (Taken s n 0x502 → part (.attestAliasCert n) s.booted.aliasCert) ∧
    (Taken s n 0x503 → part (.attestDeviceCert n) ((sectionOf s.booted.factory 7).getD [])))

/-- 14 R390, 16 R425, R426: RESET answers OK: of the device once the reset is due, of the plane when it has been done, of links as a
write of RETRAIN does. 15 R402, R409 to R411: UPDATE_IMAGE programs an image that would boot into the region not in use and counts
it, answers NV_WRITE where the flash device did not take the header (free, log 50), names the region to boot from, and raises the rollback counters to the versions in use, never below what they were;
a region of a version below the counter does not boot. -/
def Obligations.ResetAndUpdateCommandsComplete : Prop :=
  (∀ (s : State) (n : Nat), Taken s n 0x600 → ∃ t, exec (.resetDevice n) s = .next t ∧ answers s t n 0 0 [] ∧
    t.due = some (.command n) ∧ t.cores = s.cores ∧ t.plane = s.plane ∧ t.image = s.image) ∧
  (∀ (s : State) (n : Nat), Taken s n 0x601 → ∃ t, exec (.resetPlane n) s = .next t ∧ answers s t n 0 0 [] ∧ t.cores = [] ∧
    t.image = none ∧ t.plane = Plane.reset ∧ t.tokSent = [] ∧ t.stepCodes = [] ∧ t.flash = s.flash ∧
    regBits t (dcs SP 0x20) 2 0 = (if causeWidth (regBits s (dcs SP 0x20) 2 0) ≤ causeWidth 4 then 4 else regBits s (dcs SP 0x20) 2 0)) ∧
  (∀ (s : State) (n d : Nat), Taken s n 0x602 → isBridge d = true → dieLive s d = true → linkState s d ≠ lsUP →
    reqPay s n 8 8 % 2 ^ 36 = 2 ^ (d - 64) →
    ∃ t, exec (.resetLink n) s = .next t ∧ answers s t n 0 0 [] ∧ (bridge t d).link = freshLink s d ∧ linkState t d = trainState t d ∧
      (∀ e ∈ (bridge t d).recv, e.port = .localPort) ∧ t.cores = s.cores) ∧
  (∀ (s : State) (n : Nat) (img : List Byte), Taken s n 0x701 →
    let r := reqPay s n 1 1
    r ≤ 1 → reqPay s n 8 8 % 64 = 0 → (∀ u, s.booted.user = some u → u.1 ≠ r) → img.length = reqPay s n 16 8 →
    (userStatus s.booted.factory s.flash.rpa.userArb s.flash.rpa.fwArb img = 0 → ∃ t,
      exec (.updateImageWrite n (some img)) s = .next t ∧ if Config.flashFails s.free = true then
        answers s t n 0x55 0 [] ∧ t.flash.rpa = s.flash.rpa ∧
        userStatus s.booted.factory s.flash.rpa.userArb s.flash.rpa.fwArb (userRegion t r) ≠ 0
      else answers s t n 0 0 [] ∧
      flashRead (if r = 0 then t.flash.fl0 else t.flash.fl1) 0x2000000 (containerLen img) = img.take (containerLen img) ∧
      (∀ a < 0x2000000, memByte t.flash.fl0 a = memByte s.flash.fl0 a ∧ memByte t.flash.fl1 a = memByte s.flash.fl1 a) ∧
      t.flash.rpa = { s.flash.rpa with updates := s.flash.rpa.updates + 1 }.written) ∧
    (userStatus s.booted.factory s.flash.rpa.userArb s.flash.rpa.fwArb img ≠ 0 → ∃ t,
      exec (.updateImageWrite n (some img)) s = .next t ∧ t.flash = s.flash ∧
      answers s t n (userStatus s.booted.factory s.flash.rpa.userArb s.flash.rpa.fwArb img) 0 [])) ∧
  (∀ (s : State) (n : Nat), Taken s n 0x702 → reqPay s n 1 1 ≤ 1 →
    let x := userStatus s.booted.factory s.flash.rpa.userArb s.flash.rpa.fwArb (userRegion s (reqPay s n 1 1))
    ∃ t, exec (.updateImageActivate n) s = .next t ∧ answers s t n (if x = 0 then 0 else 0x56) 0 [] ∧
      t.flash = (if x = 0 then { s.flash with rpa := { s.flash.rpa with active := reqPay s n 1 1 }.written } else s.flash)) ∧
  (∀ (s : State) (n : Nat), Taken s n 0x703 → reqPay s n 1 1 ≤ 1 →
    (∀ u, s.booted.user = some u → ∃ t, exec (.updateImageCommit n) s = .next t ∧ answers s t n 0 0 [] ∧
      t.flash.rpa.userArb = max s.flash.rpa.userArb (fieldLE u.2 0x14 4) ∧
      t.flash.rpa.fwArb = (match s.booted.fwPkg with
        | some p => max s.flash.rpa.fwArb (fieldLE p 0x14 4) | none => s.flash.rpa.fwArb) ∧
      t.flash = { s.flash with rpa := { s.flash.rpa with userArb := t.flash.rpa.userArb, fwArb := t.flash.rpa.fwArb }.written }) ∧
    (∀ bs : List Byte, fieldLE bs 0x14 4 < s.flash.rpa.userArb →
      userStatus s.booted.factory s.flash.rpa.userArb s.flash.rpa.fwArb bs ≠ 0) ∧
    (s.booted.user = none → ∃ t, exec (.updateImageCommit n) s = .next t ∧ answers s t n 0x57 0 [] ∧ t.flash = s.flash))

-- Tuning, MUTE, scan ------------------------------------------------------------------------------------------------

namespace Sys2Proof.Claims

/-- No run is armed, running or paused, MUTE is not armed, and no sparse unit runs: time passes with nothing happening (13 R344, 17 R447). -/
structure Calm (s : State) : Prop where
  runs : soundpostRuns s = true
  idle : s.plane.run = .idle
  unarmed : muteState s ≠ 1
  still : ∀ e ∈ s.cores, sparseRuns e.2 = false

end Sys2Proof.Claims

/-- 13 R344 to R346, R348: the ring master sends its count every 2^20 counts; every other module passes the words on, the master not its own; sixteen near
words in a row lock an acquiring ring, four far ones unlock it, an open word or silence brings holdover, and a module alone listens to
none; a word whose HCHK or code is wrong is passed on and nothing else (18 R474). That a module in reset passes words on is its bypass.
That a command whose occasion is absent changes nothing is the model's choice (log 2). -/
def Obligations.RingFollowsItsWords : Prop :=
  (∀ s : State, Calm s → regBits s ringCtl 0 0 = 1 →
    ∃ t, exec .syncSend s = .next t ∧ t.count = nextSync s ∧ t.count % 2 ^ 20 = 0 ∧ s.count ≤ t.count ∧
      t.out = s.out ++ [.sync (syncWord t.count s.ring.lost)] ∧
      t = { s with count := t.count, out := t.out, ring := { s.ring with sentAt := some t.count } }) ∧
  (∀ s : State, soundpostRuns s = true → regBits s ringCtl 0 0 = 0 → exec .syncSend s = .next s) ∧
  (∀ (s : State) (w : SyncWord), s.life = .up → s.muted = false → regBits s ringCtl 0 0 = 0 →
    let target := w.count.toNat + regBits s ringCtl 23 8
    let near := decide (((s.count : Int) - target).natAbs ≤ 2)
    (ringState s = 3 ∨ syncValid w = false → exec (.syncReceive w) s = .next { s with out := s.out ++ [.sync w] }) ∧
    (ringState s ≠ 3 → syncValid w = true → ∃ t, exec (.syncReceive w) s = .next t ∧ t.out = s.out ++ [.sync w] ∧ t.ring.heard ∈ [s.count, target] ∧
      regBits t ringStat 2 2 = (if syncOpen w then 1 else 0) ∧ t.cores = s.cores ∧ t.plane = s.plane ∧
      (syncOpen w = true → ringState t = 2) ∧
      (syncOpen w = false → ringState s = 0 → near = true → s.ring.good + 1 < 16 → ringState t = 0 ∧ t.ring.good = s.ring.good + 1) ∧
      (syncOpen w = false → ringState s = 0 → near = true → s.ring.good + 1 = 16 → ringState t = 1) ∧
      (syncOpen w = false → ringState s = 0 → near = false → t.ring.good = 0 ∧ ringState t = 0 ∧
        t.count = if s.plane.run = .idle then target else s.count) ∧
      (syncOpen w = false → ringState s = 1 → near = true → ringState t = 1 ∧ t.ring.bad = 0) ∧
      (syncOpen w = false → ringState s = 1 → near = false → ringState t = if s.ring.bad + 1 = 4 then 0 else 1) ∧
      (syncOpen w = false → ringState s = 2 → regBits s ringCtl 2 2 = 0 → ringState t = 0))) ∧
  (∀ (s : State) (w : SyncWord), s.life = .up → s.muted = false → regBits s ringCtl 0 0 = 1 →
    ∃ t, exec (.syncReceive w) s = .next t ∧ t.out = s.out ∧ (ringState s ≠ 3 → syncValid w = true → t.ring.lost = false) ∧ t.cores = s.cores ∧
      t.plane = s.plane) ∧
  (∀ (s : State) (w : SyncWord), s.life ≠ .up → s.muted = false →
    exec (.syncReceive w) s = .next { s with out := s.out ++ [.sync w] }) ∧
  (∀ s : State, Calm s → ringState s < 3 → ∃ t, exec .syncTimeout s = .next t ∧ ringState t = 2 ∧
    t.count = max s.count (s.ring.heard + 2 ^ 21) ∧ t.cores = s.cores ∧ t.dram = s.dram) ∧
  (∀ (s : State) (v : BitVec 32), Served s TUN →
    ∃ t, exec (.tunRingctlWrite v) s = .next t ∧ regBits t ringCtl 2 0 = v.toNat % 8 ∧ regBits t ringCtl 23 8 = bitsOf v.toNat 23 8 ∧
      (v.getLsbD 1 = true → ringState t = 3) ∧ (v.getLsbD 1 = false → ringState s = 3 → v.getLsbD 2 = false → ringState t = 0) ∧
      (v.getLsbD 1 = false → v.getLsbD 2 = true → ringState t = 2) ∧ t.cores = s.cores ∧ t.plane = s.plane)

/-- 17 R447, R448, R454: MUTE is armed at a count at least 1,024 ahead, else LATE; disarmed; the falling pin arms it at the next
multiple of 256 at least 64 counts away; at its count the module freezes; a rising pin or a RESUME asks for resumption, which a
segment out of its place refuses, and MUTE_THAW makes the mute count the next one executed. -/
def Obligations.MuteStopsAndResumes : Prop :=
  (∀ s : State, Served s TUN →
    (pwrState s ≤ 1 → s.count + 1024 ≤ muteAt s → muteState s = 0 →
      ∃ t, exec .muteArm s = .next t ∧ muteState t = 1 ∧ regBits t muteCtl 4 4 = 0 ∧ muteAt t = muteAt s ∧
        t = { s with regs := t.regs, mute := { s.mute with due := muteAt s }, out := s.out ++ [.mmioDone true] }) ∧
    (1 < pwrState s ∨ muteAt s < s.count + 1024 → ∃ t, exec .muteArm s = .next t ∧ regBits t muteCtl 1 1 = 1 ∧
      muteState t = muteState s) ∧
    (muteState s = 1 → ∃ t, exec .muteDisarm s = .next t ∧ muteState t = 0 ∧
      t = { s with regs := t.regs, out := s.out ++ [.mmioDone true] })) ∧
  (∀ s : State, soundpostRuns s = true → s.pins.muteN = true → pwrState s ≤ 1 → muteState s = 0 → s.count + 320 < 2 ^ 64 →
    ∃ t, exec .muteNFall s = .next t ∧ t.pins.muteN = false ∧ muteState t = 1 ∧ regBits t muteCtl 4 4 = 1 ∧
      muteAt t % 256 = 0 ∧ s.count + 64 ≤ muteAt t ∧ muteAt t < s.count + 320 ∧
      t = { s with regs := t.regs, pins := t.pins, mute := { s.mute with due := muteAt t } }) ∧
  (∀ s : State, soundpostRuns s = true → s.plane.run = .idle → pwrState s ≤ 1 → muteState s = 1 → s.count < s.mute.due →
    (∀ e ∈ s.cores, sparseRuns e.2 = false) →
    ∃ t, exec .muteFreeze s = .next t ∧ t.muted = true ∧ t.count = s.mute.due ∧ muteState t = 2 ∧ t.cores = s.cores ∧
      t.dram = s.dram ∧ t.bridges = s.bridges ∧ t.plane = s.plane) ∧
  (∀ s : State, s.muted = true → s.pins.muteN = false → s.mute.thaw = false →
    (s.mute.scan = [] → exec .muteNRise s =
      .next { s with pins := { s.pins with muteN := true }, mute := { s.mute with thaw := true } }) ∧
    (s.mute.scan ≠ [] → ∃ t, exec .muteNRise s = .next t ∧ t.mute.thaw = false ∧ regBits t muteCtl 5 5 = 1 ∧ t.muted = true)) ∧
  (∀ s : State, s.muted = true → s.mute.thaw = false →
    (s.pins.muteN = true → s.mute.scan = [] → exec .muteResume s = .next { s with mute := { s.mute with thaw := true } }) ∧
    (s.pins.muteN = false → exec .muteResume s = .next s)) ∧
  (∀ s : State, s.muted = true → s.mute.thaw = true → s.mute.waiting = [] →
    ∃ t, exec .muteThaw s = .next t ∧ t.muted = false ∧ t.count + 1 = max 1 s.count ∧ muteState t = 0 ∧ t.mute.thaw = false ∧
      t.cores = s.cores ∧ t.dram = s.dram ∧ t.bridges = s.bridges ∧ t.plane = s.plane)

/-- 17 R450, R451, R453, 18 R479: while the module is muted its segments shift a frozen bit each and return to their place after a
whole turn, and the memory instrument gives the words of a core's arrays; neither changes anything else, and without DBG nothing is
reachable. The bits and lengths of the segments are the model's free values (log 18). A host transaction that meets a muted module
waits. TRST_N resets the test port only. -/
def Obligations.ScanReadsTheFrozenModule : Prop :=
  (∀ (s : State) (g : Nat), g < 140 → g ≠ 138 → scanOpen s = true → s.muted = true →
    ∃ t b, exec (.scanShift g) s = .next t ∧ t.out = s.out ++ [.scanBit b] ∧
      smGet 0 t.mute.scan g = (smGet 0 s.mute.scan g + 1) % (Config.segmentTop g + 1) ∧
      (∀ h, h ≠ g → smGet 0 t.mute.scan h = smGet 0 s.mute.scan h) ∧
      t = { s with out := t.out, mute := { s.mute with scan := t.mute.scan } }) ∧
  (∀ (s : State) (g : Nat), g < 140 → scanOpen s = false ∨ g = 138 → exec (.scanShift g) s = .next s) ∧
  (∀ (s : State) (c a : Nat), c < coreCount → scanOpen s = true → s.muted = true → (coreOf s c).ecc.marks = [] →
    (a < 6144 → exec (.memoryInstrumentRead c .localStore a) s =
      .next { s with out := s.out ++ [.instrument (memNat (coreOf s c).ls (8 * a) 8) false false] }) ∧
    (a < 2048 → exec (.memoryInstrumentRead c .instrStore a) s =
      .next { s with out := s.out ++ [.instrument (memNat (coreOf s c).is (8 * a) 8) false false] }) ∧
    (a < 256 → exec (.memoryInstrumentRead c .accumulator a) s =
      .next { s with out := s.out ++ [.instrument (accGet (coreOf s c) a).sum.toNat false false] })) ∧
  (∀ (s : State) (c a : Nat) (arr : MemArray), c < coreCount → a < 256 → scanOpen s = false ∨ s.muted = false →
    exec (.memoryInstrumentRead c arr a) s = .next s) ∧
  (∀ s : State, exec .tapReset s = .next s) ∧
  (∀ (s : State) (a : Nat) (v : BitVec 32), s.life = .up → s.muted = true → a % 64 = 0 → a < 2 ^ 43 →
    ∀ i ∈ [Instr.rdS a, .rdE a, .drop a, .binvAck a, .irqMaskWrite v, .faultLogClear, .rstcauseRead, .muteDisarm, .tunRingctlWrite v,
      .dcsWrite (BitVec.ofNat 32 (dcs SP 0x100)) 4 0],
      exec i s = .next { s with mute := { s.mute with waiting := s.mute.waiting ++ [i] } })

/-- 18 R477, R478: over SMBus the BMC sets an offset, writes and reads mailbox 15 in blocks, reads its control bits and answers the
alert; PMBus gives the status word, the revision and the measurements in LINEAR11; a wrong packet error code, or a module that is
muted or in reset, is not acknowledged. How LINEAR11 words round is the model's free choice (log 44). -/
def Obligations.SmbusTransfersComplete : Prop :=
  (∀ (s : State), smbAnswers s = true →
    (∀ v : BitVec 16, v.toNat % 4 = 0 → v.toNat < 4096 →
      exec (.smbSetOffset v true) s = .next { s with smbAt := v.toNat, out := s.out ++ [.smbus true []] }) ∧
    (∀ v : BitVec 16, v.toNat % 4 ≠ 0 ∨ 4096 ≤ v.toNat →
      exec (.smbSetOffset v true) s = .next { s with out := s.out ++ [.smbus false []] }) ∧
    (∀ bs : List Byte, 4 ≤ bs.length → bs.length ≤ 32 → bs.length % 4 = 0 → mbxState s 15 = 0 → s.smbAt + bs.length ≤ 4096 →
      ∃ t, exec (.smbBlockWrite bs true) s = .next t ∧ memRead (mbx t 15).mem s.smbAt bs.length = bs ∧
        (∀ x, x < s.smbAt ∨ s.smbAt + bs.length ≤ x → memByte (mbx t 15).mem x = memByte (mbx s 15).mem x) ∧
        t.smbAt = s.smbAt + bs.length ∧ t = { s with mbx := t.mbx, smbAt := t.smbAt, out := s.out ++ [.smbus true []] }) ∧
    exec (.smbBlockRead true) s = .next { s with
      smbAt := s.smbAt + min 32 (4096 - s.smbAt)
      out := s.out ++ [.smbus true (memRead (mbx s 15).mem s.smbAt (min 32 (4096 - s.smbAt)))] } ∧
    exec (.smbReadCtl true) s = .next { s with out := s.out ++ [.smbus true [BitVec.ofNat 8 (regBits s (mbxCtl 15) 6 0)]] } ∧
    (s.pins.smbAlertN = false → ∃ a, exec (.smbAlertResponse true) s =
      .next { s with pins := { s.pins with smbAlertN := true }, out := s.out ++ [.smbus true [a]] }) ∧
    (s.pins.smbAlertN = true → exec (.smbAlertResponse true) s = .next { s with out := s.out ++ [.smbus false []] }) ∧
    exec (.pmbusRevision true) s = .next { s with out := s.out ++ [.smbus true [0x33]] } ∧
    (∃ w, exec (.statusWord true) s = .next { s with out := s.out ++ [.smbus true (bytesLE 2 w)] } ∧
      (bitAt w 2 = true ↔ regBits s (dcs SP 0x200008) 14 14 = 1) ∧ (bitAt w 6 = true ↔ pwrState s = 4) ∧
      (bitAt w 13 = true ↔ regBits s (dcs SP 0x200030) 31 0 < 40000 ∨ 59500 < regBits s (dcs SP 0x200030) 31 0)) ∧
    ∀ r ∈ [(Instr.readVin true, (regBits s (dcs SP 0x200030) 31 0 : Int)), (.readIin true, regBits s (dcs SP 0x200030) 63 32),
        (.readTemperature1 true, 125 * toSigned 16 (regBits s (dcs SP 0x200020) 15 0)),
        (.readTemperature2 true, 125 * toSigned 16 (regBits s (dcs SP 0x200020) 39 24)),
        (.readPin true, 1000 * regBits s (dcs SP 0x200018) 31 0)],
      ∃ w, exec r.1 s = .next { s with out := s.out ++ [.smbus true (bytesLE 2 w)] } ∧
        (-1024000 ≤ r.2 → r.2 ≤ 33000000000 →
          let n := toSigned 5 (w / 2 ^ 11)
          let m := toSigned 11 w
          let x := linearScaled r.2 n
          (m - 1) * x.2 < x.1 ∧ x.1 < (m + 1) * x.2)) ∧
  (∀ (s : State) (bs : List Byte) (v : BitVec 16), 4 ≤ bs.length → bs.length ≤ 32 → bs.length % 4 = 0 →
    ∀ i ∈ [Instr.smbSetOffset v, .smbBlockWrite bs, .smbBlockRead, .smbReadCtl, .smbAlertResponse, .statusWord, .readVin, .readIin,
        .readTemperature1, .readTemperature2, .readPin, .pmbusRevision],
      exec (i false) s = .next { s with out := s.out ++ [.smbus false []] } ∧
        (smbAnswers s = false → exec (i true) s = .next { s with out := s.out ++ [.smbus false []] }))


-- The block as a whole ----------------------------------------------------------------------------------------------

namespace Sys2Proof.Claims

/-- The core that issues a command and its predicate, for the instruction rows that carry one (05 R133, R134). -/
def rowPred (i : Instr) : Option (Nat × Pred) :=
  match i with
  | .halt c p _ | .stepend c p _ | .gate c p _ | .capo c p _ | .br c p _ | .brr c p _ | .add c p _ | .sub c p _
  | .and c p _ | .or c p _ | .xor c p _ | .shl c p _ | .shr c p _ | .sra c p _ | .min c p _ | .max c p _
  | .minu c p _ | .maxu c p _ | .mul c p _ | .mulh c p _ | .mulhu c p _ | .icmp c p _ | .pand c p _ | .por c p _
  | .pxor c p _ | .pnot c p _ | .addi c p _ | .andi c p _ | .ori c p _ | .xori c p _ | .shli c p _ | .shri c p _
  | .srai c p _ | .li c p _ | .csrr c p _ | .csrw c p _ | .rdid c p _ | .fadd c p _ | .fsub c p _ | .fmul c p _
  | .ffma c p _ | .fdiv c p _ | .fsqrt c p _ | .fmin c p _ | .fmax c p _ | .fminnum c p _ | .fmaxnum c p _
  | .fneg c p _ | .fabs c p _ | .fcmp c p _ | .fcvt c p _ | .vfadd c p _ | .vfsub c p _ | .vfmul c p _ | .vffma c p _
  | .vfdiv c p _ | .vfsqrt c p _ | .vfmin c p _ | .vfmax c p _ | .vfminnum c p _ | .vfmaxnum c p _ | .vfneg c p _
  | .vfabs c p _ | .vfcmp c p _ | .vcvt c p _ | .vadd c p _ | .vsub c p _ | .vand c p _ | .vor c p _ | .vxor c p _
  | .vshl c p _ | .vshr c p _ | .vsra c p _ | .vmin c p _ | .vmax c p _ | .vminu c p _ | .vmaxu c p _ | .vmul c p _
  | .vperm c p _ | .vsel c p _ | .vbcast c p _ | .vext c p _ | .vqmx c p _ | .vdqmx c p _ | .vqeb4 c p _
  | .vdqeb4 c p _ | .movrx c p _ | .ld c p _ | .st c p _ | .sld c p _ | .sst c p _ | .ifill c p _ | .smsend c p _
  | .smsendv c p _ | .outpost c p _ | .lbarm c p _ | .mset c p _ | .mscale c p _ | .malda c p _ | .mma c p _
  | .accinit c p _ | .accld c p _ | .drain c p _ | .accrd c p _ | .mmAg c p _ | .mmRs c p _ | .accAr c p _
  | .xchV c p _ | .gthV c p _ | .spdot c p _ | .spcompress c p _ | .spbin c p _ | .spmask c p _ | .spmerge c p _
  | .spjoin c p _ => some (c, p)
  | _ => none

/-- The instructions that occupy the sparse unit even when predicated off (06 R158). -/
def sparseRow (i : Instr) : Bool :=
  match i with
  | .spdot .. | .spcompress .. | .spbin .. | .spmask .. => true
  | _ => false

/-- The opcodes of the instructions (05 R140 to R150, R155; 06 R181). -/
def opcodes : List Nat :=
  [0x00, 0x01, 0x02, 0x03, 0x04, 0x05, 0x06, 0x08, 0x09, 0x0A] ++ [0x10, 0x11, 0x12, 0x13, 0x14, 0x18, 0x19, 0x1A] ++
  [0x20, 0x21, 0x22, 0x23, 0x24, 0x25, 0x26, 0x27, 0x28, 0x2C] ++ [0x30, 0x31, 0x32, 0x33, 0x34, 0x35, 0x36, 0x37] ++
  [0x38, 0x39, 0x3A, 0x3B, 0x3C, 0x3D, 0x3E, 0x3F] ++ [0x48, 0x49, 0x4A, 0x4B, 0x4C, 0x50, 0x51, 0x52, 0x53, 0x54, 0x55]

/-- The last result due by cycle `n` for one destination; of two in one cycle the later-issued instruction's (04 R99). -/
def lastDue (k : Core) (n : Nat) (d : Dst) : Option Nat :=
  ((k.wb.filter (fun w => w.due ≤ n && w.dst = d)).getLast?).map (fun w => w.val)

/-- A core that has issued nothing in the present cycle, marked as having issued in it, the issue noted until the cycle ends. -/
def spent (s : State) (c : Nat) : State := modCore (noteIssue s c false) c (fun k => { k with next := s.plane.cyc + 1 })

end Sys2Proof.Claims

/-- 04 R98, R99: a result becomes readable at its cycle and not before, in program order within a cycle. -/
def Obligations.ResultsLand : Prop :=
  ∀ (k : Core) (n : Nat),
    (∀ i < 32, sGet (commitWb k n) i = match lastDue k n (.s i) with | some v => BitVec.ofNat 32 v | none => sGet k i) ∧
    (∀ i < 8, pGet (commitWb k n) i = match lastDue k n (.p i) with | some v => decide (v % 2 = 1) | none => pGet k i) ∧
    (∀ i < 16, (commitWb k n).v[i]? = match lastDue k n (.v i) with | some v => some (BitVec.ofNat 512 v) | none => k.v[i]?) ∧
    (commitWb k n).wb = k.wb.filter (fun w => n < w.due) ∧ (commitWb k n).pc = k.pc ∧ (commitWb k n).halted = k.halted

/-- 05 R134, R156; 06 R158: a predicated-off instruction changes nothing but its core's place in the program and its
occupancy, raises no fault but those of an illegal word or of the schedule, and a sparse row still occupies its unit. -/
def Obligations.PredicatedOffChangesNothing : Prop :=
  ∀ (i : Instr) (c : Nat) (p : Pred) (s : State), rowPred i = some (c, p) → Ready s c → executes (coreOf s c) p = false →
    (∃ needs, exec i s = .next (afterIssue s c needs
      (fun k => if sparseRow i then { k with sparseOut := true, sparseAt := s.plane.cyc } else k))) ∨
    (∃ code, (code = 0x01 ∨ code = 0x02) ∧
      exec i s = .next (coreFault (spent s c) c code (coreOf s c).pc s.plane.cyc))

/-- 05 R136, R156; 04 R99: an operand outside its register file raises ILLEGAL_INSTRUCTION, also in an instruction that is
predicated off, and an occupied resource SCHEDULE_VIOLATION; the instruction does nothing else. -/
def Obligations.IllegalOperandsAndOccupiedUnitsFault : Prop :=
  (∀ row ∈ integerRows, ∀ (s : State) (c : Nat) (p : Pred) (f : FmtR), Ready s c →
    (32 ≤ f.ra.toNat ∨ 32 ≤ f.rb.toNat ∨ 32 ≤ f.rd.toNat) →
    exec (row.1 c p f) s = .next (coreFault (spent s c) c 0x01 (coreOf s c).pc s.plane.cyc)) ∧
  (∀ row ∈ integerRows, ∀ (s : State) (c : Nat) (p : Pred) (f : FmtR) (a b d : Nat), Ready s c →
    sReg f.ra = some a → sReg f.rb = some b → sReg f.rd = some d →
    needClash (coreOf s c) s.plane.cyc ⟨.siu, 0, 1⟩ = true →
    exec (row.1 c p f) s = .next (coreFault (spent s c) c 0x02 (coreOf s c).pc s.plane.cyc)) ∧
  (∀ (s : State) (c : Nat) (p : Pred) (f : FmtR), Ready s c → 5 < f.fn.toNat →
    exec (.icmp c p f) s = .next (coreFault (spent s c) c 0x01 (coreOf s c).pc s.plane.cyc))

/-- 05 R156, R157; 14 R374, R388: a halt-class fault is recorded in its core, the first staying and MORE marking a further
one; the plane halts at the end of the cycle, the run ends as failed with the fault's code, and interrupts 20 and 22 pend. -/
def Obligations.CoreFaultHaltsPlane : Prop :=
  ∀ (s : State) (c code pc n : Nat), 0 < code → code < 256 →
    let t := coreFault s c code pc n
    (∀ d, d ≠ c → coreOf t d = coreOf s d) ∧ t.dram = s.dram ∧ t.tiles = s.tiles ∧ t.bridges = s.bridges ∧
    ((coreOf s c).fault.code = 0 → coreOf t c = { coreOf s c with fault := ⟨code, pc, false, n⟩ }) ∧
    ((coreOf s c).fault.code ≠ 0 → coreOf t c = { coreOf s c with fault := { (coreOf s c).fault with more := true } }) ∧
    (s.plane.halted = none → t.plane.halted = some n ∧ t.plane.haltBy = c ∧ t.plane.run = .idle ∧
      regBits t (dcs SP 0x200) 1 0 = 2 ∧ regBits t (dcs SP 0x200) 15 8 = code ∧
      regBits t (dcs SP 0x200) 63 32 = (tileReg s 0 0x80C).toNat ∧
      regBits t (dcs APL 0x100) 20 20 = 1 ∧ regBits t (dcs APL 0x100) 22 22 = 1)

/-- The model's own (log 1): a step takes the command at the front of the queue and runs it with the queue's rest; on an empty
queue the cores issue and one count passes. 04 R97, R102, 05 R133, R135, R138 (log 86): a core whose turn it is issues the
instruction its word spells by the bit places of its format; a word of an opcode no row of the table has is
ILLEGAL_INSTRUCTION. -/
def Obligations.StepRunsFrontCommand : Prop :=
  (∀ (s : State) (i : Instr) (rest : List Instr),
    step { s with pending := i :: rest } = exec i { s with pending := rest }) ∧
  (∀ s : State, s.pending = [] → step s = .next (tick (fetchCycle s))) ∧
  (∀ (s : State) (c : Nat) (i : Instr), Canonical s → Turn s c → decodeInsn c (fetchWord (coreOf s c)) = some i →
    exec i s = .next (fetchCore s c)) ∧
  (∀ (s : State) (c : Nat), Canonical s → Ready s c → decodeInsn c (fetchWord (coreOf s c)) = none →
    fetchCore s c = coreFault (spent s c) c 0x01 (coreOf s c).pc s.plane.cyc) ∧
  (∀ (c : Nat) (w : BitVec 64), w.toNat / 2 ^ 56 ∉ opcodes → decodeInsn c w = none) ∧
  (∀ c : Nat, decodeInsn c 0 = some (.nop c)) ∧
  (∀ (c : Nat) (w : BitVec 64),
    let p : Pred := ⟨w.getLsbD 55, w.getLsbD 54, BitVec.ofNat 3 (w.toNat / 2 ^ 51)⟩
    (w.toNat / 2 ^ 56 = 0x08 → w.toNat / 2 ^ 12 % 64 = 1 → ∃ f : FmtR, decodeInsn c w = some (.sub c p f) ∧
      f.rm.toNat = w.toNat / 2 ^ 48 % 8 ∧ f.ty.toNat = w.toNat / 2 ^ 43 % 32 ∧ f.sat = w.getLsbD 42 ∧
      f.rd.toNat = w.toNat / 2 ^ 36 % 64 ∧ f.ra.toNat = w.toNat / 2 ^ 30 % 64 ∧ f.rb.toNat = w.toNat / 2 ^ 24 % 64 ∧
      f.rc.toNat = w.toNat / 2 ^ 18 % 64) ∧
    (w.toNat / 2 ^ 56 = 0x31 → ∃ f : FmtI, decodeInsn c w = some (.st c p f) ∧ f.sz.toNat = w.toNat / 2 ^ 48 % 8 ∧
      f.rd.toNat = w.toNat / 2 ^ 42 % 64 ∧ f.ra.toNat = w.toNat / 2 ^ 36 % 64 ∧ f.fn.toNat = w.toNat / 2 ^ 32 % 16 ∧
      f.imm.toNat = w.toNat % 2 ^ 32) ∧
    (w.toNat / 2 ^ 56 = 0x38 → ∃ f : FmtM, decodeInsn c w = some (.mma c p f) ∧ f.sr = w.getLsbD 50 ∧
      f.mode.toNat = w.toNat / 2 ^ 48 % 4 ∧ f.tya.toNat = w.toNat / 2 ^ 43 % 32 ∧ f.tyb.toNat = w.toNat / 2 ^ 38 % 32 ∧
      f.acc.toNat = w.toNat / 2 ^ 36 % 4 ∧ f.ent.toNat = w.toNat / 2 ^ 30 % 64 ∧ f.esel.toNat = w.toNat / 2 ^ 27 % 8 ∧
      f.msb.toNat = w.toNat / 2 ^ 25 % 4 ∧ f.af.toNat = w.toNat / 2 ^ 23 % 4 ∧ f.init = w.getLsbD 22) ∧
    (w.toNat / 2 ^ 56 = 0x3C → ∃ f : FmtA, decodeInsn c w = some (.accrd c p f) ∧ f.ty.toNat = w.toNat / 2 ^ 43 % 32 ∧
      f.rv.toNat = w.toNat / 2 ^ 36 % 64 ∧ f.acc.toNat = w.toNat / 2 ^ 33 % 8 ∧ f.ent.toNat = w.toNat / 2 ^ 27 % 64 ∧
      f.latch = w.getLsbD 26 ∧ f.af.toNat = w.toNat / 2 ^ 24 % 4) ∧
    (w.toNat / 2 ^ 56 = 0x06 → ∃ f : FmtC, decodeInsn c w = some (.brr c p f) ∧ f.ra.toNat = w.toNat / 2 ^ 36 % 64 ∧
      f.mask.toNat = w.toNat % 2 ^ 17 ∧ f.target.toNat = w.toNat % 2 ^ 11) ∧
    (w.toNat / 2 ^ 56 = 0x4B → ∃ f : FmtX, decodeInsn c w = some (.xchV c p f) ∧ f.ct.toNat = w.toNat / 2 ^ 42 % 64 ∧
      f.ra.toNat = w.toNat / 2 ^ 36 % 64 ∧ f.imm.toNat = w.toNat % 2 ^ 32))

/-- The model's own: every step keeps the canonical form of the registers, memories and unit tables. -/
def Obligations.EveryStepKeepsTheCanonicalForm : Prop :=
  ∀ s t : State, Canonical s → step s = .next t → Canonical t

/-- The model's own: the state after reset has the canonical form. -/
def Obligations.ResetHasTheCanonicalForm : Prop := Canonical State.reset

/-- 15 R411, 16 R423, R434: the anti-rollback counters and the counts of boots and updates never fall. -/
def Obligations.CountersNeverFall : Prop := ∀ s t : State, step s = .next t → NeverFell s t

/-- 01 R12, R29: a command whose units exist is never refused, and faults only where the bytes it carries have not the length
its descriptor or header states; an instruction of a core that does not exist is refused. -/
def Obligations.OnlyAbsentUnitsAreRefused : Prop :=
  (∀ (i : Instr) (s : State), i.wf = true → ∀ r, exec i s ≠ .refused r) ∧
  (∀ (i : Instr) (s : State) (f : Fault), i.wf = true → exec i s = .fault f →
    (∃ n img, i = .loadProgram n img) ∨ (∃ n img, i = .updateImageWrite n img) ∨ (∃ ch d, i = .copyDescriptorDone ch d) ∨
      ∃ ch d, i = .hostErr ch d) ∧
  (∀ (i : Instr) (c : Nat) (p : Pred) (s : State), rowPred i = some (c, p) → 1048576 ≤ c →
    exec i s = .refused (.noSuchUnit "core"))

/-- Values the spec states for reset: the device ID at its address, which no write changes (00 R8), the matrix control of every core (03 R85) with its other registers
(02 R42, R66; 03 R81; 05 R157; 06 R181), the pools and spill lines of every Bridge (08 R228, R232), the interrupt mask and
pending bits (14 R375), the mailboxes (14 R379), the run (13 R355), the power state with its history (16 R423), the tile step
index and keys (03 R81), the MUTE registers (17 R455), and an empty queue of commands. -/
def Obligations.ResetValues : Prop :=
  let r := State.reset
  (∀ d o, d < 256 → o < 2 ^ 24 → dcs d o < 2 ^ 32 ∧ dcs d o / 2 ^ 24 = d ∧ dcs d o % 2 ^ 24 = o) ∧ dcs SP 0 = 0x65000000 ∧
  regWord r (dcs SP 0) = 0x4810A100#32 ∧ (∀ v, regWord (regWrite r (dcs SP 0) v) (dcs SP 0) = 0x4810A100#32) ∧
  (∀ c, (coreOf r c).mxctl = 0x001700FF#32 ∧ (coreOf r c).fpctl = 0 ∧ (coreOf r c).fpstat = 0 ∧ (coreOf r c).blkuf = 0 ∧
    (coreOf r c).mxstat = 0 ∧ (coreOf r c).srseq = 0 ∧ (coreOf r c).pc = 0 ∧ (coreOf r c).fault = ⟨0, 0, false, 0⟩ ∧
    (coreOf r c).capo = 0 ∧ (coreOf r c).outbox = [] ∧ (coreOf r c).spskip = 0 ∧ (coreOf r c).spstat = 0) ∧
  (∀ d, 64 ≤ d → d < 100 → regBits r (dcs d 0x108) 14 0 = 16384 ∧ regBits r (dcs d 0x108) 29 16 = 8192 ∧
    regBits r (dcs d 0x108) 43 32 = 3072 ∧ regBits r (dcs d 0x108) 59 48 = 2896 ∧ regBits r (dcs d 0x118) 39 32 = 128 ∧
    regBits r (dcs d 0x118) 26 0 = 0 ∧ regBits r (dcs d 0x030) 2 0 = 0) ∧
  regBits r (dcs APL 0x108) 25 0 = 0x3FFFFFF ∧ regBits r (dcs APL 0x100) 25 0 = 0 ∧
  (∀ n < 16, regWord r (dcs SP (0x800 + 8 * n)) = 0) ∧
  regBits r (dcs TUN 0x028) 3 0 = 0 ∧ r.plane.run = .idle ∧
  regBits r (dcs SP 0x200008) 2 0 = 0 ∧ regBits r (dcs SP 0x200008) 10 4 = 0 ∧ regBits r (dcs SP 0x200008) 27 16 = 1987 ∧
  (∀ t < 64, tileReg r t 0x800 = 0 ∧ tileReg r t 0x804 = 0 ∧ tileReg r t 0x808 = 0 ∧ tileReg r t 0x80C = 0) ∧
  regBits r (dcs TUN 0x108) 6 0 = 0 ∧ regNat r (dcs TUN 0x100) 2 = 0 ∧ r.pending = []
end

