-- ==== Sys2Proof/Laws/Bits.lean ====
section
/-! SUPPORT. Laws of sparse maps and byte memories: a read after a write, and the canonical form every write keeps. -/
namespace Sys2Proof.Machine
variable {α : Type}

theorem smGet_smErase_same (d : α) (m : SMap α) (k : Nat) : smGet d (smErase m k) k = d := by
  induction m with
  | nil => rfl
  | cons e m ih =>
    obtain ⟨a, v⟩ := e
    by_cases h : a = k <;> simp [smErase, h, smGet, ih]

theorem smGet_smErase_ne (d : α) (m : SMap α) {k j : Nat} (h : j ≠ k) : smGet d (smErase m k) j = smGet d m j := by
  induction m with
  | nil => rfl
  | cons e m ih =>
    obtain ⟨a, v⟩ := e
    by_cases hk : a = k
    · have : a ≠ j := fun e => h (e.symm.trans hk)
      simp [smErase, hk, smGet, ih]; intro e; exact absurd e.symm h
    · simp [smErase, hk, smGet, ih]

theorem smGet_smInsert_same (d : α) (m : SMap α) (k : Nat) (v : α) : smGet d (smInsert k v (smErase m k)) k = v := by
  induction m with
  | nil => simp [smErase, smInsert, smGet]
  | cons e m ih =>
    obtain ⟨a, w⟩ := e
    by_cases hk : a = k
    · simpa [smErase, hk] using ih
    · by_cases hl : k < a <;> simp [smErase, hk, smInsert, hl, smGet, ih]

theorem smGet_smInsert_ne (d : α) (m : SMap α) (v : α) {k j : Nat} (h : j ≠ k) :
    smGet d (smInsert k v m) j = smGet d m j := by
  induction m with
  | nil => simp [smInsert, smGet]; intro e; exact absurd e.symm h
  | cons e m ih =>
    obtain ⟨a, w⟩ := e
    by_cases hl : k < a
    · simp [smInsert, hl, smGet]; intro e; exact absurd e.symm h
    · simp [smInsert, hl, smGet, ih]

variable [DecidableEq α]

/-- What was written is read back. -/
@[simp] theorem smGet_smSet_same (d : α) (m : SMap α) (k : Nat) (v : α) : smGet d (smSet d m k v) k = v := by
  by_cases h : v = d
  · simp [smSet, h, smGet_smErase_same]
  · simp [smSet, h, smGet_smInsert_same]

/-- Every other key reads as before. -/
theorem smGet_smSet_ne (d : α) (m : SMap α) (v : α) {k j : Nat} (h : j ≠ k) :
    smGet d (smSet d m k v) j = smGet d m j := by
  by_cases hv : v = d
  · simp [smSet, hv, smGet_smErase_ne d m h]
  · simp [smSet, hv, smGet_smInsert_ne d _ v h, smGet_smErase_ne d m h]

/-- A read after a write. -/
theorem smGet_smSet (d : α) (m : SMap α) (k j : Nat) (v : α) :
    smGet d (smSet d m k v) j = if j = k then v else smGet d m j := by
  by_cases h : j = k
  · simp [h]
  · simp [h, smGet_smSet_ne d m v h]

/-- The canonical form, key by key: every key is above the first. -/
theorem smWf_cons (d : α) (a : Nat) (v : α) (m : SMap α) :
    smWf d ((a, v) :: m) = true ↔ v ≠ d ∧ (∀ e ∈ m, a < e.1) ∧ smWf d m = true := by
  induction m generalizing a v with
  | nil => simp [smWf]
  | cons e m ih =>
    obtain ⟨b, w⟩ := e
    have hb := ih b w
    simp only [smWf, Bool.and_eq_true, decide_eq_true_eq, hb, List.mem_cons, forall_eq_or_imp]
    constructor
    · rintro ⟨⟨h1, h2⟩, h3, h4, h5⟩
      exact ⟨h2, ⟨h1, fun e he => lt_trans h1 (h4 e he)⟩, h3, h4, h5⟩
    · rintro ⟨h2, ⟨h1, -⟩, h3, h4, h5⟩
      exact ⟨⟨h1, h2⟩, h3, h4, h5⟩

omit [DecidableEq α] in
theorem mem_smErase (m : SMap α) (k : Nat) (e : Nat × α) : e ∈ smErase m k → e ∈ m ∧ e.1 ≠ k := by
  induction m with
  | nil => simp [smErase]
  | cons f m ih =>
    obtain ⟨a, v⟩ := f
    by_cases hk : a = k
    · simp only [smErase, hk, if_true]
      intro h; exact ⟨List.mem_cons_of_mem _ (ih h).1, (ih h).2⟩
    · simp only [smErase, hk, if_false, List.mem_cons]
      rintro (rfl | h)
      · exact ⟨Or.inl rfl, hk⟩
      · exact ⟨Or.inr (ih h).1, (ih h).2⟩

omit [DecidableEq α] in
theorem mem_smInsert (m : SMap α) (k : Nat) (v : α) (e : Nat × α) :
    e ∈ smInsert k v m ↔ e = (k, v) ∨ e ∈ m := by
  induction m with
  | nil => simp [smInsert]
  | cons f m ih =>
    obtain ⟨a, w⟩ := f
    by_cases hl : k < a
    · simp [smInsert, hl]
    · simp only [smInsert, hl, if_false, List.mem_cons, ih]; tauto

theorem smWf_smErase (d : α) (m : SMap α) (k : Nat) (h : smWf d m = true) : smWf d (smErase m k) = true := by
  induction m with
  | nil => rfl
  | cons e m ih =>
    obtain ⟨a, v⟩ := e
    obtain ⟨h1, h2, h3⟩ := (smWf_cons d a v m).1 h
    by_cases hk : a = k
    · simpa [smErase, hk] using ih h3
    · simp only [smErase, hk, if_false]
      exact (smWf_cons d a v _).2 ⟨h1, fun e he => h2 e (mem_smErase m k e he).1, ih h3⟩

theorem smWf_smInsert (d : α) (m : SMap α) (k : Nat) (v : α) (h : smWf d m = true) (hv : v ≠ d)
    (hk : ∀ e ∈ m, e.1 ≠ k) : smWf d (smInsert k v m) = true := by
  induction m with
  | nil => simp [smInsert, smWf, hv]
  | cons e m ih =>
    obtain ⟨a, w⟩ := e
    obtain ⟨h1, h2, h3⟩ := (smWf_cons d a w m).1 h
    by_cases hl : k < a
    · simp only [smInsert, hl, if_true]
      refine (smWf_cons d k v _).2 ⟨hv, ?_, h⟩
      intro e he
      rcases List.mem_cons.1 he with rfl | he
      · exact hl
      · exact lt_trans hl (h2 e he)
    · simp only [smInsert, hl, if_false]
      have hak : a ≠ k := hk (a, w) (List.mem_cons_self ..)
      refine (smWf_cons d a w _).2 ⟨h1, ?_, ih h3 (fun e he => hk e (List.mem_cons_of_mem _ he))⟩
      intro e he
      rcases (mem_smInsert m k v e).1 he with rfl | he
      · simp only; omega
      · exact h2 e he

/-- Every write keeps the canonical form. -/
theorem smWf_smSet (d : α) (m : SMap α) (k : Nat) (v : α) (h : smWf d m = true) : smWf d (smSet d m k v) = true := by
  unfold smSet
  split
  · exact smWf_smErase d m k h
  · exact smWf_smInsert d _ k v (smWf_smErase d m k h) ‹_› (fun e he => (mem_smErase m k e he).2)

theorem smErase_smErase {β : Type} (m : SMap β) (k : Nat) : smErase (smErase m k) k = smErase m k := by
  induction m with
  | nil => rfl
  | cons e m ih =>
    obtain ⟨a, v⟩ := e
    by_cases hk : a = k <;> simp [smErase, hk, ih]

theorem smErase_smInsert {β : Type} (m : SMap β) (k : Nat) (v : β) :
    smErase (smInsert k v (smErase m k)) k = smErase m k := by
  induction m with
  | nil => simp [smErase, smInsert]
  | cons e m ih =>
    obtain ⟨a, w⟩ := e
    by_cases hk : a = k
    · simpa [smErase, hk] using ih
    · by_cases hl : k < a
      · simp [smErase, hk, smInsert, hl, smErase_smErase]
      · simp [smErase, hk, smInsert, hl, ih]

/-- Of two writes at one key the last remains. -/
@[simp] theorem smSet_smSet_same (d : α) (m : SMap α) (k : Nat) (v w : α) : smSet d (smSet d m k v) k w = smSet d m k w := by
  by_cases hv : v = d <;> simp [smSet, hv, smErase_smErase, smErase_smInsert]

-- Byte memories -----------------------------------------------------------------------------------------------------

theorem memByte_memPut (m : Memory) (a j : Nat) (b : Byte) :
    memByte (memPut m a b) j = if j = a then b else memByte m j := smGet_smSet _ _ _ _ _

theorem memPut_wf (m : Memory) (a : Nat) (b : Byte) (h : m.wf = true) : (memPut m a b).wf = true :=
  smWf_smSet _ _ _ _ h

/-- A byte string that is written keeps the canonical form. -/
theorem memWrite_wf (m : Memory) (a : Nat) (bs : List Byte) (h : m.wf = true) : (memWrite m a bs).wf = true := by
  induction bs generalizing m a with
  | nil => exact h
  | cons b bs ih => exact ih _ _ (memPut_wf m a b h)

/-- A byte outside the written string reads as before. -/
theorem memByte_memWrite_out (m : Memory) (a j : Nat) (bs : List Byte) (h : j < a ∨ a + bs.length ≤ j) :
    memByte (memWrite m a bs) j = memByte m j := by
  induction bs generalizing m a with
  | nil => rfl
  | cons b bs ih =>
    simp only [List.length_cons] at h
    simp only [memWrite]
    rw [ih _ _ (by omega), memByte_memPut, if_neg (by omega)]

/-- A byte of the written string reads as it was written. -/
theorem memByte_memWrite_in (m : Memory) (a : Nat) (bs : List Byte) (i : Nat) (h : i < bs.length) :
    memByte (memWrite m a bs) (a + i) = bs[i] := by
  induction bs generalizing m a i with
  | nil => simp at h
  | cons b bs ih =>
    simp only [memWrite]
    cases i with
    | zero => rw [memByte_memWrite_out _ _ _ _ (by omega), memByte_memPut]; simp
    | succ i =>
      have := ih (memPut m a b) (a + 1) i (by simpa using h)
      rw [show a + (i + 1) = a + 1 + i by omega, this]; rfl

/-- What a write stored is read back. -/
theorem memRead_memWrite_same (m : Memory) (a : Nat) (bs : List Byte) : memRead (memWrite m a bs) a bs.length = bs := by
  induction bs generalizing m a with
  | nil => rfl
  | cons b bs ih =>
    simp only [memWrite, List.length_cons, memRead, ih]
    rw [memByte_memWrite_out _ _ _ _ (by omega), memByte_memPut]; simp

theorem memRead_length (m : Memory) (a n : Nat) : (memRead m a n).length = n := by
  induction n generalizing a with
  | zero => rfl
  | succ n ih => simp [memRead, ih]

theorem bytesLE_length (n v : Nat) : (bytesLE n v).length = n := by
  induction n generalizing v with
  | zero => rfl
  | succ n ih => simp [bytesLE, ih]

/-- Little-endian bytes spell the number they came from. -/
theorem natLE_bytesLE (n v : Nat) : natLE (bytesLE n v) = v % 256 ^ n := by
  induction n generalizing v with
  | zero => simp [bytesLE, natLE, Nat.mod_one]
  | succ n ih =>
    have h : (BitVec.ofNat 8 v).toNat = v % 256 := by simp
    rw [bytesLE, natLE, ih, h, show 256 ^ (n + 1) = 256 * 256 ^ n from Nat.pow_succ', Nat.mod_mul]

end Sys2Proof.Machine
end

