-- ==== Sys2Proof/Laws/State.lean ====
section
/-! SUPPORT. What each update of the state leaves of every field: one lemma per field per update, and the reads after it. -/
namespace Sys2Proof.Machine

-- setCore

@[simp] theorem setCore_out (s : State) (c : Nat) (k : Core) : (setCore s c k).out = s.out := rfl
@[simp] theorem setCore_image (s : State) (c : Nat) (k : Core) : (setCore s c k).image = s.image := rfl
@[simp] theorem setCore_pending (s : State) (c : Nat) (k : Core) : (setCore s c k).pending = s.pending := rfl
@[simp] theorem setCore_count (s : State) (c : Nat) (k : Core) : (setCore s c k).count = s.count := rfl
@[simp] theorem setCore_muted (s : State) (c : Nat) (k : Core) : (setCore s c k).muted = s.muted := rfl
@[simp] theorem setCore_plane (s : State) (c : Nat) (k : Core) : (setCore s c k).plane = s.plane := rfl
@[simp] theorem setCore_tokSent (s : State) (c : Nat) (k : Core) : (setCore s c k).tokSent = s.tokSent := rfl
@[simp] theorem setCore_tokGot (s : State) (c : Nat) (k : Core) : (setCore s c k).tokGot = s.tokGot := rfl
@[simp] theorem setCore_regs (s : State) (c : Nat) (k : Core) : (setCore s c k).regs = s.regs := rfl
@[simp] theorem setCore_dram (s : State) (c : Nat) (k : Core) : (setCore s c k).dram = s.dram := rfl
@[simp] theorem setCore_bridges (s : State) (c : Nat) (k : Core) : (setCore s c k).bridges = s.bridges := rfl
@[simp] theorem setCore_tiles (s : State) (c : Nat) (k : Core) : (setCore s c k).tiles = s.tiles := rfl
@[simp] theorem setCore_stepCodes (s : State) (c : Nat) (k : Core) : (setCore s c k).stepCodes = s.stepCodes := rfl
@[simp] theorem setCore_dir (s : State) (c : Nat) (k : Core) : (setCore s c k).dir = s.dir := rfl
@[simp] theorem setCore_recalls (s : State) (c : Nat) (k : Core) : (setCore s c k).recalls = s.recalls := rfl
@[simp] theorem setCore_cohWait (s : State) (c : Nat) (k : Core) : (setCore s c k).cohWait = s.cohWait := rfl
@[simp] theorem setCore_polSp (s : State) (c : Nat) (k : Core) : (setCore s c k).polSp = s.polSp := rfl
@[simp] theorem setCore_polApl (s : State) (c : Nat) (k : Core) : (setCore s c k).polApl = s.polApl := rfl
@[simp] theorem setCore_life (s : State) (c : Nat) (k : Core) : (setCore s c k).life = s.life := rfl
@[simp] theorem setCore_pins (s : State) (c : Nat) (k : Core) : (setCore s c k).pins = s.pins := rfl
@[simp] theorem setCore_mbx (s : State) (c : Nat) (k : Core) : (setCore s c k).mbx = s.mbx := rfl
@[simp] theorem setCore_exec (s : State) (c : Nat) (k : Core) : (setCore s c k).exec = s.exec := rfl
@[simp] theorem setCore_due (s : State) (c : Nat) (k : Core) : (setCore s c k).due = s.due := rfl
@[simp] theorem setCore_ring (s : State) (c : Nat) (k : Core) : (setCore s c k).ring = s.ring := rfl
@[simp] theorem setCore_gov (s : State) (c : Nat) (k : Core) : (setCore s c k).gov = s.gov := rfl
@[simp] theorem setCore_flash (s : State) (c : Nat) (k : Core) : (setCore s c k).flash = s.flash := rfl
@[simp] theorem setCore_booted (s : State) (c : Nat) (k : Core) : (setCore s c k).booted = s.booted := rfl
@[simp] theorem setCore_ucode (s : State) (c : Nat) (k : Core) : (setCore s c k).ucode = s.ucode := rfl
@[simp] theorem setCore_copy (s : State) (c : Nat) (k : Core) : (setCore s c k).copy = s.copy := rfl
@[simp] theorem setCore_mute (s : State) (c : Nat) (k : Core) : (setCore s c k).mute = s.mute := rfl
@[simp] theorem setCore_a2Saved (s : State) (c : Nat) (k : Core) : (setCore s c k).a2Saved = s.a2Saved := rfl
@[simp] theorem setCore_smbAt (s : State) (c : Nat) (k : Core) : (setCore s c k).smbAt = s.smbAt := rfl
@[simp] theorem setCore_errs (s : State) (c : Nat) (k : Core) : (setCore s c k).errs = s.errs := rfl
@[simp] theorem setCore_free (s : State) (c : Nat) (k : Core) : (setCore s c k).free = s.free := rfl

-- modCore

@[simp] theorem modCore_out (s : State) (c : Nat) (f : Core → Core) : (modCore s c f).out = s.out := rfl
@[simp] theorem modCore_image (s : State) (c : Nat) (f : Core → Core) : (modCore s c f).image = s.image := rfl
@[simp] theorem modCore_pending (s : State) (c : Nat) (f : Core → Core) : (modCore s c f).pending = s.pending := rfl
@[simp] theorem modCore_count (s : State) (c : Nat) (f : Core → Core) : (modCore s c f).count = s.count := rfl
@[simp] theorem modCore_muted (s : State) (c : Nat) (f : Core → Core) : (modCore s c f).muted = s.muted := rfl
@[simp] theorem modCore_plane (s : State) (c : Nat) (f : Core → Core) : (modCore s c f).plane = s.plane := rfl
@[simp] theorem modCore_tokSent (s : State) (c : Nat) (f : Core → Core) : (modCore s c f).tokSent = s.tokSent := rfl
@[simp] theorem modCore_tokGot (s : State) (c : Nat) (f : Core → Core) : (modCore s c f).tokGot = s.tokGot := rfl
@[simp] theorem modCore_regs (s : State) (c : Nat) (f : Core → Core) : (modCore s c f).regs = s.regs := rfl
@[simp] theorem modCore_dram (s : State) (c : Nat) (f : Core → Core) : (modCore s c f).dram = s.dram := rfl
@[simp] theorem modCore_bridges (s : State) (c : Nat) (f : Core → Core) : (modCore s c f).bridges = s.bridges := rfl
@[simp] theorem modCore_tiles (s : State) (c : Nat) (f : Core → Core) : (modCore s c f).tiles = s.tiles := rfl
@[simp] theorem modCore_stepCodes (s : State) (c : Nat) (f : Core → Core) : (modCore s c f).stepCodes = s.stepCodes := rfl
@[simp] theorem modCore_dir (s : State) (c : Nat) (f : Core → Core) : (modCore s c f).dir = s.dir := rfl
@[simp] theorem modCore_recalls (s : State) (c : Nat) (f : Core → Core) : (modCore s c f).recalls = s.recalls := rfl
@[simp] theorem modCore_cohWait (s : State) (c : Nat) (f : Core → Core) : (modCore s c f).cohWait = s.cohWait := rfl
@[simp] theorem modCore_polSp (s : State) (c : Nat) (f : Core → Core) : (modCore s c f).polSp = s.polSp := rfl
@[simp] theorem modCore_polApl (s : State) (c : Nat) (f : Core → Core) : (modCore s c f).polApl = s.polApl := rfl
@[simp] theorem modCore_life (s : State) (c : Nat) (f : Core → Core) : (modCore s c f).life = s.life := rfl
@[simp] theorem modCore_pins (s : State) (c : Nat) (f : Core → Core) : (modCore s c f).pins = s.pins := rfl
@[simp] theorem modCore_mbx (s : State) (c : Nat) (f : Core → Core) : (modCore s c f).mbx = s.mbx := rfl
@[simp] theorem modCore_exec (s : State) (c : Nat) (f : Core → Core) : (modCore s c f).exec = s.exec := rfl
@[simp] theorem modCore_due (s : State) (c : Nat) (f : Core → Core) : (modCore s c f).due = s.due := rfl
@[simp] theorem modCore_ring (s : State) (c : Nat) (f : Core → Core) : (modCore s c f).ring = s.ring := rfl
@[simp] theorem modCore_gov (s : State) (c : Nat) (f : Core → Core) : (modCore s c f).gov = s.gov := rfl
@[simp] theorem modCore_flash (s : State) (c : Nat) (f : Core → Core) : (modCore s c f).flash = s.flash := rfl
@[simp] theorem modCore_booted (s : State) (c : Nat) (f : Core → Core) : (modCore s c f).booted = s.booted := rfl
@[simp] theorem modCore_ucode (s : State) (c : Nat) (f : Core → Core) : (modCore s c f).ucode = s.ucode := rfl
@[simp] theorem modCore_copy (s : State) (c : Nat) (f : Core → Core) : (modCore s c f).copy = s.copy := rfl
@[simp] theorem modCore_mute (s : State) (c : Nat) (f : Core → Core) : (modCore s c f).mute = s.mute := rfl
@[simp] theorem modCore_a2Saved (s : State) (c : Nat) (f : Core → Core) : (modCore s c f).a2Saved = s.a2Saved := rfl
@[simp] theorem modCore_smbAt (s : State) (c : Nat) (f : Core → Core) : (modCore s c f).smbAt = s.smbAt := rfl
@[simp] theorem modCore_errs (s : State) (c : Nat) (f : Core → Core) : (modCore s c f).errs = s.errs := rfl
@[simp] theorem modCore_free (s : State) (c : Nat) (f : Core → Core) : (modCore s c f).free = s.free := rfl

-- noteIssue

@[simp] theorem noteIssue_out (s : State) (c : Nat) (e : Bool) : (noteIssue s c e).out = s.out := rfl
@[simp] theorem noteIssue_image (s : State) (c : Nat) (e : Bool) : (noteIssue s c e).image = s.image := rfl
@[simp] theorem noteIssue_pending (s : State) (c : Nat) (e : Bool) : (noteIssue s c e).pending = s.pending := rfl
@[simp] theorem noteIssue_count (s : State) (c : Nat) (e : Bool) : (noteIssue s c e).count = s.count := rfl
@[simp] theorem noteIssue_muted (s : State) (c : Nat) (e : Bool) : (noteIssue s c e).muted = s.muted := rfl
@[simp] theorem noteIssue_tokSent (s : State) (c : Nat) (e : Bool) : (noteIssue s c e).tokSent = s.tokSent := rfl
@[simp] theorem noteIssue_tokGot (s : State) (c : Nat) (e : Bool) : (noteIssue s c e).tokGot = s.tokGot := rfl
@[simp] theorem noteIssue_cores (s : State) (c : Nat) (e : Bool) : (noteIssue s c e).cores = s.cores := rfl
@[simp] theorem noteIssue_regs (s : State) (c : Nat) (e : Bool) : (noteIssue s c e).regs = s.regs := rfl
@[simp] theorem noteIssue_dram (s : State) (c : Nat) (e : Bool) : (noteIssue s c e).dram = s.dram := rfl
@[simp] theorem noteIssue_bridges (s : State) (c : Nat) (e : Bool) : (noteIssue s c e).bridges = s.bridges := rfl
@[simp] theorem noteIssue_tiles (s : State) (c : Nat) (e : Bool) : (noteIssue s c e).tiles = s.tiles := rfl
@[simp] theorem noteIssue_stepCodes (s : State) (c : Nat) (e : Bool) : (noteIssue s c e).stepCodes = s.stepCodes := rfl
@[simp] theorem noteIssue_dir (s : State) (c : Nat) (e : Bool) : (noteIssue s c e).dir = s.dir := rfl
@[simp] theorem noteIssue_recalls (s : State) (c : Nat) (e : Bool) : (noteIssue s c e).recalls = s.recalls := rfl
@[simp] theorem noteIssue_cohWait (s : State) (c : Nat) (e : Bool) : (noteIssue s c e).cohWait = s.cohWait := rfl
@[simp] theorem noteIssue_polSp (s : State) (c : Nat) (e : Bool) : (noteIssue s c e).polSp = s.polSp := rfl
@[simp] theorem noteIssue_polApl (s : State) (c : Nat) (e : Bool) : (noteIssue s c e).polApl = s.polApl := rfl
@[simp] theorem noteIssue_life (s : State) (c : Nat) (e : Bool) : (noteIssue s c e).life = s.life := rfl
@[simp] theorem noteIssue_pins (s : State) (c : Nat) (e : Bool) : (noteIssue s c e).pins = s.pins := rfl
@[simp] theorem noteIssue_mbx (s : State) (c : Nat) (e : Bool) : (noteIssue s c e).mbx = s.mbx := rfl
@[simp] theorem noteIssue_exec (s : State) (c : Nat) (e : Bool) : (noteIssue s c e).exec = s.exec := rfl
@[simp] theorem noteIssue_due (s : State) (c : Nat) (e : Bool) : (noteIssue s c e).due = s.due := rfl
@[simp] theorem noteIssue_ring (s : State) (c : Nat) (e : Bool) : (noteIssue s c e).ring = s.ring := rfl
@[simp] theorem noteIssue_gov (s : State) (c : Nat) (e : Bool) : (noteIssue s c e).gov = s.gov := rfl
@[simp] theorem noteIssue_flash (s : State) (c : Nat) (e : Bool) : (noteIssue s c e).flash = s.flash := rfl
@[simp] theorem noteIssue_booted (s : State) (c : Nat) (e : Bool) : (noteIssue s c e).booted = s.booted := rfl
@[simp] theorem noteIssue_ucode (s : State) (c : Nat) (e : Bool) : (noteIssue s c e).ucode = s.ucode := rfl
@[simp] theorem noteIssue_copy (s : State) (c : Nat) (e : Bool) : (noteIssue s c e).copy = s.copy := rfl
@[simp] theorem noteIssue_mute (s : State) (c : Nat) (e : Bool) : (noteIssue s c e).mute = s.mute := rfl
@[simp] theorem noteIssue_a2Saved (s : State) (c : Nat) (e : Bool) : (noteIssue s c e).a2Saved = s.a2Saved := rfl
@[simp] theorem noteIssue_smbAt (s : State) (c : Nat) (e : Bool) : (noteIssue s c e).smbAt = s.smbAt := rfl
@[simp] theorem noteIssue_errs (s : State) (c : Nat) (e : Bool) : (noteIssue s c e).errs = s.errs := rfl
@[simp] theorem noteIssue_free (s : State) (c : Nat) (e : Bool) : (noteIssue s c e).free = s.free := rfl

-- emit

@[simp] theorem emit_image (s : State) (o : Output) : (emit s o).image = s.image := rfl
@[simp] theorem emit_pending (s : State) (o : Output) : (emit s o).pending = s.pending := rfl
@[simp] theorem emit_count (s : State) (o : Output) : (emit s o).count = s.count := rfl
@[simp] theorem emit_muted (s : State) (o : Output) : (emit s o).muted = s.muted := rfl
@[simp] theorem emit_plane (s : State) (o : Output) : (emit s o).plane = s.plane := rfl
@[simp] theorem emit_tokSent (s : State) (o : Output) : (emit s o).tokSent = s.tokSent := rfl
@[simp] theorem emit_tokGot (s : State) (o : Output) : (emit s o).tokGot = s.tokGot := rfl
@[simp] theorem emit_cores (s : State) (o : Output) : (emit s o).cores = s.cores := rfl
@[simp] theorem emit_regs (s : State) (o : Output) : (emit s o).regs = s.regs := rfl
@[simp] theorem emit_dram (s : State) (o : Output) : (emit s o).dram = s.dram := rfl
@[simp] theorem emit_bridges (s : State) (o : Output) : (emit s o).bridges = s.bridges := rfl
@[simp] theorem emit_tiles (s : State) (o : Output) : (emit s o).tiles = s.tiles := rfl
@[simp] theorem emit_stepCodes (s : State) (o : Output) : (emit s o).stepCodes = s.stepCodes := rfl
@[simp] theorem emit_dir (s : State) (o : Output) : (emit s o).dir = s.dir := rfl
@[simp] theorem emit_recalls (s : State) (o : Output) : (emit s o).recalls = s.recalls := rfl
@[simp] theorem emit_cohWait (s : State) (o : Output) : (emit s o).cohWait = s.cohWait := rfl
@[simp] theorem emit_polSp (s : State) (o : Output) : (emit s o).polSp = s.polSp := rfl
@[simp] theorem emit_polApl (s : State) (o : Output) : (emit s o).polApl = s.polApl := rfl
@[simp] theorem emit_life (s : State) (o : Output) : (emit s o).life = s.life := rfl
@[simp] theorem emit_pins (s : State) (o : Output) : (emit s o).pins = s.pins := rfl
@[simp] theorem emit_mbx (s : State) (o : Output) : (emit s o).mbx = s.mbx := rfl
@[simp] theorem emit_exec (s : State) (o : Output) : (emit s o).exec = s.exec := rfl
@[simp] theorem emit_due (s : State) (o : Output) : (emit s o).due = s.due := rfl
@[simp] theorem emit_ring (s : State) (o : Output) : (emit s o).ring = s.ring := rfl
@[simp] theorem emit_gov (s : State) (o : Output) : (emit s o).gov = s.gov := rfl
@[simp] theorem emit_flash (s : State) (o : Output) : (emit s o).flash = s.flash := rfl
@[simp] theorem emit_booted (s : State) (o : Output) : (emit s o).booted = s.booted := rfl
@[simp] theorem emit_ucode (s : State) (o : Output) : (emit s o).ucode = s.ucode := rfl
@[simp] theorem emit_copy (s : State) (o : Output) : (emit s o).copy = s.copy := rfl
@[simp] theorem emit_mute (s : State) (o : Output) : (emit s o).mute = s.mute := rfl
@[simp] theorem emit_a2Saved (s : State) (o : Output) : (emit s o).a2Saved = s.a2Saved := rfl
@[simp] theorem emit_smbAt (s : State) (o : Output) : (emit s o).smbAt = s.smbAt := rfl
@[simp] theorem emit_errs (s : State) (o : Output) : (emit s o).errs = s.errs := rfl
@[simp] theorem emit_free (s : State) (o : Output) : (emit s o).free = s.free := rfl

-- regPut

@[simp] theorem regPut_out (s : State) (a : Nat) (v : Word) : (regPut s a v).out = s.out := rfl
@[simp] theorem regPut_image (s : State) (a : Nat) (v : Word) : (regPut s a v).image = s.image := rfl
@[simp] theorem regPut_pending (s : State) (a : Nat) (v : Word) : (regPut s a v).pending = s.pending := rfl
@[simp] theorem regPut_count (s : State) (a : Nat) (v : Word) : (regPut s a v).count = s.count := rfl
@[simp] theorem regPut_muted (s : State) (a : Nat) (v : Word) : (regPut s a v).muted = s.muted := rfl
@[simp] theorem regPut_plane (s : State) (a : Nat) (v : Word) : (regPut s a v).plane = s.plane := rfl
@[simp] theorem regPut_tokSent (s : State) (a : Nat) (v : Word) : (regPut s a v).tokSent = s.tokSent := rfl
@[simp] theorem regPut_tokGot (s : State) (a : Nat) (v : Word) : (regPut s a v).tokGot = s.tokGot := rfl
@[simp] theorem regPut_cores (s : State) (a : Nat) (v : Word) : (regPut s a v).cores = s.cores := rfl
@[simp] theorem regPut_dram (s : State) (a : Nat) (v : Word) : (regPut s a v).dram = s.dram := rfl
@[simp] theorem regPut_bridges (s : State) (a : Nat) (v : Word) : (regPut s a v).bridges = s.bridges := rfl
@[simp] theorem regPut_tiles (s : State) (a : Nat) (v : Word) : (regPut s a v).tiles = s.tiles := rfl
@[simp] theorem regPut_stepCodes (s : State) (a : Nat) (v : Word) : (regPut s a v).stepCodes = s.stepCodes := rfl
@[simp] theorem regPut_dir (s : State) (a : Nat) (v : Word) : (regPut s a v).dir = s.dir := rfl
@[simp] theorem regPut_recalls (s : State) (a : Nat) (v : Word) : (regPut s a v).recalls = s.recalls := rfl
@[simp] theorem regPut_cohWait (s : State) (a : Nat) (v : Word) : (regPut s a v).cohWait = s.cohWait := rfl
@[simp] theorem regPut_polSp (s : State) (a : Nat) (v : Word) : (regPut s a v).polSp = s.polSp := rfl
@[simp] theorem regPut_polApl (s : State) (a : Nat) (v : Word) : (regPut s a v).polApl = s.polApl := rfl
@[simp] theorem regPut_life (s : State) (a : Nat) (v : Word) : (regPut s a v).life = s.life := rfl
@[simp] theorem regPut_pins (s : State) (a : Nat) (v : Word) : (regPut s a v).pins = s.pins := rfl
@[simp] theorem regPut_mbx (s : State) (a : Nat) (v : Word) : (regPut s a v).mbx = s.mbx := rfl
@[simp] theorem regPut_exec (s : State) (a : Nat) (v : Word) : (regPut s a v).exec = s.exec := rfl
@[simp] theorem regPut_due (s : State) (a : Nat) (v : Word) : (regPut s a v).due = s.due := rfl
@[simp] theorem regPut_ring (s : State) (a : Nat) (v : Word) : (regPut s a v).ring = s.ring := rfl
@[simp] theorem regPut_gov (s : State) (a : Nat) (v : Word) : (regPut s a v).gov = s.gov := rfl
@[simp] theorem regPut_flash (s : State) (a : Nat) (v : Word) : (regPut s a v).flash = s.flash := rfl
@[simp] theorem regPut_booted (s : State) (a : Nat) (v : Word) : (regPut s a v).booted = s.booted := rfl
@[simp] theorem regPut_ucode (s : State) (a : Nat) (v : Word) : (regPut s a v).ucode = s.ucode := rfl
@[simp] theorem regPut_copy (s : State) (a : Nat) (v : Word) : (regPut s a v).copy = s.copy := rfl
@[simp] theorem regPut_mute (s : State) (a : Nat) (v : Word) : (regPut s a v).mute = s.mute := rfl
@[simp] theorem regPut_a2Saved (s : State) (a : Nat) (v : Word) : (regPut s a v).a2Saved = s.a2Saved := rfl
@[simp] theorem regPut_smbAt (s : State) (a : Nat) (v : Word) : (regPut s a v).smbAt = s.smbAt := rfl
@[simp] theorem regPut_errs (s : State) (a : Nat) (v : Word) : (regPut s a v).errs = s.errs := rfl
@[simp] theorem regPut_free (s : State) (a : Nat) (v : Word) : (regPut s a v).free = s.free := rfl

-- setBridge

@[simp] theorem setBridge_out (s : State) (d : Nat) (b : Bridge) : (setBridge s d b).out = s.out := rfl
@[simp] theorem setBridge_image (s : State) (d : Nat) (b : Bridge) : (setBridge s d b).image = s.image := rfl
@[simp] theorem setBridge_pending (s : State) (d : Nat) (b : Bridge) : (setBridge s d b).pending = s.pending := rfl
@[simp] theorem setBridge_count (s : State) (d : Nat) (b : Bridge) : (setBridge s d b).count = s.count := rfl
@[simp] theorem setBridge_muted (s : State) (d : Nat) (b : Bridge) : (setBridge s d b).muted = s.muted := rfl
@[simp] theorem setBridge_plane (s : State) (d : Nat) (b : Bridge) : (setBridge s d b).plane = s.plane := rfl
@[simp] theorem setBridge_tokSent (s : State) (d : Nat) (b : Bridge) : (setBridge s d b).tokSent = s.tokSent := rfl
@[simp] theorem setBridge_tokGot (s : State) (d : Nat) (b : Bridge) : (setBridge s d b).tokGot = s.tokGot := rfl
@[simp] theorem setBridge_cores (s : State) (d : Nat) (b : Bridge) : (setBridge s d b).cores = s.cores := rfl
@[simp] theorem setBridge_regs (s : State) (d : Nat) (b : Bridge) : (setBridge s d b).regs = s.regs := rfl
@[simp] theorem setBridge_dram (s : State) (d : Nat) (b : Bridge) : (setBridge s d b).dram = s.dram := rfl
@[simp] theorem setBridge_tiles (s : State) (d : Nat) (b : Bridge) : (setBridge s d b).tiles = s.tiles := rfl
@[simp] theorem setBridge_stepCodes (s : State) (d : Nat) (b : Bridge) : (setBridge s d b).stepCodes = s.stepCodes := rfl
@[simp] theorem setBridge_dir (s : State) (d : Nat) (b : Bridge) : (setBridge s d b).dir = s.dir := rfl
@[simp] theorem setBridge_recalls (s : State) (d : Nat) (b : Bridge) : (setBridge s d b).recalls = s.recalls := rfl
@[simp] theorem setBridge_cohWait (s : State) (d : Nat) (b : Bridge) : (setBridge s d b).cohWait = s.cohWait := rfl
@[simp] theorem setBridge_polSp (s : State) (d : Nat) (b : Bridge) : (setBridge s d b).polSp = s.polSp := rfl
@[simp] theorem setBridge_polApl (s : State) (d : Nat) (b : Bridge) : (setBridge s d b).polApl = s.polApl := rfl
@[simp] theorem setBridge_life (s : State) (d : Nat) (b : Bridge) : (setBridge s d b).life = s.life := rfl
@[simp] theorem setBridge_pins (s : State) (d : Nat) (b : Bridge) : (setBridge s d b).pins = s.pins := rfl
@[simp] theorem setBridge_mbx (s : State) (d : Nat) (b : Bridge) : (setBridge s d b).mbx = s.mbx := rfl
@[simp] theorem setBridge_exec (s : State) (d : Nat) (b : Bridge) : (setBridge s d b).exec = s.exec := rfl
@[simp] theorem setBridge_due (s : State) (d : Nat) (b : Bridge) : (setBridge s d b).due = s.due := rfl
@[simp] theorem setBridge_ring (s : State) (d : Nat) (b : Bridge) : (setBridge s d b).ring = s.ring := rfl
@[simp] theorem setBridge_gov (s : State) (d : Nat) (b : Bridge) : (setBridge s d b).gov = s.gov := rfl
@[simp] theorem setBridge_flash (s : State) (d : Nat) (b : Bridge) : (setBridge s d b).flash = s.flash := rfl
@[simp] theorem setBridge_booted (s : State) (d : Nat) (b : Bridge) : (setBridge s d b).booted = s.booted := rfl
@[simp] theorem setBridge_ucode (s : State) (d : Nat) (b : Bridge) : (setBridge s d b).ucode = s.ucode := rfl
@[simp] theorem setBridge_copy (s : State) (d : Nat) (b : Bridge) : (setBridge s d b).copy = s.copy := rfl
@[simp] theorem setBridge_mute (s : State) (d : Nat) (b : Bridge) : (setBridge s d b).mute = s.mute := rfl
@[simp] theorem setBridge_a2Saved (s : State) (d : Nat) (b : Bridge) : (setBridge s d b).a2Saved = s.a2Saved := rfl
@[simp] theorem setBridge_smbAt (s : State) (d : Nat) (b : Bridge) : (setBridge s d b).smbAt = s.smbAt := rfl
@[simp] theorem setBridge_errs (s : State) (d : Nat) (b : Bridge) : (setBridge s d b).errs = s.errs := rfl
@[simp] theorem setBridge_free (s : State) (d : Nat) (b : Bridge) : (setBridge s d b).free = s.free := rfl

-- modBridge

@[simp] theorem modBridge_out (s : State) (d : Nat) (f : Bridge → Bridge) : (modBridge s d f).out = s.out := rfl
@[simp] theorem modBridge_image (s : State) (d : Nat) (f : Bridge → Bridge) : (modBridge s d f).image = s.image := rfl
@[simp] theorem modBridge_pending (s : State) (d : Nat) (f : Bridge → Bridge) : (modBridge s d f).pending = s.pending := rfl
@[simp] theorem modBridge_count (s : State) (d : Nat) (f : Bridge → Bridge) : (modBridge s d f).count = s.count := rfl
@[simp] theorem modBridge_muted (s : State) (d : Nat) (f : Bridge → Bridge) : (modBridge s d f).muted = s.muted := rfl
@[simp] theorem modBridge_plane (s : State) (d : Nat) (f : Bridge → Bridge) : (modBridge s d f).plane = s.plane := rfl
@[simp] theorem modBridge_tokSent (s : State) (d : Nat) (f : Bridge → Bridge) : (modBridge s d f).tokSent = s.tokSent := rfl
@[simp] theorem modBridge_tokGot (s : State) (d : Nat) (f : Bridge → Bridge) : (modBridge s d f).tokGot = s.tokGot := rfl
@[simp] theorem modBridge_cores (s : State) (d : Nat) (f : Bridge → Bridge) : (modBridge s d f).cores = s.cores := rfl
@[simp] theorem modBridge_regs (s : State) (d : Nat) (f : Bridge → Bridge) : (modBridge s d f).regs = s.regs := rfl
@[simp] theorem modBridge_dram (s : State) (d : Nat) (f : Bridge → Bridge) : (modBridge s d f).dram = s.dram := rfl
@[simp] theorem modBridge_tiles (s : State) (d : Nat) (f : Bridge → Bridge) : (modBridge s d f).tiles = s.tiles := rfl
@[simp] theorem modBridge_stepCodes (s : State) (d : Nat) (f : Bridge → Bridge) : (modBridge s d f).stepCodes = s.stepCodes := rfl
@[simp] theorem modBridge_dir (s : State) (d : Nat) (f : Bridge → Bridge) : (modBridge s d f).dir = s.dir := rfl
@[simp] theorem modBridge_recalls (s : State) (d : Nat) (f : Bridge → Bridge) : (modBridge s d f).recalls = s.recalls := rfl
@[simp] theorem modBridge_cohWait (s : State) (d : Nat) (f : Bridge → Bridge) : (modBridge s d f).cohWait = s.cohWait := rfl
@[simp] theorem modBridge_polSp (s : State) (d : Nat) (f : Bridge → Bridge) : (modBridge s d f).polSp = s.polSp := rfl
@[simp] theorem modBridge_polApl (s : State) (d : Nat) (f : Bridge → Bridge) : (modBridge s d f).polApl = s.polApl := rfl
@[simp] theorem modBridge_life (s : State) (d : Nat) (f : Bridge → Bridge) : (modBridge s d f).life = s.life := rfl
@[simp] theorem modBridge_pins (s : State) (d : Nat) (f : Bridge → Bridge) : (modBridge s d f).pins = s.pins := rfl
@[simp] theorem modBridge_mbx (s : State) (d : Nat) (f : Bridge → Bridge) : (modBridge s d f).mbx = s.mbx := rfl
@[simp] theorem modBridge_exec (s : State) (d : Nat) (f : Bridge → Bridge) : (modBridge s d f).exec = s.exec := rfl
@[simp] theorem modBridge_due (s : State) (d : Nat) (f : Bridge → Bridge) : (modBridge s d f).due = s.due := rfl
@[simp] theorem modBridge_ring (s : State) (d : Nat) (f : Bridge → Bridge) : (modBridge s d f).ring = s.ring := rfl
@[simp] theorem modBridge_gov (s : State) (d : Nat) (f : Bridge → Bridge) : (modBridge s d f).gov = s.gov := rfl
@[simp] theorem modBridge_flash (s : State) (d : Nat) (f : Bridge → Bridge) : (modBridge s d f).flash = s.flash := rfl
@[simp] theorem modBridge_booted (s : State) (d : Nat) (f : Bridge → Bridge) : (modBridge s d f).booted = s.booted := rfl
@[simp] theorem modBridge_ucode (s : State) (d : Nat) (f : Bridge → Bridge) : (modBridge s d f).ucode = s.ucode := rfl
@[simp] theorem modBridge_copy (s : State) (d : Nat) (f : Bridge → Bridge) : (modBridge s d f).copy = s.copy := rfl
@[simp] theorem modBridge_mute (s : State) (d : Nat) (f : Bridge → Bridge) : (modBridge s d f).mute = s.mute := rfl
@[simp] theorem modBridge_a2Saved (s : State) (d : Nat) (f : Bridge → Bridge) : (modBridge s d f).a2Saved = s.a2Saved := rfl
@[simp] theorem modBridge_smbAt (s : State) (d : Nat) (f : Bridge → Bridge) : (modBridge s d f).smbAt = s.smbAt := rfl
@[simp] theorem modBridge_errs (s : State) (d : Nat) (f : Bridge → Bridge) : (modBridge s d f).errs = s.errs := rfl
@[simp] theorem modBridge_free (s : State) (d : Nat) (f : Bridge → Bridge) : (modBridge s d f).free = s.free := rfl

-- setTile

@[simp] theorem setTile_out (s : State) (t : Nat) (x : Tile) : (setTile s t x).out = s.out := rfl
@[simp] theorem setTile_image (s : State) (t : Nat) (x : Tile) : (setTile s t x).image = s.image := rfl
@[simp] theorem setTile_pending (s : State) (t : Nat) (x : Tile) : (setTile s t x).pending = s.pending := rfl
@[simp] theorem setTile_count (s : State) (t : Nat) (x : Tile) : (setTile s t x).count = s.count := rfl
@[simp] theorem setTile_muted (s : State) (t : Nat) (x : Tile) : (setTile s t x).muted = s.muted := rfl
@[simp] theorem setTile_plane (s : State) (t : Nat) (x : Tile) : (setTile s t x).plane = s.plane := rfl
@[simp] theorem setTile_tokSent (s : State) (t : Nat) (x : Tile) : (setTile s t x).tokSent = s.tokSent := rfl
@[simp] theorem setTile_tokGot (s : State) (t : Nat) (x : Tile) : (setTile s t x).tokGot = s.tokGot := rfl
@[simp] theorem setTile_cores (s : State) (t : Nat) (x : Tile) : (setTile s t x).cores = s.cores := rfl
@[simp] theorem setTile_regs (s : State) (t : Nat) (x : Tile) : (setTile s t x).regs = s.regs := rfl
@[simp] theorem setTile_dram (s : State) (t : Nat) (x : Tile) : (setTile s t x).dram = s.dram := rfl
@[simp] theorem setTile_bridges (s : State) (t : Nat) (x : Tile) : (setTile s t x).bridges = s.bridges := rfl
@[simp] theorem setTile_stepCodes (s : State) (t : Nat) (x : Tile) : (setTile s t x).stepCodes = s.stepCodes := rfl
@[simp] theorem setTile_dir (s : State) (t : Nat) (x : Tile) : (setTile s t x).dir = s.dir := rfl
@[simp] theorem setTile_recalls (s : State) (t : Nat) (x : Tile) : (setTile s t x).recalls = s.recalls := rfl
@[simp] theorem setTile_cohWait (s : State) (t : Nat) (x : Tile) : (setTile s t x).cohWait = s.cohWait := rfl
@[simp] theorem setTile_polSp (s : State) (t : Nat) (x : Tile) : (setTile s t x).polSp = s.polSp := rfl
@[simp] theorem setTile_polApl (s : State) (t : Nat) (x : Tile) : (setTile s t x).polApl = s.polApl := rfl
@[simp] theorem setTile_life (s : State) (t : Nat) (x : Tile) : (setTile s t x).life = s.life := rfl
@[simp] theorem setTile_pins (s : State) (t : Nat) (x : Tile) : (setTile s t x).pins = s.pins := rfl
@[simp] theorem setTile_mbx (s : State) (t : Nat) (x : Tile) : (setTile s t x).mbx = s.mbx := rfl
@[simp] theorem setTile_exec (s : State) (t : Nat) (x : Tile) : (setTile s t x).exec = s.exec := rfl
@[simp] theorem setTile_due (s : State) (t : Nat) (x : Tile) : (setTile s t x).due = s.due := rfl
@[simp] theorem setTile_ring (s : State) (t : Nat) (x : Tile) : (setTile s t x).ring = s.ring := rfl
@[simp] theorem setTile_gov (s : State) (t : Nat) (x : Tile) : (setTile s t x).gov = s.gov := rfl
@[simp] theorem setTile_flash (s : State) (t : Nat) (x : Tile) : (setTile s t x).flash = s.flash := rfl
@[simp] theorem setTile_booted (s : State) (t : Nat) (x : Tile) : (setTile s t x).booted = s.booted := rfl
@[simp] theorem setTile_ucode (s : State) (t : Nat) (x : Tile) : (setTile s t x).ucode = s.ucode := rfl
@[simp] theorem setTile_copy (s : State) (t : Nat) (x : Tile) : (setTile s t x).copy = s.copy := rfl
@[simp] theorem setTile_mute (s : State) (t : Nat) (x : Tile) : (setTile s t x).mute = s.mute := rfl
@[simp] theorem setTile_a2Saved (s : State) (t : Nat) (x : Tile) : (setTile s t x).a2Saved = s.a2Saved := rfl
@[simp] theorem setTile_smbAt (s : State) (t : Nat) (x : Tile) : (setTile s t x).smbAt = s.smbAt := rfl
@[simp] theorem setTile_errs (s : State) (t : Nat) (x : Tile) : (setTile s t x).errs = s.errs := rfl
@[simp] theorem setTile_free (s : State) (t : Nat) (x : Tile) : (setTile s t x).free = s.free := rfl

-- modTile

@[simp] theorem modTile_out (s : State) (t : Nat) (f : Tile → Tile) : (modTile s t f).out = s.out := rfl
@[simp] theorem modTile_image (s : State) (t : Nat) (f : Tile → Tile) : (modTile s t f).image = s.image := rfl
@[simp] theorem modTile_pending (s : State) (t : Nat) (f : Tile → Tile) : (modTile s t f).pending = s.pending := rfl
@[simp] theorem modTile_count (s : State) (t : Nat) (f : Tile → Tile) : (modTile s t f).count = s.count := rfl
@[simp] theorem modTile_muted (s : State) (t : Nat) (f : Tile → Tile) : (modTile s t f).muted = s.muted := rfl
@[simp] theorem modTile_plane (s : State) (t : Nat) (f : Tile → Tile) : (modTile s t f).plane = s.plane := rfl
@[simp] theorem modTile_tokSent (s : State) (t : Nat) (f : Tile → Tile) : (modTile s t f).tokSent = s.tokSent := rfl
@[simp] theorem modTile_tokGot (s : State) (t : Nat) (f : Tile → Tile) : (modTile s t f).tokGot = s.tokGot := rfl
@[simp] theorem modTile_cores (s : State) (t : Nat) (f : Tile → Tile) : (modTile s t f).cores = s.cores := rfl
@[simp] theorem modTile_regs (s : State) (t : Nat) (f : Tile → Tile) : (modTile s t f).regs = s.regs := rfl
@[simp] theorem modTile_dram (s : State) (t : Nat) (f : Tile → Tile) : (modTile s t f).dram = s.dram := rfl
@[simp] theorem modTile_bridges (s : State) (t : Nat) (f : Tile → Tile) : (modTile s t f).bridges = s.bridges := rfl
@[simp] theorem modTile_stepCodes (s : State) (t : Nat) (f : Tile → Tile) : (modTile s t f).stepCodes = s.stepCodes := rfl
@[simp] theorem modTile_dir (s : State) (t : Nat) (f : Tile → Tile) : (modTile s t f).dir = s.dir := rfl
@[simp] theorem modTile_recalls (s : State) (t : Nat) (f : Tile → Tile) : (modTile s t f).recalls = s.recalls := rfl
@[simp] theorem modTile_cohWait (s : State) (t : Nat) (f : Tile → Tile) : (modTile s t f).cohWait = s.cohWait := rfl
@[simp] theorem modTile_polSp (s : State) (t : Nat) (f : Tile → Tile) : (modTile s t f).polSp = s.polSp := rfl
@[simp] theorem modTile_polApl (s : State) (t : Nat) (f : Tile → Tile) : (modTile s t f).polApl = s.polApl := rfl
@[simp] theorem modTile_life (s : State) (t : Nat) (f : Tile → Tile) : (modTile s t f).life = s.life := rfl
@[simp] theorem modTile_pins (s : State) (t : Nat) (f : Tile → Tile) : (modTile s t f).pins = s.pins := rfl
@[simp] theorem modTile_mbx (s : State) (t : Nat) (f : Tile → Tile) : (modTile s t f).mbx = s.mbx := rfl
@[simp] theorem modTile_exec (s : State) (t : Nat) (f : Tile → Tile) : (modTile s t f).exec = s.exec := rfl
@[simp] theorem modTile_due (s : State) (t : Nat) (f : Tile → Tile) : (modTile s t f).due = s.due := rfl
@[simp] theorem modTile_ring (s : State) (t : Nat) (f : Tile → Tile) : (modTile s t f).ring = s.ring := rfl
@[simp] theorem modTile_gov (s : State) (t : Nat) (f : Tile → Tile) : (modTile s t f).gov = s.gov := rfl
@[simp] theorem modTile_flash (s : State) (t : Nat) (f : Tile → Tile) : (modTile s t f).flash = s.flash := rfl
@[simp] theorem modTile_booted (s : State) (t : Nat) (f : Tile → Tile) : (modTile s t f).booted = s.booted := rfl
@[simp] theorem modTile_ucode (s : State) (t : Nat) (f : Tile → Tile) : (modTile s t f).ucode = s.ucode := rfl
@[simp] theorem modTile_copy (s : State) (t : Nat) (f : Tile → Tile) : (modTile s t f).copy = s.copy := rfl
@[simp] theorem modTile_mute (s : State) (t : Nat) (f : Tile → Tile) : (modTile s t f).mute = s.mute := rfl
@[simp] theorem modTile_a2Saved (s : State) (t : Nat) (f : Tile → Tile) : (modTile s t f).a2Saved = s.a2Saved := rfl
@[simp] theorem modTile_smbAt (s : State) (t : Nat) (f : Tile → Tile) : (modTile s t f).smbAt = s.smbAt := rfl
@[simp] theorem modTile_errs (s : State) (t : Nat) (f : Tile → Tile) : (modTile s t f).errs = s.errs := rfl
@[simp] theorem modTile_free (s : State) (t : Nat) (f : Tile → Tile) : (modTile s t f).free = s.free := rfl

-- setMbx

@[simp] theorem setMbx_out (s : State) (n : Nat) (m : Mailbox) : (setMbx s n m).out = s.out := rfl
@[simp] theorem setMbx_image (s : State) (n : Nat) (m : Mailbox) : (setMbx s n m).image = s.image := rfl
@[simp] theorem setMbx_pending (s : State) (n : Nat) (m : Mailbox) : (setMbx s n m).pending = s.pending := rfl
@[simp] theorem setMbx_count (s : State) (n : Nat) (m : Mailbox) : (setMbx s n m).count = s.count := rfl
@[simp] theorem setMbx_muted (s : State) (n : Nat) (m : Mailbox) : (setMbx s n m).muted = s.muted := rfl
@[simp] theorem setMbx_plane (s : State) (n : Nat) (m : Mailbox) : (setMbx s n m).plane = s.plane := rfl
@[simp] theorem setMbx_tokSent (s : State) (n : Nat) (m : Mailbox) : (setMbx s n m).tokSent = s.tokSent := rfl
@[simp] theorem setMbx_tokGot (s : State) (n : Nat) (m : Mailbox) : (setMbx s n m).tokGot = s.tokGot := rfl
@[simp] theorem setMbx_cores (s : State) (n : Nat) (m : Mailbox) : (setMbx s n m).cores = s.cores := rfl
@[simp] theorem setMbx_regs (s : State) (n : Nat) (m : Mailbox) : (setMbx s n m).regs = s.regs := rfl
@[simp] theorem setMbx_dram (s : State) (n : Nat) (m : Mailbox) : (setMbx s n m).dram = s.dram := rfl
@[simp] theorem setMbx_bridges (s : State) (n : Nat) (m : Mailbox) : (setMbx s n m).bridges = s.bridges := rfl
@[simp] theorem setMbx_tiles (s : State) (n : Nat) (m : Mailbox) : (setMbx s n m).tiles = s.tiles := rfl
@[simp] theorem setMbx_stepCodes (s : State) (n : Nat) (m : Mailbox) : (setMbx s n m).stepCodes = s.stepCodes := rfl
@[simp] theorem setMbx_dir (s : State) (n : Nat) (m : Mailbox) : (setMbx s n m).dir = s.dir := rfl
@[simp] theorem setMbx_recalls (s : State) (n : Nat) (m : Mailbox) : (setMbx s n m).recalls = s.recalls := rfl
@[simp] theorem setMbx_cohWait (s : State) (n : Nat) (m : Mailbox) : (setMbx s n m).cohWait = s.cohWait := rfl
@[simp] theorem setMbx_polSp (s : State) (n : Nat) (m : Mailbox) : (setMbx s n m).polSp = s.polSp := rfl
@[simp] theorem setMbx_polApl (s : State) (n : Nat) (m : Mailbox) : (setMbx s n m).polApl = s.polApl := rfl
@[simp] theorem setMbx_life (s : State) (n : Nat) (m : Mailbox) : (setMbx s n m).life = s.life := rfl
@[simp] theorem setMbx_pins (s : State) (n : Nat) (m : Mailbox) : (setMbx s n m).pins = s.pins := rfl
@[simp] theorem setMbx_exec (s : State) (n : Nat) (m : Mailbox) : (setMbx s n m).exec = s.exec := rfl
@[simp] theorem setMbx_due (s : State) (n : Nat) (m : Mailbox) : (setMbx s n m).due = s.due := rfl
@[simp] theorem setMbx_ring (s : State) (n : Nat) (m : Mailbox) : (setMbx s n m).ring = s.ring := rfl
@[simp] theorem setMbx_gov (s : State) (n : Nat) (m : Mailbox) : (setMbx s n m).gov = s.gov := rfl
@[simp] theorem setMbx_flash (s : State) (n : Nat) (m : Mailbox) : (setMbx s n m).flash = s.flash := rfl
@[simp] theorem setMbx_booted (s : State) (n : Nat) (m : Mailbox) : (setMbx s n m).booted = s.booted := rfl
@[simp] theorem setMbx_ucode (s : State) (n : Nat) (m : Mailbox) : (setMbx s n m).ucode = s.ucode := rfl
@[simp] theorem setMbx_copy (s : State) (n : Nat) (m : Mailbox) : (setMbx s n m).copy = s.copy := rfl
@[simp] theorem setMbx_mute (s : State) (n : Nat) (m : Mailbox) : (setMbx s n m).mute = s.mute := rfl
@[simp] theorem setMbx_a2Saved (s : State) (n : Nat) (m : Mailbox) : (setMbx s n m).a2Saved = s.a2Saved := rfl
@[simp] theorem setMbx_smbAt (s : State) (n : Nat) (m : Mailbox) : (setMbx s n m).smbAt = s.smbAt := rfl
@[simp] theorem setMbx_errs (s : State) (n : Nat) (m : Mailbox) : (setMbx s n m).errs = s.errs := rfl
@[simp] theorem setMbx_free (s : State) (n : Nat) (m : Mailbox) : (setMbx s n m).free = s.free := rfl

-- dramWrite

@[simp] theorem dramWrite_out (s : State) (a : Nat) (bs : List Byte) : (dramWrite s a bs).out = s.out := rfl
@[simp] theorem dramWrite_image (s : State) (a : Nat) (bs : List Byte) : (dramWrite s a bs).image = s.image := rfl
@[simp] theorem dramWrite_pending (s : State) (a : Nat) (bs : List Byte) : (dramWrite s a bs).pending = s.pending := rfl
@[simp] theorem dramWrite_count (s : State) (a : Nat) (bs : List Byte) : (dramWrite s a bs).count = s.count := rfl
@[simp] theorem dramWrite_muted (s : State) (a : Nat) (bs : List Byte) : (dramWrite s a bs).muted = s.muted := rfl
@[simp] theorem dramWrite_plane (s : State) (a : Nat) (bs : List Byte) : (dramWrite s a bs).plane = s.plane := rfl
@[simp] theorem dramWrite_tokSent (s : State) (a : Nat) (bs : List Byte) : (dramWrite s a bs).tokSent = s.tokSent := rfl
@[simp] theorem dramWrite_tokGot (s : State) (a : Nat) (bs : List Byte) : (dramWrite s a bs).tokGot = s.tokGot := rfl
@[simp] theorem dramWrite_cores (s : State) (a : Nat) (bs : List Byte) : (dramWrite s a bs).cores = s.cores := rfl
@[simp] theorem dramWrite_regs (s : State) (a : Nat) (bs : List Byte) : (dramWrite s a bs).regs = s.regs := rfl
@[simp] theorem dramWrite_bridges (s : State) (a : Nat) (bs : List Byte) : (dramWrite s a bs).bridges = s.bridges := rfl
@[simp] theorem dramWrite_tiles (s : State) (a : Nat) (bs : List Byte) : (dramWrite s a bs).tiles = s.tiles := rfl
@[simp] theorem dramWrite_stepCodes (s : State) (a : Nat) (bs : List Byte) : (dramWrite s a bs).stepCodes = s.stepCodes := rfl
@[simp] theorem dramWrite_dir (s : State) (a : Nat) (bs : List Byte) : (dramWrite s a bs).dir = s.dir := rfl
@[simp] theorem dramWrite_recalls (s : State) (a : Nat) (bs : List Byte) : (dramWrite s a bs).recalls = s.recalls := rfl
@[simp] theorem dramWrite_cohWait (s : State) (a : Nat) (bs : List Byte) : (dramWrite s a bs).cohWait = s.cohWait := rfl
@[simp] theorem dramWrite_polSp (s : State) (a : Nat) (bs : List Byte) : (dramWrite s a bs).polSp = s.polSp := rfl
@[simp] theorem dramWrite_polApl (s : State) (a : Nat) (bs : List Byte) : (dramWrite s a bs).polApl = s.polApl := rfl
@[simp] theorem dramWrite_life (s : State) (a : Nat) (bs : List Byte) : (dramWrite s a bs).life = s.life := rfl
@[simp] theorem dramWrite_pins (s : State) (a : Nat) (bs : List Byte) : (dramWrite s a bs).pins = s.pins := rfl
@[simp] theorem dramWrite_mbx (s : State) (a : Nat) (bs : List Byte) : (dramWrite s a bs).mbx = s.mbx := rfl
@[simp] theorem dramWrite_exec (s : State) (a : Nat) (bs : List Byte) : (dramWrite s a bs).exec = s.exec := rfl
@[simp] theorem dramWrite_due (s : State) (a : Nat) (bs : List Byte) : (dramWrite s a bs).due = s.due := rfl
@[simp] theorem dramWrite_ring (s : State) (a : Nat) (bs : List Byte) : (dramWrite s a bs).ring = s.ring := rfl
@[simp] theorem dramWrite_gov (s : State) (a : Nat) (bs : List Byte) : (dramWrite s a bs).gov = s.gov := rfl
@[simp] theorem dramWrite_flash (s : State) (a : Nat) (bs : List Byte) : (dramWrite s a bs).flash = s.flash := rfl
@[simp] theorem dramWrite_booted (s : State) (a : Nat) (bs : List Byte) : (dramWrite s a bs).booted = s.booted := rfl
@[simp] theorem dramWrite_ucode (s : State) (a : Nat) (bs : List Byte) : (dramWrite s a bs).ucode = s.ucode := rfl
@[simp] theorem dramWrite_copy (s : State) (a : Nat) (bs : List Byte) : (dramWrite s a bs).copy = s.copy := rfl
@[simp] theorem dramWrite_mute (s : State) (a : Nat) (bs : List Byte) : (dramWrite s a bs).mute = s.mute := rfl
@[simp] theorem dramWrite_a2Saved (s : State) (a : Nat) (bs : List Byte) : (dramWrite s a bs).a2Saved = s.a2Saved := rfl
@[simp] theorem dramWrite_smbAt (s : State) (a : Nat) (bs : List Byte) : (dramWrite s a bs).smbAt = s.smbAt := rfl
@[simp] theorem dramWrite_errs (s : State) (a : Nat) (bs : List Byte) : (dramWrite s a bs).errs = s.errs := rfl
@[simp] theorem dramWrite_free (s : State) (a : Nat) (bs : List Byte) : (dramWrite s a bs).free = s.free := rfl

-- setInProgress

@[simp] theorem setInProgress_out (s : State) (ch : Nat) (d : Option (List Byte)) : (setInProgress s ch d).out = s.out := rfl
@[simp] theorem setInProgress_image (s : State) (ch : Nat) (d : Option (List Byte)) : (setInProgress s ch d).image = s.image := rfl
@[simp] theorem setInProgress_pending (s : State) (ch : Nat) (d : Option (List Byte)) : (setInProgress s ch d).pending = s.pending := rfl
@[simp] theorem setInProgress_count (s : State) (ch : Nat) (d : Option (List Byte)) : (setInProgress s ch d).count = s.count := rfl
@[simp] theorem setInProgress_muted (s : State) (ch : Nat) (d : Option (List Byte)) : (setInProgress s ch d).muted = s.muted := rfl
@[simp] theorem setInProgress_plane (s : State) (ch : Nat) (d : Option (List Byte)) : (setInProgress s ch d).plane = s.plane := rfl
@[simp] theorem setInProgress_tokSent (s : State) (ch : Nat) (d : Option (List Byte)) : (setInProgress s ch d).tokSent = s.tokSent := rfl
@[simp] theorem setInProgress_tokGot (s : State) (ch : Nat) (d : Option (List Byte)) : (setInProgress s ch d).tokGot = s.tokGot := rfl
@[simp] theorem setInProgress_cores (s : State) (ch : Nat) (d : Option (List Byte)) : (setInProgress s ch d).cores = s.cores := rfl
@[simp] theorem setInProgress_regs (s : State) (ch : Nat) (d : Option (List Byte)) : (setInProgress s ch d).regs = s.regs := rfl
@[simp] theorem setInProgress_dram (s : State) (ch : Nat) (d : Option (List Byte)) : (setInProgress s ch d).dram = s.dram := rfl
@[simp] theorem setInProgress_bridges (s : State) (ch : Nat) (d : Option (List Byte)) : (setInProgress s ch d).bridges = s.bridges := rfl
@[simp] theorem setInProgress_tiles (s : State) (ch : Nat) (d : Option (List Byte)) : (setInProgress s ch d).tiles = s.tiles := rfl
@[simp] theorem setInProgress_stepCodes (s : State) (ch : Nat) (d : Option (List Byte)) : (setInProgress s ch d).stepCodes = s.stepCodes := rfl
@[simp] theorem setInProgress_dir (s : State) (ch : Nat) (d : Option (List Byte)) : (setInProgress s ch d).dir = s.dir := rfl
@[simp] theorem setInProgress_recalls (s : State) (ch : Nat) (d : Option (List Byte)) : (setInProgress s ch d).recalls = s.recalls := rfl
@[simp] theorem setInProgress_cohWait (s : State) (ch : Nat) (d : Option (List Byte)) : (setInProgress s ch d).cohWait = s.cohWait := rfl
@[simp] theorem setInProgress_polSp (s : State) (ch : Nat) (d : Option (List Byte)) : (setInProgress s ch d).polSp = s.polSp := rfl
@[simp] theorem setInProgress_polApl (s : State) (ch : Nat) (d : Option (List Byte)) : (setInProgress s ch d).polApl = s.polApl := rfl
@[simp] theorem setInProgress_life (s : State) (ch : Nat) (d : Option (List Byte)) : (setInProgress s ch d).life = s.life := rfl
@[simp] theorem setInProgress_pins (s : State) (ch : Nat) (d : Option (List Byte)) : (setInProgress s ch d).pins = s.pins := rfl
@[simp] theorem setInProgress_mbx (s : State) (ch : Nat) (d : Option (List Byte)) : (setInProgress s ch d).mbx = s.mbx := rfl
@[simp] theorem setInProgress_exec (s : State) (ch : Nat) (d : Option (List Byte)) : (setInProgress s ch d).exec = s.exec := rfl
@[simp] theorem setInProgress_due (s : State) (ch : Nat) (d : Option (List Byte)) : (setInProgress s ch d).due = s.due := rfl
@[simp] theorem setInProgress_ring (s : State) (ch : Nat) (d : Option (List Byte)) : (setInProgress s ch d).ring = s.ring := rfl
@[simp] theorem setInProgress_gov (s : State) (ch : Nat) (d : Option (List Byte)) : (setInProgress s ch d).gov = s.gov := rfl
@[simp] theorem setInProgress_flash (s : State) (ch : Nat) (d : Option (List Byte)) : (setInProgress s ch d).flash = s.flash := rfl
@[simp] theorem setInProgress_booted (s : State) (ch : Nat) (d : Option (List Byte)) : (setInProgress s ch d).booted = s.booted := rfl
@[simp] theorem setInProgress_ucode (s : State) (ch : Nat) (d : Option (List Byte)) : (setInProgress s ch d).ucode = s.ucode := rfl
@[simp] theorem setInProgress_mute (s : State) (ch : Nat) (d : Option (List Byte)) : (setInProgress s ch d).mute = s.mute := rfl
@[simp] theorem setInProgress_a2Saved (s : State) (ch : Nat) (d : Option (List Byte)) : (setInProgress s ch d).a2Saved = s.a2Saved := rfl
@[simp] theorem setInProgress_smbAt (s : State) (ch : Nat) (d : Option (List Byte)) : (setInProgress s ch d).smbAt = s.smbAt := rfl
@[simp] theorem setInProgress_errs (s : State) (ch : Nat) (d : Option (List Byte)) : (setInProgress s ch d).errs = s.errs := rfl
@[simp] theorem setInProgress_free (s : State) (ch : Nat) (d : Option (List Byte)) : (setInProgress s ch d).free = s.free := rfl

-- clearRegs

@[simp] theorem clearRegs_out (s : State) (dies : Nat → Bool) (q : Cls → Bool) : (clearRegs s dies q).out = s.out := rfl
@[simp] theorem clearRegs_image (s : State) (dies : Nat → Bool) (q : Cls → Bool) : (clearRegs s dies q).image = s.image := rfl
@[simp] theorem clearRegs_pending (s : State) (dies : Nat → Bool) (q : Cls → Bool) : (clearRegs s dies q).pending = s.pending := rfl
@[simp] theorem clearRegs_count (s : State) (dies : Nat → Bool) (q : Cls → Bool) : (clearRegs s dies q).count = s.count := rfl
@[simp] theorem clearRegs_muted (s : State) (dies : Nat → Bool) (q : Cls → Bool) : (clearRegs s dies q).muted = s.muted := rfl
@[simp] theorem clearRegs_plane (s : State) (dies : Nat → Bool) (q : Cls → Bool) : (clearRegs s dies q).plane = s.plane := rfl
@[simp] theorem clearRegs_tokSent (s : State) (dies : Nat → Bool) (q : Cls → Bool) : (clearRegs s dies q).tokSent = s.tokSent := rfl
@[simp] theorem clearRegs_tokGot (s : State) (dies : Nat → Bool) (q : Cls → Bool) : (clearRegs s dies q).tokGot = s.tokGot := rfl
@[simp] theorem clearRegs_cores (s : State) (dies : Nat → Bool) (q : Cls → Bool) : (clearRegs s dies q).cores = s.cores := rfl
@[simp] theorem clearRegs_dram (s : State) (dies : Nat → Bool) (q : Cls → Bool) : (clearRegs s dies q).dram = s.dram := rfl
@[simp] theorem clearRegs_bridges (s : State) (dies : Nat → Bool) (q : Cls → Bool) : (clearRegs s dies q).bridges = s.bridges := rfl
@[simp] theorem clearRegs_tiles (s : State) (dies : Nat → Bool) (q : Cls → Bool) : (clearRegs s dies q).tiles = s.tiles := rfl
@[simp] theorem clearRegs_stepCodes (s : State) (dies : Nat → Bool) (q : Cls → Bool) : (clearRegs s dies q).stepCodes = s.stepCodes := rfl
@[simp] theorem clearRegs_dir (s : State) (dies : Nat → Bool) (q : Cls → Bool) : (clearRegs s dies q).dir = s.dir := rfl
@[simp] theorem clearRegs_recalls (s : State) (dies : Nat → Bool) (q : Cls → Bool) : (clearRegs s dies q).recalls = s.recalls := rfl
@[simp] theorem clearRegs_cohWait (s : State) (dies : Nat → Bool) (q : Cls → Bool) : (clearRegs s dies q).cohWait = s.cohWait := rfl
@[simp] theorem clearRegs_polSp (s : State) (dies : Nat → Bool) (q : Cls → Bool) : (clearRegs s dies q).polSp = s.polSp := rfl
@[simp] theorem clearRegs_polApl (s : State) (dies : Nat → Bool) (q : Cls → Bool) : (clearRegs s dies q).polApl = s.polApl := rfl
@[simp] theorem clearRegs_life (s : State) (dies : Nat → Bool) (q : Cls → Bool) : (clearRegs s dies q).life = s.life := rfl
@[simp] theorem clearRegs_pins (s : State) (dies : Nat → Bool) (q : Cls → Bool) : (clearRegs s dies q).pins = s.pins := rfl
@[simp] theorem clearRegs_mbx (s : State) (dies : Nat → Bool) (q : Cls → Bool) : (clearRegs s dies q).mbx = s.mbx := rfl
@[simp] theorem clearRegs_exec (s : State) (dies : Nat → Bool) (q : Cls → Bool) : (clearRegs s dies q).exec = s.exec := rfl
@[simp] theorem clearRegs_due (s : State) (dies : Nat → Bool) (q : Cls → Bool) : (clearRegs s dies q).due = s.due := rfl
@[simp] theorem clearRegs_ring (s : State) (dies : Nat → Bool) (q : Cls → Bool) : (clearRegs s dies q).ring = s.ring := rfl
@[simp] theorem clearRegs_gov (s : State) (dies : Nat → Bool) (q : Cls → Bool) : (clearRegs s dies q).gov = s.gov := rfl
@[simp] theorem clearRegs_flash (s : State) (dies : Nat → Bool) (q : Cls → Bool) : (clearRegs s dies q).flash = s.flash := rfl
@[simp] theorem clearRegs_booted (s : State) (dies : Nat → Bool) (q : Cls → Bool) : (clearRegs s dies q).booted = s.booted := rfl
@[simp] theorem clearRegs_ucode (s : State) (dies : Nat → Bool) (q : Cls → Bool) : (clearRegs s dies q).ucode = s.ucode := rfl
@[simp] theorem clearRegs_copy (s : State) (dies : Nat → Bool) (q : Cls → Bool) : (clearRegs s dies q).copy = s.copy := rfl
@[simp] theorem clearRegs_mute (s : State) (dies : Nat → Bool) (q : Cls → Bool) : (clearRegs s dies q).mute = s.mute := rfl
@[simp] theorem clearRegs_a2Saved (s : State) (dies : Nat → Bool) (q : Cls → Bool) : (clearRegs s dies q).a2Saved = s.a2Saved := rfl
@[simp] theorem clearRegs_smbAt (s : State) (dies : Nat → Bool) (q : Cls → Bool) : (clearRegs s dies q).smbAt = s.smbAt := rfl
@[simp] theorem clearRegs_errs (s : State) (dies : Nat → Bool) (q : Cls → Bool) : (clearRegs s dies q).errs = s.errs := rfl
@[simp] theorem clearRegs_free (s : State) (dies : Nat → Bool) (q : Cls → Bool) : (clearRegs s dies q).free = s.free := rfl

-- regPutNat, regSetBits, regCount

@[simp] theorem regPutNat_out (s : State) (a v n : Nat) : (regPutNat s a v n).out = s.out := by
  induction n generalizing s a v with
  | zero => rfl
  | succ n ih => simp [regPutNat, ih]
@[simp] theorem regSetBits_out (s : State) (a hi lo x : Nat) : (regSetBits s a hi lo x).out = s.out := by simp [regSetBits]
@[simp] theorem regCount_out (s : State) (a n : Nat) : (regCount s a n).out = s.out := by simp [regCount]
@[simp] theorem regPutNat_image (s : State) (a v n : Nat) : (regPutNat s a v n).image = s.image := by
  induction n generalizing s a v with
  | zero => rfl
  | succ n ih => simp [regPutNat, ih]
@[simp] theorem regSetBits_image (s : State) (a hi lo x : Nat) : (regSetBits s a hi lo x).image = s.image := by simp [regSetBits]
@[simp] theorem regCount_image (s : State) (a n : Nat) : (regCount s a n).image = s.image := by simp [regCount]
@[simp] theorem regPutNat_pending (s : State) (a v n : Nat) : (regPutNat s a v n).pending = s.pending := by
  induction n generalizing s a v with
  | zero => rfl
  | succ n ih => simp [regPutNat, ih]
@[simp] theorem regSetBits_pending (s : State) (a hi lo x : Nat) : (regSetBits s a hi lo x).pending = s.pending := by simp [regSetBits]
@[simp] theorem regCount_pending (s : State) (a n : Nat) : (regCount s a n).pending = s.pending := by simp [regCount]
@[simp] theorem regPutNat_count (s : State) (a v n : Nat) : (regPutNat s a v n).count = s.count := by
  induction n generalizing s a v with
  | zero => rfl
  | succ n ih => simp [regPutNat, ih]
@[simp] theorem regSetBits_count (s : State) (a hi lo x : Nat) : (regSetBits s a hi lo x).count = s.count := by simp [regSetBits]
@[simp] theorem regCount_count (s : State) (a n : Nat) : (regCount s a n).count = s.count := by simp [regCount]
@[simp] theorem regPutNat_muted (s : State) (a v n : Nat) : (regPutNat s a v n).muted = s.muted := by
  induction n generalizing s a v with
  | zero => rfl
  | succ n ih => simp [regPutNat, ih]
@[simp] theorem regSetBits_muted (s : State) (a hi lo x : Nat) : (regSetBits s a hi lo x).muted = s.muted := by simp [regSetBits]
@[simp] theorem regCount_muted (s : State) (a n : Nat) : (regCount s a n).muted = s.muted := by simp [regCount]
@[simp] theorem regPutNat_plane (s : State) (a v n : Nat) : (regPutNat s a v n).plane = s.plane := by
  induction n generalizing s a v with
  | zero => rfl
  | succ n ih => simp [regPutNat, ih]
@[simp] theorem regSetBits_plane (s : State) (a hi lo x : Nat) : (regSetBits s a hi lo x).plane = s.plane := by simp [regSetBits]
@[simp] theorem regCount_plane (s : State) (a n : Nat) : (regCount s a n).plane = s.plane := by simp [regCount]
@[simp] theorem regPutNat_tokSent (s : State) (a v n : Nat) : (regPutNat s a v n).tokSent = s.tokSent := by
  induction n generalizing s a v with
  | zero => rfl
  | succ n ih => simp [regPutNat, ih]
@[simp] theorem regSetBits_tokSent (s : State) (a hi lo x : Nat) : (regSetBits s a hi lo x).tokSent = s.tokSent := by simp [regSetBits]
@[simp] theorem regCount_tokSent (s : State) (a n : Nat) : (regCount s a n).tokSent = s.tokSent := by simp [regCount]
@[simp] theorem regPutNat_tokGot (s : State) (a v n : Nat) : (regPutNat s a v n).tokGot = s.tokGot := by
  induction n generalizing s a v with
  | zero => rfl
  | succ n ih => simp [regPutNat, ih]
@[simp] theorem regSetBits_tokGot (s : State) (a hi lo x : Nat) : (regSetBits s a hi lo x).tokGot = s.tokGot := by simp [regSetBits]
@[simp] theorem regCount_tokGot (s : State) (a n : Nat) : (regCount s a n).tokGot = s.tokGot := by simp [regCount]
@[simp] theorem regPutNat_cores (s : State) (a v n : Nat) : (regPutNat s a v n).cores = s.cores := by
  induction n generalizing s a v with
  | zero => rfl
  | succ n ih => simp [regPutNat, ih]
@[simp] theorem regSetBits_cores (s : State) (a hi lo x : Nat) : (regSetBits s a hi lo x).cores = s.cores := by simp [regSetBits]
@[simp] theorem regCount_cores (s : State) (a n : Nat) : (regCount s a n).cores = s.cores := by simp [regCount]
@[simp] theorem regPutNat_dram (s : State) (a v n : Nat) : (regPutNat s a v n).dram = s.dram := by
  induction n generalizing s a v with
  | zero => rfl
  | succ n ih => simp [regPutNat, ih]
@[simp] theorem regSetBits_dram (s : State) (a hi lo x : Nat) : (regSetBits s a hi lo x).dram = s.dram := by simp [regSetBits]
@[simp] theorem regCount_dram (s : State) (a n : Nat) : (regCount s a n).dram = s.dram := by simp [regCount]
@[simp] theorem regPutNat_bridges (s : State) (a v n : Nat) : (regPutNat s a v n).bridges = s.bridges := by
  induction n generalizing s a v with
  | zero => rfl
  | succ n ih => simp [regPutNat, ih]
@[simp] theorem regSetBits_bridges (s : State) (a hi lo x : Nat) : (regSetBits s a hi lo x).bridges = s.bridges := by simp [regSetBits]
@[simp] theorem regCount_bridges (s : State) (a n : Nat) : (regCount s a n).bridges = s.bridges := by simp [regCount]
@[simp] theorem regPutNat_tiles (s : State) (a v n : Nat) : (regPutNat s a v n).tiles = s.tiles := by
  induction n generalizing s a v with
  | zero => rfl
  | succ n ih => simp [regPutNat, ih]
@[simp] theorem regSetBits_tiles (s : State) (a hi lo x : Nat) : (regSetBits s a hi lo x).tiles = s.tiles := by simp [regSetBits]
@[simp] theorem regCount_tiles (s : State) (a n : Nat) : (regCount s a n).tiles = s.tiles := by simp [regCount]
@[simp] theorem regPutNat_stepCodes (s : State) (a v n : Nat) : (regPutNat s a v n).stepCodes = s.stepCodes := by
  induction n generalizing s a v with
  | zero => rfl
  | succ n ih => simp [regPutNat, ih]
@[simp] theorem regSetBits_stepCodes (s : State) (a hi lo x : Nat) : (regSetBits s a hi lo x).stepCodes = s.stepCodes := by simp [regSetBits]
@[simp] theorem regCount_stepCodes (s : State) (a n : Nat) : (regCount s a n).stepCodes = s.stepCodes := by simp [regCount]
@[simp] theorem regPutNat_dir (s : State) (a v n : Nat) : (regPutNat s a v n).dir = s.dir := by
  induction n generalizing s a v with
  | zero => rfl
  | succ n ih => simp [regPutNat, ih]
@[simp] theorem regSetBits_dir (s : State) (a hi lo x : Nat) : (regSetBits s a hi lo x).dir = s.dir := by simp [regSetBits]
@[simp] theorem regCount_dir (s : State) (a n : Nat) : (regCount s a n).dir = s.dir := by simp [regCount]
@[simp] theorem regPutNat_recalls (s : State) (a v n : Nat) : (regPutNat s a v n).recalls = s.recalls := by
  induction n generalizing s a v with
  | zero => rfl
  | succ n ih => simp [regPutNat, ih]
@[simp] theorem regSetBits_recalls (s : State) (a hi lo x : Nat) : (regSetBits s a hi lo x).recalls = s.recalls := by simp [regSetBits]
@[simp] theorem regCount_recalls (s : State) (a n : Nat) : (regCount s a n).recalls = s.recalls := by simp [regCount]
@[simp] theorem regPutNat_cohWait (s : State) (a v n : Nat) : (regPutNat s a v n).cohWait = s.cohWait := by
  induction n generalizing s a v with
  | zero => rfl
  | succ n ih => simp [regPutNat, ih]
@[simp] theorem regSetBits_cohWait (s : State) (a hi lo x : Nat) : (regSetBits s a hi lo x).cohWait = s.cohWait := by simp [regSetBits]
@[simp] theorem regCount_cohWait (s : State) (a n : Nat) : (regCount s a n).cohWait = s.cohWait := by simp [regCount]
@[simp] theorem regPutNat_polSp (s : State) (a v n : Nat) : (regPutNat s a v n).polSp = s.polSp := by
  induction n generalizing s a v with
  | zero => rfl
  | succ n ih => simp [regPutNat, ih]
@[simp] theorem regSetBits_polSp (s : State) (a hi lo x : Nat) : (regSetBits s a hi lo x).polSp = s.polSp := by simp [regSetBits]
@[simp] theorem regCount_polSp (s : State) (a n : Nat) : (regCount s a n).polSp = s.polSp := by simp [regCount]
@[simp] theorem regPutNat_polApl (s : State) (a v n : Nat) : (regPutNat s a v n).polApl = s.polApl := by
  induction n generalizing s a v with
  | zero => rfl
  | succ n ih => simp [regPutNat, ih]
@[simp] theorem regSetBits_polApl (s : State) (a hi lo x : Nat) : (regSetBits s a hi lo x).polApl = s.polApl := by simp [regSetBits]
@[simp] theorem regCount_polApl (s : State) (a n : Nat) : (regCount s a n).polApl = s.polApl := by simp [regCount]
@[simp] theorem regPutNat_life (s : State) (a v n : Nat) : (regPutNat s a v n).life = s.life := by
  induction n generalizing s a v with
  | zero => rfl
  | succ n ih => simp [regPutNat, ih]
@[simp] theorem regSetBits_life (s : State) (a hi lo x : Nat) : (regSetBits s a hi lo x).life = s.life := by simp [regSetBits]
@[simp] theorem regCount_life (s : State) (a n : Nat) : (regCount s a n).life = s.life := by simp [regCount]
@[simp] theorem regPutNat_pins (s : State) (a v n : Nat) : (regPutNat s a v n).pins = s.pins := by
  induction n generalizing s a v with
  | zero => rfl
  | succ n ih => simp [regPutNat, ih]
@[simp] theorem regSetBits_pins (s : State) (a hi lo x : Nat) : (regSetBits s a hi lo x).pins = s.pins := by simp [regSetBits]
@[simp] theorem regCount_pins (s : State) (a n : Nat) : (regCount s a n).pins = s.pins := by simp [regCount]
@[simp] theorem regPutNat_mbx (s : State) (a v n : Nat) : (regPutNat s a v n).mbx = s.mbx := by
  induction n generalizing s a v with
  | zero => rfl
  | succ n ih => simp [regPutNat, ih]
@[simp] theorem regSetBits_mbx (s : State) (a hi lo x : Nat) : (regSetBits s a hi lo x).mbx = s.mbx := by simp [regSetBits]
@[simp] theorem regCount_mbx (s : State) (a n : Nat) : (regCount s a n).mbx = s.mbx := by simp [regCount]
@[simp] theorem regPutNat_exec (s : State) (a v n : Nat) : (regPutNat s a v n).exec = s.exec := by
  induction n generalizing s a v with
  | zero => rfl
  | succ n ih => simp [regPutNat, ih]
@[simp] theorem regSetBits_exec (s : State) (a hi lo x : Nat) : (regSetBits s a hi lo x).exec = s.exec := by simp [regSetBits]
@[simp] theorem regCount_exec (s : State) (a n : Nat) : (regCount s a n).exec = s.exec := by simp [regCount]
@[simp] theorem regPutNat_due (s : State) (a v n : Nat) : (regPutNat s a v n).due = s.due := by
  induction n generalizing s a v with
  | zero => rfl
  | succ n ih => simp [regPutNat, ih]
@[simp] theorem regSetBits_due (s : State) (a hi lo x : Nat) : (regSetBits s a hi lo x).due = s.due := by simp [regSetBits]
@[simp] theorem regCount_due (s : State) (a n : Nat) : (regCount s a n).due = s.due := by simp [regCount]
@[simp] theorem regPutNat_ring (s : State) (a v n : Nat) : (regPutNat s a v n).ring = s.ring := by
  induction n generalizing s a v with
  | zero => rfl
  | succ n ih => simp [regPutNat, ih]
@[simp] theorem regSetBits_ring (s : State) (a hi lo x : Nat) : (regSetBits s a hi lo x).ring = s.ring := by simp [regSetBits]
@[simp] theorem regCount_ring (s : State) (a n : Nat) : (regCount s a n).ring = s.ring := by simp [regCount]
@[simp] theorem regPutNat_gov (s : State) (a v n : Nat) : (regPutNat s a v n).gov = s.gov := by
  induction n generalizing s a v with
  | zero => rfl
  | succ n ih => simp [regPutNat, ih]
@[simp] theorem regSetBits_gov (s : State) (a hi lo x : Nat) : (regSetBits s a hi lo x).gov = s.gov := by simp [regSetBits]
@[simp] theorem regCount_gov (s : State) (a n : Nat) : (regCount s a n).gov = s.gov := by simp [regCount]
@[simp] theorem regPutNat_flash (s : State) (a v n : Nat) : (regPutNat s a v n).flash = s.flash := by
  induction n generalizing s a v with
  | zero => rfl
  | succ n ih => simp [regPutNat, ih]
@[simp] theorem regSetBits_flash (s : State) (a hi lo x : Nat) : (regSetBits s a hi lo x).flash = s.flash := by simp [regSetBits]
@[simp] theorem regCount_flash (s : State) (a n : Nat) : (regCount s a n).flash = s.flash := by simp [regCount]
@[simp] theorem regPutNat_booted (s : State) (a v n : Nat) : (regPutNat s a v n).booted = s.booted := by
  induction n generalizing s a v with
  | zero => rfl
  | succ n ih => simp [regPutNat, ih]
@[simp] theorem regSetBits_booted (s : State) (a hi lo x : Nat) : (regSetBits s a hi lo x).booted = s.booted := by simp [regSetBits]
@[simp] theorem regCount_booted (s : State) (a n : Nat) : (regCount s a n).booted = s.booted := by simp [regCount]
@[simp] theorem regPutNat_ucode (s : State) (a v n : Nat) : (regPutNat s a v n).ucode = s.ucode := by
  induction n generalizing s a v with
  | zero => rfl
  | succ n ih => simp [regPutNat, ih]
@[simp] theorem regSetBits_ucode (s : State) (a hi lo x : Nat) : (regSetBits s a hi lo x).ucode = s.ucode := by simp [regSetBits]
@[simp] theorem regCount_ucode (s : State) (a n : Nat) : (regCount s a n).ucode = s.ucode := by simp [regCount]
@[simp] theorem regPutNat_copy (s : State) (a v n : Nat) : (regPutNat s a v n).copy = s.copy := by
  induction n generalizing s a v with
  | zero => rfl
  | succ n ih => simp [regPutNat, ih]
@[simp] theorem regSetBits_copy (s : State) (a hi lo x : Nat) : (regSetBits s a hi lo x).copy = s.copy := by simp [regSetBits]
@[simp] theorem regCount_copy (s : State) (a n : Nat) : (regCount s a n).copy = s.copy := by simp [regCount]
@[simp] theorem regPutNat_mute (s : State) (a v n : Nat) : (regPutNat s a v n).mute = s.mute := by
  induction n generalizing s a v with
  | zero => rfl
  | succ n ih => simp [regPutNat, ih]
@[simp] theorem regSetBits_mute (s : State) (a hi lo x : Nat) : (regSetBits s a hi lo x).mute = s.mute := by simp [regSetBits]
@[simp] theorem regCount_mute (s : State) (a n : Nat) : (regCount s a n).mute = s.mute := by simp [regCount]
@[simp] theorem regPutNat_a2Saved (s : State) (a v n : Nat) : (regPutNat s a v n).a2Saved = s.a2Saved := by
  induction n generalizing s a v with
  | zero => rfl
  | succ n ih => simp [regPutNat, ih]
@[simp] theorem regSetBits_a2Saved (s : State) (a hi lo x : Nat) : (regSetBits s a hi lo x).a2Saved = s.a2Saved := by simp [regSetBits]
@[simp] theorem regCount_a2Saved (s : State) (a n : Nat) : (regCount s a n).a2Saved = s.a2Saved := by simp [regCount]
@[simp] theorem regPutNat_smbAt (s : State) (a v n : Nat) : (regPutNat s a v n).smbAt = s.smbAt := by
  induction n generalizing s a v with
  | zero => rfl
  | succ n ih => simp [regPutNat, ih]
@[simp] theorem regSetBits_smbAt (s : State) (a hi lo x : Nat) : (regSetBits s a hi lo x).smbAt = s.smbAt := by simp [regSetBits]
@[simp] theorem regCount_smbAt (s : State) (a n : Nat) : (regCount s a n).smbAt = s.smbAt := by simp [regCount]
@[simp] theorem regPutNat_errs (s : State) (a v n : Nat) : (regPutNat s a v n).errs = s.errs := by
  induction n generalizing s a v with
  | zero => rfl
  | succ n ih => simp [regPutNat, ih]
@[simp] theorem regSetBits_errs (s : State) (a hi lo x : Nat) : (regSetBits s a hi lo x).errs = s.errs := by simp [regSetBits]
@[simp] theorem regCount_errs (s : State) (a n : Nat) : (regCount s a n).errs = s.errs := by simp [regCount]
@[simp] theorem regPutNat_free (s : State) (a v n : Nat) : (regPutNat s a v n).free = s.free := by
  induction n generalizing s a v with
  | zero => rfl
  | succ n ih => simp [regPutNat, ih]
@[simp] theorem regSetBits_free (s : State) (a hi lo x : Nat) : (regSetBits s a hi lo x).free = s.free := by simp [regSetBits]
@[simp] theorem regCount_free (s : State) (a n : Nat) : (regCount s a n).free = s.free := by simp [regCount]

-- Reads after writes ------------------------------------------------------------------------------------------------

@[simp] theorem core_setCore_same (s : State) (c : Nat) (k : Core) : coreOf (setCore s c k) c = k := by simp [coreOf, setCore]
@[simp] theorem setCore_setCore (s : State) (c : Nat) (k l : Core) : setCore (setCore s c k) c l = setCore s c l := by
  simp [setCore]
theorem core_setCore_ne (s : State) {c d : Nat} (k : Core) (h : d ≠ c) : coreOf (setCore s c k) d = coreOf s d := by
  simp [coreOf, setCore, smGet_smSet_ne _ _ _ h]
@[simp] theorem core_modCore_same (s : State) (c : Nat) (f : Core → Core) : coreOf (modCore s c f) c = f (coreOf s c) := by
  simp [modCore]
@[simp] theorem core_noteIssue (s : State) (c d : Nat) (e : Bool) : coreOf (noteIssue s c e) d = coreOf s d := rfl
@[simp] theorem noteIssue_cyc (s : State) (c : Nat) (e : Bool) : (noteIssue s c e).plane.cyc = s.plane.cyc := rfl
theorem core_modCore_ne (s : State) {c d : Nat} (f : Core → Core) (h : d ≠ c) : coreOf (modCore s c f) d = coreOf s d :=
  core_setCore_ne s _ h
@[simp] theorem bridge_setBridge_same (s : State) (d : Nat) (b : Bridge) : bridge (setBridge s d b) d = b := by
  simp [bridge, setBridge]
@[simp] theorem setBridge_setBridge (s : State) (d : Nat) (a b : Bridge) : setBridge (setBridge s d a) d b = setBridge s d b := by
  simp [setBridge]
theorem bridge_setBridge_ne (s : State) {d e : Nat} (b : Bridge) (h : e ≠ d) : bridge (setBridge s d b) e = bridge s e := by
  simp [bridge, setBridge, smGet_smSet_ne _ _ _ h]
@[simp] theorem tile_setTile_same (s : State) (t : Nat) (x : Tile) : tile (setTile s t x) t = x := by simp [tile, setTile]
@[simp] theorem setTile_setTile (s : State) (t : Nat) (x y : Tile) : setTile (setTile s t x) t y = setTile s t y := by
  simp [setTile]
theorem tile_setTile_ne (s : State) {t u : Nat} (x : Tile) (h : u ≠ t) : tile (setTile s t x) u = tile s u := by
  simp [tile, setTile, smGet_smSet_ne _ _ _ h]
@[simp] theorem mbx_setMbx_same (s : State) (n : Nat) (m : Mailbox) : mbx (setMbx s n m) n = m := by simp [mbx, setMbx]
@[simp] theorem setMbx_setMbx (s : State) (n : Nat) (a b : Mailbox) : setMbx (setMbx s n a) n b = setMbx s n b := by
  simp [setMbx]
theorem mbx_setMbx_ne (s : State) {n j : Nat} (m : Mailbox) (h : j ≠ n) : mbx (setMbx s n m) j = mbx s j := by
  simp [mbx, setMbx, smGet_smSet_ne _ _ _ h]
@[simp] theorem regWord_regPut_same (s : State) (a : Nat) (v : Word) : regWord (regPut s a v) a = v := by
  simp [regWord, regPut]
theorem regWord_regPut_ne (s : State) {a b : Nat} (v : Word) (h : b ≠ a) : regWord (regPut s a v) b = regWord s b := by
  simp [regWord, regPut, smGet_smSet_ne _ _ _ h]

end Sys2Proof.Machine
end

