-- ==== Sys2Proof/Laws/Regs.lean ====
section
/-! SUPPORT. Laws of bit fields and of the registers that hold them: a field after a write of it, of another field of its register,
and of another register. -/
namespace Sys2Proof.Machine

-- Bit fields --------------------------------------------------------------------------------------------------------

/-- Replacing a field keeps what lies above and below it. -/
theorem putBits_eq (v hi lo x : Nat) : putBits v hi lo x =
    v / 2 ^ (lo + (hi + 1 - lo)) * 2 ^ (lo + (hi + 1 - lo)) + x % 2 ^ (hi + 1 - lo) * 2 ^ lo + v % 2 ^ lo := by
  have e : v = v / 2 ^ (lo + (hi + 1 - lo)) * 2 ^ (lo + (hi + 1 - lo)) + bitsOf v hi lo * 2 ^ lo + v % 2 ^ lo := by
    have h1 := Nat.div_add_mod v (2 ^ lo)
    have h2 := Nat.div_add_mod (v / 2 ^ lo) (2 ^ (hi + 1 - lo))
    rw [Nat.div_div_eq_div_mul, ← pow_add] at h2
    simp only [bitsOf, Nat.shiftRight_eq_div_pow]
    conv_lhs => rw [← h1, ← h2]
    rw [pow_add]
    ring
  simp only [putBits, Nat.shiftLeft_eq]
  omega

theorem bitsOf_putBits_same (v hi lo x : Nat) : bitsOf (putBits v hi lo x) hi lo = x % 2 ^ (hi + 1 - lo) := by
  have h : v % 2 ^ lo < 2 ^ lo := Nat.mod_lt _ (by positivity)
  have e : putBits v hi lo x =
      v % 2 ^ lo + 2 ^ lo * (x % 2 ^ (hi + 1 - lo) + 2 ^ (hi + 1 - lo) * (v / 2 ^ (lo + (hi + 1 - lo)))) := by
    rw [putBits_eq, pow_add]
    ring
  rw [e, bitsOf, Nat.shiftRight_eq_div_pow, Nat.add_mul_div_left _ _ (by positivity), Nat.div_eq_of_lt h, Nat.zero_add,
    Nat.add_mul_mod_self_left, Nat.mod_mod]

/-- A field reads the bits it names. -/
theorem testBit_bitsOf (v hi lo i : Nat) : (bitsOf v hi lo).testBit i = (decide (i < hi + 1 - lo) && v.testBit (lo + i)) := by
  rw [bitsOf, Nat.testBit_mod_two_pow, Nat.testBit_shiftRight]

/-- A bit of a word one of whose fields has been replaced. -/
theorem testBit_putBits (v hi lo x i : Nat) (h : i < lo ∨ lo + (hi + 1 - lo) ≤ i) : (putBits v hi lo x).testBit i = v.testBit i := by
  set w := hi + 1 - lo with hw
  have hl : v % 2 ^ lo < 2 ^ lo := Nat.mod_lt _ (by positivity)
  have hx : x % 2 ^ w < 2 ^ w := Nat.mod_lt _ (by positivity)
  have hm : v % 2 ^ (lo + w) < 2 ^ (lo + w) := Nat.mod_lt _ (by positivity)
  have hs : x % 2 ^ w * 2 ^ lo + v % 2 ^ lo < 2 ^ (lo + w) := by
    have : (x % 2 ^ w + 1) * 2 ^ lo ≤ 2 ^ w * 2 ^ lo := Nat.mul_le_mul_right _ hx
    rw [pow_add, Nat.mul_comm (2 ^ lo)]
    rw [Nat.add_mul] at this
    omega
  have e := putBits_eq v hi lo x
  rw [← hw, Nat.add_assoc, Nat.mul_comm] at e
  rcases h with h | h
  · have e1 : putBits v hi lo x % 2 ^ lo = v % 2 ^ lo := by
      rw [e, pow_add, Nat.mul_assoc, ← Nat.add_assoc, Nat.mul_comm (x % 2 ^ w), ← Nat.mul_add, Nat.mul_add_mod, Nat.mod_mod]
    have := congrArg (fun n => n.testBit i) e1
    simpa [Nat.testBit_mod_two_pow, h] using this
  · have e2 : putBits v hi lo x / 2 ^ (lo + w) = v / 2 ^ (lo + w) := by
      rw [e, Nat.mul_add_div (by positivity), Nat.div_eq_of_lt hs, Nat.add_zero]
    have := congrArg (fun n => n.testBit (i - (lo + w))) e2
    simpa [Nat.testBit_div_two_pow, Nat.sub_add_cancel h] using this

/-- Replacing a field leaves every other field. -/
theorem bitsOf_putBits_ne (v x : Nat) {hi lo h l : Nat} (d : h < lo ∨ hi < l) :
    bitsOf (putBits v hi lo x) h l = bitsOf v h l := by
  refine Nat.eq_of_testBit_eq fun i => ?_
  rw [testBit_bitsOf, testBit_bitsOf]
  by_cases hi' : i < h + 1 - l
  · rw [testBit_putBits v hi lo x (l + i) (by omega)]
  · simp [hi']

/-- A field below bit `n` does not see what lies from bit `n` on. -/
theorem bitsOf_mod (v : Nat) {h l n : Nat} (hn : h < n) : bitsOf (v % 2 ^ n) h l = bitsOf v h l := by
  refine Nat.eq_of_testBit_eq fun i => ?_
  rw [testBit_bitsOf, testBit_bitsOf, Nat.testBit_mod_two_pow]
  by_cases hi' : i < h + 1 - l
  · have : l + i < n := by omega
    simp [this]
  · simp [hi']

-- Registers of several words ----------------------------------------------------------------------------------------

/-- Writes of registers change nothing but registers. -/
theorem regPutNat_frame (s : State) (a v n : Nat) : regPutNat s a v n = { s with regs := (regPutNat s a v n).regs } := by
  induction n generalizing s a v with
  | zero => rfl
  | succ n ih => rw [regPutNat, ih]; rfl
theorem regSetBits_frame (s : State) (a hi lo x : Nat) : regSetBits s a hi lo x = { s with regs := (regSetBits s a hi lo x).regs } :=
  regPutNat_frame s a _ _

theorem regWord_regPutNat_out (s : State) (a v n b : Nat) (h : b < a ∨ a + 4 * n ≤ b) :
    regWord (regPutNat s a v n) b = regWord s b := by
  induction n generalizing s a v with
  | zero => rfl
  | succ n ih =>
    rw [regPutNat, ih _ _ _ (by omega), regWord_regPut_ne s _ (by omega)]

theorem regNat_congr {s t : State} (a n : Nat) (h : ∀ i < n, regWord t (a + 4 * i) = regWord s (a + 4 * i)) :
    regNat t a n = regNat s a n := by
  induction n generalizing a with
  | zero => rfl
  | succ n ih =>
    rw [regNat, regNat, ih (a + 4) fun i hi => by have := h (i + 1) (by omega); rwa [show a + 4 * (i + 1) = a + 4 + 4 * i by ring] at this]
    rw [show regWord t a = regWord s a from h 0 (by omega)]

theorem regNat_regPutNat_same (s : State) (a v n : Nat) : regNat (regPutNat s a v n) a n = v % 2 ^ (32 * n) := by
  induction n generalizing s a v with
  | zero => simp [regNat, Nat.mod_one]
  | succ n ih =>
    rw [regPutNat, regNat, ih, regWord_regPutNat_out _ _ _ _ _ (by omega), regWord_regPut_same, BitVec.toNat_ofNat,
      show 32 * (n + 1) = 32 + 32 * n by ring, pow_add, Nat.mod_mul]

/-- A write of one register leaves the words of another. -/
theorem regNat_regPutNat_ne (s : State) {a b v n m : Nat} (h : b + 4 * m ≤ a ∨ a + 4 * n ≤ b) :
    regNat (regPutNat s a v n) b m = regNat s b m :=
  regNat_congr b m fun i hi => regWord_regPutNat_out s a v n _ (by omega)

theorem regNat_split (s : State) (a n m : Nat) : regNat s a (n + m) = regNat s a n + 2 ^ (32 * n) * regNat s (a + 4 * n) m := by
  induction n generalizing a with
  | zero => simp [regNat]
  | succ n ih =>
    rw [show n + 1 + m = n + m + 1 by ring, regNat, regNat, ih, show a + 4 + 4 * n = a + 4 * (n + 1) by ring,
      show 32 * (n + 1) = 32 + 32 * n by ring, pow_add]
    ring

theorem regNat_lt (s : State) (a n : Nat) : regNat s a n < 2 ^ (32 * n) := by
  induction n generalizing a with
  | zero => simp [regNat]
  | succ n ih =>
    have h1 := (regWord s a).isLt
    have h2 := ih (a + 4)
    rw [regNat, show 32 * (n + 1) = 32 + 32 * n by ring, pow_add]
    have : 2 ^ 32 * (regNat s (a + 4) n + 1) ≤ 2 ^ 32 * 2 ^ (32 * n) := Nat.mul_le_mul_left _ h2
    omega

/-- A field of a register, read from any number of words that hold it. -/
theorem bitsOf_regNat (s : State) (a : Nat) {h l m : Nat} (hm : h < 32 * m) : bitsOf (regNat s a m) h l = regBits s a h l := by
  obtain ⟨k, rfl⟩ : ∃ k, m = h / 32 + 1 + k := ⟨m - (h / 32 + 1), by omega⟩
  rw [regBits, regNat_split, ← bitsOf_mod (regNat s a (h / 32 + 1) + _) (show h < 32 * (h / 32 + 1) by omega), Nat.add_mul_mod_self_left,
    Nat.mod_eq_of_lt (regNat_lt s a _)]

@[simp] theorem regBits_regSetBits_same (s : State) (a hi lo x : Nat) :
    regBits (regSetBits s a hi lo x) a hi lo = x % 2 ^ (hi + 1 - lo) := by
  rw [regBits, regSetBits]
  simp only [regNat_regPutNat_same]
  rw [bitsOf_mod _ (by omega), bitsOf_putBits_same]

/-- A write of one field leaves every other field of its register. -/
theorem regBits_regSetBits_field (s : State) (a x : Nat) {hi lo h l : Nat} (d : h < lo ∨ hi < l) :
    regBits (regSetBits s a hi lo x) a h l = regBits s a h l := by
  have hm : ∀ m, regNat (regSetBits s a hi lo x) a (hi / 32 + 1 + m) =
      putBits (regNat s a (hi / 32 + 1)) hi lo x % 2 ^ (32 * (hi / 32 + 1)) +
        2 ^ (32 * (hi / 32 + 1)) * regNat s (a + 4 * (hi / 32 + 1)) m := by
    intro m
    rw [regNat_split, regSetBits]
    simp only [regNat_regPutNat_same]
    rw [regNat_regPutNat_ne s (by omega)]
  have hb : h < 32 * (hi / 32 + 1 + (h / 32 + 1)) := by omega
  rw [← bitsOf_regNat _ a hb, ← bitsOf_regNat s a hb, hm, regNat_split s a (hi / 32 + 1) (h / 32 + 1)]
  refine Nat.eq_of_testBit_eq fun i => ?_
  rw [testBit_bitsOf, testBit_bitsOf]
  by_cases hi' : i < h + 1 - l
  · have hw : hi < 32 * (hi / 32 + 1) := by omega
    simp only [hi', decide_true, Bool.true_and]
    have e1 : ∀ A, A % 2 ^ (32 * (hi / 32 + 1)) = A → ∀ R, (A + 2 ^ (32 * (hi / 32 + 1)) * R).testBit (l + i) =
        if l + i < 32 * (hi / 32 + 1) then A.testBit (l + i) else R.testBit (l + i - 32 * (hi / 32 + 1)) := by
      intro A hA R
      have hlt : A < 2 ^ (32 * (hi / 32 + 1)) := hA ▸ Nat.mod_lt _ (by positivity)
      rw [Nat.add_comm, Nat.testBit_two_pow_mul_add R hlt]
    rw [e1 _ (Nat.mod_mod _ _), e1 _ (Nat.mod_eq_of_lt (regNat_lt s a _))]
    split
    · next hlt => rw [Nat.testBit_mod_two_pow, testBit_putBits _ _ _ _ _ (by omega)]; simp [hlt]
    · rfl
  · simp [hi']

/-- A write of one register leaves the fields of another. -/
theorem regBits_regSetBits_ne (s : State) {a b hi lo h l : Nat} (x : Nat) (d : b + 4 * (h / 32 + 1) ≤ a ∨ a + 4 * (hi / 32 + 1) ≤ b) :
    regBits (regSetBits s a hi lo x) b h l = regBits s b h l := by
  rw [regBits, regBits, regSetBits]
  simp only [regNat_regPutNat_ne s d]

end Sys2Proof.Machine
end

