-- ==== Sys2Proof/Laws/Commands.lean ====
section
/-! SUPPORT. Laws of the shells that commands share: what a command of a tile, a core, a Bridge, the host, a mailbox or the BMC
answers, and when it is its own effect. -/
namespace Sys2Proof.Machine
open Sys2Proof.Safety

-- Units -------------------------------------------------------------------------------------------------------------

theorem tileCmd_works {t : Nat} {s : State} {f : State → State} (h : t < 64) (hc : clocksRun s = true) :
    tileCmd t s f = .next (f s) := by simp [tileCmd, Nat.not_le.mpr h, hc]
theorem tileCmd_idle {t : Nat} {s : State} {f : State → State} (h : t < 64) (hc : clocksRun s = false) :
    tileCmd t s f = .next s := by simp [tileCmd, Nat.not_le.mpr h, hc]
theorem tileCmd_refused {t : Nat} {s : State} {f : State → State} (h : 64 ≤ t) :
    tileCmd t s f = .refused (.noSuchUnit "tile") := by simp [tileCmd, h]

theorem coreCmd_works {c : Nat} {s : State} {f : State → State} (h : c < coreCount) (hc : clocksRun s = true) :
    coreCmd c s f = .next (f s) := by simp [coreCmd, Nat.not_le.mpr h, hc]
theorem coreCmd_idle {c : Nat} {s : State} {f : State → State} (h : c < coreCount) (hc : clocksRun s = false) :
    coreCmd c s f = .next s := by simp [coreCmd, Nat.not_le.mpr h, hc]
theorem coreCmd_refused {c : Nat} {s : State} {f : State → State} (h : coreCount ≤ c) :
    coreCmd c s f = .refused (.noSuchUnit "core") := by simp [coreCmd, h]

theorem bridgeCmd_works {d : Nat} {s : State} {f : State → State} (h : BridgeWorks s d) : bridgeCmd d s f = .next (f s) := by
  simp [bridgeCmd, h.bridge, h.works]
theorem bridgeCmd_idle {d : Nat} {s : State} {f : State → State} (h : isBridge d = true) (hc : bridgesOn s = false) :
    bridgeCmd d s f = .next s := by simp [bridgeCmd, h, hc]
theorem bridgeCmd_refused {d : Nat} {s : State} {f : State → State} (h : isBridge d = false) :
    bridgeCmd d s f = .refused (.noSuchUnit "Bridge") := by simp [bridgeCmd, h]

-- Host transactions -------------------------------------------------------------------------------------------------

theorem hostTxn_up {i : Instr} {s : State} {f : State → State} (h : s.life = .up) (hm : s.muted = false) :
    hostTxn i s f = .next (f s) := by simp [hostTxn, h, hm]
/-- A muted module completes the transaction after its resumption (17 R450). -/
theorem hostTxn_muted {i : Instr} {s : State} {f : State → State} (h : s.life = .up) (hm : s.muted = true) :
    hostTxn i s f = .next { s with mute := { s.mute with waiting := s.mute.waiting ++ [i] } } := by simp [hostTxn, h, hm]
theorem hostTxn_down {i : Instr} {s : State} {f : State → State} (h : s.life ≠ .up) : hostTxn i s f = .next s := by
  simp [hostTxn, h]

theorem mmioWrite_served {i : Instr} {d : Nat} {x : Bool} {s : State} {f : State → State} (h : s.life = .up) (hm : s.muted = false)
    (hs : mmioServed s d x = true) : mmioWrite i d x s f = .next (emit (f s) (.mmioDone true)) := by
  simp [mmioWrite, hostTxn_up h hm, h, hs]
/-- A write that is not served is answered UR and changes nothing (01 R30, 14 R366). -/
theorem mmioWrite_refused {i : Instr} {d : Nat} {x : Bool} {s : State} {f : State → State} (h : s.life = .up) (hm : s.muted = false)
    (hs : mmioServed s d x = false) : mmioWrite i d x s f = .next { s with out := s.out ++ [.mmioDone false] } := by
  simp [mmioWrite, hostTxn_up h hm, h, hs, emit]
/-- What Served gives: the write has its effect and is answered. -/
theorem mmioWrite_of {i : Instr} {d : Nat} {x : Bool} {s : State} {f : State → State} (h : Served s d) :
    mmioWrite i d x s f = .next (emit (f s) (.mmioDone true)) := by
  refine mmioWrite_served h.up h.awake ?_
  have := h.served
  simp only [mmioServed, Bool.and_eq_true, Bool.false_or, Bool.or_eq_true] at this ⊢
  exact ⟨this.1, Or.inr this.2⟩
theorem bridgeWrite_of {i : Instr} {d : Nat} {s : State} {f : State → State} (hb : isBridge d = true) (h : Served s d) :
    bridgeWrite i d s f = .next (emit (f s) (.mmioDone true)) := by rw [bridgeWrite, if_pos hb, mmioWrite_of h]

theorem channelCmd_up {ch : Nat} {s : State} {o : Out} (h : ch < 4) (hu : s.life = .up) : channelCmd ch s o = o := by
  simp [channelCmd, Nat.not_le.mpr h, hu]

-- The BMC -----------------------------------------------------------------------------------------------------------

theorem smbCmd_works {s : State} {f : State → State} (h : smbAnswers s = true) : smbCmd true s f = .next (f s) := by
  simp [smbCmd, h]
theorem smbCmd_refused {p : Bool} {s : State} {f : State → State} (h : smbAnswers s = false ∨ p = false) :
    smbCmd p s f = .next { s with out := s.out ++ [.smbus false []] } := by
  rcases h with h | h <;> simp [smbCmd, h, emit]

-- Mailboxes ---------------------------------------------------------------------------------------------------------

/-- A row that is not the next command changes nothing (log 2). -/
theorem mbxCmd_other {n row : Nat} {s : State} {f : State → State × Answer} (h : n < 16) (ht : mbxTaken s n row = false) :
    mbxCmd n row s f = .next s := by simp [mbxCmd, Nat.not_le.mpr h, ht]
theorem mbxCmd_refused {n row : Nat} {s : State} {f : State → State × Answer} (h : 16 ≤ n) :
    mbxCmd n row s f = .refused (.noSuchUnit "mailbox") := by simp [mbxCmd, h]
/-- A command that fails a shared check is answered with its status and does nothing else (14 R382). -/
theorem mbxCmd_fails {n row : Nat} {s : State} {f : State → State × Answer} (h : n < 16) (ht : mbxTaken s n row = true)
    (hs : sharedStatus s n ≠ stOK) : mbxCmd n row s f = .next (settleQueue 16 (respond s n (.st (sharedStatus s n)))) := by
  simp [mbxCmd, Nat.not_le.mpr h, ht, hs]
/-- A command that passes them has its own effect and answers with what that gives. -/
theorem mbxCmd_passes {n row : Nat} {s : State} {f : State → State × Answer} (h : n < 16) (ht : mbxTaken s n row = true)
    (hs : sharedStatus s n = stOK) : mbxCmd n row s f = .next (settleQueue 16 (respond (f s).1 n (f s).2)) := by
  simp [mbxCmd, Nat.not_le.mpr h, ht, hs]

@[simp] theorem settleQueue_nil (n : Nat) (s : State) (h : s.exec.queue = []) : settleQueue n s = s := by
  cases n with
  | zero => rfl
  | succ n => simp [settleQueue, h]

-- Interrupts --------------------------------------------------------------------------------------------------------

/-- An interrupt event sets its pending bit, and sends at most one doorbell; nothing else changes (14 R374, R375). -/
theorem raiseIrq_eq (s : State) (b : Nat) :
    ∃ o, raiseIrq s b = { s with regs := (raiseIrq s b).regs, out := s.out ++ o } ∧ o.length ≤ 1 := by
  have h := regSetBits_frame s (dcs APL 0x100) b b 1
  simp only [raiseIrq]
  split
  · exact ⟨[], by simp⟩
  · split
    · exact ⟨[], by simpa using h, by simp⟩
    · refine ⟨[.hostWrite (regNat (regSetBits s (dcs APL 0x100) b b 1) (dcs APL (0x1000 + b * 0x10)) 2)
        (bytesLE 4 (regWord (regSetBits s (dcs APL 0x100) b b 1) (dcs APL (0x1000 + b * 0x10) + 8)).toNat)], ?_, by simp⟩
      simp only [doorbell, emit]
      rw [h]

end Sys2Proof.Machine
end

