-- ==== Sys2Proof/Laws/Issue.lean ====
section
/-! SUPPORT. Laws of issue: what an instruction row answers, whether its core is ready or not. -/
namespace Sys2Proof.Machine
open Sys2Proof.Safety

/-- A ready core issues in the present cycle: no time passes before it. -/
theorem openIssue_ready {s : State} {c : Nat} (h : Ready s c) : openIssue s c = s := by
  have := h.turn
  simp [openIssue, Nat.not_lt.mpr this]

theorem canIssue_ready {s : State} {c : Nat} (h : Ready s c) : canIssue s c = true := by
  simp [canIssue, h.running, h.notHeld, h.clocked, h.covered, h.active, h.turn, h.notHalted]

/-- An effect on a core without errors is the instruction's own (17 R442). -/
theorem runPlan_sound {s : State} {c n pc : Nat} {pl : Plan} (h : (coreOf s c).ecc = Ecc.none) : runPlan s c n pc pl = pl.eff s := by
  simp [runPlan, h, Ecc.none]

/-- An instruction that meets no fault is noted, retires and has its effect. -/
theorem issueNow_clean {s : State} {c : Nat} {p : Pred} {plan : State → Core → Plan} (h : Ready s c)
    (hx : lowestCode (planFaults (coreOf s c) s.plane.cyc (executes (coreOf s c) p) (plan s (coreOf s c))) = 0) :
    issueNow s c p false plan =
      (let pl := plan s (coreOf s c)
       let s' := setCore (noteIssue s c false) c (pl.always (retire (coreOf s c) s.plane.cyc pl.needs))
       if executes (coreOf s c) p then runPlan s' c s.plane.cyc (coreOf s c).pc pl else s') := by
  have h1 := h.inStore
  have h2 := h.noSkew
  simp [issueNow, Nat.not_le.mpr h1, h2, hx]

/-- The row of a ready core whose instruction meets no fault. -/
theorem issue_clean {s : State} {c : Nat} {p : Pred} {plan : State → Core → Plan} (h : Ready s c)
    (hx : lowestCode (planFaults (coreOf s c) s.plane.cyc (executes (coreOf s c) p) (plan s (coreOf s c))) = 0) :
    issue c p plan s = .next
      (let pl := plan s (coreOf s c)
       let s' := setCore (noteIssue s c false) c (pl.always (retire (coreOf s c) s.plane.cyc pl.needs))
       if executes (coreOf s c) p then runPlan s' c s.plane.cyc (coreOf s c).pc pl else s') := by
  have hc := h.lists
  simp only [issue, Nat.not_le.mpr hc, if_false, openIssue_ready h, canIssue_ready h, if_true]
  rw [issueNow_clean h hx]

/-- A plan that meets no fault and acts on its core alone. -/
def ActsOnCore (pl : Plan) (c : Nat) (needs : List Need) (g : Nat → Core → Core) : Prop :=
  pl.illegal = false ∧ pl.clash = false ∧ pl.faults = [] ∧ pl.needs = needs ∧ pl.always = id ∧
    pl.eff = fun s => modCore s c (g s.plane.cyc)

theorem onCore_acts (c : Nat) (needs : List Need) (g : Nat → Core → Core) : ActsOnCore (onCore c needs g) c needs g :=
  ⟨rfl, rfl, rfl, rfl, rfl, rfl⟩

/-- The words a plan reads and the check of its result are no matter to a core without errors. -/
@[simp] theorem reading_acts (rs : List (Nat × List Nat)) (pl : Plan) (c : Nat) (needs : List Need) (g : Nat → Core → Core) :
    ActsOnCore (.reading rs pl) c needs g ↔ ActsOnCore pl c needs g := Iff.rfl
@[simp] theorem residue_acts (m : Nat) (plan : State → Core → Plan) (s : State) (k : Core) (c : Nat) (needs : List Need)
    (g : Nat → Core → Core) : ActsOnCore (residue m plan s k) c needs g ↔ ActsOnCore (plan s k) c needs g := Iff.rfl

/-- The row of a ready core whose instruction executes, with a plan that acts on the core alone and meets no fault. -/
theorem issue_acts {s : State} {c : Nat} {p : Pred} {plan : State → Core → Plan} {needs : List Need} {g : Nat → Core → Core}
    (h : Fires s c p) (hv : Vacant s c needs) (hp : ActsOnCore (plan s (coreOf s c)) c needs g) :
    issue c p plan s = .next (afterIssue s c needs (g s.plane.cyc)) := by
  obtain ⟨h1, h2, h3, h4, h5, h6⟩ := hp
  rw [issue_clean h.toReady]
  · have he := h.executes
    have hr : (coreOf (setCore (noteIssue s c false) c (retire (coreOf s c) s.plane.cyc needs)) c).ecc = Ecc.none := by
      simp [retire, h.sound]
    simp [h4, h5, h6, he, afterIssue, modCore, runPlan_sound hr]
  · have hv' : (needs.any (needClash (coreOf s c) s.plane.cyc)) = false := hv
    simp [planFaults, h1, h2, h3, h4, hv', lowestCode, h.executes]

/-- A core row whose core does not exist is refused (01 R12). -/
theorem issue_refused {s : State} {c : Nat} {p : Pred} {plan : State → Core → Plan} (h : coreCount ≤ c) :
    issue c p plan s = .refused (.noSuchUnit "core") := by simp [issue, h]

/-- A core row of a core that exists answers a next state. -/
theorem issue_next {s : State} {c : Nat} {p : Pred} {plan : State → Core → Plan} (h : c < coreCount) :
    ∃ t, issue c p plan s = .next t := by
  simp only [issue, Nat.not_le.mpr h, if_false]
  exact ⟨_, rfl⟩

end Sys2Proof.Machine
end

