-- ==== Sys2Proof/Laws/Lanes.lean ====
section
/-! SUPPORT. Laws of lanes: what packing wrote is read lane by lane. -/
namespace Sys2Proof.Machine

theorem packNat_lt (w : Nat) (xs : List Nat) : packNat w xs < 2 ^ (w * xs.length) := by
  induction xs with
  | nil => simp [packNat]
  | cons x xs ih =>
    have h : x % 2 ^ w < 2 ^ w := Nat.mod_lt _ (by positivity)
    have e : 2 ^ (w * (xs.length + 1)) = 2 ^ (w * xs.length) * 2 ^ w := by rw [← pow_add]; congr 1
    simp only [packNat, List.length_cons, e]
    calc x % 2 ^ w + packNat w xs * 2 ^ w < 2 ^ w + packNat w xs * 2 ^ w := by omega
      _ = (packNat w xs + 1) * 2 ^ w := by ring
      _ ≤ 2 ^ (w * xs.length) * 2 ^ w := Nat.mul_le_mul_right _ ih

theorem packNat_lane (w : Nat) (xs : List Nat) (i : Nat) (h : i < xs.length) :
    (packNat w xs >>> (w * i)) % 2 ^ w = xs[i] % 2 ^ w := by
  induction xs generalizing i with
  | nil => simp at h
  | cons x xs ih =>
    cases i with
    | zero => simp [packNat, Nat.add_mul_mod_self_right]
    | succ i =>
      have e : w * (i + 1) = w + w * i := by ring
      have hs : packNat w (x :: xs) >>> w = packNat w xs := by
        rw [Nat.shiftRight_eq_div_pow, packNat, Nat.add_mul_div_right _ _ (by positivity),
          Nat.div_eq_of_lt (Nat.mod_lt _ (by positivity)), Nat.zero_add]
      rw [e, Nat.shiftRight_add, hs]
      simpa using ih i (by simpa using h)

/-- A packed register read lane by lane. -/
theorem laneOf_packLanes (w : Nat) (xs : List Nat) (i : Nat) (h : i < xs.length) (hw : w * xs.length ≤ 512) :
    laneOf w (packLanes w xs) i = xs[i] % 2 ^ w := by
  have hlt : packNat w xs < 2 ^ 512 := lt_of_lt_of_le (packNat_lt w xs) (Nat.pow_le_pow_right (by norm_num) hw)
  rw [laneOf, packLanes, BitVec.toNat_ofNat, Nat.mod_eq_of_lt hlt, packNat_lane w xs i h]

end Sys2Proof.Machine
end

