-- ==== Sys2Proof/Laws/Results.lean ====
section
/-! SUPPORT. Laws of results on their way and of landings: what writing one may change. -/
namespace Sys2Proof.Machine

/-- `t` differs from `k` in the registers of the per-core window alone. -/
def keeps (k t : Core) : Prop :=
  t = { k with fpctl := t.fpctl, fpstat := t.fpstat, blkuf := t.blkuf, mxstat := t.mxstat, srseq := t.srseq, mxctl := t.mxctl
               spskip := t.spskip, lb := t.lb }

/-- A write of the per-core window changes the registers of the window and nothing else (05 R140). -/
theorem csrWrite32_frame (k : Core) (off : Nat) (v : Word) : keeps k (csrWrite32 k off v) := by
  have ite : ∀ (c : Prop) [Decidable c] (a b : Core), keeps k a → keeps k b → keeps k (if c then a else b) := by
    intro c _ a b ha hb
    split <;> assumption
  show keeps k (csrWrite32 k off v)
  unfold csrWrite32
  repeat' first | apply ite | exact rfl

theorem csrWrite_frame (k : Core) (off size v : Nat) : keeps k (csrWrite k off size v) := by
  unfold csrWrite
  split
  · have h := csrWrite32_frame (csrWrite32 k off (BitVec.ofNat 32 v)) (off + 4) (BitVec.ofNat 32 (v >>> 32))
    have g := csrWrite32_frame k off (BitVec.ofNat 32 v)
    unfold keeps at h g ⊢
    rw [h, g]
  · exact csrWrite32_frame k off _

/-- A result changes registers, stores and the registers of the window: neither the core's place in its program, nor its faults,
its occupancy or what else is on its way. -/
theorem applyDst_frame (k : Core) (d : Dst) (v : Nat) :
    let t := applyDst k d v
    t = { k with s := t.s, p := t.p, v := t.v, rx := t.rx, vrx := t.vrx, ls := t.ls, is := t.is, fpctl := t.fpctl, fpstat := t.fpstat
                 blkuf := t.blkuf, mxstat := t.mxstat, srseq := t.srseq, mxctl := t.mxctl, spskip := t.spskip, lb := t.lb } := by
  cases d with
  | csr off size =>
    have h := csrWrite_frame k off size v
    unfold keeps at h
    simp only [applyDst]
    rw [h]
  | _ => rfl

/-- The same of the results due by a cycle, which leave the list of those on their way. -/
theorem commitWb_frame (k : Core) (n : Nat) :
    let t := commitWb k n
    t = { k with wb := k.wb.filter (fun w => !(w.due ≤ n)), s := t.s, p := t.p, v := t.v, rx := t.rx, vrx := t.vrx, ls := t.ls
                 is := t.is, fpctl := t.fpctl, fpstat := t.fpstat, blkuf := t.blkuf, mxstat := t.mxstat, srseq := t.srseq
                 mxctl := t.mxctl, spskip := t.spskip, lb := t.lb } := by
  have go : ∀ (ws : List Wb) (a : Core),
      let t := ws.foldl (fun a w => applyDst a w.dst w.val) a
      t = { a with s := t.s, p := t.p, v := t.v, rx := t.rx, vrx := t.vrx, ls := t.ls, is := t.is, fpctl := t.fpctl
                   fpstat := t.fpstat, blkuf := t.blkuf, mxstat := t.mxstat, srseq := t.srseq, mxctl := t.mxctl
                   spskip := t.spskip, lb := t.lb } := by
    intro ws
    induction ws with
    | nil => intro a; rfl
    | cons w ws ih =>
      intro a
      have h := ih (applyDst a w.dst w.val)
      have g := applyDst_frame a w.dst w.val
      simp only [List.foldl_cons] at h g ⊢
      rw [h, g]
  exact go _ _

/-- A landing that fits writes its bytes at its address and counts them in its buffer (04 R120). -/
theorem landAt_fits {s : State} {c b a : Nat} {bs : List Byte} (h : landRefused (lbGet (coreOf s c) b) a bs.length = false) :
    landAt s c b a bs = setCore s c (lbSet { coreOf s c with ls := memWrite (coreOf s c).ls a bs } b
      { lbGet (coreOf s c) b with count := (lbGet (coreOf s c) b).count + bs.length }) := by simp [landAt, h]
/-- One that does not fit marks the buffer and records LANDING_OVERFILL. -/
theorem landAt_refused {s : State} {c b a : Nat} {bs : List Byte} (h : landRefused (lbGet (coreOf s c) b) a bs.length = true) :
    landAt s c b a bs = overfill s c b := by simp [landAt, h]

end Sys2Proof.Machine
end

