-- ==== Sys2Proof/Tests/Slice0.lean ====
section
/-! SUPPORT. Tests: ill-formed commands are refused by WellFormed; for every statement with hypotheses, a state and operands that
meet them clause by clause, with the conclusion there where it is cheap to evaluate. -/
namespace Sys2Proof.Tests
open Sys2Proof Sys2Proof.Machine Sys2Proof.Safety Sys2Proof.Claims
set_option Elab.async false

-- States of the tests -----------------------------------------------------------------------------------------------

/-- Whether an outcome is the next state `t`. -/
def goesTo (o : Out) (t : State) : Bool := match o with | .next u => decide (u = t) | _ => false

/-- What holds of the next state. -/
def after (o : Out) (f : State → Bool) : Bool := match o with | .next u => f u | _ => false

/-- Core 0 in register state `k`, alone covered by an image and running in issue cycle 0. -/
def atCore (k : Core) : State :=
  { State.reset with
    image := some ⟨[(0, 0, 0, 0)], 1⟩
    plane := { Plane.reset with run := .running }
    cores := smSet Core.reset [] 0 k }

/-- The predicate that always lets an instruction execute, and one that never does while p0 is clear. -/
def always : Pred := ⟨false, false, 0⟩
def whenP0 : Pred := ⟨true, false, 0⟩

/-- The conditions of Ready as one Bool. -/
def readyB (s : State) (c : Nat) : Bool :=
  decide (c < coreCount) && decide (s.plane.run = .running) && !s.plane.held && s.plane.halted.isNone && clocksRun s &&
    !coreIdle s c && !(coreOf s c).halted && decide ((coreOf s c).next ≤ s.plane.cyc) && decide ((coreOf s c).pc < 2048) &&
    decide ((coreOf s c).ecc = Ecc.none) && !skews s false

theorem ready_of {s : State} {c : Nat} (h : readyB s c = true) : Ready s c := by
  simp only [readyB, Bool.and_eq_true, decide_eq_true_eq, Bool.not_eq_true', Option.isNone_iff_eq_none] at h
  obtain ⟨⟨⟨⟨⟨⟨⟨⟨⟨⟨lists, running⟩, notHeld⟩, notHalted⟩, clocked⟩, covered⟩, active⟩, turn⟩, inStore⟩, sound⟩, noSkew⟩ := h
  exact { lists, running, notHeld, notHalted, clocked, covered, active, turn, inStore, sound, noSkew }

theorem fires_of {s : State} {c : Nat} {p : Pred} (h : readyB s c = true) (he : executes (coreOf s c) p = true) : Fires s c p :=
  { toReady := ready_of h, executes := he }

/-- A core at work: registers, vectors and predicates with contents, bytes in its store, one armed and one free buffer. -/
def k0 : Core :=
  { Core.reset with
    s := ((((Core.reset.s.set 1 0x40000000#32).set 2 0x3F800000#32).set 3 64#32).set 4 128#32).set 5 0xFFFFFFFE#32
    p := Core.reset.p.set 1 true
    v := (Core.reset.v.set 1 (vecOfBytes (bytesLE 64 (0x3F800000 * 2 ^ 32 + 0x40000000)))).set 2 (vecOfBytes (bytesLE 64 7))
    rx := Core.reset.rx.set 2 5
    vrx := Core.reset.vrx.set 3 9
    ls := memWrite [] 64 (bytesLE 64 0x1122334455667788)
    lb := smSet LandBuf.reset [] 3 ⟨4096, 64, 64, true, false, false, .plain⟩ }

def s0 : State := atCore k0

theorem s0_ready : Ready s0 0 := ready_of (by decide +kernel)
theorem s0_fires : Fires s0 0 always := fires_of (by decide +kernel) (by decide +kernel)
theorem s0_off : executes (coreOf s0 0) whenP0 = false := by decide +kernel
theorem s0_vacant (n : List Need) : Vacant s0 0 n := by
  have : (coreOf s0 0).busy = [] := by decide +kernel
  simp [Vacant, needClash, this]

-- Integer, predicate and register rows ------------------------------------------------------------------------------

def fR : FmtR := { rm := 0, ty := 0, sat := false, rd := 7, ra := 1, rb := 2, rc := 3, fn := 0 }
def fI : FmtI := { sz := 0, rd := 7, ra := 3, fn := 0, imm := 5 }
def fC : FmtC := { ra := 3, mask := 8, target := 40 }

theorem test_integer_rows : ∀ row ∈ integerRows, goesTo (exec (row.1 0 always fR) s0) (afterIssue s0 0 nSIU (fun k =>
    { k with wb := k.wb ++ [⟨row.2.2, .s 7, (row.2.1 0x40000000 0x3F800000).toNat⟩] })) = true := by decide +kernel

theorem test_immediate_rows : ∀ row ∈ immediateRows, goesTo (exec (row.1 0 always fI) s0) (afterIssue s0 0 nSIU (fun k =>
    { k with wb := k.wb ++ [⟨1, .s 7, (row.2 64 5).toNat⟩] })) = true := by decide +kernel

theorem test_add_wraps : after (exec (.add 0 always { fR with ra := 5, rb := 5 }) s0) (fun t =>
    (coreOf t 0).wb = [⟨1, .s 7, 0xFFFFFFFC⟩]) = true := by decide +kernel

theorem test_mulh_signed : after (exec (.mulh 0 always { fR with ra := 5, rb := 5 }) s0) (fun t =>
    (coreOf t 0).wb = [⟨3, .s 7, 0⟩]) = true := by decide +kernel

theorem test_mulhu : after (exec (.mulhu 0 always { fR with ra := 5, rb := 5 }) s0) (fun t =>
    (coreOf t 0).wb = [⟨3, .s 7, 0xFFFFFFFC⟩]) = true := by decide +kernel

theorem test_srai_sign : after (exec (.srai 0 always { fI with ra := 5, imm := 33 }) s0) (fun t =>
    (coreOf t 0).wb = [⟨1, .s 7, 0xFFFFFFFF⟩]) = true := by decide +kernel

theorem test_predicate_rows : ∀ row ∈ predicateRows, goesTo (exec (row.1 0 always { fR with ra := 1, rb := 2 }) s0)
    (afterIssue s0 0 nSIU (fun k => { k with wb := k.wb ++ [⟨1, .p 7, (row.2 true false).toNat⟩] })) = true := by
  decide +kernel

theorem test_compares : ∀ row ∈ compares, goesTo (exec (.icmp 0 always { fR with ra := 5, rb := 3, fn := BitVec.ofNat 6 row.1 }) s0)
    (afterIssue s0 0 nSIU (fun k => { k with wb := k.wb ++ [⟨1, .p 7, (row.2 0xFFFFFFFE 64).toNat⟩] })) = true := by
  decide +kernel

/-- IntegerAndPredicateRowsComplete: the register numbers at the ends of their ranges. -/
theorem witness_IntegerAndPredicateRowsComplete : Fires s0 0 always ∧ Vacant s0 0 nSIU ∧ sReg 0 = some 0 ∧ sReg 31 = some 31 ∧
    pReg 0 = some 0 ∧ pReg 7 = some 7 ∧ (∀ row ∈ compares, (BitVec.ofNat 6 row.1).toNat = row.1) :=
  ⟨s0_fires, s0_vacant _, by decide +kernel⟩

/-- PerCoreRegistersAreReadAndWritten: a word and a pair of the window, each FN of RDID. -/
theorem witness_PerCoreRegistersAreReadAndWritten : Fires s0 0 always ∧ Vacant s0 0 nSIU ∧
    (({ fI with imm := 0x1FC } : FmtI).imm.toNat % 512 % 4 = 0 ∧ sReg 7 = some 7) ∧
    (({ fI with sz := 1, imm := 0x1F8 } : FmtI).imm.toNat % 512 % 8 = 0 ∧ sPair 30 = some 30) ∧
    (∀ n < 4, (BitVec.ofNat 4 n).toNat = n) :=
  ⟨s0_fires, s0_vacant _, by decide +kernel⟩

theorem test_csrr_mxctl : after (exec (.csrr 0 always { fI with imm := 0x58 }) s0) (fun t =>
    (coreOf t 0).wb = [⟨1, .s 7, 0x001700FF⟩]) = true := by decide +kernel

theorem test_csrw_pair : after (exec (.csrw 0 always { fI with sz := 1, ra := 2, imm := 0x70 }) s0) (fun t =>
    (coreOf t 0).wb = [⟨1, .csr 0x70 8, 64 * 2 ^ 32 + 0x3F800000⟩]) = true := by decide +kernel

theorem test_rdid_core : after (exec (.rdid 0 always fI) s0) (fun t => (coreOf t 0).wb = [⟨1, .s 7, 0⟩]) = true := by
  decide +kernel

-- Control -----------------------------------------------------------------------------------------------------------

/-- ControlRowsComplete: the register target of BRR at the end of the store is 2,047; GATE with an armed buffer and with none. -/
theorem witness_ControlRowsComplete : Ready s0 0 ∧ Fires s0 0 always ∧ Vacant s0 0 nSIU ∧ sReg 3 = some 3 ∧
    (sGet (coreOf s0 0) 3).toNat < 2048 ∧ (∀ b < 16, (8#17).getLsbD b = true → (lbGet (coreOf s0 0) b).armed = true) ∧
    Core.reset.brs = [] :=
  ⟨s0_ready, s0_fires, s0_vacant _, by decide +kernel⟩

theorem test_nop : goesTo (exec (.nop 0) s0) (afterIssue s0 0 [] id) = true := by decide +kernel

theorem test_br : after (exec (.br 0 always fC) s0) (fun t => (coreOf t 0).brs = [(2, 40)] && (coreOf t 0).pc = 1) = true := by
  decide +kernel

theorem test_brr : after (exec (.brr 0 always fC) s0) (fun t => (coreOf t 0).brs = [(2, 64)]) = true := by decide +kernel

theorem test_gate_complete : after (exec (.gate 0 always fC) s0) (fun t => (coreOf t 0).gates = [⟨0, 0, .gate 8, true⟩]) = true := by
  decide +kernel

theorem test_capo_open : after (exec (.capo 0 always fC) (atCore { k0 with capo := 1 })) (fun t =>
    (coreOf t 0).gates = [⟨0, 0, .capo, false⟩]) = true := by decide +kernel

theorem witness_HaltAndStependComplete : Fires s0 0 always ∧ (coreOf s0 0).sparseOut = false ∧ Turn s0 0 ∧
    executes (coreOf s0 0) always = true ∧ Vacant s0 0 nSIU ∧ (∀ d ∈ activeCores s0, d ≠ 0 → (coreOf s0 d).next ≠ 1) :=
  ⟨s0_fires, by decide +kernel, s0_ready.toTurn, by decide +kernel, s0_vacant _, by decide +kernel⟩

theorem test_halt_last : after (exec (.halt 0 always fC) s0) (fun t => (coreOf t 0).halted && t.plane.stepEnd = some 1) = true := by
  decide +kernel

theorem test_stepend : after (exec (.stepend 0 always fC) s0) (fun t =>
    t.plane.stepEnd = some 0 && (coreOf t 0).gates = [⟨0, 0, .fence, true⟩]) = true := by decide +kernel

-- Floating point ----------------------------------------------------------------------------------------------------

/-- FP32 operands 2.0 in s1 and 1.0 in s2; FP64 operands in the pairs s0 and s2. -/
def f32 : FmtR := { fR with ty := 1 }
def f64 : FmtR := { fR with ty := 0, rd := 8, ra := 0, rb := 2, rc := 4 }

/-- ScalarFloatingPointRowsComplete: both formats, one, two and three operands, both units; each clause. -/
theorem witness_ScalarFloatingPointRowsComplete :
    Fires s0 0 always ∧ (∀ n, Vacant s0 0 n) ∧
    (f32.ty = 1 ∧ f64.ty = 0) ∧ rmOf (coreOf s0 0) 0 = some .ne ∧ scalarDst 32 31 = some 31 ∧ scalarDst 64 30 = some 30 ∧
    scalarSrc (coreOf s0 0) 32 f32.ra = some 0x40000000 ∧ scalarSrc (coreOf s0 0) 32 f32.rb = some 0x3F800000 ∧
    scalarSrc (coreOf s0 0) 32 f32.rc = some 64 ∧ scalarSrc (coreOf s0 0) 64 f64.ra = some (0x40000000 * 2 ^ 32) ∧
    scalarSrc (coreOf s0 0) 64 f64.rb = some (64 * 2 ^ 32 + 0x3F800000) ∧
    scalarSrc (coreOf s0 0) 64 f64.rc = some (0xFFFFFFFE * 2 ^ 32 + 128) ∧
    fcondOf 0 = some .eq ∧ pReg 7 = some 7 ∧
    (tyOf 1 = some .fp32 ∧ tyOfCode 0 = some .fp64 ∧ scalarCvtTy .fp64 = true ∧ scalarCvtTy .fp32 = true ∧
      cvtTy .fp64 .fp32 .ne false (0x40000000 * 2 ^ 32 % 2 ^ tyWidth .fp64) = some (0x40000000, 0)) :=
  ⟨s0_fires, s0_vacant, by decide +kernel⟩

theorem test_fadd : after (exec (.fadd 0 always f32) s0) (fun t => (coreOf t 0).wb = [⟨4, .s 7, 0x40400000⟩]) = true := by
  decide +kernel

/-- 1.0 / 2.0 on the divider. -/
theorem test_fdiv : after (exec (.fdiv 0 always { f32 with ra := 2, rb := 1 }) s0) (fun t =>
    (coreOf t 0).wb = [⟨12, .s 7, 0x3F000000⟩]) = true := by decide +kernel

/-- 2.0 * 1.0 + 2.0. -/
theorem test_ffma : after (exec (.ffma 0 always { f32 with rc := 1 }) s0) (fun t => (coreOf t 0).wb = [⟨4, .s 7, 0x40800000⟩]) =
    true := by decide +kernel

/-- The square root of 4.0, 0x40800000. -/
theorem test_fsqrt : after (exec (.fsqrt 0 always f32) (atCore { k0 with s := k0.s.set 1 0x40800000 })) (fun t =>
    (coreOf t 0).wb = [⟨12, .s 7, 0x40000000⟩]) = true := by decide +kernel

/-- 1.0 / 0 is an infinity and raises the step flag of division by zero. -/
theorem test_fdiv_zero : after (exec (.fdiv 0 always { f32 with ra := 2, rb := 9 }) s0) (fun t =>
    (coreOf t 0).wb = [⟨12, .s 7, 0x7F800000⟩] && decide ((coreOf t 0).fpstat = 8)) = true := by decide +kernel

theorem test_fneg_fabs : after (exec (.fneg 0 always f32) s0) (fun t => (coreOf t 0).wb = [⟨4, .s 7, 0xC0000000⟩]) = true ∧
    after (exec (.fabs 0 always { f32 with ra := 5 }) s0) (fun t => (coreOf t 0).wb = [⟨4, .s 7, 0x7FFFFFFE⟩]) = true := by
  decide +kernel

/-- 2.0 is greater than 1.0; s5 is a NaN, unordered to everything. -/
theorem test_fcmp : after (exec (.fcmp 0 always { f32 with rd := 2, fn := 4 }) s0) (fun t => (coreOf t 0).wb = [⟨4, .p 2, 1⟩]) = true ∧
    after (exec (.fcmp 0 always { f32 with rd := 2, rb := 5, fn := 12 }) s0) (fun t => (coreOf t 0).wb = [⟨4, .p 2, 1⟩]) = true := by
  decide +kernel

/-- 2.0 to INT32 is 2; 64 from INT32 to FP32 is 0x42800000. -/
theorem test_fcvt : after (exec (.fcvt 0 always { f32 with ty := 6, fn := 1 }) s0) (fun t => (coreOf t 0).wb = [⟨4, .s 7, 2⟩]) = true ∧
    after (exec (.fcvt 0 always { f32 with ra := 3, ty := 1, fn := 6 }) s0) (fun t => (coreOf t 0).wb = [⟨4, .s 7, 0x42800000⟩]) =
      true := by decide +kernel

-- Vectors -----------------------------------------------------------------------------------------------------------

def fV : FmtR := { fR with ty := 1, rd := 40, ra := 33, rb := 34, rc := 33 }

/-- VectorFloatingPointRowsWorkByLane: the wide formats, and a narrow one of the rows that take them. -/
theorem witness_VectorFloatingPointRowsWorkByLane :
    (wideFmt 0 = some (fFP64, 64) ∧ wideFmt 1 = some (fFP32, 32) ∧ narrowFmt 5 = some (fE5M2, 8) ∧
      (∃ row ∈ vectorFpRows, row.2.2.2.1 = true) ∧ rmOf (coreOf s0 0) 0 = some .ne ∧ vReg 32 = some 0 ∧ vReg 47 = some 15 ∧
      (vReg fV.rb).map (vGet (coreOf s0 0)) = some (vGet (coreOf s0 0) 2) ∧
      (vReg fV.rc).map (vGet (coreOf s0 0)) = some (vGet (coreOf s0 0) 1)) ∧
    Fires s0 0 always ∧ ∀ n, Vacant s0 0 n := ⟨by decide +kernel, s0_fires, s0_vacant⟩

/-- Lanes 0 and 1 of v1 are 2.0 and 1.0. -/
theorem test_vfadd : after (exec (.vfadd 0 always { fV with rb := 33 }) s0) (fun t =>
    (coreOf t 0).wb = [⟨7, .v 8, 0x4000000040800000⟩]) = true := by decide +kernel

theorem test_vfmul_vffma : after (exec (.vfmul 0 always { fV with rb := 33 }) s0) (fun t =>
    (coreOf t 0).wb = [⟨7, .v 8, 0x3F80000040800000⟩]) = true ∧
    after (exec (.vffma 0 always { fV with rb := 33 }) s0) (fun t => (coreOf t 0).wb = [⟨7, .v 8, 0x4000000040C00000⟩]) = true := by
  decide +kernel

/-- VectorIntegerRowsWorkByLane: the narrowest and the widest lane. -/
theorem witness_VectorIntegerRowsWorkByLane : (intLane 6 = some 32 ∧ intLane 9 = some 4 ∧ vReg 32 = some 0 ∧ vReg 47 = some 15) ∧
    Fires s0 0 always ∧ Vacant s0 0 (nVIU 1) := ⟨by decide +kernel, s0_fires, s0_vacant _⟩

theorem test_vsub_wraps : after (exec (.vsub 0 always { fV with ty := 6, ra := 32 }) s0) (fun t =>
    (coreOf t 0).wb = [⟨2, .v 8, 0xFFFFFFF9⟩]) = true := by decide +kernel

theorem test_vector_int_rows : ∀ row ∈ vectorIntRows, after (exec (row.1 0 always { fV with ty := 6 }) s0) (fun t =>
    (coreOf t 0).wb.map (fun w => w.val % 2 ^ 32) = [row.2 32 0x40000000 7]) = true := by decide +kernel

/-- VectorComparesMovesAndConversionsComplete: clause by clause. -/
theorem witness_VectorComparesMovesAndConversionsComplete :
    (fcondOf 13 = some .totle ∧ anyLane 1 = some 32 ∧ anyLane 0 = some 64 ∧ scalarSrc (coreOf s0 0) 32 1 = some 0x40000000 ∧
      tyOf 1 = some .fp32 ∧ sReg 2 = some 2 ∧ scalarDst 32 7 = some 7 ∧ rxReg 0x32 = some (2 : Fin 8).val ∧ sPair 30 = some 30 ∧
      vrxReg 0x3B = some (3 : Fin 4).val ∧ tyOfCode 2 = some .fp16 ∧ rmOf (coreOf s0 0) 0 = some .ne ∧ tyWidth .fp16 < tyWidth .fp32 ∧
      tyWidth .fp16 ≠ 0 ∧ vPair 46 = some 14 ∧ tyWidth .fp32 ≤ tyWidth .fp64 ∧ vReg 47 = some 15) ∧
    Fires s0 0 always ∧ ∀ n, Vacant s0 0 n := ⟨by decide +kernel, s0_fires, s0_vacant⟩

theorem test_vbcast_vext : after (exec (.vbcast 0 always { fV with ty := 7, ra := 3 }) s0) (fun t =>
    (coreOf t 0).wb.map (fun w => w.val % 2 ^ 16) = [0x4040]) = true ∧
    after (exec (.vext 0 always { fV with rd := 7, rb := 4 }) s0) (fun t => (coreOf t 0).wb = [⟨2, .s 7, 0x40000000⟩]) = true := by
  decide +kernel

theorem test_movrx : after (exec (.movrx 0 always { fV with rd := 8, ra := 0x32 }) s0) (fun t =>
    (coreOf t 0).wb = [⟨1, .s 8, 5⟩, ⟨1, .s 9, 0⟩]) = true ∧
    after (exec (.movrx 0 always { fV with ra := 0x3B }) s0) (fun t => (coreOf t 0).wb = [⟨1, .v 8, 9⟩]) = true := by
  decide +kernel

/-- 2.0 and 1.0 in FP32 are 0x4000 and 0x3C00 in FP16; the upper lanes are zero. -/
theorem test_vcvt_narrow : after (exec (.vcvt 0 always { fV with ty := 2, fn := 1 }) s0) (fun t =>
    (coreOf t 0).wb = [⟨5, .v 8, 0x3C004000⟩]) = true := by decide +kernel

theorem test_vperm_vsel : after (exec (.vperm 0 always { fV with rb := 33, ra := 34 }) s0) (fun t =>
    (coreOf t 0).wb.map (fun w => w.val % 2 ^ 64) = [7 * 2 ^ 32 + 7]) = true ∧
    after (exec (.vsel 0 always { fV with ra := 34, rb := 32, rc := 34 }) s0) (fun t => (coreOf t 0).wb = [⟨2, .v 8, 7⟩]) = true := by
  decide +kernel

-- Blocks ------------------------------------------------------------------------------------------------------------

/-- BlockRowsComplete: elements in a register and MXFP6 in local store, both widths, and EB4 with scale 1.0. -/
theorem witness_BlockRowsComplete :
    (blockWide { fV with fn := 0 } = some (fFP32, 32) ∧ blockWide { fV with fn := 4 } = some (fBF16, 16) ∧
      (mxElem 10).isSome = true ∧ (mxElem 10).map elemWidth ≠ some 6 ∧ (mxElem 12).map elemWidth = some 6 ∧ vPair 46 = some 14 ∧
      sReg 3 = some 3 ∧ (coreOf s0 0).sparseOut = false ∧ (sGet (coreOf s0 0) 3).toNat % 8 = 0 ∧
      (sGet (coreOf s0 0) 3).toNat + 24 ≤ 0xC000 ∧ protectedAt (coreOf s0 0) 64 24 = [] ∧ ungated (coreOf s0 0) 64 24 = [] ∧
      tyOf 16 = some .eb4 ∧ eb4ScaleOk (sGet (coreOf s0 0) 2).toNat = true ∧ eb4ScaleOk (sGet (coreOf s0 0) 1).toNat = true) ∧
    Fires s0 0 always ∧ ∀ n, Vacant s0 0 n := ⟨by decide +kernel, s0_fires, s0_vacant⟩

-- Local store, slivers, mesh, outbox --------------------------------------------------------------------------------

/-- LoadsAndStoresReachTheirBytes: each size, at the last bytes of local store too. -/
theorem witness_LoadsAndStoresReachTheirBytes :
    (memSize 0 = some 4 ∧ memSize 1 = some 8 ∧ memSize 2 = some 64 ∧ sReg 9 = some 9 ∧
      (∀ n ∈ [4, 8, 64], (sGet (coreOf s0 0) 9 + BitVec.ofNat 32 (0xC000 - n)).toNat % n = 0 ∧
        (sGet (coreOf s0 0) 9 + BitVec.ofNat 32 (0xC000 - n)).toNat + n ≤ 0xC000 ∧ ungated (coreOf s0 0) (0xC000 - n) n = [] ∧
        protectedAt (coreOf s0 0) (0xC000 - n) n = []) ∧
      (coreOf s0 0).sparseOut = false ∧ sReg 7 = some 7 ∧ sPair 8 = some 8 ∧ vReg 40 = some 8 ∧
      scalarSrc (coreOf s0 0) 32 1 = some 0x40000000 ∧ scalarSrc (coreOf s0 0) 64 2 = some (64 * 2 ^ 32 + 0x3F800000) ∧
      (vReg 34).map (fun i => (vGet (coreOf s0 0) i).toNat) = some 7) ∧
    Fires s0 0 always ∧ Vacant s0 0 nLSP := ⟨by decide +kernel, s0_fires, s0_vacant _⟩

theorem test_ld : after (exec (.ld 0 always { fI with imm := 4 }) s0) (fun t => (coreOf t 0).wb = [⟨3, .s 7, 0x11223344⟩]) = true := by
  decide +kernel

theorem test_ld_misaligned : after (exec (.ld 0 always { fI with imm := 2 }) s0) (fun t => (coreOf t 0).fault.code = 4) = true := by
  decide +kernel

theorem test_st : after (exec (.st 0 always { fI with rd := 5, imm := 4 }) s0) (fun t =>
    memNat (coreOf t 0).ls 64 8 = 0xFFFFFFFE55667788) = true := by decide +kernel

/-- SliverRowsTakeTheirSlot: the last line of the sliver's program half, a vector register and a line of local store. -/
theorem witness_SliverRowsTakeTheirSlot :
    (sReg 9 = some 9 ∧ (sGet (coreOf s0 0) 9 + 0x5FFFC0#32).toNat % 64 = 0 ∧ (sGet (coreOf s0 0) 9 + 0x5FFFC0#32).toNat < 0x600000 ∧
      vReg 47 = some 15 ∧ sReg 3 = some 3 ∧ (coreOf s0 0).sparseOut = false ∧ (sGet (coreOf s0 0) 3).toNat % 64 = 0 ∧
      (sGet (coreOf s0 0) 3).toNat + 64 ≤ 0xC000 ∧ protectedAt (coreOf s0 0) 64 64 = [] ∧ ungated (coreOf s0 0) 64 64 = [] ∧
      (sGet (coreOf s0 0) 3).toNat % 8 = 0 ∧ (sGet (coreOf s0 0) 3).toNat ≤ 2040) ∧
    Fires s0 0 always ∧ ∀ n, Vacant s0 0 n := ⟨by decide +kernel, s0_fires, s0_vacant⟩

theorem test_sst_from_store : after (exec (.sst 0 always { fI with sz := 1, rd := 3, imm := 64 }) s0) (fun t =>
    (coreOf t 0).slots.map (fun o => (o.off, o.dst, o.data.toNat)) = [(128, none, 0x1122334455667788)]) = true := by decide +kernel

theorem test_sld_unmapped : after (exec (.sld 0 always { fI with sz := 0, rd := 40, ra := 9, imm := 0x600000 }) s0) (fun t =>
    (coreOf t 0).fault.code = 6) = true := by decide +kernel

/-- MeshSendsInjectTheirWords: from the corner of the grid to the east and south. -/
theorem witness_MeshSendsInjectTheirWords :
    (meshInside 0 (meshDx { fI with imm := 0x1003 }) (meshDy { fI with imm := 0x1003 }) = true ∧
      meshInside 0 (meshDx { fI with imm := 0x7FF }) (meshDy { fI with imm := 0x7FF }) = false ∧ sPair 2 = some 2 ∧ vReg 33 = some 1) ∧
    Fires s0 0 always ∧ ∀ n, Vacant s0 0 n := ⟨by decide +kernel, s0_fires, s0_vacant⟩

/-- A SEND descriptor of 8 bytes to a tile, and a load of 8 bytes. -/
def sendDesc : List Byte := bytesLE 32 (1 + (8 <<< 144) + (128 <<< 128))
def kOut : Core := { k0 with ls := memWrite k0.ls 1024 sendDesc }
def sOut : State := atCore kOut

theorem sOut_fires : Fires sOut 0 always := fires_of (by decide +kernel) (by decide +kernel)
theorem sOut_vacant (n : List Need) : Vacant sOut 0 n := by
  have : (coreOf sOut 0).busy = [] := by decide +kernel
  simp [Vacant, needClash, this]

/-- OutpostAndLbarmComplete: a descriptor that passes, and a free buffer armed at the end of local store. -/
theorem witness_OutpostAndLbarmComplete :
    ((sGet (coreOf sOut 0) 9 + 1024#32).toNat % 32 = 0 ∧ (sGet (coreOf sOut 0) 9 + 1024#32).toNat + 32 ≤ 0xC000 ∧
      ungated (coreOf sOut 0) 1024 32 = [] ∧ outboxFaults (coreOf sOut 0) (memRead (coreOf sOut 0).ls 1024 32) = [] ∧
      (coreOf sOut 0).sparseOut = false ∧ sReg 9 = some 9) ∧ Fires sOut 0 always ∧ (∀ n, Vacant sOut 0 n) ∧
    ((sGet (coreOf sOut 0) 4).toNat % 64 = 0 ∧ (sGet (coreOf sOut 0) 3).toNat % 8 = 0 ∧
      (sGet (coreOf sOut 0) 4).toNat + (sGet (coreOf sOut 0) 3).toNat ≤ 0xC000 ∧ (lbGet (coreOf sOut 0) 15).armed = false) :=
  ⟨by decide +kernel, sOut_fires, sOut_vacant, by decide +kernel⟩

theorem test_lbarm_twice : after (exec (.lbarm 0 always { fI with rd := 3, ra := 4, fn := 3 }) s0) (fun t =>
    (coreOf t 0).fault.code = 9) = true := by decide +kernel

-- Streams and accumulators ------------------------------------------------------------------------------------------

/-- The words of a valid course entry with modules (0, 0) and (0, 1), ROOTENG and CORNENG 64, ESPREAD 1. -/
def courseWords : Nat := 5 + 2 <<< 16 + (64 + 64 <<< 8 + 1 <<< 16) <<< 32 + (0x10000 <<< 256)

/-- Entry 3 of a die's course table valid. -/
def withCourse (s : State) (d : Nat) : State := regPutNat s (cteAddr d 3) courseWords 9

/-- Streams 0 and 1 on a line of FP32, the A latch full of ones; descriptors from 2,048 on: a stream's, then those of the five
fused instructions in 64 bytes each. -/
def kM : Core :=
  let st : Stream := ⟨true, 64, 64, .fp32, 0, 0, 0, 0, 0, []⟩
  let d := fun (kind flags wire n kp slsa slen : Nat) =>
    bytesLE 64 (kind + flags <<< 8 + 3 <<< 16 + 1 <<< 24 + 1 <<< 32 + 1 <<< 40 + wire <<< 48 + n <<< 64 + 0 <<< 80 + 1 <<< 88 +
      kp <<< 96 + slsa <<< 160 + slen <<< 176)
  { k0 with
    streams := (k0.streams.set 0 st).set 1 st
    aLatch := some ⟨.fp32, (List.range 16).map (fun _ => (0x3F800000, 0)), 0⟩
    ls := memWrite (memWrite k0.ls 2048 (bytesLE 32 (64 + 64 <<< 16 + 1 <<< 32))) 2112
      (d 3 0 1 16 0 0 0 ++ d 4 0 0 0 0 1024 0 ++ d 5 0 0 0 0 64 64 ++ d 1 1 0 4 4 0 0 ++ d 2 1 1 32 4 0 0) }

def sM : State := withCourse (atCore kM) 0

theorem sM_fires : Fires sM 0 always := fires_of (by decide +kernel) (by decide +kernel)
theorem sM_vacant (n : List Need) : Vacant sM 0 n := by
  have : (coreOf sM 0).busy = [] := by decide +kernel
  simp [Vacant, needClash, this]

/-- StreamRowsComplete, each clause. -/
theorem witness_StreamRowsComplete :
    (sReg 9 = some 9 ∧ (sGet (coreOf sM 0) 9 + 2048#32).toNat % 32 = 0 ∧ (sGet (coreOf sM 0) 9 + 2048#32).toNat + 32 ≤ 0xC000 ∧
      ungated (coreOf sM 0) 2048 32 = [] ∧ streamDescFaults (memRead (coreOf sM 0).ls 2048 32) = [] ∧ (coreOf sM 0).sparseOut = false ∧
      vReg 33 = some 1 ∧ (takeOf (coreOf sM 0) 1 (latchElems ((classOfTy (stream (coreOf sM 0) 1).ty).getD .f64))).1.isSome = true ∧
      (takeOf (coreOf sM 0) 1 (latchElems ((classOfTy (stream (coreOf sM 0) 1).ty).getD .f64))).2 = []) ∧
    Fires sM 0 always ∧ ∀ n, Vacant sM 0 n := ⟨by decide +kernel, sM_fires, sM_vacant⟩

def fM : FmtM := { sr := false, mode := 0, tya := 1, tyb := 1, acc := 3, ent := 63, esel := 3, msb := 1, af := 0, init := true }
def fA : FmtA := { ty := 1, rv := 33, acc := 3, ent := 48, latch := false, af := 0 }

/-- AccumulationRowsComplete: MMA on the last entry with INIT, ACCINIT and DRAIN of one tile and of all, ACCLD and ACCRD of the
last entries. -/
theorem witness_AccumulationRowsComplete :
    (mmaForm (coreOf sM 0) fM = some (.f32, .fp32, .direct, ⟨.fp32, (List.range 16).map (fun _ => (0x3F800000, 0)), 0⟩) ∧
      tyOf fM.tyb = some (stream (coreOf sM 0) 1).ty ∧ (takeOf (coreOf sM 0) 1 (stepElems .f32)).1.isSome = true ∧
      (takeOf (coreOf sM 0) 1 (stepElems .f32)).2 = [] ∧ (coreOf sM 0).sparseOut = false ∧
      accOfCode fA.af.toNat = some .fp32 ∧ fA.acc.toNat < 4 ∧ ({ fA with acc := 4 } : FmtA).acc.toNat ≤ 4 ∧ vReg fA.rv = some 1 ∧
      tyOf fA.ty = some (tyOfAcc .fp32) ∧ fA.ent.toNat + 512 / tyWidth .fp32 ≤ 64) ∧
    Fires sM 0 always ∧ ∀ n, Vacant sM 0 n := ⟨by decide +kernel, sM_fires, sM_vacant⟩

/-- One step of four products fills a group of class F32. -/
theorem test_mma_group : after (exec (.mma 0 always fM) sM) (fun t =>
    (coreOf t 0).mx.map (fun e => e.due) = [6, 6] && decide ((accGet (coreOf t 0) 255).opn = [])) = true := by decide +kernel

theorem test_accrd : after (exec (.accrd 0 always { fA with rv := 32 }) (atCore (accSet k0 240 { AccEntry.reset with sum := 3 })))
    (fun t => (coreOf t 0).wb = [⟨3, .v 0, 3⟩]) = true := by decide +kernel

/-- An ACCLD leaves a DRAIN under way its products (03 R91): here the drained sum 3 reaches the latch after the entry took 5. -/
theorem test_accld_after_drain :
    (let k := loadEntry (drainEntry 1 (accSet k0 5 { AccEntry.reset with ctx := ⟨true, .fp32, .direct, 0, 0⟩, sum := 3 }) 5) 2 5 .fp32 5
     let k := (List.range 7).foldl (fun k n => commitMx ⟨0, 0, 0, 0, 0⟩ n k) (commitMx ⟨0, 0, 0, 0, 0⟩ 7 k)
     ((accGet k 5).sum, (latchGet k 5).val, k.mx.length) = (5, 3, 0)) := by decide +kernel

theorem test_drain_all : after (exec (.drain 0 always { fA with acc := 4 }) s0) (fun t => (coreOf t 0).mx.length = 256) = true := by
  decide +kernel

-- Fused instructions ------------------------------------------------------------------------------------------------

def fX (a : Nat) : FmtX := { ct := 3, ra := 9, imm := BitVec.ofNat 32 a }

/-- The checks of the fused instruction of kind `kind` whose descriptor stands at `a`. -/
def fusedOk (a kind : Nat) (own : Core → CollDesc → Option (Course × Nat) → List Nat) : Bool :=
  decide (fusedFaults (coreOf sM 0) a kind (fusedCourse sM 0 3) (smGet 0 (coreOf sM 0).collOrd 3)
    (own (coreOf sM 0) (collDescOf (memRead (coreOf sM 0).ls a 64))) = [])

/-- FusedRowsPostTheirInstance, each clause. -/
theorem witness_FusedRowsPostTheirInstance :
    (sReg 9 = some 9 ∧ (fusedCourse sM 0 3).isSome = true ∧ (coreOf sM 0).sparseOut = false ∧ fusedOk 2112 3 ownAccAr = true ∧
      fusedOk 2176 4 ownXchV = true ∧ fusedOk 2240 5 ownGthV = true ∧ fusedOk 2304 1 ownMmAg = true ∧
      fusedOk 2368 2 ownMmRs = true) ∧
    Fires sM 0 always ∧ ∀ n, Vacant sM 0 n := ⟨by decide +kernel, sM_fires, sM_vacant⟩

theorem test_accAr : after (exec (.accAr 0 always (fX 2112)) sM) (fun t =>
    (coreOf t 0).outbox.length = 1 && smGet 0 (coreOf t 0).collOrd 3 = 1 && (coreOf t 0).fault.code = 0) = true := by decide +kernel

theorem test_mmAg : after (exec (.mmAg 0 always (fX 2304)) sM) (fun t =>
    decide ((coreOf t 0).seq.map (fun q => q.start) = some 40) && (coreOf t 0).outbox.length = 1) = true := by decide +kernel

theorem test_mmRs : after (exec (.mmRs 0 always (fX 2368)) sM) (fun t =>
    decide ((coreOf t 0).seq.map (fun q => q.start) = some 1) && (coreOf t 0).outbox.length = 0) = true := by decide +kernel

theorem test_no_course : after (exec (.gthV 0 always { fX 2240 with ct := 2 }) sM) (fun t => (coreOf t 0).fault.code = 0x14) = true := by
  decide +kernel

-- The sparse unit ---------------------------------------------------------------------------------------------------

/-- Descriptors from 2,048 on, 64 bytes each: one row of 16 dense FP32 elements; the same compressed; a row to bin; a row to
mask; one pair to merge. -/
def kSp : Core :=
  let ds := bytesLE 64 (1 + 1 <<< 24 + 1 <<< 32 + 1 <<< 64 + 16 <<< 96 + 512 <<< 208) ++
    bytesLE 64 (2 + 2 <<< 8 + 1 <<< 24 + 1 <<< 64 + 16 <<< 96 + 512 <<< 176) ++
    bytesLE 64 (3 + 2 <<< 8 + 1 <<< 64 + 16 <<< 96 + 512 <<< 208) ++
    bytesLE 64 (4 + 1 <<< 64 + 512 <<< 208) ++ bytesLE 64 (1 <<< 32 + 512 <<< 64 + 1 <<< 80)
  { k0 with ls := memWrite k0.ls 2048 ds }
def sSp : State := atCore kSp

theorem sSp_fires : Fires sSp 0 always := fires_of (by decide +kernel) (by decide +kernel)
theorem sSp_vacant (n : List Need) : Vacant sSp 0 n := by
  have : (coreOf sSp 0).busy = [] := by decide +kernel
  simp [Vacant, needClash, this]

/-- SparseRowsStartTheUnit: each row's descriptor passes its checks. -/
theorem witness_SparseRowsStartTheUnit :
    (sReg 9 = some 9 ∧ (∀ a ∈ [2048, 2112, 2176, 2240], a % 64 = 0 ∧ ungated (coreOf sSp 0) a 64 = []) ∧
      (∀ row ∈ sparseRows, row.2.2 (memRead (coreOf sSp 0).ls (1984 + 64 * row.2.1) 64) = []) ∧
      mergeFaults (memRead (coreOf sSp 0).ls 2304 32) = [] ∧ ungated (coreOf sSp 0) 2304 32 = [] ∧ (coreOf sSp 0).sparseOut = false) ∧
    Fires sSp 0 always ∧ ∀ n, Vacant sSp 0 n := ⟨by decide +kernel, sSp_fires, sSp_vacant⟩

theorem test_sparse_rows : ∀ row ∈ sparseRows, after (exec (row.1 0 always { fI with ra := 9, imm := BitVec.ofNat 32 (1984 + 64 * row.2.1) })
    sSp) (fun t => (coreOf t 0).sparseOut && (coreOf t 0).fault.code = 0 && decide ((coreOf t 0).sparse ≠ .idle)) = true := by decide +kernel

theorem test_spmerge : after (exec (.spmerge 0 always { fI with ra := 9, imm := 2304 }) sSp) (fun t =>
    (coreOf t 0).outbox.length = 1 && decide ((coreOf t 0).prot.map (fun p => (p.lo, p.hi)) = [(512, 520)])) = true := by decide +kernel

/-- A run of SPMASK under way since count 1, in a paused plane of power state A1. -/
def sRun : State :=
  let s := regSetBits (atCore { kSp with sparse := .running 4 (memRead kSp.ls 2240 64) 1 20 }) (dcs SP 0x200008) 2 0 1
  { s with plane := { s.plane with run := .paused, held := true } }

/-- SparseRunLeavesItsFindings: the run is before its idle count, and at it. -/
theorem witness_SparseRunLeavesItsFindings :
    (coreOf sRun 0).sparse = .running 4 (memRead kSp.ls 2240 64) 1 20 ∧ clocksRun sRun = true ∧ sRun.plane.halted = none ∧
    (coreOf sRun 0).ecc = Ecc.none ∧ sRun.muted = false ∧ sRun.count < 20 ∧ muteDue sRun 20 = false ∧
    sRun.plane.run = .paused ∧ sRun.plane.held = true ∧ 1 ≤ pwrState sRun ∧
    0 < fieldLE (memRead kSp.ls 2240 64) 8 2 := by decide +kernel

/-- A score of 0 is not below THETA 0: the row is computed. -/
theorem test_spmask : after (exec (.sparseRunDone 0) sRun) (fun t => memNat (coreOf t 0).ls 512 1 = 1) = true := by decide +kernel

-- The plane ---------------------------------------------------------------------------------------------------------

/-- A run armed for count 1,000. -/
def sArmed : State := { s0 with plane := { s0.plane with run := .armed, at_ := 1000 } }
/-- A running plane whose core waits at a gate that buffer 3 does not satisfy: 39 cycles after it, and in force. -/
def kWait (g : Nat) : Core := { k0 with gates := [⟨g, 0, .gate 8, false⟩], lb := smSet LandBuf.reset [] 3 ⟨4096, 64, 0, true, false, false, .plain⟩ }
def sWait : State := { atCore (kWait 0) with plane := { s0.plane with cyc := 39 } }
def sHeld : State := { sWait with plane := { sWait.plane with held := true } }
def sFree : State := { s0 with plane := { s0.plane with held := true } }

theorem witness_PlaneEventsTakeForce :
    (sArmed.plane.run = .armed ∧ clocksRun sArmed = true ∧ startCount sArmed = some 1000 ∧ sArmed.count < 1000 ∧
      muteDue sArmed 1000 = false ∧ sArmed.plane.mesh = [] ∧
      ∀ e ∈ sArmed.cores, e.2.seq = none ∧ e.2.slots = [] ∧ e.2.mx = [] ∧ e.2.ecc = Ecc.none) ∧
    (planeRuns sWait = true ∧ holdDue sWait (sWait.plane.cyc + 1) = true ∧ muteDue sWait (sWait.count + 1) = false ∧
      ∀ e ∈ sWait.cores, e.2.ecc.marks = [] ∧ sparseRuns e.2 = false) ∧
    (takesSamples sHeld = true ∧ muteDue sHeld (nextSample sHeld) = false ∧ sHeld.plane.sample = none ∧
      sHeld.count < nextSample sHeld - 40 ∧
      ∃ e ∈ sHeld.cores, ∃ g ∈ e.2.gates, g.ok = false ∧ gateSat e.2 g = false ∧ sparseRuns e.2 = false) ∧
    (takesSamples sFree = true ∧ muteDue sFree (nextSample sFree) = false ∧ sFree.plane.sample = none ∧
      sFree.count < nextSample sFree - 40 ∧ sFree.plane.run = .running ∧ sFree.plane.stepEnd = none ∧
      governorAt sFree (nextSample sFree) = false ∧ ∀ e ∈ sFree.cores, ∀ g ∈ e.2.gates, g.ok = true) := by decide +kernel

theorem witness_PlaneEventsTakeForce_canonical : Canonical sHeld ∧ Canonical sFree := by
  unfold Canonical; decide +kernel

theorem test_plane_events : after (exec .runStart sArmed) (fun t => t.count = 1000 && decide (t.plane.run = .running)) = true ∧
    after (exec .planeHold sWait) (fun t => t.plane.held && t.plane.cyc = 40 && t.plane.holdAt = 1) = true ∧
    after (exec .releaseSample sHeld) (fun t => t.plane.held && t.count = 128) = true ∧
    after (exec .releaseSample sFree) (fun t => !t.plane.held && t.count = 128) = true := by decide +kernel

/-- A plane at the last count before a governor frame, under full duty. -/
def sGov : State := { regSetBits s0 (dcs SP 0x200008) 10 4 64 with count := 127 }

theorem witness_PlaneEventsTakeForce_governor : planeRuns sGov = true ∧ pwrState sGov = 0 ∧ sGov.count + 1 = 128 * 1 ∧
    governorFrame (holdDuty sGov) 1 = true ∧ muteDue sGov (sGov.count + 1) = false ∧
    (∀ e ∈ sGov.cores, e.2.ecc.marks = []) := by decide +kernel

theorem test_governor_frame : after (exec .governorFrame sGov) (fun t => t.plane.held && t.plane.holdAt = 128) = true := by
  decide +kernel

-- Power, resets -----------------------------------------------------------------------------------------------------

/-- 10 kW, 48 V, 208 A, 60 °C and 50 °C. -/
def m0 : Sensors := ⟨10000, 48000, 208000, 480, 3, 400, 5⟩

theorem witness_GovernorPeriodSetsTheDuty : (Instr.governorPeriod m0).wf = true ∧ soundpostRuns State.reset = true ∧
    (passTo State.reset (periodEnd State.reset)).muted = false ∧ pwrState State.reset = 0 := by decide +kernel

theorem test_governor_period : after (exec (.governorPeriod m0) State.reset) (fun t =>
    regBits t (dcs SP 0x200030) 31 0 = 48000 && regBits t (dcs SP 0x200020) 15 0 = 480 && t.gov.hist = [10000]) = true := by
  decide +kernel

def sTripped : State := regSetBits State.reset (dcs SP 0x200008) 2 0 4
def sOff : State := { State.reset with life := .off }
def sInReset : State := { State.reset with life := .inReset, due := some .cold }
def sDue : State := { State.reset with due := some .warm }

theorem witness_TripsAndPowerComplete : State.reset.life = .up ∧ pwrState State.reset ≠ 4 ∧ State.reset.mute.waiting = [] ∧
    State.reset.exec.draining = none ∧ pwrState sTripped = 4 ∧ sTripped.life = .up ∧ sOff.life = .off := by decide +kernel

theorem test_thermal_trip : after (exec .thermalTrip s0) (fun t => pwrState t = 4 && t.cores = [] && t.gov.trips = 1) = true := by
  decide +kernel

theorem witness_ResetsAndBootComplete : State.reset.life ≠ .off ∧ sInReset.life = .inReset ∧ bootFactory sInReset = none ∧
    sDue.life = .up ∧ sDue.muted = false ∧ sDue.due = some .warm := by decide +kernel

theorem test_boot_halts : after (exec .boot sInReset) (fun t => decide (t.life = .bootHalt) && !t.pins.alarmN) = true := by
  decide +kernel

theorem test_cold_warm : after (exec .coldReset s0) (fun t => decide (t.life = .inReset ∧ t.due = some .cold) && t.cores = []) = true ∧
    after (exec .warmReset s0) (fun t => decide (t.due = some .warm) && t.cores = []) = true := by decide +kernel

-- Links -------------------------------------------------------------------------------------------------------------

/-- A SEND frame of 8 bytes from module (0, 1) to core 7 of tile 5 in this module, buffer 3. -/
def fLocal : Frame :=
  mkFrame { dest := epid 0 0 5 0 7, src := epid 0 1 6 0 3, cls := 0, hop := 0, type := 1, seq := 1, arg := 3, epoch := 0
            payload := bytesLE 8 9 }

/-- A HOST session on mailbox 0; Bridge 64, not enabled, in a link state, and half through a frame. -/
def sHost : State := regSetBits State.reset (dcs SP 0x800) 6 5 1
def sLink (n : Nat) : State := setLinkState (regPut sHost (dcs 64 0x34) 0) 64 n
def sMid : State := modLink (sLink 3) 64 (fun l => { l with sent := [⟨fLocal, 2, 64, 0, false⟩], inBuf := 1 })
def sMuted : State := { State.reset with muted := true }
/-- Bridge 64 in EXCHANGE with a verdict of mismatch to send. -/
def sVerdict : State := modLink (sLink 2) 64 (fun l => { l with verdict := 2, kind := 2 })

def servedB (s : State) (d : Nat) : Bool := decide (s.life = .up) && !s.muted && mmioServed s d false
theorem served_of {s : State} {d : Nat} (h : servedB s d = true) : Served s d := by
  simp only [servedB, Bool.and_eq_true, decide_eq_true_eq, Bool.not_eq_true'] at h
  exact ⟨h.1.1, h.1.2, h.2⟩

theorem works_of {s : State} {d : Nat} (h : (isBridge d && bridgesOn s) = true) : BridgeWorks s d := by
  simp only [Bool.and_eq_true] at h
  exact ⟨h.1, h.2⟩

/-- A group without flits and its control word's low bits `w`, its LCRC off by `e`. -/
def emptyGroup (w e : Nat) : Group := ⟨0, 3, BitVec.ofNat 320 (w + ((groupCrc w []).toNat + e) % 2 ^ 32 * 2 ^ 288), []⟩

theorem emptyGroup_low (w e : Nat) (h : w < 2 ^ 288) : (emptyGroup w e).ctl.toNat % 2 ^ 288 = w := by
  simp only [emptyGroup, BitVec.toNat_ofNat]
  omega

theorem emptyGroup_crc (w e : Nat) (h : w < 2 ^ 288) : (groupCrc (emptyGroup w e).ctl.toNat []) = groupCrc w [] := by
  simp only [groupCrc, emptyGroup_low w e h, Nat.mod_eq_of_lt h]

theorem emptyGroup_lcrc (w e : Nat) (h : w < 2 ^ 288) :
    bitsOf (emptyGroup w e).ctl.toNat 319 288 = ((groupCrc w []).toNat + e) % 2 ^ 32 := by
  have hx := (groupCrc w []).isLt
  simp only [emptyGroup, bitsOf, BitVec.toNat_ofNat, Nat.shiftRight_eq_div_pow]
  omega

/-- LinksMoveAndExchangeGroups: the host's link commands, lock and loss, sending. -/
theorem witness_LinksMoveAndExchangeGroups :
    (isBridge 64 = true ∧ isBridge 99 = true ∧ regBits (sLink 0) (dcs 64 0x34) 0 0 = 0 ∧ linkState (sLink 0) 64 ≠ lsUP ∧
      linkState sMid 64 = lsUP ∧ atBoundary (bridge sMid 64).link = false ∧ regNat (sLink 0) (dcs 64 0x18) 2 ≠ (5#64).toNat ∧
      bridgesOn (sLink 1) = true ∧ linkState (sLink 1) 64 = lsTRAINING ∧ bridgesOn (sLink 2) = true ∧
      linkState (sLink 2) 64 = lsEXCHANGE ∧ (bridge (sLink 2) 64).link.kind ≤ 3 ∧ (bridge (sLink 2) 64).link.verdict ≤ 1 ∧
      bridgesOn sMid = true ∧ (bridge sMid 64).link.downAsked = false ∧ (bridge sMid 64).link.ret.length = 12 ∧
      linkState (sLink 3) 64 = lsUP ∧ atBoundary (bridge (sLink 3) 64).link = true ∧ regBits (sLink 3) (dcs 64 0x34) 0 0 = 0 ∧
      bridgesOn sVerdict = true ∧ linkState sVerdict 64 = lsEXCHANGE ∧ (bridge sVerdict 64).link.verdict = 2 ∧
      (bridge sVerdict 64).link.kind ≠ 1) ∧
    Served (sLink 0) 64 ∧ Served sMid 64 ∧ Served (sLink 3) 64 :=
  ⟨by decide +kernel, served_of (by decide +kernel), served_of (by decide +kernel), served_of (by decide +kernel)⟩

/-- LinksMoveAndExchangeGroups: a group whose LCRC is off by one, one that is good and returns a credit of lane 11, and one that
meets a muted Bridge. -/
theorem witness_LinksMoveAndExchangeGroups_receive :
    (bridgesOn (sLink 3) = true ∧ linkState (sLink 3) 64 = lsUP ∧ (bridge (sLink 3) 64).link.awaiting = false ∧
      (bridge (sLink 3) 64).link.rxRounds < 15 ∧ (bridge (sLink 3) 64).link.credits.length = 12 ∧ sMuted.life = .up ∧
      sMuted.muted = true) ∧
    (let g := emptyGroup (1399241092778898961761396385759430885507072) 1
     (Instr.linkGroupReceive 64 g).wf = true ∧ g.uncorrectable = false ∧
       bitsOf g.ctl.toNat 319 288 ≠ (groupCrc g.ctl.toNat g.slots).toNat) ∧
    (let g := emptyGroup (1399241092778898961761396385759430885507072) 0
     (Instr.linkGroupReceive 64 g).wf = true ∧ g.uncorrectable = false ∧ g.slots = [] ∧
       bitsOf g.ctl.toNat 319 288 = (groupCrc g.ctl.toNat g.slots).toNat ∧
       BitVec.ofNat 16 g.ctl.toNat = (bridge (sLink 3) 64).link.expect ∧
       g.ctl.toNat / 2 ^ 32 % 16 = (bridge (sLink 3) 64).link.actedRnum ∧
       (BitVec.ofNat 16 (g.ctl.toNat / 2 ^ 16) - (bridge (sLink 3) 64).link.seqBase).toNat ≤ (bridge (sLink 3) 64).link.inBuf) := by
  have hw : 1399241092778898961761396385759430885507072 < 2 ^ 288 := by decide +kernel
  have l := fun e => emptyGroup_low (1399241092778898961761396385759430885507072) e hw
  have c := fun e => emptyGroup_crc (1399241092778898961761396385759430885507072) e hw
  have x := fun e => emptyGroup_lcrc (1399241092778898961761396385759430885507072) e hw
  have hx := (groupCrc (1399241092778898961761396385759430885507072) []).isLt
  have wf : ∀ e, (Instr.linkGroupReceive 64 (emptyGroup (1399241092778898961761396385759430885507072) e)).wf = true := by
    intro e
    have h0 := l e
    have hh : (emptyGroup 1399241092778898961761396385759430885507072 e).ctl.toNat / 68719476736 % 256 = 0 := by omega
    have hs : (emptyGroup 1399241092778898961761396385759430885507072 e).slots = [] := rfl
    have hf : (emptyGroup 1399241092778898961761396385759430885507072 e).lost = 0 := rfl
    have hg : (emptyGroup 1399241092778898961761396385759430885507072 e).fixed = 3 := rfl
    simp [Instr.wf, groupOk, bridgeOk, Nat.shiftRight_eq_div_pow, hh, hs, hf, hg]
  have e1 : (bridge (sLink 3) 64).link.expect = 0 ∧ (bridge (sLink 3) 64).link.actedRnum = 0 ∧
    (bridge (sLink 3) 64).link.seqBase = 0 ∧ (bridge (sLink 3) 64).link.inBuf = 0 := by decide +kernel
  refine ⟨by decide +kernel, ⟨wf 1, rfl, ?_⟩, wf 0, rfl, rfl, ?_, ?_, ?_, ?_⟩
  · rw [x 1]
    show _ ≠ (groupCrc (emptyGroup _ 1).ctl.toNat []).toNat
    rw [c 1]; omega
  · rw [x 0]
    show _ = (groupCrc (emptyGroup _ 0).ctl.toNat []).toNat
    rw [c 0]; omega
  · have := l 0
    rw [e1.1]; apply BitVec.eq_of_toNat_eq; rw [BitVec.toNat_ofNat]; show _ = 0; omega
  · have := l 0
    rw [e1.2.1]; omega
  · have := l 0
    rw [e1.2.2.1, e1.2.2.2]
    have : BitVec.ofNat 16 ((emptyGroup (1399241092778898961761396385759430885507072) 0).ctl.toNat / 2 ^ 16) = 0 := by
      apply BitVec.eq_of_toNat_eq; rw [BitVec.toNat_ofNat]; show _ = 0; omega
    rw [this]; decide

theorem test_link_enable : after (exec (.linkEnable 64) (regPutNat (regPutNat (sLink 0) (dcs 64 0) 0x100 1) (dcs 64 0x10) 0x10001 1))
    (fun t => linkState t 64 = lsTRAINING) = true := by decide +kernel

/-- A verdict of mismatch already sent leads to MISMATCH. -/
theorem test_link_mismatch : after (exec (.linkGroupSend 64) sVerdict) (fun t => linkState t 64 = lsMISMATCH) = true := by
  decide +kernel

theorem test_link_disable_waits : after (exec (.linkDisable 64) sMid) (fun t => linkState t 64 = lsUP && (bridge t 64).link.downAsked) =
    true := by decide +kernel

-- The switch --------------------------------------------------------------------------------------------------------

/-- The first copy a route gives, and a frame whose header check fails. -/
def firstCopy (r : Routed) : Copy := match r with | .copies (c :: _) => c | _ => ⟨0, 0, ⟨0, [], 0⟩⟩
def fBad : Frame := { fLocal with hdr := fLocal.hdr ^^^ 1 }

/-- A frame in the receive space of Bridge 64's LINK port; with a failing check; with no buffer free and spill off; waiting checked. -/
def sRx : State := arrive State.reset 64 .link fLocal
def sRxBad : State := arrive State.reset 64 .link fBad
def noBuffers (s : State) : State := regPutNat s (dcs 64 0x108) 0 2
def sRxFull : State := modBridge (noBuffers sRx) 64 (fun b => { b with spillOn := false })
def eRx (s : State) : RxEntry := ((bridge s 64).recv.head?).getD ⟨.link, 0, 0, fLocal, false, false, [], 0, false, false, false, false, none, none⟩
def cRx : Copy := firstCopy (routeVia sRx 64 (eRx sRx) fLocal)
def sRxWait : State := modBridge sRx 64 (fun b => { b with recv := b.recv.map (fun e => { e with checked := true, copies := [cRx] }) })

/-- The frame is an answer with a buffer of pool 3 reserved for it. -/
def sRxBuf : State := modBridge sRx 64 (fun b => { b with recv := b.recv.map (fun e => { e with buf := some 3 }) })

/-- The state a command leads to. -/
def nextOf (i : Instr) (s : State) : State := match exec i s with | .next t => t | _ => s

/-- FrameAdmissionPlacesOrDiscards, each clause, on lanes 0 and 11. -/
theorem witness_FrameAdmissionPlacesOrDiscards :
    (isBridge 64 && bridgesOn sRx) = true ∧ sRx.errs = Errs.none ∧ laneHead sRx 64 .localPort 11 = none ∧
    laneHead sRxBad 64 .link 0 = some (eRx sRxBad) ∧
    (eRx sRxBad).checked = false ∧ hcrcOf fBad ≠ fHcrc fBad ∧ laneHead sRx 64 .link 0 = some (eRx sRx) ∧
    (hcrcOf fLocal = fHcrc fLocal ∧ formatOk fLocal = true ∧ fEpoch fLocal = epochOf sRx 64 ∧ fcrcOf fLocal = fLocal.crc) ∧
    (eRx sRx).spilling = 0 ∧ (eRx sRx).buf = none ∧ routeVia sRx 64 (eRx sRx) fLocal = .copies [cRx] ∧
    (laneHead sRxBuf 64 .link 0 = some (eRx sRxBuf) ∧ (eRx sRxBuf).checked = false ∧ (eRx sRxBuf).spilling = 0 ∧
      (eRx sRxBuf).buf = some 3 ∧ routeVia sRxBuf 64 (eRx sRxBuf) fLocal = .copies [cRx] ∧ (bridge sRxBuf 64).spilling = [] ∧
      (voq sRxBuf 64 (voqNo .link cRx.out cRx.vl)).spill = []) ∧
    (let q := voqNo .link cRx.out cRx.vl
     ((voq sRx 64 q).spill = [] ∧ (bridge sRx 64).spilling = [] ∧ underThreshold sRx 64 0 (voqBytes (voq sRx 64 q)) = true ∧
       fittingPool sRx 64 cRx.frame.payload.length = some 0) ∧
     (laneHead sRxFull 64 .link 0 = some (eRx sRxFull) ∧ routeVia sRxFull 64 (eRx sRxFull) fLocal = .copies [cRx] ∧
       (bridge sRxFull 64).spillOn = false ∧ underThreshold sRxFull 64 0 (voqBytes (voq sRxFull 64 q)) = false) ∧
     ((bridge sRxWait 64).recv.filter (fun e => e.checked && !e.copies.isEmpty && !e.sel && isLaneHead sRxWait 64 e) = [eRx sRxWait] ∧
       (eRx sRxWait).copies = [cRx] ∧ underThreshold sRxWait 64 0 (voqBytes (voq sRxWait 64 q)) = true)) := by decide +kernel

theorem test_frame_admit : after (exec (.frameAdmit 64 .link 0) sRx) (fun t =>
    (bridge t 64).recv = [] && (voq t 64 432).sram.map (fun h => h.pool) = [0] && poolFree t 64 0 = 16383) = true ∧
    after (exec (.frameAdmit 64 .link 0) sRxBad) (fun t => (bridge t 64).recv = [] && (bridge t 64).voqs = []) = true ∧
    after (exec (.frameAdmitRetry 64) sRxWait) (fun t => (voq t 64 432).sram.length = 1) = true := by decide +kernel

/-- The frame goes to spill, its write ends, and buffers are free again; then Bridge 64's link has a frame in flight, or four. -/
def sSpill : State := nextOf (.frameAdmit 64 .link 0) (noBuffers sRx)
def sSpilled : State :=
  let s := regPutNat (nextOf (.spillAdmit 64) sSpill) (dcs 64 0x108) 16384 2
  let c := 16384 * homeTile (spillAddr 64 0) + homeLc (spillAddr 64 0)
  nextOf (.serviceSlot c) (nextOf (.serviceSlot c) { s with count := 128 })
/-- The line is asked for, and has been read. -/
def sReading : State := nextOf (.refill 64 432) sSpilled
def sReadBack : State := nextOf (.serviceSlot (16384 * homeTile (spillAddr 64 0) + homeLc (spillAddr 64 0))) sReading
def sFlight (n : Nat) : State :=
  let s := setVoq (setLinkState State.reset 64 3) 64 0 { Voq.reset with sram := [⟨fLocal, 0, true, false, false⟩] }
  setSched s 64 0 { Sched.reset with flight := List.replicate n ⟨64, 0, none, 2, none, []⟩ }
/-- Frames for tile group 36 and for link 0 wait; the link is up with 100 credits a lane. -/
def sReady : State :=
  let s := modLink (setLinkState sRx 64 3) 64 (fun l => { l with credits := List.replicate 12 100 })
  setVoq (nextOf (.frameAdmit 64 .link 0) s) 64 (voqNo .localPort 0 0) { Voq.reset with sram := [⟨fLocal, 0, false, false, false⟩] }
def unshaped (s : State) : State := modBridge s 64 (fun b => { b with shapers := b.shapers.map (fun x => { x with en := false }) })

theorem witness_SpillsRefillsAndSelection :
    (isBridge 64 && bridgesOn sSpill) = true ∧
    (∃ x, (bridge sSpill 64).spilling = [x] ∧ (bridge sSpill 64).recv.find? (fun e => e.num = x.rx) = some (eRx sSpill)) ∧
    (eRx sSpill).spilling ≤ 1 ∧ (eRx sSpill).copies = [] ∧ (eRx sSpill).buf = none := by
  refine ⟨by decide +kernel, ⟨((bridge sSpill 64).spilling.head?).getD ⟨0, fLocal, [], 0, false, false⟩, by decide +kernel, by decide +kernel⟩,
    by decide +kernel⟩

theorem witness_SpillsRefillsAndSelection_refill :
    (bridge sSpilled 64).spilling = [] ∧ (voq sSpilled 64 432).sram = [] ∧
    (voq sSpilled 64 432).spill = [⟨[0], none, false, false⟩] ∧ (voq sSpilled 64 432).reading = none ∧
    linesServed sSpilled 64 [0] = true ∧ refillPool sSpilled 64 (spilledFrame sSpilled 64 [0]).payload.length = some 0 ∧
    ((voq sReadBack 64 432).sram = [] ∧ (voq sReadBack 64 432).spill = [⟨[0], none, false, false⟩] ∧
      (voq sReadBack 64 432).reading = some 0 ∧ linesServed sReadBack 64 [0] = true ∧
      hcrcOf (spilledFrame sReadBack 64 [0]) = fHcrc (spilledFrame sReadBack 64 [0]) ∧
      fcrcOf (spilledFrame sReadBack 64 [0]) = (spilledFrame sReadBack 64 [0]).crc) ∧
    (sFlight 1).errs = Errs.none ∧ (sched (sFlight 1) 64 0).flight = [⟨64, 0, none, 2, none, []⟩] ∧ (voq (sFlight 1) 64 0).sram = [⟨fLocal, 0, true, false, false⟩] ∧
    poolFree (sFlight 1) 64 0 + 1 < 2 ^ ((poolField 0).2.1 + 1 - (poolField 0).2.2) ∧ schedHere 64 74 = true ∧
    (sched (sFlight 1) 64 74).flight = [] := by decide +kernel

theorem witness_SpillsRefillsAndSelection_select :
    (∀ c < 4, cands sReady 64 37 c = []) ∧ (∀ i ∈ (sched sReady 64 37).flight, i.hops = []) ∧
    (∃ c < 4, (cands sReady 64 36 c).any (eligible sReady 64 36) = true) ∧ 4 ≤ (sched (sFlight 4) 64 0).flight.length ∧
    (sched (unshaped sReady) 64 0).flight.length < 4 ∧ (∀ c < 4, (shaperOf (bridge (unshaped sReady) 64).shapers c).en = false) ∧
    (∃ c < 4, (cands (unshaped sReady) 64 0 c).any (eligible (unshaped sReady) 64 0) = true) := by decide +kernel

theorem test_spill_and_refill : after (exec (.refill 64 432) sReadBack) (fun t =>
    (voq t 64 432).sram.map (fun h => h.frame) = [fLocal] && (bridge t 64).lines = []) = true := by decide +kernel

theorem test_select_and_depart : after (exec (.egressSelect 64 36) sReady) (fun t => (sched t 64 36).flight.length = 1) = true ∧
    after (exec (.egressSelect 64 0) (unshaped sReady)) (fun t =>
      (sched t 64 0).flight.length = 1 && (bridge t 64).link.credits.head? = some 99) = true ∧
    after (exec (.frameDepart 64 0) (sFlight 1)) (fun t => (bridge t 64).link.sent.length = 1 && (sched t 64 0).flight = []) = true := by
  decide +kernel

-- The tile agent ----------------------------------------------------------------------------------------------------

/-- The SEND descriptor in the outbox; a load of 8 bytes from core 1's sliver in tile 0; the class of requests held back. -/
def loadDesc : List Byte := bytesLE 32 (2 + 3 <<< 8 + 2 ^ 23 <<< 64 + 8 <<< 144 + 512 <<< 160)
def sSend : State := atCore { k0 with outbox := [⟨0, .desc sendDesc⟩] }
def sLoad : State := atCore { k0 with outbox := [⟨0, .desc loadDesc⟩], capo := 1 }
def holdBack (s : State) (k : Nat) : State := setInj s 0 k [(true, fLocal)]
def reqFull : State := modTile sLoad 0 (fun x => { x with req := List.replicate 256 ⟨0, 0, 0, 255, 0, 0⟩ })
def unpoliced (s : State) : State := modTile s 0 (fun x => { x with pol := x.pol.map (fun y => { y with en := false }) })

theorem witness_TokensOutboxAndPolicersComplete :
    Shaper.reset.cbs < 2 ^ 24 ∧ Shaper.reset.pbs < 2 ^ 24 ∧ clocksRun s0 = true ∧ (coreOf s0 0).outbox = [] ∧
    (coreOf sSend 0).outbox = [⟨0, .desc sendDesc⟩] ∧ fieldLE sendDesc 0 1 = 1 ∧
    classHeld sSend (tileOf 0) (fieldLE sendDesc 2 1 % 4) = false ∧ classHeld (holdBack sSend 0) (tileOf 0) (fieldLE sendDesc 2 1 % 4) =
      true ∧ (coreOf sLoad 0).outbox = [⟨0, .desc loadDesc⟩] ∧ fieldLE loadDesc 0 1 ≠ 1 ∧
    (let s := unpoliced sLoad
     classHeld s 0 0 = false ∧ reqRoom (tile s 0) 0 = true ∧ (shaperOf (tile s 0).pol 0).en = false ∧ (tile s 0).inj ≠ [] ∧
       (match routeFrame s 0 .localPort (mfFrame s 0 0 loadDesc).2 with | .copies _ => true | _ => false) = true) ∧
    reqRoom (tile reqFull 0) 0 = false ∧ (∀ k < 4, k < (tile (unpoliced s0) 0).inj.length) ∧ (∀ k < 4, injQ s0 0 k = []) ∧
    (coreOf sLoad 0).ecc.marks = [] := by
  decide +kernel

theorem witness_shapers : ({ Shaper.reset with en := true } : Shaper).en = true := rfl

theorem test_outbox_drain : after (exec (.outboxDrain 0) (unpoliced sLoad)) (fun t =>
    (coreOf t 0).outbox = [] && (coreOf t 0).mfSeq = 1 && (tile t 0).req = [⟨0, 0, 0, 3, 512, 8⟩]) = true := by decide +kernel

/-- Frames on FRM-IN of tile 0: a SEND for armed buffer 3, one for buffer 4, which is not armed, and answers to a request. -/
def frameIn (ty arg aop : Nat) (last : Bool) (p : List Byte) : Frame :=
  mkFrame { dest := epid 0 0 0 0 0, src := epid 0 1 6 0 3, cls := if 5 ≤ ty ∧ ty ≤ 7 then 1 else 0, hop := 0, type := ty, last := last
            seq := 0, arg := arg, aop := aop, epoch := 0, payload := p }
def kLand : Core := { k0 with lb := smSet LandBuf.reset [] 3 ⟨4096, 64, 8, true, false, false, .plain⟩, capo := 1 }
def sIn (f : Frame) : State :=
  modTile (atCore kLand) 0 (fun x => { x with frmIn := [f], req := [⟨5, 0, 0, 3, 4104, 8⟩] })
def fSend : Frame := frameIn 1 3 0 false (bytesLE 8 7)
def fOver : Frame := frameIn 1 (3 + 60 <<< 4) 0 false (bytesLE 8 7)

theorem witness_FramesAndAnswersLand :
    (clocksRun (sIn fSend) = true ∧ frmHead (tile (sIn fSend) 0) 1 = some fSend ∧
      (lbGet (coreOf (sIn fSend) (destCore fSend)) 3).armed = true ∧ (tile (sIn fSend) 0).streams = [] ∧ fLast fSend = false ∧
      4096 + fSend.payload.length ≤ 4096 + 64 ∧ 8 + fSend.payload.length ≤ 64 ∧ fOver.payload ≠ [] ∧
      4096 + 64 < 4096 + bitsOf (fArg fOver) 19 4 + fOver.payload.length) ∧
    (let f := frameIn 1 4 0 false (bytesLE 8 7)
     frmHead (tile (sIn f) 0) 1 = some f ∧ (lbGet (coreOf (sIn f) (destCore f)) (fArg f % 16)).armed = false) ∧
    (let f := frameIn 6 0 0 false []
     frmHead (tile (sIn f) 0) 6 = some f ∧ tileOf (destCore f) = 0 ∧
       reqEntry (tile (sIn f) 0) (lcOf (destCore f)) (fSeq f).toNat = some ⟨5, 0, 0, 3, 4104, 8⟩) ∧
    (let f := frameIn 5 0 0 false (bytesLE 8 7)
     frmHead (tile (sIn f) 0) 5 = some f ∧ reqEntry (tile (sIn f) 0) (lcOf (destCore f)) (fSeq f).toNat = some ⟨5, 0, 0, 3, 4104, 8⟩ ∧
       landRefused (lbGet (coreOf (sIn f) 0) 3) 4104 8 = false) ∧
    (let f := frameIn 7 0 2 false []
     let s := modTile (sIn f) 0 (fun x => { x with req := [⟨5, 0, 0, 255, 4104, 8⟩] })
     frmHead (tile s 0) 7 = some f ∧ reqEntry (tile s 0) (lcOf (destCore f)) (fSeq f).toNat = some ⟨5, 0, 0, 255, 4104, 8⟩ ∧
       fAop f = 2) ∧
    (∀ ty ∈ [5, 6, 7], frmHead (tile s0 0) ty = none) := by decide +kernel

theorem test_frame_land : after (exec (.frameLand 0) (sIn fSend)) (fun t =>
    memNat (coreOf t 0).ls 4096 8 = 7 && (lbGet (coreOf t 0) 3).count = 16) = true ∧
    after (exec (.frameLand 0) (sIn fOver)) (fun t => (lbGet (coreOf t 0) 3).overfill && memNat (coreOf t 0).ls 5056 8 = 0) = true := by
  decide +kernel

theorem test_answers : after (exec (.mfData 0) (sIn (frameIn 5 0 0 false (bytesLE 8 7)))) (fun t =>
    memNat (coreOf t 0).ls 4104 8 = 7 && (coreOf t 0).capo = 0 && (tile t 0).req = []) = true ∧
    after (exec (.nak 0) (sIn (frameIn 7 0 3 false []))) (fun t => (coreOf t 0).naks = [(5, 5)] && (coreOf t 0).capo = 0) = true := by
  decide +kernel

-- The memory fabric -------------------------------------------------------------------------------------------------

/-- A region from 0 to 2^40 that key 7 may read, write and use atomically; requests at tile 0 with this key and another. -/
def sRegion : State := regPutNat State.reset (dcs 0 0x8000) (1 + 1 <<< 1 + 1 <<< 2 + 1 <<< 3 + 1 <<< 4 + 7 <<< 8 + (2 ^ 34 - 1) <<< 134) 8
def request (ty key aop : Nat) (p : List Byte) : Frame :=
  mkFrame { dest := epid 0 0 0 1 0, src := epid 0 0 1 0 3, cls := 0, hop := 0, type := ty, seq := 9, arg := 2 ^ 23 + 64, key := key
            aop := aop, epoch := 0, payload := p }
def sHome (f : Frame) : State := modTile sRegion 0 (fun x => { x with svcIn := [(f, 64, 3)] })

theorem witness_HomeTakesOrRefusesRequests :
    clocksRun sRegion = true ∧ sRegion.dir = [] ∧ sRegion.errs = Errs.none ∧
    (∀ f ∈ [request 2 7 1 [], request 3 7 0 (bytesLE 8 5), request 4 7 0x30 (bytesLE 8 5)],
      (tile (sHome f) 0).svcIn = [(f, 64, 3)] ∧ (fSrc f, fSeq f) ∉ (tile (sHome f) 0).filter ∧ homeRefuses (sHome f) 0 f = none) ∧
    homeRefuses (sHome (request 2 8 1 [])) 0 (request 2 8 1 []) = some 2 := by decide +kernel

/-- A request at core 1's port, at a count outside the refresh frames of tile 0. -/
def sPort (op : SvcOp) (f : Frame) : State :=
  { setPort State.reset 0 1 [⟨64, op, .fabric f 64 5, 0, [], false, false⟩] with count := 128 }

theorem witness_ServiceSlotServesOneLine :
    (∀ x ∈ [(SvcOp.read 8, request 2 7 1 []), (.write (bytesLE 8 5), request 3 7 0 (bytesLE 8 5))],
      portPick (sPort x.1 x.2) (tileOf 1) (lcOf 1) = some ⟨64, x.1, .fabric x.2 64 5, 0, [], false, false⟩ ∧
        clocksRun (sPort x.1 x.2) = true ∧ (sPort x.1 x.2).dir = [] ∧ (sPort x.1 x.2).errs = Errs.none ∧
        refreshFrame (sPort x.1 x.2) (tileOf 1) (sPort x.1 x.2).count = false) ∧ (linesOf 64 8).length = 1 ∧
    portPick State.reset 0 1 = none ∧ refreshFrame State.reset 0 0 = true := by decide +kernel

theorem test_service_slot : after (exec (.serviceSlot 1) (sPort (.write (bytesLE 8 5)) (request 3 7 0 (bytesLE 8 5)))) (fun t =>
    memNat t.dram (dpaOf 1 64) 8 = 5 && (bridge t 64).recv.map (fun e => fType e.frame) = [6] && port t 0 1 = []) = true := by
  decide +kernel

theorem witness_AtomicsUpdateTheirBytes : ∀ aop ∈ [0x30, 0x29, 0x2A, 0x2B, 0], ∀ data ∈ [bytesLE 16 5],
    portPick (sPort (.atomic aop data) (request 4 7 aop data)) (tileOf 1) (lcOf 1) =
      some ⟨64, .atomic aop data, .fabric (request 4 7 aop data) 64 5, 0, [], false, false⟩ := by decide +kernel

theorem test_atomics : ∀ row ∈ atomicRows, ∀ aop ∈ [0x30 + row.2.1],
    after (exec (row.1 1) (let s := sPort (.atomic aop (bytesLE 16 5)) (request 4 7 aop (bytesLE 16 5))
      { s with dram := memWrite [] (dpaOf 1 64) (bytesLE 8 3) })) (fun t =>
        memNat t.dram (dpaOf 1 64) 8 = row.2.2 64 3 5 0 &&
          (bridge t 64).recv.map (fun e => e.frame.payload) = [bytesLE 8 3]) = true := by decide +kernel

-- Collectives -------------------------------------------------------------------------------------------------------

/-- A collective frame of course 3, as checked at its arrival (its check codes play no part any more), to core 0 of this module or to
the engine of Bridge 64: type, HOP, MCAST, LAST, NLB, subheader,
data. -/
def collFrame (ty : Nat) (toEngine mc last : Bool) (nlb : Nat) (u : Sub) (data : List Byte) : Frame :=
  let dest := if toEngine then epid 0 0 64 2 0 else epid 0 0 0 0 0
  let pay := subBytes u ++ data
  let h := dest.toNat + (epid 0 1 64 2 0).toNat <<< 32 + 2 <<< 64 + 2 <<< 66 + last.toNat <<< 68 + mc.toNat <<< 69 + ty <<< 72 +
    pay.length <<< 80 + (if last then 2 ^ 16 else 0) <<< 96 + (collArg 0 3 3 nlb 0) <<< 128
  ⟨BitVec.ofNat 256 h, pay, 0⟩

/-- The course, the post of an ACC.AR of 16 FP32 elements, and a subheader of two of them from rank 1. -/
def e3 : Course := courseAt sM 0 3
def arPost : CollPost := ⟨3, 3, 0, 3, 0, 1, 1, 0, false, 16, 4, 0, [], []⟩
def u1 : Sub := { cid := 5, p := 2, wire := 1, lo := 1, elems := 2, cbytes := 64, nchunk := 1 }
def kColl : Core := { kLand with fused := [arPost], lb := smSet LandBuf.reset [] 3 ⟨4096, 64, 0, true, false, false, .plain⟩ }
def xr : XchRecv := ⟨0, 3, 0, 3, [none, none], []⟩
def xs : XchSend := ⟨0, 3, 0, 1, arPost, []⟩
def sColl (f : Frame) : State :=
  modTile (withCourse (atCore kColl) 0) 0 (fun x => { x with frmIn := [f], xrecv := [xr], xsend := [xs] })
def deliversB (f : Frame) (ty : Nat) : Bool :=
  let s := sColl f
  decide (s.errs = Errs.none) && decide (frmHead (tile s 0) ty = some f) && decide (frameCourse s 0 f = some e3) && decide (argStep (fArg f) = stepLow s 0) &&
    !collWaits s 0 e3 f && decide ((tile s 0).streams.find? (isRow f) = none) && decide ((tile s 0).streams.length < 8192) &&
    !fLast f && (injQ s 0 2).all (fun x => !isMfReq (fType x.2))

theorem delivers_of {f : Frame} {ty : Nat} (h : deliversB f ty = true) : deliversNow (sColl f) 0 ty f e3 := by
  simpa only [deliversB, deliversNow, Bool.and_eq_true, decide_eq_true_eq, Bool.not_eq_true', List.all_eq_true, and_assoc] using h

def fDown : Frame := collFrame 0x11 false false false 0 u1 (bytesLE 8 9)
def fPiece : Frame := collFrame 0x12 false false false 1 { u1 with elems := 8, cbytes := 64 } (bytesLE 8 9)
def fCount : Frame := collFrame 0x13 false false false 0 u1 (bytesLE 8 24)
def fBase : Frame := collFrame 0x14 false false false 0 u1 (bytesLE 8 (2 ^ 32))
/-- A result frame whose instruction has not issued waits. -/
def fWaits : Frame := collFrame 0x11 false false false 0 { u1 with seq := 1 } (bytesLE 8 9)

theorem witness_CollectiveFramesLandAndRelay :
    (clocksRun (sColl fDown) = true ∧ postOf (coreOf (sColl fDown) (destCore fDown)) fDown = some arPost ∧
      rankOf e3 (selfAt (sColl fDown) 0) = some 0 ∧ firstElem e3 0 arPost ≤ (fSub fDown).eoff ∧
      landRefused (lbGet (coreOf (sColl fDown) 0) 3) 4096 8 = false ∧ pieceAt (sColl fPiece) 0 e3 fPiece = some (3, 0) ∧
      countBuf (coreOf (sColl fCount) 0) fCount = some 3 ∧ xchRow (tile (sColl fCount) 0) fCount = some xr ∧
      (fSub fCount).lo = 1 ∧ xr.counts[1]? = some none ∧ xr.counts[0]? = some none ∧
      landRefused (lbGet (coreOf (sColl fCount) 0) 3) 4100 4 = false ∧
      (tile (sColl fBase) 0).xsend.find? (fun y => y.lc = 0 && y.ct = 3 && y.seq = 0 && y.rank = 1) = some xs ∧
      frmHead (tile (sColl fWaits) 0) 0x11 = some fWaits ∧ frameCourse (sColl fWaits) 0 fWaits = some e3 ∧
      argStep (fArg fWaits) = stepLow (sColl fWaits) 0 ∧ collWaits (sColl fWaits) 0 e3 fWaits = true) ∧
    deliversNow (sColl fDown) 0 0x11 fDown e3 ∧ deliversNow (sColl fPiece) 0 0x12 fPiece e3 ∧
    deliversNow (sColl fCount) 0 0x13 fCount e3 ∧ deliversNow (sColl fBase) 0 0x14 fBase e3 :=
  ⟨by decide +kernel, delivers_of (by decide +kernel), delivers_of (by decide +kernel), delivers_of (by decide +kernel),
   delivers_of (by decide +kernel)⟩

theorem test_collective_frames : after (exec (.sdown 0) (sColl fDown)) (fun t => memNat (coreOf t 0).ls 4096 8 = 9) = true ∧
    after (exec (.cpiece 0) (sColl fPiece)) (fun t => memNat (coreOf t 0).ls 4096 8 = 9) = true ∧
    after (exec (.ccount 0) (sColl fCount)) (fun t => memNat (coreOf t 0).ls 4100 4 = 24 && (lbGet (coreOf t 0) 3).count = 4) = true ∧
    after (exec (.cbase 0) (sColl fBase)) (fun t => (tile t 0).xsend = []) = true := by decide +kernel

/-- A frame waits at the engine of Bridge 64, whose copy of the course is the tile's. -/
def sEng (f : Frame) : State := modEng (withCourse State.reset 64) 64 (fun g => { g with inq := [f] })
def engineB (f : Frame) : Bool :=
  let s := sEng f
  isBridge 64 && bridgesOn s && clocksRun s && decide (s.errs = Errs.none) && decide ((bridge s 64).eng.inq.head? = some f) &&
    decide (frameCourse s 64 f = some (courseAt s 64 3)) && engineRoom s 64 f &&
    decide ((bridge s 64).eng.streams.find? (isRow f) = none)
theorem engine_of {f : Frame} (h : engineB f = true) : engineTurn (sEng f) 64 (fType f) f (courseAt (sEng f) 64 3) := by
  simp only [engineB, Bool.and_eq_true, decide_eq_true_eq, and_assoc] at h
  obtain ⟨isOne, isOn, clocked, sound, head, course, room, row⟩ := h
  exact ⟨⟨isOne, isOn⟩, clocked, sound, head, rfl, course, room, row⟩

def fRelay (ty : Nat) : Frame := collFrame ty true true false 0 u1 (bytesLE 8 9)
def fUp (ty : Nat) : Frame := collFrame ty true false true 0 u1 (bytesLE 8 9)

theorem relay_turns : ∀ ty ∈ [0x11, 0x12, 0x13, 0x14], engineB (fRelay ty) = true ∧ fType (fRelay ty) = ty ∧
    fLast (fRelay ty) = false ∧ fMcast (fRelay ty) = true ∧ fHop (fRelay ty) = 2 ∧
    keptFor (sEng (fRelay ty)) 64 (fRelay ty) = none := by decide +kernel

theorem witness_CollectiveFramesLandAndRelay_relay : ∀ ty ∈ [0x11, 0x12, 0x13, 0x14],
    engineTurn (sEng (fRelay ty)) 64 ty (fRelay ty) (courseAt (sEng (fRelay ty)) 64 3) ∧
    fLast (fRelay ty) = false ∧ fMcast (fRelay ty) = true ∧ fHop (fRelay ty) = 2 ∧
    keptFor (sEng (fRelay ty)) 64 (fRelay ty) = none := by
  intro ty h
  obtain ⟨h1, h2, h3⟩ := relay_turns ty h
  have := engine_of h1
  rw [h2] at this
  exact ⟨this, h3⟩

theorem test_relay : after (exec (.sdown 64) (sEng (fRelay 0x11))) (fun t => (bridge t 64).recv.length = 1) = true := by decide +kernel

theorem up_turns : ∀ ty ∈ [0x10, 0x15, 0x16, 0x17], engineB (fUp ty) = true ∧ fType (fUp ty) = ty ∧ fLast (fUp ty) = true ∧
    fScount (fUp ty) = 1 ∧ (fSub (fUp ty)).prog = 0 ∧
    selfAt (sEng (fUp ty)) 64 = rankAt (courseAt (sEng (fUp ty)) 64 3) (fSub (fUp ty)).root ∧
    selfAt (sEng (fUp ty)) 64 = rankAt (courseAt (sEng (fUp ty)) 64 3) (courseAt (sEng (fUp ty)) 64 3).root ∧
    atEnd (fUp ty) = true ∧ nowStep (sEng (fUp ty)) 64 (fUp ty) = true ∧
    spanOk 2 1 0 = true ∧ 0 < logP 2 ∧ sibLo 1 0 < 2 ∧ spanTaken (sEng (fUp ty)) 64 (frameKey (fUp ty)) 1 0 = false ∧
    (bridge (sEng (fUp ty)) 64).eng.gather = [] ∧ (bridge (sEng (fUp ty)) 64).eng.held = [] := by decide +kernel

def pLeft : Partial := ⟨epid 0 1 64 2 0, 0, ⟨3, 0, 0, 0, 0⟩, ⟨5, 0, false, 0, 1, 2, 0, 1⟩, 0, 0, 0, false, [0x3F800000, 0x40000000]⟩

theorem witness_EnginesHoldAndCombinePartials : (∀ ty ∈ [0x10, 0x15, 0x16, 0x17],
    engineTurn (sEng (fUp ty)) 64 ty (fUp ty) (courseAt (sEng (fUp ty)) 64 3)) ∧
    (let r : Partial := { pLeft with lo := 1 }
     pLeft.par = r.par ∧ pLeft.par.prog = 0 ∧ pLeft.par.exact = false ∧ pLeft.acc = false ∧ isToken pLeft = false ∧
       pLeft.elems.length = r.elems.length) := by
  refine ⟨fun ty h => ?_, by decide +kernel⟩
  obtain ⟨h1, h2, -⟩ := up_turns ty h
  have := engine_of h1
  rwa [h2] at this

/-- 1.0 + 1.0 and 2.0 + 2.0. -/
theorem test_combine : (bridge (combinePart State.reset 64 pLeft { pLeft with lo := 1 }) 64).eng.held.map (fun p => p.elems) =
    [[0x40000000, 0x40800000]] := by decide +kernel

theorem test_engines : after (exec (.spart 64) (sEng (fUp 0x10))) (fun t =>
    (bridge t 64).eng.held.map (fun p => p.elems) = [[9, 0]]) = true ∧
    after (exec (.ctoku 64) (sEng (fUp 0x15))) (fun t => (bridge t 64).eng.held.map (fun p => p.elems) = [[9]]) = true ∧
    after (exec (.ctokd 64) (sEng (fUp 0x16))) (fun t => t.tokGot = [3] && regBits t (dcs TUN 0xC00) 31 0 = 9) = true ∧
    after (exec (.cpoison 64) (sEng (fUp 0x17))) (fun t => t.stepCodes = [0x2B]) = true := by decide +kernel

/-- Two trees over the same two contributions, FP32. -/
theorem witness_ExactSumsDoNotDependOnTheOrder :
    let x := SumTree.node (.leaf 0 0x3F800000) (.leaf 1 0x40000000)
    let y := SumTree.node (.leaf 1 0x40000000) (.leaf 0 0x3F800000)
    fFP32 ∈ [fFP32, fBF16, fFP16] ∧ x.leaves.Perm y.leaves ∧ (x.leaves.map (·.1)).Nodup ∧
      (∀ l ∈ x.leaves, l.1 < 256 ∧ l.2 < 2 ^ (if fFP32 = fFP32 then 32 else 16)) := by decide +kernel

-- Merges and tokens -------------------------------------------------------------------------------------------------

def mergeDesc (dlb pcnt : Nat) : List Byte := bytesLE 32 (1 + dlb <<< 24 + pcnt <<< 32 + 1 <<< 80)
def mPost (dlb pcnt : Nat) : MergePost := ⟨0, mergeDesc dlb pcnt, bytesLE 8 (7 + 5 <<< 32)⟩
def sMerge (x : MergePost) (ms : List Merge) : State := modTile (atCore kColl) 0 (fun t => { t with mergeQ := [x], merges := ms })
def gOne : Merge := ⟨1, mergeDesc 3 2, [mPost 3 2], false⟩

theorem witness_MergesAndTokensComplete :
    (clocksRun (sMerge (mPost 3 2) []) = true ∧ (tile (sMerge (mPost 3 2) []) 0).mergeQ = [mPost 3 2] ∧
      (tile (sMerge (mPost 3 2) []) 0).merges = [] ∧ 1 < mgPcnt (mPost 3 2).desc ∧
      (tile (sMerge (mPost 3 2) [gOne]) 0).merges.find? (fun g => g.mid = fieldLE (mPost 3 2).desc 0 1) = some gOne ∧
      mgSame gOne.first (mPost 3 2).desc = true ∧ mgPcnt gOne.first = gOne.got.length + 1 ∧ armed (sMerge (mPost 3 2) [gOne]) 0 3 = true ∧
      landRefused (lbGet (coreOf (sMerge (mPost 3 2) [gOne]) 0) 3) 4096 16 = false ∧ mgPcnt (mPost 4 1).desc ≤ 1 ∧
      armed (sMerge (mPost 4 1) []) 0 4 = false) := by decide +kernel

/-- Two pairs of key 7 merge by addition: one pair, 5 + 5 or the FP32 sum. -/
theorem test_merge_lands : after (exec (.mergeContribution 0) (sMerge (mPost 3 2) [gOne])) (fun t =>
    memNat (coreOf t 0).ls 4096 8 = 1 && memNat (coreOf t 0).ls 4104 4 = 7 && (lbGet (coreOf t 0) 3).count = 16) = true := by decide +kernel

/-- The only core has issued STEPEND on a module whose entry 3 takes a token. -/
def sTok : State :=
  let s := withCourse (withCourse (atCore { k0 with next := 1, collOrd := smSet 0 [] 3 1 }) 0) 64
  { s with plane := { s.plane with cyc := 0, stepEnd := some 0 } }

theorem witness_MergesAndTokensComplete_token : tokenDue sTok 3 = true ∧ clocksRun sTok = true ∧
    (let d := 64 + (cteBits sTok 3 39 32 - 64) % 36
     course? sTok d 3 = some (courseAt sTok d 3) ∧ rankOf (courseAt sTok d 3) (selfAt sTok d) = some 0) ∧ tokenDue s0 3 = false := by
  decide +kernel

theorem test_token_send : after (exec (.tokenSend 3) sTok) (fun t =>
    t.tokSent = [3] && (bridge t 64).recv.map (fun e => fType e.frame) = [0x15]) = true := by decide +kernel

-- The host ----------------------------------------------------------------------------------------------------------

/-- A region of tile 0 that the host may read and write; lines the host holds; a recall without and with a line held exclusively. -/
def sCoh : State := regPutNat State.reset (dcs 0 0x8000) (1 + 1 <<< 1 + 1 <<< 2 + 1 <<< 3 + 1 <<< 5 + (2 ^ 34 - 1) <<< 134) 8
/-- A module in A3: only the edge dies have power. -/
def dark : State := regSetBits State.reset (dcs SP 0x200008) 2 0 3
def held (s : State) (line : Nat) (e : Bool) : State := { s with dir := [⟨line, e⟩] }
def recalling (s : State) (line : Nat) : State := { s with recalls := [⟨line, false⟩] }
/-- The same region, not the host's. -/
def sNotHosts : State := regPutNat State.reset (dcs 0 0x8000) (1 + 1 <<< 1 + 1 <<< 2 + 1 <<< 3 + (2 ^ 34 - 1) <<< 134) 8
def reachesB (s : State) (a : Nat) : Bool :=
  decide (s.life = .up) && !s.muted && dieLive s (a / 2 ^ 37) && decide (a < 2 ^ 43) && !lineBusy s (a / 64) && !recalled s (a / 64)
theorem reaches_of {s : State} {a : Nat} (h : reachesB s a = true) : Reaches s a := by
  simp only [reachesB, Bool.and_eq_true, decide_eq_true_eq, Bool.not_eq_true', and_assoc] at h
  obtain ⟨up, awake, power, inside, first, settled⟩ := h
  exact { up, awake, power, inside, first, settled }

/-- Host request `i` to line 2 alone at its port, in a slot that serves. -/
def atPort (s : State) (i : Instr) : State :=
  { setPort s 0 0 [⟨128, hostOp i, .host i, 0, [], false, false⟩] with count := 128 }
def zeros : List Byte := List.replicate 64 0
theorem atPort_of {s : State} {i : Instr} (h : (clocksRun (atPort s i) && !refreshFrame (atPort s i) 0 128 &&
    decide (port (atPort s i) 0 0 = [⟨128, hostOp i, .host i, 0, [], false, false⟩]) &&
    decide ((atPort s i).cohWait = [] ∧ (atPort s i).errs = Errs.none)) = true) : AtPort (atPort s i) i 128 := by
  simp only [Bool.and_eq_true, decide_eq_true_eq, Bool.not_eq_true'] at h
  obtain ⟨⟨⟨h1, h2⟩, h3⟩, h4, h5⟩ := h
  exact ⟨h1, by decide, h3, h2, h4, h5⟩

/-- CoherenceCommandsComplete: a request on its way, one that waits for an earlier one or a recall, one to a dark tile. -/
theorem witness_CoherenceCommandsComplete : Reaches sCoh 128 ∧ Reaches (held sCoh 2 true) 128 ∧ Reaches sNotHosts 128 ∧
    lineBusy (atPort sCoh (.rdS 128)) 2 = true ∧ recalled (atPort sCoh (.rdS 128)) 2 = false ∧
    recalled (recalling sCoh 2) 2 = true ∧ (recalling sCoh 2).errs = Errs.none ∧ (recalling sCoh 2).cohWait = [] ∧
    ((∀ n ∈ [[1], [1, 2], [2], []], hostMay sCoh 128 64 n = true ∧ hostMay sNotHosts 128 64 n = false) ∧ dirFind sCoh 2 = none ∧
      (dirSet sCoh 2).length + freedUnanswered sCoh 2 < 16 ∧ hostMay sCoh 128 8 [1] = true ∧ hostMay sCoh 128 8 [2] = true ∧
      heldE (held sCoh 2 true) 2 = true ∧ hostMay (held sCoh 2 true) 128 64 [2] = true ∧
      (dirFind (held sCoh 2 false) 2).isSome = true ∧
      (recalling (held sCoh 2 true) 2).recalls.find? (fun r => r.line = 128 / 64) = some ⟨2, false⟩ ∧
      ({ sCoh with recalls := [⟨2, true⟩] } : State).recalls.find? (fun r => r.line = 128 / 64) = some ⟨2, true⟩ ∧
      heldE (recalling (held sCoh 2 false) 2) 2 = false ∧
      dieLive dark 0 = false) :=
  ⟨reaches_of (by decide +kernel), reaches_of (by decide +kernel), reaches_of (by decide +kernel), by decide +kernel⟩

/-- CoherenceCommandsComplete, the clauses about the slot: each request at its port, lines free and held, HOST and not. -/
theorem witness_CoherenceCommandsComplete_slot :
    AtPort (atPort sCoh (.rdS 128)) (.rdS 128) 128 ∧ AtPort (atPort sCoh (.rdE 128)) (.rdE 128) 128 ∧
    AtPort (atPort sCoh (.rdNc 128 64)) (.rdNc 128 64) 128 ∧
    AtPort (atPort sCoh (.wrNc 128 (zeros.map (fun _ => true)) zeros)) (.wrNc 128 (zeros.map (fun _ => true)) zeros) 128 ∧
    AtPort (atPort (held sCoh 2 true) (.wb 128 zeros)) (.wb 128 zeros) 128 ∧
    AtPort (atPort (held sCoh 2 false) (.drop 128)) (.drop 128) 128 ∧
    AtPort (atPort sNotHosts (.drop 128)) (.drop 128) 128 ∧ AtPort (atPort (held sCoh 2 true) (.rdS 128)) (.rdS 128) 128 ∧
    AtPort (atPort (held sCoh 2 true) (.binvWb 128 zeros)) (.binvWb 128 zeros) 128 ∧
    dirFind (atPort sCoh (.rdS 128)) 2 = none ∧ hostMay (atPort sNotHosts (.drop 128)) 128 64 [] = false ∧
    heldE (atPort (held sCoh 2 true) (.wb 128 zeros)) 2 = true := by
  refine ⟨atPort_of ?_, atPort_of ?_, atPort_of ?_, atPort_of ?_, atPort_of ?_, atPort_of ?_, atPort_of ?_, atPort_of ?_,
    atPort_of ?_, ?_⟩ <;> decide +kernel

theorem test_coherence : after (exec (.rdE 128) sCoh) (fun t => (port t 0 0).length = 1 && t.out = []) = true ∧
    after (exec (.serviceSlot 0) (atPort sCoh (.rdE 128))) (fun t =>
      t.dir = [⟨2, true⟩] && t.out = [.hostReply 0 zeros]) = true ∧
    (let i : Instr := .wrNc 128 [true, false, true, true, true, true, true, true] (bytesLE 8 0x0807060504030201)
     after (exec (.serviceSlot 0) (atPort sCoh i)) (fun t =>
      memNat t.dram 128 8 = 0x0807060504030001 && t.out = [.hostReply 0 []]) = true) ∧
    after (exec (.serviceSlot 0) (atPort (recalling (held sCoh 2 true) 2) (.binvWb 128 (List.replicate 64 3)))) (fun t =>
      memNat t.dram 184 8 = 0x0303030303030303 && t.dir = [] && t.recalls = []) = true := by decide +kernel

/-- A channel whose ring of 16 descriptors stands at host address 2^20, HEAD at the last, TAIL at 0. -/
def sRing : State :=
  let s := regPutNat State.reset (bcRing 1) (2 ^ 20) 2
  regSetBits (regSetBits (regSetBits s (bcStat 1) 19 0 15) (bcTail 1) 19 0 0) (dcs APL 0x300) 0 0 1

/-- Descriptors: host address, module address, length, direction. -/
def desc (h m n d : Nat) : List Byte := bytesLE 32 (h + m <<< 64 + n <<< 128 + d <<< 160)
def toDram : List Byte := desc 4096 (2 ^ 20) 64 0
def toStore : List Byte := desc 4096 (2 ^ 62 + 1 <<< 23 + 512) 64 0
def toCode : List Byte := desc 4096 (2 ^ 63 + 1 <<< 23 + 64) 64 0
def fromDram : List Byte := desc 4096 (2 ^ 20) 128 1
def sCopy (d : List Byte) : State := setInProgress sRing 1 (some (d ++ bytesLE 8 (ringAt sRing 1)))
def copyingB (s : State) (ch : Nat) (bs : List Byte) : Bool :=
  decide (ch < 4) && decide (s.life = .up) && !s.muted && dieLive s (bitsOf (descOf bs).maddr 42 37) &&
    decide (inProgress s ch = some bs) && !descWaits s (descOf bs) && !descBetween s (descOf bs)
theorem copying_of {s : State} {ch : Nat} {bs : List Byte} (h : copyingB s ch bs = true) : Copying s ch bs := by
  simp only [copyingB, Bool.and_eq_true, decide_eq_true_eq, Bool.not_eq_true', and_assoc] at h
  obtain ⟨channel, up, awake, power, held, free, between⟩ := h
  exact { channel, up, awake, power, held, free, between }

theorem witness_CopyChannelsComplete : Served sHost APL ∧ (sRing.life = .up ∧ channelReady sRing 1 = true) ∧
    (∀ d ∈ [toDram, toStore, fromDram], d.length = 32 ∧ descRange (descOf (d ++ bytesLE 8 (ringAt sRing 1))) = false ∧
      descBusy sRing (descOf (d ++ bytesLE 8 (ringAt sRing 1))) = false ∧
      copyingB (sCopy d) 1 (d ++ bytesLE 8 (ringAt sRing 1)) = true) ∧
    descRange (descOf (desc 4096 (2 ^ 20) 96 0 ++ bytesLE 8 (ringAt sRing 1))) = true ∧
    (let x := descOf (desc 4096 (2 ^ 63) 64 0 ++ bytesLE 8 (ringAt sRing 1))
     descRange x = false ∧ descBusy { sRing with plane := { sRing.plane with run := .running } } x = true) ∧
    (descOf toDram).dir = 0 ∧ descSpace (descOf toDram) = 0 ∧ (descOf toStore).dir = 0 ∧ descSpace (descOf toStore) = 1 ∧
    (descOf toCode).dir = 0 ∧ descSpace (descOf toCode) = 2 ∧ (descOf fromDram).dir = 1 ∧ 0 < (descOf fromDram).len :=
  ⟨served_of (by decide +kernel), by decide +kernel⟩

theorem witness_Copying : ∀ d ∈ [toDram, toStore, toCode, fromDram],
    Copying (sCopy d) 1 (d ++ bytesLE 8 (ringAt sRing 1)) := by
  have h : ∀ d ∈ [toDram, toStore, toCode, fromDram], copyingB (sCopy d) 1 (d ++ bytesLE 8 (ringAt sRing 1)) = true := by decide +kernel
  exact fun d m => copying_of (h d m)

theorem test_copy : after (exec (.copyDescriptor 1 (some toDram)) sRing) (fun t =>
      t.out = [.hostRead (2 ^ 20 + 480) 32, .hostRead 4096 64] && (inProgress t 1).isSome) = true ∧
    after (exec (.copyDescriptorDone 1 (List.replicate 64 9)) (sCopy toStore)) (fun t =>
      memNat (coreOf t 1).ls 568 8 = 0x0909090909090909 && ringHead t 1 = 0 && t.out = [.hostWrite (2 ^ 20 + 502) [0]]) = true := by
  decide +kernel

-- Device control space ----------------------------------------------------------------------------------------------

/-- Interrupt 25 is pending and masked, its doorbell at host address 0x1000 with value 7. -/
def sIrq : State :=
  let s := regPutNat (regPutNat sHost (dcs APL 0x1190) 0x1000 2) (dcs APL 0x1198) 7 1
  regSetBits (regSetBits s (dcs APL 0x100) 25 25 1) (dcs APL 0x108) 31 0 0x3FFFFFF

theorem witness_ControlSpaceAndFabricSettingsComplete :
    (∀ d ∈ [0, 63, 64, 99, APL, SP], servedB sHost d = true) ∧ servedB sIrq APL = true ∧ tileOf (coreCount - 1) = 63 ∧
    ¬ ((4 = 4 ∨ 4 = 8) ∧ (6#32).toNat % 4 = 0) ∧ mmioServed dark 0 false = false ∧
    bitAt (regWord sIrq (dcs APL 0x108)).toNat 25 = true ∧ bitAt (regWord sIrq (dcs APL 0x100)).toNat 25 = true ∧
    isBridge 64 = true ∧ (bridge sHost 64).shapers.length = 4 ∧ hasPolicer 0 = true ∧ (policersOf sHost 0).length = 4 ∧
    15 ∉ (bridge sHost 64).eng.used ∧ sIrq.life = .up ∧ sIrq.muted = false := by decide +kernel

theorem test_irq_mask : after (exec (.irqMaskWrite 0) sIrq) (fun t =>
    .hostWrite 0x1000 (bytesLE 4 7) ∈ t.out) = true := by decide +kernel

/-- A host's session is open, and FPSTAT of core 0 holds two flags. -/
def sFlags : State := regSetBits (atCore { k0 with fpstat := 5 }) (dcs SP 0x800) 6 5 1

theorem test_control_space : after (exec (.dcsWrite (BitVec.ofNat 32 (dcs 5 0x100044)) 4 0x3F3F) sFlags)
      (fun t => (coreOf t 0).fpstat = 5) = true ∧
    after (exec (.dcsWrite (BitVec.ofNat 32 (dcs 0 0x100044)) 4 0x3F3F) sFlags)
      (fun t => (coreOf t 0).fpstat = 0) = true ∧
    after (exec .rstcauseRead State.reset) (fun t => regBits t (dcs SP 0x20) 2 0 = 7) = true ∧
    after (exec (.shaperCommit 64 0x1F) sHost) (fun t =>
      (bridge t 64).shapers.length = 4) = true := by decide +kernel

-- Mailboxes ---------------------------------------------------------------------------------------------------------

/-- Mailbox `n` of a session of `role` holds a request with this CMD and payload, BUSY and next in the queue. -/
def asks (s : State) (n role code : Nat) (pay : List Byte) : State :=
  let m := memWrite [] 0 (bytesLE 4 code ++ bytesLE 4 pay.length ++ bytesLE 24 7 ++ pay)
  let s := setMbx s n { Mailbox.reset with mem := m }
  let s := regSetBits (regSetBits s (mbxCtl n) 3 2 1) (mbxCtl n) 6 5 role
  { s with exec := { s.exec with queue := [n] } }

def nextB (s : State) (n row : Nat) : Bool := decide (n < 16) && mbxTaken s n row && decide (s.exec.queue = [n])
def takenB (s : State) (n row : Nat) : Bool := nextB s n row && decide (sharedStatus s n = stOK)
theorem next_of {s : State} {n row : Nat} (h : nextB s n row = true) : Next s n row := by
  simp only [nextB, Bool.and_eq_true, decide_eq_true_eq] at h
  exact ⟨h.1.1, h.1.2, h.2⟩
theorem taken_of {s : State} {n row : Nat} (h : takenB s n row = true) : Taken s n row := by
  simp only [takenB, Bool.and_eq_true, decide_eq_true_eq] at h
  exact { toNext := next_of h.1, passes := h.2 }

def powered (s : State) (x : Nat) : State := regSetBits s (dcs SP 0x200008) 2 0 x
def runAs (s : State) (r : RunState) : State := { s with plane := { s.plane with run := r } }

/-- A valid image: one section, eight bytes of code for core 0, one module. -/
def imageBody : List Byte := bytesLE 32 (1 + 0x60 <<< 128 + 8 <<< 192) ++ bytesLE 8 0x0102030405060708
def image : List Byte :=
  [0x4D, 0x51, 0x50, 0x49] ++ bytesLE 4 1 ++ bytesLE 8 104 ++ bytesLE 2 1 ++ bytesLE 2 1 ++ bytesLE 12 0 ++ sha256 imageBody ++ imageBody
def sModules : State := regSetBits State.reset (dcs SP 0x110) 6 0 1

/-- For each row, its CMD, a payload and a state in which it is taken. -/
def requests : List (Nat × Nat × List Byte × State) :=
  [(0x010, 0x01, [], State.reset), (0x020, 0x02, bytesLE 36 1, State.reset), (0x030, 0x03, [], State.reset),
   (0x100, 0x10, bytesLE 992 (2 ^ 16), State.reset), (0x110, 0x11, bytesLE 264 (63 + 1 <<< 8), State.reset),
   (0x120, 0x12, bytesLE 40 (1023 + 1 <<< 16), State.reset), (0x200, 0x20, bytesLE 32 (4096 + 104 <<< 64 + 5 <<< 128), sModules),
   (0x210, 0x21, bytesLE 64 (3 + 15 <<< 64 + 1 <<< 72), State.reset), (0x300, 0x30, bytesLE 16 65536, State.reset),
   (0x310, 0x31, [], runAs State.reset .running), (0x320, 0x32, bytesLE 8 65536, runAs State.reset .paused),
   (0x330, 0x33, bytesLE 8 9, runAs State.reset .running), (0x400, 0x40, bytesLE 8 0, State.reset),
   (0x401, 0x40, bytesLE 8 1, powered State.reset 1), (0x402, 0x40, bytesLE 8 0x101, State.reset),
   (0x403, 0x40, bytesLE 8 0x201, State.reset), (0x404, 0x40, bytesLE 8 0x301, State.reset), (0x410, 0x41, bytesLE 8 0, State.reset),
   (0x411, 0x41, bytesLE 8 0x4001, State.reset), (0x500, 0x50, bytesLE 40 5, State.reset),
   (0x501, 0x50, bytesLE 40 (1 <<< 256), State.reset), (0x502, 0x50, bytesLE 40 (2 <<< 256), State.reset),
   (0x503, 0x50, bytesLE 40 (3 <<< 256), State.reset), (0x600, 0x60, bytesLE 16 0, State.reset), (0x601, 0x60, bytesLE 16 1, State.reset),
   (0x602, 0x60, bytesLE 16 (2 + 1 <<< 64), State.reset), (0x701, 0x70, bytesLE 32 (0x101 + 8 <<< 128), State.reset),
   (0x702, 0x70, bytesLE 32 0x102, State.reset), (0x703, 0x70, bytesLE 32 3, State.reset)]
def asked (x : Nat × Nat × List Byte × State) : State := asks x.2.2.2 0 1 x.2.1 x.2.2.1
def misLength (x : Nat × Nat × List Byte × State) : State := asks x.2.2.2 0 1 x.2.1 (x.2.2.1 ++ [0])

theorem requests_cover : requests.map (·.1) = mailboxRows.map (·.2) := by decide +kernel
theorem requests_taken : ∀ x ∈ requests, takenB (asked x) 0 x.1 = true := by decide +kernel
theorem requests_length : ∀ x ∈ requests, nextB (misLength x) 0 x.1 = true ∧ sharedStatus (misLength x) 0 = 5 := by decide +kernel

/-- Each row, with a request that passes the shared checks and one that fails. -/
theorem witness_Taken : ∀ x ∈ requests, Taken (asked x) 0 x.1 := fun x h => taken_of (requests_taken x h)

theorem witness_MailboxCommandsAreCheckedAlike : (∀ x ∈ requests, Next (misLength x) 0 x.1 ∧ sharedStatus (misLength x) 0 ≠ 0) ∧
    State.reset.exec.lockout = false ∧ mbxTaken State.reset 15 0x020 = false ∧ sessionRole State.reset 15 = 0 ∧
    (let s := asks State.reset 15 2 0x12 (bytesLE 40 (1 <<< 16))
     sessionRole s 15 = 2 ∧ reqCode s 15 = 0x12) ∧
    (let s := asks (powered State.reset 4) 0 1 0x20 (bytesLE 32 0)
     sessionRole s 0 = 1 ∧ reqCode s 0 = 0x20 ∧ lenOk s 0 = true ∧ pwrState s = 4) ∧
    (let s := asks (runAs State.reset .running) 0 1 0x70 (bytesLE 32 3)
     sessionRole s 0 = 1 ∧ reqCode s 0 = 0x70 ∧ lenOk s 0 = true ∧ pwrState s = 0 ∧ s.plane.run = .running) :=
  ⟨fun x h => ⟨next_of (requests_length x h).1, by rw [(requests_length x h).2]; decide⟩, by decide +kernel⟩

theorem test_no_session : after (exec (.pause 3) (asks (runAs State.reset .running) 3 0 0x31 [])) (fun t =>
    memNat (mbx t 3).mem 0x802 2 = 2 && mbxState t 3 = 2 && !t.plane.preq) = true := by decide +kernel

/-- Mailbox 15 idle, BUSY, and DONE for a side, with a request for a nonce. -/
def sBox (n st : Nat) (side : Side) : State :=
  let s := asks State.reset n 0 1 []
  let s := setMbxState (setMbx s n { mbx s n with owner := side }) n st
  { s with exec := { s.exec with queue := [] } }

theorem witness_GoAndAckMoveTheMailbox : ∀ x ∈ [(Side.apeno, 15), (Side.smbus, 15)],
    mbxState (sBox x.2 0 x.1) x.2 = 0 ∧ (sBox x.2 0 x.1).exec.draining = none ∧ (sBox x.2 0 x.1).exec.queue = [] ∧
      (reqRow (sBox x.2 0 x.1) x.2).isSome = true ∧ (sBox x.2 0 x.1).life = .up ∧ (sBox x.2 0 x.1).muted = false ∧
      mbxState (sBox x.2 1 x.1) x.2 = 1 ∧ (mbx (sBox x.2 1 x.1) x.2).owner = x.1 ∧
      mbxState (sBox x.2 2 x.1) x.2 = 2 ∧ (mbx (sBox x.2 2 x.1) x.2).owner = x.1 ∧ (sBox x.2 2 x.1).due = none ∧
      { sBox x.2 2 x.1 with due := some (.command 15) }.due = some (.command x.2) := by decide +kernel

theorem test_go_overrun : after (exec (.mbxGo 15 .apeno) (sBox 15 1 .apeno)) (fun t => regBits t (mbxCtl 15) 4 4 = 1) = true ∧
    after (exec (.mbxGo 15 .smbus) (sBox 15 0 .apeno)) (fun t => t.exec.queue = [15] && (mbx t 15).owner = .smbus) = true := by
  decide +kernel

/-- A nonce and a key; a request that opens a HOST session with the proof over them, and one with another proof. -/
def nonceA : List Byte := bytesLE 32 0x1234
def keyA : List Byte := bytesLE 32 0x5678
def sProof (proof : List Byte) : State :=
  let s := asks State.reset 0 0 2 (bytesLE 4 1 ++ proof)
  let s := setMbx s 0 { mbx s 0 with nonce := some nonceA }
  { s with booted := { s.booted with kHost := some keyA } }
def goodProof : List Byte := hmac keyA (proofMessage nonceA 0 1)

theorem witness_SessionsOpenAndClose :
    (takenB (sProof goodProof) 0 0x020 = true ∧ takenB (sProof (bytesLE 32 0)) 0 0x020 = true ∧
      (sProof goodProof).exec.lockout = false ∧ reqPay (sProof goodProof) 0 0 1 = 1 ∧
      roleKey (sProof goodProof) 1 = some keyA ∧ (mbx (sProof goodProof) 0).nonce = some nonceA ∧
      hmac keyA (proofMessage nonceA 0 1) = reqBytes (sProof goodProof) 0 4 32 ∧
      hmac keyA (proofMessage nonceA 0 1) ≠ reqBytes (sProof (bytesLE 32 0)) 0 4 32) ∧
    (let s := sProof goodProof
     nextB { s with exec := { s.exec with lockout := true } } 0 0x020 = true) ∧
    soundpostRuns State.reset = true ∧
    (let s := regSetBits (regSetBits State.reset (mbxCtl 15) 6 5 1) (dcs SP 0x100) 15 0 3
     soundpostRuns s = true ∧ sessionRole s 15 ≠ 0 ∧ regBits s (dcs SP 0x100) 15 0 ≠ 0 ∧ mbxState s 15 ≠ 1) ∧
    regBits (regSetBits State.reset (dcs SP 0x100) 15 0 0) (dcs SP 0x100) 15 0 = 0 := by decide +kernel

theorem test_session_open : after (exec (.sessionOpen 0) (sProof goodProof)) (fun t => sessionRole t 0 = 1) = true ∧
    after (exec (.sessionOpen 0) (sProof (bytesLE 32 0))) (fun t => sessionRole t 0 = 0 && t.exec.fails = 1) = true := by
  decide +kernel

-- The map of a module whose registers in its window are as at reset -------------------------------------------------

theorem smGet_none {α : Type} (d : α) (m : SMap α) (k : Nat) (h : ∀ e ∈ m, e.1 ≠ k) : smGet d m k = d := by
  induction m with
  | nil => rfl
  | cons e m ih =>
    obtain ⟨a, v⟩ := e
    rw [smGet, if_neg (h (a, v) (List.mem_cons_self ..))]
    exact ih fun e' h' => h e' (List.mem_cons_of_mem _ h')

theorem silicon_same (t : Nat) (r : RegDef) (w : Nat) (h : r.fields.all (fun f => !f.die) = true) :
    siliconWord t r w = siliconWord 0 r w := by
  have : ∀ fs : List RegField, fs.all (fun f => !f.die) = true →
      wordOfFields (fun f => if f.die then t else f.rst) w fs = wordOfFields (fun f => if f.die then 0 else f.rst) w fs := by
    intro fs
    induction fs with
    | nil => intro; rfl
    | cons f fs ih =>
      intro h
      simp only [List.all_cons, Bool.and_eq_true, Bool.not_eq_true'] at h
      simp [wordOfFields, h.1, ih h.2]
  rw [siliconWord, siliconWord, this r.fields h]

theorem map_rows : ∀ r < 128, (findIn regTable .tile (0x1000 + 4 * r)).any (fun x =>
    x.1.fields.all (fun f => !f.die) && siliconWord 0 x.1 x.2 = 0xFFFFFFFF) = true := by decide +kernel

theorem findReg_of {a d o : Nat} {k : DieKind} {x : RegDef × Nat} (e1 : a / 2 ^ 24 = d) (e2 : a % 2 ^ 24 = o) (hk : dieKind d = some k)
    (hx : findIn regTable k o = some x) : findReg a = some x := by
  unfold findReg
  rw [e1, e2, hk]
  exact hx
theorem regWord_of {s : State} {a : Nat} {x : RegDef × Nat} (hn : smGet none s.regs a = none) (hf : findReg a = some x) :
    regWord s a = siliconWord (a / 2 ^ 24) x.1 x.2 := by
  unfold regWord resetWord
  rw [hn, hf]

/-- No register of the maps has been written. -/
def mapsUntouched (s : State) : Bool :=
  s.regs.all (fun e => !(decide (e.1 / 2 ^ 24 < 64) && decide (0x1000 ≤ e.1 % 2 ^ 24) && decide (e.1 % 2 ^ 24 < 0x1200)))

theorem maps_of {s : State} (h : mapsUntouched s = true) : ∀ t < 64, tileMapOk s t = true := by
  intro t ht
  have hw : ∀ r < 128, regWord s (dcs t (0x1000 + 4 * r)) = 0xFFFFFFFF := by
    intro r hr
    have e1 : dcs t (0x1000 + 4 * r) / 2 ^ 24 = t := by unfold dcs; omega
    have e2 : dcs t (0x1000 + 4 * r) % 2 ^ 24 = 0x1000 + 4 * r := by unfold dcs; omega
    have hn : smGet none s.regs (dcs t (0x1000 + 4 * r)) = none := by
      refine smGet_none _ _ _ fun e he hk => ?_
      have := (List.all_eq_true.1 h) e he
      rw [hk, e1, e2] at this
      simp at this
      omega
    have hk : dieKind t = some .tile := by simp [dieKind, ht]
    have hr := map_rows r hr
    rw [Option.any_eq_true] at hr
    obtain ⟨x, hx, hv⟩ := hr
    rw [Bool.and_eq_true, decide_eq_true_eq] at hv
    rw [regWord_of hn (findReg_of e1 e2 hk hx), e1, silicon_same t x.1 x.2 hv.1]
    exact hv.2
  unfold tileMapOk
  refine List.all_eq_true.2 fun r hr => ?_
  rw [hw r (List.mem_range.1 hr)]
  decide

-- Tables, programs, runs --------------------------------------------------------------------------------------------

theorem witness_TablesAreSet :
    (takenB (asks State.reset 0 1 0x10 (bytesLE 992 (9 + 9 <<< 8 + 100 <<< 16))) 0 0x100 = true ∧
      topologyOk (reqBytes (asks State.reset 0 1 0x10 (bytesLE 992 (9 + 9 <<< 8 + 100 <<< 16))) 0 0 992) = true ∧
      topologyOk (reqBytes (asks State.reset 0 1 0x10 (bytesLE 992 0)) 0 0 992) = false ∧ isBridge 99 = true ∧
      dieLive State.reset 99 = true) ∧
    (let s := asks State.reset 0 1 0x11 (bytesLE 520 (62 + 2 <<< 8))
     takenB s 0 0x110 = true ∧ 1 ≤ reqPay s 0 1 1 ∧ reqPay s 0 0 1 + reqPay s 0 1 1 ≤ 64 ∧
       ∀ e ∈ chunks 256 (reqBytes s 0 8 512), courseMay e = true) ∧
    (let s := asks State.reset 0 1 0x11 (bytesLE 520 (62 + 2 <<< 8 + 0xFF <<< 2128))
     takenB s 0 0x110 = true ∧ (chunks 256 (reqBytes s 0 8 512)).map courseMay = [true, false]) ∧
    (let s := asks State.reset 0 1 0x12 (bytesLE 40 (1023 + 1 <<< 16))
     takenB s 0 0x120 = true ∧ 1 ≤ reqPay s 0 2 1 ∧ reqPay s 0 0 2 + reqPay s 0 2 1 ≤ 1024) ∧
    (let s := asks State.reset 0 1 0x12 (bytesLE 8 0)
     takenB s 0 0x120 = true ∧ reqPay s 0 2 1 = 0) := by decide +kernel

/-- LOAD_PROGRAM asks for the image's 104 bytes; Saddle slots 15 and 16. -/
def sLoadReq : State := asks sModules 0 1 0x20 (bytesLE 32 (4096 + 104 <<< 64 + 5 <<< 128))
def sSlot (i : Nat) (hdr : Nat) : State := asks State.reset 0 1 0x21 (bytesLE 64 (3 + i <<< 64 + 1 <<< 72 + hdr <<< 128))

theorem witness_ProgramsAreLoaded :
    (takenB sLoadReq 0 0x200 = true ∧ reqPay sLoadReq 0 0 8 % 64 = 0 ∧ mapsUntouched sLoadReq = true ∧
      image.length = reqPay sLoadReq 0 8 8 ∧ imageStatus sLoadReq image image.length = (0, 0) ∧
      (imageStatus sLoadReq (bytesLE 104 0) 104).1 ≠ 0 ∧ (bytesLE 104 0).length = reqPay sLoadReq 0 8 8) ∧
    (takenB (sSlot 15 0) 0 0x210 = true ∧ reqPay (sSlot 15 0) 0 8 1 ≤ 15 ∧ slotOk (reqSlot (sSlot 15 0) 0) = true ∧
      bitAt (reqPay (sSlot 15 0) 0 0 8) 1 = true ∧ bitAt (reqPay (sSlot 15 0) 0 0 8) 2 = false ∧
      takenB (sSlot 16 0) 0 0x210 = true ∧ 15 < reqPay (sSlot 16 0) 0 8 1 ∧ slotOk (reqSlot (sSlot 0 15) 0) = false) := by
  decide +kernel

theorem witness_ProgramsAreLoaded_maps : ∀ t < 64, tileMapOk sLoadReq t = true := maps_of (by decide +kernel)

/-- A state whose launch at count 65536 is accepted: an image, the ring locked. -/
def sArm : State := { regSetBits State.reset ringStat 1 0 1 with image := some ⟨[(0, 0, 0, 0)], 1⟩ }
def sLaunch (s : State) : State := asks s 0 1 0x30 (bytesLE 16 (65536 + 1 <<< 64 + 9 <<< 96))

theorem witness_RunsAreControlled :
    (takenB (sLaunch sArm) 0 0x300 = true ∧ reqPay (sLaunch sArm) 0 8 1 ≤ 1 ∧ pwrState (sLaunch sArm) ≤ 1 ∧
      (sLaunch sArm).plane.run = .idle ∧ (sLaunch sArm).image.isSome = true ∧ mapsUntouched (sLaunch sArm) = true ∧
      reqPay (sLaunch sArm) 0 0 8 % 128 = 0 ∧ (sLaunch sArm).count + 65536 ≤ reqPay (sLaunch sArm) 0 0 8 ∧
      ringState (sLaunch sArm) = 1 ∧ takenB (sLaunch State.reset) 0 0x300 = true ∧
      launchStatus (sLaunch State.reset) (reqPay (sLaunch State.reset) 0 0 8) ≠ 0) ∧
    (takenB (asks (runAs State.reset .running) 0 1 0x31 []) 0 0x310 = true ∧
      takenB (asks (runAs State.reset .idle) 0 1 0x31 []) 0 0x310 = true) ∧
    (let s := asks (runAs State.reset .paused) 0 1 0x32 (bytesLE 8 65536)
     takenB s 0 0x320 = true ∧ s.count + 65536 ≤ reqPay s 0 0 8) ∧
    (let s := asks (runAs State.reset .paused) 0 1 0x32 (bytesLE 8 65535)
     takenB s 0 0x320 = true ∧ reqPay s 0 0 8 < s.count + 65536) ∧
    takenB (asks State.reset 0 1 0x32 (bytesLE 8 65536)) 0 0x320 = true ∧
    (∀ r ∈ [RunState.idle, .armed, .running, .paused],
      let s := asks (runAs State.reset r) 0 1 0x33 (bytesLE 8 9)
      takenB s 0 0x330 = true ∧ pwrState s ≤ 1) := by decide +kernel

/-- So the launch is accepted. -/
theorem test_launchStatus : launchStatus (sLaunch sArm) 65536 = 0 := by
  have h : ∀ t ∈ tileDies, tileMapOk (sLaunch sArm) t = true := fun t m => maps_of (by decide +kernel) t (List.mem_range.1 m)
  have h' : tileDies.any (fun t => !tileMapOk (sLaunch sArm) t) = false := by
    rw [List.any_eq_false]
    intro t m
    simp [h t m]
  unfold launchStatus
  rw [h']
  decide +kernel

theorem witness_PowerStatesAreSet :
    (∀ x ∈ [1, 2, 3], takenB (asks (powered State.reset x) 0 1 0x40 (bytesLE 8 1)) 0 0x401 = true ∧
      pwrState (asks (powered State.reset x) 0 1 0x40 (bytesLE 8 1)) = x) ∧
    (∀ r ∈ [RunState.idle, .paused, .armed, .running],
      let s := asks (runAs State.reset r) 0 1 0x40 (bytesLE 8 0x101)
      takenB s 0 0x402 = true ∧ pwrState s = 0 ∧ s.plane.run = r) ∧
    (∀ x ∈ [(0x201, 0x403), (0x301, 0x404)],
      let s := asks State.reset 0 1 0x40 (bytesLE 8 x.1)
      takenB s 0 x.2 = true ∧ pwrState s = 0 ∧ s.plane.run = .idle) ∧
    soundpostRuns State.reset = true ∧ spillEmpty State.reset = true ∧
    spillEmpty (modBridge State.reset 64 (fun b => { b with lines := [5] })) = false := by decide +kernel

theorem witness_PowerStatesAreSet_canonical :
    Canonical (asks (powered State.reset 2) 0 1 0x40 (bytesLE 8 1)) ∧
    Canonical { asks State.reset 0 1 0x40 (bytesLE 8 0x201) with exec := { State.reset.exec with draining := some 0 } } := by
  unfold Canonical; decide +kernel

theorem test_power_a1 : after (exec (.powerSetA1 0) (asks State.reset 0 1 0x40 (bytesLE 8 0x101))) (fun t =>
    pwrState t = 1 && memNat (mbx t 0).mem 0x820 4 % 8 = 1) = true := by decide +kernel

theorem test_a2_gate : after (exec .a2TileGate (let s := asks s0 0 1 0x40 (bytesLE 8 0x201)
    { s with exec := { s.exec with draining := some 0 } })) (fun t => pwrState t = 2 && t.cores = [] && mbxState t 0 = 2) = true := by
  decide +kernel

/-- The measurement log holds three bytes; offset 3 is its end. -/
def sLogged (o : Nat) : State :=
  let s := asks State.reset 0 1 0x50 (bytesLE 40 (1 <<< 256 + o <<< 288))
  { s with booted := { s.booted with log := [1, 2, 3] } }

theorem witness_TelemetryAndAttestationAnswer :
    (let s := asks State.reset 0 1 0x41 (bytesLE 8 0x6301)
     takenB s 0 0x411 = true ∧ isBridge (reqPay s 0 1 1) = true ∧ dieLive s (reqPay s 0 1 1) = true ∧ pwrState s ≤ 1) ∧
    (let s := asks State.reset 0 1 0x41 (bytesLE 8 0x6401)
     takenB s 0 0x411 = true ∧ isBridge (reqPay s 0 1 1) = false) ∧
    (∀ o ∈ [2, 3], takenB (sLogged o) 0 0x501 = true ∧ reqPay (sLogged o) 0 36 4 = o) ∧ (sLogged 3).booted.log.length = 3 := by
  decide +kernel

theorem test_attest_log : after (exec (.attestLog 0) (sLogged 2)) (fun t => memRead (mbx t 0).mem 0x820 5 = [3, 0, 0, 0, 3]) = true ∧
    after (exec (.attestLog 0) (sLogged 3)) (fun t => memNat (mbx t 0).mem 0x802 2 = 0x58) = true := by decide +kernel

/-- The public key of the private scalar 7, as 64 bytes, and the signature with it over the head below (computed outside the model). -/
def signer : List Byte := bytesBE 64 0x8e533b6fa0bf7b4625bb30667c01fb607ef9f8b8a80fef5b300628703187b2a373eb1dbde03318366d069f83a6f5900053c73633cb041b21c55e1a86c1f400b4
def sigA : List Byte := bytesBE 64 0x51590b7a515140d2d784c85608668fdfef8c82fd1f5be52421554a0dc3d033edd4627033272ea222814c517865804e6af642747cd166af7a4ce98f7fc8f34dd6

/-- A user container of version 4: an empty DEFAULTS section; and the piece of a factory container that names its signer. -/
def userBody : List Byte := bytesLE 16 (3 + 0x110 <<< 32)
def userHead : List Byte := ([0x4D, 0x51, 0x4E, 0x56] : List Byte) ++ bytesLE 4 0x10002 ++ bytesLE 8 0x110 ++ bytesLE 16 (4 <<< 32 + 1 <<< 64) ++
  sha256 userBody ++ signer
def userImage : List Byte := userHead ++ sigA ++ bytesLE 64 0 ++ userBody
def factoryStub : List Byte := bytesLE 256 (1 <<< 192) ++ bytesLE 16 (8 + 0x110 <<< 32 + 32 <<< 64) ++ sha256 signer

/-- It boots under counters of zero. -/
theorem witness_userStatus : userStatus factoryStub 0 0 userImage = 0 := by decide +kernel

/-- A module whose factory names that signer; requests to write region 1, and to make it or the other region the one to boot. -/
def sUpdate (s : State) (pay n : Nat) : State :=
  asks { s with booted := { s.booted with factory := factoryStub } } 0 1 0x70 (bytesLE 32 (pay + n <<< 128))

theorem witness_ResetAndUpdateCommandsComplete :
    regBits (regSetBits State.reset (dcs SP 0x20) 2 0 7) (dcs SP 0x20) 2 0 = 7 ∧
    (let s := asks (setLinkState State.reset 99 0) 0 1 0x60 (bytesLE 16 (2 + 2 ^ 35 <<< 64))
     takenB s 0 0x602 = true ∧ isBridge 99 = true ∧ dieLive s 99 = true ∧ linkState s 99 ≠ lsUP ∧
       reqPay s 0 8 8 % 2 ^ 36 = 2 ^ (99 - 64)) ∧
    (let s := sUpdate State.reset 0x101 userImage.length
     takenB s 0 0x701 = true ∧ reqPay s 0 1 1 = 1 ∧ reqPay s 0 8 8 % 64 = 0 ∧ s.booted.user = none ∧
       userImage.length = reqPay s 0 16 8 ∧ s.booted.factory = factoryStub ∧ s.flash.rpa.userArb = 0 ∧ s.flash.rpa.fwArb = 0) ∧
    (userStatus factoryStub 0 0 (bytesLE 8 5) ≠ 0 ∧ takenB (sUpdate State.reset 0x101 8) 0 0x701 = true) ∧
    takenB (sUpdate State.reset 0x102 0) 0 0x702 = true ∧ reqPay (sUpdate State.reset 0x102 0) 0 1 1 ≤ 1 ∧
    (∀ u ∈ [none, some (0, userImage)],
      let s := sUpdate { State.reset with booted := { State.reset.booted with user := u } } 3 0
      takenB s 0 0x703 = true ∧ reqPay s 0 1 1 ≤ 1 ∧ s.booted.user = u) := by decide +kernel

/-- Whatever is programmed keeps its counter; a container of version 4 raises the counter to 4. -/
theorem test_commit : after (exec (.updateImageCommit 0) (sUpdate { State.reset with booted := { State.reset.booted with
    user := some (0, userImage) } } 3 0)) (fun t => t.flash.rpa.userArb = 4) = true := by decide +kernel

-- Tuning, MUTE, scan ------------------------------------------------------------------------------------------------

def sRingIn (x : Nat) : State := regSetBits State.reset ringStat 1 0 x
def sMaster : State := regSetBits State.reset ringCtl 0 0 1
def goodRun (s : State) (good bad : Nat) : State := { s with ring := { s.ring with good := good, bad := bad } }
def calmB (s : State) : Bool :=
  soundpostRuns s && decide (s.plane.run = .idle) && decide (muteState s ≠ 1) && decide (∀ e ∈ s.cores, sparseRuns e.2 = false)
theorem calm_of {s : State} (h : calmB s = true) : Calm s := by
  simp only [calmB, Bool.and_eq_true, decide_eq_true_eq, and_assoc] at h
  exact { runs := h.1, idle := h.2.1, unarmed := h.2.2.1, still := h.2.2.2 }
def isNear (s : State) (w : SyncWord) : Bool :=
  decide (((s.count : Int) - ((w.count.toNat + regBits s ringCtl 23 8 : Nat) : Int)).natAbs ≤ 2)

theorem witness_RingFollowsItsWords : Calm sMaster ∧ Calm (sRingIn 1) ∧ Served sHost TUN ∧ regBits sMaster ringCtl 0 0 = 1 ∧
    (∀ x ∈ [0, 1, 2, 3], (sRingIn x).life = .up ∧ (sRingIn x).muted = false ∧ regBits (sRingIn x) ringCtl 0 0 = 0 ∧
      ringState (sRingIn x) = x) ∧
    isNear (sRingIn 0) (syncWord 2 false) = true ∧ isNear (sRingIn 0) (syncWord 3 false) = false ∧
    syncValid (syncWord 2 false) = true ∧ syncValid ⟨2, 0, 0, true⟩ = false ∧ syncOpen (syncWord 3 true) = true ∧
    (∀ g ∈ [(14, 0), (15, 3)], (goodRun (sRingIn 0) g.1 g.2).ring.good = g.1 ∧ (goodRun (sRingIn 1) g.1 g.2).ring.bad = g.2) ∧
    regBits (sRingIn 2) ringCtl 2 2 = 0 ∧ soundpostRuns State.reset = true ∧ { State.reset with life := .released }.life ≠ .up ∧
    (sMaster.life = .up ∧ sMaster.muted = false) :=
  ⟨calm_of (by decide +kernel), calm_of (by decide +kernel), served_of (by decide +kernel), by decide +kernel⟩

theorem test_ring_locks : after (exec (.syncReceive (syncWord 2 false)) (goodRun (sRingIn 0) 15 0)) (fun t => ringState t = 1) = true ∧
    after (exec (.syncReceive (syncWord 9 false)) (goodRun (sRingIn 1) 0 3)) (fun t => ringState t = 0 && regBits t ringStat 15 8 = 247) = true ∧
    after (exec (.syncReceive (syncWord 9 false)) (sRingIn 0)) (fun t => t.count = 9) = true ∧
    after (exec (.syncReceive ⟨9, 0, 0, true⟩) (sRingIn 0)) (fun t => t.count = 0 && t.out = [.sync ⟨9, 0, 0, true⟩]) = true := by decide +kernel

/-- MUTE armed at count 1024; a muted module, and one whose segment 3 is out of its place. -/
def sMuteAt (n : Nat) : State := regPutNat sHost (dcs TUN 0x100) n 2
def sMuteArmed : State := regSetBits { sMuteAt 1024 with mute := { Mute.reset with due := 1024 } } muteCtl 3 2 1
def scanned : State := { sMuted with mute := { sMuted.mute with scan := [(3, 1)] } }
def pinLow (s : State) : State := { s with pins := { s.pins with muteN := false } }

theorem witness_MuteStopsAndResumes :
    (∀ s ∈ [sMuteAt 1024, sMuteAt 1023, sMuteArmed], servedB s TUN = true ∧ pwrState s ≤ 1 ∧ s.count = 0 ∧ soundpostRuns s = true ∧
      s.plane.run = .idle ∧ s.pins.muteN = true) ∧
    muteAt (sMuteAt 1024) = 1024 ∧ muteState (sMuteAt 1024) = 0 ∧ muteAt (sMuteAt 1023) = 1023 ∧ muteState sMuteArmed = 1 ∧
    sMuteArmed.mute.due = 1024 ∧
    (∀ s ∈ [sMuted, scanned], s.muted = true ∧ s.pins.muteN = true ∧ (pinLow s).pins.muteN = false ∧ s.mute.thaw = false ∧
      s.mute.waiting = []) ∧ sMuted.mute.scan = [] ∧ scanned.mute.scan ≠ [] ∧
    (∀ e ∈ sMuteArmed.cores, sparseRuns e.2 = false) ∧
    { sMuted with mute := { sMuted.mute with thaw := true } }.mute.thaw = true := by decide +kernel

theorem test_mute : after (exec .muteArm (sMuteAt 1024)) (fun t => muteState t = 1) = true ∧
    after (exec .muteArm (sMuteAt 1023)) (fun t => muteState t = 0 && regBits t muteCtl 1 1 = 1) = true ∧
    after (exec .muteArm (regSetBits { sMuteAt 2048 with mute := { Mute.reset with due := 1280 } } muteCtl 4 0 0b10101))
      (fun t => t.mute.due = 1280 && regBits t muteCtl 4 4 = 1) = true ∧
    after (exec .muteNFall { State.reset with count := 193 }) (fun t => muteAt t = 512) = true ∧
    after (exec .muteNFall { State.reset with count := 192 }) (fun t => muteAt t = 256) = true := by decide +kernel

/-- A muted module whose lifecycle image has set DBG, and one without. -/
def sScan : State := { regSetBits State.reset (dcs SP 0x480) 0 0 1 with muted := true }

theorem witness_ScanReadsTheFrozenModule : scanOpen sScan = true ∧ sScan.muted = true ∧ scanOpen sMuted = false ∧ sMuted.muted = true ∧
    s0.muted = false ∧ sScan.life = .up := by decide +kernel

/-- The identity code of the test access port as the spec writes it (18 R479). -/
theorem test_idcode : tapIdcode = 0x14810C4F#32 := by decide

theorem test_instrument : after (exec (.memoryInstrumentRead 0 .localStore 8) { sScan with cores := s0.cores }) (fun t =>
    t.out = [.instrument 0x1122334455667788 false false]) = true := by decide +kernel

theorem witness_ScanReadsTheFrozenModule_marks : (coreOf { sScan with cores := s0.cores } 0).ecc.marks = [] := by decide +kernel

/-- The BMC's offset stands 32 bytes from the end; the alert is raised. -/
def sSmb : State := { State.reset with smbAt := 4064, pins := { State.reset.pins with smbAlertN := false } }

theorem witness_SmbusTransfersComplete : smbAnswers { State.reset with life := .released } = true ∧ smbAnswers sSmb = true ∧
    ((4092#16).toNat % 4 = 0 ∧ (4092#16).toNat < 4096) ∧ (4096#16).toNat ≥ 4096 ∧ mbxState sSmb 15 = 0 ∧ sSmb.smbAt + 32 ≤ 4096 ∧
    sSmb.pins.smbAlertN = false ∧ State.reset.pins.smbAlertN = true ∧ smbAnswers sMuted = false := by decide +kernel

theorem test_smbus : after (exec (.smbBlockWrite (bytesLE 32 (7 <<< 248)) true) sSmb) (fun t =>
      t.smbAt = 4096 && memByte (mbx t 15).mem 4095 = 7) = true ∧
    goesTo (exec (.smbBlockRead true) { State.reset with smbAt := 4092 })
      { State.reset with smbAt := 4096, out := [.smbus true [0, 0, 0, 0]] } = true ∧
    after (exec (.statusWord true) (powered (regSetBits State.reset (dcs SP 0x200030) 31 0 54000) 4)) (fun t =>
      t.out = [.smbus true [64, 0]]) = true := by decide +kernel

-- The block as a whole ----------------------------------------------------------------------------------------------

theorem witness_PredicatedOffChangesNothing : rowPred (.add 0 whenP0 fR) = some (0, whenP0) ∧ Ready s0 0 ∧
    executes (coreOf s0 0) whenP0 = false := ⟨rfl, s0_ready, s0_off⟩

theorem test_predicated_off : goesTo (exec (.add 0 whenP0 fR) s0) (afterIssue s0 0 nSIU (fun k => k)) = true ∧
    goesTo (exec (.add 0 whenP0 { fR with rd := 32 }) s0) (coreFault (spent s0 0) 0 0x01 0 0) = true := by decide +kernel

/-- The scalar unit is occupied in cycle 0. -/
def sBusy : State := atCore { k0 with busy := [⟨.siu, 0, 1⟩] }

theorem witness_IllegalOperandsAndOccupiedUnitsFault : Ready s0 0 ∧ 32 ≤ (32#6).toNat ∧ Ready sBusy 0 ∧
    needClash (coreOf sBusy 0) sBusy.plane.cyc ⟨.siu, 0, 1⟩ = true ∧ 5 < (6#6).toNat :=
  ⟨s0_ready, by decide, ready_of (by decide +kernel), by decide +kernel, by decide⟩

theorem witness_CoreFaultHaltsPlane : (coreOf s0 0).fault.code = 0 ∧ s0.plane.halted = none ∧
    (coreOf (coreFault s0 0 2 0 0) 0).fault.code ≠ 0 := by decide +kernel

theorem test_fault_first_stays : (coreOf (coreFault (coreFault s0 0 2 5 6) 0 1 7 8) 0).fault = ⟨2, 5, true, 6⟩ := by decide +kernel

/-- EveryStepKeepsTheCanonicalForm and CountersNeverFall: a state with a command in front, whose step goes on. -/
def sFront : State := { s0 with pending := [.add 0 always fR, .nop 0] }
theorem witness_steps : step sFront = .next (afterIssue { s0 with pending := [.nop 0] } 0 nSIU (fun k =>
    { k with wb := k.wb ++ [⟨1, .s 7, 0x7F800000⟩] })) := by
  have h : goesTo (exec (.add 0 always fR) { s0 with pending := [.nop 0] }) (afterIssue { s0 with pending := [.nop 0] } 0 nSIU (fun k =>
      { k with wb := k.wb ++ [⟨1, .s 7, 0x7F800000⟩] })) = true := by decide +kernel
  show exec (.add 0 always fR) { s0 with pending := [.nop 0] } = _
  revert h
  generalize exec (.add 0 always fR) { s0 with pending := [.nop 0] } = o
  cases o <;> simp [goesTo]

theorem witness_steps_canonical : Memory.wf sFront.dram = true ∧ smWf none sFront.regs = true ∧ smWf Core.reset sFront.cores = true ∧
    smWf Bridge.reset sFront.bridges = true ∧ smWf Tile.reset sFront.tiles = true ∧ smWf Mailbox.reset sFront.mbx = true ∧
    sFront.a2Saved = [] := by decide +kernel

/-- OnlyAbsentUnitsAreRefused: a well-formed command, one that carries bytes of another length than its descriptor's, and a core
that does not exist. -/
theorem witness_OnlyAbsentUnitsAreRefused : (Instr.copyDescriptorDone 1 [0]).wf = true ∧
    rowPred (.add 1048576 always fR) = some (1048576, always) ∧ (Instr.add 1048575 always fR).wf = true := by decide +kernel

theorem test_bulk_length : (match exec (.copyDescriptorDone 1 [0]) (sCopy toDram) with | .fault (.illFormed _) => true | _ => false) = true := by
  decide +kernel

-- Words and paths ---------------------------------------------------------------------------------------------------

/-- Predicated on p2 being true. -/
def onP2 : Pred := ⟨true, false, 2⟩
def pBits : Nat := 1 <<< 55 + 2 <<< 51
def wordR (opc rm ty rd ra rb rc fn : Nat) : BitVec 64 :=
  BitVec.ofNat 64 (opc <<< 56 + pBits + rm <<< 48 + ty <<< 43 + 1 <<< 42 + rd <<< 36 + ra <<< 30 + rb <<< 24 + rc <<< 18 + fn <<< 12)
def wordI (opc sz rd ra fn imm : Nat) : BitVec 64 :=
  BitVec.ofNat 64 (opc <<< 56 + pBits + sz <<< 48 + rd <<< 42 + ra <<< 36 + fn <<< 32 + imm)
def fieldsR (fn : BitVec 6) : FmtR := { rm := 2, ty := 1, sat := true, rd := 7, ra := 33, rb := 20, rc := 9, fn := fn }
def fieldsI (fn : BitVec 4) : FmtI := { sz := 2, rd := 7, ra := 33, fn := fn, imm := 0x89ABCDEF }

/-- One word of every family, its fields at the places 05 R133 and R138 give them (opcodes: 05 R140 to R150, R155; 06 R181). -/
theorem test_decode_formatR :
    [wordR 0x08 2 1 7 33 20 9 12, wordR 0x09 2 1 7 33 20 9 5, wordR 0x0A 2 1 7 33 20 9 3, wordR 0x18 2 1 7 33 20 9 3,
      wordR 0x19 2 1 7 33 20 9 13, wordR 0x1A 2 1 7 33 20 9 4, wordR 0x20 2 1 7 33 20 9 11, wordR 0x23 2 1 7 33 20 9 12,
      wordR 0x27 2 1 7 33 20 9 1, wordR 0x28 2 1 7 33 20 9 7, wordR 0x3E 2 1 7 33 20 9 2].map (decodeInsn 3) =
    [Instr.mul 3 onP2 (fieldsR 12), .icmp 3 onP2 (fieldsR 5), .pnot 3 onP2 (fieldsR 3), .ffma 3 onP2 (fieldsR 3),
      .fcmp 3 onP2 (fieldsR 13), .fcvt 3 onP2 (fieldsR 4), .vfabs 3 onP2 (fieldsR 11), .vmul 3 onP2 (fieldsR 12),
      .vext 3 onP2 (fieldsR 1), .vdqeb4 3 onP2 (fieldsR 7), .mscale 3 onP2 (fieldsR 2)].map some := by decide +kernel

theorem test_decode_formatI :
    [wordI 0x10 2 7 33 7 0x89ABCDEF, wordI 0x12 2 7 33 0 0x89ABCDEF, wordI 0x30 2 7 33 0 0x89ABCDEF,
      wordI 0x33 2 7 33 0 0x89ABCDEF, wordI 0x35 2 7 33 1 0x89ABCDEF, wordI 0x36 2 7 33 0 0x89ABCDEF,
      wordI 0x37 2 7 33 5 0x89ABCDEF, wordI 0x3D 2 7 33 1 0x89ABCDEF, wordI 0x50 2 7 33 0 0x89ABCDEF,
      wordI 0x54 2 7 33 0 0x89ABCDEF].map (decodeInsn 3) =
    [Instr.srai 3 onP2 (fieldsI 7), .csrr 3 onP2 (fieldsI 0), .ld 3 onP2 (fieldsI 0), .sst 3 onP2 (fieldsI 0),
      .smsendv 3 onP2 (fieldsI 1), .outpost 3 onP2 (fieldsI 0), .lbarm 3 onP2 (fieldsI 5), .mset 3 onP2 (fieldsI 1),
      .spdot 3 onP2 (fieldsI 0), .spmerge 3 onP2 (fieldsI 0)].map some := by decide +kernel

theorem test_decode_formats :
    [BitVec.ofNat 64 (0x38 <<< 56 + 1 <<< 50 + 1 <<< 48 + 3 <<< 43 + 9 <<< 38 + 2 <<< 36 + 40 <<< 30 + 5 <<< 27 + 1 <<< 25 +
        1 <<< 23 + 1 <<< 22),
      BitVec.ofNat 64 (0x3C <<< 56 + 1 <<< 43 + 33 <<< 36 + 3 <<< 33 + 48 <<< 27 + 1 <<< 26 + 2 <<< 24),
      BitVec.ofNat 64 (0x06 <<< 56 + 9 <<< 36 + 0x1F00F), BitVec.ofNat 64 (0x4C <<< 56 + 63 <<< 42 + 9 <<< 36 + 0x12345678)].map
        (decodeInsn 3) =
    [Instr.mma 3 always { sr := true, mode := 1, tya := 3, tyb := 9, acc := 2, ent := 40, esel := 5, msb := 1, af := 1, init := true },
      .accrd 3 always { ty := 1, rv := 33, acc := 3, ent := 48, latch := true, af := 2 },
      .brr 3 always { ra := 9, mask := 0x1F00F, target := 0x00F }, .gthV 3 always { ct := 63, ra := 9, imm := 0x12345678 }].map some := by
  decide +kernel

/-- Unlisted opcodes and functions spell nothing. -/
theorem test_decode_none : ([wordR 0x07 0 0 0 0 0 0 0, wordR 0x08 0 0 0 0 0 0 15, wordR 0x0A 0 0 0 0 0 0 4, wordI 0x10 0 0 0 1 0,
    wordI 0x35 0 0 0 2 0, wordI 0x56 0 0 0 0 0, wordI 0xFF 0 0 0 0 0].map (fun w => (decodeInsn 0 w).isNone)).all id = true := by
  decide +kernel

/-- LI of 0x12345678 to s7 stands at index 0 of core 0, an unlisted opcode at index 1. -/
def kCode : Core :=
  { k0 with is := memWrite [] 0 (bytesLE 8 (0x11 <<< 56 + 7 <<< 42 + 0x12345678) ++ bytesLE 8 (0x07 <<< 56)) }

theorem sCode_ready (i : Nat) (h : i < 2) : Ready (atCore { kCode with pc := i }) 0 := by
  have : ∀ i < 2, readyB (atCore { kCode with pc := i }) 0 = true := by decide +kernel
  exact ready_of (this i h)

/-- StepRunsFrontCommand: an instruction at the core's index, and a word that spells none. -/
theorem witness_StepRunsFrontCommand : (∀ i < 2, Ready (atCore { kCode with pc := i }) 0 ∧ Canonical (atCore { kCode with pc := i })) ∧
    decodeInsn 0 (fetchWord (coreOf (atCore kCode) 0)) =
      some (.li 0 always { sz := 0, rd := 7, ra := 0, fn := 0, imm := 0x12345678 }) ∧
    decodeInsn 0 (fetchWord (coreOf (atCore { kCode with pc := 1 }) 0)) = none ∧ 0x07 ∉ opcodes := by
  refine ⟨fun i h => ⟨sCode_ready i h, ?_⟩, by decide +kernel⟩
  have : ∀ i < 2, smWf Core.reset (atCore { kCode with pc := i }).cores = true := by decide +kernel
  exact ⟨rfl, rfl, this i h, rfl, rfl, rfl, rfl, fun _ h => by cases h⟩

/-- The core issues its word by itself; a cycle later the result stands in its register. -/
theorem test_fetch : after (step (atCore kCode)) (fun t => sGet (coreOf t 0) 7 = 0x12345678 && (coreOf t 0).pc = 1) = true ∧
    after (step (atCore { kCode with pc := 1 })) (fun t => (coreOf t 0).fault.code = 1) = true := by decide +kernel

/-- Attachments and ring positions from the tables of 01 R14 and R16, a way of 20 segments, and one over the dateline (01 R17, R18). -/
theorem test_paths : (List.range 36).map (fun n => attachTile (64 + n)) =
      [0, 0, 1, 2, 3, 4, 5, 6, 7] ++ [7, 7, 15, 23, 31, 39, 47, 55, 63] ++ [63, 63, 62, 61, 60, 59, 58, 57, 56] ++
        [56, 56, 48, 40, 32, 24, 16, 8, 0] ∧
    [APL, 64, 72, SP, 73, 81, SEC, 82, 90, TUN, 91, 99].map ringPos = [0, 1, 9, 10, 11, 19, 20, 21, 29, 30, 31, 39] ∧
    (ringWay 64 82).map (·.1) = (List.range 20).map (· + 2) ∧ ringWay 64 99 = [(0, false), (39, true)] := by decide +kernel

-- Ill-formed commands -----------------------------------------------------------------------------------------------

/-- One command beyond each bound that WellFormed states. -/
def illFormed : List Instr :=
  [.nop 1048576, .add 1048576 always fR, .governorPeriod ⟨2 ^ 32, 0, 0, 0, 0, 0, 0⟩, .governorPeriod ⟨0, 0, 0, 0, 104, 0, 0⟩,
   .governorPeriod ⟨0, 0, 0, 32768, 0, 0, 0⟩, .governorPeriod ⟨0, 0, 0, 0, 0, -32769, 63⟩, .governorPeriod ⟨0, 0, 0, 0, 0, 0, 64⟩,
   .linkEnable 63, .linkDisable 100, .linkGroupReceive 64 ⟨0, 0, BitVec.ofNat 320 (2 <<< 36), [0]⟩, .linkGroupReceive 64 ⟨9, 8, 0, []⟩,
   .linkGroupReceive 64 ⟨1, 0, 0, List.replicate 161 0⟩, .frameAdmit 64 .link 12, .refill 64 1800, .egressSelect 64 1,
   .egressSelect 64 75, .frameDepart 64 35, .policerRelease 64 0, .policerRelease 101 4, .frameLand 64, .spart 63, .sdown 100,
   .tokenSend 64, .rdS (2 ^ 43), .rdS 8, .rdNc 0 7, .rdNc 60 8, .wrNc 0 [true] (List.replicate 8 0), .wb 0 [0], .binvAck 32,
   .binvWb 0 [0], .copyDoorbell 4 0, .copyDescriptor 0 (some [0]), .epochWrite 63 0, .policerCommit 99 0,
   .saddleSlotWrite (BitVec.ofNat 32 (dcs 64 0x101028)) 8 0, .saddleSlotWrite (BitVec.ofNat 32 (dcs 64 0x104000)) 8 0,
   .saddleSlotWrite (BitVec.ofNat 32 (dcs 63 0x101000)) 8 0, .mbxGo 16 .apeno, .mbxGo 14 .smbus, .mbxAck 14 .smbus, .sessionNonce 16,
   .launch 16, .scanShift 140, .memoryInstrumentRead 1048576 .localStore 0, .memoryInstrumentRead 0 .localStore 6144,
   .memoryInstrumentRead 0 .instrStore 2048, .memoryInstrumentRead 0 .accumulator 256, .smbBlockWrite [0, 0, 0] true,
   .smbBlockWrite (List.replicate 36 0) true, .smbBlockWrite (List.replicate 6 0) true]

theorem test_ill_formed : ∀ i ∈ illFormed, i.wf = false := by decide +kernel

/-- The model stops on each by name. -/
def stops (o : Out) : Bool := match o with | .next _ => false | _ => true
theorem test_ill_formed_stop : ∀ i ∈ illFormed, stops (exec i State.reset) = true := by decide +kernel

/-- The commands at the bounds themselves are well-formed. -/
theorem test_well_formed : ∀ i ∈ [Instr.nop 1048575, .governorPeriod ⟨2 ^ 32 - 1, 0, 0, 32767, 103, -32768, 63⟩, .linkEnable 64,
    .linkDisable 99, .frameAdmit 99 .link 11, .refill 64 1799, .egressSelect 64 0, .egressSelect 64 74, .policerRelease 63 3,
    .policerCommit 100 0, .sdown 99, .rdNc 56 8, .rdS (2 ^ 43 - 64), .mbxGo 15 .smbus, .scanShift 139,
    .saddleSlotWrite (BitVec.ofNat 32 (dcs 99 0x103FFC)) 4 0, .memoryInstrumentRead 0 .accumulator 255,
    .smbBlockWrite (List.replicate 32 0) true], i.wf = true := by decide +kernel

theorem witness_ControlSpaceAndFabricSettingsComplete_session : State.reset.life = .up ∧ State.reset.muted = false ∧
    hostSession State.reset = false ∧ sessionExempt (dcs SP 0x880) = false ∧ sessionExempt (dcs SP 0x87C) = true ∧
    mbxState State.reset 15 = 0 ∧ 0xFFC < 0x1000 := by decide +kernel

theorem witness_rollback : fieldLE userImage 0x14 4 < 5 := by decide +kernel

end Sys2Proof.Tests
end

section
/-! SUPPORT. The values of the registers after reset (00 R6, R8), and the registers no software write changes. -/
namespace Sys2Proof.Machine

-- Addresses of the device control space ------------------------------------------------------------------------------

theorem dcs_lt {d o : Nat} (hd : d < 256) (ho : o < 2 ^ 24) : dcs d o < 2 ^ 32 := by unfold dcs; omega
theorem dcs_div {d o : Nat} (ho : o < 2 ^ 24) : dcs d o / 2 ^ 24 = d := by unfold dcs; omega
theorem dcs_mod {d o : Nat} (ho : o < 2 ^ 24) : dcs d o % 2 ^ 24 = o := by unfold dcs; omega
theorem dcs_add (d o i : Nat) : dcs d o + i = dcs d (o + i) := Nat.add_assoc ..

/-- A register is looked up by the kind of its die and its offset alone. -/
theorem findReg_dcs {d o : Nat} {k : DieKind} (hd : dieKind d = some k) (ho : o < 2 ^ 24) :
    findReg (dcs d o) = findIn regTable k o := by
  rw [findReg, dcs_div ho, dcs_mod ho, hd]

theorem dieKind_tile {d : Nat} (h : d < 64) : dieKind d = some .tile := by simp [dieKind, h]
theorem dieKind_bridge {d : Nat} (h : 64 ≤ d) (h' : d < 100) : dieKind d = some .bridge := by
  simp [dieKind, Nat.not_lt.mpr h, h']

-- Words gathered from fields -----------------------------------------------------------------------------------------

theorem wordOfFields_congr {u v : RegField → Nat} {w : Nat} {fs : List RegField} (h : ∀ f ∈ fs, u f = v f) :
    wordOfFields u w fs = wordOfFields v w fs := by
  induction fs with
  | nil => rfl
  | cons f fs ih =>
    rw [List.forall_mem_cons] at h
    rw [wordOfFields, wordOfFields, h.1, ih h.2]

theorem maskOf_none {q : RegField → Bool} (w : Nat) {fs : List RegField} (h : ∀ f ∈ fs, q f = false) : maskOf q w fs = 0#32 := by
  have hz : wordOfFields (fun _ => 0) w fs = 0 := by
    induction fs with
    | nil => rfl
    | cons f fs ih => simp [wordOfFields, ih fun g hg => h g (List.mem_cons_of_mem _ hg)]
  rw [maskOf, wordOfFields_congr (v := fun _ => 0) fun f hf => by simp [h f hf], hz]

-- Read-only registers ------------------------------------------------------------------------------------------------

/-- A software write leaves a word all of whose fields are read-only. -/
theorem writtenWord_readOnly {r : RegDef} (h : ∀ f ∈ r.fields, f.acc = .ro) (w : Nat) (old v : Word) :
    writtenWord r w old v = old := by
  have hrw : maskOf (fun f => f.acc = .rw) w r.fields = 0#32 := maskOf_none w fun f hf => by simp [h f hf]
  have hw1 : maskOf (fun f => f.acc = .w1c) w r.fields = 0#32 := maskOf_none w fun f hf => by simp [h f hf]
  simp only [writtenWord, hrw, hw1, BitVec.and_zero, BitVec.not_zero, BitVec.and_allOnes, BitVec.or_zero]

theorem regWord_regWrite_readOnly {a : Nat} (h : ∀ x ∈ findReg a, ∀ f ∈ x.1.fields, f.acc = .ro) (s : State) (v : Word) :
    regWord (regWrite s a v) a = regWord s a := by
  unfold regWrite
  split
  · rfl
  · next r w hf => rw [regWord_regPut_same, writtenWord_readOnly (h (r, w) hf)]

-- Reset values that do not depend on the die -------------------------------------------------------------------------

/-- The word at an offset in the dies of a kind has no field that resets to the die ID. -/
def ResetsAlike (k : DieKind) (o : Nat) : Prop := ∀ x ∈ findIn regTable k o, ∀ f ∈ x.1.fields, f.die = false

theorem siliconWord_noDie {r : RegDef} (h : ∀ f ∈ r.fields, f.die = false) (d w : Nat) :
    siliconWord d r w = BitVec.ofNat 32 (wordOfFields RegField.rst w r.fields) := by
  rw [siliconWord, wordOfFields_congr fun f hf => by rw [h f hf, if_neg Bool.false_ne_true]]

/-- Such a word has one reset value in every die of the kind. -/
theorem resetWord_of_resetsAlike {d e o : Nat} {k : DieKind} (hd : dieKind d = some k) (he : dieKind e = some k)
    (ho : o < 2 ^ 24) (h : ResetsAlike k o) : resetWord (dcs d o) = resetWord (dcs e o) := by
  rw [resetWord, resetWord, findReg_dcs hd ho, findReg_dcs he ho]
  split
  · rfl
  · next r w hf => rw [siliconWord_noDie (h (r, w) hf), siliconWord_noDie (h (r, w) hf)]

/-- At reset only registers of the Soundpost and of the security die stand off their silicon values. -/
theorem regWord_reset {a : Nat} (h : a / 2 ^ 24 < 101) : regWord State.reset a = resetWord a := by
  have hsp : 101 * 2 ^ 24 + 0x10 ≠ a := by omega
  have hsec : 102 * 2 ^ 24 ≠ a := by omega
  have hn : smGet none State.reset.regs a = none := (if_neg hsp).trans (if_neg hsec)
  rw [regWord, hn]

/-- A tile or Bridge register reads after reset as in any other die of its kind. -/
theorem regNat_reset_alike {d e : Nat} {k : DieKind} (hd : dieKind d = some k) (he : dieKind e = some k) (hd' : d < 101)
    (he' : e < 101) (n : Nat) {o : Nat} (ho : o + 4 * n ≤ 2 ^ 24) (h : ∀ i < n, ResetsAlike k (o + 4 * i)) :
    regNat State.reset (dcs d o) n = regNat State.reset (dcs e o) n := by
  induction n generalizing o with
  | zero => rw [regNat, regNat]
  | succ n ih =>
    have hw : regWord State.reset (dcs d o) = regWord State.reset (dcs e o) := by
      have ho' : o < 2 ^ 24 := by omega
      rw [regWord_reset (by rwa [dcs_div ho']), regWord_reset (by rwa [dcs_div ho']),
        resetWord_of_resetsAlike hd he ho' (h 0 n.succ_pos)]
    have hs : ∀ i < n, ResetsAlike k (o + 4 + 4 * i) := fun i hi => by
      rw [show o + 4 + 4 * i = o + 4 * (i + 1) by ring]
      exact h (i + 1) (by omega)
    rw [regNat, regNat, hw, dcs_add, dcs_add, ih (by omega) hs]

/-- A field of a Bridge register reads after reset as in Bridge 64. -/
theorem regBits_reset_bridge {d : Nat} (h : 64 ≤ d) (h' : d < 100) {o hi : Nat} (lo : Nat) (ho : o + 4 * (hi / 32 + 1) ≤ 2 ^ 24)
    (ha : ∀ i < hi / 32 + 1, ResetsAlike .bridge (o + 4 * i)) :
    regBits State.reset (dcs d o) hi lo = regBits State.reset (dcs 64 o) hi lo := by
  rw [regBits, regBits, regNat_reset_alike (e := 64) (dieKind_bridge h h') rfl (by omega) (by omega) _ ho ha]

/-- A tile register reads after reset as in tile 0. -/
theorem tileReg_reset {t : Nat} (h : t < 64) {o : Nat} (ho : o < 2 ^ 24) (ha : ResetsAlike .tile o) :
    tileReg State.reset t o = tileReg State.reset 0 o := by
  rw [tileReg, tileReg, regWord_reset (by rw [dcs_div ho]; omega), regWord_reset (by rw [dcs_div ho]; omega),
    resetWord_of_resetsAlike (e := 0) (dieKind_tile h) rfl ho ha]

theorem coreOf_reset (c : Nat) : coreOf State.reset c = Core.reset := rfl

-- The parts of the claim ---------------------------------------------------------------------------------------------

/-- Offset, high bit, low bit and reset value of a Bridge's fields of pools, spill lines and link state (08 R228, R232). -/
def bridgePoolFields : List (Nat × Nat × Nat × Nat) :=
  [(0x108, 14, 0, 16384), (0x108, 29, 16, 8192), (0x108, 43, 32, 3072), (0x108, 59, 48, 2896), (0x118, 39, 32, 128),
   (0x118, 26, 0, 0), (0x030, 2, 0, 0)]

theorem bridgePoolFields_resetAlike :
    ∀ f ∈ bridgePoolFields, ∀ i < f.2.1 / 32 + 1, ResetsAlike .bridge (f.1 + 4 * i) := by
  unfold ResetsAlike
  decide +kernel

/-- The device ID reads the same after any software write (00 R8). -/
theorem regWord_regWrite_deviceId (s : State) (v : Word) :
    regWord (regWrite s (dcs SP 0) v) (dcs SP 0) = regWord s (dcs SP 0) :=
  regWord_regWrite_readOnly (by decide +kernel) s v

/-- Every Bridge's pools, spill lines and link state hold these values after reset, as Bridge 64's do. -/
theorem bridgePoolFields_reset {d : Nat} (h : 64 ≤ d) (h' : d < 100) :
    ∀ f ∈ bridgePoolFields, regBits State.reset (dcs d f.1) f.2.1 f.2.2.1 = f.2.2.2 := by
  have h64 : ∀ f ∈ bridgePoolFields, f.1 + 4 * (f.2.1 / 32 + 1) ≤ 2 ^ 24 ∧
      regBits State.reset (dcs 64 f.1) f.2.1 f.2.2.1 = f.2.2.2 := by decide +kernel
  intro f hf
  obtain ⟨ho, hv⟩ := h64 f hf
  rw [regBits_reset_bridge h h' _ ho (bridgePoolFields_resetAlike f hf), hv]

/-- The offsets of the keys, the module index and the step index in a tile (03 R81). -/
def tileKeyOffsets : List Nat := [0x800, 0x804, 0x808, 0x80C]

theorem tileKeys_resetAlike : ∀ o ∈ tileKeyOffsets, ResetsAlike .tile o := by
  unfold ResetsAlike
  decide +kernel

theorem tileKeys_reset {t : Nat} (h : t < 64) : ∀ o ∈ tileKeyOffsets, tileReg State.reset t o = 0 := by
  have h0 : ∀ o ∈ tileKeyOffsets, o < 2 ^ 24 ∧ tileReg State.reset 0 o = 0 := by decide +kernel
  intro o ho
  obtain ⟨hlt, hv⟩ := h0 o ho
  rw [tileReg_reset h hlt (tileKeys_resetAlike o ho), hv]

/-- The values of a core's registers after reset (02 R42, R66; 03 R81, R85; 05 R157; 06 R181). -/
theorem core_reset (c : Nat) : let k := coreOf State.reset c
    k.mxctl = 0x001700FF#32 ∧ k.fpctl = 0 ∧ k.fpstat = 0 ∧ k.blkuf = 0 ∧ k.mxstat = 0 ∧ k.srseq = 0 ∧ k.pc = 0 ∧
      k.fault = ⟨0, 0, false, 0⟩ ∧ k.capo = 0 ∧ k.outbox = [] ∧ k.spskip = 0 ∧ k.spstat = 0 := by
  rw [coreOf_reset]
  exact ⟨rfl, rfl, rfl, rfl, rfl, rfl, rfl, rfl, rfl, rfl, rfl, rfl⟩

/-- The mailboxes' control registers are zero after reset (14 R379). -/
theorem mailboxes_reset : ∀ n < 16, regWord State.reset (dcs SP (0x800 + 8 * n)) = 0 := by decide +kernel

/-- Settles O60: every core stands at `Core.reset`, every Bridge and tile register in question reads as in one die of its kind, the
device ID is read-only, and what is left are single registers of the Apeno, Soundpost and Tuning dies. That the queue is empty is
log 64; which resets `State.reset` stands after is log 5. -/
theorem resetValues : Obligations.ResetValues := by
  have hid : regWord State.reset (dcs SP 0) = 0x4810A100#32 := by decide +kernel
  refine ⟨fun d o hd ho => ⟨dcs_lt hd ho, dcs_div ho, dcs_mod ho⟩, rfl, hid,
    fun v => (regWord_regWrite_deviceId _ v).trans hid, core_reset, fun d h h' => ?bridges, ?mask, ?pending, mailboxes_reset,
    ?runstat, rfl, ?state, ?history, ?duty, fun t ht => ?tiles, ?mutectl, ?muteat, rfl⟩
  case bridges => simpa [bridgePoolFields] using bridgePoolFields_reset h h'
  case tiles => simpa [tileKeyOffsets] using tileKeys_reset ht
  case mask | pending | runstat | state | history | duty | mutectl | muteat => decide +kernel

end Sys2Proof.Machine
end

section
/-! SUPPORT. What every command answers: a well-formed one a next state, but for those whose bytes may have the wrong length
(01 R12, R29). -/
namespace Sys2Proof.Machine
open Sys2Proof.Safety Sys2Proof.Claims

-- Instruction rows ---------------------------------------------------------------------------------------------------

/-- An instruction row is well-formed when its core exists. -/
theorem wf_of_rowPred {i : Instr} {c : Nat} {p : Pred} (h : rowPred i = some (c, p)) : i.wf = coreOk c := by
  cases i <;> cases h <;> rfl

/-- Every instruction row but STEPEND is an `issue` of its plan. -/
theorem exec_of_rowPred {i : Instr} {c : Nat} {p : Pred} (h : rowPred i = some (c, p)) (s : State) :
    (∃ plan, exec i s = issue c p plan s) ∨ ∃ f, i = .stepend c p f := by
  cases i
  case stepend => cases h; exact .inr ⟨_, rfl⟩
  all_goals cases h <;> exact .inl ⟨_, rfl⟩

/-- An instruction of a core that does not exist is refused (01 R12). -/
theorem exec_row_refused {i : Instr} {c : Nat} {p : Pred} (h : rowPred i = some (c, p)) (hc : coreCount ≤ c) (s : State) :
    exec i s = .refused (.noSuchUnit "core") := by
  obtain ⟨plan, he⟩ | ⟨f, rfl⟩ := exec_of_rowPred h s
  · rw [he, issue_refused hc]
  · exact if_pos hc

/-- A well-formed instruction row answers a next state. -/
theorem exec_row_next {i : Instr} {c : Nat} {p : Pred} (h : rowPred i = some (c, p)) (hw : i.wf = true) (s : State) :
    ∃ t, exec i s = .next t := by
  have hc : c < coreCount := of_decide_eq_true ((wf_of_rowPred h).symm.trans hw)
  obtain ⟨plan, he⟩ | ⟨f, rfl⟩ := exec_of_rowPred h s
  · exact he ▸ issue_next hc
  · exact ⟨_, if_neg (Nat.not_le.mpr hc)⟩

-- The other shells ---------------------------------------------------------------------------------------------------

variable {s : State} {f : State → State}

theorem tileCmd_next {t : Nat} (h : decide (t < 64) = true) : ∃ u, tileCmd t s f = .next u :=
  ⟨_, if_neg (Nat.not_le.mpr (of_decide_eq_true h))⟩

theorem coreCmd_next {c : Nat} (h : coreOk c = true) : ∃ u, coreCmd c s f = .next u :=
  ⟨_, if_neg (Nat.not_le.mpr (of_decide_eq_true h))⟩

theorem mfRequest_next {ty t : Nat} (h : decide (t < 64) = true) : ∃ u, mfRequest ty t s = .next u := tileCmd_next h

theorem takeAnswer_next {ty t : Nat} {land : State → Nat → ReqEntry → Frame → State} (h : decide (t < 64) = true) :
    ∃ u, takeAnswer ty t land s = .next u := tileCmd_next h

theorem serveAtomic_next {o c : Nat} (h : coreOk c = true) : ∃ u, serveAtomic o c s = .next u := coreCmd_next h

theorem isBridge_of_bridgeOk {d : Nat} (h : bridgeOk d = true) : isBridge d = true := by simpa [bridgeOk, isBridge] using h

theorem bridgeCmd_next {d : Nat} (h : bridgeOk d = true) : ∃ u, bridgeCmd d s f = .next u :=
  ⟨_, if_pos (isBridge_of_bridgeOk h)⟩

/-- A host write answers a next state, served or not (01 R30). -/
theorem mmioWrite_next {i : Instr} {d : Nat} {x : Bool} : ∃ u, mmioWrite i d x s f = .next u := by
  unfold mmioWrite
  split
  · exact ⟨_, rfl⟩
  · exact ⟨_, rfl⟩

theorem bridgeWrite_next {i : Instr} {d : Nat} (h : bridgeOk d = true) : ∃ u, bridgeWrite i d s f = .next u := by
  rw [bridgeWrite, if_pos (isBridge_of_bridgeOk h)]
  exact mmioWrite_next

theorem dcsTxn_next {i : Instr} {a sz v : Nat} : ∃ u, dcsTxn i a sz v s = .next u := by
  unfold dcsTxn
  split
  · exact mmioWrite_next
  · split
    · exact ⟨_, rfl⟩
    · exact ⟨_, rfl⟩

theorem dcsReadTxn_next {i : Instr} {a sz : Nat} : ∃ u, dcsReadTxn i a sz f s = .next u := by
  unfold dcsReadTxn
  split
  · exact ⟨_, rfl⟩
  · exact ⟨_, rfl⟩

theorem mbxCmd_next {n row : Nat} {g : State → State × Answer} (h : decide (n < 16) = true) : ∃ u, mbxCmd n row s g = .next u :=
  ⟨_, if_neg (Nat.not_le.mpr (of_decide_eq_true h))⟩

theorem mbxCtlCmd_next {i : Instr} {n : Nat} {src : Side} {v : Word} (h : mailboxOk n src = true) :
    ∃ u, mbxCtlCmd i n src v s = .next u := by
  cases src with
  | apeno =>
    rw [mbxCtlCmd, if_neg (Nat.not_le.mpr (of_decide_eq_true h))]
    exact mmioWrite_next
  | smbus =>
    have hn : n = 15 := of_decide_eq_true h
    exact ⟨_, by rw [mbxCtlCmd, if_neg (by omega), if_neg (not_not.mpr hn)]⟩

theorem engineCmd_next {ty d : Nat} (h : bridgeOk d = true) : ∃ u, engineCmd ty d s = .next u := bridgeCmd_next h

/-- A collective frame is taken at a tile agent or at an engine. -/
theorem collCmd_next {ty d : Nat} (h : decide (d < 100) = true) : ∃ u, collCmd ty d s = .next u := by
  unfold collCmd
  split
  · next ht => exact tileCmd_next (decide_eq_true ht)
  · next ht => exact engineCmd_next (by simp [bridgeOk] at h ⊢; omega)

theorem hostReq_next {i : Instr} {a n : Nat} (h : hostOk a n = true) : ∃ u, hostReq i a n s = .next u := by
  have ha : a < 2 ^ 43 ∧ 8 ≤ n ∧ a % 64 + n ≤ 64 := of_decide_eq_true h
  exact ⟨_, if_neg (by omega)⟩

theorem binvTxn_next {i : Instr} {a : Nat} {d : Option (List Byte)} (h : lineOk a = true) (hd : ∀ x ∈ d, x.length = 64) :
    ∃ u, binvTxn i a d s = .next u := by
  have ha : a < 2 ^ 43 ∧ a % 64 = 0 := of_decide_eq_true h
  have hn : d.any (fun x => decide (x.length ≠ 64)) = false := by
    cases d with
    | none => rfl
    | some x => simpa using hd x rfl
  exact ⟨_, if_neg (by rw [hn]; simp; omega)⟩

-- Commands with checks of their own ----------------------------------------------------------------------------------

/-- The measurements that fit their registers are taken. -/
theorem execGovernorPeriod_next {m : Sensors} (h : sensorsOk m = true) : ∃ u, execGovernorPeriod m s = .next u := by
  have hm := of_decide_eq_true h
  exact ⟨_, if_neg (by omega)⟩

/-- A group whose slots are as many as it says is taken (18 R469, R470). -/
theorem execLinkGroupReceive_next {d : Nat} {g : Group} (h : bridgeOk d = true) (hg : groupOk g = true) :
    ∃ u, execLinkGroupReceive d g s = .next u := by
  simp only [groupOk, Bool.and_eq_true, Bool.or_eq_true, decide_eq_true_eq] at hg
  obtain ⟨⟨hlen, hcw⟩, hslots⟩ := hg
  have hc : ¬ (160 < g.slots.length ∨ 16 < g.lost + g.fixed ∨
      (g.slots.length ≠ min 160 (bitsOf g.ctl.toNat 43 36) ∧ g.uncorrectable = false)) := by
    rintro (hl | hl | ⟨hne, hu⟩)
    · omega
    · omega
    · exact hslots.elim (fun ht => by simp [hu] at ht) hne
  simp only [execLinkGroupReceive, isBridge_of_bridgeOk h, Bool.not_true, Bool.false_eq_true, if_false, if_neg hc]
  split
  · exact ⟨_, rfl⟩
  · exact ⟨_, rfl⟩

/-- An output that is scheduled at the Bridge passes the check of its schedulers' commands. -/
theorem schedHere_of_outputOk {d o : Nat} (h : outputOk d o = true) : schedHere d o = true := by
  simpa [outputOk, schedHere] using h

theorem hasPolicer_of_policerOk {d : Nat} (h : policerOk d = true) : hasPolicer d = true := by
  have hd : d < 64 ∨ d = APL ∨ d = SP := of_decide_eq_true h
  simp only [hasPolicer, Bool.or_eq_true, decide_eq_true_eq]
  tauto

/-- A word of a Saddle slot of a Bridge passes the check of SADDLE_SLOT_WRITE (10 R275). -/
theorem slot_of_slotAddress {a : Nat} (h : slotAddress a = true) :
    (isBridge (a / 2 ^ 24) && (slotOf (a % 2 ^ 24)).isSome) = true := by
  simp only [slotAddress, Bool.and_eq_true, decide_eq_true_eq] at h
  obtain ⟨hb, ho⟩ := h
  rw [isBridge_of_bridgeOk hb, Bool.true_and, slotOf]
  split
  · rfl
  · next hn => rw [if_pos (ho.resolve_left hn)]; rfl

theorem execMemoryInstrumentRead_next {c a : Nat} {arr : MemArray} (h : coreOk c = true) (ha : arrayOk arr a = true) :
    ∃ u, execMemoryInstrumentRead c arr a s = .next u := by
  have hc : c < coreCount := of_decide_eq_true h
  have hs : a < arraySize arr := by cases arr <;> exact of_decide_eq_true ha
  exact ⟨_, by rw [execMemoryInstrumentRead, if_neg (Nat.not_le.mpr hc), if_neg (Nat.not_le.mpr hs)]⟩

/-- A session is asked for at a mailbox that exists, during a lockout too (14 R380). -/
theorem execSessionOpen_next {n : Nat} (h : decide (n < 16) = true) : ∃ u, execSessionOpen n s = .next u := by
  unfold execSessionOpen
  split
  · exact ⟨_, rfl⟩
  · exact mbxCmd_next h

-- Commands that carry bytes ------------------------------------------------------------------------------------------

/-- The commands that carry bytes whose length the state tells: an image, or the bulk data of a descriptor in progress. -/
def CarriesBytes (i : Instr) : Prop :=
  (∃ n img, i = .loadProgram n img) ∨ (∃ n img, i = .updateImageWrite n img) ∨ (∃ ch d, i = .copyDescriptorDone ch d) ∨
    ∃ ch d, i = .hostErr ch d

/-- An answer that refuses nothing. -/
def Answers (o : Out) : Prop := (∃ t, o = .next t) ∨ ∃ f, o = .fault f

theorem Answers.next (t : State) : Answers (.next t) := .inl ⟨t, rfl⟩
theorem Answers.fault (f : Fault) : Answers (.fault f) := .inr ⟨f, rfl⟩
theorem Answers.ite {c : Prop} [Decidable c] {a b : Out} (ha : Answers a) (hb : Answers b) : Answers (if c then a else b) := by
  split <;> assumption

theorem channelCmd_answers {ch : Nat} {o : Out} (h : decide (ch < 4) = true) (ho : Answers o) : Answers (channelCmd ch s o) := by
  rw [channelCmd, if_neg (Nat.not_le.mpr (of_decide_eq_true h))]
  exact ho.ite (.next s)

/-- A fetched descriptor of 32 bytes is taken, as is a failed fetch (14 R369). -/
theorem execCopyDescriptor_next {ch : Nat} {x : Option (List Byte)}
    (h : (Instr.copyDescriptor ch x).wf = true) : ∃ u, execCopyDescriptor ch x s = .next u := by
  obtain ⟨hch, hx⟩ := (Bool.and_eq_true ..).mp h
  have hn : x.any (fun d => decide (d.length ≠ 32)) = false := by
    cases x with
    | none => rfl
    | some d => simpa using hx
  rw [execCopyDescriptor, if_neg (by rw [hn]; exact Bool.false_ne_true), channelCmd,
    if_neg (Nat.not_le.mpr (of_decide_eq_true hch))]
  split
  · exact ⟨_, rfl⟩
  · exact ⟨_, rfl⟩

theorem execCopyDescriptorDone_answers {ch : Nat} {data : List Byte} (h : decide (ch < 4) = true) :
    Answers (execCopyDescriptorDone ch data s) := by
  refine channelCmd_answers h ?_
  split
  · exact .next s
  · exact .ite (.next s) (.ite (.next _) (.ite (.next _) (.ite (.fault _) (.ite (.next _) (.next _)))))

theorem execHostErr_answers {ch : Nat} {data : List Byte} (h : decide (ch < 4) = true) : Answers (execHostErr ch data s) := by
  refine channelCmd_answers h ?_
  split
  · exact .next s
  · exact .ite (.next s) (.ite (.next _) (.ite (.fault _) (.next _)))

/-- A well-formed command that carries bytes is never refused. -/
theorem exec_answers_of_carriesBytes {i : Instr} (hb : CarriesBytes i) (hw : i.wf = true) : Answers (exec i s) := by
  obtain ⟨n, img, rfl⟩ | ⟨n, img, rfl⟩ | ⟨ch, d, rfl⟩ | ⟨ch, d, rfl⟩ := hb
  · exact .ite (.fault _) (.inl (mbxCmd_next hw))
  · exact .ite (.fault _) (.inl (mbxCmd_next hw))
  · exact execCopyDescriptorDone_answers hw
  · exact execHostErr_answers hw

-- Every command ------------------------------------------------------------------------------------------------------

/-- Every other well-formed command answers a next state. -/
theorem exec_next {i : Instr} (hb : ¬ CarriesBytes i) (hw : i.wf = true) (s : State) : ∃ t, exec i s = .next t := by
  cases hr : rowPred i with
  | some cp => exact exec_row_next hr hw s
  | none =>
    cases i <;> dsimp only [exec]
    case nop => exact issue_next (of_decide_eq_true hw)
    case frameLand | refresh | mergeContribution => exact tileCmd_next hw
    case mfLoad | mfStore | mfAtomic => exact mfRequest_next hw
    case mfData | mfAck | nak => exact takeAnswer_next hw
    case outboxDrain | serviceSlot => exact coreCmd_next hw
    case atomicAdd | atomicAnd | atomicOr | atomicXor | atomicMin | atomicMax | atomicMinu
      | atomicMaxu | swap | cas | xadd | xrd => exact serveAtomic_next hw
    case linkLock | linkGroupSend | linkSignalLoss | frameAdmitRetry | spillAdmit => exact bridgeCmd_next hw
    case linkEnable | linkDisable | linkRetrain | linkConfigWrite | epochWrite | shaperCommit => exact bridgeWrite_next hw
    case spart | ctoku | ctokd | cpoison => exact engineCmd_next hw
    case sdown | cpiece | ccount | cbase => exact collCmd_next hw
    case irqMaskWrite | faultLogClear | tunRingctlWrite | muteArm | muteDisarm => exact mmioWrite_next
    case dcsWrite => exact dcsTxn_next
    case rstcauseRead => exact dcsReadTxn_next
    case mbxGo | mbxAck => exact mbxCtlCmd_next hw
    case rdS | rdE | rdNc | drop => exact hostReq_next hw
    case sessionNonce | sessionClose | setTopology | setCourseTable | setRegionTable | loadSaddleProgram | launch | pause
      | contRun | abortStep | powerQuery | powerSetA0 | powerSetA1 | powerSetA3 | telemetrySummary | telemetryBridge
      | attestQuote | attestLog | attestAliasCert | attestDeviceCert | resetDevice | resetPlane | resetLink
      | updateImageActivate | updateImageCommit => exact mbxCmd_next hw
    case sessionOpen => exact execSessionOpen_next hw
    case copyDescriptor => exact execCopyDescriptor_next hw
    case governorPeriod => exact execGovernorPeriod_next hw
    case syncReceive | smbSetOffset | smbBlockRead | smbReadCtl | smbAlertResponse | statusWord | readVin | readIin
      | readTemperature1 | readTemperature2 | readPin | pmbusRevision | planeHold | releaseSample | runStart | governorFrame
      | wearLogWrite | thermalTrip | powerTrip | undervoltageStop | powerLoss | coldReset | warmReset | boot | deviceReset
      | lockoutExpiry | a2TileGate | syncSend | syncTimeout | muteNFall | muteFreeze | muteNRise | muteThaw | tapReset
      | powerUp => exact ⟨_, rfl⟩
    case nonceExpiry | sessionIdleExpiry | powerSetA2 | tokenSend | scanShift =>
      exact ⟨_, if_neg (Nat.not_le.mpr (of_decide_eq_true hw))⟩
    case loadProgram | updateImageWrite | copyDescriptorDone | hostErr => exact absurd (by simp [CarriesBytes]) hb
    case sparseRunDone c =>
      have hc : c < coreCount := of_decide_eq_true hw
      simp only [execSparseRunDone, if_neg (Nat.not_le.mpr hc)]
      split
      · exact ⟨_, rfl⟩
      · exact ⟨_, rfl⟩
    case linkGroupReceive =>
      obtain ⟨hd, hg⟩ := (Bool.and_eq_true ..).mp hw
      exact execLinkGroupReceive_next hd hg
    case frameAdmit | refill =>
      obtain ⟨hd, hn⟩ := (Bool.and_eq_true ..).mp hw
      obtain ⟨t, ht⟩ := bridgeCmd_next hd
      exact ⟨t, (if_neg (Nat.not_le.mpr (of_decide_eq_true hn))).trans ht⟩
    case egressSelect | frameDepart =>
      obtain ⟨hd, ho⟩ := (Bool.and_eq_true ..).mp hw
      obtain ⟨t, ht⟩ := bridgeCmd_next hd
      exact ⟨t, (if_neg (by simp [schedHere_of_outputOk ho])).trans ht⟩
    case policerRelease =>
      obtain ⟨hd, hk⟩ := (Bool.and_eq_true ..).mp hw
      have hk := of_decide_eq_true hk
      exact ⟨_, if_neg (by simp [hasPolicer_of_policerOk hd]; omega)⟩
    case policerCommit =>
      obtain ⟨t, ht⟩ := mmioWrite_next
      exact ⟨t, (if_neg (by simp [hasPolicer_of_policerOk hw])).trans ht⟩
    case wrNc | wb =>
      obtain ⟨ha, hl⟩ := (Bool.and_eq_true ..).mp hw
      obtain ⟨t, ht⟩ := hostReq_next ha
      exact ⟨t, (if_neg (not_not.mpr (of_decide_eq_true hl))).trans ht⟩
    case binvAck => exact binvTxn_next hw (fun x hx => nomatch hx)
    case binvWb =>
      obtain ⟨ha, hl⟩ := (Bool.and_eq_true ..).mp hw
      exact binvTxn_next ha (fun x hx => Option.some.inj hx ▸ of_decide_eq_true hl)
    case copyDoorbell | copyRingWrite | copyResume =>
      obtain ⟨t, ht⟩ := mmioWrite_next
      exact ⟨t, (if_neg (Nat.not_le.mpr (of_decide_eq_true hw))).trans ht⟩
    case saddleSlotWrite =>
      obtain ⟨t, ht⟩ := dcsTxn_next
      exact ⟨t, (if_pos (slot_of_slotAddress hw)).trans ht⟩
    case memoryInstrumentRead =>
      obtain ⟨hc, ha⟩ := (Bool.and_eq_true ..).mp hw
      exact execMemoryInstrumentRead_next hc ha
    case smbBlockWrite =>
      have hl := of_decide_eq_true hw
      exact ⟨_, if_neg (by omega)⟩
    case muteResume =>
      obtain ⟨t, ht⟩ := mmioWrite_next
      by_cases hm : s.muted
      · exact ⟨_, if_pos hm⟩
      · exact ⟨t, (if_neg hm).trans ht⟩
    all_goals cases hr

/-- Settles O59: every well-formed command answers a next state, but for the four whose bytes may have another length than their
descriptor or header states, which answer a next state or a fault; that they are refused for units alone is log 63. -/
theorem onlyAbsentUnitsAreRefused : Obligations.OnlyAbsentUnitsAreRefused := by
  refine ⟨fun i s hw r hr => ?_, fun i s f hw hf => ?_, fun i c p s hp hc => exec_row_refused hp hc s⟩
  · have ha : Answers (exec i s) := by
      by_cases hb : CarriesBytes i
      · exact exec_answers_of_carriesBytes hb hw
      · exact .inl (exec_next hb hw s)
    obtain ⟨t, ht⟩ | ⟨f, ht⟩ := ha
    · cases hr.symm.trans ht
    · cases hr.symm.trans ht
  · by_contra hb
    obtain ⟨t, ht⟩ := exec_next hb hw s
    cases hf.symm.trans ht

end Sys2Proof.Machine
end

section
/-! SUPPORT. A selection at a state that lists one Bridge twice: the scheduler forgets the second entry, in which frames in flight
still counted against the engine's space (09 R237, R238; 10 R272). -/
namespace Sys2Proof.Machine
open Sys2Proof.Safety

/-- Frames that differ in SRC: of two streams. -/
def knownFrame : Frame := ⟨0, [], 0⟩
def newFrame : Frame := ⟨1 <<< 32, [], 0⟩

/-- A VOQ that holds one frame. -/
def voqWith (f : Frame) : Voq := { Voq.reset with sram := [⟨f, 5, false, false, false⟩] }

/-- The row a stream opened by `f` has in an engine's table. -/
def rowFor (f : Frame) : StreamRow := ⟨0, fSrc f, fDest f, fCls f, fStream f, streamArg f, 0, []⟩

/-- Bridge 64 as it is read: a frame of class 0 that would open a stream and one of class 1 whose stream is open wait for the
engine, output 37. -/
def bridgeRead : Bridge :=
  { Bridge.reset with
    voqs := [(voqNo .link 37 0, voqWith newFrame), (voqNo .link 37 3, voqWith knownFrame)]
    eng := { Engine.reset with streams := [rowFor knownFrame] } }

/-- Bridge 64 as it is listed a second time: 1,023 frames in flight to its engine. -/
def bridgeShadowed : Bridge :=
  { Bridge.reset with scheds := [(37, { Sched.reset with flight := List.replicate 1023 ⟨64, 0, none, 0, none, []⟩ })] }

/-- The state after reset with both entries: its Bridge table is not in the canonical form. -/
def listedTwice : State := { State.reset with bridges := [(64, bridgeRead), (64, bridgeShadowed)] }

theorem listedTwice_works : BridgeWorks listedTwice 64 := ⟨rfl, by decide +kernel⟩

/-- With 1,023 frames on their way, the engine has space for the frame of the open stream alone. -/
theorem listedTwice_eligible :
    (∃ c < 4, ∃ k ∈ cands listedTwice 64 37 c, eligible listedTwice 64 37 k = true) ∧
      ∀ c < 4, ∀ k ∈ cands listedTwice 64 37 c, eligible listedTwice 64 37 k = true → k.q = voqNo .link 37 3 := by
  decide +kernel

/-- The scheduler wakes the queues, which leaves one entry of Bridge 64; then both frames are eligible, and it takes the one of
class 0. -/
theorem listedTwice_selects :
    (sched (selectOut listedTwice 64 37) 64 37).flight.map InFlight.q = [voqNo .link 37 0] := by decide +kernel

/-- Refutes O25: where Bridge 64 stands twice in the Bridge table, output 37 selects a frame that was not eligible in the state at
hand. The clause about outputs that are no links lacks the hypothesis that the state is canonical. -/
theorem not_spillsRefillsAndSelection : ¬ Obligations.SpillsRefillsAndSelection := by
  rintro ⟨-, hselect⟩
  obtain ⟨-, hlocal, -, -⟩ := hselect listedTwice 64 37 listedTwice_works rfl
  obtain ⟨hsome, honly⟩ := listedTwice_eligible
  obtain ⟨t, c, hc, k, hk, he, ht, hflight, -, -⟩ := hlocal (by decide) hsome
  have hnext : exec (.egressSelect 64 37) listedTwice = .next (selectOut listedTwice 64 37) :=
    bridgeCmd_works (f := fun s => selectOut s 64 37) listedTwice_works
  obtain rfl : selectOut listedTwice 64 37 = t := Host.Outcome.next.inj (hnext.symm.trans ht)
  have hq : [voqNo .link 37 0] = [k.q] := by
    rw [← listedTwice_selects, hflight]
    rfl
  rw [honly c hc k hk he] at hq
  exact absurd hq (by decide)

end Sys2Proof.Machine
end

section
/-! SUPPORT. The coherent port of the host: the directory, the service slot of a sliver port that holds a host request alone, and
what each request and answer leaves (12 R333, R334; 14 R371 to R373). -/
namespace Sys2Proof.Machine
open Sys2Proof.Safety Sys2Proof.Claims

variable {s : State} {a : Nat}

-- The directory ------------------------------------------------------------------------------------------------------

theorem dirFind_sound (h : s.errs = Errs.none) (l : Nat) : dirFind s l = s.dir.find? (fun e => e.line = l) := by
  simp [dirFind, entryLost, h, Errs.none]

/-- A change of the directory is one of its entries and of APL_DIRSTAT. -/
theorem setDir_frame (s : State) (ds : List DirLine) : setDir s ds = { s with dir := ds, regs := (setDir s ds).regs } :=
  regPutNat_frame _ _ _ _

theorem dirFree_frame (s : State) (l : Nat) :
    dirFree s l = { s with dir := s.dir.filter (fun e => e.line ≠ l), regs := (dirFree s l).regs } := setDir_frame s _

@[simp] theorem dirFree_dir (s : State) (l : Nat) : (dirFree s l).dir = s.dir.filter (fun e => e.line ≠ l) := by
  rw [dirFree_frame]
@[simp] theorem dirFree_errs (s : State) (l : Nat) : (dirFree s l).errs = s.errs := by rw [dirFree_frame]
@[simp] theorem dirFree_cohWait (s : State) (l : Nat) : (dirFree s l).cohWait = s.cohWait := by rw [dirFree_frame]
@[simp] theorem dirFree_recalls (s : State) (l : Nat) : (dirFree s l).recalls = s.recalls := by rw [dirFree_frame]
@[simp] theorem dirFree_dram (s : State) (l : Nat) : (dirFree s l).dram = s.dram := by rw [dirFree_frame]
@[simp] theorem dirFree_out (s : State) (l : Nat) : (dirFree s l).out = s.out := by rw [dirFree_frame]

/-- Where the directory is the one without line `l`, the host does not hold it. -/
theorem dirFind_freed {t : State} {l : Nat} (ht : t.errs = Errs.none) (hd : t.dir = s.dir.filter (fun e => e.line ≠ l)) :
    dirFind t l = none := by
  rw [dirFind_sound ht, hd, List.find?_eq_none]
  intro e he
  simpa using (List.mem_filter.mp he).2

/-- Every other line stands as before. -/
theorem dirFind_kept {t : State} {l m : Nat} (hs : s.errs = Errs.none) (ht : t.errs = Errs.none)
    (hd : t.dir = s.dir.filter (fun e => e.line ≠ l)) (hm : m ≠ l) : dirFind t m = dirFind s m := by
  rw [dirFind_sound ht, dirFind_sound hs, hd, List.find?_filter]
  congr 1
  funext e
  by_cases he : e.line = m
  · simp [he, hm]
  · simp [he]

-- Recalls ------------------------------------------------------------------------------------------------------------

theorem recalled_over {t : State} {l : Nat} (ht : t.recalls = s.recalls.filter (fun x => x.line ≠ l)) : recalled t l = false := by
  simp [recalled, ht]

theorem recalled_kept {t : State} {l m : Nat} (ht : t.recalls = s.recalls.filter (fun x => x.line ≠ l)) (hm : m ≠ l) :
    recalled t m = recalled s m := by
  rw [recalled, recalled, ht, List.any_filter]
  congr 1
  funext r
  by_cases hr : r.line = m
  · simp [hr, hm]
  · simp [hr]

/-- With nothing waiting at the Apeno die a retry changes nothing. -/
theorem cohRetry_empty (h : s.cohWait = []) : cohRetry s = s := by
  rw [cohRetry, h]
  exact congrArg (fun w => ({ s with cohWait := w } : State)) h.symm

-- The service slot ---------------------------------------------------------------------------------------------------

/-- Host request `i` at address `a` as it stands at its sliver port. -/
def hostAt (i : Instr) (a : Nat) : SvcReq := ⟨a % 2 ^ 23, hostOp i, .host i, 0, [], false, false⟩

/-- The one line of a request that stays within it. -/
theorem svcLines_within {i : Instr} (hn : 0 < svcTouch (hostAt i a)) (hl : a % 64 + svcTouch (hostAt i a) ≤ 64) :
    svcLines (a / 2 ^ 37) (a / 2 ^ 23 % 16384) (hostAt i a) = [a / 64] := by
  have hr : (a % 2 ^ 23 + svcTouch (hostAt i a) - 1) / 64 - a % 2 ^ 23 / 64 + 1 = 1 := by omega
  have hs : a % 2 ^ 23 / 64 + (a / 2 ^ 37 * 16384 + a / 2 ^ 23 % 16384) * 2 ^ 23 / 64 = a / 64 := by omega
  have hoff : (hostAt i a).off = a % 2 ^ 23 := rfl
  simp only [svcLines, linesOf, hoff, if_neg hn.ne', hr, dpaOf, List.range_one, List.map_cons, List.map_nil, Nat.zero_add,
    Nat.add_zero, hs]

/-- A host request waits for the answer to a back-invalidation of its lines, unless it is a writeback (14 R373). -/
theorem svcWaits_hostAt (s : State) (i : Instr) (a t lc : Nat) :
    svcWaits s t lc (hostAt i a) = (!passesRecall i && (svcLines t lc (hostAt i a)).any (recalled s)) := rfl

/-- A request within a line whose back-invalidation is not open waits for nothing. -/
theorem svcWaits_within {i : Instr} (hn : 0 < svcTouch (hostAt i a)) (hl : a % 64 + svcTouch (hostAt i a) ≤ 64)
    (hr : recalled s (a / 64) = false) : svcWaits s (a / 2 ^ 37) (a / 2 ^ 23 % 16384) (hostAt i a) = false := by
  rw [svcWaits_hostAt, svcLines_within hn hl]
  simp [hr]

theorem svcWaits_writeback {i : Instr} (h : passesRecall i = true) (t lc : Nat) : svcWaits s t lc (hostAt i a) = false := by
  simp [svcWaits_hostAt, h]

@[simp] theorem port_setPort_same (s : State) (t lc : Nat) (q : List SvcReq) : port (setPort s t lc q) t lc = q := by
  simp [port, setPort, modTile]

/-- A port that holds a host request alone sets nothing aside. -/
theorem setAside_host {t lc : Nat} {i : Instr} (h : port s t lc = [hostAt i a]) :
    setAside s t lc = setPort s t lc [hostAt i a] := by
  simp [setAside, h, hostAt, isFabric]

theorem portPick_host {t lc : Nat} {i : Instr} (h : port s t lc = [hostAt i a]) (hw : svcWaits s t lc (hostAt i a) = false) :
    portPick s t lc = some (hostAt i a) := by
  have hd : (hostAt i a).done = 0 := rfl
  have ha : (hostAt i a).aside = false := rfl
  simp [portPick, h, hd, ha, hw]

/-- What registers hold is read from the registers alone. -/
theorem regBits_congr {t : State} (h : t.regs = s.regs) (b hi lo : Nat) : regBits t b hi lo = regBits s b hi lo := by
  rw [regBits, regBits, regNat_congr (s := s) (t := t)]
  intro i _
  simp only [regWord, h]

/-- The refresh phase of a tile is no matter of its ports. -/
theorem refreshFrame_setPort (s : State) (t lc n : Nat) (q : List SvcReq) :
    refreshFrame (setPort s t lc q) t n = refreshFrame s t n := by
  have hp : (tile (setPort s t lc q) t).refph = (tile s t).refph := by simp [setPort, modTile]
  have hr (b hi lo : Nat) : regBits (setPort s t lc q) b hi lo = regBits s b hi lo :=
    regBits_congr (s := s) (t := setPort s t lc q) rfl b hi lo
  have hf : refreshPhase (setPort s t lc q) t (n / 128) = refreshPhase s t (n / 128) := by
    rw [refreshPhase, refreshPhase, hp]
    simp only [hr]
  rw [refreshFrame, refreshFrame, hf]

/-- The service slot of a port takes the host request that stands there alone (12 R333). -/
theorem serviceSlot_host {i : Instr} (h : AtPort s i a)
    (hw : ∀ u : State, u.recalls = s.recalls → svcWaits u (a / 2 ^ 37) (a / 2 ^ 23 % 16384) (hostAt i a) = false) :
    ∃ ts, exec (.serviceSlot (a / 2 ^ 23)) s = .next (serveHost { s with tiles := ts } i) := by
  obtain ⟨hclk, hin, halone, hslot, -, -⟩ := h
  have hc : a / 2 ^ 23 < coreCount := by unfold coreCount; omega
  have ht : tileOf (a / 2 ^ 23) = a / 2 ^ 37 := by unfold tileOf; omega
  set t := a / 2 ^ 37
  set lc := a / 2 ^ 23 % 16384
  set u := setPort s t lc [hostAt i a] with hu
  have hpick : portPick u t lc = some (hostAt i a) := portPick_host (port_setPort_same ..) (hw u rfl)
  have hturn : refreshFrame u t u.count = false := (refreshFrame_setPort ..).trans hslot
  have hlc : lcOf (a / 2 ^ 23) = lc := rfl
  refine ⟨(portDrop u t lc (hostAt i a)).tiles, ?_⟩
  rw [exec, execServiceSlot, coreCmd_works hc hclk]
  simp only [ht, hlc, setAside_host halone, ← hu, hpick]
  rw [hturn]
  rfl

-- Requests on their way ----------------------------------------------------------------------------------------------

/-- A request within a line of the address space meets the tile it names, or none (14 R364, R371). -/
theorem hostReq_up {i : Instr} {n : Nat} (hup : s.life = .up) (hm : s.muted = false) (ha : a < 2 ^ 43) (hn : 8 ≤ n)
    (hl : a % 64 + n ≤ 64) :
    hostReq i a n s = .next (if dieLive s (a / 2 ^ 37) then cohTry s i else reply s UR []) :=
  (if_neg (by omega)).trans (hostTxn_up hup hm)

/-- A request to a line without open request or back-invalidation goes to its sliver port (12 R333). -/
theorem cohTry_goes {i : Instr} (hi : cohAddr i = some a) (hb : lineBusy s (a / 64) = false) (hr : recalled s (a / 64) = false) :
    cohTry s i = pushSvc s a (hostOp i) (.host i) := by
  simp [cohTry, hi, hb, hr]

/-- A request waits for the answer to a back-invalidation of its line, unless it is the writeback, or behind an earlier request. -/
theorem cohTry_waits {i : Instr} (hi : cohAddr i = some a)
    (h : (passesRecall i = false ∧ recalled s (a / 64) = true) ∨ (recalled s (a / 64) = false ∧ lineBusy s (a / 64) = true)) :
    cohTry s i = { s with cohWait := s.cohWait ++ [i] } := by
  obtain ⟨hp, hr⟩ | ⟨hr, hb⟩ := h
  · simp [cohTry, hi, hp, hr]
  · simp [cohTry, hi, hb, hr]

theorem hostReq_reaches {i : Instr} {n : Nat} (h : Reaches s a) (hi : cohAddr i = some a) (hn : 8 ≤ n) (hl : a % 64 + n ≤ 64) :
    hostReq i a n s = .next (pushSvc s a (hostOp i) (.host i)) := by
  rw [hostReq_up h.up h.awake h.inside hn hl, if_pos h.power, cohTry_goes hi h.first h.settled]

theorem execWrNc_hostReq {be : List Bool} {d : List Byte} (h : be.length = d.length) :
    exec (.wrNc a be d) s = hostReq (.wrNc a be d) a d.length s := if_neg (not_not.mpr h)

/-- The six requests of the host are requests at their address, within one line; the writeback alone passes a recall. -/
theorem exec_hostRequest {n : Nat} {be : List Bool} {d w : List Byte} (ha : a % 64 = 0) (hw : w.length = 64) (hn : 8 ≤ n)
    (hn' : n ≤ 64) (hbe : be.length = d.length) (hd : 8 ≤ d.length) (hd' : d.length ≤ 64) {i : Instr}
    (hi : i ∈ [Instr.rdS a, .rdE a, .rdNc a n, .wrNc a be d, .wb a w, .drop a]) (s : State) :
    cohAddr i = some a ∧ (i ≠ .wb a w → passesRecall i = false) ∧
      ∃ m, 8 ≤ m ∧ a % 64 + m ≤ 64 ∧ exec i s = hostReq i a m s := by
  simp only [List.mem_cons, List.not_mem_nil, or_false] at hi
  obtain rfl | rfl | rfl | rfl | rfl | rfl := hi
  · exact ⟨rfl, fun _ => rfl, 64, by omega, by omega, rfl⟩
  · exact ⟨rfl, fun _ => rfl, 64, by omega, by omega, rfl⟩
  · exact ⟨rfl, fun _ => rfl, n, hn, by omega, rfl⟩
  · exact ⟨rfl, fun _ => rfl, d.length, hd, by omega, execWrNc_hostReq hbe⟩
  · exact ⟨rfl, fun h => absurd rfl h, 64, by omega, by omega, if_neg (not_not.mpr hw)⟩
  · exact ⟨rfl, fun _ => rfl, 64, by omega, by omega, rfl⟩

/-- A request joins the queue of the port of its address. -/
theorem port_pushSvc (s : State) (a : Nat) (op : SvcOp) (src : SvcFrom) :
    port (pushSvc s a op src) (a / 2 ^ 37) (a / 2 ^ 23 % 16384) =
      port s (a / 2 ^ 37) (a / 2 ^ 23 % 16384) ++ [⟨a % 2 ^ 23, op, src, 0, [], false, false⟩] :=
  port_setPort_same ..

-- Answers to back-invalidations --------------------------------------------------------------------------------------

/-- Line `l` is free and its recall is over; every other line, the bytes and the answers are as before. -/
def LineFreed (s t : State) (l : Nat) : Prop :=
  recalled t l = false ∧ dirFind t l = none ∧ (∀ m, m ≠ l → dirFind t m = dirFind s m ∧ recalled t m = recalled s m) ∧
    t.dram = s.dram ∧ t.out = s.out

/-- An answer without data to write frees the line and ends the recall (14 R373). -/
theorem binvAnswer_frees {r : Recall} {data : Option (List Byte)} (hc : s.cohWait = [])
    (hr : s.recalls.find? (fun r => r.line = a / 64) = some r) (hwb : r.wb = false)
    (hd : data = none ∨ heldE s (a / 64) = false) :
    binvAnswer s a data = dirFree { s with recalls := s.recalls.filter (fun x => x.line ≠ a / 64) } (a / 64) := by
  have hf : data.filter (fun _ => !r.wb && heldE s (a / 64)) = none := by
    obtain rfl | he := hd
    · rfl
    · simp [he]
  simp only [binvAnswer, hr, hf]
  rw [hwb]
  exact cohRetry_empty ((dirFree_cohWait _ _).trans hc)

/-- An answer after a writeback of the line ends the recall alone, with its data discarded. -/
theorem binvAnswer_discards {r : Recall} {data : Option (List Byte)} (hc : s.cohWait = [])
    (hr : s.recalls.find? (fun r => r.line = a / 64) = some r) (hwb : r.wb = true) :
    binvAnswer s a data = { s with recalls := s.recalls.filter (fun x => x.line ≠ a / 64) } := by
  have hf : data.filter (fun _ => !r.wb && heldE s (a / 64)) = none := by simp [hwb]
  simp only [binvAnswer, hr, hf]
  rw [hwb]
  exact cohRetry_empty hc

/-- Data for a line held in E go to its sliver port. -/
theorem binvAnswer_writes {r : Recall} {d : List Byte} (hr : s.recalls.find? (fun r => r.line = a / 64) = some r)
    (hwb : r.wb = false) (he : heldE s (a / 64) = true) :
    binvAnswer s a (some d) = pushSvc s a (.write d) (.host (.binvWb a d)) := by
  have hd : (some d).filter (fun _ => !r.wb && heldE s (a / 64)) = some d := by simp [Option.filter, hwb, he]
  simp only [binvAnswer, hr, hd]

/-- A recall that ends frees its line and touches no other. -/
theorem lineFreed_of_recall (hs : s.errs = Errs.none) (l : Nat) :
    LineFreed s (dirFree { s with recalls := s.recalls.filter (fun x => x.line ≠ l) } l) l := by
  set t := dirFree { s with recalls := s.recalls.filter (fun x => x.line ≠ l) } l with ht
  have he : t.errs = Errs.none := by rw [ht, dirFree_errs]; exact hs
  have hd : t.dir = s.dir.filter (fun e => e.line ≠ l) := by rw [ht, dirFree_dir]
  have hr : t.recalls = s.recalls.filter (fun x => x.line ≠ l) := by rw [ht, dirFree_recalls]
  exact ⟨recalled_over hr, dirFind_freed he hd, fun m hm => ⟨dirFind_kept hs he hd hm, recalled_kept hr hm⟩,
    by rw [ht, dirFree_dram], by rw [ht, dirFree_out]⟩

theorem binvTxn_up {i : Instr} {data : Option (List Byte)} (hup : s.life = .up) (hm : s.muted = false) (ha : a < 2 ^ 43)
    (hl : a % 64 = 0) (hd : ∀ d ∈ data, d.length = 64) : binvTxn i a data s = .next (binvAnswer s a data) := by
  have hn : data.any (fun d => decide (d.length ≠ 64)) = false := by
    cases data with
    | none => rfl
    | some d => simpa using hd d rfl
  exact (if_neg (by rw [hn]; simp; omega)).trans (hostTxn_up hup hm)

-- Requests in their slot ---------------------------------------------------------------------------------------------

/-- A read where no error stands meets none. -/
theorem hostReads_sound (h : s.errs = Errs.none) (n : Nat) (go : State → State × Bool) : hostReads s a n go = go s := by
  simp [hostReads, dramCheck, h, Errs.none]

/-- A read that HOST and the permissions allow grants the line, one in S unless the host holds it in E (14 R371). -/
theorem cohAct_rdS (hs : s.errs = Errs.none) (hm : hostMay s a 64 [1] = true) (he : heldE s (a / 64) = false) :
    cohAct s (.rdS a) = grant s a false := by
  simp only [cohAct, hm, he, Bool.not_true, Bool.or_self, Bool.false_eq_true, if_false]
  exact hostReads_sound hs 64 _
theorem cohAct_rdE (hs : s.errs = Errs.none) (hm : hostMay s a 64 [1, 2] = true) : cohAct s (.rdE a) = grant s a true := by
  simp only [cohAct, hm, Bool.not_true, Bool.false_eq_true, if_false]
  exact hostReads_sound hs 64 _

/-- A free line of a set with room is entered in the directory and returned (12 R334, 14 R371). -/
theorem grant_free (excl : Bool) (hf : dirFind s (a / 64) = none)
    (hroom : (dirSet s (a / 64)).length + freedUnanswered s (a / 64) < 16) :
    grant s a excl = (reply (setDir s (s.dir ++ [⟨a / 64, excl⟩])) SC (memRead s.dram a 64), true) := by
  rw [grant, hf]
  simp only [Nat.not_le.mpr hroom, if_false]
  rw [dramRead, setDir_frame]

/-- A request that completes, with nothing waiting, leaves what it did. -/
theorem serveHost_done {i : Instr} {t : State} (hi : cohAddr i = some a) (h : cohAct s i = (t, true)) (hw : t.cohWait = []) :
    serveHost s i = t := by
  unfold serveHost
  split
  · cases hi
  · simp only [h, if_true, cohRetry_empty hw]

theorem heldE_none {l : Nat} (h : dirFind s l = none) : heldE s l = false := by simp [heldE, h]

/-- The bytes that are enabled are written, and no others (14 R371). -/
theorem enabledWrite_frame (s : State) (a : Nat) (be : List Bool) (d : List Byte) :
    enabledWrite s a be d = { s with dram := (enabledWrite s a be d).dram } := by
  induction be generalizing s a d with
  | nil => rfl
  | cons e es ih =>
    cases d with
    | nil => rfl
    | cons b bs =>
      rw [enabledWrite, ih]
      cases e <;> rfl

theorem memByte_enabledWrite_out (s : State) (a x : Nat) (be : List Bool) (d : List Byte) (h : x < a ∨ a + d.length ≤ x) :
    memByte (enabledWrite s a be d).dram x = memByte s.dram x := by
  induction be generalizing s a d with
  | nil => rfl
  | cons e es ih =>
    cases d with
    | nil => rfl
    | cons b bs =>
      rw [List.length_cons] at h
      rw [enabledWrite, ih _ _ _ (by omega)]
      cases e with
      | false => rfl
      | true => exact memByte_memWrite_out _ _ _ _ (by simp; omega)

theorem memByte_enabledWrite_in (s : State) (a : Nat) (be : List Bool) (d : List Byte) (hl : be.length = d.length) (i : Nat)
    (hi : i < d.length) : memByte (enabledWrite s a be d).dram (a + i) =
      if be[i]? = some true then d.getD i 0 else memByte s.dram (a + i) := by
  induction be generalizing s a d i with
  | nil => simp at hl; omega
  | cons e es ih =>
    cases d with
    | nil => simp at hi
    | cons b bs =>
      rw [enabledWrite]
      cases i with
      | zero =>
        rw [memByte_enabledWrite_out _ _ _ _ _ (by omega)]
        cases e with
        | false => simp
        | true => simp [dramWrite, memWrite, memByte_memPut]
      | succ i =>
        rw [show a + (i + 1) = a + 1 + i by omega, ih _ _ _ (by simpa using hl) i (by simpa using hi)]
        have hkeep : memByte (if e then dramWrite s a [b] else s).dram (a + 1 + i) = memByte s.dram (a + 1 + i) := by
          cases e with
          | false => rfl
          | true => exact memByte_memWrite_out _ _ _ _ (by simp)
        simp [hkeep]

/-- What the host may do is no matter of the ports. -/
theorem hostMay_tiles (ts : SMap Tile) (b n : Nat) (need : List Nat) :
    hostMay { s with tiles := ts } b n need = hostMay s b n need := by
  have hn (x m : Nat) : regNat { s with tiles := ts } x m = regNat s x m := regNat_congr _ _ fun _ _ => rfl
  have he (t m : Nat) : regionEntry { s with tiles := ts } t m = regionEntry s t m := by
    simp only [regionEntry, hn]
    rfl
  have hr (t : Nat) : regionOf { s with tiles := ts } t b n = regionOf s t b n := by
    simp only [regionOf, funext (he t)]
    rfl
  rw [hostMay, hostMay, hr]

-- The clauses of the claim -------------------------------------------------------------------------------------------

/-- The slot of a request that completes: its effect on a state that differs from `s` in the ports alone. -/
theorem slot_done {i : Instr} (h : AtPort s i a) (hr : recalled s (a / 64) = false) (hn : 0 < svcTouch (hostAt i a))
    (hl : a % 64 + svcTouch (hostAt i a) ≤ 64) (hi : cohAddr i = some a) :
    ∃ ts, ∀ t : State, cohAct { s with tiles := ts } i = (t, true) → t.cohWait = [] →
      exec (.serviceSlot (a / 2 ^ 23)) s = .next t := by
  obtain ⟨ts, hts⟩ := serviceSlot_host h fun u hu => svcWaits_within hn hl (by rw [recalled, hu]; exact hr)
  exact ⟨ts, fun t ht hw => by rw [hts, serveHost_done hi ht hw]⟩

/-- A request that is not allowed is answered CA and changes nothing (14 R364). -/
theorem slot_refused {i : Instr} (h : AtPort s i a) (hr : recalled s (a / 64) = false) (hn : 0 < svcTouch (hostAt i a))
    (hl : a % 64 + svcTouch (hostAt i a) ≤ 64) (hi : cohAddr i = some a)
    (hca : ∀ ts, cohAct { s with tiles := ts } i = (reply { s with tiles := ts } CA [], true)) :
    ∃ t, exec (.serviceSlot (a / 2 ^ 23)) s = .next t ∧ t = { s with out := s.out ++ [.hostReply 2 []], tiles := t.tiles } := by
  obtain ⟨ts, hts⟩ := slot_done h hr hn hl hi
  exact ⟨_, hts _ (hca ts) h.first, rfl⟩

/-- RD_S and RD_E of a free line: the line returned and entered (12 R334). -/
theorem slot_granted {i : Instr} {excl : Bool} (h : AtPort s i a) (hr : recalled s (a / 64) = false)
    (hn : 0 < svcTouch (hostAt i a)) (hl : a % 64 + svcTouch (hostAt i a) ≤ 64) (hi : cohAddr i = some a)
    (hg : ∀ ts, cohAct { s with tiles := ts } i = grant { s with tiles := ts } a excl) (hf : dirFind s (a / 64) = none)
    (hroom : (dirSet s (a / 64)).length + freedUnanswered s (a / 64) < 16) :
    ∃ t, exec (.serviceSlot (a / 2 ^ 23)) s = .next t ∧ t.dir = s.dir ++ [⟨a / 64, excl⟩] ∧ t.dram = s.dram ∧
      t.recalls = s.recalls ∧ t.out = s.out ++ [.hostReply 0 (memRead s.dram a 64)] ∧ slotOnly s t := by
  obtain ⟨ts, hts⟩ := slot_done h hr hn hl hi
  have hg' : cohAct { s with tiles := ts } i = _ := (hg ts).trans (grant_free (s := { s with tiles := ts }) excl hf hroom)
  rw [setDir_frame] at hg'
  exact ⟨_, hts _ hg' h.first, rfl, rfl, rfl, rfl, rfl⟩

/-- The uncached read of a line the host does not hold (14 R371). -/
theorem slot_rdNc {n : Nat} (h : AtPort s (.rdNc a n) a) (hr : recalled s (a / 64) = false) (hn : 8 ≤ n) (hl : a % 64 + n ≤ 64)
    (hm : hostMay s a n [1] = true) (hf : dirFind s (a / 64) = none) :
    ∃ t, exec (.serviceSlot (a / 2 ^ 23)) s = .next t ∧
      t = { s with out := s.out ++ [.hostReply 0 (memRead s.dram a n)], tiles := t.tiles } := by
  have hpos : 0 < svcTouch (hostAt (.rdNc a n) a) := show 0 < n by omega
  obtain ⟨ts, hts⟩ := slot_done h hr hpos hl rfl
  refine ⟨_, hts (reply { s with tiles := ts } SC (memRead s.dram a n)) ?_ h.first, rfl⟩
  have hf' : dirFind { s with tiles := ts } (a / 64) = none := hf
  simp only [cohAct, hostMay_tiles, hm, hf']
  rw [hostReads_sound (by exact h.sound)]
  rfl

/-- The uncached write of a line the host does not hold (14 R371). -/
theorem slot_wrNc {be : List Bool} {d : List Byte} (h : AtPort s (.wrNc a be d) a) (hr : recalled s (a / 64) = false)
    (hbe : be.length = d.length) (hd : 8 ≤ d.length) (hl : a % 64 + d.length ≤ 64) (hm : hostMay s a d.length [2] = true)
    (hf : dirFind s (a / 64) = none) :
    ∃ t, exec (.serviceSlot (a / 2 ^ 23)) s = .next t ∧
      (∀ i < d.length, memByte t.dram (a + i) = if be[i]? = some true then d.getD i 0 else memByte s.dram (a + i)) ∧
      (∀ x, x < a ∨ a + d.length ≤ x → memByte t.dram x = memByte s.dram x) ∧
      t = { s with dram := t.dram, out := s.out ++ [.hostReply 0 []], tiles := t.tiles } := by
  have hpos : 0 < svcTouch (hostAt (.wrNc a be d) a) := show 0 < d.length by omega
  obtain ⟨ts, hts⟩ := slot_done h hr hpos hl rfl
  have hf' : dirFind { s with tiles := ts } (a / 64) = none := hf
  have hact : cohAct { s with tiles := ts } (.wrNc a be d) = (reply (enabledWrite { s with tiles := ts } a be d) SC [], true) := by
    simp only [cohAct, hostMay_tiles, hm, hf']
    rfl
  have hframe := enabledWrite_frame { s with tiles := ts } a be d
  refine ⟨_, hts _ hact ?_, fun i hi => memByte_enabledWrite_in _ a be d hbe i hi,
    fun x hx => memByte_enabledWrite_out _ a x be d hx, ?_⟩
  · rw [hframe]
    exact h.first
  · rw [hframe]
    rfl

/-- The writeback of a line held in E: its bytes are written and the line is given up (14 R372). -/
theorem slot_wb {d : List Byte} (h : AtPort s (.wb a d) a) (hd : d.length = 64)
    (hm : hostMay s a 64 [2] = true) (he : heldE s (a / 64) = true) :
    ∃ t, exec (.serviceSlot (a / 2 ^ 23)) s = .next t ∧ memRead t.dram a 64 = d ∧
      (∀ x, x < a ∨ a + 64 ≤ x → memByte t.dram x = memByte s.dram x) ∧ dirFind t (a / 64) = none ∧
      (∀ l, l ≠ a / 64 → dirFind t l = dirFind s l) ∧ t.out = s.out ++ [.hostReply 0 []] ∧ slotOnly s t := by
  obtain ⟨ts, hts⟩ := serviceSlot_host h fun u _ => svcWaits_writeback rfl _ _
  set u := dirFree (dramWrite { s with tiles := ts } a d) (a / 64) with hu
  set t := reply { u with recalls := u.recalls.map (fun r => if r.line = a / 64 then { r with wb := true } else r) } SC [] with ht
  have he' : heldE { s with tiles := ts } (a / 64) = true := he
  have hact : cohAct { s with tiles := ts } (.wb a d) = (t, true) := by
    simp only [cohAct, hostMay_tiles, hm, he']
    rfl
  have hframe := dirFree_frame (dramWrite { s with tiles := ts } a d) (a / 64)
  rw [← hu] at hframe
  have hsound : t.errs = Errs.none := by rw [ht, hframe]; exact h.sound
  have hdir : t.dir = s.dir.filter (fun e => e.line ≠ a / 64) := by rw [ht, hframe]; rfl
  have hdram : t.dram = memWrite s.dram a d := by rw [ht, hframe]; rfl
  have hw : t.cohWait = [] := by rw [ht, hframe]; exact h.first
  refine ⟨t, ?_, ?_, fun x hx => ?_, dirFind_freed hsound hdir, fun l hl => dirFind_kept h.sound hsound hdir hl, ?_, ?_⟩
  · rw [hts, serveHost_done rfl hact hw]
  · rw [hdram, ← hd]
    exact memRead_memWrite_same _ _ _
  · rw [hdram]
    exact memByte_memWrite_out _ _ _ _ (by omega)
  · rw [ht, hframe]
    rfl
  · rw [slotOnly, ht, hframe]
    rfl

/-- A line the host gives up without writing it (14 R372). -/
theorem slot_drop (h : AtPort s (.drop a) a) (hr : recalled s (a / 64) = false) (hl : a % 64 = 0) (hm : hostMay s a 64 [] = true)
    (hf : (dirFind s (a / 64)).isSome = true) :
    ∃ t, exec (.serviceSlot (a / 2 ^ 23)) s = .next t ∧ dirFind t (a / 64) = none ∧
      (∀ l, l ≠ a / 64 → dirFind t l = dirFind s l) ∧ t.dram = s.dram ∧ t.out = s.out ++ [.hostReply 0 []] ∧
      slotOnly s t := by
  have hone : a % 64 + svcTouch (hostAt (.drop a) a) ≤ 64 := show a % 64 + 64 ≤ 64 by omega
  obtain ⟨ts, hts⟩ := slot_done h hr (show 0 < 64 by decide) hone rfl
  set t := reply (dirFree { s with tiles := ts } (a / 64)) SC [] with ht
  have hf' : (dirFind { s with tiles := ts } (a / 64)).isNone = false := by
    rw [Option.isNone_eq_false_iff]
    exact hf
  have hact : cohAct { s with tiles := ts } (.drop a) = (t, true) := by
    simp only [cohAct, hostMay_tiles, hm, hf']
    rfl
  have hframe := dirFree_frame { s with tiles := ts } (a / 64)
  have hsound : t.errs = Errs.none := by rw [ht, hframe]; exact h.sound
  have hdir : t.dir = s.dir.filter (fun e => e.line ≠ a / 64) := by rw [ht, hframe]; rfl
  have hw : t.cohWait = [] := by rw [ht, hframe]; exact h.first
  refine ⟨t, hts t hact hw, dirFind_freed hsound hdir, fun l hl => dirFind_kept h.sound hsound hdir hl, ?_, ?_, ?_⟩
  · rw [ht, hframe]
    rfl
  · rw [ht, hframe]
    rfl
  · rw [slotOnly, ht, hframe]
    rfl

/-- The data of an answer to a back-invalidation: they are written, and the line is free (14 R373). -/
theorem slot_binvWb {d : List Byte} (h : AtPort s (.binvWb a d) a) (hd : d.length = 64) (he : heldE s (a / 64) = true) :
    ∃ t, exec (.serviceSlot (a / 2 ^ 23)) s = .next t ∧ memRead t.dram a 64 = d ∧
      (∀ x, x < a ∨ a + 64 ≤ x → memByte t.dram x = memByte s.dram x) ∧ recalled t (a / 64) = false ∧
      dirFind t (a / 64) = none ∧ t.out = s.out ∧ slotOnly s t := by
  obtain ⟨ts, hts⟩ := serviceSlot_host h fun u _ => svcWaits_writeback rfl _ _
  set t := takeWriteback { s with tiles := ts } a d with ht
  have he' : heldE { s with tiles := ts } (a / 64) = true := he
  have hframe : t = { s with
      dir := s.dir.filter (fun e => e.line ≠ a / 64), regs := t.regs, tiles := ts, dram := memWrite s.dram a d
      recalls := s.recalls.filter (fun x => x.line ≠ a / 64) } := by
    rw [ht, takeWriteback, he', if_pos rfl, dirFree_frame]
    rfl
  have hsound : t.errs = Errs.none := by rw [hframe]; exact h.sound
  have hdir : t.dir = s.dir.filter (fun e => e.line ≠ a / 64) := by rw [hframe]
  have hrec : t.recalls = s.recalls.filter (fun x => x.line ≠ a / 64) := by rw [hframe]
  have hdram : t.dram = memWrite s.dram a d := by rw [hframe]
  have hw : t.cohWait = [] := by rw [hframe]; exact h.first
  refine ⟨t, ?_, ?_, fun x hx => ?_, recalled_over hrec, dirFind_freed hsound hdir, ?_, ?_⟩
  · rw [hts, serveHost, ← ht, cohRetry_empty hw]
  · rw [hdram, ← hd]
    exact memRead_memWrite_same _ _ _
  · rw [hdram]
    exact memByte_memWrite_out _ _ _ _ (by omega)
  · rw [hframe]
  · rw [slotOnly, hframe]

/-- Requests on their way to their port, waiting, or to an absent tile. -/
theorem hostRequests_routed (s : State) (a n : Nat) (be : List Bool) (d w : List Byte) (ha : a % 64 = 0) (hw : w.length = 64)
    (hn : 8 ≤ n) (hn' : n ≤ 64) (hbe : be.length = d.length) (hd : 8 ≤ d.length) (hd' : d.length ≤ 64) :
    ∀ i ∈ [Instr.rdS a, .rdE a, .rdNc a n, .wrNc a be d, .wb a w, .drop a],
      (Reaches s a → exec i s = .next (pushSvc s a (hostOp i) (.host i)) ∧
        port (pushSvc s a (hostOp i) (.host i)) (a / 2 ^ 37) (a / 2 ^ 23 % 16384) =
          port s (a / 2 ^ 37) (a / 2 ^ 23 % 16384) ++ [⟨a % 2 ^ 23, hostOp i, .host i, 0, [], false, false⟩]) ∧
      (s.life = .up → s.muted = false → dieLive s (a / 2 ^ 37) = true → a < 2 ^ 43 →
        (i ≠ .wb a w ∧ recalled s (a / 64) = true) ∨ (recalled s (a / 64) = false ∧ lineBusy s (a / 64) = true) →
        exec i s = .next { s with cohWait := s.cohWait ++ [i] }) ∧
      (s.life = .up → s.muted = false → dieLive s (a / 2 ^ 37) = false → a < 2 ^ 43 →
        exec i s = .next { s with out := s.out ++ [.hostReply 1 []] }) := by
  intro i hi
  obtain ⟨haddr, hpass, m, hm, hl, he⟩ := exec_hostRequest ha hw hn hn' hbe hd hd' hi s
  refine ⟨fun h => ⟨by rw [he, hostReq_reaches h haddr hm hl], port_pushSvc ..⟩, fun hup hmute hlive hin hwait => ?_,
    fun hup hmute hdark hin => ?_⟩
  · rw [he, hostReq_up hup hmute hin hm hl, if_pos hlive, cohTry_waits haddr (hwait.imp_left fun ⟨h, hr⟩ => ⟨hpass h, hr⟩)]
  · rw [he, hostReq_up hup hmute hin hm hl, hdark]
    rfl

/-- The answers of the host to a back-invalidation. -/
theorem answers_end_recalls (s : State) (a : Nat) (r : Recall) (d : List Byte) (hup : s.life = .up) (hm : s.muted = false)
    (hin : a < 2 ^ 43) (hl : a % 64 = 0) (hc : s.cohWait = []) (hr : s.recalls.find? (fun r => r.line = a / 64) = some r)
    (hd : d.length = 64) :
    (r.wb = false → s.errs = Errs.none → ∀ i ∈ [Instr.binvAck a] ++ (if heldE s (a / 64) then [] else [.binvWb a d]),
      ∃ t, exec i s = .next t ∧ LineFreed s t (a / 64)) ∧
    (r.wb = false → heldE s (a / 64) = true →
      exec (.binvWb a d) s = .next (pushSvc s a (.write d) (.host (.binvWb a d)))) ∧
    (r.wb = true → ∀ i ∈ [Instr.binvAck a, .binvWb a d],
      exec i s = .next { s with recalls := s.recalls.filter (fun x => x.line ≠ a / 64) }) := by
  have hack : exec (.binvAck a) s = .next (binvAnswer s a none) := binvTxn_up hup hm hin hl (fun _ => nofun)
  have hwb : exec (.binvWb a d) s = .next (binvAnswer s a (some d)) :=
    binvTxn_up hup hm hin hl (fun x hx => Option.some.inj hx ▸ hd)
  refine ⟨fun hw hs i hi => ?_, fun hw he => by rw [hwb, binvAnswer_writes hr hw he], fun hw i hi => ?_⟩
  · have hfreed := lineFreed_of_recall hs (a / 64)
    obtain rfl | ⟨he, rfl⟩ : i = .binvAck a ∨ heldE s (a / 64) = false ∧ i = .binvWb a d := by
      cases he : heldE s (a / 64) <;> simpa [he] using hi
    · exact ⟨_, hack, binvAnswer_frees hc hr hw (.inl rfl) ▸ hfreed⟩
    · exact ⟨_, hwb, binvAnswer_frees hc hr hw (.inr he) ▸ hfreed⟩
  · obtain rfl | rfl : i = .binvAck a ∨ i = .binvWb a d := by simpa using hi
    · rw [hack, binvAnswer_discards hc hr hw]
    · rw [hwb, binvAnswer_discards hc hr hw]

/-- RD_S and RD_E of a free line where HOST and the permissions allow (14 R371). -/
theorem grants_served (hr : recalled s (a / 64) = false) :
    ∀ r ∈ [(Instr.rdS a, false, [1]), (Instr.rdE a, true, [1, 2])], AtPort s r.1 a → a % 64 = 0 →
      hostMay s a 64 r.2.2 = true → dirFind s (a / 64) = none →
      (dirSet s (a / 64)).length + freedUnanswered s (a / 64) < 16 →
      ∃ t, exec (.serviceSlot (a / 2 ^ 23)) s = .next t ∧ t.dir = s.dir ++ [⟨a / 64, r.2.1⟩] ∧ t.dram = s.dram ∧
        t.recalls = s.recalls ∧ t.out = s.out ++ [.hostReply 0 (memRead s.dram a 64)] ∧ slotOnly s t := by
  intro r hmem h hl hm hf hroom
  have hone : a % 64 + 64 ≤ 64 := by omega
  obtain rfl | rfl : r = (Instr.rdS a, false, [1]) ∨ r = (Instr.rdE a, true, [1, 2]) := by simpa using hmem
  · exact slot_granted h hr (show 0 < 64 by decide) hone rfl
      (fun ts => cohAct_rdS h.sound ((hostMay_tiles ts ..).trans hm) (heldE_none hf)) hf hroom
  · exact slot_granted h hr (show 0 < 64 by decide) hone rfl
      (fun ts => cohAct_rdE h.sound ((hostMay_tiles ts ..).trans hm)) hf hroom

/-- What HOST or the permissions do not allow (12 R333). -/
theorem forbidden_refused (hr : recalled s (a / 64) = false) :
    ∀ r ∈ [(Instr.rdS a, [1]), (Instr.rdE a, [1, 2]), (Instr.rdNc a 64, [1]), (Instr.drop a, [])], AtPort s r.1 a →
      a % 64 = 0 → hostMay s a 64 r.2 = false →
      ∃ t, exec (.serviceSlot (a / 2 ^ 23)) s = .next t ∧
        t = { s with out := s.out ++ [.hostReply 2 []], tiles := t.tiles } := by
  intro r hmem h hl hm
  have hone : a % 64 + 64 ≤ 64 := by omega
  simp only [List.mem_cons, List.not_mem_nil, or_false] at hmem
  have hca (ts : SMap Tile) : cohAct { s with tiles := ts } r.1 = (reply { s with tiles := ts } CA [], true) := by
    obtain rfl | rfl | rfl | rfl := hmem <;>
    · simp only [cohAct, hostMay_tiles, hm]
      rfl
  have hread : 0 < svcTouch (hostAt r.1 a) ∧ a % 64 + svcTouch (hostAt r.1 a) ≤ 64 ∧ cohAddr r.1 = some a := by
    obtain rfl | rfl | rfl | rfl := hmem <;> exact ⟨show 0 < 64 by decide, hone, rfl⟩
  obtain ⟨hpos, hwithin, haddr⟩ := hread
  exact slot_refused h hr hpos hwithin haddr hca

/-- RD_S of a line the host holds in E (14 R371). -/
theorem exclusive_refused (hr : recalled s (a / 64) = false) (h : AtPort s (.rdS a) a) (hl : a % 64 = 0)
    (he : heldE s (a / 64) = true) :
    ∃ t, exec (.serviceSlot (a / 2 ^ 23)) s = .next t ∧
      t = { s with out := s.out ++ [.hostReply 2 []], tiles := t.tiles } := by
  have hone : a % 64 + 64 ≤ 64 := by omega
  refine slot_refused h hr (show 0 < 64 by decide) hone rfl fun ts => ?_
  have he' : heldE { s with tiles := ts } (a / 64) = true := he
  simp only [cohAct, he', Bool.or_true]
  rfl

/-- Settles O35: the way to the port, the answers to back-invalidations, and the service slot, request by request. -/
theorem coherenceCommandsComplete : Obligations.CoherenceCommandsComplete :=
  ⟨hostRequests_routed, fun _ _ _ h hn hl => hostReq_reaches h rfl hn hl,
    fun _ _ _ _ h hbe hd hl => (execWrNc_hostReq hbe).trans (hostReq_reaches h rfl hd hl), answers_end_recalls,
    fun _ _ hr => ⟨grants_served hr, fun _ h => slot_rdNc h hr, fun _ _ h => slot_wrNc h hr, fun _ h hd _ => slot_wb h hd,
      fun h => slot_drop h hr, forbidden_refused hr, fun h hl he _ => exclusive_refused hr h hl he⟩,
    fun _ _ _ h hd _ => slot_binvWb h hd⟩

end Sys2Proof.Machine
end

section
/-! SUPPORT. The floating-point rows, scalar and by lane, and the block rows: what each plan does to its core (02 R35 to R66; 04
R98; 05 R140, R143, R144). -/
namespace Sys2Proof.Machine
open Sys2Proof.Safety Sys2Proof.Claims

-- Rows that issue one plan -------------------------------------------------------------------------------------------

/-- The row issues this plan, its result under a residue check or not (17 R440). -/
def IssuesPlan (i : Instr) (c : Nat) (p : Pred) (plan : State → Core → Plan) : Prop :=
  ∀ s, exec i s = issue c p (residue 15 plan) s ∨ exec i s = issue c p plan s

/-- On a core without errors the residue check is no matter. -/
theorem IssuesPlan.next {i : Instr} {c : Nat} {p : Pred} {plan : State → Core → Plan} {s : State} {needs : List Need}
    {g : Nat → Core → Core} (hi : IssuesPlan i c p plan) (h : Fires s c p) (hv : Vacant s c needs)
    (hp : ActsOnCore (plan s (coreOf s c)) c needs g) : exec i s = .next (afterIssue s c needs (g s.plane.cyc)) := by
  rcases hi s with he | he
  · exact he.trans (issue_acts h hv ((residue_acts ..).mpr hp))
  · exact he.trans (issue_acts h hv hp)

/-- An operand a row takes only when it has `n` operands or more. -/
theorem operand_eq {α : Type} {ar n : Nat} {o : Option α} {y z : α} (h : if n ≤ ar then o = some y else y = z) :
    (if ar < n then some z else o) = some y := by
  split at h
  case isTrue hn => rw [if_neg (Nat.not_lt.mpr hn), h]
  case isFalse hn => rw [if_pos (Nat.not_le.mp hn), h]

-- Scalar floating point ----------------------------------------------------------------------------------------------

theorem wideFmt_of_cases {ty : BitVec 5} {fmt : FpFmt} {w : Nat}
    (h : ty = 0 ∧ fmt = fFP64 ∧ w = 64 ∨ ty = 1 ∧ fmt = fFP32 ∧ w = 32) : wideFmt ty = some (fmt, w) := by
  obtain ⟨rfl, rfl, rfl⟩ | ⟨rfl, rfl, rfl⟩ := h <;> rfl

/-- The arithmetic rows are under the residue check; minima, maxima and sign operations are not. -/
theorem scalarFpRows_issue : ∀ row ∈ scalarFpRows, ∀ (c : Nat) (p : Pred) (f : FmtR),
    IssuesPlan (row.1 c p f) c p (fpPlan c row.2.1 row.2.2.1 row.2.2.2 f) := by
  simp only [scalarFpRows, List.forall_mem_cons]
  exact ⟨fun _ _ _ _ => .inl rfl, fun _ _ _ _ => .inl rfl, fun _ _ _ _ => .inl rfl, fun _ _ _ _ => .inl rfl,
    fun _ _ _ _ => .inl rfl, fun _ _ _ _ => .inl rfl, fun _ _ _ _ => .inr rfl, fun _ _ _ _ => .inr rfl,
    fun _ _ _ _ => .inr rfl, fun _ _ _ _ => .inr rfl, fun _ _ _ _ => .inr rfl, fun _ _ _ _ => .inr rfl,
    fun _ h => absurd h List.not_mem_nil⟩

/-- The latency of a scalar floating-point row, on the divider or on FPD (04 R98). -/
def fpLatency (dv : Bool) (w : Nat) : Nat := if dv then (if w = 64 then 26 else 12) else fpT w

/-- What a scalar floating-point row occupies: the divider for its whole latency, or FPD for one cycle (04 R98). -/
def fpNeed (dv : Bool) (w : Nat) : List Need := if dv then nDIV (fpLatency dv w) else nFPD 1

/-- A scalar floating-point plan raises the flags of its one operation and writes the result after the latency of its unit. -/
theorem fpPlan_acts {c ar : Nat} {dv : Bool} {op : FpOp} {f : FmtR} {s : State} {k : Core} {fmt : FpFmt} {w d x y z : Nat} {rm : Rm}
    (hf : wideFmt f.ty = some (fmt, w)) (hr : rmOf k f.rm = some rm) (hd : scalarDst w f.rd = some d)
    (hx : scalarSrc k w f.ra = some x) (hy : (if ar < 2 then some 0 else scalarSrc k w f.rb) = some y)
    (hz : (if ar < 3 then some 0 else scalarSrc k w f.rc) = some z) :
    ActsOnCore (fpPlan c ar dv op f s k) c (fpNeed dv w) (fun n k =>
      putScalar w (raiseFp k (op fmt rm x y z).2) (n + fpLatency dv w) d (op fmt rm x y z).1) := by
  simp only [fpPlan, hf, hr, hd, hx, hy, hz, reading_acts]
  cases dv <;> exact onCore_acts ..

theorem planFcmp_acts {c : Nat} {f : FmtR} {s : State} {k : Core} {fmt : FpFmt} {w d x y : Nat} {cond : FCond}
    (hf : wideFmt f.ty = some (fmt, w)) (hc : fcondOf f.fn.toNat = some cond) (hr : (rmOf k f.rm).isSome = true)
    (hd : pReg f.rd = some d) (hx : scalarSrc k w f.ra = some x) (hy : scalarSrc k w f.rb = some y) :
    ActsOnCore (planFcmp c f s k) c (nFPD 1) (fun n k =>
      addWb (raiseFp k (fpCompare fmt cond x y).2) (n + fpT w) (.p d) (fpCompare fmt cond x y).1.toNat) := by
  obtain ⟨rm, hr⟩ := Option.isSome_iff_exists.mp hr
  simp only [planFcmp, hf, hc, hr, hd, hx, hy, reading_acts, Bool.toNat, Bool.cond_eq_ite]
  exact onCore_acts ..

theorem planFcvt_acts {c : Nat} {f : FmtR} {s : State} {k : Core} {src dst : Ty} {rm : Rm} {d x : Nat} {r : Nat × FFlags}
    (ht : tyOf f.ty = some dst) (hn : tyOfCode (f.fn.toNat % 32) = some src) (hr : rmOf k f.rm = some rm)
    (hs : scalarCvtTy src = true) (hdst : scalarCvtTy dst = true) (hd : scalarDst (tyWidth dst) f.rd = some d)
    (hx : scalarSrc k (tyWidth src) f.ra = some x) (hv : cvtTy src dst rm f.sat (x % 2 ^ tyWidth src) = some r) :
    ActsOnCore (planFcvt c f s k) c (nFPD 1) (fun n k =>
      putScalar (tyWidth dst) (raiseFp k r.2) (n + if tyWidth src = 64 ∨ tyWidth dst = 64 then 6 else 4) d
        (extendTo32 dst r.1)) := by
  simp only [planFcvt, ht, hn, hr, hs, hdst, hd, hx, hv, Bool.not_true, Bool.or_false, Bool.false_eq_true, if_false,
    Option.getD_some, reading_acts]
  exact onCore_acts ..

/-- Settles O5: the twelve rows issue one plan of their operation; FCMP and FCVT have plans of their own. -/
theorem scalarFloatingPointRowsComplete : Obligations.ScalarFloatingPointRowsComplete := by
  refine ⟨?_, ?_, ?_⟩
  · intro row hrow s c p f fmt w d x y z rm hty hr hd hx hy hz t needs hfire hv
    exact (scalarFpRows_issue row hrow c p f).next (needs := fpNeed row.2.2.1 w) hfire hv
      (fpPlan_acts (wideFmt_of_cases hty) hr hd hx (operand_eq hy) (operand_eq hz))
  · intro s c p f fmt w d x y cond hty hc hr hd hx hy hfire hv
    exact issue_acts hfire hv (planFcmp_acts (wideFmt_of_cases hty) hc hr hd hx hy)
  · intro s c p f src dst rm d x r ht hn hr hs hdst hd hx hcv hfire hv
    exact issue_acts hfire hv (planFcvt_acts ht hn hr hs hdst hd hx hcv)

-- Results by lane ----------------------------------------------------------------------------------------------------

theorem getLsbD_foldl_or (fs : List FFlags) (a : FFlags) (b : Nat) :
    (fs.foldl (· ||| ·) a).getLsbD b = true ↔ a.getLsbD b = true ∨ ∃ f ∈ fs, f.getLsbD b = true := by
  induction fs generalizing a with
  | nil => simp
  | cons f fs ih => simp [ih, or_assoc]

/-- A flag is raised when some operation raises it. -/
theorem getLsbD_orFlags (fs : List FFlags) (b : Nat) : (orFlags fs).getLsbD b = true ↔ ∃ f ∈ fs, f.getLsbD b = true := by
  simp [orFlags, getLsbD_foldl_or]

theorem laneOf_laneOp {fmt : FpFmt} {rm : Rm} {op : FpOp} {w : Nat} {x y z : VWord} {i : Nat} (hi : i < 512 / w) :
    laneOf w (laneOp fmt rm op w x y z).1 i = (op fmt rm (laneOf w x i) (laneOf w y i) (laneOf w z i)).1 % 2 ^ w := by
  rw [laneOp, packRes, laneOf_packLanes w _ i (by simpa using hi) (by simpa using Nat.mul_div_le 512 w)]
  simp

theorem flags_laneOp {fmt : FpFmt} {rm : Rm} {op : FpOp} {w : Nat} {x y z : VWord} {b : Nat} :
    (laneOp fmt rm op w x y z).2.getLsbD b = true ↔
      ∃ i < 512 / w, (op fmt rm (laneOf w x i) (laneOf w y i) (laneOf w z i)).2.getLsbD b = true := by
  simp [laneOp, packRes, getLsbD_orFlags]

-- Vector floating point ----------------------------------------------------------------------------------------------

/-- The narrow types are not wide. -/
theorem wideFmt_of_narrowFmt {ty : BitVec 5} {x : FpFmt × Nat} (h : narrowFmt ty = some x) : wideFmt ty = none := by
  unfold narrowFmt at h
  split at h <;> simp_all [wideFmt]

/-- The arithmetic rows are under the residue check; minima, maxima and sign operations are not. -/
theorem vectorFpRows_issue : ∀ row ∈ vectorFpRows, ∀ (c : Nat) (p : Pred) (f : FmtR),
    IssuesPlan (row.1 c p f) c p (vfPlan c row.2.1 row.2.2.1 row.2.2.2.1 row.2.2.2.2 f) := by
  simp only [vectorFpRows, List.forall_mem_cons]
  exact ⟨fun _ _ _ _ => .inl rfl, fun _ _ _ _ => .inl rfl, fun _ _ _ _ => .inl rfl, fun _ _ _ _ => .inl rfl,
    fun _ _ _ _ => .inl rfl, fun _ _ _ _ => .inl rfl, fun _ _ _ _ => .inr rfl, fun _ _ _ _ => .inr rfl,
    fun _ _ _ _ => .inr rfl, fun _ _ _ _ => .inr rfl, fun _ _ _ _ => .inr rfl, fun _ _ _ _ => .inr rfl,
    fun _ h => absurd h List.not_mem_nil⟩

/-- A vector floating-point plan raises the flags of all lanes and writes the packed lanes to its one destination. -/
theorem vfPlan_acts {c ar : Nat} {dv nar narrow : Bool} {op : FpOp} {f : FmtR} {s : State} {k : Core} {fmt : FpFmt} {w ra rd : Nat}
    {rm : Rm} {y z : VWord}
    (hf : wideFmt f.ty = some (fmt, w) ∧ narrow = false ∨ nar = true ∧ narrowFmt f.ty = some (fmt, w) ∧ narrow = true)
    (hr : rmOf k f.rm = some rm) (ha : vReg f.ra = some ra) (hd : vReg f.rd = some rd)
    (hy : (if ar < 2 then some 0 else (vReg f.rb).map (vGet k)) = some y)
    (hz : (if ar < 3 then some 0 else (vReg f.rc).map (vGet k)) = some z) :
    ActsOnCore (vfPlan c ar dv nar op f s k) c (vfNeed dv narrow w) (fun n j =>
      addWb (raiseFp j (laneOp fmt rm op w (vGet k ra) y z).2) (n + vfT dv narrow w) (.v rd)
        (laneOp fmt rm op w (vGet k ra) y z).1.toNat) := by
  obtain ⟨hw, rfl⟩ | ⟨rfl, hn, rfl⟩ := hf
  · simp only [vfPlan, hw, hr, ha, hd, hy, hz, reading_acts]
    exact onCore_acts ..
  · simp only [vfPlan, wideFmt_of_narrowFmt hn, hn, if_true, hr, ha, hd, hy, hz, reading_acts]
    exact onCore_acts ..

/-- Settles O6: the twelve rows issue one plan of their operation, whose result is packed by lane. -/
theorem vectorFloatingPointRowsWorkByLane : Obligations.VectorFloatingPointRowsWorkByLane := by
  intro row hrow s c p f fmt w ra rd rm y z narrow hty hr ha hd hy hz hfire hv
  exact ⟨_, _, fun _ hi => laneOf_laneOp hi, fun _ _ => flags_laneOp,
    (vectorFpRows_issue row hrow c p f).next hfire hv (vfPlan_acts hty hr ha hd (operand_eq hy) (operand_eq hz))⟩

-- Blocks -------------------------------------------------------------------------------------------------------------

/-- A local-store access at its alignment and inside the store meets no fault (04 R101). -/
theorem lsFaults_nil {a n align : Nat} (ha : a % align = 0) (hn : a + n ≤ 0xC000) : lsFaults a n align = [] := by
  simp [lsFaults, ha, hn]

/-- An access to local store that meets no fault, while no sparse-unit instruction is outstanding (04 R101, 06 R160). -/
theorem onCore_acts_clash {c : Nat} {needs : List Need} {g : Nat → Core → Core} {faults : List Nat} {clash : Bool}
    (hf : faults = []) (hc : clash = false) : ActsOnCore { onCore c needs g faults with clash := clash } c needs g := by
  subst hf hc
  exact onCore_acts ..

/-- What quantising a block leaves: the flags, the count of lost elements, the scale byte in s[rc], and the elements of `w` bits at
`d` (02 R58 to R66). -/
def putBlock (q : QBlock) (w rc due : Nat) (d : Dst) (k : Core) : Core :=
  addWb (addWb (addLost (raiseFp k q.flags) q.lost) due (.s rc) q.scale) due d (natLE (packCodes w q.codes))

section Mx
variable {c : Nat} {f : FmtR} {s : State} {k : Core} {fmt : FpFmt} {w ra rc rd : Nat} {ef : ElemFmt}

theorem planVqmx_acts_register (hf : blockWide f = some (fmt, w)) (he : mxElem f.ty = some ef) (hc : sReg f.rc = some rc)
    (ha : (if w = 32 then vPair f.ra else vReg f.ra) = some ra) (h6 : elemWidth ef ≠ 6) (hd : vReg f.rd = some rd) :
    ActsOnCore (planVqmx c f s k) c (nVIU 2) (fun n =>
      putBlock (mxQuantise ef ((pairLanes k ra w 32).map (fpDecode fmt))) (elemWidth ef) rc (n + 6) (.v rd)) := by
  simp only [planVqmx, hf, he, hc, ha, h6, if_false, hd, reading_acts]
  exact onCore_acts ..

/-- MXFP6 elements go to local store (05 R144). -/
theorem planVqmx_acts_store (hf : blockWide f = some (fmt, w)) (he : mxElem f.ty = some ef) (hc : sReg f.rc = some rc)
    (ha : (if w = 32 then vPair f.ra else vReg f.ra) = some ra) (h6 : elemWidth ef = 6) (hd : sReg f.rd = some rd)
    (ho : k.sparseOut = false) (h8 : (sGet k rd).toNat % 8 = 0) (hin : (sGet k rd).toNat + 24 ≤ 0xC000)
    (hp : protectedAt k (sGet k rd).toNat 24 = []) :
    ActsOnCore (planVqmx c f s k) c (nVIU 2 ++ nLSP) (fun n =>
      putBlock (mxQuantise ef ((pairLanes k ra w 32).map (fpDecode fmt))) 6 rc (n + 6) (.ls (sGet k rd).toNat 24)) := by
  simp only [planVqmx, hf, he, hc, ha, h6, if_true, hd, reading_acts]
  exact onCore_acts_clash (by rw [lsFaults_nil h8 hin, hp]; rfl) ho

/-- What decoding a block leaves: the flags of all values, and the values in one vector register or, of 32 bits, in a pair
(02 R60). -/
def putValues (w rd due : Nat) (rs : List (Nat × FFlags)) (k : Core) : Core :=
  let lo := packRes w (rs.take (512 / w))
  let hi := packRes w (rs.drop (512 / w))
  let k := addWb (raiseFp k (lo.2 ||| hi.2)) due (.v rd) lo.1.toNat
  if w = 32 then addWb k due (.v (rd + 1)) hi.1.toNat else k

/-- Where VDQMX finds its elements: in a vector register, or MXFP6 in local store, where the access meets no fault (05 R144). -/
def MxSource (k : Core) (ef : ElemFmt) (b : BitVec 6) (bytes : List Byte) : Prop :=
  elemWidth ef ≠ 6 ∧ (∃ ra, vReg b = some ra ∧ bytes = vecBytes (vGet k ra)) ∨
    elemWidth ef = 6 ∧ k.sparseOut = false ∧ ∃ ra, sReg b = some ra ∧ (sGet k ra).toNat % 8 = 0 ∧
      (sGet k ra).toNat + 24 ≤ 0xC000 ∧ ungated k (sGet k ra).toNat 24 = [] ∧ bytes = memRead k.ls (sGet k ra).toNat 24

theorem planVdqmx_acts {bytes : List Byte} (hf : blockWide f = some (fmt, w)) (he : mxElem f.ty = some ef)
    (hc : sReg f.rc = some rc) (hd : (if w = 32 then vPair f.rd else vReg f.rd) = some rd) (hb : MxSource k ef f.ra bytes) :
    ActsOnCore (planVdqmx c f s k) c (nVIU 2 ++ if elemWidth ef = 6 then nLSP else []) (fun n =>
      putValues w rd (n + 6) ((unpackCodes (elemWidth ef) 32 bytes).map (mxDecode ef fmt ((sGet k rc).toNat % 256)))) := by
  obtain ⟨h6, ra, ha, rfl⟩ | ⟨h6, ho, ra, ha, h8, hin, hu, rfl⟩ := hb
  · simp only [planVdqmx, hf, he, hc, hd, h6, ha, if_false, Option.isSome_some, reading_acts]
    exact onCore_acts_clash rfl rfl
  · simp only [planVdqmx, hf, he, hc, hd, h6, ha, if_true, Option.isSome_some, reading_acts]
    exact onCore_acts_clash (by rw [lsFaults_nil h8 hin, hu]; rfl) ho

end Mx

section Eb4
variable {c : Nat} {f : FmtR} {s : State} {k : Core} {fmt : FpFmt} {w ra rb rc rd : Nat}

theorem planVqeb4_acts (hf : blockWide f = some (fmt, w)) (ht : tyOf f.ty = some .eb4) (hc : sReg f.rc = some rc)
    (hb : sReg f.rb = some rb) (ha : vReg f.ra = some ra) (hd : vReg f.rd = some rd) (hok : eb4ScaleOk (sGet k rb).toNat = true) :
    ActsOnCore (planVqeb4 c f s k) c (nVIU 2) (fun n =>
      putBlock (eb4Quantise (sGet k rb).toNat ((List.range 16).map (fun i => fpDecode fmt (laneOf w (vGet k ra) i)))) 4 rc (n + 6)
        (.v rd)) := by
  simp only [planVqeb4, hf, ht, hc, hb, ha, hd, hok, if_true, List.map_map, reading_acts]
  exact onCore_acts ..

theorem planVdqeb4_acts (hf : blockWide f = some (fmt, w)) (ht : tyOf f.ty = some .eb4) (hc : sReg f.rc = some rc)
    (hb : sReg f.rb = some rb) (ha : vReg f.ra = some ra) (hd : vReg f.rd = some rd) (hok : eb4ScaleOk (sGet k rb).toNat = true) :
    let r := packRes w ((List.range 16).map (fun i =>
      eb4Decode fmt (sGet k rb).toNat ((sGet k rc).toNat % 256) (laneOf 4 (vGet k ra) i)))
    ActsOnCore (planVdqeb4 c f s k) c (nVIU 2) (fun n k => addWb (raiseFp k r.2) (n + 6) (.v rd) r.1.toNat) := by
  simp only [planVdqeb4, hf, ht, hc, hb, ha, hd, hok, if_true, reading_acts]
  exact onCore_acts ..

end Eb4

/-- Settles O9: each block row issues its plan, VQMX with its elements in a register or in local store. -/
theorem blockRowsComplete : Obligations.BlockRowsComplete := by
  refine ⟨?_, ?_, ?_⟩
  · intro s c p f fmt w ra rc ef hf he hc ha hfire q
    exact ⟨fun rd h6 hd hv => issue_acts hfire hv (planVqmx_acts_register hf he hc ha h6 hd),
      fun rd h6 hd hv ho h8 hin hp => issue_acts hfire hv (planVqmx_acts_store hf he hc ha h6 hd ho h8 hin hp)⟩
  · intro s c p f fmt w rc rd ef bytes hf he hc hd hfire needs hv hb rs lo hi
    exact issue_acts hfire hv (planVdqmx_acts hf he hc hd hb)
  · intro s c p f fmt w ra rb rc rd hf ht hc hb ha hd hok hfire hv t q r
    exact ⟨issue_acts hfire hv (planVqeb4_acts hf ht hc hb ha hd hok),
      issue_acts hfire hv (planVdqeb4_acts hf ht hc hb ha hd hok)⟩

end Sys2Proof.Machine
end

section
/-! SUPPORT. The accumulator rows: what one operation on one entry does to the core, the same of a run of operations on distinct
entries, and what each row makes of it (03 R71, R84, R89, R91, R92; 05 R149, R150). -/
namespace Sys2Proof.Machine
open Sys2Proof.Safety

-- Entries and the pipeline -------------------------------------------------------------------------------------------

theorem accGet_accSet (k : Core) (i j : Nat) (e : AccEntry) : accGet (accSet k i e) j = if j = i then e else accGet k j :=
  smGet_smSet ..

@[simp] theorem accGet_addMx (k : Core) (due : Nat) (as : List MxAct) (i : Nat) : accGet (addMx k due as) i = accGet k i := rfl
@[simp] theorem accGet_retire (k : Core) (n : Nat) (ws : List Need) (i : Nat) : accGet (retire k n ws) i = accGet k i := rfl
@[simp] theorem last_retire (k : Core) (n : Nat) (ws : List Need) : (retire k n ws).last = k.pc := rfl
@[simp] theorem last_accSet (k : Core) (i : Nat) (e : AccEntry) : (accSet k i e).last = k.last := rfl
@[simp] theorem mx_addMx (k : Core) (due : Nat) (as : List MxAct) :
    (addMx k due as).mx = k.mx ++ as.map (fun a => ⟨due, a, k.last⟩) := rfl
@[simp] theorem mx_accSet (k : Core) (i : Nat) (e : AccEntry) : (accSet k i e).mx = k.mx := rfl
@[simp] theorem addMx_nil (k : Core) (due : Nat) : addMx k due [] = k := by simp [addMx]

-- Operations on entries ----------------------------------------------------------------------------------------------

/-- What an operation makes of an entry: the entry before and after it, and the actions that enter the pipeline for it. -/
abbrev EntryRule := AccEntry → AccEntry → List MxAct → Prop

/-- `t` is `k` once each entry `pos x` with `x` of `xs` has gone by `rule x`, its actions due in cycle `due`. Nothing but entries
and the pipeline changes. No other entry changes and the pipeline loses nothing; where `lossy` holds it may lose what it held
for these entries, and the model's own entries from 256 on may take it up (log 10). -/
structure TouchesEntries {ι : Type} (lossy : Bool) (due : Nat) (pos : ι → Nat) (rule : ι → EntryRule) (xs : List ι) (k t : Core) :
    Prop where
  frame : t = { k with acc := t.acc, mx := t.mx }
  each : ∀ x ∈ xs, ∃ as, rule x (accGet k (pos x)) (accGet t (pos x)) as ∧ ∀ a ∈ as, ⟨due, a, k.last⟩ ∈ t.mx
  other : ∀ j ∉ xs.map pos, (lossy = true → j < 256) → accGet t j = accGet k j
  kept : ∀ m ∈ k.mx, (lossy = true → ∀ x ∈ xs, actOf (pos x) m.act = false) → m ∈ t.mx

/-- A rule whose actions are all of its own entry. -/
def OwnActs (i : Nat) (rule : EntryRule) : Prop := ∀ e e' as, rule e e' as → ∀ a ∈ as, ∀ j, actOf j a = true → j = i

section Touches
variable {ι : Type} {lossy : Bool} {due : Nat} {pos : ι → Nat} {rule : ι → EntryRule} {k l t : Core}

theorem frame_trans (h : l = { k with acc := l.acc, mx := l.mx }) (h' : t = { l with acc := t.acc, mx := t.mx }) :
    t = { k with acc := t.acc, mx := t.mx } :=
  h'.trans (by rw [h])

theorem TouchesEntries.last {xs : List ι} (h : TouchesEntries lossy due pos rule xs k t) : t.last = k.last := by rw [h.frame]

theorem TouchesEntries.nil : TouchesEntries lossy due pos rule [] k k :=
  ⟨rfl, by simp, fun _ _ _ => rfl, fun _ h _ => h⟩

/-- An operation on one entry, then operations on others, are operations on all of them. -/
theorem TouchesEntries.cons {x : ι} {xs : List ι} (h : TouchesEntries lossy due pos rule [x] k l)
    (h' : TouchesEntries lossy due pos rule xs l t) (hx : pos x ∉ xs.map pos)
    (hlossy : lossy = true → ∀ y ∈ x :: xs, pos y < 256 ∧ OwnActs (pos y) (rule y)) :
    TouchesEntries lossy due pos rule (x :: xs) k t where
  frame := frame_trans h.frame h'.frame
  each := by
    intro y hy
    rcases List.mem_cons.mp hy with rfl | hy
    · obtain ⟨as, hr, hm⟩ := h.each y (List.mem_singleton_self y)
      have ht := h'.other _ hx (fun o => (hlossy o y (List.mem_cons_self ..)).1)
      refine ⟨as, ht ▸ hr, fun a ha => h'.kept _ (hm a ha) fun o z hz => Bool.eq_false_iff.mpr fun hact => hx ?_⟩
      have hyz := (hlossy o y (List.mem_cons_self ..)).2 _ _ _ hr a ha _ hact
      exact hyz ▸ List.mem_map_of_mem hz
    · obtain ⟨as, hr, hm⟩ := h'.each y hy
      have hyx : pos y ∉ [x].map pos := fun hm => hx ((List.mem_singleton.mp hm) ▸ List.mem_map_of_mem hy)
      have hk := h.other _ hyx (fun o => (hlossy o y (List.mem_cons_of_mem _ hy)).1)
      exact ⟨as, hk ▸ hr, fun a ha => h.last ▸ hm a ha⟩
  other := by
    intro j hj hlim
    rw [List.map_cons, List.mem_cons, not_or] at hj
    rw [h'.other j hj.2 hlim, h.other j (by simpa using hj.1) hlim]
  kept m hm hno := h'.kept m (h.kept m hm fun o y hy => hno o y (by simp_all)) fun o y hy => hno o y (List.mem_cons_of_mem _ hy)

/-- A run of operations, each on an entry of its own. -/
theorem foldl_touches {op : Core → ι → Core} (hop : ∀ k x, TouchesEntries lossy due pos rule [x] k (op k x)) {xs : List ι}
    (hxs : (xs.map pos).Nodup) (hlossy : lossy = true → ∀ x ∈ xs, pos x < 256 ∧ OwnActs (pos x) (rule x)) (k : Core) :
    TouchesEntries lossy due pos rule xs k (xs.foldl op k) := by
  induction xs generalizing k with
  | nil => exact .nil
  | cons x xs ih =>
    obtain ⟨hx, hxs⟩ := List.nodup_cons.mp hxs
    exact (hop k x).cons (ih hxs (fun o y hy => hlossy o y (List.mem_cons_of_mem _ hy)) _) hx hlossy

/-- Writing an entry and adding actions to the pipeline goes by a rule that says so. -/
theorem accSet_addMx_touches {x : ι} {e : AccEntry} {as : List MxAct} (h : rule x (accGet k (pos x)) e as) :
    TouchesEntries lossy due pos rule [x] k (addMx (accSet k (pos x) e) due as) where
  frame := rfl
  each := by
    intro y hy
    obtain rfl := List.mem_singleton.mp hy
    exact ⟨as, by simpa [accGet_accSet] using h, fun a ha => List.mem_append_right _ (List.mem_map_of_mem ha)⟩
  other j hj _ := by
    rw [accGet_addMx, accGet_accSet, if_neg (by simpa using hj)]
  kept m hm _ := List.mem_append_left _ hm

theorem self_touches {x : ι} (h : rule x (accGet k (pos x)) (accGet k (pos x)) []) :
    TouchesEntries lossy due pos rule [x] k k where
  frame := rfl
  each := by
    intro y hy
    obtain rfl := List.mem_singleton.mp hy
    exact ⟨[], h, by simp⟩
  other _ _ _ := rfl
  kept _ hm _ := hm

/-- Entries numbered by lanes. -/
theorem TouchesEntries.lanes {rule : Nat → EntryRule} {xs : List ι} (h : TouchesEntries lossy due id rule (xs.map pos) k t) :
    TouchesEntries lossy due pos (fun x => rule (pos x)) xs k t where
  frame := h.frame
  each x hx := h.each (pos x) (List.mem_map_of_mem hx)
  other j hj := h.other j (by simpa using hj)
  kept m hm hno := h.kept m hm fun o i hi => by
    obtain ⟨x, hx, rfl⟩ := List.mem_map.mp hi
    exact hno o x hx

/-- An action for each entry that changes none of them. -/
def actRule (act : MxAct) : EntryRule := fun e e' as => e' = e ∧ as = [act]

theorem addMx_touches (k : Core) (due : Nat) (act : ι → MxAct) (xs : List ι) :
    TouchesEntries false due pos (fun x => actRule (act x)) xs k (addMx k due (xs.map act)) where
  frame := rfl
  each x hx := ⟨_, ⟨rfl, rfl⟩, fun a ha => by
    obtain rfl := List.mem_singleton.mp ha
    exact List.mem_append_right _ (List.mem_map_of_mem (List.mem_map_of_mem hx))⟩
  other _ _ _ := rfl
  kept _ hm _ := List.mem_append_left _ hm

/-- One rule, then another. -/
def EntryRule.andThen (r r' : EntryRule) : EntryRule := fun e e' as =>
  ∃ d bs bs', r e d bs ∧ r' d e' bs' ∧ as = bs ++ bs'

/-- A run of operations, then one on the same entries that loses nothing. -/
theorem TouchesEntries.andThen {rule' : ι → EntryRule} {xs : List ι} (h : TouchesEntries lossy due pos rule xs k l)
    (h' : TouchesEntries false due pos rule' xs l t) :
    TouchesEntries lossy due pos (fun x => (rule x).andThen (rule' x)) xs k t where
  frame := frame_trans h.frame h'.frame
  each x hx := by
    obtain ⟨bs, hr, hm⟩ := h.each x hx
    obtain ⟨bs', hr', hm'⟩ := h'.each x hx
    refine ⟨bs ++ bs', ⟨_, bs, bs', hr, hr', rfl⟩, fun a ha => ?_⟩
    rcases List.mem_append.mp ha with ha | ha
    · exact h'.kept _ (hm a ha) nofun
    · exact h.last ▸ hm' a ha
  other j hj hlim := (h'.other j hj nofun).trans (h.other j hj hlim)
  kept m hm hno := h'.kept m (h.kept m hm hno) nofun

end Touches

-- What each operation makes of its entry -----------------------------------------------------------------------------

/-- Opened by an MMA: initialised where INIT asks for it (03 R84, 05 R149), and otherwise as it stands, in direct mode if it was never
initialised (log 68). -/
def openRule (init : Bool) (fmt : AccFmt) (ctx : Nat → AccCtx) (i : Nat) : EntryRule := fun e e' as =>
  e' = { e with
    ctx := if init then ctx i else if e.ctx.live then e.ctx else ⟨true, fmt, .direct, 0, 0⟩
    sumFmt := if init || e.ctx.live then e.sumFmt else fmt
    opn := if init then [] else e.opn } ∧
  (init = true → .start i e'.ctx ∈ as)

/-- Appended to: a full group leaves the entry for the pipeline (03 R71, R89). -/
def appendRule (i : Nat) (cls : MClass) (sr : Bool) (pairs : List (Opnd × Opnd)) : EntryRule := fun e e' as =>
  let all := e.opn ++ pairs
  e' = { e with opn := if all.length < groupSize cls then all else all.drop (groupSize cls), cls := cls, sr := sr } ∧
    (groupSize cls ≤ all.length → .group i (all.take (groupSize cls)) e.ctx cls sr ∈ as)

/-- Drained: its open group, if there is one, and then its sum (03 R91). -/
def drainRule (i : Nat) : EntryRule := fun e e' as =>
  e' = { e with opn := [] } ∧ .drain i e.ctx ∈ as ∧ (e.opn ≠ [] → .group i e.opn e.ctx e.cls e.sr ∈ as)

/-- Given a value (05 R150). -/
def loadRule (i : Nat) (fmt : AccFmt) (v : DWord) : EntryRule := fun e e' as =>
  e' = { e with ctx := ⟨true, fmt, .direct, 0, 0⟩, opn := [] } ∧ ∃ old, as = [.load i fmt v old]

theorem initEntry_touches (k : Core) (n i : Nat) (fmt : AccFmt) (ctx : Nat → AccCtx) :
    TouchesEntries false (n + 6) id (openRule true fmt ctx) [i] k (initEntry k n i (ctx i)) :=
  accSet_addMx_touches ⟨rfl, fun _ => List.mem_singleton_self _⟩

/-- An MMA without INIT takes up an entry (03 R84; log 68). -/
def adoptEntry (fmt : AccFmt) (k : Core) (i : Nat) : Core :=
  let e := accGet k i
  if e.ctx.live then k else accSet k i { e with ctx := ⟨true, fmt, .direct, 0, 0⟩, sumFmt := fmt }

theorem adoptEntry_touches (k : Core) (due i : Nat) (fmt : AccFmt) (ctx : Nat → AccCtx) :
    TouchesEntries false due id (openRule false fmt ctx) [i] k (adoptEntry fmt k i) := by
  simp only [adoptEntry]
  split
  case isTrue h => exact self_touches ⟨by simp [h], nofun⟩
  case isFalse h =>
    rw [← addMx_nil (accSet ..) due]
    exact accSet_addMx_touches ⟨by simp [h], nofun⟩

theorem appendPairs_touches {ι : Type} {pos : ι → Nat} {x : ι} (pairs : ι → List (Opnd × Opnd)) (k : Core) (n : Nat) (cls : MClass)
    (sr : Bool) : TouchesEntries false (n + 6) pos (fun x => appendRule (pos x) cls sr (pairs x)) [x] k
      (appendPairs k n (pos x) cls sr (pairs x)) := by
  simp only [appendPairs]
  split
  case isTrue h =>
    rw [← addMx_nil (accSet ..) (n + 6)]
    exact accSet_addMx_touches ⟨by rw [if_pos h], fun hg => absurd h (Nat.not_lt.mpr hg)⟩
  case isFalse h => exact accSet_addMx_touches ⟨by rw [if_neg h], fun _ => List.mem_singleton_self _⟩

theorem drainEntry_touches (k : Core) (n i : Nat) :
    TouchesEntries false (n + 6) id drainRule [i] k (drainEntry n k i) :=
  accSet_addMx_touches ⟨rfl, by simp, fun ho => by simpa using ho⟩

theorem mem_keepDrained {idx to_ : Nat} {m : MxEvent} {es : List MxEvent} (hm : m ∈ es) (ha : actOf idx m.act = false) :
    m ∈ (keepDrained idx to_ es).1 := by
  induction es with
  | nil => exact hm
  | cons e es ih =>
    rcases List.mem_cons.mp hm with rfl | hm
    · simp [keepDrained, ha]
    · have := ih hm
      simp only [keepDrained]
      split
      · split
        · exact List.mem_cons_of_mem _ this
        · exact this
      · exact List.mem_cons_of_mem _ this

/-- A DRAIN goes on in an entry of the model's own (log 10). -/
theorem le_shadowOf (k : Core) (i : Nat) : 256 ≤ shadowOf k i := by
  unfold shadowOf; omega

/-- The core once an ACCINIT or ACCLD has discarded what its pipeline held for an entry, and set aside what a DRAIN still captures
(05 R150; log 10). -/
def discardHeld (k : Core) (i : Nat) : Core :=
  let r := keepDrained i (shadowOf k i) k.mx
  if r.2 then accSet { k with mx := r.1 } (shadowOf k i) (accGet k i) else { k with mx := r.1 }

theorem loadEntry_eq (k : Core) (n i : Nat) (fmt : AccFmt) (v : DWord) : ∃ old, loadEntry k n i fmt v =
    addMx (accSet (discardHeld k i) i { accGet k i with ctx := ⟨true, fmt, .direct, 0, 0⟩, opn := [] }) (n + 2)
      [.load i fmt v old] := ⟨_, rfl⟩

theorem discardHeld_frame (k : Core) (i : Nat) :
    discardHeld k i = { k with acc := (discardHeld k i).acc, mx := (discardHeld k i).mx } := by
  simp only [discardHeld]; split <;> rfl

theorem mx_discardHeld (k : Core) (i : Nat) : (discardHeld k i).mx = (keepDrained i (shadowOf k i) k.mx).1 := by
  simp only [discardHeld]; split <;> rfl

theorem accGet_discardHeld (k : Core) (i : Nat) {j : Nat} (hj : j < 256) : accGet (discardHeld k i) j = accGet k j := by
  have hs := le_shadowOf k i
  simp only [discardHeld]
  split
  · rw [accGet_accSet, if_neg (by omega)]; rfl
  · rfl

theorem loadEntry_touches {ι : Type} {pos : ι → Nat} (v : ι → DWord) (k : Core) (x : ι) (n : Nat) (fmt : AccFmt) :
    TouchesEntries true (n + 2) pos (fun x => loadRule (pos x) fmt (v x)) [x] k (loadEntry k n (pos x) fmt (v x)) := by
  obtain ⟨old, he⟩ := loadEntry_eq k n (pos x) fmt (v x)
  have hl : (discardHeld k (pos x)).last = k.last := by rw [discardHeld_frame]
  refine ⟨?_, fun y hy => ?_, fun j hj hlim => ?_, fun m hm hno => ?_⟩ <;> rw [he]
  · exact frame_trans (discardHeld_frame ..) rfl
  · obtain rfl := List.mem_singleton.mp hy
    exact ⟨_, ⟨by simp [accGet_accSet], old, rfl⟩, by simp [hl]⟩
  · rw [accGet_addMx, accGet_accSet, if_neg (by simpa using hj), accGet_discardHeld k _ (hlim rfl)]
  · rw [mx_addMx, mx_accSet, mx_discardHeld]
    exact List.mem_append_left _ (mem_keepDrained hm (hno rfl x (List.mem_singleton_self x)))

/-- The one action a load adds is of its own entry. -/
theorem loadRule_own (i : Nat) (fmt : AccFmt) (v : DWord) : OwnActs i (loadRule i fmt v) := by
  rintro e e' as ⟨-, old, rfl⟩ a ha j hj
  obtain rfl := List.mem_singleton.mp ha
  exact (of_decide_eq_true hj).symm

-- What an ACCINIT or ACCLD undoes in its own cycle -------------------------------------------------------------------

@[simp] theorem last_eccNote (k : Core) (ns : List Nat) : (eccNote k ns).last = k.last := by
  unfold eccNote; split <;> rfl
@[simp] theorem last_raiseFp (k : Core) (fl : FFlags) : (raiseFp k fl).last = k.last := rfl
@[simp] theorem last_raiseMx (k : Core) (fl : BitVec 2) : (raiseMx k fl).last = k.last := rfl
@[simp] theorem last_spillWrite (k : Core) (n a v : Nat) : (spillWrite k n a v).last = k.last := rfl
@[simp] theorem last_eccDue (k : Core) (h pc code : Nat) : (eccDue k h pc code).last = k.last := rfl
@[simp] theorem last_eccRead (k : Core) (arr : Nat) (is : List Nat) : (eccRead k arr is).1.last = k.last := by
  simp only [eccRead]; split <;> simp
@[simp] theorem last_residueCheck (k : Core) (m : Nat) (u : Upset) (pc n : Nat) : (residueCheck k m u pc n).last = k.last := by
  simp only [residueCheck]; split <;> simp
@[simp] theorem last_takeUpset (k : Core) (us : List Nat) : (takeUpset k us).1.last = k.last := by
  unfold takeUpset; split <;> rfl

theorem last_upsetGroup (n pc : Nat) (fmt : AccFmt) (i : Nat) (k : Core) : (upsetGroup n pc fmt i k).last = k.last := by
  have h := last_takeUpset k [2, 3]
  unfold upsetGroup
  split
  · rfl
  · split <;> simp_all

theorem last_mxGroup (key : SrKey) (n pc : Nat) (k : Core) (i : Nat) (ps : List (Opnd × Opnd)) (ctx : AccCtx) (cls : MClass)
    (sr : Bool) : (mxGroup key n pc k i ps ctx cls sr).last = k.last := by
  simp only [mxGroup]
  split
  · rfl
  · simp only [apply_ite Core.last, apply_ite Prod.fst, last_eccDue, last_accSet, last_spillWrite, last_raiseFp, last_eccRead,
      last_raiseMx, ite_self]

theorem last_mxAct (key : SrKey) (n pc : Nat) (k : Core) (a : MxAct) : (mxAct key n pc k a).1.last = k.last := by
  cases a with
  | group i ps ctx cls sr => exact (last_upsetGroup ..).trans (last_mxGroup ..)
  | start i ctx => simp only [mxAct, apply_ite Core.last, last_spillWrite, last_accSet, ite_self]
  | drain i ctx =>
    simp only [mxAct]
    split <;> rfl
  | load i fmt v old => cases old <;> rfl
  | clearLatch i fmt => rfl

theorem last_mxRun (key : SrKey) (n : Nat) (es : List MxEvent) (r : Core × Bool) : (mxRun key n es r).1.last = r.1.last := by
  induction es generalizing r with
  | nil => rfl
  | cons e es ih => exact (ih _).trans (last_mxAct ..)

theorem last_discardNow (key : SrKey) (n : Nat) (k : Core) (is : List Nat) : (discardNow key n k is).last = k.last := by
  unfold discardNow
  split
  · rfl
  · simp only [apply_ite Core.last, last_mxRun, ite_self]

theorem discardNow_none {k : Core} (h : k.undo = none) (key : SrKey) (n : Nat) (is : List Nat) : discardNow key n k is = k := by
  simp [discardNow, h]

-- The entries of a tile ----------------------------------------------------------------------------------------------

theorem mem_tileEntries {a i : Nat} : i ∈ tileEntries a ↔ if a = 4 then i < 256 else i / 64 = a := by
  unfold tileEntries
  split
  · simp
  · simp only [List.mem_map, List.mem_range]
    exact ⟨fun ⟨j, hj, he⟩ => by omega, fun h => ⟨i % 64, by omega, by omega⟩⟩

theorem lt_of_mem_tileEntries {a i : Nat} (ha : a ≤ 4) (h : i ∈ tileEntries a) : i < 256 := by
  rw [mem_tileEntries] at h
  split at h <;> omega

theorem tileEntries_nodup (a : Nat) : (tileEntries a).Nodup := by
  unfold tileEntries
  split
  · exact List.nodup_range
  · exact List.nodup_range.map (fun _ _ h => Nat.add_right_cancel h)

/-- Entries one after another. -/
theorem nodup_map_add_range (b n : Nat) : ((List.range n).map (b + ·)).Nodup :=
  List.nodup_range.map (fun _ _ h => Nat.add_left_cancel h)

theorem notMem_map_add_range {b n i : Nat} (h : i < b ∨ b + n ≤ i) : i ∉ (List.range n).map (b + ·) := by
  simp only [List.mem_map, List.mem_range, not_exists, not_and]
  omega

-- Rows ---------------------------------------------------------------------------------------------------------------

@[simp] theorem core_afterIssue (s : State) (c : Nat) (needs : List Need) (g : Core → Core) :
    coreOf (afterIssue s c needs g) c = g (retire (coreOf s c) s.plane.cyc needs) := core_setCore_same ..

/-- What an effect does to another state of the core is no matter. -/
theorem afterIssue_congr {s : State} {c : Nat} {needs : List Need} {g g' : Core → Core}
    (h : g (retire (coreOf s c) s.plane.cyc needs) = g' (retire (coreOf s c) s.plane.cyc needs)) :
    afterIssue s c needs g = afterIssue s c needs g' := by rw [afterIssue, h, afterIssue]

section Issue
variable {ι : Type} {due : Nat} {pos : ι → Nat} {rule : ι → EntryRule} {xs : List ι} {s : State} {c : Nat} {p : Pred}
  {plan : State → Core → Plan} {needs : List Need} {g : Nat → Core → Core}

/-- A row whose plan prepares its core by `h` and then operates on entries. -/
theorem issue_touches {lossy : Bool} {h : Core → Core} (hf : Fires s c p) (hv : Vacant s c needs)
    (hp : ActsOnCore (plan s (coreOf s c)) c needs g) (ht : TouchesEntries lossy due pos rule xs
      (h (retire (coreOf s c) s.plane.cyc needs)) (g s.plane.cyc (retire (coreOf s c) s.plane.cyc needs))) :
    ∃ t, issue c p plan s = .next t ∧
      TouchesEntries lossy due pos rule xs (h (retire (coreOf s c) s.plane.cyc needs)) (coreOf t c) ∧
      t = afterIssue s c needs (fun k => { h k with acc := (coreOf t c).acc, mx := (coreOf t c).mx }) := by
  refine ⟨_, issue_acts hf hv hp, ?_, afterIssue_congr ?_⟩ <;> rw [core_afterIssue]
  · exact ht
  · exact ht.frame

/-- A row that discards what the pipeline did in its own cycle for entries `es`, and then operates on entries: where the pipeline has
done nothing in this cycle, no other entry of the core changes. -/
theorem issue_discards_touches {key : SrKey} {es : List Nat} (hf : Fires s c p) (hv : Vacant s c needs)
    (hp : ActsOnCore (plan s (coreOf s c)) c needs g)
    (ht : TouchesEntries true due pos rule xs (discardNow key s.plane.cyc (retire (coreOf s c) s.plane.cyc needs) es)
      (g s.plane.cyc (retire (coreOf s c) s.plane.cyc needs))) :
    ∃ t, issue c p plan s = .next t ∧
      (∀ x ∈ xs, ∃ e as, rule x e (accGet (coreOf t c) (pos x)) as ∧
        ∀ a ∈ as, ⟨due, a, (coreOf s c).pc⟩ ∈ (coreOf t c).mx) ∧
      ((coreOf s c).undo = none →
        (∀ i < 256, i ∉ xs.map pos → accGet (coreOf t c) i = accGet (coreOf s c) i) ∧
        t = afterIssue s c needs (fun k => { k with acc := (coreOf t c).acc, mx := (coreOf t c).mx })) := by
  obtain ⟨t, he, ht, heq⟩ := issue_touches (h := fun k => discardNow key s.plane.cyc k es) hf hv hp ht
  refine ⟨t, he, fun x hx => ?_, fun hu => ?_⟩
  · obtain ⟨as, hr, hm⟩ := ht.each x hx
    rw [last_discardNow, last_retire] at hm
    exact ⟨_, as, hr, hm⟩
  · have hno := discardNow_none (k := retire (coreOf s c) s.plane.cyc needs) hu key s.plane.cyc es
    refine ⟨fun i hi hx => ?_, heq.trans (afterIssue_congr (by simp only [hno]))⟩
    rw [ht.other i hx (fun _ => hi), hno, accGet_retire]

end Issue

-- DRAIN

theorem planDrain_acts {c : Nat} {f : FmtA} {s : State} {k : Core} (ha : f.acc.toNat ≤ 4) :
    ActsOnCore (planDrain c f s k) c nACC (fun n x => drainTiles x n f.acc.toNat) := by
  rw [planDrain, if_neg (Nat.not_lt.mpr ha)]
  exact onCore_acts ..

theorem drainTiles_touches (k : Core) (n a : Nat) :
    TouchesEntries false (n + 6) id drainRule (tileEntries a) k (drainTiles k n a) :=
  foldl_touches (fun k i => drainEntry_touches k n i) (by simpa using tileEntries_nodup a) nofun k

-- ACCINIT and ACCLD

theorem planAccinit_acts {c : Nat} {f : FmtA} {s : State} {k : Core} {fmt : AccFmt} (hf : accOfCode f.af.toNat = some fmt)
    (ha : f.acc.toNat ≤ 4) :
    ActsOnCore (planAccinit c f s k) c (nVIU 1 ++ nACC) (fun n x =>
      addMx ((tileEntries f.acc.toNat).foldl (fun x i => loadEntry x n i fmt 0)
        (discardNow (srKey s c) n x (tileEntries f.acc.toNat))) (n + 2)
        ((tileEntries f.acc.toNat).map (fun i => .clearLatch i fmt))) := by
  simp only [planAccinit, hf, if_neg (Nat.not_lt.mpr ha)]
  exact onCore_acts ..

theorem planAccld_acts {c : Nat} {f : FmtA} {s : State} {k : Core} {fmt : AccFmt} {v : Nat} (hf : accOfCode f.af.toNat = some fmt)
    (hv : vReg f.rv = some v) (ha : f.acc.toNat < 4) (ht : tyOf f.ty = some (tyOfAcc fmt))
    (he : f.ent.toNat + 512 / tyWidth (tyOfAcc fmt) ≤ 64) :
    let w := tyWidth (tyOfAcc fmt)
    let idx := 64 * f.acc.toNat + f.ent.toNat
    ActsOnCore (planAccld c f s k) c (nVIU 1 ++ nACC) (fun n x =>
      (List.range (512 / w)).foldl (fun x j => loadEntry x n (idx + j) fmt (BitVec.ofNat 64 (laneOf w (vGet k v) j)))
        (discardNow (srKey s c) n x ((List.range (512 / w)).map (· + idx)))) := by
  have hno : ¬ (4 ≤ f.acc.toNat ∨ laneTyOf fmt f.ty = false ∨ 64 < f.ent.toNat + 512 / tyWidth (tyOfAcc fmt)) := by
    rintro (h | h | h)
    · omega
    · simp [laneTyOf, ht] at h
    · omega
  simp only [planAccld, hf, hv, if_neg hno, reading_acts]
  exact onCore_acts ..

/-- Loads of distinct entries of the core. -/
theorem loadEntries_touch {ι : Type} {pos : ι → Nat} {xs : List ι} (hxs : (xs.map pos).Nodup) (hlim : ∀ x ∈ xs, pos x < 256)
    (v : ι → DWord) (k : Core) (n : Nat) (fmt : AccFmt) :
    TouchesEntries true (n + 2) pos (fun x => loadRule (pos x) fmt (v x)) xs k
      (xs.foldl (fun x j => loadEntry x n (pos j) fmt (v j)) k) :=
  foldl_touches (fun k x => loadEntry_touches v k x n fmt) hxs (fun _ x hx => ⟨hlim x hx, loadRule_own _ _ _⟩) k

-- ACCRD

/-- The value ACCRD reads of an entry, converted to the lane type, with its flags (03 R92). -/
def accrdLane (k : Core) (ty : Ty) (latch : Bool) (i : Nat) : Nat × FFlags :=
  if latch then (cvtTy (tyOfAcc (latchGet k i).fmt) ty .ne false (latchGet k i).val.toNat).getD (0, 0)
  else (cvtTy (tyOfAcc (accGet k i).sumFmt) ty .ne false (accGet k i).sum.toNat).getD (0, 0)

theorem planAccrd_acts {c : Nat} {f : FmtA} {s : State} {k : Core} {ty : Ty} {v : Nat} (ht : tyOf f.ty = some ty)
    (hv : vReg f.rv = some v) (ha : f.acc.toNat < 4) (hty : ty = .fp64 ∨ ty = .fp32 ∨ ty = .int32)
    (he : f.ent.toNat + 512 / tyWidth ty ≤ 64) :
    let rs := (List.range (512 / tyWidth ty)).map (fun j => accrdLane k ty f.latch (64 * f.acc.toNat + f.ent.toNat + j))
    ActsOnCore (planAccrd c f s k) c (nVIU 1 ++ nACC) (fun n x =>
      addWb (raiseFp x (orFlags (rs.map (·.2)))) (n + 3) (.v v) (packNat (tyWidth ty) (rs.map (·.1)))) := by
  have hno : ¬ (4 ≤ f.acc.toNat ∨ ¬ (ty = .fp64 ∨ ty = .fp32 ∨ ty = .int32) ∨ 64 < f.ent.toNat + 512 / tyWidth ty) := by
    rintro (h | h | h)
    · omega
    · exact h hty
    · omega
  intro rs
  simp only [planAccrd, ht, hv, if_neg hno, reading_acts, rs, accrdLane]
  cases f.latch <;> exact onCore_acts ..

-- MMA

/-- The entries of a step, initialised with the contexts of INIT or taken up as they stand. -/
def openEntries (init : Bool) (n : Nat) (ents : List Nat) (fmt : AccFmt) (mode : AccMode) (k : Core) : Core :=
  if init then ents.foldl (fun x i => initEntry x n i (mmaCtx x i fmt mode)) k else ents.foldl (adoptEntry fmt) k

/-- Initialising an entry leaves CORE_MXCTL, so that all take their context from the core at issue. -/
theorem foldl_initEntry_mmaCtx {x k : Core} (h : x.mxctl = k.mxctl) (n : Nat) (fmt : AccFmt) (mode : AccMode) (ents : List Nat) :
    ents.foldl (fun x i => initEntry x n i (mmaCtx x i fmt mode)) x =
      ents.foldl (fun x i => initEntry x n i (mmaCtx k i fmt mode)) x := by
  induction ents generalizing x with
  | nil => rfl
  | cons i ents ih =>
    have hx : mmaCtx x i fmt mode = mmaCtx k i fmt mode := by simp only [mmaCtx, h]
    simp only [List.foldl_cons, hx]
    exact ih h

theorem openEntries_touches (init : Bool) (n : Nat) {ents : List Nat} (hents : ents.Nodup) (fmt : AccFmt) (mode : AccMode)
    (k : Core) : TouchesEntries false (n + 6) id (openRule init fmt (fun i => mmaCtx k i fmt mode)) ents k
      (openEntries init n ents fmt mode k) := by
  cases init with
  | true =>
    simp only [openEntries, if_true, foldl_initEntry_mmaCtx (rfl : k.mxctl = k.mxctl)]
    exact foldl_touches (fun x i => initEntry_touches x n i fmt _) (by simpa using hents) nofun k
  | false => exact foldl_touches (fun x i => adoptEntry_touches x _ i fmt _) (by simpa using hents) nofun k

theorem mmaStep_touches (k : Core) (n idx : Nat) (cls : MClass) (sr : Bool) (a b : List Opnd) :
    TouchesEntries false (n + 6) (idx + ·)
      (fun l => appendRule (idx + l) cls sr (a.zip (sliceOf b (l * laneElems cls) (laneElems cls))))
      (List.range (lanesOfClass cls)) k (mmaStep k n idx cls sr a b) :=
  foldl_touches (fun k _ => appendPairs_touches (fun l => a.zip (sliceOf b (l * laneElems cls) (laneElems cls))) k n cls sr)
    (nodup_map_add_range ..) nofun k

theorem map_add_range_comm (b n : Nat) : (List.range n).map (· + b) = (List.range n).map (b + ·) := by simp [Nat.add_comm]

theorem mmaStep_openEntries_touches (k : Core) (n idx : Nat) (init : Bool) (fmt : AccFmt) (mode : AccMode) (cls : MClass) (sr : Bool)
    (a b : List Opnd) :
    TouchesEntries false (n + 6) (idx + ·)
      (fun l => (openRule init fmt (fun i => mmaCtx k i fmt mode) (idx + l)).andThen
        (appendRule (idx + l) cls sr (a.zip (sliceOf b (l * laneElems cls) (laneElems cls)))))
      (List.range (lanesOfClass cls)) k
      (mmaStep (openEntries init n ((List.range (lanesOfClass cls)).map (· + idx)) fmt mode k) n idx cls sr a b) := by
  rw [map_add_range_comm]
  exact (openEntries_touches init n (nodup_map_add_range ..) fmt mode k).lanes.andThen (mmaStep_touches ..)

theorem planMma_acts {c : Nat} {f : FmtM} {s : State} {k : Core} {cls : MClass} {fmt : AccFmt} {mode : AccMode} {la : ALatch}
    {els : List (Nat × Nat)} {st' : Stream} {reads : Bool} (hf : mmaForm k f = some (cls, fmt, mode, la))
    (hb : tyOf f.tyb = some (stream k f.msb.toNat).ty)
    (ht : takeOf k f.msb.toNat (stepElems cls) = (some (els, st', reads), [])) (ho : reads = true → k.sparseOut = false) :
    let st := stream k f.msb.toNat
    let g := laneElems cls
    let idx := 64 * f.acc.toNat + f.ent.toNat
    ActsOnCore (planMma c f s k) c (⟨mxRes cls, 0, 1⟩ :: nACC ++ (if reads then nLSP else [])) (fun n x =>
      mmaStep (openEntries f.init n ((List.range (lanesOfClass cls)).map (· + idx)) fmt mode (setStream x f.msb.toNat st')) n idx cls
        f.sr (opndsOf la.ty fmt la.t (sliceOf la.elems (f.esel.toNat * g) g)) (opndsOf st.ty fmt st.t els)) := by
  simp only [planMma, hf, ht]
  refine ⟨by simp [hb], ?_, rfl, rfl, rfl, rfl⟩
  cases reads with
  | true => simp [ho rfl]
  | false => simp

/-- Settles O15: each row issues its plan, which operates on distinct entries one after another. -/
theorem accumulationRowsComplete : Obligations.AccumulationRowsComplete := by
  refine ⟨?_, ?_, ?_, ?_, ?_⟩
  case refine_1 =>
    intro s c p f cls fmt mode la els st' reads st g idx hform hty htake hout hf hv a b
    obtain ⟨t, he, ht, heq⟩ := issue_touches (h := fun k => setStream k f.msb.toNat st') hf hv (planMma_acts hform hty htake hout)
      (mmaStep_openEntries_touches ..)
    refine ⟨t, he, fun l hl => ?_, fun i hi => ht.other i (notMem_map_add_range hi) nofun, heq⟩
    obtain ⟨as, ⟨d, bs, bs', ⟨rfl, hstart⟩, ⟨hent, hgroup⟩, rfl⟩, hm⟩ := ht.each l (List.mem_range.mpr hl)
    exact ⟨hent, fun hi => hm _ (List.mem_append_left _ (hstart hi)), fun hg => hm _ (List.mem_append_right _ (hgroup hg))⟩
  case refine_2 =>
    intro s c p f fmt hfmt ha hf hv
    obtain ⟨t, he, heach, hrest⟩ := issue_discards_touches hf hv (planAccinit_acts hfmt ha)
      ((loadEntries_touch (pos := id) (by simpa using tileEntries_nodup f.acc.toNat)
        (fun i hi => lt_of_mem_tileEntries ha hi) (fun _ => 0) ..).andThen (addMx_touches ..))
    refine ⟨t, he, fun i hi hia => ?_, fun hu => ⟨fun i hi h4 hia => (hrest hu).1 i hi ?_, (hrest hu).2⟩⟩
    · obtain ⟨e, as, ⟨d, bs, bs', ⟨rfl, old, rfl⟩, ⟨hent, rfl⟩, rfl⟩, hm⟩ := heach i (mem_tileEntries.mpr (by split <;> omega))
      rw [id] at hent
      exact ⟨by rw [hent], by rw [hent], ⟨old, hm _ (by simp)⟩, hm _ (by simp)⟩
    · simp [mem_tileEntries, h4, hia]
  case refine_3 =>
    intro s c p f fmt v w idx hfmt hrv ha hty hent hf hv
    have hlim : ∀ j ∈ List.range (512 / w), idx + j < 256 := fun j hj => by
      have hj : j < 512 / w := List.mem_range.mp hj
      omega
    obtain ⟨t, he, heach, hrest⟩ := issue_discards_touches hf hv (planAccld_acts hfmt hrv ha hty hent)
      (loadEntries_touch (nodup_map_add_range ..) hlim ..)
    refine ⟨t, he, fun j hj => ?_, fun hu => ⟨fun i hi hia => (hrest hu).1 i hi (notMem_map_add_range hia), (hrest hu).2⟩⟩
    obtain ⟨e, as, ⟨hent, old, rfl⟩, hm⟩ := heach j (List.mem_range.mpr hj)
    exact ⟨by rw [hent], by rw [hent], old, hm _ (List.mem_singleton_self _)⟩
  case refine_4 =>
    intro s c p f ha hf hv
    obtain ⟨t, he, ht, heq⟩ := issue_touches (h := id) hf hv (planDrain_acts ha) (drainTiles_touches ..)
    refine ⟨t, he, fun i hi hia => ?_, fun i h4 hia => ?_, heq⟩
    · obtain ⟨as, ⟨hent, hd, hg⟩, hm⟩ := ht.each i (mem_tileEntries.mpr (by split <;> omega))
      exact ⟨hent, hm _ hd, fun ho => hm _ (hg ho)⟩
    · exact ht.other i (by simp [mem_tileEntries, h4, hia]) nofun
  case refine_5 =>
    intro s c p f ty v w idx one hty hrv ha hwide hent hf hv
    refine ⟨_, _, fun j hj => ?_, fun b _ => ?_, issue_acts hf hv (planAccrd_acts hty hrv ha hwide hent)⟩
    · rw [← Nat.shiftRight_eq_div_pow, packNat_lane _ _ _ (by simpa using hj)]
      simp [one, idx, w, accrdLane]
    · rw [getLsbD_orFlags]
      simp [one, idx, w, accrdLane]

end Sys2Proof.Machine
end

section
/-! SUPPORT. The issue of a row by its plan: one that meets a fault, one whose effect goes beyond its core, and rows under a residue
check (04 R98, R99; 05 R134, R156; 17 R440). -/
namespace Sys2Proof.Machine
open Sys2Proof.Safety Sys2Proof.Claims

/-- An instruction that meets a fault records the lowest code, halts the plane, and does nothing else (05 R156, R157). -/
theorem issue_faults {s : State} {c code : Nat} {p : Pred} {plan : State → Core → Plan} (h : Ready s c) (h0 : code ≠ 0)
    (hx : lowestCode (planFaults (coreOf s c) s.plane.cyc (executes (coreOf s c) p) (plan s (coreOf s c))) = code) :
    issue c p plan s = .next (coreFault (spent s c) c code (coreOf s c).pc s.plane.cyc) := by
  have hc := Nat.not_le.mpr h.lists
  have hp := Nat.not_le.mpr h.inStore
  simp [issue, hc, openIssue_ready h, canIssue_ready h, issueNow, hp, h.noSkew, hx, h0, spent]

/-- A plan that meets no fault and takes its effect when the instruction executes, whatever part of the state that changes. -/
def ActsOnState (pl : Plan) (needs : List Need) (eff : State → State) : Prop :=
  pl.illegal = false ∧ pl.clash = false ∧ pl.faults = [] ∧ pl.needs = needs ∧ pl.always = id ∧ pl.eff = eff

theorem planFaults_acts {pl : Plan} {needs : List Need} {eff : State → State} {s : State} {c : Nat} (h : ActsOnState pl needs eff)
    (hv : Vacant s c needs) (ex : Bool) : planFaults (coreOf s c) s.plane.cyc ex pl = [] := by
  obtain ⟨h1, h2, h3, h4, -, -⟩ := h
  have hv : needs.any (needClash (coreOf s c) s.plane.cyc) = false := hv
  simp [planFaults, h1, h2, h3, h4, hv]

/-- It is the core's turn, so no time passes before it issues, and it issues in the present cycle. -/
theorem openIssue_turn {s : State} {c : Nat} (h : Turn s c) : openIssue s c = s := by simp [openIssue, Nat.not_lt.mpr h.turn]

theorem canIssue_turn {s : State} {c : Nat} (h : Turn s c) : canIssue s c = true := by
  simp [canIssue, h.running, h.notHeld, h.clocked, h.covered, h.active, h.turn, h.notHalted]

/-- A core whose turn it is issues an instruction that executes and meets no fault, STEPEND or another: it retires, then the effect
follows. -/
theorem issueNow_acts {s : State} {c : Nat} {p : Pred} {isEnd : Bool} {plan : State → Core → Plan} {needs : List Need}
    {eff : State → State} (h : Turn s c) (he : executes (coreOf s c) p = true) (hs : skews s isEnd = false) (hv : Vacant s c needs)
    (hp : ActsOnState (plan s (coreOf s c)) needs eff) :
    issueNow s c p isEnd plan = eff (setCore (noteIssue s c isEnd) c (retire (coreOf s c) s.plane.cyc needs)) := by
  have hx : lowestCode (planFaults (coreOf s c) s.plane.cyc true (plan s (coreOf s c))) = 0 := by rw [planFaults_acts hp hv]; rfl
  obtain ⟨-, -, -, h4, h5, h6⟩ := hp
  have hr : (coreOf (setCore (noteIssue s c isEnd) c (retire (coreOf s c) s.plane.cyc needs)) c).ecc = Ecc.none := by
    simp [retire, h.sound]
  simp [issueNow, Nat.not_le.mpr h.inStore, he, hs, hx, h4, h5, h6, runPlan_sound hr]

/-- The row of a core that fires: it has issued and retired, then the effect follows. -/
theorem issue_actsOnState {s : State} {c : Nat} {p : Pred} {plan : State → Core → Plan} {needs : List Need} {eff : State → State}
    (h : Fires s c p) (hv : Vacant s c needs) (hp : ActsOnState (plan s (coreOf s c)) needs eff) :
    issue c p plan s = .next (eff (afterIssue s c needs id)) := by
  simp only [issue, Nat.not_le.mpr h.lists, if_false, openIssue_turn h.toTurn, canIssue_turn h.toTurn, if_true,
    issueNow_acts h.toTurn h.executes h.noSkew hv hp]
  rfl

/-- Without an upset of address formation an instruction forms the address (s[RA] + IMM) mod 2^32 (05 R139). -/
theorem formAddr_sound {k : Core} (h : k.ecc = Ecc.none) (ra : Nat) (imm : BitVec 32) : formAddr k ra imm = (sGet k ra + imm).toNat := by
  simp [formAddr, h, Ecc.none]

/-- The row issues this plan, its result under a residue check of some modulus or under none (17 R440). -/
def IssuesChecked (i : Instr) (c : Nat) (p : Pred) (plan : State → Core → Plan) : Prop :=
  ∃ check : Option Nat, ∀ s, exec i s = issue c p (check.elim plan fun m => residue m plan) s

theorem IssuesChecked.under {i : Instr} {c : Nat} {p : Pred} {plan : State → Core → Plan} (m : Nat)
    (h : ∀ s, exec i s = issue c p (residue m plan) s) : IssuesChecked i c p plan := ⟨some m, h⟩
theorem IssuesChecked.free {i : Instr} {c : Nat} {p : Pred} {plan : State → Core → Plan}
    (h : ∀ s, exec i s = issue c p plan s) : IssuesChecked i c p plan := ⟨none, h⟩

/-- On a core without errors the residue check is no matter. -/
theorem IssuesChecked.next {i : Instr} {c : Nat} {p : Pred} {plan : State → Core → Plan} {s : State} {needs : List Need}
    {g : Nat → Core → Core} (hi : IssuesChecked i c p plan) (h : Fires s c p) (hv : Vacant s c needs)
    (hp : ActsOnCore (plan s (coreOf s c)) c needs g) : exec i s = .next (afterIssue s c needs (g s.plane.cyc)) := by
  obtain ⟨_ | m, he⟩ := hi
  · exact (he s).trans (issue_acts h hv hp)
  · exact (he s).trans (issue_acts h hv ((residue_acts m plan s (coreOf s c) ..).mpr hp))

/-- A residue check changes nothing in the faults an instruction meets. -/
theorem IssuesChecked.faults {i : Instr} {c code : Nat} {p : Pred} {plan : State → Core → Plan} {s : State} (hi : IssuesChecked i c p plan)
    (h : Ready s c) (h0 : code ≠ 0)
    (hx : lowestCode (planFaults (coreOf s c) s.plane.cyc (executes (coreOf s c) p) (plan s (coreOf s c))) = code) :
    exec i s = .next (coreFault (spent s c) c code (coreOf s c).pc s.plane.cyc) := by
  obtain ⟨_ | m, he⟩ := hi
  · exact (he s).trans (issue_faults h h0 hx)
  · exact (he s).trans (issue_faults h h0 hx)

end Sys2Proof.Machine
end

section
/-! SUPPORT. The integer, predicate and compare rows: the operation of each, and what their plans do to the core or fault with (04 R98,
R99; 05 R136, R140). -/
namespace Sys2Proof.Machine
open Sys2Proof.Safety Sys2Proof.Claims

-- The operations ------------------------------------------------------------------------------------------------------

theorem minS32_eq (x y : Word) : minS32 x y = BitVec.ofInt 32 (min x.toInt y.toInt) := by
  by_cases h : x.toInt < y.toInt
  · rw [minS32, if_pos (BitVec.slt_iff_toInt_lt.mpr h), min_eq_left h.le, BitVec.ofInt_toInt]
  · rw [minS32, if_neg (mt BitVec.slt_iff_toInt_lt.mp h), min_eq_right (not_lt.mp h), BitVec.ofInt_toInt]

theorem maxS32_eq (x y : Word) : maxS32 x y = BitVec.ofInt 32 (max x.toInt y.toInt) := by
  by_cases h : x.toInt < y.toInt
  · rw [maxS32, if_pos (BitVec.slt_iff_toInt_lt.mpr h), max_eq_right h.le, BitVec.ofInt_toInt]
  · rw [maxS32, if_neg (mt BitVec.slt_iff_toInt_lt.mp h), max_eq_left (not_lt.mp h), BitVec.ofInt_toInt]

theorem minU32_eq (x y : Word) : minU32 x y = BitVec.ofNat 32 (min x.toNat y.toNat) := by
  by_cases h : x.toNat < y.toNat
  · rw [minU32, if_pos (by simpa [BitVec.ult] using h), min_eq_left h.le, BitVec.ofNat_toNat, BitVec.setWidth_eq]
  · rw [minU32, if_neg (by simpa [BitVec.ult] using h), min_eq_right (not_lt.mp h), BitVec.ofNat_toNat, BitVec.setWidth_eq]

theorem maxU32_eq (x y : Word) : maxU32 x y = BitVec.ofNat 32 (max x.toNat y.toNat) := by
  by_cases h : x.toNat < y.toNat
  · rw [maxU32, if_pos (by simpa [BitVec.ult] using h), max_eq_right h.le, BitVec.ofNat_toNat, BitVec.setWidth_eq]
  · rw [maxU32, if_neg (by simpa [BitVec.ult] using h), max_eq_left (not_lt.mp h), BitVec.ofNat_toNat, BitVec.setWidth_eq]

theorem mul_eq_ofInt (x y : Word) : x * y = BitVec.ofInt 32 (x.toInt * y.toInt) := by
  rw [BitVec.ofInt_mul, BitVec.ofInt_toInt, BitVec.ofInt_toInt]

/-- A relation of `compares` is what ICMP tests under its FN. -/
theorem icmpCond_compares : ∀ row ∈ compares, ∀ x y, icmpCond row.1 x y = some (row.2 x y) := by
  simp [compares, icmpCond, BitVec.slt, BitVec.sle, BitVec.ult, BitVec.ule]

-- The plans -----------------------------------------------------------------------------------------------------------

/-- Sums, differences and products are under the residue check; the other rows are not. -/
theorem integerRows_issue : ∀ row ∈ integerRows, ∀ (c : Nat) (p : Pred) (f : FmtR),
    IssuesChecked (row.1 c p f) c p (aluRR c row.2.2 row.2.1 f) := by
  simp only [integerRows, List.forall_mem_cons, ← minS32_eq, ← maxS32_eq, ← minU32_eq, ← maxU32_eq, ← mul_eq_ofInt]
  exact ⟨fun _ _ _ => .under 3 fun _ => rfl, fun _ _ _ => .under 3 fun _ => rfl, fun _ _ _ => .free fun _ => rfl,
    fun _ _ _ => .free fun _ => rfl, fun _ _ _ => .free fun _ => rfl, fun _ _ _ => .free fun _ => rfl,
    fun _ _ _ => .free fun _ => rfl, fun _ _ _ => .free fun _ => rfl, fun _ _ _ => .free fun _ => rfl,
    fun _ _ _ => .free fun _ => rfl, fun _ _ _ => .free fun _ => rfl, fun _ _ _ => .free fun _ => rfl,
    fun _ _ _ => .under 3 fun _ => rfl, fun _ _ _ => .under 3 fun _ => rfl, fun _ _ _ => .under 3 fun _ => rfl,
    fun _ h => absurd h List.not_mem_nil⟩

theorem immediateRows_issue : ∀ row ∈ immediateRows, ∀ (c : Nat) (p : Pred) (f : FmtI),
    IssuesChecked (row.1 c p f) c p (aluRI c row.2 f) := by
  simp only [immediateRows, List.forall_mem_cons]
  exact ⟨fun _ _ _ => .under 3 fun _ => rfl, fun _ _ _ => .free fun _ => rfl, fun _ _ _ => .free fun _ => rfl,
    fun _ _ _ => .free fun _ => rfl, fun _ _ _ => .free fun _ => rfl, fun _ _ _ => .free fun _ => rfl,
    fun _ _ _ => .free fun _ => rfl, fun _ h => absurd h List.not_mem_nil⟩

theorem predicateRows_issue : ∀ row ∈ predicateRows, ∀ (c : Nat) (p : Pred) (f : FmtR),
    IssuesChecked (row.1 c p f) c p (predRR c row.2 f) := by
  simp only [predicateRows, List.forall_mem_cons]
  exact ⟨fun _ _ _ => .free fun _ => rfl, fun _ _ _ => .free fun _ => rfl, fun _ _ _ => .free fun _ => rfl,
    fun _ h => absurd h List.not_mem_nil⟩

section Acts
variable {c : Nat} {s : State} {k : Core} {a b d : Nat}

theorem aluRR_acts {f : FmtR} (t : Nat) (op : Word → Word → Word) (ha : sReg f.ra = some a) (hb : sReg f.rb = some b)
    (hd : sReg f.rd = some d) :
    ActsOnCore (aluRR c t op f s k) c nSIU (fun n x => addWb x (n + t) (.s d) (op (sGet k a) (sGet k b)).toNat) := by
  simp only [aluRR, ha, hb, hd, reading_acts]
  exact onCore_acts ..

theorem aluRI_acts {f : FmtI} (op : Word → Word → Word) (ha : sReg f.ra = some a) (hd : sReg f.rd = some d) :
    ActsOnCore (aluRI c op f s k) c nSIU (fun n x => addWb x (n + 1) (.s d) (op (sGet k a) f.imm).toNat) := by
  simp only [aluRI, ha, hd, reading_acts]
  exact onCore_acts ..

theorem planLi_acts {f : FmtI} (hf : f.fn = 0) (hd : sReg f.rd = some d) :
    ActsOnCore (planLi c f s k) c nSIU (fun n x => addWb x (n + 1) (.s d) f.imm.toNat) := by
  simp only [planLi, hf, hd, if_true]
  exact onCore_acts ..

theorem predRR_acts {f : FmtR} (op : Bool → Bool → Bool) (ha : pReg f.ra = some a) (hb : pReg f.rb = some b)
    (hd : pReg f.rd = some d) :
    ActsOnCore (predRR c op f s k) c nSIU (fun n x => addWb x (n + 1) (.p d) (op (pGet k a) (pGet k b)).toNat) := by
  simp only [predRR, ha, hb, hd, Bool.toNat, Bool.cond_eq_ite]
  exact onCore_acts ..

theorem planPnot_acts {f : FmtR} (ha : pReg f.ra = some a) (hd : pReg f.rd = some d) :
    ActsOnCore (planPnot c f s k) c nSIU (fun n x => addWb x (n + 1) (.p d) (!pGet k a).toNat) := by
  simp only [planPnot, ha, hd]
  cases pGet k a <;> exact onCore_acts ..

theorem planIcmp_acts {f : FmtR} {r : Bool} (ha : sReg f.ra = some a) (hb : sReg f.rb = some b) (hd : pReg f.rd = some d)
    (hr : icmpCond f.fn.toNat (sGet k a) (sGet k b) = some r) :
    ActsOnCore (planIcmp c f s k) c nSIU (fun n x => addWb x (n + 1) (.p d) r.toNat) := by
  simp only [planIcmp, ha, hb, hd, hr, reading_acts, Bool.toNat, Bool.cond_eq_ite]
  exact onCore_acts ..

end Acts

/-- Settles O1: each row issues the plan of its operation. -/
theorem integerAndPredicateRowsComplete : Obligations.IntegerAndPredicateRowsComplete := by
  refine ⟨?_, ?_, ?_, ?_, ?_, ?_⟩
  · intro row hrow s c p f a b d hf hv ha hb hd
    exact (integerRows_issue row hrow c p f).next hf hv (aluRR_acts row.2.2 row.2.1 ha hb hd)
  · intro row hrow s c p f a d hf hv ha hd
    exact (immediateRows_issue row hrow c p f).next hf hv (aluRI_acts row.2 ha hd)
  · intro s c p f d hf hv hfn hd
    exact issue_acts hf hv (planLi_acts hfn hd)
  · intro row hrow s c p f a b d hf hv ha hb hd
    exact (predicateRows_issue row hrow c p f).next hf hv (predRR_acts row.2 ha hb hd)
  · intro s c p f a d hf hv ha hd
    exact issue_acts hf hv (planPnot_acts ha hd)
  · intro row hrow s c p f a b d hf hv hfn ha hb hd
    exact issue_acts hf hv (planIcmp_acts ha hb hd (hfn ▸ icmpCond_compares row hrow ..))

-- Faults --------------------------------------------------------------------------------------------------------------

/-- An illegal plan meets its one fault whether the instruction executes or not (05 R134, R136). -/
theorem lowestCode_bad (k : Core) (n : Nat) (ex : Bool) : lowestCode (planFaults k n ex Plan.bad) = 0x01 := by
  cases ex <;> rfl

/-- An occupied unit is met whether the instruction executes or not (04 R99). -/
theorem lowestCode_occupied {k : Core} {n : Nat} {ex : Bool} {pl : Plan} (hi : pl.illegal = false) (hf : pl.faults = [])
    (hb : pl.needs.any (needClash k n) = true) : lowestCode (planFaults k n ex pl) = 0x02 := by
  cases ex <;> simp [planFaults, hi, hf, hb, lowestCode]

/-- A register code of 32 or more names no scalar register (05 R136). -/
theorem sReg_outside {b : BitVec 6} (h : 32 ≤ b.toNat) : sReg b = none := if_neg (Nat.not_lt.mpr h)

theorem aluRR_illegal {c t : Nat} {op : Word → Word → Word} {f : FmtR} (s : State) (k : Core)
    (h : 32 ≤ f.ra.toNat ∨ 32 ≤ f.rb.toNat ∨ 32 ≤ f.rd.toNat) :
    ∃ rs, aluRR c t op f s k = .reading rs Plan.bad := by
  refine ⟨[regWords [f.ra.toNat, f.rb.toNat]], ?_⟩
  unfold aluRR
  split
  case h_1 hd ha hb => rcases h with h | h | h <;> simp_all [sReg_outside h]
  case h_2 => rfl

theorem icmpCond_unlisted {n : Nat} (h : 5 < n) (x y : Word) : icmpCond n x y = none := by
  obtain ⟨m, rfl⟩ : ∃ m, n = m + 6 := ⟨n - 6, by omega⟩
  rfl

theorem planIcmp_unlisted {c : Nat} {f : FmtR} (s : State) (k : Core) (h : 5 < f.fn.toNat) : planIcmp c f s k = Plan.bad := by
  simp only [planIcmp, icmpCond_unlisted h]
  split <;> rfl

/-- Settles O53: the plan of such a row is illegal, or finds its unit occupied. -/
theorem illegalOperandsAndOccupiedUnitsFault : Obligations.IllegalOperandsAndOccupiedUnitsFault := by
  refine ⟨?_, ?_, ?_⟩
  · intro row hrow s c p f hr hout
    refine (integerRows_issue row hrow c p f).faults hr (by decide) ?_
    obtain ⟨rs, he⟩ := aluRR_illegal s (coreOf s c) hout
    rw [he]
    exact lowestCode_bad ..
  · intro row hrow s c p f a b d hr ha hb hd hclash
    obtain ⟨hill, -, hfaults, hneeds, -, -⟩ := aluRR_acts (c := c) (s := s) (k := coreOf s c) row.2.2 row.2.1 ha hb hd
    refine (integerRows_issue row hrow c p f).faults hr (by decide) (lowestCode_occupied hill hfaults ?_)
    simpa [hneeds, nSIU] using hclash
  · intro s c p f hr hfn
    refine issue_faults hr (by decide) ?_
    rw [planIcmp_unlisted s _ hfn]
    exact lowestCode_bad ..

end Sys2Proof.Machine
end

section
/-! SUPPORT. Results that land: what a register holds once the results due have been written (04 R98, R99). -/
namespace Sys2Proof.Machine
open Sys2Proof.Safety Sys2Proof.Claims

variable {β : Type}

/-- `get` reads what goes to `d` as `val` gives it, and nothing else changes it. -/
structure Reads (get : Core → β) (d : Dst) (val : Nat → β) : Prop where
  same : ∀ k v, get (applyDst k d v) = val v
  other : ∀ k d' v, d' ≠ d → get (applyDst k d' v) = get k

/-- Of results written one after another, the last for its destination stays. -/
theorem Reads.foldl {get : Core → β} {d : Dst} {val : Nat → β} (h : Reads get d val) (ws : List Wb) (k : Core) :
    get (ws.foldl (fun a w => applyDst a w.dst w.val) k) =
      ((ws.filter (fun w => w.dst = d)).getLast?.map (fun w => val w.val)).getD (get k) := by
  induction ws using List.reverseRecOn with
  | nil => rfl
  | append_singleton ws w ih =>
    rw [List.foldl_append, List.filter_append, List.foldl_cons, List.foldl_nil]
    by_cases hw : w.dst = d
    · simp [hw, h.same]
    · simp [hw, h.other _ _ _ hw, ih]

theorem Reads.commitWb {get : Core → β} {d : Dst} {val : Nat → β} (h : Reads get d val) (hwb : ∀ k wb, get { k with wb := wb } = get k)
    (k : Core) (n : Nat) : get (commitWb k n) = ((lastDue k n d).map val).getD (get k) := by
  rw [Machine.commitWb, h.foldl, hwb, List.filter_filter, lastDue, Option.map_map]
  simp only [Bool.and_comm]
  rfl

/-- A write of the per-core window leaves the register files. -/
theorem csrWrite_files (k : Core) (off size v : Nat) :
    (csrWrite k off size v).s = k.s ∧ (csrWrite k off size v).p = k.p ∧ (csrWrite k off size v).v = k.v := by
  have h : csrWrite k off size v = _ := csrWrite_frame k off size v
  exact ⟨by rw [h], by rw [h], by rw [h]⟩

theorem reads_s {i : Nat} (hi : i < 32) : Reads (fun k => sGet k i) (.s i) (BitVec.ofNat 32) where
  same k v := by simp [applyDst, sGet, hi]
  other k d' v hd := by
    cases d' with
    | s j => simp [applyDst, sGet, show j ≠ i by simpa using hd]
    | csr off size => simp [applyDst, sGet, csrWrite_files]
    | _ => rfl

theorem reads_p {i : Nat} (hi : i < 8) : Reads (fun k => pGet k i) (.p i) (fun v => decide (v % 2 = 1)) where
  same k v := by simp [applyDst, pGet, hi]
  other k d' v hd := by
    cases d' with
    | p j => simp [applyDst, pGet, show j ≠ i by simpa using hd]
    | csr off size => simp [applyDst, pGet, csrWrite_files]
    | _ => rfl

theorem reads_v {i : Nat} (hi : i < 16) : Reads (fun k => k.v[i]?) (.v i) (fun v => some (BitVec.ofNat 512 v)) where
  same k v := by simp [applyDst, hi]
  other k d' v hd := by
    cases d' with
    | v j => simp [applyDst, show j ≠ i by simpa using hd]
    | csr off size => simp [applyDst, csrWrite_files]
    | _ => rfl

/-- Settles O51: each register reads the last result due for it. -/
theorem resultsLand : Obligations.ResultsLand := by
  intro k n
  have frame := commitWb_frame k n
  refine ⟨fun i hi => ?_, fun i hi => ?_, fun i hi => ?_, ?_, ?_, ?_⟩
  · rw [(reads_s hi).commitWb (fun _ _ => rfl)]; cases lastDue k n (.s i) <;> rfl
  · rw [(reads_p hi).commitWb (fun _ _ => rfl)]; cases lastDue k n (.p i) <;> rfl
  · rw [(reads_v hi).commitWb (fun _ _ => rfl)]; cases lastDue k n (.v i) <;> rfl
  · rw [frame]; simp only [← decide_not, Nat.not_le]
  · rw [frame]
  · rw [frame]

end Sys2Proof.Machine
end

section
/-! SUPPORT. Local store, sliver, static mesh, outbox and landing buffers: what the plan of each row does (04 R101 to R124; 05 R145). -/
namespace Sys2Proof.Machine
open Sys2Proof.Safety Sys2Proof.Claims

-- Local store ---------------------------------------------------------------------------------------------------------

theorem bytesLE_getElem (n v j : Nat) (h : j < (bytesLE n v).length) : (bytesLE n v)[j] = BitVec.ofNat 8 (v / 256 ^ j) := by
  induction n generalizing v j with
  | zero => simp [bytesLE] at h
  | succ n ih =>
    cases j with
    | zero => simp [bytesLE]
    | succ j => simp [bytesLE, ih, Nat.div_div_eq_div_mul, Nat.pow_succ']

@[simp] theorem ls_storeLs (k : Core) (due a n v : Nat) : (storeLs k due a n v).ls = memWrite k.ls a (bytesLE n v) := by
  unfold storeLs
  simp only
  split <;> split <;> rfl

section Acts
variable {c : Nat} {f : FmtI} {s : State} {k : Core} {ra a n : Nat}

/-- A load of less than 64 bytes gives them to a register or a pair, three cycles later. -/
theorem planLd_acts_scalar {d : Nat} (hs : memSize f.sz = some n) (hr : sReg f.ra = some ra) (ha : formAddr k ra f.imm = a)
    (hal : a % n = 0) (hin : a + n ≤ 0xC000) (hu : ungated k a n = []) (ho : k.sparseOut = false) (hn : n ≠ 64)
    (hd : scalarDst (8 * n) f.rd = some d) :
    ActsOnCore (planLd c f s k) c nLSP (fun t k' => putScalar (8 * n) k' (t + 3) d (natLE (memRead k.ls a n))) := by
  simp only [planLd, hs, hr, ha, hd, reading_acts]
  exact onCore_acts_clash (by rw [lsFaults_nil hal hin, hu]; rfl) ho

theorem planLd_acts_vector {d : Nat} (hs : memSize f.sz = some 64) (hr : sReg f.ra = some ra) (ha : formAddr k ra f.imm = a)
    (hal : a % 64 = 0) (hin : a + 64 ≤ 0xC000) (hu : ungated k a 64 = []) (ho : k.sparseOut = false) (hd : vReg f.rd = some d) :
    ActsOnCore (planLd c f s k) c nLSP (fun t k' => addWb k' (t + 4) (.v d) (natLE (memRead k.ls a 64))) := by
  simp only [planLd, hs, hr, ha, hd, reading_acts]
  exact onCore_acts_clash (by rw [lsFaults_nil hal hin, hu]; rfl) ho

theorem planSt_acts {v : Nat} (hs : memSize f.sz = some n) (hr : sReg f.ra = some ra) (ha : formAddr k ra f.imm = a)
    (hv : (if n = 64 then (vReg f.rd).map (fun i => (vGet k i).toNat) else scalarSrc k (8 * n) f.rd) = some v)
    (hal : a % n = 0) (hin : a + n ≤ 0xC000) (hp : protectedAt k a n = []) (ho : k.sparseOut = false) :
    ActsOnCore (planSt c f s k) c nLSP (fun t k' => storeLs k' (t + 1) a n v) := by
  simp only [planSt, hs, hr, ha, hv, reading_acts]
  exact onCore_acts_clash (by rw [lsFaults_nil hal hin, hp]; rfl) ho

end Acts

theorem ld_issues (c : Nat) (p : Pred) (f : FmtI) : IssuesChecked (.ld c p f) c p (planLd c f) := .under 3 fun _ => rfl
theorem st_issues (c : Nat) (p : Pred) (f : FmtI) : IssuesChecked (.st c p f) c p (planSt c f) := .under 3 fun _ => rfl

/-- Settles O10: LD and ST issue their plans; what ST leaves in local store is one write of its bytes. -/
theorem loadsAndStoresReachTheirBytes : Obligations.LoadsAndStoresReachTheirBytes := by
  refine ⟨?_, ?_⟩
  · intro s c p f n ra hs hr a hal hin hu ho hf hv v
    have ha : formAddr (coreOf s c) ra f.imm = a := formAddr_sound hf.sound ra f.imm
    refine ⟨?_, ?_, ?_⟩
    · rintro d rfl hd
      exact (ld_issues c p f).next hf hv (planLd_acts_scalar hs hr ha hal hin hu ho (by decide) hd)
    · rintro d rfl hd
      have h := (ld_issues c p f).next hf hv (planLd_acts_scalar (n := 8) (d := d) hs hr ha hal hin hu ho (by decide) hd)
      exact h
    · rintro d rfl hd
      have h := (ld_issues c p f).next hf hv (planLd_acts_vector hs hr ha hal hin hu ho hd)
      exact h
  · intro s c p f n ra v hs hr hsrc a hal hin hp ho hf hv
    have ha : formAddr (coreOf s c) ra f.imm = a := formAddr_sound hf.sound ra f.imm
    have hls : (coreOf (afterIssue s c nLSP (fun k => storeLs k (s.plane.cyc + 1) a n v)) c).ls =
        memWrite (coreOf s c).ls a (bytesLE n v) := by simp; rfl
    refine ⟨_, (st_issues c p f).next hf hv (planSt_acts hs hr ha hsrc hal hin hp ho), fun j hj => ?_, fun x hx => ?_, rfl⟩
    · rw [hls, memByte_memWrite_in _ _ _ _ (by simpa [bytesLE_length] using hj), bytesLE_getElem]
    · rw [hls, memByte_memWrite_out _ _ _ _ (by simpa [bytesLE_length] using hx)]

-- The sliver ----------------------------------------------------------------------------------------------------------

/-- A line of the sliver below the reserved range meets no fault (04 R104). -/
theorem sliverFaults_nil {a : Nat} (ha : a % 64 = 0) (hin : a < 0x600000) : sliverFaults a = [] := by
  simp [sliverFaults, ha, show ¬ 0x800000 ≤ a by omega, show ¬ 0x600000 ≤ a by omega]

/-- The access a sliver row of issue cycle `n` leaves for its serving slot (04 R104). -/
def takeSlot (n a : Nat) (dst : Option Dst) (data : VWord) (k : Core) : Core :=
  { k with slots := k.slots ++ [⟨slotStart n, a, dst, data, k.last⟩] }

section Sliver
variable {c : Nat} {f : FmtI} {s : State} {k : Core} {ra a d : Nat}

theorem planSld_acts_register (hz : f.sz.toNat = 0) (hr : sReg f.ra = some ra) (hd : vReg f.rd = some d)
    (ha : sliverFaults (formAddr k ra f.imm) = []) :
    ActsOnCore (planSld c f s k) c [slotNeed s.plane.cyc] (fun n => takeSlot n (formAddr k ra f.imm) (some (.v d)) 0) := by
  simp only [planSld, hz, hr, hd, ha, reading_acts]
  exact onCore_acts ..

theorem planSst_acts_register (hz : f.sz.toNat = 0) (hr : sReg f.ra = some ra) (hd : vReg f.rd = some d)
    (ha : sliverFaults (formAddr k ra f.imm) = []) :
    ActsOnCore (planSst c f s k) c [slotNeed s.plane.cyc] (fun n => takeSlot n (formAddr k ra f.imm) none (vGet k d)) := by
  simp only [planSst, hz, hr, hd, ha, reading_acts]
  exact onCore_acts ..

theorem planSld_acts_store (hz : f.sz.toNat = 1) (hr : sReg f.ra = some ra) (hd : sReg f.rd = some d)
    (ha : sliverFaults (formAddr k ra f.imm) = []) (hl : lsFaults (sGet k d).toNat 64 64 = [])
    (hp : protectedAt k (sGet k d).toNat 64 = []) (ho : k.sparseOut = false) :
    ActsOnCore (planSld c f s k) c (slotNeed s.plane.cyc :: nLSP)
      (fun n => takeSlot n (formAddr k ra f.imm) (some (.ls (sGet k d).toNat 64)) 0) := by
  simp only [planSld, hz, hr, hd, reading_acts]
  exact onCore_acts_clash (by rw [ha, hl, hp]; rfl) ho

theorem planSst_acts_store (hz : f.sz.toNat = 1) (hr : sReg f.ra = some ra) (hd : sReg f.rd = some d)
    (ha : sliverFaults (formAddr k ra f.imm) = []) (hl : lsFaults (sGet k d).toNat 64 64 = [])
    (hu : ungated k (sGet k d).toNat 64 = []) (ho : k.sparseOut = false) :
    ActsOnCore (planSst c f s k) c (slotNeed s.plane.cyc :: nLSP)
      (fun n => takeSlot n (formAddr k ra f.imm) none (vecOfBytes (memRead k.ls (sGet k d).toNat 64))) := by
  simp only [planSst, hz, hr, hd, reading_acts]
  exact onCore_acts_clash (by rw [ha, hl, hu]; rfl) ho

theorem planIfill_acts (hr : sReg f.ra = some ra) (hd : sReg f.rd = some d) (ha : sliverFaults (formAddr k ra f.imm) = [])
    (h8 : (sGet k d).toNat % 8 = 0) (hin : (sGet k d).toNat ≤ 2040) :
    ActsOnCore (planIfill c f s k) c [slotNeed s.plane.cyc]
      (fun n => takeSlot n (formAddr k ra f.imm) (some (.is (8 * (sGet k d).toNat) 64)) 0) := by
  simp only [planIfill, hr, hd, ha, h8, hin, and_self, if_true, List.append_nil, reading_acts]
  exact onCore_acts ..

end Sliver

theorem sld_issues (c : Nat) (p : Pred) (f : FmtI) : IssuesChecked (.sld c p f) c p (planSld c f) := .under 3 fun _ => rfl
theorem sst_issues (c : Nat) (p : Pred) (f : FmtI) : IssuesChecked (.sst c p f) c p (planSst c f) := .under 3 fun _ => rfl
theorem ifill_issues (c : Nat) (p : Pred) (f : FmtI) : IssuesChecked (.ifill c p f) c p (planIfill c f) := .under 3 fun _ => rfl

/-- Settles O11: each row issues its plan, which leaves one access for the serving slot. -/
theorem sliverRowsTakeTheirSlot : Obligations.SliverRowsTakeTheirSlot := by
  intro s c p f ra hr hf n a hal hin
  have ha : formAddr (coreOf s c) ra f.imm = a := formAddr_sound hf.sound ra f.imm
  have hs : sliverFaults (formAddr (coreOf s c) ra f.imm) = [] := ha ▸ sliverFaults_nil hal hin
  rw [← ha]
  refine ⟨fun d hz hd hv => ?_, fun d hz hd hv ho => ?_, fun d hd hv h8 hi => ?_⟩
  · have hz : f.sz.toNat = 0 := by rw [hz]; rfl
    exact ⟨(sld_issues c p f).next hf hv (planSld_acts_register hz hr hd hs),
      (sst_issues c p f).next hf hv (planSst_acts_register hz hr hd hs)⟩
  · intro la hla hlin
    have hz : f.sz.toNat = 1 := by rw [hz]; rfl
    have hl := lsFaults_nil hla hlin
    exact ⟨fun hp => (sld_issues c p f).next hf hv (planSld_acts_store hz hr hd hs hl hp ho),
      fun hu => (sst_issues c p f).next hf hv (planSst_acts_store hz hr hd hs hl hu ho)⟩
  · exact (ifill_issues c p f).next hf hv (planIfill_acts hr hd hs h8 hi)

-- The static mesh -----------------------------------------------------------------------------------------------------

/-- Words put on the static mesh (04 R113). -/
def sendWords (ws : Nat → List MeshWord) (s : State) : State :=
  { s with plane := { s.plane with mesh := s.plane.mesh ++ ws s.plane.cyc } }

section Mesh
variable {c : Nat} {f : FmtI} {s : State} {k : Core} {ra : Nat}

theorem planSmsend_acts (hr : sPair f.ra = some ra) (hm : meshInside c (meshDx f) (meshDy f) = true) :
    ActsOnState (planSmsend c f s k) [⟨.smi, 0, 1⟩] (sendWords fun n =>
      [⟨c, k.pc, n, n, meshDx f, meshDy f, false, 0, bitsOf f.imm.toNat 24 22, (pairGet k ra).toNat⟩]) := by
  simp only [planSmsend, hr, hm, if_true]
  exact ⟨rfl, rfl, rfl, rfl, rfl, rfl⟩

theorem planSmsendv_acts (hr : vReg f.ra = some ra) (hm : meshInside c (meshDx f) (meshDy f) = true) :
    ActsOnState (planSmsendv c f s k) [⟨.smi, 0, 8⟩] (sendWords fun n => (List.range 8).map fun j =>
      ⟨c, k.pc, n, n + j, meshDx f, meshDy f, true, j, bitsOf f.imm.toNat 23 22, (vGet k ra).toNat⟩) := by
  simp only [planSmsendv, hr, hm, if_true]
  exact ⟨rfl, rfl, rfl, rfl, rfl, rfl⟩

end Mesh

theorem meshDy_eq (f : FmtI) : meshDy f = toSigned 11 (f.imm.toNat / 2 ^ 11) := by rw [meshDy, Nat.shiftRight_eq_div_pow]

/-- Settles O12: the effect of either row is its words on the mesh. -/
theorem meshSendsInjectTheirWords : Obligations.MeshSendsInjectTheirWords := by
  intro s c p f hf hm n
  refine ⟨fun ra hr hv => ⟨_, issue_actsOnState hf hv (planSmsend_acts hr hm), ?_⟩,
    fun ra hr hv => ⟨_, issue_actsOnState hf hv (planSmsendv_acts hr hm), ?_⟩⟩
  · rw [meshDy_eq, bitsOf, Nat.shiftRight_eq_div_pow]
    rfl
  · rw [meshDy_eq, bitsOf, Nat.shiftRight_eq_div_pow]
    rfl

-- The outbox and the landing buffers ----------------------------------------------------------------------------------

/-- What OUTPOST does to its core: the hold request of a full outbox, the entry, the payload's protection, the count (04 R118, R119,
R124). -/
def postDesc (d : List Byte) (pc n : Nat) (k : Core) : Core :=
  { k with
    outbox := k.outbox ++ [⟨n, .desc d⟩]
    capo := k.capo + if isMemOp d then 1 else 0
    prot := k.prot ++ if (payloadOf d).2 = 0 then [] else [⟨n + 1, (payloadOf d).1, (payloadOf d).1 + (payloadOf d).2⟩]
    gates := k.gates ++ if 8 ≤ k.outbox.length then [⟨n, pc, .outbox, false⟩] else [] }

section Outbox
variable {c : Nat} {f : FmtI} {s : State} {k : Core} {ra rd a : Nat}

theorem planOutpost_acts {d : List Byte} (hr : sReg f.ra = some ra) (ha : formAddr k ra f.imm = a) (hd : memRead k.ls a 32 = d)
    (hal : a % 32 = 0) (hin : a + 32 ≤ 0xC000) (hu : ungated k a 32 = []) (hok : outboxFaults k d = []) (ho : k.sparseOut = false) :
    ActsOnCore (planOutpost c f s k) c (⟨.obp, 0, 8⟩ :: nLSP) (postDesc d k.pc) := by
  have heff : (fun (n : Nat) (x : Core) =>
      let (pa, pn) := payloadOf d
      let x := protect (postOutbox (outboxGate x n k.pc) n (.desc d)) n pa pn
      if isMemOp d then { x with capo := x.capo + 1 } else x) = postDesc d k.pc := by
    funext n x
    simp only [postDesc, protect, postOutbox, outboxGate]
    split_ifs <;> simp
  simp only [planOutpost, hr, ha, hd, reading_acts]
  rw [heff]
  exact onCore_acts_clash (by rw [lsFaults_nil hal hin, hu, hok]; rfl) ho

theorem planLbarm_acts (hr : sReg f.ra = some ra) (hd : sReg f.rd = some rd) (h64 : (sGet k ra).toNat % 64 = 0)
    (h8 : (sGet k rd).toNat % 8 = 0) (hin : (sGet k ra).toNat + (sGet k rd).toNat ≤ 0xC000)
    (hf : (lbGet k f.fn.toNat).armed = false) :
    ActsOnCore (planLbarm c f s k) c nSIU (fun _ x => lbSet x f.fn.toNat { LandBuf.reset with
      base := (sGet k ra).toNat, len := (sGet k rd).toNat, armed := true, overfill := (lbGet x f.fn.toNat).overfill }) := by
  simp only [planLbarm, hr, hd, h64, h8, hin, hf, and_self, if_true, Bool.false_eq_true, if_false, List.append_nil, reading_acts]
  exact onCore_acts ..

end Outbox

theorem outpost_issues (c : Nat) (p : Pred) (f : FmtI) : IssuesChecked (.outpost c p f) c p (planOutpost c f) := .under 3 fun _ => rfl

/-- Settles O13: either row issues its plan. -/
theorem outpostAndLbarmComplete : Obligations.OutpostAndLbarmComplete := by
  refine ⟨?_, ?_⟩
  · intro s c p f ra hr a d hal hin hu hok ho hf hv
    refine ⟨_, (outpost_issues c p f).next hf hv (planOutpost_acts hr (formAddr_sound hf.sound ra f.imm) rfl hal hin hu hok ho), ?_⟩
    rw [core_afterIssue]
    exact ⟨rfl, rfl, rfl, rfl, rfl⟩
  · intro s c p f ra rd hr hd hf hv h64 h8 hin harm
    exact issue_acts hf hv (planLbarm_acts hr hd h64 h8 hin harm)

end Sys2Proof.Machine
end

section
/-! SUPPORT. The control rows: NOP, branches, gates, HALT and STEPEND (04 R100, R123, R131; 05 R135, R142, R151 to R153). -/
namespace Sys2Proof.Machine
open Sys2Proof.Safety Sys2Proof.Claims

/-- Nothing is occupied that an instruction does not need. -/
theorem vacant_nil (s : State) (c : Nat) : Vacant s c [] := rfl

-- NOP, branches and gates ---------------------------------------------------------------------------------------------

theorem planBr_acts (c : Nat) (f : FmtC) (s : State) (k : Core) :
    ActsOnCore (planBr c f s k) c nSIU (fun _ x => { x with brs := x.brs ++ [(2, f.target.toNat)] }) := onCore_acts ..

theorem planBrr_acts {c a : Nat} {f : FmtC} {s : State} {k : Core} (ha : sReg f.ra = some a) (ht : (sGet k a).toNat < 2048) :
    ActsOnCore (planBrr c f s k) c nSIU (fun _ x => { x with brs := x.brs ++ [(2, (sGet k a).toNat)] }) := by
  simp only [planBrr, ha, ht, if_true, reading_acts]
  exact onCore_acts ..

theorem bitAt_toNat {w : Nat} (x : BitVec w) (b : Nat) : bitAt x.toNat b = x.getLsbD b := by
  simp [bitAt, BitVec.getLsbD, Nat.testBit, Nat.one_and_eq_mod_two]

theorem setBits_toNat_all {w n : Nat} {x : BitVec w} {q : Nat → Bool} (h : ∀ b < n, x.getLsbD b = true → q b = true) :
    (setBits x.toNat n).all q = true := by
  simp only [setBits, List.all_eq_true, List.mem_filter, List.mem_range, bitAt_toNat]
  exact fun b hb => h b hb.1 hb.2

theorem planGate_acts {c : Nat} {f : FmtC} {s : State} {k : Core} (h : ∀ b < 16, f.mask.getLsbD b = true → (lbGet k b).armed = true) :
    ActsOnCore (planGate c f s k) c nSIU (fun n x => addGate x n k.pc (.gate f.mask.toNat)) := by
  simp only [planGate, setBits_toNat_all h, if_true]
  exact onCore_acts ..

theorem planCapo_acts (c : Nat) (s : State) (k : Core) :
    ActsOnCore (planCapo c s k) c nSIU (fun n x => addGate x n k.pc .capo) := onCore_acts ..

/-- The two delay slots issue at the next indices, then the target is next (04 R100). -/
theorem branch_delays (k : Core) (n t : Nat) (w0 w1 w2 : List Need) (h : k.brs = []) :
    let k0 := retire k n w0
    let k1 := retire { k0 with brs := k0.brs ++ [(2, t)] } (n + 1) w1
    let k2 := retire k1 (n + 2) w2
    k0.pc = k.pc + 1 ∧ k1.pc = k.pc + 2 ∧ k2.pc = t ∧ k2.brs = [] := by
  simp [retire, h]

/-- Settles O3: each row issues its plan. -/
theorem controlRowsComplete : Obligations.ControlRowsComplete := by
  refine ⟨?_, ?_, ?_, ?_, ?_, branch_delays⟩
  · intro s c hr
    have hf : Fires s c ⟨false, false, 0⟩ := ⟨hr, rfl⟩
    exact issue_actsOnState (eff := id) hf (vacant_nil s c) ⟨rfl, rfl, rfl, rfl, rfl, rfl⟩
  · exact fun s c p f hf hv => issue_acts hf hv (planBr_acts c f s _)
  · exact fun s c p f a hf hv ha ht => issue_acts hf hv (planBrr_acts ha ht)
  · exact fun s c p f hf hv h => issue_acts hf hv (planGate_acts h)
  · exact fun s c p f hf hv => issue_acts hf hv (planCapo_acts c s _)

-- Every core at once --------------------------------------------------------------------------------------------------

/-- A change of every listed core changes the cores and nothing else. -/
theorem mapCores_frame (s : State) (f : Nat → Core → Core) : mapCores s f = { s with cores := (mapCores s f).cores } := by
  have go : ∀ (es : SMap Core) (a : State), let t := es.foldl (fun a e => setCore a e.1 (f e.1 e.2)) a
      t = { a with cores := t.cores } := by
    intro es
    induction es with
    | nil => exact fun _ => rfl
    | cons e es ih =>
      intro a
      have h := ih (setCore a e.1 (f e.1 e.2))
      simp only [List.foldl_cons] at h ⊢
      rw [h]
      rfl
  exact go s.cores s

/-- What holds of a core, and of every listed state of it once changed, holds of it afterwards. -/
theorem coreOf_mapCores {s : State} {f : Nat → Core → Core} {c : Nat} {P : Core → Prop} (hc : P (coreOf s c))
    (h : ∀ k, (c, k) ∈ s.cores → P (f c k)) : P (coreOf (mapCores s f) c) := by
  have go : ∀ (es : SMap Core) (a : State), P (coreOf a c) → (∀ k, (c, k) ∈ es → P (f c k)) →
      P (coreOf (es.foldl (fun a e => setCore a e.1 (f e.1 e.2)) a) c) := by
    intro es
    induction es with
    | nil => exact fun _ ha _ => ha
    | cons e es ih =>
      intro a ha hes
      refine ih _ ?_ fun k hk => hes k (List.mem_cons_of_mem _ hk)
      by_cases hec : e.1 = c
      · obtain ⟨_, k⟩ := e
        obtain rfl : _ = c := hec
        rw [core_setCore_same]
        exact hes k (List.mem_cons_self ..)
      · rwa [core_setCore_ne _ _ (Ne.symm hec)]
  exact go s.cores s hc h

/-- A core just written is listed with that state alone. -/
theorem mem_setCore {s : State} {c : Nat} {k l : Core} (h : (c, l) ∈ (setCore s c k).cores) : l = k := by
  have h : (c, l) ∈ smSet Core.reset s.cores c k := h
  unfold smSet at h
  split at h
  · exact absurd rfl (mem_smErase _ _ _ h).2
  · rcases (mem_smInsert _ _ _ _).mp h with h | h
    · exact (Prod.mk.inj h).2
    · exact absurd rfl (mem_smErase _ _ _ h).2

-- HALT and STEPEND ----------------------------------------------------------------------------------------------------

theorem planHalt_acts {c : Nat} {s : State} {k : Core} (ho : k.sparseOut = false) :
    ActsOnState (planHalt c s k) [] (planHalt c s k).eff := ⟨rfl, ho, rfl, rfl, rfl, rfl⟩

theorem coveredCores_setCore (s : State) (c : Nat) (k : Core) : coveredCores (setCore s c k) = coveredCores s := rfl

/-- The cores active after one of them has changed. -/
theorem mem_activeCores_setCore {s : State} {c d : Nat} {k : Core} : d ∈ activeCores (setCore s c k) ↔
    d ∈ coveredCores s ∧ (if d = c then k else coreOf s d).halted = false := by
  unfold activeCores
  rw [List.mem_filter, coveredCores_setCore]
  split
  case isTrue h => simp [h]
  case isFalse h => simp [core_setCore_ne s k h]

/-- A fence gate changes neither whether a core is halted nor its registers. -/
theorem addGate_fence_frame (k : Core) (n : Nat) : (addGate k n k.pc .fence).halted = k.halted ∧ (addGate k n k.pc .fence).s = k.s :=
  ⟨rfl, rfl⟩

theorem haltFence_frame (s : State) (n : Nat) : haltFence s n = { s with cores := (haltFence s n).cores } := mapCores_frame ..

/-- The fences of a step end leave a core as it is, but for its gates. -/
theorem coreOf_haltFence_setCore (s : State) (c n : Nat) (k : Core) :
    (coreOf (haltFence (setCore s c k) n) c).halted = k.halted ∧ (coreOf (haltFence (setCore s c k) n) c).s = k.s := by
  refine coreOf_mapCores (P := fun l => l.halted = k.halted ∧ l.s = k.s) (by simp) fun l hl => ?_
  obtain rfl := mem_setCore hl
  split
  · exact ⟨rfl, rfl⟩
  · exact addGate_fence_frame l n

/-- A core halts while others are active: nothing else happens. -/
theorem planHalt_eff_others {c : Nat} {s s' : State} {k : Core} (h : ∃ d ∈ activeCores s', d ≠ c) :
    (planHalt c s k).eff s' = modCore s' c (fun x => { x with halted := true }) := by
  obtain ⟨d, hd, hdc⟩ := h
  have hd : d ∈ activeCores (setCore s' c { coreOf s' c with halted := true }) := by
    obtain ⟨h1, h2⟩ := List.mem_filter.mp hd
    exact mem_activeCores_setCore.mpr ⟨h1, by simpa [hdc] using h2⟩
  simp only [planHalt, modCore, List.isEmpty_iff, List.ne_nil_of_mem hd, if_false]

/-- The last core halts: the step end of the next cycle begins, with the fences of the cores that wait for answers. -/
theorem planHalt_eff_last {c : Nat} {s s' : State} {k : Core} (h : ∀ d ∈ activeCores s', d = c) :
    (planHalt c s k).eff s' = haltFence (setCore { s' with plane := { s'.plane with stepEnd := some (s'.plane.cyc + 1) } } c
      { coreOf s' c with halted := true }) (s'.plane.cyc + 1) := by
  have hnone : activeCores (setCore s' c { coreOf s' c with halted := true }) = [] := by
    refine List.eq_nil_iff_forall_not_mem.mpr fun d hd => ?_
    obtain ⟨h1, h2⟩ := mem_activeCores_setCore.mp hd
    split at h2
    case isTrue => exact absurd h2 (by simp)
    case isFalse hdc => exact hdc (h d (List.mem_filter.mpr ⟨h1, by simp [h2]⟩))
  simp only [planHalt, modCore, hnone, List.isEmpty_nil, if_true]
  rfl

theorem activeCores_afterIssue (s : State) (c : Nat) (needs : List Need) : activeCores (afterIssue s c needs id) = activeCores s := by
  refine List.filter_congr fun d _ => ?_
  by_cases h : d = c
  · subst h; simp [afterIssue, retire]
  · rw [afterIssue, core_setCore_ne _ _ h, core_noteIssue]

theorem planStepend_acts {c : Nat} {s : State} {k : Core} (ho : k.sparseOut = false) :
    ActsOnState (planStepend c s k) nSIU (planStepend c s k).eff := ⟨rfl, ho, rfl, rfl, rfl, rfl⟩

/-- STEPEND leaves its fence among its core's gates and begins the step end of the present cycle. -/
theorem planStepend_eff (c : Nat) (s s' : State) (k x : Core) : (planStepend c s k).eff (setCore s' c x) =
    setCore { s' with plane := { s'.plane with stepEnd := some s'.plane.cyc, stepOk := false } } c
      { x with gates := x.gates ++ [⟨s'.plane.cyc, k.pc, .fence, true⟩] } := by
  simp only [planStepend, modCore, core_setCore_same, setCore_setCore]
  rfl

/-- The row of a STEPEND that executes in its core's turn and meets no other instruction's issue. -/
theorem stepend_acts {s : State} {c : Nat} {p : Pred} {f : FmtC} (h : Turn s c) (he : executes (coreOf s c) p = true)
    (hv : Vacant s c nSIU) (ho : (coreOf s c).sparseOut = false) (hs : skews s true = false) :
    exec (.stepend c p f) s = .next ((planStepend c s (coreOf s c)).eff
      (setCore (noteIssue s c true) c (retire (coreOf s c) s.plane.cyc nSIU))) := by
  show execStepend c p f s = _
  simp only [execStepend, Nat.not_le.mpr h.lists, if_false, openIssue_turn h, canIssue_turn h, if_true, he,
    issueNow_acts h he hs hv (planStepend_acts ho)]

/-- Settles O4: HALT with other cores active or as the last, and STEPEND. -/
theorem haltAndStependComplete : Obligations.HaltAndStependComplete := by
  refine ⟨fun s c p f hf ho => ?_, fun s c p f ht he hv ho hs => ?_⟩
  · have hrun := issue_actsOnState hf (vacant_nil s c) (planHalt_acts (c := c) (s := s) ho)
    refine ⟨fun hother => ?_, fun hlast => ?_⟩
    · rw [planHalt_eff_others (activeCores_afterIssue s c [] ▸ hother)] at hrun
      refine hrun.trans ?_
      simp [modCore, afterIssue]
    · rw [planHalt_eff_last (activeCores_afterIssue s c [] ▸ hlast)] at hrun
      refine ⟨_, hrun, ?_⟩
      obtain ⟨hh, hr⟩ := coreOf_haltFence_setCore
        { afterIssue s c [] id with plane := { (afterIssue s c [] id).plane with stepEnd := some (s.plane.cyc + 1) } } c
        (s.plane.cyc + 1) { coreOf (afterIssue s c [] id) c with halted := true }
      refine ⟨hh, hr.trans ?_, ?_, ?_, ?_, ?_⟩
      · rw [core_afterIssue]; rfl
      all_goals rw [haltFence_frame]; rfl
  · rw [stepend_acts ht he hv ho hs, planStepend_eff]
    exact ⟨_, rfl, core_setCore_same .., fun d hd => core_setCore_ne _ _ hd, rfl⟩

end Sys2Proof.Machine
end

section
/-! SUPPORT. What reaches a tile agent: SEND frames that land and the answers of the memory fabric (04 R120; 07 R203, R204; 12 R321,
R327). -/
namespace Sys2Proof.Machine
open Sys2Proof.Safety Sys2Proof.Claims

-- Fault records -------------------------------------------------------------------------------------------------------

/-- `t` differs from `s` in registers and in the fault codes of the step alone. -/
def RecordsOnly (s t : State) : Prop := t = { s with regs := t.regs, stepCodes := t.stepCodes }

theorem RecordsOnly.refl (s : State) : RecordsOnly s s := rfl
theorem RecordsOnly.trans {s t u : State} (h : RecordsOnly s t) (h' : RecordsOnly t u) : RecordsOnly s u := by
  unfold RecordsOnly at h h' ⊢
  rw [h', h]
theorem coreOf_congr {s t : State} (h : t.cores = s.cores) (c : Nat) : coreOf t c = coreOf s c := by rw [coreOf, coreOf, h]
theorem tile_congr {s t : State} (h : t.tiles = s.tiles) (x : Nat) : tile t x = tile s x := by rw [tile, tile, h]
theorem RecordsOnly.core {s t : State} (h : RecordsOnly s t) (c : Nat) : coreOf t c = coreOf s c := coreOf_congr (by rw [h]) c
theorem RecordsOnly.tile {s t : State} (h : RecordsOnly s t) (x : Nat) : tile t x = tile s x := tile_congr (by rw [h]) x
theorem RecordsOnly.dram {s t : State} (h : RecordsOnly s t) : t.dram = s.dram := by rw [h]
theorem RecordsOnly.bridges {s t : State} (h : RecordsOnly s t) : t.bridges = s.bridges := by rw [h]
theorem RecordsOnly.ite {c : Prop} [Decidable c] {s t u : State} (h : RecordsOnly s t) (h' : RecordsOnly s u) :
    RecordsOnly s (if c then t else u) := by
  split <;> assumption
theorem RecordsOnly.regSetBits {s t : State} (h : RecordsOnly s t) (a hi lo x : Nat) : RecordsOnly s (regSetBits t a hi lo x) :=
  h.trans (by unfold RecordsOnly; rw [regSetBits_frame])
theorem RecordsOnly.regPutNat {s t : State} (h : RecordsOnly s t) (a v n : Nat) : RecordsOnly s (regPutNat t a v n) :=
  h.trans (by unfold RecordsOnly; rw [regPutNat_frame])

theorem logFault_records (s : State) (die code cls detail n : Nat) : RecordsOnly s (logFault s die code cls detail n) := by
  unfold logFault
  simp only
  split
  · exact (RecordsOnly.refl s).regSetBits ..
  · exact .ite (((RecordsOnly.refl s).regPutNat ..).regSetBits ..) ((RecordsOnly.refl s).regSetBits ..)

/-- A fault record changes registers, and notes the code of a fail-class fault (17 R437, R439). -/
theorem recordAs_records (s : State) (die code cls detail : Nat) : RecordsOnly s (recordAs s die code cls detail) := by
  have first : ∀ a : Nat, RecordsOnly s (if regBits s a 7 0 = 0 then
      Machine.regSetBits (Machine.regSetBits (Machine.regSetBits s a 7 0 code) a 9 8 cls) a 31 16 detail
      else Machine.regSetBits s a 10 10 1) := fun a =>
    .ite ((((RecordsOnly.refl s).regSetBits ..).regSetBits ..).regSetBits ..) ((RecordsOnly.refl s).regSetBits ..)
  refine .trans (.regSetBits ?_ ..) (logFault_records ..)
  exact .ite ((first _).trans (((RecordsOnly.refl _).regSetBits ..).trans rfl)) (first _)

theorem recordTile_records (s : State) (t code : Nat) : RecordsOnly s (recordTile s t code) := recordAs_records ..

-- Landings ------------------------------------------------------------------------------------------------------------

theorem lbGet_lbSet (k : Core) (b c : Nat) (x : LandBuf) : lbGet (lbSet k b x) c = if c = b then x else lbGet k c :=
  smGet_smSet ..

/-- The core after a landing: the bytes stand at their address and are counted (04 R120). -/
def landed (b a : Nat) (bs : List Byte) (k : Core) : Core :=
  lbSet { k with ls := memWrite k.ls a bs } b { lbGet k b with count := (lbGet k b).count + bs.length }

@[simp] theorem lbGet_landed (b a : Nat) (bs : List Byte) (k : Core) :
    lbGet (landed b a bs k) b = { lbGet k b with count := (lbGet k b).count + bs.length } := (lbGet_lbSet ..).trans (if_pos rfl)
@[simp] theorem ls_landed (b a : Nat) (bs : List Byte) (k : Core) : (landed b a bs k).ls = memWrite k.ls a bs := rfl

theorem landAt_landed {s : State} {c b a : Nat} {bs : List Byte} (h : landRefused (lbGet (coreOf s c) b) a bs.length = false) :
    landAt s c b a bs = modCore s c (landed b a bs) := landAt_fits h

/-- A landing that does not fit marks its buffer; the rest is a fault record. -/
theorem landAt_marks {s : State} {c b a : Nat} {bs : List Byte} (h : landRefused (lbGet (coreOf s c) b) a bs.length = true) :
    RecordsOnly (modCore s c (fun k => lbSet k b { lbGet k b with overfill := true })) (landAt s c b a bs) := by
  rw [landAt_refused h]
  exact recordTile_records ..

/-- A landing changes one core, registers and fault codes. -/
theorem landAt_frame (s : State) (c b a : Nat) (bs : List Byte) : ∃ k, RecordsOnly (setCore s c k) (landAt s c b a bs) := by
  cases h : landRefused (lbGet (coreOf s c) b) a bs.length with
  | false => exact ⟨_, by rw [landAt_landed h]; exact .refl _⟩
  | true => exact ⟨_, landAt_marks h⟩

-- SEND frames ---------------------------------------------------------------------------------------------------------

/-- The first frame of a stream, not its last: delivered at once, and a row is kept for what follows (07 R203, R204). -/
theorem streamStep_first {rows : List StreamRow} {f : Frame} (h : rows.find? (isRow f) = none) (hl : fLast f = false) :
    ∃ rows', streamStep rows f = (rows', [f], false) := by
  simp [streamStep, h, hl]

/-- A frame whose buffer is not armed waits (04 R120). -/
theorem frameLand_waits {s : State} {t : Nat} {f : Frame} (ht : t < 64) (hc : clocksRun s = true) (hf : frmHead (tile s t) 1 = some f)
    (ha : armed s (destCore f) (fArg f % 16) = false) : exec (.frameLand t) s = .next s := by
  show execFrameLand t s = _
  simp [execFrameLand, tileCmd_works ht hc, hf, ha]

/-- The first frame of a stream leaves FRM-IN and lands. -/
theorem frameLand_lands {s : State} {t : Nat} {f : Frame} (ht : t < 64) (hc : clocksRun s = true) (hf : frmHead (tile s t) 1 = some f)
    (ha : armed s (destCore f) (fArg f % 16) = true) (hn : (tile s t).streams.find? (isRow f) = none)
    (hr : (tile s t).streams.length < 8192) (hl : fLast f = false) :
    ∃ x : Tile, x.frmIn = (tile s t).frmIn.erase f ∧ exec (.frameLand t) s = .next (landSend (setTile s t x) f) := by
  obtain ⟨rows, hs⟩ := streamStep_first hn hl
  refine ⟨{ tile s t with frmIn := (tile s t).frmIn.erase f, streams := rows }, rfl, ?_⟩
  show execFrameLand t s = _
  simp [execFrameLand, tileCmd_works ht hc, hf, ha, streamRoom, rowRoom, hr, hs, popFrm, modTile]

/-- A SEND frame lands at BASE plus its offset, never below its buffer (04 R117). -/
theorem landRefused_send {lb : LandBuf} {o n : Nat} : landRefused lb (lb.base + o) n = true ↔
    n ≠ 0 ∧ (lb.gated = true ∨ lb.base + lb.len < lb.base + o + n ∨ lb.len < lb.count + n) := by
  simp [landRefused]

-- Answers -------------------------------------------------------------------------------------------------------------

/-- An answer that matches an entry of the requester table leaves FRM-IN and does what its kind does (12 R327). -/
theorem takeAnswer_matches {s : State} {ty t : Nat} {land : State → Nat → ReqEntry → Frame → State} {f : Frame} {e : ReqEntry}
    (ht : t < 64) (hc : clocksRun s = true) (herr : s.errs = Errs.none) (hf : frmHead (tile s t) ty = some f)
    (he : reqEntry (tile s t) (lcOf (destCore f)) (fSeq f).toNat = some e) :
    takeAnswer ty t land s = .next (land (popFrm s t f) (destCore f) e f) := by
  have hm : (popFrm s t f).errs.marks = [] := by simp [popFrm, herr, Errs.none]
  have hr : reqEntry (tile (popFrm s t f) t) (lcOf (destCore f)) (fSeq f).toNat = some e := by
    rw [popFrm, modTile, tile_setTile_same]
    exact he
  simp [takeAnswer, tileCmd_works ht hc, hf, tableRead, reqLost, entryLost, hm, hr, Option.filter]

theorem takeAnswer_none {s : State} {ty t : Nat} {land : State → Nat → ReqEntry → Frame → State} (ht : t < 64)
    (hc : clocksRun s = true) (hf : frmHead (tile s t) ty = none) : takeAnswer ty t land s = .next s := by
  simp [takeAnswer, tileCmd_works ht hc, hf]

theorem mfData_takes (t : Nat) (s : State) : exec (.mfData t) s = takeAnswer 5 t (fun s c e f =>
    releaseReq (if e.rlb < 16 then landAt s c e.rlb e.rsa f.payload else s) c e) s := rfl
theorem mfAck_takes (t : Nat) (s : State) : exec (.mfAck t) s = takeAnswer 6 t (fun s c e _ => releaseReq s c e) s := rfl
theorem nak_takes (t : Nat) (s : State) : exec (.nak t) s = takeAnswer 7 t (fun s c e f => takeNak s c e (fAop f)) s := rfl

/-- A released request has left the requester table, and OUT has fallen by one (12 R327). -/
theorem releaseReq_eq (s : State) (c : Nat) (e : ReqEntry) : releaseReq s c e =
    setCore (setTile s (tileOf c) { tile s (tileOf c) with req := (tile s (tileOf c)).req.erase e }) c
      { coreOf s c with capo := (coreOf s c).capo - 1 } := rfl

section Released
variable (s : State) (c : Nat) (e : ReqEntry)

theorem core_releaseReq : coreOf (releaseReq s c e) c = { coreOf s c with capo := (coreOf s c).capo - 1 } :=
  core_setCore_same ..
theorem tile_releaseReq : tile (releaseReq s c e) (tileOf c) =
    { tile s (tileOf c) with req := (tile s (tileOf c)).req.erase e } := tile_setTile_same ..
theorem releaseReq_frame {s₀ : State} (h : s = { s₀ with cores := s.cores, tiles := s.tiles }) :
    releaseReq s c e = { s₀ with cores := (releaseReq s c e).cores, tiles := (releaseReq s c e).tiles } := by
  conv_lhs => rw [releaseReq_eq, h]
  rfl

end Released

theorem popFrm_tile (s : State) (t : Nat) (f : Frame) : tile (popFrm s t f) t = { tile s t with frmIn := (tile s t).frmIn.erase f } :=
  tile_setTile_same ..
theorem tile_modCore (s : State) (c : Nat) (g : Core → Core) (t : Nat) : tile (modCore s c g) t = tile s t := rfl
theorem popFrm_core (s : State) (t : Nat) (f : Frame) (c : Nat) : coreOf (popFrm s t f) c = coreOf s c := rfl

/-- A NAK of code 2 or 3 without a response buffer leaves a fault for the next fence (12 R321). -/
theorem takeNak_faults {s : State} {c code : Nat} {e : ReqEntry} (hb : 16 ≤ e.rlb) (hcode : code = 2 ∨ code = 3) :
    takeNak s c e code =
      releaseReq (modCore s c (fun k => addNakFault k e.posted (if code = 2 then 0x12 else 0x05))) c e := by
  rcases hcode with rfl | rfl <;> simp [takeNak, Nat.not_lt.mpr hb]

/-- Settles O27: SEND frames that wait, land or mark their buffer; the three answers. -/
theorem framesAndAnswersLand : Obligations.FramesAndAnswersLand := by
  refine ⟨?_, ?_⟩
  · intro s t f ht hc hf c b lb a
    refine ⟨fun ha => frameLand_waits ht hc hf ha, fun ha hn hr hl => ?_⟩
    obtain ⟨x, hx, he⟩ := frameLand_lands ht hc hf ha hn hr hl
    have hland : landSend (setTile s t x) f = landAt (setTile s t x) c b a f.payload := rfl
    obtain ⟨k, hk⟩ := landAt_frame (setTile s t x) c b a f.payload
    rw [he, hland]
    refine ⟨_, rfl, ?_, fun y hy => ?_, hk.dram, hk.bridges, fun hg hin hcount => ?_, fun hp hbad => ?_⟩
    · exact (congrArg Tile.frmIn ((hk.tile t).trans (tile_setTile_same ..))).trans hx
    · exact (hk.core y).trans (core_setCore_ne _ _ hy)
    · have hfits : landRefused (lbGet (coreOf (setTile s t x) c) b) a f.payload.length = false :=
        Bool.eq_false_iff.mpr fun h => by
          obtain ⟨-, h | h | h⟩ := landRefused_send.mp h
          · exact absurd (hg.symm.trans h) (by simp)
          · exact absurd hin (Nat.not_le.mpr h)
          · exact absurd hcount (Nat.not_le.mpr h)
      rw [landAt_landed hfits, core_modCore_same, lbGet_landed, ls_landed]
      exact ⟨rfl, memRead_memWrite_same .., fun y hy => memByte_memWrite_out _ _ _ _ hy⟩
    · have hbad : landRefused (lbGet (coreOf (setTile s t x) c) b) a f.payload.length = true :=
        landRefused_send.mpr ⟨by simpa using hp, hbad⟩
      rw [(landAt_marks hbad).core, core_modCore_same]
      exact ⟨(lbGet_lbSet ..).trans (if_pos rfl), rfl⟩
  · intro s t ht hc herr
    refine ⟨fun f e hf htile he => ?_, fun f e hf htile he hb => ?_, fun f e hf htile he hb hcode => ?_, ?_⟩
    · subst htile
      rw [mfAck_takes, takeAnswer_matches ht hc herr hf he]
      refine ⟨_, rfl, ?_, core_releaseReq .., ?_, releaseReq_frame _ _ _ rfl⟩
      · rw [tile_releaseReq, popFrm_tile]
      · rw [tile_releaseReq, popFrm_tile]
    · intro lb hfits
      subst htile
      rw [mfData_takes, takeAnswer_matches ht hc herr hf he]
      simp only [if_pos hb, landAt_landed (s := popFrm s _ f) hfits]
      refine ⟨_, rfl, ?_, ?_⟩
      · rw [tile_releaseReq, tile_modCore, popFrm_tile]
      · rw [core_releaseReq, core_modCore_same, popFrm_core]
        exact ⟨rfl, lbGet_landed .., memRead_memWrite_same .., fun y hy => memByte_memWrite_out _ _ _ _ hy⟩
    · subst htile
      rw [nak_takes, takeAnswer_matches ht hc herr hf he, takeNak_faults hb hcode]
      refine ⟨_, rfl, ?_, ?_, releaseReq_frame _ _ _ rfl⟩
      · rw [tile_releaseReq, tile_modCore, popFrm_tile]
      · rw [core_releaseReq, core_modCore_same, addNakFault, popFrm_core]
    · simp only [List.forall_mem_cons, mfData_takes, mfAck_takes, nak_takes]
      exact ⟨takeAnswer_none ht hc, takeAnswer_none ht hc, takeAnswer_none ht hc, fun _ h => absurd h List.not_mem_nil⟩

end Sys2Proof.Machine
end

section
/-! SUPPORT. The fields of a frame as its sender made it, and a frame's arrival at a Bridge (08 R211, R212, R220). -/
namespace Sys2Proof.Machine
open Sys2Proof.Safety Sys2Proof.Claims

/-- The header `mkFrame` packs, before its check. -/
def hdrOf (p : FrameSpec) : Nat :=
  p.dest.toNat + p.src.toNat <<< 32 + (p.cls % 4) <<< 64 + (p.hop % 4) <<< 66 + (if p.last then 1 else 0) <<< 68 +
    (p.type % 256) <<< 72 + p.payload.length <<< 80 + (p.seq % 2 ^ 32) <<< 96 + (p.arg % 2 ^ 64) <<< 128 +
    (p.key % 2 ^ 24) <<< 192 + (p.aop % 256) <<< 216 + (p.epoch % 256) <<< 224

/-- The check of a header takes no other field of it (08 R216). -/
theorem fGet_mkFrame (p : FrameSpec) {hi lo : Nat} (h : hi < 240) : fGet (mkFrame p) hi lo = bitsOf (hdrOf p) hi lo := by
  have hs : ∀ f : Frame, fGet (sealFrame f) hi lo = bitsOf f.hdr.toNat hi lo := fun f => by
    show bitsOf (BitVec.ofNat 256 (putBits f.hdr.toNat 255 240 (hcrcOf f))).toNat hi lo = _
    rw [BitVec.toNat_ofNat, bitsOf_mod _ (by omega), bitsOf_putBits_ne _ _ (.inl h)]
  rw [mkFrame, hs, BitVec.toNat_ofNat, bitsOf_mod _ (by omega)]
  rfl

/-- A field between what lies below it and above it. -/
theorem bitsOf_between {x v y lo w : Nat} (hi : Nat) (hx : x < 2 ^ lo) (hv : v < 2 ^ w) (hw : hi + 1 = lo + w) :
    bitsOf (x + 2 ^ lo * (v + 2 ^ w * y)) hi lo = v := by
  rw [bitsOf, show hi + 1 - lo = w by omega, Nat.shiftRight_eq_div_pow, Nat.add_mul_div_left _ _ (by positivity),
    Nat.div_eq_of_lt hx, Nat.zero_add, Nat.add_mul_mod_self_left, Nat.mod_eq_of_lt hv]

/-- The header below its type, the bits of HOP, CLS, SRC and DEST. -/
def hdrLow (p : FrameSpec) : Nat :=
  p.dest.toNat + p.src.toNat * 2 ^ 32 + p.cls % 4 * 2 ^ 64 + p.hop % 4 * 2 ^ 66 + (if p.last then 1 else 0) * 2 ^ 68

/-- The header above its sequence number. -/
def hdrHigh (p : FrameSpec) : Nat :=
  p.arg % 2 ^ 64 + p.key % 2 ^ 24 * 2 ^ 64 + p.aop % 256 * 2 ^ 88 + p.epoch % 256 * 2 ^ 96

theorem hdrOf_eq (p : FrameSpec) : hdrOf p = hdrLow p + 2 ^ 72 * (p.type % 2 ^ 8 + 2 ^ 8 * (p.payload.length + 2 ^ 16 *
    (p.seq % 2 ^ 32 + 2 ^ 32 * hdrHigh p))) := by
  unfold hdrOf hdrLow hdrHigh
  generalize (if p.last then 1 else 0) = l, p.dest.toNat = d, p.src.toNat = r, p.payload.length = n
  simp only [Nat.shiftLeft_eq]
  omega

theorem hdrLow_lt (p : FrameSpec) : hdrLow p < 2 ^ 72 := by
  have hdest := p.dest.isLt
  have hsrc := p.src.isLt
  have hlast : (if p.last then 1 else 0) ≤ 1 := by split <;> simp
  have hcls := Nat.mod_lt p.cls (show 0 < 4 by decide)
  have hhop := Nat.mod_lt p.hop (show 0 < 4 by decide)
  rw [hdrLow]
  generalize (if p.last then 1 else 0) = l at hlast ⊢
  omega

theorem fType_mkFrame (p : FrameSpec) : fType (mkFrame p) = p.type % 256 := by
  rw [fType, fGet_mkFrame p (by omega), hdrOf_eq]
  exact bitsOf_between 79 (hdrLow_lt p) (Nat.mod_lt _ (by positivity)) rfl

theorem fSeq_mkFrame (p : FrameSpec) (h : p.payload.length < 2 ^ 16) : fSeq (mkFrame p) = BitVec.ofNat 32 p.seq := by
  have hlow : hdrLow p + 2 ^ 72 * (p.type % 2 ^ 8) + 2 ^ 80 * p.payload.length < 2 ^ 96 := by
    have := hdrLow_lt p
    omega
  have he : hdrOf p = hdrLow p + 2 ^ 72 * (p.type % 2 ^ 8) + 2 ^ 80 * p.payload.length +
      2 ^ 96 * (p.seq % 2 ^ 32 + 2 ^ 32 * hdrHigh p) := by
    rw [hdrOf_eq]
    ring
  rw [fSeq, fGet_mkFrame p (by omega), he, bitsOf_between 127 hlow (Nat.mod_lt _ (by positivity)) rfl]
  exact BitVec.eq_of_toNat_eq (by simp)

theorem fDest_mkFrame (p : FrameSpec) : fDest (mkFrame p) = p.dest := by
  have hb : bitsOf (hdrOf p) 31 0 = p.dest.toNat := by
    have hd : hdrOf p % 2 ^ 32 = p.dest.toNat := by
      have := p.dest.isLt
      rw [hdrOf_eq, hdrLow]
      omega
    rw [bitsOf, Nat.shiftRight_zero, hd]
  rw [fDest, fGet_mkFrame p (by omega), hb, BitVec.ofNat_toNat, BitVec.setWidth_eq]

@[simp] theorem payload_mkFrame (p : FrameSpec) : (mkFrame p).payload = p.payload := rfl

/-- Replacing a field leaves every other field. -/
theorem fGet_fSet (f : Frame) {hi lo h l : Nat} (v : Nat) (hh : h < 256) (d : h < lo ∨ hi < l) :
    fGet (fSet f hi lo v) h l = fGet f h l := by
  show bitsOf (BitVec.ofNat 256 (putBits f.hdr.toNat hi lo v)).toNat h l = _
  rw [BitVec.toNat_ofNat, bitsOf_mod _ hh, bitsOf_putBits_ne _ _ d]
  rfl

-- Arrivals ------------------------------------------------------------------------------------------------------------

/-- The receive-space entry of a frame that arrives at the attachment of Bridge `d` (08 R220). -/
def rxOf (s : State) (d : Nat) (via buf : Option Nat) (f : Frame) : RxEntry :=
  ⟨.localPort, 3 * fCls f + min 2 (fHop f), (bridge s d).arrivals, f, false, false, [], 0, false, false, false, false, via, buf⟩

/-- A frame that arrives at a Bridge stands last in its receive space; registers alone count it. -/
theorem arriveWith_local (s : State) (d : Nat) (via buf : Option Nat) (f : Frame) :
    arriveWith s d .localPort via buf f = { s with
      bridges := (setBridge s d { bridge s d with
        recv := (bridge s d).recv ++ [rxOf s d via buf f], arrivals := (bridge s d).arrivals + 1 }).bridges
      regs := (arriveWith s d .localPort via buf f).regs } := by
  unfold arriveWith brgCount regCount
  simp only
  rw [regPutNat_frame]
  rfl

theorem bridge_congr {s t : State} (h : t.bridges = s.bridges) (d : Nat) : bridge t d = bridge s d := by rw [bridge, bridge, h]

theorem recv_arriveWith (s : State) (d : Nat) (via buf : Option Nat) (f : Frame) :
    (bridge (arriveWith s d .localPort via buf f) d).recv = (bridge s d).recv ++ [rxOf s d via buf f] := by
  rw [arriveWith_local]
  exact congrArg Bridge.recv (bridge_setBridge_same ..)

end Sys2Proof.Machine
end

section
/-! SUPPORT. The service slot of a sliver port: what it picks, and the line of a fabric request it serves (04 R105, R106; 12 R313,
R323). -/
namespace Sys2Proof.Machine
open Sys2Proof.Safety Sys2Proof.Claims

section Slot
variable {s : State} {t lc : Nat}

/-- With an empty directory the host holds no line. -/
theorem dirFind_empty (h : s.dir = []) (l : Nat) : dirFind s l = none := by simp [dirFind, h]

/-- With an empty directory no request is set aside. -/
theorem setAside_empty (h : s.dir = []) : setAside s t lc = setPort s t lc (port s t lc) := by
  have hh (l : Nat) : heldE s l = false := heldE_none (dirFind_empty h l)
  have hw : ∀ r : SvcReq, (if isFabric r && decide (r.done = 0) then (svcLines t lc r).filter (heldE s) else []) = [] := fun r => by
    simp [hh, List.filter_eq_nil_iff.mpr]
  have hfold : ∀ (q : List SvcReq) (u : State), q.foldl (fun a _ => a) u = u := fun q u => by induction q <;> simp_all
  simp only [setAside, hw, List.foldl_nil, List.isEmpty_nil, Bool.not_true, Bool.or_false, List.map_id', hfold]

theorem svcWaits_setPort (q : List SvcReq) (r : SvcReq) : svcWaits (setPort s t lc q) t lc r = svcWaits s t lc r := rfl

/-- Writing a port back as it stands changes no pick. -/
theorem portPick_setPort_self : portPick (setPort s t lc (port s t lc)) t lc = portPick s t lc := by
  simp only [portPick, port_setPort_same, svcWaits_setPort]

/-- A port with nothing to serve, or whose tile refreshes in this frame, stays as it is (04 R106). -/
theorem serviceSlot_idle {c : Nat} (hc : c < coreCount) (hk : clocksRun s = true) (hd : s.dir = [])
    (h : portPick s (tileOf c) (lcOf c) = none ∨ refreshFrame s (tileOf c) s.count = true) :
    exec (.serviceSlot c) s = .next (setPort s (tileOf c) (lcOf c) (port s (tileOf c) (lcOf c))) := by
  show execServiceSlot c s = _
  simp only [execServiceSlot, coreCmd_works hc hk, setAside_empty hd, portPick_setPort_self]
  split
  · rfl
  · next hr => rw [h.resolve_right fun h => hr ((refreshFrame_setPort ..).trans h)]

theorem refresh_idle {t : Nat} (ht : t < 64) (hk : clocksRun s = true) : exec (.refresh t) s = .next s :=
  tileCmd_works (f := fun s => s) ht hk

/-- A request of the fabric that comes next is served by a line. -/
theorem serviceSlot_fabric {c : Nat} {r : SvcReq} {req : Frame} {die rsv : Nat} (hc : c < coreCount) (hk : clocksRun s = true)
    (hd : s.dir = []) (hr : refreshFrame s (tileOf c) s.count = false) (hp : portPick s (tileOf c) (lcOf c) = some r)
    (hs : r.src = .fabric req die rsv) :
    exec (.serviceSlot c) s =
      .next (serveLine (setPort s (tileOf c) (lcOf c) (port s (tileOf c) (lcOf c))) (tileOf c) (lcOf c) r) := by
  show execServiceSlot c s = _
  have hr' : refreshFrame (setPort s (tileOf c) (lcOf c) (port s (tileOf c) (lcOf c))) (tileOf c)
      (setPort s (tileOf c) (lcOf c) (port s (tileOf c) (lcOf c))).count = false := (refreshFrame_setPort ..).trans hr
  simp only [execServiceSlot, coreCmd_works hc hk, setAside_empty hd, portPick_setPort_self, hr', hp, hs, Bool.false_eq_true, if_false]

-- One line ------------------------------------------------------------------------------------------------------------

/-- A range that lies in one line is that line's part of it. -/
theorem lineSpan_one {off n : Nat} (hn : 0 < n) (h : (linesOf off n).length = 1) : lineSpan off n 0 = (off, off + n) := by
  have h1 : (off + n - 1) / 64 - off / 64 + 1 = 1 := by simpa [linesOf, hn.ne'] using h
  simp only [lineSpan, Prod.mk.injEq]
  omega

theorem slotRead_sound (h : s.errs = Errs.none) (a n : Nat) : slotRead s a n = (s, false) := by
  simp [slotRead, dramCheck, h, Errs.none]

theorem dpaOf_add (c off : Nat) : dpaOf (tileOf c * 16384 + lcOf c) 0 + off = dpaOf c off := by
  unfold dpaOf tileOf lcOf
  omega

/-- The service of request `r`, that frame `req` brought, ends: it leaves its port, and an answer of type `ty` with `data` stands last
at Bridge `die`. -/
def Answered (s u : State) (t lc : Nat) (r : SvcReq) (req : Frame) (die ty : Nat) (data : List Byte) : Prop :=
  port u t lc = (port s t lc).erase r ∧ u.dram = s.dram ∧
    ∃ e, (bridge u die).recv = (bridge s die).recv ++ [e] ∧ fType e.frame = ty ∧ fDest e.frame = fSrc req ∧
      fSeq e.frame = fSeq req ∧ e.frame.payload = data

theorem port_congr {u : State} (h : u.tiles = s.tiles) : port u t lc = port s t lc := by rw [port, port, tile_congr h]

theorem fabricCount_frame (s : State) (t n : Nat) (r : SvcReq) : fabricCount s t n r = { s with regs := (fabricCount s t n r).regs } := by
  unfold fabricCount
  split
  · exact regPutNat_frame ..
  · rfl

/-- The answer of a served request: registers count it, and it arrives in the buffer reserved for it (12 R313, R322). -/
theorem fabric_answered {r : SvcReq} {req : Frame} {die rsv : Nat} (hs : r.src = .fabric req die rsv) (hb : r.bad = false) (n : Nat)
    {ty : Nat} {data : List Byte} (hty : ty < 256) (hlen : data.length < 2 ^ 16) :
    Answered s (sendAnswer (fabricCount (portDrop s t lc r) t n r) r ty data) t lc r req die ty data := by
  set v := fabricCount (portDrop s t lc r) t n r with hv
  have hframe : v = { portDrop s t lc r with regs := v.regs } := fabricCount_frame ..
  have hport : port v t lc = (port s t lc).erase r :=
    (port_congr (s := portDrop s t lc r) (by rw [hframe])).trans (port_setPort_same ..)
  have hbr : bridge v die = bridge s die := bridge_congr (by rw [hframe]; rfl) die
  simp only [sendAnswer, hs, hb, Bool.false_eq_true, if_false, answer]
  refine ⟨?_, ?_, _, (recv_arriveWith ..).trans (congrArg (·.recv ++ [_]) hbr), ?_, ?_, ?_, ?_⟩
  · rw [← hport]
    exact port_congr (by rw [arriveWith_local])
  · rw [arriveWith_local, hframe]
    rfl
  · exact (fType_mkFrame _).trans (Nat.mod_eq_of_lt hty)
  · exact fDest_mkFrame _
  · exact (fSeq_mkFrame _ hlen).trans (by simp)
  · simp [rxOf]

/-- A read of one line is served whole and answered by its bytes. -/
theorem serveLine_read {c n : Nat} {r : SvcReq} {req : Frame} {die rsv : Nat} (he : s.errs = Errs.none) (hs : r.src = .fabric req die rsv)
    (hb : r.bad = false) (ho : r.op = .read n) (hn : 0 < n) (hl : (linesOf r.off n).length = 1) (hd : r.done = 0) (hg : r.got = []) :
    Answered s (serveLine s (tileOf c) (lcOf c) r) (tileOf c) (lcOf c) r req die 5 (memRead s.dram (dpaOf c r.off) n) := by
  have hlen : n < 2 ^ 16 := by
    have h1 : (r.off + n - 1) / 64 - r.off / 64 + 1 = 1 := by simpa [linesOf, hn.ne'] using hl
    omega
  simp only [serveLine, ho, hl, hd, hg, lineSpan_one hn hl, hn.ne', if_false, slotRead_sound he, dpaOf_add, Nat.zero_add, le_refl,
    if_true, Nat.add_sub_cancel_left, List.nil_append, Bool.or_false]
  exact fabric_answered hs hb 0 (by decide) (by simpa [memRead_length] using hlen)

/-- A write of one line writes its bytes and is answered. -/
theorem serveLine_write {c : Nat} {bs : List Byte} {r : SvcReq} {req : Frame} {die rsv : Nat} (hdir : s.dir = [])
    (hs : r.src = .fabric req die rsv) (hb : r.bad = false) (ho : r.op = .write bs) (hn : bs ≠ [])
    (hl : (linesOf r.off bs.length).length = 1) (hd : r.done = 0) :
    Answered { s with dram := memWrite s.dram (dpaOf c r.off) bs } (serveLine s (tileOf c) (lcOf c) r) (tileOf c) (lcOf c) r req die 6
      [] := by
  have hpos : 0 < bs.length := List.length_pos_iff.mpr hn
  have htouch : ∀ l, writeTouch { s with dram := memWrite s.dram (dpaOf c r.off) bs } l =
      { s with dram := memWrite s.dram (dpaOf c r.off) bs } := fun l => by simp [writeTouch, dirFind, hdir]
  simp only [serveLine, ho, hl, hd, lineSpan_one hpos hl, List.isEmpty_eq_false_iff.mpr hn, dpaOf_add, Nat.zero_add, le_refl, if_true,
    Nat.add_sub_cancel_left, Nat.sub_self, List.drop_zero, List.take_length, Bool.false_eq_true, if_false, htouch]
  exact fabric_answered hs hb 1 (by decide) (by decide)

end Slot

/-- Settles O29: an idle slot, a read and a write of one line, and REFRESH. -/
theorem serviceSlotServesOneLine : Obligations.ServiceSlotServesOneLine := by
  intro s c r req die rsv hc hk hd he hpick
  set u := setPort s (tileOf c) (lcOf c) (port s (tileOf c) (lcOf c)) with hu
  have hport : port u (tileOf c) (lcOf c) = port s (tileOf c) (lcOf c) := port_setPort_same ..
  have ht : tileOf c < 64 := Nat.div_lt_of_lt_mul hc
  refine ⟨by simp [refreshFrame], fun h => ⟨u, serviceSlot_idle hc hk hd h, hport, rfl⟩, fun n hr hp ho hn hl hdone hgot => ?_,
    fun bs hr hp ho hn hl hdone => ?_, refresh_idle ht hk⟩
  · obtain ⟨hs, hb⟩ := hpick hp
    obtain ⟨hq, hdram, e, hrecv, hty, hdest, hseq, hpay⟩ :=
      serveLine_read (s := u) (c := c) he hs hb ho hn hl hdone hgot
    exact ⟨_, e, serviceSlot_fabric hc hk hd hr hp hs, hq.trans (congrArg (·.erase r) hport), hrecv, hty, hdest, hseq, hpay, hdram⟩
  · obtain ⟨hs, hb⟩ := hpick hp
    obtain ⟨hq, hdram, e, hrecv, hty, hdest, hseq, -⟩ := serveLine_write (s := u) (c := c) hd hs hb ho hn hl hdone
    refine ⟨_, e, serviceSlot_fabric hc hk hd hr hp hs, hq.trans (congrArg (·.erase r) hport), hrecv, hty, hdest, hseq, ?_, fun a ha => ?_⟩
    · rw [hdram]
      exact memRead_memWrite_same ..
    · rw [hdram]
      exact memByte_memWrite_out _ _ _ _ ha

end Sys2Proof.Machine
end

section
/-! SUPPORT. The sending side of a tile agent: tokens, injection queues, and what a drained outbox entry becomes (04 R117, R118; 09
R239, R243, R244, R247, R248; 12 R326). -/
namespace Sys2Proof.Machine
open Sys2Proof.Safety Sys2Proof.Claims

-- Tags and tokens -----------------------------------------------------------------------------------------------------

/-- A tag is before one less than half the space ahead, and not after it (09 R239). -/
theorem tagBefore_add (a : BitVec 48) {n : Nat} (h0 : 0 < n) (h : n < 2 ^ 47) :
    tagBefore a (a + BitVec.ofNat 48 n) = true ∧ tagBefore (a + BitVec.ofNat 48 n) a = false := by
  have ha := a.isLt
  simp only [tagBefore, decide_eq_true_eq, decide_eq_false_iff_not, BitVec.toNat_sub, BitVec.toNat_add, BitVec.toNat_ofNat]
  omega

/-- The two halves of a register pair that was written. -/
theorem regBits_regPutNat_halves (s : State) (a : Nat) {x y : Nat} (hx : x < 2 ^ 32) (hy : y < 2 ^ 32) :
    regBits (regPutNat s a (x + y * 2 ^ 32) 2) a 31 0 = x ∧ regBits (regPutNat s a (x + y * 2 ^ 32) 2) a 63 32 = y := by
  rw [← bitsOf_regNat _ a (m := 2) (by decide), ← bitsOf_regNat _ a (m := 2) (by decide), regNat_regPutNat_same]
  simp only [bitsOf, Nat.shiftRight_eq_div_pow]
  omega

/-- A size of a bucket fits its token field. -/
theorem tokens_fit {n x : Nat} (h : n < 2 ^ 24) : min (max 4160 n * 256) x < 2 ^ 32 := by omega

-- What an emitted frame leaves ------------------------------------------------------------------------------------------

/-- `u` has the memories, injection queues and policers of `s`. -/
structure KeepsQueues (s u : State) : Prop where
  dram : u.dram = s.dram
  inj : ∀ t, (tile u t).inj = (tile s t).inj
  pol : ∀ t, (tile u t).pol = (tile s t).pol

namespace KeepsQueues
variable {s t u : State}

theorem refl (s : State) : KeepsQueues s s := ⟨rfl, fun _ => rfl, fun _ => rfl⟩
theorem trans (h : KeepsQueues s t) (h' : KeepsQueues t u) : KeepsQueues s u :=
  ⟨h'.dram.trans h.dram, fun x => (h'.inj x).trans (h.inj x), fun x => (h'.pol x).trans (h.pol x)⟩
theorem of_tiles (hd : u.dram = s.dram) (ht : u.tiles = s.tiles) : KeepsQueues s u :=
  ⟨hd, fun x => congrArg Tile.inj (tile_congr ht x), fun x => congrArg Tile.pol (tile_congr ht x)⟩
theorem of_records (h : RecordsOnly s u) : KeepsQueues s u :=
  ⟨h.dram, fun x => congrArg Tile.inj (h.tile x), fun x => congrArg Tile.pol (h.tile x)⟩

end KeepsQueues

theorem RecordsOnly.cores {s t : State} (h : RecordsOnly s t) : t.cores = s.cores := by rw [h]
theorem RecordsOnly.tiles {s t : State} (h : RecordsOnly s t) : t.tiles = s.tiles := by rw [h]

theorem landCount_keeps (s : State) (c b n : Nat) : KeepsQueues s (landCount s c b n) := by
  unfold landCount
  simp only
  split
  · exact (KeepsQueues.of_tiles (s := s) (u := modCore s c _) rfl rfl).trans (.of_records (recordTile_records ..))
  · exact .of_tiles rfl rfl

/-- Releasing a request changes the requester table of its tile alone. -/
theorem releaseReq_keeps (s : State) (c : Nat) (e : ReqEntry) : KeepsQueues s (releaseReq s c e) := by
  have htile : ∀ t, tile (releaseReq s c e) t =
      { tile s t with req := if t = tileOf c then (tile s (tileOf c)).req.erase e else (tile s t).req } := fun t => by
    split
    · next h =>
      rw [h]
      exact tile_releaseReq ..
    · next h => exact tile_setTile_ne s _ h
  exact ⟨rfl, fun t => by rw [htile], fun t => by rw [htile]⟩

theorem takeNak_keeps (s : State) (c : Nat) (e : ReqEntry) (code : Nat) : KeepsQueues s (takeNak s c e code) := by
  have hcount : KeepsQueues s (if e.rlb < 16 then landCount s c e.rlb e.len else s) := by
    split
    · exact landCount_keeps ..
    · exact .refl s
  unfold takeNak
  generalize (if e.rlb < 16 then landCount s c e.rlb e.len else s) = u at hcount ⊢
  refine hcount.trans (.trans ?_ (releaseReq_keeps ..))
  split
  · exact .of_records (recordTile_records ..)
  · exact .of_tiles rfl rfl
  · exact .of_tiles rfl rfl
  · exact .refl _

theorem arriveVia_local (s : State) (d : Nat) (via : Option Nat) (f : Frame) :
    (arriveVia s d .localPort via f).cores = s.cores ∧ (arriveVia s d .localPort via f).tiles = s.tiles ∧
      (arriveVia s d .localPort via f).dram = s.dram := by
  rw [arriveVia, arriveWith_local]
  exact ⟨rfl, rfl, rfl⟩

/-- A frame that leaves a tile agent stays out of its queues and policers. -/
theorem agentEmit_keeps (s : State) (t : Nat) (f : Frame) : KeepsQueues s (agentEmit s t f) := by
  unfold agentEmit
  split
  · next cs h =>
    obtain ⟨-, htiles, hdram⟩ := arriveVia_local s (tileExit f cs).1 (tileExit f cs).2 f
    exact .of_tiles hdram htiles
  · split
    · split
      · exact takeNak_keeps ..
      · exact .refl s
    · exact .of_records (recordAs_records ..)

/-- A frame that is no memory request leaves every core as it is. -/
theorem agentEmit_cores {s : State} {t : Nat} {f : Frame} (h : isMfReq (fType f) = false) : (agentEmit s t f).cores = s.cores := by
  unfold agentEmit
  split
  · next cs h => exact (arriveVia_local s (tileExit f cs).1 (tileExit f cs).2 f).1
  · rw [h]
    exact (recordAs_records ..).cores

theorem polCount_records (s : State) (d n : Nat) : RecordsOnly s (polCount s d n) := (RecordsOnly.refl s).regPutNat ..

theorem debit_records (s : State) (d base c : Nat) (sh : Shaper) (t b : Nat) : RecordsOnly s (debit s d base c sh t b) :=
  .ite (.refl s) ((RecordsOnly.refl s).regPutNat ..)

-- Injection queues ----------------------------------------------------------------------------------------------------

section Queues
variable {s : State} {t k : Nat}

theorem injQ_setInj (s : State) (t k : Nat) (q : List (Bool × Frame)) :
    injQ (setInj s t k q) t k = if k < (tile s t).inj.length then q else [] := by
  rw [injQ, setInj, modTile, tile_setTile_same, List.getElem?_set_self']
  split
  · next h => simp [h]
  · next h => simp [List.getElem?_eq_none (Nat.le_of_not_lt h)]

theorem KeepsQueues.injQ {s u : State} (h : KeepsQueues s u) (t k : Nat) : injQ u t k = injQ s t k := by
  rw [Machine.injQ, Machine.injQ, h.inj]

theorem injQ_of_classHeld (h : classHeld s t k = false) (hk : k ≠ 1) : injQ s t k = [] := by
  simpa [classHeld, hk] using h

/-- Without a policer the head of a queue leaves it and is sent (09 R247). -/
theorem releaseInj_unpoliced {seen : Bool} {f : Frame} {rest : List (Bool × Frame)} (n : Nat)
    (he : (shaperOf (tile s t).pol k).en = false) (hq : injQ s t k = (seen, f) :: rest) :
    releaseInj t k (n + 1) s = releaseInj t k n (agentEmit (polCount (setInj s t k rest) t k) t f) := by
  simp [releaseInj, hq, colour, debit, he]

/-- A class without policer lets its whole queue go. -/
theorem releaseInj_empties {n : Nat} (he : (shaperOf (tile s t).pol k).en = false) (hk : k < (tile s t).inj.length)
    (hn : (injQ s t k).length = n) : injQ (releaseInj t k n s) t k = [] ∧ (releaseInj t k n s).dram = s.dram := by
  induction n generalizing s with
  | zero => exact ⟨List.length_eq_zero_iff.mp hn, rfl⟩
  | succ n ih =>
    obtain ⟨⟨seen, f⟩, rest, hq⟩ := List.exists_cons_of_length_eq_add_one hn
    have hkeep : KeepsQueues (setInj s t k rest) (agentEmit (polCount (setInj s t k rest) t k) t f) :=
      (KeepsQueues.of_records (polCount_records ..)).trans (agentEmit_keeps ..)
    have htile : tile (setInj s t k rest) t = { tile s t with inj := (tile s t).inj.set k rest } := tile_setTile_same ..
    have hrest : (injQ (setInj s t k rest) t k).length = n := by
      rw [injQ_setInj, if_pos hk]
      simpa [hq] using hn
    obtain ⟨h, hd⟩ := ih (s := agentEmit (polCount (setInj s t k rest) t k) t f) (by rw [hkeep.pol, htile]; exact he)
      (by rw [hkeep.inj, htile]; simpa using hk) (by rw [hkeep.injQ]; exact hrest)
    rw [releaseInj_unpoliced n he hq]
    exact ⟨h, hd.trans hkeep.dram⟩

/-- One turn of a queue that holds no memory request leaves every core as it is. -/
theorem releaseInj_one_cores (h : ∀ x ∈ injQ s t k, isMfReq (fType x.2) = false) : (releaseInj t k 1 s).cores = s.cores := by
  unfold releaseInj
  split
  · rfl
  · next seen f rest hq =>
    have hf : isMfReq (fType f) = false := h (seen, f) (by simp [hq])
    simp only
    split
    · split
      · rfl
      · exact (polCount_records ..).cores
    · exact (agentEmit_cores hf).trans (((debit_records ..).trans (polCount_records ..)).cores)

/-- A frame that is no memory request is sent, policed or not, without a change of any core. -/
theorem agentSends_cores {f : Frame} (hh : classHeld s t k = false) (hf : isMfReq (fType f) = false) :
    (agentSends s t k [f]).cores = s.cores := by
  unfold agentSends
  split
  · exact agentEmit_cores hf
  · next hk =>
    simp only [injQ_of_classHeld hh hk, List.nil_append, List.map_cons, List.map_nil, List.length_cons, List.length_nil]
    refine releaseInj_one_cores fun x hx => ?_
    rw [injQ_setInj] at hx
    split at hx
    · rw [List.mem_singleton.mp hx]
      exact hf
    · exact absurd hx List.not_mem_nil

/-- A frame of a class without policer, whose queue is empty, is sent at once. -/
theorem agentSends_unpoliced {f : Frame} (hk : k ≠ 1) (hh : classHeld s t k = false) (he : (shaperOf (tile s t).pol k).en = false)
    (hl : k < (tile s t).inj.length) :
    agentSends s t k [f] = agentEmit (polCount (setInj (setInj s t k [(false, f)]) t k []) t k) t f := by
  have hq : injQ (setInj s t k [(false, f)]) t k = [(false, f)] := by rw [injQ_setInj, if_pos hl]
  have he' : (shaperOf (tile (setInj s t k [(false, f)]) t).pol k).en = false := by
    rw [setInj, modTile, tile_setTile_same]
    exact he
  simp only [agentSends, if_neg hk, injQ_of_classHeld hh hk, List.nil_append, List.map_cons, List.map_nil, List.length_cons,
    List.length_nil, releaseInj_unpoliced 0 he' hq]
  rfl

end Queues

-- A SEND frame --------------------------------------------------------------------------------------------------------

/-- `u` is `s` after reads of core `c`'s local store by its agent: what its check codes found is noted and recorded. -/
structure ReadsPayload (c : Nat) (s u : State) : Prop where
  own : ∃ e, coreOf u c = { coreOf s c with ecc := e }
  other : ∀ b, b ≠ c → coreOf u b = coreOf s b
  tiles : u.tiles = s.tiles

namespace ReadsPayload
variable {c : Nat} {s t u : State}

theorem refl (s : State) : ReadsPayload c s s := ⟨⟨_, rfl⟩, fun _ _ => rfl, rfl⟩
theorem trans (h : ReadsPayload c s t) (h' : ReadsPayload c t u) : ReadsPayload c s u := by
  obtain ⟨⟨e, he⟩, ho, ht⟩ := h
  obtain ⟨⟨e', he'⟩, ho', ht'⟩ := h'
  exact ⟨⟨e', by rw [he', he]⟩, fun b hb => (ho' b hb).trans (ho b hb), ht'.trans ht⟩
theorem of_records (h : RecordsOnly s u) : ReadsPayload c s u := ⟨⟨_, h.core c⟩, fun b _ => h.core b, h.tiles⟩
theorem of_setCore (e : Ecc) : ReadsPayload c s (setCore s c { coreOf s c with ecc := e }) :=
  ⟨⟨e, core_setCore_same ..⟩, fun _ hb => core_setCore_ne _ _ hb, rfl⟩

end ReadsPayload

theorem voidUe_records (s : State) : RecordsOnly s (voidUe s) := .ite (.refl s) ((RecordsOnly.refl s).regSetBits ..)

theorem errCount_records (s : State) (t n : Nat) : RecordsOnly s (errCount s t n) := by
  have hcount : RecordsOnly s (regCount s (dcs t (0x10200 + 8 * n)) 1) := (RecordsOnly.refl s).regPutNat ..
  exact .ite (hcount.trans (voidUe_records _)) hcount

theorem errCounts_records (t : Nat) (ns : List Nat) (s : State) : RecordsOnly s (ns.foldl (fun s n => errCount s t n) s) := by
  induction ns generalizing s with
  | nil => exact .refl s
  | cons n ns ih => exact (errCount_records ..).trans (ih _)

theorem eccFlush_reads (s : State) (c : Nat) : ReadsPayload c s (eccFlush s c) := by
  unfold eccFlush
  simp only
  split
  · exact .refl s
  · exact (ReadsPayload.of_setCore _).trans (.of_records (errCounts_records ..))

theorem eccNote_ecc (k : Core) (ns : List Nat) : ∃ e, eccNote k ns = { k with ecc := e } := by
  unfold eccNote
  split <;> exact ⟨_, rfl⟩

theorem eccRead_ecc (k : Core) (arr : Nat) (is : List Nat) : ∃ e, (eccRead k arr is).1 = { k with ecc := e } := by
  unfold eccRead
  split
  · exact ⟨_, rfl⟩
  · exact eccNote_ecc ..

/-- What an agent's read of a payload may change (17 R444). -/
theorem payloadRead_reads (s : State) (c : Nat) (spans : List (Nat × Nat)) : ReadsPayload c s (payloadRead s c spans).1 := by
  have hvoid : ∀ u : State, RecordsOnly u (if tileOf c < 64 then u else voidUe u) := fun u => .ite (.refl u) (voidUe_records u)
  unfold payloadRead
  split
  · exact .refl s
  · obtain ⟨e, he⟩ := eccRead_ecc (coreOf s c) 0 (spans.flatMap fun x => wordsOf x.1 x.2)
    simp only [he]
    refine ((ReadsPayload.of_setCore e).trans (eccFlush_reads ..)).trans ?_
    split
    · exact .of_records ((hvoid _).trans (recordAs_records ..))
    · exact .refl _

theorem payloadRead_sound {s : State} {c : Nat} (h : (coreOf s c).ecc.marks = []) (spans : List (Nat × Nat)) :
    payloadRead s c spans = (s, false) := by
  simp [payloadRead, h]

/-- The frame that carries what a read gave, marked when it was uncorrectable. -/
def spoilt (bad : Bool) (f : Frame) : Frame := if bad then fSet f 71 71 1 else f

theorem spoil_singleton (bad : Bool) (f : Frame) : spoil bad [f] = [spoilt bad f] := by cases bad <;> rfl

theorem fType_spoilt (bad : Bool) (f : Frame) : fType (spoilt bad f) = fType f := by
  cases bad
  · rfl
  · exact fGet_fSet f 1 (by decide) (.inr (by decide))

theorem isMfReq_sendFrame (s : State) (c : Nat) (d : List Byte) : isMfReq (fType (sendFrame s c d).2) = false := by
  have h : fType (sendFrame s c d).2 = 1 := fType_mkFrame _
  rw [h]
  rfl

/-- The stream counts of a SEND frame are in its tile's table alone (07 R203). -/
theorem sendFrame_tile (s : State) (c : Nat) (d : List Byte) :
    ∃ r, (sendFrame s c d).1 = setTile s (tileOf c) { tile s (tileOf c) with sends := r } := ⟨_, rfl⟩

end Sys2Proof.Machine
end

section
/-! SUPPORT. What a route depends on, and OUTBOX_DRAIN and POLICER_RELEASE whole (04 R117; 07 R193 to R198; 09 R247, R248; 12 R326). -/
namespace Sys2Proof.Machine
open Sys2Proof.Safety Sys2Proof.Claims

-- Routes --------------------------------------------------------------------------------------------------------------

/-- `u` routes as `s`: what may differ in Bridges' and dies' state are the words of policer counts (09 R250). -/
structure RoutesAs (s u : State) : Prop where
  bridges : u.bridges = s.bridges
  errs : u.errs = s.errs
  word : ∀ die o, o < 2 ^ 24 → o < 0xA00 ∨ 0xA08 ≤ o → regWord u (dcs die o) = regWord s (dcs die o)

namespace RoutesAs
variable {s u : State}

theorem trans {v : State} (h : RoutesAs s u) (h' : RoutesAs u v) : RoutesAs s v :=
  ⟨h'.bridges.trans h.bridges, h'.errs.trans h.errs, fun die o ho hp => (h'.word die o ho hp).trans (h.word die o ho hp)⟩

theorem of_regs (hb : u.bridges = s.bridges) (he : u.errs = s.errs) (hr : u.regs = s.regs) : RoutesAs s u :=
  ⟨hb, he, fun _ _ _ _ => by rw [regWord, regWord, hr]⟩

theorem field (h : RoutesAs s u) (die : Nat) {o hi : Nat} (lo : Nat) (ho : o < 2 ^ 24) (hp : o < 0xA00 ∨ 0xA08 ≤ o) (hh : hi < 32) :
    regBits u (dcs die o) hi lo = regBits s (dcs die o) hi lo := by
  refine congrArg (bitsOf · hi lo) (regNat_congr _ _ fun i hi' => ?_)
  obtain rfl : i = 0 := by omega
  rw [Nat.mul_zero, Nat.add_zero]
  exact h.word die o ho hp

theorem selfAt (h : RoutesAs s u) (die : Nat) : selfAt u die = selfAt s die := by
  unfold Machine.selfAt
  split
  · simp only [h.field die (o := 0x830) (hi := 3) 0 (by decide) (by decide) (by decide),
      h.field die (o := 0x830) (hi := 7) 4 (by decide) (by decide) (by decide)]
  · simp only [h.field _ (o := 0x0) (hi := 3) 0 (by decide) (by decide) (by decide),
      h.field _ (o := 0x0) (hi := 7) 4 (by decide) (by decide) (by decide)]

theorem linkUp (h : RoutesAs s u) : linkUp u = linkUp s :=
  funext fun l => by rw [Machine.linkUp, Machine.linkUp, linkState, linkState, h.field _ _ (by decide) (by decide) (by decide)]

theorem freeOf (h : RoutesAs s u) (vl l : Nat) : freeOf u vl l = freeOf s vl l := by
  rw [Machine.freeOf, Machine.freeOf, bridge_congr h.bridges]

theorem bestLink (h : RoutesAs s u) (vl : Nat) (ls : List Nat) : bestLink u vl ls = bestLink s vl ls := by
  induction ls with
  | nil => rfl
  | cons l ls ih => simp only [Machine.bestLink, ih, h.freeOf]

theorem chooseLink (h : RoutesAs s u) (vl thr : Nat) (ms ns : List Nat) : chooseLink u vl thr ms ns = chooseLink s vl thr ms ns := by
  simp only [Machine.chooseLink, h.bestLink, h.freeOf]

theorem nmThr (h : RoutesAs s u) (die : Nat) : nmThr u die = nmThr s die := by
  unfold Machine.nmThr
  split <;> rw [h.word _ _ (by decide) (by decide)]

theorem entryLost (h : RoutesAs s u) : entryLost u = entryLost s := by
  unfold Machine.entryLost unitMarks
  rw [h.errs]

theorem rte (h : RoutesAs s u) (die : Nat) {i : Nat} (hi : i < 2 ^ 20) : rte u die i = rte s die i := by
  simp only [Machine.rte, h.word die (0x2000 + 4 * i) (by omega) (by omega), h.entryLost]

theorem firstHop (h : RoutesAs s u) (die vl : Nat) (nm : Bool) (a : Nat × Nat) {d : Nat × Nat} (hd : 10 * d.1 + d.2 < 2 ^ 20) :
    firstHop u die vl nm a d = firstHop s die vl nm a d := by
  simp only [Machine.firstHop, h.rte die hd, h.nmThr, h.chooseLink, h.linkUp]

theorem reqHop (h : RoutesAs s u) (die vl n : Nat) (a src : Nat × Nat) {d : Nat × Nat} (hd : 10 * d.1 + d.2 < 2 ^ 20) :
    reqHop u die vl n a d src = reqHop s die vl n a d src := by
  simp only [Machine.reqHop, h.firstHop _ _ _ _ hd, onwardHop, h.bestLink, h.linkUp]

/-- The route of a request of one copy. -/
theorem routeFrame (h : RoutesAs s u) (die : Nat) {f : Frame} (hm : fMcast f = false) (hc : fCls f = 0) :
    routeFrame u die .localPort f = routeFrame s die .localPort f := by
  have hd : 10 * epY (fDest f) + epX (fDest f) < 2 ^ 20 := by
    have hy : epY (fDest f) < 16 := Nat.mod_lt _ (by decide)
    have hx : epX (fDest f) < 16 := Nat.mod_lt _ (by decide)
    omega
  simp only [Machine.routeFrame, hm, hc, h.selfAt, h.field SP 0 (show 0x200008 < 2 ^ 24 by decide) (by decide) (show 2 < 32 by decide),
    h.reqHop die _ _ _ _ (d := (epY (fDest f), epX (fDest f))) hd, Bool.false_eq_true, and_false, if_false]

end RoutesAs

/-- A policer count changes no route. -/
theorem polCount_routes (s : State) (t : Nat) : RoutesAs s (polCount s t 0) where
  bridges := (polCount_records ..).bridges
  errs := by rw [polCount_records s t 0]
  word die o ho hp := regWord_regPutNat_out _ _ _ _ _ (by simp only [dcs]; omega)

/-- A frame as made has LAST as its highest bit below MCAST. -/
theorem hdrLow_lt_mcast (p : FrameSpec) : hdrLow p < 2 ^ 69 := by
  have hdest := p.dest.isLt
  have hsrc := p.src.isLt
  have hlast : (if p.last then 1 else 0) ≤ 1 := by split <;> simp
  have hcls := Nat.mod_lt p.cls (show 0 < 4 by decide)
  have hhop := Nat.mod_lt p.hop (show 0 < 4 by decide)
  rw [hdrLow]
  generalize (if p.last then 1 else 0) = l at hlast ⊢
  omega

theorem fMcast_mkFrame (p : FrameSpec) : fMcast (mkFrame p) = false := by
  have hb : ∀ y, bitsOf (hdrLow p + 2 ^ 72 * y) 69 69 = 0 := fun y => by
    have he : hdrLow p + 2 ^ 72 * y = hdrLow p + 2 ^ 69 * (0 + 2 ^ 1 * (4 * y)) := by ring
    rw [he]
    exact bitsOf_between 69 (hdrLow_lt_mcast p) (by decide) rfl
  rw [fMcast, fGet_mkFrame p (by omega), hdrOf_eq, hb]
  rfl

theorem fCls_mkFrame (p : FrameSpec) : fCls (mkFrame p) = p.cls % 4 := by
  have hids : p.dest.toNat + p.src.toNat * 2 ^ 32 < 2 ^ 64 := by
    have hdest := p.dest.isLt
    have hsrc := p.src.isLt
    omega
  have hb : ∀ y, bitsOf (hdrLow p + 2 ^ 72 * y) 65 64 = p.cls % 4 := fun y => by
    have he : hdrLow p + 2 ^ 72 * y = p.dest.toNat + p.src.toNat * 2 ^ 32 +
        2 ^ 64 * (p.cls % 4 + 2 ^ 2 * (p.hop % 4 + (if p.last then 1 else 0) * 4 + 64 * y)) := by
      rw [hdrLow]
      ring
    rw [he]
    exact bitsOf_between 65 hids (Nat.mod_lt _ (by decide)) rfl
  rw [fCls, fGet_mkFrame p (by omega), hdrOf_eq, hb]

-- OUTBOX_DRAIN --------------------------------------------------------------------------------------------------------

section Drain
variable {s : State} {c : Nat}

theorem outboxDrain_empty (hc : c < coreCount) (hk : clocksRun s = true) (h : (coreOf s c).outbox = []) :
    exec (.outboxDrain c) s = .next s := by
  show execOutboxDrain c s = _
  simp only [execOutboxDrain, coreCmd_works hc hk, h]

theorem outboxDrain_desc {i : Nat} {d : List Byte} {r : List ObEntry} (hc : c < coreCount) (hk : clocksRun s = true)
    (h : (coreOf s c).outbox = ⟨i, .desc d⟩ :: r) : exec (.outboxDrain c) s = .next (drainDesc s c i d) := by
  show execOutboxDrain c s = _
  simp only [execOutboxDrain, coreCmd_works hc hk, h]

/-- A SEND descriptor whose class holds no frame leaves the outbox (04 R117, R118). -/
theorem drainDesc_send {i : Nat} {d : List Byte} (hop : fieldLE d 0 1 = 1)
    (hh : classHeld s (tileOf c) (fieldLE d 2 1 % 4) = false) :
    (∃ e, coreOf (drainDesc s c i d) c = { coreOf s c with outbox := (coreOf s c).outbox.drop 1, ecc := e }) ∧
      ∀ b, b ≠ c → coreOf (drainDesc s c i d) b = coreOf s b := by
  obtain ⟨rows, hrows⟩ := sendFrame_tile s c d
  set v := payloadRead (sendFrame s c d).1 c [(fieldLE d 16 2, fieldLE d 18 2)] with hv
  have hdrain : drainDesc s c i d = agentSends (popOutbox v.1 c) (tileOf c) (fieldLE d 2 1 % 4) [spoilt v.2 (sendFrame s c d).2] := by
    rw [← spoil_singleton]
    simp only [drainDesc, hop, hh, if_true, Bool.false_eq_true, if_false, hv]
  obtain ⟨⟨e, hown⟩, hother, htiles⟩ := payloadRead_reads (sendFrame s c d).1 c [(fieldLE d 16 2, fieldLE d 18 2)]
  have htile : tile (popOutbox v.1 c) (tileOf c) = { tile s (tileOf c) with sends := rows } :=
    (tile_congr (s := (sendFrame s c d).1) htiles _).trans (by rw [hrows, tile_setTile_same])
  have hheld : classHeld (popOutbox v.1 c) (tileOf c) (fieldLE d 2 1 % 4) = false := by
    rw [← hh, classHeld, classHeld, injQ, injQ, htile]
  have hcores := agentSends_cores hheld (f := spoilt v.2 (sendFrame s c d).2) (by rw [fType_spoilt, isMfReq_sendFrame])
  rw [hdrain]
  refine ⟨⟨e, ?_⟩, fun b hb => ?_⟩
  · rw [coreOf_congr hcores, popOutbox, core_modCore_same, hown, hrows]
    rfl
  · rw [coreOf_congr hcores, popOutbox, core_modCore_ne _ _ hb, hother b hb, hrows]
    rfl

/-- The state in which a request's entry is in the requester table and its descriptor has left the outbox (12 R326). -/
def requestTaken (s : State) (c : Nat) (e : ReqEntry) : State :=
  modCore (popOutbox (modTile s (tileOf c) (fun x => { x with req := x.req ++ [e] })) c) c (fun k => { k with mfSeq := k.mfSeq + 1 })

theorem setInj_routes (s : State) (t k : Nat) (q : List (Bool × Frame)) : RoutesAs s (setInj s t k q) := .of_regs rfl rfl rfl

theorem requestTaken_routes (s : State) (c : Nat) (e : ReqEntry) : RoutesAs s (requestTaken s c e) := .of_regs rfl rfl rfl

theorem tile_requestTaken (s : State) (c : Nat) (e : ReqEntry) :
    tile (requestTaken s c e) (tileOf c) = { tile s (tileOf c) with req := (tile s (tileOf c)).req ++ [e] } := tile_setTile_same ..

theorem core_requestTaken (s : State) (c : Nat) (e : ReqEntry) :
    coreOf (requestTaken s c e) c = { coreOf s c with outbox := (coreOf s c).outbox.drop 1, mfSeq := (coreOf s c).mfSeq + 1 } := by
  rw [requestTaken, core_modCore_same, popOutbox, core_modCore_same]
  rfl

/-- A memory descriptor that its class and the requester table admit is taken and its frame sent (12 R326). -/
theorem drainDesc_takes {i : Nat} {d : List Byte} (hop : fieldLE d 0 1 ≠ 1) (hh : classHeld s (tileOf c) 0 = false)
    (hr : reqRoom (tile s (tileOf c)) (lcOf c) = true) (hm : (coreOf s c).ecc.marks = []) :
    drainDesc s c i d = agentSends (requestTaken s c (mfFrame s c i d).1) (tileOf c) 0 [(mfFrame s c i d).2] := by
  have hread : ∀ n, payloadRead (requestTaken s c (mfFrame s c i d).1) c [(fieldLE d 16 2, n)] =
      (requestTaken s c (mfFrame s c i d).1, false) := fun n =>
    payloadRead_sound (by rw [core_requestTaken]; exact hm) _
  rw [requestTaken] at hread
  simp only [drainDesc, if_neg hop, hh, hr, Bool.not_true, Bool.or_false, Bool.false_eq_true, if_false, hread]
  rfl

/-- The state in which a frame of class 0 without policer leaves its tile: it has passed its queue and is counted (09 R247, R250). -/
def passedQueue (s : State) (t : Nat) (f : Frame) : State := polCount (setInj (setInj s t 0 [(false, f)]) t 0 []) t 0

theorem passedQueue_routes (s : State) (t : Nat) (f : Frame) : RoutesAs s (passedQueue s t f) :=
  ((setInj_routes ..).trans (setInj_routes ..)).trans (polCount_routes ..)

theorem core_passedQueue (s : State) (t : Nat) (f : Frame) (c : Nat) : coreOf (passedQueue s t f) c = coreOf s c :=
  ((polCount_records ..).core c).trans rfl

theorem req_passedQueue (s : State) (t : Nat) (f : Frame) : (tile (passedQueue s t f) t).req = (tile s t).req := by
  rw [passedQueue, (polCount_records ..).tile, setInj, modTile, tile_setTile_same, setInj, modTile, tile_setTile_same]

/-- A request of a class without policer leaves the outbox by its route, with its entry and number (12 R326). -/
theorem drainDesc_request {i : Nat} {d : List Byte} {cs : List Copy} (hop : fieldLE d 0 1 ≠ 1)
    (hh : classHeld s (tileOf c) 0 = false) (hr : reqRoom (tile s (tileOf c)) (lcOf c) = true)
    (he : (shaperOf (tile s (tileOf c)).pol 0).en = false) (hi : (tile s (tileOf c)).inj ≠ []) (hm : (coreOf s c).ecc.marks = [])
    (hroute : routeFrame s (tileOf c) .localPort (mfFrame s c i d).2 = .copies cs) :
    ∃ u via, drainDesc s c i d = arriveVia u (tileExit (mfFrame s c i d).2 cs).1 .localPort via (mfFrame s c i d).2 ∧
      u.bridges = s.bridges ∧
      coreOf u c = { coreOf s c with outbox := (coreOf s c).outbox.drop 1, mfSeq := (coreOf s c).mfSeq + 1 } ∧
      (tile u (tileOf c)).req = (tile s (tileOf c)).req ++ [(mfFrame s c i d).1] := by
  have hmcast : fMcast (mfFrame s c i d).2 = false := fMcast_mkFrame _
  have hcls : fCls (mfFrame s c i d).2 = 0 := fCls_mkFrame _
  have htaken := drainDesc_takes (i := i) hop hh hr hm
  have htile := tile_requestTaken s c (mfFrame s c i d).1
  have hcore := core_requestTaken s c (mfFrame s c i d).1
  have hroutes := requestTaken_routes s c (mfFrame s c i d).1
  generalize (mfFrame s c i d).1 = e at htaken htile hcore hroutes ⊢
  generalize (mfFrame s c i d).2 = f at htaken hmcast hcls hroute ⊢
  generalize requestTaken s c e = v at htaken htile hcore hroutes
  have hheld : classHeld v (tileOf c) 0 = false := by rw [← hh, classHeld, classHeld, injQ, injQ, htile]
  have hpassed : agentSends v (tileOf c) 0 [f] = agentEmit (passedQueue v (tileOf c) f) (tileOf c) f :=
    agentSends_unpoliced (by decide) hheld (by rw [htile]; exact he) (by rw [htile]; exact List.length_pos_iff.mpr hi)
  have hroutes' := hroutes.trans (passedQueue_routes v (tileOf c) f)
  refine ⟨passedQueue v (tileOf c) f, (tileExit f cs).2, ?_, hroutes'.bridges, (core_passedQueue ..).trans hcore, ?_⟩
  · rw [htaken, hpassed, agentEmit, hroutes'.routeFrame _ hmcast hcls, hroute]
  · rw [req_passedQueue, htile]

end Drain

-- POLICER_RELEASE -----------------------------------------------------------------------------------------------------

theorem dieLive_of_clocks {s : State} {t : Nat} (ht : t < 64) (hk : clocksRun s = true) :
    soundpostRuns s = true ∧ dieLive s t = true := by
  simp only [clocksRun, Bool.and_eq_true] at hk
  exact ⟨hk.1, by simpa [dieLive, ht] using hk.2⟩

/-- POLICER_RELEASE of a tile refills its class and lets go what is not red (09 R243, R247). -/
theorem policerRelease_tile {s : State} {t k : Nat} (ht : t < 64) (hc : clocksRun s = true) (hk : k < 4) :
    exec (.policerRelease t k) s =
      let u := refillTokens s t 0x900 k (shaperOf (tile s t).pol k)
      .next (releaseInj t k (injQ u t k).length u) := by
  obtain ⟨hs, hl⟩ := dieLive_of_clocks ht hc
  show execPolicerRelease t k s = _
  simp [execPolicerRelease, hasPolicer, policersOf, ht, hs, hl, Nat.not_le.mpr hk]

theorem refillTokens_records (s : State) (d base c : Nat) (sh : Shaper) : RecordsOnly s (refillTokens s d base c sh) :=
  .ite (.refl s) ((RecordsOnly.refl s).regPutNat ..)

/-- Settles O26: tags, tokens and colours; OUTBOX_DRAIN by the kind of entry; POLICER_RELEASE. -/
theorem tokensOutboxAndPolicersComplete : Obligations.TokensOutboxAndPolicersComplete := by
  refine ⟨fun a n => tagBefore_add a, fun s d base c sh he hcb hpb => ?_, fun s d base c b sh he => ?_, fun s c hc hk => ?_⟩
  · intro a t
    have ht : t = regPutNat s a (min (max 4160 sh.cbs * 256) (regBits s a 31 0 + max 1 sh.cir) +
        min (max 4160 sh.pbs * 256) (regBits s a 63 32 + max 1 sh.pir) * 2 ^ 32) 2 := by
      simp only [t, refillTokens, he, Bool.not_true, Bool.false_eq_true, if_false, a]
    rw [ht]
    obtain ⟨hlow, hhigh⟩ := regBits_regPutNat_halves s a (tokens_fit (x := regBits s a 31 0 + max 1 sh.cir) hcb)
      (tokens_fit (x := regBits s a 63 32 + max 1 sh.pir) hpb)
    exact ⟨hlow, hhigh, regPutNat_frame ..⟩
  · intro p q
    have hcol : colour s d base c sh b = if p < 256 * b then 2 else if q < 256 * b then 1 else 0 := by simp [colour, he, p, q]
    rw [hcol]
    split
    · simp; omega
    · split <;> simp <;> omega
  · have ht : tileOf c < 64 := Nat.div_lt_of_lt_mul hc
    refine ⟨outboxDrain_empty hc hk, fun i d r hq hop => ⟨fun hh => ?_, fun hh => ?_⟩, fun i d r cs hq hop hh hr he hi hm => ?_,
      fun i d r hq hop hr => ?_, fun k hk4 he hl => ?_, fun k hk4 hq => ?_⟩
    · rw [outboxDrain_desc hc hk hq]
      simp [drainDesc, hop, hh]
    · obtain ⟨⟨e, hown⟩, hother⟩ := drainDesc_send (i := i) hop hh
      refine ⟨_, outboxDrain_desc hc hk hq, ?_, ?_, ?_, hother⟩
      · rw [hown, hq]
        rfl
      · rw [hown]
      · rw [hown]
    · intro x hroute
      obtain ⟨u, via, hdrain, hbr, hcore, hreq⟩ := drainDesc_request hop hh hr he hi hm hroute
      obtain ⟨hcores, htiles, -⟩ := arriveVia_local u (tileExit x.2 cs).1 via x.2
      refine ⟨_, rxOf u (tileExit x.2 cs).1 via none x.2, (outboxDrain_desc hc hk hq).trans (congrArg _ hdrain), ?_, ?_, rfl, rfl, ?_⟩
      · rw [coreOf_congr hcores, hcore, hq]
        rfl
      · rw [tile_congr htiles, hreq]
      · rw [← bridge_congr hbr]
        exact recv_arriveWith ..
    · rw [outboxDrain_desc hc hk hq]
      simp [drainDesc, hop, hr]
    · have hsame : refillTokens s (tileOf c) 0x900 k (shaperOf (tile s (tileOf c)).pol k) = s := by simp [refillTokens, he]
      obtain ⟨hempty, hdram⟩ := releaseInj_empties he hl rfl
      refine ⟨_, policerRelease_tile ht hk hk4, ?_, ?_⟩
      · rw [hsame]
        exact hempty
      · rw [hsame]
        exact hdram
    · have hq' := (KeepsQueues.of_records (refillTokens_records s (tileOf c) 0x900 k (shaperOf (tile s (tileOf c)).pol k))).injQ
        (tileOf c) k
      rw [policerRelease_tile ht hk hk4]
      simp only [hq', hq]
      rfl

end Sys2Proof.Machine
end

section
/-! SUPPORT. What an issue cycle and the gates before it leave of the plane's course: the count, the hold in force and the step end (04
R97, R123, R125). -/
namespace Sys2Proof.Machine
open Sys2Proof.Safety Sys2Proof.Claims

/-- A relation kept by every step of a fold is kept by the fold. -/
theorem foldl_keeps {α : Type} {R : State → State → Prop} (hr : ∀ s, R s s) (ht : ∀ s t u, R s t → R t u → R s u)
    {f : State → α → State} (h : ∀ a x, R a (f a x)) (l : List α) (s : State) : R s (l.foldl f s) := by
  induction l generalizing s with
  | nil => exact hr s
  | cons x l ih => exact ht _ _ _ (h s x) (ih _)

/-- `t` stands at the count of `s`, and its plane has the hold and the step end of `s`. -/
structure KeepsCourse (s t : State) : Prop where
  count : t.count = s.count
  held : t.plane.held = s.plane.held
  stepEnd : t.plane.stepEnd = s.plane.stepEnd

namespace KeepsCourse
variable {s t u : State}

theorem refl (s : State) : KeepsCourse s s := ⟨rfl, rfl, rfl⟩
theorem trans (h : KeepsCourse s t) (h' : KeepsCourse t u) : KeepsCourse s u :=
  ⟨h'.count.trans h.count, h'.held.trans h.held, h'.stepEnd.trans h.stepEnd⟩
theorem of_plane (hc : t.count = s.count) (hp : t.plane = s.plane) : KeepsCourse s t := ⟨hc, by rw [hp], by rw [hp]⟩
theorem of_records (h : RecordsOnly s t) : KeepsCourse s t := of_plane (by rw [h]) (by rw [h])
theorem ite {c : Prop} [Decidable c] (h : KeepsCourse s t) (h' : KeepsCourse s u) : KeepsCourse s (if c then t else u) := by
  split <;> assumption
theorem foldl {α : Type} {f : State → α → State} (h : ∀ a x, KeepsCourse a (f a x)) (l : List α) (s : State) :
    KeepsCourse s (l.foldl f s) :=
  foldl_keeps refl (fun _ _ _ => trans) h l s
theorem setCore (s : State) (c : Nat) (k : Core) : KeepsCourse s (setCore s c k) := of_plane rfl rfl
theorem modCore (s : State) (c : Nat) (f : Core → Core) : KeepsCourse s (modCore s c f) := of_plane rfl rfl
theorem setMesh (s : State) (ws : List MeshWord) : KeepsCourse s { s with plane := { s.plane with mesh := ws } } := ⟨rfl, rfl, rfl⟩
theorem regSetBits (s : State) (a hi lo x : Nat) : KeepsCourse s (regSetBits s a hi lo x) := .of_records (.regSetBits (.refl s) ..)
theorem regPutNat (s : State) (a v n : Nat) : KeepsCourse s (regPutNat s a v n) := .of_records (.regPutNat (.refl s) ..)

end KeepsCourse

-- Reports -------------------------------------------------------------------------------------------------------------

theorem raiseIrq_course (s : State) (b : Nat) : KeepsCourse s (raiseIrq s b) := by
  unfold raiseIrq
  refine .ite (.refl s) (.trans (.regSetBits ..) (.ite (.refl _) ?_))
  exact .of_plane rfl rfl

theorem runEnd_course (s : State) (result fcode : Nat) : KeepsCourse s (runEnd s result fcode) :=
  .trans (.regPutNat ..) (raiseIrq_course ..)

theorem collectTile_course (s : State) (t : Nat) : KeepsCourse s (collectTile s t) := by
  unfold collectTile
  split
  · exact .refl s
  · split
    · exact .ite (.regPutNat ..) (.refl s)
    · exact .refl s
    · exact .trans (.of_records (logFault_records ..)) ⟨rfl, rfl, rfl⟩

theorem collectCoreFaults_course (s : State) : KeepsCourse s (collectCoreFaults s) := .foldl collectTile_course _ s

theorem haltPlane_course (s : State) (n c code : Nat) : KeepsCourse s (haltPlane s n c code) := by
  unfold haltPlane
  split
  · exact .trans (t := { s with plane := { s.plane with halted := some n, haltBy := c, run := .idle } }) ⟨rfl, rfl, rfl⟩
      (.trans (runEnd_course ..) (raiseIrq_course ..))
  · exact .ite (.trans (t := { s with plane := { s.plane with haltBy := c } }) ⟨rfl, rfl, rfl⟩ (.regSetBits ..)) (.refl s)

theorem coreFault_course (s : State) (c code pc n : Nat) : KeepsCourse s (coreFault s c code pc n) :=
  (KeepsCourse.modCore ..).trans ((haltPlane_course ..).trans (collectCoreFaults_course _))

-- One core in one cycle -------------------------------------------------------------------------------------------------

theorem eccFlush_course (s : State) (c : Nat) : KeepsCourse s (eccFlush s c) := by
  unfold eccFlush
  exact .ite (.refl s) (.trans (.setCore ..) (.of_records (errCounts_records ..)))

theorem eccHalts_course (n : Nat) (s : State) (c : Nat) : KeepsCourse s (eccHalts n s c) := by
  unfold eccHalts
  exact .ite (.refl s) (.trans (.modCore ..) (.foldl (fun _ _ => coreFault_course ..) _ _))

theorem dramCheck_course (s : State) (a n : Nat) : KeepsCourse s (dramCheck s a n).1 := by
  unfold dramCheck
  split
  · exact .refl s
  · exact .foldl (fun _ _ => .of_records (errCount_records ..)) _ s

theorem coreSlots_course (n : Nat) (s : State) (c : Nat) : KeepsCourse s (coreSlots n s c) := by
  unfold coreSlots
  refine .ite (.refl s) (.trans (.setCore ..) (.foldl (fun a o => ?_) _ _))
  split
  · exact (dramCheck_course ..).trans (.modCore ..)
  · exact .of_plane rfl rfl

theorem coreCycle_course (n : Nat) (s : State) (c : Nat) : KeepsCourse s (coreCycle n s c) := by
  have hcore : ∀ k, KeepsCourse s (eccHalts n (eccFlush (setCore s c k) c) c) := fun k =>
    (KeepsCourse.setCore ..).trans ((eccFlush_course ..).trans (eccHalts_course ..))
  unfold coreCycle
  simp only
  split
  · exact (hcore _).trans (coreFault_course ..)
  · exact hcore _

-- The mesh and the cycle ------------------------------------------------------------------------------------------------

theorem crossLate_course (s : State) (t : Nat) : KeepsCourse s (crossLate s t) := by
  unfold crossLate
  refine .ite (.refl s) (.foldl (fun a w => ?_) _ _)
  split
  · next c _ =>
    exact (((KeepsCourse.setCore a c _).trans (.regSetBits ..)).trans (.setMesh ..)).trans (coreFault_course ..)
  · exact .refl a

theorem meshCycle_course (s : State) (t : Nat) : KeepsCourse s (meshCycle s t) := by
  unfold meshCycle
  refine (crossLate_course s t).trans (.trans (.foldl (fun a c => ?_) _ _) (.trans (.foldl (fun a w => ?_) _ _) (.setMesh ..)))
  · split
    · exact coreFault_course ..
    · exact .refl a
  · split
    · exact .modCore ..
    · exact .refl a

theorem enterCycle_course (s : State) (n : Nat) : KeepsCourse s (enterCycle s n) :=
  .trans (t := { s with plane := { s.plane with issued := [] } }) ⟨rfl, rfl, rfl⟩
    (.trans (.foldl (fun _ _ => (coreCycle_course ..).trans (coreSlots_course ..)) _ _) (meshCycle_course ..))

theorem passGates_course (n : Nat) (s : State) (c : Nat) : KeepsCourse s (passGates n s c) := by
  unfold passGates
  refine .ite (.refl s) (.trans (.setCore ..) (.foldl (fun a g => ?_) _ _))
  simp only
  split
  · exact (KeepsCourse.setCore ..).trans (haltPlane_course ..)
  · exact .setCore ..

end Sys2Proof.Machine
end

section
/-! SUPPORT. What a step end leaves of the tuning count (05 R152, R153; 13 R351), and the first cycle of a run in which nothing is on its
way (04 R132). -/
namespace Sys2Proof.Machine
open Sys2Proof.Safety Sys2Proof.Claims

-- The count -----------------------------------------------------------------------------------------------------------

theorem count_foldl {α : Type} {f : State → α → State} (h : ∀ a x, (f a x).count = a.count) (l : List α) (s : State) :
    (l.foldl f s).count = s.count :=
  foldl_keeps (R := fun s t => t.count = s.count) (fun _ => rfl) (fun _ _ _ h h' => h'.trans h) h l s

@[simp] theorem count_recordTile (s : State) (t code : Nat) : (recordTile s t code).count = s.count :=
  (KeepsCourse.of_records (recordTile_records ..)).count

@[simp] theorem count_recordBrg (s : State) (d code : Nat) : (recordBrg s d code).count = s.count :=
  (KeepsCourse.of_records (recordAs_records ..)).count

@[simp] theorem count_closeStreams (s : State) : (closeStreams s).count = s.count := by
  unfold closeStreams
  rw [count_foldl fun a e => ?_, count_foldl fun a e => ?_]
  · rw [count_foldl fun _ _ => count_recordTile .., setTile_count]
  · rw [count_foldl fun _ _ => count_recordBrg .., modEng, modBridge_count]

theorem count_modEng (s : State) (d : Nat) (f : Engine → Engine) : (modEng s d f).count = s.count := rfl
theorem count_spillInForce (s : State) (d : Nat) : (spillInForce s d).count = s.count := rfl

@[simp] theorem count_stepEndFabric (s : State) : (stepEndFabric s).count = s.count := by
  unfold stepEndFabric
  simp only
  rw [count_foldl fun _ _ => count_spillInForce .., count_foldl fun _ _ => count_modEng .., count_foldl fun _ _ => setTile_count ..]

@[simp] theorem count_mapCores (s : State) (f : Nat → Core → Core) : (mapCores s f).count = s.count := by rw [mapCores_frame]

@[simp] theorem count_drainCore (s : State) (c : Nat) : (drainCore s c).count = s.count := by
  unfold drainCore
  exact count_foldl (fun a i => (coreSlots_course ..).count.trans (setCore_count a c _)) _ s

@[simp] theorem count_drainMesh (s : State) : (drainMesh s).count = s.count := by
  refine (count_foldl (fun a i => count_foldl (fun b w => ?_) _ a) _ s :)
  split <;> rfl

@[simp] theorem count_drainPlane (s : State) : (drainPlane s).count = s.count := by
  rw [drainPlane, count_drainMesh, count_foldl count_drainCore]

@[simp] theorem count_raiseIrq (s : State) (b : Nat) : (raiseIrq s b).count = s.count := (raiseIrq_course s b).count
@[simp] theorem count_runEnd (s : State) (r code : Nat) : (runEnd s r code).count = s.count := (runEnd_course s r code).count
@[simp] theorem count_collectCoreFaults (s : State) : (collectCoreFaults s).count = s.count := (collectCoreFaults_course s).count
@[simp] theorem count_haltPlane (s : State) (n c code : Nat) : (haltPlane s n c code).count = s.count :=
  (haltPlane_course s n c code).count

@[simp] theorem count_failStep (s : State) (n : Nat) : (failStep s n).count = s.count := by simp [failStep]

theorem count_stepIndices (s : State) :
    ((List.range 64).foldl (fun s t => regPut s (dcs t 0x80C) (tileReg s t 0x80C + 1)) s).count = s.count :=
  count_foldl (fun _ _ => regPut_count ..) _ s

/-- What a step end clears, in cores, registers and fabric, takes no time (05 R152). -/
theorem count_stepCleared {s u : State} (h : u.count = s.count) :
    (stepEndFabric (clearTokens ((List.range 64).foldl (fun s t => regPut s (dcs t 0x80C) (tileReg s t 0x80C + 1))
      (clearRegs (mapCores u (fun _ => endCore)) (fun _ => true) (fun x => x = .s))))).count = s.count := by
  rw [count_stepEndFabric, clearTokens, regPutNat_count, count_stepIndices, clearRegs_count, count_mapCores, h]

theorem count_ite {c : Prop} [Decidable c] {a b : State} {n : Nat} (ha : a.count = n) (hb : b.count = n) :
    (if c then a else b).count = n := by
  split <;> assumption

@[simp] theorem count_finishStep (s : State) : (finishStep s).count = s.count := by
  have hfaults : ∀ (c : Bool), (if c then regSetBits (collectCoreFaults s) (dcs SP 0x440) 3 3 1 else collectCoreFaults s).count =
      s.count := fun c => count_ite (by simp) (by simp)
  unfold finishStep
  refine count_ite ((count_runEnd ..).trans ?_) (count_ite ((count_raiseIrq ..).trans ?_) ?_)
  · rw [count_drainPlane]
    dsimp only
    exact count_stepCleared (hfaults _)
  · dsimp only
    exact count_stepCleared (hfaults _)
  · dsimp only
    exact count_stepCleared (hfaults _)

@[simp] theorem count_settleStep (s : State) (n : Nat) : (settleStep s n).count = s.count := by
  unfold settleStep
  split
  · rfl
  · split
    · rfl
    · simp only
      split <;> simp

/-- Gates, the step end and the cycle that follows take no time (04 R123). -/
theorem count_resumeCycle (s : State) (n : Nat) : (resumeCycle s n).count = s.count := by
  have hgates : ((listedCores s).foldl (passGates n) s).count = s.count := count_foldl (fun _ _ => (passGates_course ..).count) _ s
  unfold resumeCycle
  simp only
  split
  · rw [count_settleStep, hgates]
  · rw [(enterCycle_course ..).count, count_settleStep, hgates]

end Sys2Proof.Machine
end

section
/-! SUPPORT. The events of the plane's course: what a run's first cycle, a hold and its samples keep (04 R125, R132; 13 R349; 16
R420). -/
namespace Sys2Proof.Machine
open Sys2Proof.Safety Sys2Proof.Claims

-- What every listed core satisfies --------------------------------------------------------------------------------------

/-- Every core the state lists satisfies `P`. -/
def OfCores (P : Core → Prop) (s : State) : Prop := ∀ e ∈ s.cores, P e.2

theorem mem_of_smGet_ne {α : Type} (d : α) (m : SMap α) {k : Nat} (h : smGet d m k ≠ d) : (k, smGet d m k) ∈ m := by
  induction m with
  | nil => exact absurd rfl h
  | cons e m ih =>
    obtain ⟨a, v⟩ := e
    unfold smGet at h ⊢
    split
    · next hk => simp [hk]
    · next hk =>
      rw [if_neg hk] at h
      exact List.mem_cons_of_mem _ (ih h)

namespace OfCores
variable {P : Core → Prop} {s : State}

theorem core (h : OfCores P s) (hr : P Core.reset) (c : Nat) : P (coreOf s c) := by
  by_cases hc : coreOf s c = Core.reset
  · rwa [hc]
  · exact h _ (mem_of_smGet_ne Core.reset s.cores hc)

theorem setCore (h : OfCores P s) {k : Core} (hk : P k) (c : Nat) : OfCores P (setCore s c k) := by
  intro e he
  have he : e ∈ smSet Core.reset s.cores c k := he
  unfold smSet at he
  split at he
  · exact h e (mem_smErase _ _ _ he).1
  · rcases (mem_smInsert _ _ _ _).mp he with rfl | he
    · exact hk
    · exact h e (mem_smErase _ _ _ he).1

theorem modCore (h : OfCores P s) (hr : P Core.reset) {f : Core → Core} (hf : ∀ k, P k → P (f k)) (c : Nat) :
    OfCores P (modCore s c f) :=
  h.setCore (hf _ (h.core hr c)) c

theorem foldl_modCore (hr : P Core.reset) {f : State → Nat → Core → Core} (hf : ∀ a c k, P k → P (f a c k)) (cs : List Nat)
    (h : OfCores P s) : OfCores P (cs.foldl (fun s c => Machine.modCore s c (f s c)) s) := by
  induction cs generalizing s with
  | nil => exact h
  | cons c cs ih => exact ih (h.modCore hr (hf s c) c)

end OfCores

-- The first cycle of a run ----------------------------------------------------------------------------------------------

/-- A core with nothing on its way but results: no product, no core slot, no matrix event, no error. -/
structure QuietCore (k : Core) : Prop where
  seq : k.seq = none
  slots : k.slots = []
  mx : k.mx = []
  ecc : k.ecc = Ecc.none

theorem quiet_reset : QuietCore Core.reset := ⟨rfl, rfl, rfl, rfl⟩

namespace QuietCore
variable {k : Core}

theorem results (h : QuietCore k) (ws : List Wb) : QuietCore (ws.foldl (fun a w => applyDst a w.dst w.val) k) := by
  induction ws generalizing k with
  | nil => exact h
  | cons w ws ih =>
    have hframe := applyDst_frame k w.dst w.val
    exact ih ⟨(congrArg Core.seq hframe).trans h.seq, (congrArg Core.slots hframe).trans h.slots, (congrArg Core.mx hframe).trans h.mx,
      (congrArg Core.ecc hframe).trans h.ecc⟩

theorem commitWb (h : QuietCore k) (n : Nat) : QuietCore (commitWb k n) :=
  results (k := { k with wb := k.wb.filter (fun w => !(w.due ≤ n)) }) ⟨h.seq, h.slots, h.mx, h.ecc⟩ _
theorem commitSpill (h : QuietCore k) (n : Nat) : QuietCore (commitSpill k n) :=
  results (k := { k with spill := k.spill.filter (fun w => !(w.due ≤ n)) }) ⟨h.seq, h.slots, h.mx, h.ecc⟩ _
theorem commitMx (h : QuietCore k) (key : SrKey) (n : Nat) : QuietCore (commitMx key n k) := by
  simp only [Machine.commitMx, h.mx, List.filter_nil, mxRun, Bool.false_eq_true, if_false]
  exact ⟨h.seq, h.slots, rfl, h.ecc⟩

theorem seqCycle (h : QuietCore k) (n : Nat) : seqCycle n k = (k, none) := by simp [Machine.seqCycle, h.seq]

end QuietCore

theorem coreSlots_quiet {s : State} {c : Nat} (n : Nat) (h : QuietCore (coreOf s c)) : coreSlots n s c = s := by
  simp [coreSlots, h.slots]

/-- A quiet core's cycle changes that core alone, and leaves it quiet. -/
theorem coreCycle_quiet {s : State} {c : Nat} (n : Nat) (h : QuietCore (coreOf s c)) :
    ∃ k, QuietCore k ∧ coreCycle n s c = setCore s c k := by
  have hmx : QuietCore (commitMx (srKey s c) n (commitWb (commitSpill (coreOf s c) n) n)) := ((h.commitSpill n).commitWb n).commitMx _ n
  have hk : ∀ u b, QuietCore { commitMx (srKey s c) n (commitWb (commitSpill (coreOf s c) n) n) with undo := u, busy := b } :=
    fun u b => ⟨hmx.seq, hmx.slots, hmx.mx, hmx.ecc⟩
  have hflush : ∀ k, QuietCore k → eccHalts n (eccFlush (setCore s c k) c) c = setCore s c k := fun k hk => by
    simp [eccFlush, eccHalts, hk.ecc, Ecc.none]
  refine ⟨_, hk (mxUndo n (commitWb (commitSpill (coreOf s c) n) n)) (List.filter (fun b => n < b.hi)
    (commitMx (srKey s c) n (commitWb (commitSpill (coreOf s c) n) n)).busy), ?_⟩
  unfold coreCycle
  simp only [(hk _ _).seqCycle n, hflush _ (hk _ _)]

/-- Cycles of quiet cores change cores alone, and leave them quiet. -/
theorem coreCycles_quiet (n : Nat) (cs : List Nat) {s : State} (h : OfCores QuietCore s) :
    let t := cs.foldl (fun s c => coreSlots n (coreCycle n s c) c) s
    OfCores QuietCore t ∧ t.plane = s.plane := by
  induction cs generalizing s with
  | nil => exact ⟨h, rfl⟩
  | cons c cs ih =>
    obtain ⟨k, hk, hc⟩ := coreCycle_quiet n (h.core quiet_reset c)
    have hs : coreSlots n (coreCycle n s c) c = setCore s c k := by
      rw [hc]
      exact coreSlots_quiet n (by rwa [core_setCore_same])
    rw [List.foldl_cons, hs]
    exact ih (h.setCore hk c)

theorem meshCycle_quiet {s : State} (n : Nat) (h : OfCores QuietCore s) (hm : s.plane.mesh = []) :
    meshCycle s n = { s with plane := { s.plane with mesh := [] } } := by
  have hups : s.cores.all (fun e => e.2.ecc.upsets.isEmpty) = true := List.all_eq_true.mpr fun e he => by rw [(h e he).ecc]; rfl
  simp [meshCycle, crossLate, hups, hm, colliders]

/-- With quiet cores and an empty mesh a cycle begins without a change of the plane's course (04 R132). -/
theorem enterCycle_quiet {s : State} (n : Nat) (h : OfCores QuietCore s) (hm : s.plane.mesh = []) :
    (enterCycle s n).plane = { s.plane with issued := [], mesh := [] } := by
  obtain ⟨hq, hp⟩ := coreCycles_quiet n (listedCores s) (s := { s with plane := { s.plane with issued := [] } }) h
  have hmesh := meshCycle_quiet n hq (by rw [hp]; exact hm)
  refine (congrArg State.plane hmesh).trans ?_
  simp only [hp]

-- Time ----------------------------------------------------------------------------------------------------------------

theorem not_muted_of_clocks {s : State} (h : clocksRun s = true) : s.muted = false := by
  simp only [clocksRun, soundpostRuns, Bool.and_eq_true, Bool.not_eq_true'] at h
  exact h.1.2

theorem pass_reached {s : State} {x : Nat} (f : Nat) (h : x ≤ s.count) : pass x f s = s := by
  cases f <;> simp [pass, h]

/-- An armed run starts when its count comes (13 R349). -/
theorem pass_starts {s : State} {l : Nat} (f : Nat) (hr : s.plane.run = .armed) (hc : clocksRun s = true) (hl : startCount s = some l)
    (hlt : s.count < l) (hm : muteDue s l = false) : pass l (f + 1) s = pass l f (startRun s l) := by
  simp [pass, not_muted_of_clocks hc, Nat.not_le.mpr hlt, planeRuns, takesSamples, hr, hl, hc, hm]

theorem runStart_starts {s : State} {l : Nat} (hr : s.plane.run = .armed) (hc : clocksRun s = true) (hl : startCount s = some l)
    (hlt : s.count < l) (hm : muteDue s l = false) : exec .runStart s = .next (startRun s l) := by
  have hcount : (startRun s l).count = l := (enterCycle_course ..).count
  obtain ⟨f, hf⟩ : ∃ f, l - s.count = f + 1 := ⟨l - s.count - 1, by omega⟩
  show execRunStart s = _
  simp only [execRunStart, hr, hc, hl, passTo, hf, pass_starts f hr hc hl hlt hm, pass_reached f hcount.ge]
  rfl

end Sys2Proof.Machine
end

section
/-! SUPPORT. Holds: how they take force, their samples and the governor's frames (04 R125, R126; 16 R419, R420, R423). -/
namespace Sys2Proof.Machine
open Sys2Proof.Safety Sys2Proof.Claims

-- Changes of cores alone ------------------------------------------------------------------------------------------------

/-- `t` differs from `s` in its cores alone. -/
def CoresOnly (s t : State) : Prop := t = { s with cores := t.cores }

namespace CoresOnly
variable {s t u : State}

theorem refl (s : State) : CoresOnly s s := rfl
theorem trans (h : CoresOnly s t) (h' : CoresOnly t u) : CoresOnly s u := by
  unfold CoresOnly at h h' ⊢
  rw [h', h]
theorem modCore (s : State) (c : Nat) (f : Core → Core) : CoresOnly s (modCore s c f) := rfl
theorem foldl_modCore (f : State → Nat → Core → Core) (cs : List Nat) (s : State) :
    CoresOnly s (cs.foldl (fun s c => Machine.modCore s c (f s c)) s) :=
  foldl_keeps refl (fun _ _ _ => trans) (fun _ _ => modCore ..) cs s
theorem count (h : CoresOnly s t) : t.count = s.count := by rw [h]
theorem plane (h : CoresOnly s t) : t.plane = s.plane := by rw [h]
theorem regs (h : CoresOnly s t) : t.regs = s.regs := by rw [h]
theorem life (h : CoresOnly s t) : t.life = s.life := by rw [h]
theorem muted (h : CoresOnly s t) : t.muted = s.muted := by rw [h]
theorem mute (h : CoresOnly s t) : t.mute = s.mute := by rw [h]

end CoresOnly

theorem finishSparse_coresOnly (s : State) : CoresOnly s (finishSparse s) := by
  unfold finishSparse
  split
  · exact .refl s
  · exact .foldl_modCore (fun s c => sparseAtCount (sparsePoison s c) s.count) _ s

/-- Without a running sparse unit nothing is finished. -/
theorem finishSparse_none {s : State} (h : ∀ e ∈ s.cores, sparseRuns e.2 = false) : finishSparse s = s := by
  unfold finishSparse
  split
  · rfl
  · rw [List.filter_eq_nil_iff.mpr fun e he => by simp [h e he]]
    rfl

-- What depends on registers alone ---------------------------------------------------------------------------------------

section Congr
variable {s t : State}

theorem pwrState_congr (h : t.regs = s.regs) : pwrState t = pwrState s := regBits_congr h ..

theorem clocksRun_congr (hr : t.regs = s.regs) (hl : t.life = s.life) (hm : t.muted = s.muted) : clocksRun t = clocksRun s := by
  simp only [clocksRun, soundpostRuns, hl, hm, pwrState_congr hr]

theorem muteDue_congr (hr : t.regs = s.regs) (hm : t.mute = s.mute) (x : Nat) : muteDue t x = muteDue s x := by
  simp only [muteDue, regBits_congr hr, pwrState_congr hr, hm]

theorem governorAt_congr (hr : t.regs = s.regs) (hp : t.plane.run = s.plane.run) (x : Nat) : governorAt t x = governorAt s x := by
  simp only [governorAt, holdDuty, regBits_congr hr, pwrState_congr hr, hp]

end Congr

/-- MUTE that is not due by a count is not due by an earlier one. -/
theorem muteDue_earlier {s : State} {x y : Nat} (h : muteDue s x = false) (hy : y ≤ x) : muteDue s y = false := by
  simp only [muteDue, Bool.and_eq_false_iff, decide_eq_false_iff_not] at h ⊢
  exact h.imp_right fun h hle => h (hle.trans hy)

-- A hold takes force ----------------------------------------------------------------------------------------------------

/-- A fold whose every step leaves the state leaves it. -/
theorem foldl_unchanged {α : Type} {f : State → α → State} (l : List α) (h : ∀ a, ∀ x ∈ l, f a x = a) (s : State) :
    l.foldl f s = s := by
  induction l with
  | nil => rfl
  | cons x l ih =>
    rw [List.foldl_cons, h s x (List.mem_cons_self ..)]
    exact ih fun a y hy => h a y (List.mem_cons_of_mem _ hy)

/-- No uncorrectable instruction word halts a plane whose cores have no error standing. -/
theorem fetchLost_none {s : State} (h : ∀ e ∈ s.cores, e.2.ecc.marks = []) : fetchLost s = s :=
  foldl_unchanged _ (fun a e he => by simp [h e he]) s

/-- The tests before a hold change registers and whether the step end is satisfied. -/
def TestsOnly (s t : State) : Prop := t = { s with regs := t.regs, plane := { s.plane with stepOk := t.plane.stepOk } }

namespace TestsOnly
variable {s t u : State}

theorem trans (h : TestsOnly s t) (h' : TestsOnly t u) : TestsOnly s u := by
  unfold TestsOnly at h h' ⊢
  rw [h', h]
theorem count (h : TestsOnly s t) : t.count = s.count := by rw [h]
theorem cores (h : TestsOnly s t) : t.cores = s.cores := by rw [h]
theorem dram (h : TestsOnly s t) : t.dram = s.dram := by rw [h]
theorem run (h : TestsOnly s t) : t.plane.run = s.plane.run := by rw [h]

end TestsOnly

theorem testStepEnd_tests (s : State) : TestsOnly s (testStepEnd s) := by
  unfold testStepEnd
  split
  · unfold TestsOnly
    rw [regSetBits_frame]
  · rfl

theorem countFrame_tests (s : State) (x : Nat) : TestsOnly s (countFrame s x) := by
  unfold countFrame
  split
  · unfold TestsOnly regCount
    rw [regPutNat_frame]
  · rfl

/-- What the plane's advance does before it decides for a hold: the step end is tested, a governor frame counted. -/
def beforeHold (s : State) : State :=
  if (s.count + 1) % 128 = 0 then countFrame (testStepEnd s) (s.count + 1) else testStepEnd s

theorem beforeHold_tests (s : State) : TestsOnly s (beforeHold s) := by
  unfold beforeHold
  split
  · exact (testStepEnd_tests s).trans (countFrame_tests ..)
  · exact testStepEnd_tests s

theorem holdDue_congr {s t : State} (h : t.cores = s.cores) (n : Nat) : holdDue t n = holdDue s n := by rw [holdDue, holdDue, h]

/-- What a plane that goes on is. -/
theorem planeRuns_iff (s : State) : planeRuns s = true ↔
    s.plane.run = .running ∧ s.plane.held = false ∧ s.plane.halted = none ∧ clocksRun s = true := by
  simp [planeRuns, and_assoc]

/-- A plane that meets a hold's occasion stops with the hold in force (04 R125). -/
theorem advance_holds {s : State} (hr : planeRuns s = true) (hm : muteDue s (s.count + 1) = false)
    (he : ∀ e ∈ s.cores, e.2.ecc.marks = [])
    (h : holdDue s (s.plane.cyc + 1) = true ∨ (s.count + 1) % 128 = 0 ∧ governorAt (beforeHold s) (s.count + 1) = true) :
    advance s = beginHold (beforeHold s) (s.plane.cyc + 1) := by
  obtain ⟨-, -, hhalt, -⟩ := (planeRuns_iff s).mp hr
  have hd : (holdDue (beforeHold s) (s.plane.cyc + 1) || stepEndDue (beforeHold s) (s.plane.cyc + 1) ||
      ((s.count + 1) % 128 = 0 && governorAt (beforeHold s) (s.count + 1))) = true := by
    rcases h with h | ⟨h, h'⟩
    · simp [holdDue_congr (beforeHold_tests s).cores, h]
    · simp [h, h']
  unfold advance
  simp only [fetchLost_none he, hm, hhalt, Option.isSome_none, Bool.false_eq_true, if_false]
  exact if_pos hd

/-- The plane of a hold that has just taken force (04 R125). -/
theorem beginHold_plane (s : State) (n : Nat) :
    (beginHold s n).plane = { s.plane with cyc := n, held := true, holdAt := s.count + 1, sample := none } := by
  rw [beginHold, regSetBits_frame]
  exact (finishSparse_coresOnly _).plane

theorem beginHold_count (s : State) (n : Nat) : (beginHold s n).count = s.count + 1 := by
  rw [beginHold, regSetBits_frame]
  exact (finishSparse_coresOnly _).count

theorem beginHold_quiet {s : State} (n : Nat) (h : ∀ e ∈ s.cores, sparseRuns e.2 = false) :
    (beginHold s n).cores = s.cores ∧ (beginHold s n).dram = s.dram := by
  simp only [beginHold]
  rw [finishSparse_none (by exact h), regSetBits_frame]
  exact ⟨rfl, rfl⟩

theorem beginHold_status (s : State) (n : Nat) : regBits (beginHold s n) (dcs TUN 0x300) 8 8 = 1 := by simp [beginHold]

theorem regNat_same {s t : State} (h : t.regs = s.regs) (a n : Nat) : regNat t a n = regNat s a n :=
  regNat_congr a n fun _ _ => by rw [regWord, regWord, h]

/-- A hold takes force without a change of a register below its own. -/
theorem regNat_beginHold (s : State) (n : Nat) {a m : Nat} (h : a + 4 * m ≤ dcs TUN 0x300) :
    regNat (beginHold s n) a m = regNat s a m := by
  rw [beginHold, regSetBits]
  simp only [regNat_regPutNat_ne _ (Or.inl h)]
  refine (regNat_same (finishSparse_coresOnly _).regs a m).trans ?_
  exact regNat_same (by rfl) a m

theorem advanceToHold_held {s : State} (f : Nat) (h : s.plane.held = true) : advanceToHold f s = s := by
  cases f <;> simp [advanceToHold, planeRuns, h]

/-- PLANE_HOLD: a request of this cycle brings its hold at the next (04 R123, R125). -/
theorem planeHold_holds {s : State} (hr : planeRuns s = true) (hd : holdDue s (s.plane.cyc + 1) = true)
    (hm : muteDue s (s.count + 1) = false) (he : ∀ e ∈ s.cores, e.2.ecc.marks = []) :
    exec .planeHold s = .next (beginHold (beforeHold s) (s.plane.cyc + 1)) := by
  have hheld : (beginHold (beforeHold s) (s.plane.cyc + 1)).plane.held = true := by rw [beginHold_plane]
  have hgo : advanceToHold 168 s = beginHold (beforeHold s) (s.plane.cyc + 1) := by
    rw [advanceToHold, if_pos hr, advance_holds hr hm he (.inl hd), advanceToHold_held _ hheld]
  obtain ⟨-, hfree, -, -⟩ := (planeRuns_iff s).mp hr
  show execPlaneHold s = _
  simp only [execPlaneHold, hgo, hheld, hfree, Bool.not_false, Bool.and_self, if_true]

-- Governor frames -------------------------------------------------------------------------------------------------------

theorem regNat_testStepEnd (s : State) {a n : Nat} (h : a + 4 * n ≤ dcs TUN 0xC00) : regNat (testStepEnd s) a n = regNat s a n := by
  unfold testStepEnd
  split
  · exact (regNat_same (s := regSetBits s (dcs TUN 0xC00) 38 32
      ((tokenEntries s).filter (fun n => !s.tokGot.contains n)).length) (by rfl) a n).trans (regNat_regPutNat_ne s (.inl h))
  · rfl

/-- The tests before a hold leave the registers of the power state and the duty. -/
theorem regBits_beforeHold (s : State) {hi : Nat} (lo : Nat) (h : hi < 32) :
    regBits (beforeHold s) (dcs SP 0x200008) hi lo = regBits s (dcs SP 0x200008) hi lo := by
  have htest : regNat (testStepEnd s) (dcs SP 0x200008) 1 = regNat s (dcs SP 0x200008) 1 := regNat_testStepEnd s (by decide)
  have hcount : ∀ u x, regNat (countFrame u x) (dcs SP 0x200008) 1 = regNat u (dcs SP 0x200008) 1 := fun u x => by
    unfold countFrame
    split
    · exact regNat_regPutNat_ne u (.inl (by decide))
    · rfl
  rw [regBits, regBits, Nat.div_eq_of_lt h, beforeHold]
  split
  · rw [hcount, htest]
  · rw [htest]

/-- The governor's request is what it was before the tests. -/
theorem governorAt_beforeHold (s : State) (x : Nat) : governorAt (beforeHold s) x = governorAt s x := by
  rw [governorAt, governorAt, holdDuty, holdDuty, pwrState, pwrState, (beforeHold_tests s).run,
    regBits_beforeHold s _ (show 2 < 32 by decide), regBits_beforeHold s _ (show 10 < 32 by decide)]

/-- A frame of the governor while a run runs is counted (16 R423). -/
theorem regNat_beforeHold_count {s : State} (hx : (s.count + 1) % 128 = 0) (hg : governorAt s (s.count + 1) = true) :
    regNat (beforeHold s) (dcs SP 0x200028) 2 = min (2 ^ 64 - 1) (regNat s (dcs SP 0x200028) 2 + 1) := by
  have hstat : ∀ {hi : Nat} (lo : Nat), hi < 32 →
      regBits (testStepEnd s) (dcs SP 0x200008) hi lo = regBits s (dcs SP 0x200008) hi lo := fun lo h => by
    rw [regBits, regBits, Nat.div_eq_of_lt h, regNat_testStepEnd s (by decide)]
  have hg' : (((testStepEnd s).plane.run = .running || (testStepEnd s).plane.run = .paused) && pwrState (testStepEnd s) = 0 &&
      governorFrame (holdDuty (testStepEnd s)) ((s.count + 1) / 128)) = true := by
    rw [holdDuty, pwrState, (testStepEnd_tests s).run, hstat _ (show 2 < 32 by decide), hstat _ (show 10 < 32 by decide)]
    simp only [governorAt, Bool.and_eq_true] at hg
    obtain ⟨⟨hrun, hpwr⟩, hframe⟩ := hg
    exact Bool.and_eq_true_iff.mpr ⟨Bool.and_eq_true_iff.mpr ⟨Bool.or_eq_true_iff.mpr (.inl hrun), hpwr⟩, hframe⟩
  rw [beforeHold, if_pos hx, countFrame, if_pos hg', regCount, regNat_regPutNat_same, regNat_testStepEnd s (by decide)]
  exact Nat.mod_eq_of_lt (by omega)

theorem advanceTo_one {s : State} {x : Nat} (hr : planeRuns s = true) (hx : s.count < x) : advanceTo x 1 s = advance s := by
  simp [advanceTo, hr, hx]

theorem passTo_next_runs {s : State} {x : Nat} (hr : planeRuns s = true) (hx : s.count + 1 = x) : passTo s x = advance s := by
  obtain ⟨-, -, -, hclocks⟩ := (planeRuns_iff s).mp hr
  have hlt : s.count < x := by omega
  rw [passTo, show x - s.count = 1 by omega]
  simp [pass, not_muted_of_clocks hclocks, Nat.not_le.mpr hlt, hr, show x - s.count = 1 by omega, advanceTo_one hr hlt]

/-- The next governor frame is the one that begins with the next count. -/
theorem nextGovernorFrame_next {d x f : Nat} (hx : x + 1 = 128 * f) (hf : governorFrame d f = true) : nextGovernorFrame d x = some f := by
  have hfirst : x / 128 + 1 = f := by omega
  rw [nextGovernorFrame, show List.range 64 = 0 :: (List.range 63).map (· + 1) by decide, List.map_cons, Nat.add_zero, hfirst]
  exact List.find?_cons_of_pos hf

/-- GOVERNOR_FRAME at the count before a frame: its hold takes force (16 R419, R420). -/
theorem governorFrame_holds {s : State} {f : Nat} (hr : planeRuns s = true) (hp : pwrState s = 0) (hx : s.count + 1 = 128 * f)
    (hg : governorAt s (s.count + 1) = true) (hf : governorFrame (holdDuty s) f = true) (hm : muteDue s (s.count + 1) = false)
    (he : ∀ e ∈ s.cores, e.2.ecc.marks = []) :
    exec .governorFrame s = .next (beginHold (beforeHold s) (s.plane.cyc + 1)) := by
  obtain ⟨hrun, -, hhalt, hclocks⟩ := (planeRuns_iff s).mp hr
  have hx' : (s.count + 1) % 128 = 0 := by omega
  show execGovernorFrame s = _
  simp [execGovernorFrame, hrun, hhalt, hclocks, hp, nextGovernorFrame_next hx hf, passTo_next_runs hr hx,
    advance_holds hr hm he (.inr ⟨hx', by rw [governorAt_beforeHold, hg]⟩)]

end Sys2Proof.Machine
end

section
/-! SUPPORT. The release samples of a hold: what a sample finds, and what the decision it serves does (04 R125, R126; 17 R456). -/
namespace Sys2Proof.Machine
open Sys2Proof.Safety Sys2Proof.Claims

-- What a sample finds ---------------------------------------------------------------------------------------------------

/-- A sum or union grown by a fold is zero when every step adds nothing. -/
theorem foldl_eq_zero_iff {α : Type} {f : Nat → α → Nat} {p : α → Prop} (h : ∀ m a, f m a = 0 ↔ m = 0 ∧ p a) (l : List α) (m : Nat) :
    l.foldl f m = 0 ↔ m = 0 ∧ ∀ a ∈ l, p a := by
  induction l generalizing m with
  | nil => simp
  | cons a l ih => rw [List.foldl_cons, ih, h, List.forall_mem_cons, and_assoc]

/-- Every request of a core is satisfied. -/
def Satisfied (k : Core) : Prop := ∀ g ∈ k.gates, g.ok = true

theorem satisfied_reset : Satisfied Core.reset := fun _ h => absurd h List.not_mem_nil

theorem causeOf_lt (g : Gate) : causeOf g < 6 := by
  unfold causeOf
  split <;> decide

/-- A core has no cause when its requests are satisfied (17 R456). -/
theorem coreCauses_eq_zero_iff (k : Core) : coreCauses k = 0 ↔ Satisfied k := by
  have hstep : ∀ m b : Nat, (if k.gates.any (fun g => !g.ok && causeOf g = b) then m + 2 ^ b else m) = 0 ↔
      m = 0 ∧ ∀ g ∈ k.gates, causeOf g = b → g.ok = true := fun m b => by
    have hany : k.gates.any (fun g => !g.ok && causeOf g = b) = true ↔ ¬ ∀ g ∈ k.gates, causeOf g = b → g.ok = true := by
      simp [and_comm]
    have hpos : m + 2 ^ b ≠ 0 := by positivity
    split
    · next h => exact iff_of_false hpos fun h' => hany.mp h h'.2
    · next h => exact (and_iff_left (not_not.mp fun h' => h (hany.mpr h'))).symm
  rw [coreCauses, foldl_eq_zero_iff hstep]
  exact ⟨fun h g hg => h.2 _ (List.mem_range.mpr (causeOf_lt g)) g hg rfl, fun h => ⟨rfl, fun _ _ g hg _ => h g hg⟩⟩

/-- The causes of a state's cores, as a sample takes them. -/
def causesIn (s : State) : Nat := s.cores.foldl (fun m e => m ||| coreCauses e.2) 0

theorem causesIn_eq_zero_iff (s : State) : causesIn s = 0 ↔ OfCores Satisfied s := by
  have hor : ∀ m n : Nat, m ||| n = 0 ↔ m = 0 ∧ n = 0 := fun m n => Nat.or_eq_zero_iff
  rw [causesIn, foldl_eq_zero_iff fun m (e : Nat × Core) => (hor m _).trans (and_congr_right fun _ => coreCauses_eq_zero_iff e.2)]
  exact and_iff_right rfl

/-- A core with an unsatisfied request is listed, and is a cause. -/
theorem causesIn_ne_zero {s : State} {c : Nat} (h : ¬ Satisfied (coreOf s c)) : causesIn s ≠ 0 := fun h0 =>
  h (((causesIn_eq_zero_iff s).mp h0).core satisfied_reset c)

-- The re-test -----------------------------------------------------------------------------------------------------------

/-- A core after its requests have been tested again, as `retestCore` leaves it (04 R126). -/
def retested (k : Core) : Core := { k with gates := k.gates.map (fun g => { g with ok := g.ok || gateSat k g }) }

theorem satisfied_retested {k : Core} (h : Satisfied k) : Satisfied (retested k) := by
  intro g hg
  obtain ⟨g', hg', rfl⟩ := List.mem_map.mp hg
  simp [h g' hg']

theorem takeUpset_gates (k : Core) (us : List Nat) : (takeUpset k us).1.gates = k.gates := by
  unfold takeUpset
  split <;> rfl

theorem checkedRun_gates (poison : Bool) (op : Nat) (d : List Byte) (k : Core) : (checkedRun poison op d k).1.gates = k.gates := by
  obtain ⟨e, he⟩ := eccRead_ecc k 0 ((sparseBytes op d).flatMap (fun x => wordsOf x.1 x.2))
  unfold checkedRun
  simp only
  split
  · rfl
  · rw [he]
    split
    · rfl
    · split
      · next k' u hu _ =>
        have hk : k' = (takeUpset { k with ecc := e } [6]).1 := by rw [hu]
        rw [hk]
        exact takeUpset_gates ..
      · rfl

/-- A sparse run that ends leaves its core's requests. -/
theorem sparseAtCount_gates (poison : Bool) (x : Nat) (k : Core) : (sparseAtCount poison x k).gates = k.gates := by
  unfold sparseAtCount
  split
  · split
    · rfl
    · exact checkedRun_gates ..
  · rfl

theorem sparseAtCount_idle {k : Core} (poison : Bool) (x : Nat) (h : sparseRuns k = false) : sparseAtCount poison x k = k := by
  unfold sparseRuns at h
  unfold sparseAtCount
  split
  · next hs => simp [hs] at h
  · rfl

/-- What a fold over cores keeps of one core. -/
theorem coreOf_foldl_modCore {P : Core → Prop} {f : State → Nat → Core → Core} (hf : ∀ a c k, P k → P (f a c k)) (cs : List Nat) {s : State}
    {b : Nat} (h : P (coreOf s b)) : P (coreOf (cs.foldl (fun s c => modCore s c (f s c)) s) b) := by
  induction cs generalizing s with
  | nil => exact h
  | cons c cs ih =>
    refine ih ?_
    by_cases hb : b = c
    · subst hb
      rw [core_modCore_same]
      exact hf _ _ _ h
    · rwa [core_modCore_ne _ _ hb]

/-- The state a sample for release count `x` looks at: 40 counts before it, with every core's requests tested again (04 R125). -/
def sampled (s : State) (x : Nat) : State :=
  let u := finishSparse { s with count := x - 40 }
  (listedCores u).foldl retestCore u

theorem sampled_coresOnly (s : State) (x : Nat) : CoresOnly { s with count := x - 40 } (sampled s x) :=
  (finishSparse_coresOnly _).trans (.foldl_modCore (fun _ _ => retested) _ _)

/-- Requests that are satisfied stay so at the sample. -/
theorem satisfied_sampled {s : State} (x : Nat) (h : OfCores Satisfied s) : OfCores Satisfied (sampled s x) := by
  have hrun : ∀ (p : Bool) (n : Nat) (k : Core), Satisfied k → Satisfied (sparseAtCount p n k) := fun p n k hk => by
    rw [Satisfied, sparseAtCount_gates]
    exact hk
  have hsparse : OfCores Satisfied (finishSparse { s with count := x - 40 }) := by
    unfold finishSparse
    split
    · exact h
    · exact OfCores.foldl_modCore (s := { s with count := x - 40 }) satisfied_reset
        (f := fun s c => sparseAtCount (sparsePoison s c) s.count) (fun _ _ k hk => hrun _ _ k hk) _ h
  exact OfCores.foldl_modCore (f := fun _ _ => retested) satisfied_reset (fun _ _ _ => satisfied_retested) _ hsparse

/-- `k` is `k₀` with other requests, `g` among them. -/
def StillAsks (k₀ : Core) (g : Gate) (k : Core) : Prop := ∃ gs, g ∈ gs ∧ k = { k₀ with gates := gs }

/-- A request whose condition fails stays unsatisfied. -/
theorem stillAsks_retested {k₀ k : Core} {g : Gate} (hok : g.ok = false) (hg : gateSat k₀ g = false) (h : StillAsks k₀ g k) :
    StillAsks k₀ g (retested k) := by
  obtain ⟨gs, hmem, rfl⟩ := h
  have hsat : gateSat { k₀ with gates := gs } g = false := hg
  refine ⟨_, List.mem_map.mpr ⟨g, hmem, ?_⟩, rfl⟩
  rw [hsat, hok]
  cases g
  simp_all

/-- A request whose condition fails is a cause at the sample, where its core's sparse unit does not run (04 R126). -/
theorem unsatisfied_sampled {s : State} {c : Nat} {g : Gate} (x : Nat) (hmem : g ∈ (coreOf s c).gates) (hok : g.ok = false)
    (hg : gateSat (coreOf s c) g = false) (hs : sparseRuns (coreOf s c) = false) : ¬ Satisfied (coreOf (sampled s x) c) := by
  have hsparse : coreOf (finishSparse { s with count := x - 40 }) c = coreOf s c := by
    unfold finishSparse
    split
    · rfl
    · exact coreOf_foldl_modCore (P := (· = coreOf s c)) (f := fun s c => sparseAtCount (sparsePoison s c) s.count)
        (fun a b k hk => by rw [hk]; exact sparseAtCount_idle _ _ hs) _ rfl
  have hstill : StillAsks (coreOf s c) g (coreOf (sampled s x) c) :=
    coreOf_foldl_modCore (P := StillAsks (coreOf s c) g) (f := fun _ _ => retested) (fun _ _ _ => stillAsks_retested hok hg) _
      (s := finishSparse { s with count := x - 40 }) ⟨(coreOf s c).gates, hmem, hsparse⟩
  obtain ⟨gs, hgs, hk⟩ := hstill
  intro h
  rw [hk] at h
  exact absurd (hok.symm.trans (h g hgs)) (by simp)

/-- Whether no step end under way lacks a condition (05 R152). -/
def stepReady (s : State) : Bool :=
  match s.plane.stepEnd with
  | some e => allEnded s e && stepDrained s
  | none => true

theorem stepReady_none {s : State} (h : s.plane.stepEnd = none) : stepReady s = true := by simp [stepReady, h]

/-- A sample keeps the course of the plane and notes what it found (04 R125). -/
theorem sampleHold_eq (s : State) (x : Nat) : ∃ ok pend : Bool, (s.plane.stepEnd = none → pend = true) ∧
    sampleHold s x = { sampled s x with plane := { s.plane with
      stepOk := ok, sample := some (x, causesIn (sampled s x) + if pend then 0 else 2 ^ 4) } } := by
  have hp : (sampled s x).plane = s.plane := (sampled_coresOnly s x).plane
  rw [← hp]
  exact ⟨_, stepReady (sampled s x), stepReady_none, rfl⟩

/-- A core as the state lists it, in the canonical form. -/
theorem smGet_of_mem {α : Type} [DecidableEq α] {d : α} {m : SMap α} {k : Nat} {v : α} (hw : smWf d m = true) (h : (k, v) ∈ m) :
    smGet d m k = v := by
  induction m with
  | nil => exact absurd h List.not_mem_nil
  | cons e m ih =>
    obtain ⟨a, w⟩ := e
    obtain ⟨-, hlt, hw'⟩ := (smWf_cons d a w m).mp hw
    rcases List.mem_cons.mp h with heq | hmem
    · obtain ⟨rfl, rfl⟩ := Prod.mk.inj heq
      exact if_pos rfl
    · exact (if_neg (hlt _ hmem).ne).trans (ih hw' hmem)

-- The decision ----------------------------------------------------------------------------------------------------------

theorem RecordsOnly.foldl {α : Type} {f : State → α → State} (h : ∀ a x, RecordsOnly a (f a x)) (l : List α) (s : State) :
    RecordsOnly s (l.foldl f s) :=
  foldl_keeps .refl (fun _ _ _ => .trans) h l s

theorem countFrame_records (s : State) (x : Nat) : RecordsOnly s (countFrame s x) := .ite ((RecordsOnly.refl s).regPutNat ..) (.refl s)

/-- What a decision records is in registers (17 R456). -/
theorem recordSample_records (s : State) (causes : Nat) : RecordsOnly s (recordSample s causes) := by
  unfold recordSample
  refine (((RecordsOnly.refl s).regSetBits ..).regPutNat ..).trans (.trans (.foldl (fun a t => ?_) _ _) (.foldl (fun a b => ?_) _ _))
  · split <;> rfl
  · exact .ite ((RecordsOnly.refl a).regPutNat ..) (.refl a)

/-- Gates and a cycle keep the course where no step end is under way. -/
theorem resumeCycle_course {s : State} (n : Nat) (h : s.plane.stepEnd = none) : KeepsCourse s (resumeCycle s n) := by
  have hgates : KeepsCourse s ((listedCores s).foldl (passGates n) s) := .foldl (passGates_course n) _ s
  have hsettle : settleStep ((listedCores s).foldl (passGates n) s) n = (listedCores s).foldl (passGates n) s := by
    rw [settleStep, hgates.stepEnd.trans h]
  unfold resumeCycle
  simp only [hsettle]
  exact .ite hgates (hgates.trans (enterCycle_course ..))

/-- The causes of the decision for release count `x` (04 R126; 13 R351; 16 R420). -/
def decisionCauses (s : State) (x found : Nat) : Nat :=
  found + (if governorAt s x then 2 ^ 6 else 0) +
    (if s.plane.run = .paused && (match s.plane.contAt with | some c => x < c | none => true) then 2 ^ 7 else 0)

/-- The state a decision for release count `x` has recorded. -/
def decided (s : State) (x found : Nat) : State :=
  recordSample (countFrame (finishSparse { s with count := x, plane := { s.plane with sample := none } }) x) (decisionCauses s x found)

theorem decided_course (s : State) (x found : Nat) :
    (decided s x found).count = x ∧ (decided s x found).plane.held = s.plane.held ∧
      (decided s x found).plane.stepEnd = s.plane.stepEnd := by
  have hsparse := finishSparse_coresOnly { s with count := x, plane := { s.plane with sample := none } }
  have hrec : KeepsCourse (finishSparse { s with count := x, plane := { s.plane with sample := none } }) (decided s x found) :=
    .of_records ((countFrame_records ..).trans (recordSample_records ..))
  exact ⟨hrec.count.trans hsparse.count, hrec.held.trans (by rw [hsparse.plane]), hrec.stepEnd.trans (by rw [hsparse.plane])⟩

theorem decideHold_eq (s : State) (x found : Nat) : decideHold s x found =
    if decisionCauses s x found ≠ 0 then
      if found = 0 && stepFails (decided s x found) then resumeCycle (decided s x found) (decided s x found).plane.cyc
      else decided s x found
    else
      let u := regSetBits (decided s x found) (dcs TUN 0x300) 8 8 0
      resumeCycle { u with plane := { u.plane with held := false, run := .running, contAt := none } } u.plane.cyc := rfl

theorem decideHold_count (s : State) (x found : Nat) : (decideHold s x found).count = x := by
  obtain ⟨hcount, -, -⟩ := decided_course s x found
  rw [decideHold_eq]
  refine count_ite (count_ite ((count_resumeCycle ..).trans hcount) hcount) ((count_resumeCycle ..).trans ?_)
  exact (regSetBits_count ..).trans hcount

/-- A cause that was found keeps the hold (04 R126). -/
theorem decideHold_keeps {s : State} {x found : Nat} (h : found ≠ 0) (hh : s.plane.held = true) :
    (decideHold s x found).plane.held = true := by
  have hcauses : decisionCauses s x found ≠ 0 := fun h0 => h (by unfold decisionCauses at h0; omega)
  rw [decideHold_eq, if_pos hcauses, if_neg (by simp [h])]
  exact (decided_course s x found).2.1.trans hh

/-- With no cause left the hold is released (04 R125). -/
theorem decideHold_releases {s : State} {x : Nat} (hr : s.plane.run = .running) (he : s.plane.stepEnd = none)
    (hg : governorAt s x = false) : (decideHold s x 0).plane.held = false := by
  obtain ⟨-, -, hstep⟩ := decided_course s x 0
  have hcauses : decisionCauses s x 0 = 0 := by simp [decisionCauses, hg, hr]
  rw [decideHold_eq, if_neg (not_not.mpr hcauses)]
  refine (resumeCycle_course _ ?_).held
  exact (congrArg Plane.stepEnd (regSetBits_plane ..)).trans (hstep.trans he)

-- From sample to decision -----------------------------------------------------------------------------------------------

/-- The next release count stays the same at its own sample. -/
theorem nextSample_at_sample {s u : State} (hp : u.plane.holdAt = s.plane.holdAt) (hu : u.count = nextSample s - 40) :
    nextSample u = nextSample s := by
  simp only [nextSample, hp, hu]
  omega

/-- A hold in force does what is next for it. -/
theorem pass_holds {s : State} {x y : Nat} (f : Nat) (hh : s.plane.held = true) (ht : takesSamples s = true) (hc : clocksRun s = true)
    (hx : s.count < x) (he : holdEvent s = some y) (hy : y ≤ x) (hm : muteDue s x = false) :
    pass x (f + 1) s = pass x f (releaseSample s) := by
  simp [pass, not_muted_of_clocks hc, Nat.not_le.mpr hx, planeRuns, hh, ht, he, hy, muteDue_earlier hm hy]

theorem takesSamples_iff (s : State) : takesSamples s = true ↔ s.plane.held = true ∧ s.plane.halted = none ∧ clocksRun s = true ∧
    (s.plane.run = .running ∨ s.plane.run = .paused ∧ pwrState s = 0) := by
  simp [takesSamples, and_assoc]

/-- A sample changes the count, the cores, and what the plane has sampled. -/
theorem sampleHold_frame (s : State) (x : Nat) : sampleHold s x = { s with
    count := x - 40, cores := (sampleHold s x).cores
    plane := { s.plane with stepOk := (sampleHold s x).plane.stepOk, sample := (sampleHold s x).plane.sample } } := by
  obtain ⟨ok, pend, -, h⟩ := sampleHold_eq s x
  have hs : sampled s x = { s with count := x - 40, cores := (sampled s x).cores } := sampled_coresOnly s x
  rw [h]
  generalize sampled s x = v at hs ⊢
  rw [hs]

section Sample
variable {s : State} {x : Nat}

theorem sampleHold_count : (sampleHold s x).count = x - 40 := by rw [sampleHold_frame]
theorem sampleHold_regs : (sampleHold s x).regs = s.regs := by rw [sampleHold_frame]
theorem sampleHold_held : (sampleHold s x).plane.held = s.plane.held := by rw [sampleHold_frame]
theorem sampleHold_run : (sampleHold s x).plane.run = s.plane.run := by rw [sampleHold_frame]
theorem sampleHold_stepEnd : (sampleHold s x).plane.stepEnd = s.plane.stepEnd := by rw [sampleHold_frame]
theorem sampleHold_holdAt : (sampleHold s x).plane.holdAt = s.plane.holdAt := by rw [sampleHold_frame]

theorem clocksRun_sampleHold : clocksRun (sampleHold s x) = clocksRun s :=
  clocksRun_congr sampleHold_regs (by rw [sampleHold_frame]) (by rw [sampleHold_frame])

theorem muteDue_sampleHold (y : Nat) : muteDue (sampleHold s x) y = muteDue s y :=
  muteDue_congr sampleHold_regs (by rw [sampleHold_frame]) y

theorem takesSamples_sampleHold (h : takesSamples s = true) : takesSamples (sampleHold s x) = true := by
  rw [takesSamples_iff] at h ⊢
  rw [sampleHold_held, clocksRun_sampleHold, sampleHold_run, pwrState_congr sampleHold_regs,
    show (sampleHold s x).plane.halted = s.plane.halted by rw [sampleHold_frame]]
  exact h

end Sample

/-- RELEASE_SAMPLE before the sample: it is taken, and the decision follows at the release count (04 R125). -/
theorem releaseSample_decides {s : State} (ht : takesSamples s = true) (hm : muteDue s (nextSample s) = false)
    (hn : s.plane.sample = none) (hlt : s.count < nextSample s - 40) {found : Nat}
    (hfound : (sampleHold s (nextSample s)).plane.sample = some (nextSample s, found)) :
    exec .releaseSample s = .next (decideHold (sampleHold s (nextSample s)) (nextSample s) found) := by
  obtain ⟨hheld, -, hclocks, -⟩ := (takesSamples_iff s).mp ht
  set u := sampleHold s (nextSample s) with hu
  have hcount : u.count = nextSample s - 40 := sampleHold_count
  have hcount' : u.count < nextSample s := by omega
  have hnext : nextSample u = nextSample s := nextSample_at_sample sampleHold_holdAt hcount
  have hfirst : holdEvent s = some (nextSample s - 40) := by simp [holdEvent, hn, hlt]
  have hsecond : holdEvent u = some (nextSample s) := by simp [holdEvent, hnext, hfound]
  have hsample : releaseSample s = u := by simp only [releaseSample, hn, hu]
  have hdecide : releaseSample u = decideHold u (nextSample s) found := by simp only [releaseSample, hfound, hnext, if_true]
  obtain ⟨f, hf⟩ : ∃ f, nextSample s - s.count = f + 2 := ⟨nextSample s - s.count - 2, by omega⟩
  have hpass : passTo s (nextSample s) = decideHold u (nextSample s) found := by
    rw [passTo, hf, pass_holds (f + 1) hheld ht hclocks (by omega) hfirst (by omega) hm, hsample,
      pass_holds f (sampleHold_held.trans hheld) (takesSamples_sampleHold ht) (clocksRun_sampleHold.trans hclocks) hcount' hsecond
        le_rfl ((muteDue_sampleHold _).trans hm), hdecide]
    exact pass_reached f (decideHold_count ..).ge
  show execReleaseSample s = _
  simp only [execReleaseSample, ht, if_true, hpass]

/-- Settles O19: the start of a run, a hold, a release sample and a governor frame. -/
theorem planeEventsTakeForce : Obligations.PlaneEventsTakeForce := by
  refine ⟨fun s l hr hc hl hlt hm => ?_, fun s hr hd hm he => ?_, fun s ht hm hn hlt hcan => ?_, fun s f hr hp hx hf hm he => ?_⟩
  · refine ⟨runStart_starts hr hc hl hlt hm, (enterCycle_course ..).count, fun hq hmesh => ?_⟩
    have hplane : (startRun s l).plane = _ :=
      enterCycle_quiet (s := { s with count := l, plane := { s.plane with run := .running, cyc := 0, held := false } }) 0
        (fun e hmem => by obtain ⟨h1, h2, h3, h4⟩ := hq e hmem; exact ⟨h1, h2, h3, h4⟩) hmesh
    rw [hplane]
    exact ⟨rfl, rfl, rfl⟩
  · have htests := beforeHold_tests s
    obtain ⟨hcores, hdram⟩ := beginHold_quiet (s := beforeHold s) (s.plane.cyc + 1) (by
      rw [htests.cores]
      exact fun e hmem => (he e hmem).2)
    refine ⟨_, planeHold_holds hr hd hm fun e hmem => (he e hmem).1, ?_, ?_, ?_, ?_, beginHold_status .., hcores.trans htests.cores,
      hdram.trans htests.dram⟩
    · rw [beginHold_plane]
    · rw [beginHold_plane]
    · rw [beginHold_count, htests.count]
    · rw [beginHold_plane, htests.count]
  · obtain ⟨hheld, -, -, -⟩ := (takesSamples_iff s).mp ht
    obtain ⟨-, -, hwf, -⟩ := hcan
    obtain ⟨ok, pend, hpend, hs⟩ := sampleHold_eq s (nextSample s)
    refine ⟨_, releaseSample_decides ht hm hn hlt (by rw [hs]), decideHold_count .., ?_, fun hrun hstep hgov hok => ?_⟩
    · rintro ⟨e, hmem, g, hg, hgok, hsat, hidle⟩
      have hcore : coreOf s e.1 = e.2 := smGet_of_mem hwf hmem
      have hcause : causesIn (sampled s (nextSample s)) ≠ 0 :=
        causesIn_ne_zero (unsatisfied_sampled (c := e.1) (g := g) _ (hcore ▸ hg) hgok (hcore ▸ hsat) (hcore ▸ hidle))
      exact decideHold_keeps (by omega) (sampleHold_held.trans hheld)
    · have hfound : causesIn (sampled s (nextSample s)) + (if pend then 0 else 2 ^ 4) = 0 := by
        rw [(causesIn_eq_zero_iff _).mpr (satisfied_sampled _ hok), hpend hstep]
        rfl
      rw [hfound]
      exact decideHold_releases (sampleHold_run.trans hrun) (sampleHold_stepEnd.trans hstep)
        ((governorAt_congr sampleHold_regs sampleHold_run _).trans hgov)
  · have hg : governorAt s (s.count + 1) = true := by
      obtain ⟨hrun, -, -, -⟩ := (planeRuns_iff s).mp hr
      simp [governorAt, hrun, hp, hx, hf]
    have hcount := (beforeHold_tests s).count
    refine ⟨_, governorFrame_holds hr hp hx hg hf hm he, ?_, ?_, ?_, ?_⟩
    · rw [beginHold_plane]
    · rw [beginHold_count, hcount, hx]
    · rw [beginHold_plane, hcount, hx]
    · rw [regNat_beginHold _ _ (by decide), regNat_beforeHold_count (by omega) hg]

end Sys2Proof.Machine
end

section
/-! SUPPORT. The per-core registers: what CSRR, CSRW and RDID do, and what a write of the window leaves (05 R140, R141). -/
namespace Sys2Proof.Machine
open Sys2Proof.Safety Sys2Proof.Claims

theorem csrForm_word {f : FmtI} (hf : f.fn = 0) (hz : f.sz = 0) : csrForm f = some (f.imm.toNat % 512, 4) := by
  simp [csrForm, hf, hz]

theorem csrForm_pair {f : FmtI} (hf : f.fn = 0) (hz : f.sz = 1) : csrForm f = some (f.imm.toNat % 512, 8) := by
  simp [csrForm, hf, hz]

/-- A pair result is its two halves, the low one first (02 R34). -/
theorem addPair_words (k : Core) (due i : Nat) (lo hi : Word) :
    addPair k due i (lo.toNat + 2 ^ 32 * hi.toNat) = addWb (addWb k due (.s i) lo.toNat) due (.s (i + 1)) hi.toNat := by
  rw [addPair, Nat.add_mul_mod_self_left, Nat.mod_eq_of_lt lo.isLt, Nat.add_mul_div_left _ _ (by decide),
    Nat.div_eq_of_lt lo.isLt, Nat.zero_add]

section Acts
variable {c : Nat} {f : FmtI} {s : State} {k : Core} {off d a v : Nat}

theorem planCsrr_acts_word (hf : csrForm f = some (off, 4)) (hd : sReg f.rd = some d) (hal : off % 4 = 0)
    (hi : coreIdle s c = false) :
    ActsOnCore (planCsrr c f s k) c nSIU (fun n x => addWb x (n + 1) (.s d) (csrRead32 false k off).toNat) := by
  have hd : scalarDst 32 f.rd = some d := hd
  simp only [planCsrr, hf, hd, hal, hi, Nat.reduceMul, Nat.reduceEqDiff, if_false, if_true, Nat.add_zero]
  exact onCore_acts ..

theorem planCsrr_acts_pair (hf : csrForm f = some (off, 8)) (hd : sPair f.rd = some d) (hal : off % 8 = 0)
    (hi : coreIdle s c = false) :
    ActsOnCore (planCsrr c f s k) c nSIU (fun n x =>
      addWb (addWb x (n + 1) (.s d) (csrRead32 false k off).toNat) (n + 1) (.s (d + 1)) (csrRead32 false k (off + 4)).toNat) := by
  have hd : scalarDst 64 f.rd = some d := hd
  simp only [planCsrr, hf, hd, hal, hi, Nat.reduceMul, if_true, putScalar, addPair_words]
  exact onCore_acts ..

/-- CSRW of either width: its result goes to the window, readable in the next cycle (05 R141). -/
theorem planCsrw_acts {size : Nat} (hf : csrForm f = some (off, size)) (hv : scalarSrc k (8 * size) f.ra = some v)
    (hal : off % size = 0) :
    ActsOnCore (planCsrw c f s k) c nSIU (fun n x => addWb x (n + 1) (.csr off size) v) := by
  simp only [planCsrw, hf, hv, hal, if_true, reading_acts]
  exact onCore_acts ..

/-- What RDID reads by FN into one register (05 R140). -/
theorem planRdid_acts_word (hd : sReg f.rd = some d)
    (hv : (f.fn.toNat, v) ∈ [(0, lcOf c), (1, tileOf c), (2, (tileReg s (tileOf c) 0x808).toNat),
      (3, (tileReg s (tileOf c) 0x80C).toNat)]) :
    ActsOnCore (planRdid c f s k) c nSIU (fun n x => addWb x (n + 1) (.s d) v) := by
  simp only [List.mem_cons, Prod.mk.injEq, List.not_mem_nil, or_false] at hv
  rcases hv with ⟨hn, rfl⟩ | ⟨hn, rfl⟩ | ⟨hn, rfl⟩ | ⟨hn, rfl⟩
  all_goals
    simp only [planRdid, hn, hd]
    exact onCore_acts ..

theorem planRdid_acts_cycle (hf : f.fn = 4) (hd : sPair f.rd = some d) :
    ActsOnCore (planRdid c f s k) c nSIU (fun n x => addPair x (n + 1) d n) := by
  have hn : f.fn.toNat = 4 := by rw [hf]; rfl
  simp only [planRdid, hn, hd]
  exact onCore_acts ..

end Acts

/-- Settles O2: each row issues its plan; a write of one word of the window changes the register that lies there. -/
theorem perCoreRegistersAreReadAndWritten : Obligations.PerCoreRegistersAreReadAndWritten := by
  refine ⟨?_, ?_, ?_, ?_, ?_⟩
  · intro s c p f d hf hv hfn
    exact ⟨fun hz hal hd => issue_acts hf hv (planCsrr_acts_word (csrForm_word hfn hz) hd hal hf.covered),
      fun hz hal hd => (issue_acts hf hv (planCsrr_acts_pair (csrForm_pair hfn hz) hd hal hf.covered))⟩
  · intro s c p f d hf hv hd r hr hfn
    exact issue_acts hf hv (planRdid_acts_word hd (hfn ▸ hr))
  · intro s c p f d hf hv hd hfn
    exact issue_acts hf hv (planRdid_acts_cycle hfn hd)
  · intro s c p f a hf hv hfn
    refine ⟨fun hz hal ha => ?_, fun hz hal ha => ?_⟩
    · exact issue_acts hf hv (planCsrw_acts (csrForm_word hfn hz) (congrArg (Option.map _) ha) hal)
    · exact issue_acts hf hv (planCsrw_acts (csrForm_pair hfn hz) (congrArg (Option.map _) ha) hal)
  · intro k v
    exact ⟨rfl, rfl, rfl, rfl, rfl⟩

end Sys2Proof.Machine
end

section
/-! SUPPORT. The vector integer rows and the vector comparisons, moves and conversions, lane by lane (02 R35; 05 R143, R481). -/
namespace Sys2Proof.Machine
open Sys2Proof.Safety Sys2Proof.Claims

-- Lanes ---------------------------------------------------------------------------------------------------------------

theorem laneOf_lt (w : Nat) (v : VWord) (i : Nat) : laneOf w v i < 2 ^ w := Nat.mod_lt _ (Nat.two_pow_pos w)

theorem ofSigned_lt (w : Nat) (i : Int) : ofSigned w i < 2 ^ w := by
  have hw : (0 : Int) < (2 ^ w : Nat) := Int.natCast_pos.mpr (Nat.two_pow_pos w)
  have h0 := Int.emod_nonneg i hw.ne'
  have h1 := Int.emod_lt_of_pos i hw
  unfold ofSigned
  omega

/-- Reading a code as signed and writing it back. -/
theorem ofSigned_toSigned {w a : Nat} (h : a < 2 ^ w) : ofSigned w (toSigned w a) = a := by
  have ha : (a : Int) % ((2 ^ w : Nat) : Int) = a := Int.emod_eq_of_lt (Int.natCast_nonneg a) (Int.ofNat_lt.mpr h)
  simp only [ofSigned, toSigned, Nat.mod_eq_of_lt h]
  split
  · rw [ha, Int.toNat_natCast]
  · rw [Int.sub_emod_right, ha, Int.toNat_natCast]

/-- Packing full lanes of what `g` gives, read lane by lane. -/
theorem laneOf_packLanes_map {w n i : Nat} (g : Nat → Nat) (hi : i < n) (hw : w * n ≤ 512) :
    laneOf w (packLanes w ((List.range n).map g)) i = g i % 2 ^ w := by
  rw [laneOf_packLanes w _ i (by simpa using hi) (by simpa using hw)]
  simp

/-- The same where the lanes fill the register and their values fit. -/
theorem laneOf_packLanes_fits {w i : Nat} {g : Nat → Nat} (hi : i < 512 / w) (hg : g i < 2 ^ w) :
    laneOf w (packLanes w ((List.range (512 / w)).map g)) i = g i := by
  rw [laneOf_packLanes_map g hi (Nat.mul_div_le 512 w), Nat.mod_eq_of_lt hg]

theorem toNat_ofNat_le (n x : Nat) : (BitVec.ofNat n x).toNat ≤ x := by
  rw [BitVec.toNat_ofNat]
  exact Nat.mod_le ..

/-- Above the lanes that were packed a register is zero. -/
theorem laneOf_packLanes_above {w : Nat} {xs : List Nat} {i : Nat} (h : xs.length ≤ i) : laneOf w (packLanes w xs) i = 0 := by
  have hlt : packNat w xs < 2 ^ (w * i) :=
    (packNat_lt w xs).trans_le (Nat.pow_le_pow_right (by decide) (Nat.mul_le_mul_left w h))
  rw [laneOf, packLanes, Nat.shiftRight_eq_div_pow, Nat.div_eq_of_lt ((toNat_ofNat_le ..).trans_lt hlt), Nat.zero_mod]

-- Integer rows --------------------------------------------------------------------------------------------------------

/-- A lane operation gives what `val` says of codes of a positive width, and its result is such a code. -/
def LaneRow (op val : Nat → Nat → Nat → Nat) : Prop :=
  ∀ w a b, 0 < w → a < 2 ^ w → b < 2 ^ w → op w a b = val w a b ∧ val w a b < 2 ^ w

theorem lnMin_eq {w a b : Nat} (ha : a < 2 ^ w) (hb : b < 2 ^ w) : lnMin w a b = ofSigned w (min (toSigned w a) (toSigned w b)) := by
  rw [lnMin, min_def, apply_ite (ofSigned w), ofSigned_toSigned ha, ofSigned_toSigned hb]

theorem lnMax_eq {w a b : Nat} (ha : a < 2 ^ w) (hb : b < 2 ^ w) : lnMax w a b = ofSigned w (max (toSigned w a) (toSigned w b)) := by
  rw [lnMax, max_def, apply_ite (ofSigned w), ofSigned_toSigned ha, ofSigned_toSigned hb]

/-- An operation whose result is taken modulo the lane. -/
theorem LaneRow.wraps {op val : Nat → Nat → Nat → Nat} (h : ∀ w a b, op w a b = val w a b % 2 ^ w) :
    LaneRow op (fun w a b => val w a b % 2 ^ w) :=
  fun w a b _ _ _ => ⟨h w a b, Nat.mod_lt _ (Nat.two_pow_pos w)⟩

/-- Sums, differences and products are under the residue check; the other rows are not. -/
theorem vectorIntRows_issue : ∀ row ∈ vectorIntRows, ∃ op, LaneRow op row.2 ∧
    ∀ (c : Nat) (p : Pred) (f : FmtR), IssuesChecked (row.1 c p f) c p (viPlan c op f) := by
  simp only [vectorIntRows, List.forall_mem_cons]
  refine ⟨?_, ?_, ?_, ?_, ?_, ?_, ?_, ?_, ?_, ?_, ?_, ?_, ?_, fun _ h => absurd h List.not_mem_nil⟩
  · exact ⟨lnAdd, .wraps fun _ _ _ => rfl, fun _ _ _ => .under 3 fun _ => rfl⟩
  · exact ⟨lnSub, .wraps fun w a b => by rw [lnSub, Nat.add_comm a], fun _ _ _ => .under 3 fun _ => rfl⟩
  · exact ⟨lnAnd, fun w a b _ _ hb => ⟨rfl, Nat.and_lt_two_pow _ hb⟩, fun _ _ _ => .free fun _ => rfl⟩
  · exact ⟨lnOr, fun w a b _ ha hb => ⟨rfl, Nat.or_lt_two_pow ha hb⟩, fun _ _ _ => .free fun _ => rfl⟩
  · exact ⟨lnXor, fun w a b _ ha hb => ⟨rfl, Nat.xor_lt_two_pow ha hb⟩, fun _ _ _ => .free fun _ => rfl⟩
  · exact ⟨lnShl, .wraps fun w a b => by rw [lnShl, Nat.shiftLeft_eq], fun _ _ _ => .free fun _ => rfl⟩
  · exact ⟨lnShr, fun w a b _ ha _ => ⟨by rw [lnShr, Nat.shiftRight_eq_div_pow], (Nat.div_le_self ..).trans_lt ha⟩,
      fun _ _ _ => .free fun _ => rfl⟩
  · exact ⟨lnSra, fun w a b _ _ _ => ⟨by rw [lnSra, Nat.cast_pow, Nat.cast_ofNat], ofSigned_lt ..⟩, fun _ _ _ => .free fun _ => rfl⟩
  · exact ⟨lnMin, fun w a b _ ha hb => ⟨lnMin_eq ha hb, ofSigned_lt ..⟩, fun _ _ _ => .free fun _ => rfl⟩
  · exact ⟨lnMax, fun w a b _ ha hb => ⟨lnMax_eq ha hb, ofSigned_lt ..⟩, fun _ _ _ => .free fun _ => rfl⟩
  · exact ⟨lnMinu, fun w a b _ ha _ => ⟨rfl, (Nat.min_le_left ..).trans_lt ha⟩, fun _ _ _ => .free fun _ => rfl⟩
  · exact ⟨lnMaxu, fun w a b _ ha hb => ⟨rfl, Nat.max_lt.mpr ⟨ha, hb⟩⟩, fun _ _ _ => .free fun _ => rfl⟩
  · exact ⟨lnMul, .wraps fun _ _ _ => rfl, fun _ _ _ => .under 3 fun _ => rfl⟩

theorem viPlan_acts {c : Nat} {op : Nat → Nat → Nat → Nat} {f : FmtR} {s : State} {k : Core} {w ra rb rd : Nat}
    (hw : intLane f.ty = some w) (ha : vReg f.ra = some ra) (hb : vReg f.rb = some rb) (hd : vReg f.rd = some rd) :
    ActsOnCore (viPlan c op f s k) c (nVIU 1) (fun n x => addWb x (n + 2) (.v rd)
      (packLanes w ((List.range (512 / w)).map fun i => op w (laneOf w (vGet k ra) i) (laneOf w (vGet k rb) i))).toNat) := by
  simp only [viPlan, hw, ha, hb, hd, reading_acts]
  exact onCore_acts ..

/-- Settles O7: each row issues the plan of its lane operation, whose results are codes of the lane. -/
theorem vectorIntegerRowsWorkByLane : Obligations.VectorIntegerRowsWorkByLane := by
  intro row hrow s c p f w ra rb rd hw ha hb hd hf hv
  obtain ⟨op, hop, hissue⟩ := vectorIntRows_issue row hrow
  refine ⟨_, fun i hi => ?_, (hissue c p f).next hf hv (viPlan_acts hw ha hb hd)⟩
  have hlane : 0 < w := Nat.pos_of_ne_zero (by rintro rfl; simp at hi)
  obtain ⟨heq, hlt⟩ := hop w _ _ hlane (laneOf_lt w (vGet (coreOf s c) ra) i) (laneOf_lt w (vGet (coreOf s c) rb) i)
  rw [laneOf_packLanes_fits hi (heq ▸ hlt), heq]

-- Comparisons and moves -----------------------------------------------------------------------------------------------

/-- A lane of VFCMP: all ones or all zeros, with the comparison's flags (05 R143). -/
def compareLane (fmt : FpFmt) (cond : FCond) (w : Nat) (x y : VWord) (i : Nat) : Nat × FFlags :=
  let r := fpCompare fmt cond (laneOf w x i) (laneOf w y i)
  (if r.1 then 2 ^ w - 1 else 0, r.2)

theorem compareLane_lt (fmt : FpFmt) (cond : FCond) (w : Nat) (x y : VWord) (i : Nat) :
    (compareLane fmt cond w x y i).1 < 2 ^ w := by
  have := Nat.two_pow_pos w
  simp only [compareLane]
  split <;> omega

section Acts
variable {c : Nat} {f : FmtR} {s : State} {k : Core} {w ra rb rc rd d x : Nat}

theorem planVfcmp_acts {fmt : FpFmt} {cond : FCond} {narrow : Bool}
    (hf : wideFmt f.ty = some (fmt, w) ∧ narrow = false ∨ narrowFmt f.ty = some (fmt, w) ∧ narrow = true)
    (hc : fcondOf f.fn.toNat = some cond) (hr : (rmOf k f.rm).isSome = true) (ha : vReg f.ra = some ra)
    (hb : vReg f.rb = some rb) (hd : vReg f.rd = some rd) :
    let r := packRes w ((List.range (512 / w)).map (compareLane fmt cond w (vGet k ra) (vGet k rb)))
    ActsOnCore (planVfcmp c f s k) c (vfNeed false narrow w) (fun n x =>
      addWb (raiseFp x r.2) (n + vfT false narrow w) (.v rd) r.1.toNat) := by
  obtain ⟨rm, hr⟩ := Option.isSome_iff_exists.mp hr
  obtain ⟨hw, rfl⟩ | ⟨hn, rfl⟩ := hf
  · simp only [planVfcmp, hw, hc, hr, ha, hb, hd, reading_acts]
    exact onCore_acts ..
  · simp only [planVfcmp, wideFmt_of_narrowFmt hn, hn, hc, hr, ha, hb, hd, reading_acts]
    exact onCore_acts ..

theorem planVperm_acts (hf : f.fn = 0) (hw : anyLane f.ty = some w) (ha : vReg f.ra = some ra) (hb : vReg f.rb = some rb)
    (hd : vReg f.rd = some rd) :
    ActsOnCore (planVperm c f s k) c (nVIU 1) (fun n x => addWb x (n + 2) (.v rd)
      (packLanes w ((List.range (512 / w)).map fun i => laneOf w (vGet k ra) (laneOf w (vGet k rb) i % (512 / w)))).toNat) := by
  simp only [planVperm, zeroFn, hf, if_true, hw, ha, hb, hd, reading_acts]
  exact onCore_acts ..

/-- VSEL reads vA and vB as its effect is taken, which is as they stood at issue. -/
theorem planVsel_acts (hf : f.fn = 0) (ha : vReg f.ra = some ra) (hb : vReg f.rb = some rb) (hc : vReg f.rc = some rc)
    (hd : vReg f.rd = some rd) :
    ActsOnCore (planVsel c f s k) c (nVIU 1) (fun n x => addWb x (n + 2) (.v rd)
      ((vGet x ra &&& vGet k rc) ||| (vGet x rb &&& ~~~ vGet k rc)).toNat) := by
  simp only [planVsel, zeroFn, hf, if_true, ha, hb, hc, hd, reading_acts]
  exact onCore_acts ..

theorem planVbcast_acts (hf : f.fn = 0) (hw : anyLane f.ty = some w) (hx : scalarSrc k w f.ra = some x)
    (hd : vReg f.rd = some rd) :
    ActsOnCore (planVbcast c f s k) c (nVIU 1) (fun n y => addWb y (n + 2) (.v rd)
      (packLanes w (List.replicate (512 / w) x)).toNat) := by
  simp only [planVbcast, zeroFn, hf, if_true, hw, hx, hd, reading_acts]
  exact onCore_acts ..

theorem planVext_acts {ty : Ty} (hf : f.fn = 0) (ht : tyOf f.ty = some ty) (hw : anyLane f.ty = some w)
    (ha : vReg f.ra = some ra) (hb : sReg f.rb = some rb) (hd : scalarDst w f.rd = some d) :
    ActsOnCore (planVext c f s k) c (nVIU 1) (fun n y => putScalar w y (n + 2) d
      (extendTo32 ty (laneOf w (vGet k ra) ((sGet k rb).toNat % (512 / w))))) := by
  simp only [planVext, zeroFn, hf, if_true, ht, hw, ha, hb, hd, reading_acts]
  exact onCore_acts ..

/-- No code names both a scalar and a vector receive register (05 R136). -/
theorem rxReg_of_vrxReg {b : BitVec 6} {r : Nat} (h : vrxReg b = some r) : rxReg b = none := by
  simp only [vrxReg, rxReg, Option.ite_none_right_eq_some, ite_eq_right_iff] at h ⊢
  omega

theorem planMovrx_acts_pair {r : Fin 8} (hf : f.fn = 0) (ha : rxReg f.ra = some r.val) (hd : sPair f.rd = some d) :
    ActsOnCore (planMovrx c f s k) c (nVIU 1) (fun n x => addPair x (n + 1) d k.rx[r].toNat) := by
  simp only [planMovrx, zeroFn, hf, if_true, ha, hd, reading_acts]
  simpa using onCore_acts ..

theorem planMovrx_acts_vector {r : Fin 4} (hf : f.fn = 0) (ha : vrxReg f.ra = some r.val) (hd : vReg f.rd = some d) :
    ActsOnCore (planMovrx c f s k) c (nVIU 1) (fun n x => addWb x (n + 1) (.v d) k.vrx[r].toNat) := by
  simp only [planMovrx, zeroFn, hf, if_true, rxReg_of_vrxReg ha, ha, hd, reading_acts]
  simpa using onCore_acts ..

-- Conversions

/-- A lane of VCVT with its flags (05 R481). -/
def convertLane (src dst : Ty) (rm : Rm) (sat : Bool) (v : VWord) (i : Nat) : Nat × FFlags :=
  (cvtTy src dst rm sat (laneOf (tyWidth src) v i)).getD (0, 0)

section Convert
variable {src dst : Ty} {rm : Rm} (ht : tyOf f.ty = some dst) (hn : tyOfCode (f.fn.toNat % 32) = some src)
  (hr : rmOf k f.rm = some rm) (hs : tyWidth src ≠ 0) (hw : tyWidth dst ≠ 0) (ha : vReg f.ra = some ra)
include ht hn hr hs hw ha

theorem planVcvt_acts_wider (hlt : tyWidth src < tyWidth dst) (hd : vPair f.rd = some rd) :
    let rs := (List.range (1024 / tyWidth dst)).map (convertLane src dst rm f.sat (vGet k ra))
    let lo := packRes (tyWidth dst) (rs.take (512 / tyWidth dst))
    let hi := packRes (tyWidth dst) (rs.drop (512 / tyWidth dst))
    ActsOnCore (planVcvt c f s k) c (nVIU 2) (fun n x =>
      addWb (addWb (raiseFp x (lo.2 ||| hi.2)) (n + 5) (.v rd) lo.1.toNat) (n + 5) (.v (rd + 1)) hi.1.toNat) := by
  simp only [planVcvt, ht, hn, hr, hs, hw, or_self, if_false, ha, hlt, if_true, hd, reading_acts]
  exact onCore_acts ..

theorem planVcvt_acts_narrower (hle : tyWidth dst ≤ tyWidth src) (hd : vReg f.rd = some rd) :
    let r := packRes (tyWidth dst) ((List.range (512 / tyWidth src)).map (convertLane src dst rm f.sat (vGet k ra)))
    ActsOnCore (planVcvt c f s k) c (nVIU 2) (fun n x => addWb (raiseFp x r.2) (n + 5) (.v rd) r.1.toNat) := by
  simp only [planVcvt, ht, hn, hr, hs, hw, or_self, if_false, ha, Nat.not_lt.mpr hle, hd, reading_acts]
  exact onCore_acts ..

end Convert
end Acts

/-- A register of the width of two holds twice the lanes (02 R35). -/
theorem lanes_double {t : Ty} (h : tyWidth t ≠ 0) : 1024 / tyWidth t = 512 / tyWidth t + 512 / tyWidth t := by
  revert h
  cases t <;> decide

theorem take_map_range {α : Type} (g : Nat → α) (n m : Nat) : ((List.range (n + m)).map g).take n = (List.range n).map g := by
  rw [← List.map_take, List.take_range, Nat.min_eq_left (Nat.le_add_right n m)]

theorem drop_map_range {α : Type} (g : Nat → α) (n m : Nat) :
    ((List.range (n + m)).map g).drop n = (List.range m).map (fun i => g (n + i)) := by
  rw [List.range_add, List.map_append, List.drop_left' (by simp), List.map_map]
  rfl

theorem laneOf_packRes_map {w n i : Nat} (g : Nat → Nat × FFlags) (hi : i < n) (hw : w * n ≤ 512) :
    laneOf w (packRes w ((List.range n).map g)).1 i = (g i).1 % 2 ^ w := by
  rw [packRes, List.map_map, laneOf_packLanes_map _ hi hw, Function.comp_apply]

theorem flags_packRes_map {w n b : Nat} (g : Nat → Nat × FFlags) :
    (packRes w ((List.range n).map g)).2.getLsbD b = true ↔ ∃ i < n, (g i).2.getLsbD b = true := by
  simp [packRes, getLsbD_orFlags]

/-- Settles O8: each row issues its plan; the lanes of its result are read back from what it packed. -/
theorem vectorComparesMovesAndConversionsComplete : Obligations.VectorComparesMovesAndConversionsComplete := by
  refine ⟨?_, ?_, ?_, ?_, ?_, ?_, ?_⟩
  case refine_1 =>
    intro s c p f fmt w ra rb rd cond narrow hty hc hr ha hb hd hf hv at_
    refine ⟨_, _, fun i hi => ?_, fun b _ => flags_packRes_map _, issue_acts hf hv (planVfcmp_acts hty hc hr ha hb hd)⟩
    rw [laneOf_packRes_map _ hi (Nat.mul_div_le 512 w), Nat.mod_eq_of_lt (compareLane_lt ..)]
    rfl
  case refine_2 =>
    intro s c p f w ra rb rd hf hv hfn hw ha hb hd
    exact ⟨_, fun i hi => laneOf_packLanes_fits hi (laneOf_lt ..), issue_acts hf hv (planVperm_acts hfn hw ha hb hd)⟩
  case refine_3 =>
    intro s c p f ra rb rc rd hf hv hfn ha hb hc hd
    refine ⟨(vGet (coreOf s c) ra &&& vGet (coreOf s c) rc) ||| (vGet (coreOf s c) rb &&& ~~~ vGet (coreOf s c) rc),
      fun i hi => ?_, (issue_acts hf hv (planVsel_acts hfn ha hb hc hd)).trans (congrArg _ (afterIssue_congr rfl))⟩
    simp only [BitVec.getLsbD_or, BitVec.getLsbD_and, BitVec.getLsbD_not, hi, decide_true, Bool.true_and]
    cases (vGet (coreOf s c) rc).getLsbD i <;> simp
  case refine_4 =>
    intro s c p f w x rd hf hv hfn hw hx hd
    refine ⟨_, fun i hi => ?_, issue_acts hf hv (planVbcast_acts hfn hw hx hd)⟩
    rw [laneOf_packLanes _ _ _ (by simpa using hi) (by simpa using Nat.mul_div_le 512 w), List.getElem_replicate]
  case refine_5 =>
    intro s c p f ty w ra rb d hf hv hfn hty hw ha hb hd
    exact issue_acts hf hv (planVext_acts hfn hty hw ha hb hd)
  case refine_6 =>
    intro s c p f d hf hv hfn
    exact ⟨fun r ha hd => issue_acts hf hv (planMovrx_acts_pair hfn ha hd),
      fun r ha hd => issue_acts hf hv (planMovrx_acts_vector hfn ha hd)⟩
  case refine_7 =>
    intro s c p f src dst rm ra hdst hsrc hrm hs hw ha hf hv ws wt cv
    refine ⟨fun rd hlt hd => ?_, fun rd hle hd => ?_⟩
    · refine ⟨_, _, _, fun i hi => ?_, issue_acts hf hv (planVcvt_acts_wider hdst hsrc hrm hs hw ha hlt hd)⟩
      rw [lanes_double hw, take_map_range, drop_map_range, laneOf_packRes_map _ hi (Nat.mul_div_le 512 _),
        laneOf_packRes_map _ hi (Nat.mul_div_le 512 _)]
      exact ⟨rfl, rfl⟩
    · refine ⟨_, _, fun i hi => ?_, issue_acts hf hv (planVcvt_acts_narrower hdst hsrc hrm hs hw ha hle hd)⟩
      split
      case isTrue hin =>
        rw [laneOf_packRes_map _ hin ((Nat.mul_le_mul_right _ hle).trans (Nat.mul_div_le 512 _))]
        rfl
      case isFalse hout => exact laneOf_packLanes_above (by simpa using Nat.not_lt.mp hout)

end Sys2Proof.Machine
end

section
/-! SUPPORT. The stream rows: what MSET, MSCALE and MALDA do to a stream and the A latch (05 R146, R148). -/
namespace Sys2Proof.Machine
open Sys2Proof.Safety Sys2Proof.Claims

section Acts
variable {c m : Nat} {s : State} {k : Core} {ra : Nat}

theorem streamNo_of_lt (h : m < 4) : streamNo m = some m := if_pos h

theorem planMset_acts {f : FmtI} {a : Nat} (hr : sReg f.ra = some ra) (hm : streamNo f.fn.toNat = some m)
    (ha : formAddr k ra f.imm = a) (hal : a % 32 = 0) (hin : a + 32 ≤ 0xC000) (hu : ungated k a 32 = [])
    (hok : streamDescFaults (memRead k.ls a 32) = []) (ho : k.sparseOut = false) :
    ActsOnCore (planMset c f s k) c nLSP (fun _ x => setStream x m (streamOfDesc (stream x m) (memRead k.ls a 32))) := by
  simp only [planMset, hr, hm, ha, reading_acts]
  exact onCore_acts_clash (by rw [lsFaults_nil hal hin, hu, hok]; rfl) ho

theorem planMscale_acts {f : FmtR} (hr : vReg f.ra = some ra) (hm : streamNo f.fn.toNat = some m) :
    ActsOnCore (planMscale c f s k) c (nVIU 1) (fun _ x => setStream x m { stream x m with scales := vGet k ra, scalePos := 0 }) := by
  simp only [planMscale, hr, hm, reading_acts]
  exact onCore_acts ..

theorem planMalda_acts {f : FmtI} {els : List (Nat × Nat)} {st' : Stream} {reads : Bool} (hm : streamNo f.fn.toNat = some m)
    (ht : takeOf k m (latchElems ((classOfTy (stream k m).ty).getD .f64)) = (some (els, st', reads), []))
    (ho : k.sparseOut = false) :
    ActsOnCore (planMalda c f s k) c nLSP (fun _ x =>
      { setStream x m st' with aLatch := some ⟨(stream k m).ty, els, (stream k m).t⟩ }) := by
  simp only [planMalda, hm, ht, reading_acts]
  exact onCore_acts_clash rfl ho

end Acts

/-- A descriptor without faults names a type (05 R146). -/
theorem type_of_streamDescFaults {d : List Byte} (h : streamDescFaults d = []) : ∃ ty, tyOfCode (fieldLE d 4 1) = some ty := by
  cases ht : tyOfCode (fieldLE d 4 1) with
  | some ty => exact ⟨ty, rfl⟩
  | none => simp [streamDescFaults, ht] at h

theorem streamOfDesc_typed {d : List Byte} {ty : Ty} (h : tyOfCode (fieldLE d 4 1) = some ty) (old : Stream) :
    streamOfDesc old d =
      ⟨true, fieldLE d 0 2, fieldLE d 2 2, ty, fieldLE d 8 4, fieldLE d 12 4, 0, old.scales, 0, []⟩ := by
  simp only [streamOfDesc, h, Option.getD_some]

/-- Settles O14: each row issues its plan, which writes one stream, MALDA the latch too. -/
theorem streamRowsComplete : Obligations.StreamRowsComplete := by
  refine ⟨?_, ?_, ?_⟩
  · rintro s c p f ra m hr rfl hm a d hal hin hu hok ho hf hv
    obtain ⟨ty, hty⟩ := type_of_streamDescFaults hok
    have h := (IssuesChecked.under (i := .mset c p f) 3 fun _ => rfl).next hf hv
      (planMset_acts hr (streamNo_of_lt hm) (formAddr_sound hf.sound ra f.imm) hal hin hu hok ho)
    exact ⟨ty, hty, h.trans (congrArg _ (afterIssue_congr (congrArg _ (streamOfDesc_typed hty _))))⟩
  · rintro s c p f ra m hr rfl hm hf hv
    exact issue_acts hf hv (planMscale_acts hr (streamNo_of_lt hm))
  · rintro s c p f m els st' reads rfl hm st ht ho hf hv
    exact issue_acts hf hv (planMalda_acts (streamNo_of_lt hm) ht ho)

end Sys2Proof.Machine
end

section
/-! SUPPORT. Instructions that are predicated off: what is left of a plan when its core does not execute it (05 R134, R156; 06 R158). -/
namespace Sys2Proof.Machine
open Sys2Proof.Safety Sys2Proof.Claims

-- One plan ------------------------------------------------------------------------------------------------------------

/-- Without the faults of its effect an instruction meets none, an illegal word, or a schedule fault. -/
theorem lowestCode_off (k : Core) (n : Nat) (pl : Plan) :
    lowestCode (planFaults k n false pl) = 0x01 ∨ lowestCode (planFaults k n false pl) = 0x02 ∨
      lowestCode (planFaults k n false pl) = 0 ∧ pl.illegal = false := by
  cases hi : pl.illegal <;> by_cases hc : pl.clash || pl.needs.any (needClash k n) <;> simp [planFaults, hi, hc, lowestCode]

/-- What a core answers to an instruction it does not execute: it retires with the occupancy of its needs and the effect `g`, or
faults for an illegal word or the schedule. -/
def AnswersOff (o : Out) (s : State) (c : Nat) (g : Core → Core) : Prop :=
  (∃ needs, o = .next (afterIssue s c needs g)) ∨
    ∃ code, (code = 0x01 ∨ code = 0x02) ∧ o = .next (coreFault (spent s c) c code (coreOf s c).pc s.plane.cyc)

/-- A plan that is predicated off keeps the part of its effect that does not depend on the predicate. -/
theorem issue_off {s : State} {c : Nat} {p : Pred} {plan : State → Core → Plan} {g : Core → Core} (h : Ready s c)
    (he : executes (coreOf s c) p = false)
    (hg : (plan s (coreOf s c)).illegal = false → (plan s (coreOf s c)).always = g) : AnswersOff (issue c p plan s) s c g := by
  rcases lowestCode_off (coreOf s c) s.plane.cyc (plan s (coreOf s c)) with h1 | h2 | ⟨h0, hi⟩
  · exact .inr ⟨0x01, .inl rfl, issue_faults h (by decide) (he ▸ h1)⟩
  · exact .inr ⟨0x02, .inr rfl, issue_faults h (by decide) (he ▸ h2)⟩
  · refine .inl ⟨(plan s (coreOf s c)).needs, ?_⟩
    simp [issue_clean h (he ▸ h0), he, hg hi, afterIssue]

-- The plans -----------------------------------------------------------------------------------------------------------

/-- Predicated off, the plan does nothing to its core. -/
def Quiet (pl : Plan) : Prop := pl.always = id

@[simp] theorem quiet_bad : Quiet Plan.bad := rfl
@[simp] theorem quiet_onCore (c : Nat) (needs : List Need) (f : Nat → Core → Core) (faults : List Nat) :
    Quiet (onCore c needs f faults) := rfl
@[simp] theorem quiet_onCore_clash (c : Nat) (needs : List Need) (f : Nat → Core → Core) (faults : List Nat) (b : Bool) :
    Quiet { onCore c needs f faults with clash := b } := rfl
@[simp] theorem quiet_reading (rs : List (Nat × List Nat)) (pl : Plan) : Quiet (.reading rs pl) ↔ Quiet pl := Iff.rfl
@[simp] theorem quiet_residue (m : Nat) (plan : State → Core → Plan) (s : State) (k : Core) :
    Quiet (residue m plan s k) ↔ Quiet (plan s k) := Iff.rfl

section Plans
variable (c : Nat) (s : State) (k : Core)

@[simp] theorem quiet_aluRR (t : Nat) (op : Word → Word → Word) (f : FmtR) : Quiet (aluRR c t op f s k) := by
  simp only [aluRR]; (repeat' split) <;> exact rfl
@[simp] theorem quiet_aluRI (op : Word → Word → Word) (f : FmtI) : Quiet (aluRI c op f s k) := by
  simp only [aluRI]; (repeat' split) <;> exact rfl
@[simp] theorem quiet_predRR (op : Bool → Bool → Bool) (f : FmtR) : Quiet (predRR c op f s k) := by
  simp only [predRR]; (repeat' split) <;> exact rfl
@[simp] theorem quiet_fpPlan (ar : Nat) (dv : Bool) (op : FpOp) (f : FmtR) : Quiet (fpPlan c ar dv op f s k) := by
  simp only [fpPlan]; (repeat' split) <;> exact rfl
@[simp] theorem quiet_vfPlan (ar : Nat) (dv nar : Bool) (op : FpOp) (f : FmtR) : Quiet (vfPlan c ar dv nar op f s k) := by
  simp only [vfPlan]; (repeat' split) <;> exact rfl
@[simp] theorem quiet_viPlan (op : Nat → Nat → Nat → Nat) (f : FmtR) : Quiet (viPlan c op f s k) := by
  simp only [viPlan]; (repeat' split) <;> exact rfl

section FormatR
variable (f : FmtR)

@[simp] theorem quiet_planIcmp : Quiet (planIcmp c f s k) := by simp only [planIcmp]; (repeat' split) <;> exact rfl
@[simp] theorem quiet_planPnot : Quiet (planPnot c f s k) := by simp only [planPnot]; (repeat' split) <;> exact rfl
@[simp] theorem quiet_planFcmp : Quiet (planFcmp c f s k) := by simp only [planFcmp]; (repeat' split) <;> exact rfl
@[simp] theorem quiet_planFcvt : Quiet (planFcvt c f s k) := by simp only [planFcvt]; (repeat' split) <;> exact rfl
@[simp] theorem quiet_planVfcmp : Quiet (planVfcmp c f s k) := by simp only [planVfcmp]; (repeat' split) <;> exact rfl
@[simp] theorem quiet_planVcvt : Quiet (planVcvt c f s k) := by simp only [planVcvt]; (repeat' split) <;> exact rfl
@[simp] theorem quiet_planVqmx : Quiet (planVqmx c f s k) := by simp only [planVqmx]; (repeat' split) <;> exact rfl
@[simp] theorem quiet_planVdqmx : Quiet (planVdqmx c f s k) := by simp only [planVdqmx]; (repeat' split) <;> exact rfl
@[simp] theorem quiet_planVqeb4 : Quiet (planVqeb4 c f s k) := by simp only [planVqeb4]; (repeat' split) <;> exact rfl
@[simp] theorem quiet_planVdqeb4 : Quiet (planVdqeb4 c f s k) := by simp only [planVdqeb4]; (repeat' split) <;> exact rfl
@[simp] theorem quiet_planVperm : Quiet (planVperm c f s k) := by simp only [planVperm]; (repeat' split) <;> exact rfl
@[simp] theorem quiet_planVsel : Quiet (planVsel c f s k) := by simp only [planVsel]; (repeat' split) <;> exact rfl
@[simp] theorem quiet_planVbcast : Quiet (planVbcast c f s k) := by simp only [planVbcast]; (repeat' split) <;> exact rfl
@[simp] theorem quiet_planVext : Quiet (planVext c f s k) := by simp only [planVext]; (repeat' split) <;> exact rfl
@[simp] theorem quiet_planMovrx : Quiet (planMovrx c f s k) := by simp only [planMovrx]; (repeat' split) <;> exact rfl
@[simp] theorem quiet_planMscale : Quiet (planMscale c f s k) := by simp only [planMscale]; (repeat' split) <;> exact rfl

end FormatR

section FormatI
variable (f : FmtI)

@[simp] theorem quiet_planLi : Quiet (planLi c f s k) := by simp only [planLi]; (repeat' split) <;> exact rfl
@[simp] theorem quiet_planCsrr : Quiet (planCsrr c f s k) := by simp only [planCsrr]; (repeat' split) <;> exact rfl
@[simp] theorem quiet_planCsrw : Quiet (planCsrw c f s k) := by simp only [planCsrw]; (repeat' split) <;> exact rfl
@[simp] theorem quiet_planRdid : Quiet (planRdid c f s k) := by simp only [planRdid]; (repeat' split) <;> exact rfl
@[simp] theorem quiet_planLd : Quiet (planLd c f s k) := by simp only [planLd]; (repeat' split) <;> exact rfl
@[simp] theorem quiet_planSt : Quiet (planSt c f s k) := by simp only [planSt]; (repeat' split) <;> exact rfl
@[simp] theorem quiet_planSld : Quiet (planSld c f s k) := by simp only [planSld]; (repeat' split) <;> exact rfl
@[simp] theorem quiet_planSst : Quiet (planSst c f s k) := by simp only [planSst]; (repeat' split) <;> exact rfl
@[simp] theorem quiet_planIfill : Quiet (planIfill c f s k) := by simp only [planIfill]; (repeat' split) <;> exact rfl
@[simp] theorem quiet_planSmsend : Quiet (planSmsend c f s k) := by simp only [planSmsend]; (repeat' split) <;> exact rfl
@[simp] theorem quiet_planSmsendv : Quiet (planSmsendv c f s k) := by simp only [planSmsendv]; (repeat' split) <;> exact rfl
@[simp] theorem quiet_planOutpost : Quiet (planOutpost c f s k) := by simp only [planOutpost]; (repeat' split) <;> exact rfl
@[simp] theorem quiet_planLbarm : Quiet (planLbarm c f s k) := by simp only [planLbarm]; (repeat' split) <;> exact rfl
@[simp] theorem quiet_planMset : Quiet (planMset c f s k) := by simp only [planMset]; (repeat' split) <;> exact rfl
@[simp] theorem quiet_planMalda : Quiet (planMalda c f s k) := by simp only [planMalda]; (repeat' split) <;> exact rfl
@[simp] theorem quiet_planSpmerge : Quiet (planSpmerge c f s k) := by simp only [planSpmerge]; (repeat' split) <;> exact rfl

end FormatI

section FormatC
variable (f : FmtC)

@[simp] theorem quiet_planBr : Quiet (planBr c f s k) := rfl
@[simp] theorem quiet_planGate : Quiet (planGate c f s k) := rfl
@[simp] theorem quiet_planCapo : Quiet (planCapo c s k) := rfl
@[simp] theorem quiet_planSpjoin : Quiet (planSpjoin c s k) := rfl
@[simp] theorem quiet_planHalt : Quiet (planHalt c s k) := rfl
@[simp] theorem quiet_planStepend : Quiet (planStepend c s k) := rfl
@[simp] theorem quiet_planBrr : Quiet (planBrr c f s k) := by simp only [planBrr]; (repeat' split) <;> exact rfl

end FormatC

@[simp] theorem quiet_planMma (f : FmtM) : Quiet (planMma c f s k) := by
  simp only [planMma]; (repeat' split) <;> exact rfl

section FormatA
variable (f : FmtA)

@[simp] theorem quiet_planAccinit : Quiet (planAccinit c f s k) := by simp only [planAccinit]; (repeat' split) <;> exact rfl
@[simp] theorem quiet_planAccld : Quiet (planAccld c f s k) := by simp only [planAccld]; (repeat' split) <;> exact rfl
@[simp] theorem quiet_planDrain : Quiet (planDrain c f s k) := by simp only [planDrain]; (repeat' split) <;> exact rfl
@[simp] theorem quiet_planAccrd : Quiet (planAccrd c f s k) := by simp only [planAccrd]; (repeat' split) <;> exact rfl

end FormatA

section FormatX
variable (f : FmtX)

theorem quiet_planFused (kind : Nat) (own : Core → CollDesc → Option (Course × Nat) → List Nat)
    (needs : Core → CollDesc → Nat → List Need) (eff : Nat → CollAt → State → State)
    (reads : Core → CollDesc → Nat → List (Nat × List Nat)) : Quiet (planFused c f kind own needs eff reads s k) := by
  simp only [planFused]; split <;> exact rfl
@[simp] theorem quiet_planMmAg : Quiet (planMmAg c f s k) := quiet_planFused ..
@[simp] theorem quiet_planMmRs : Quiet (planMmRs c f s k) := quiet_planFused ..
@[simp] theorem quiet_planAccAr : Quiet (planAccAr c f s k) := quiet_planFused ..
@[simp] theorem quiet_planXchV : Quiet (planXchV c f s k) := quiet_planFused ..
@[simp] theorem quiet_planGthV : Quiet (planGthV c f s k) := quiet_planFused ..

end FormatX

/-- A sparse-unit instruction is outstanding from its issue on, predicated off or not (06 R158, R160). -/
theorem always_planSparse (op : Nat) (check : List Byte → List Nat) (f : FmtI) : (planSparse c op check f s k).illegal = true ∨
    (planSparse c op check f s k).always = fun x => { x with sparseOut := true, sparseAt := s.plane.cyc } := by
  unfold planSparse
  split
  case h_1 => exact .inl rfl
  case h_2 =>
    split
    · exact .inl rfl
    · exact .inr rfl

end Plans

-- Rows ----------------------------------------------------------------------------------------------------------------

section Rows
variable {i : Instr} {s : State} {c : Nat} {p : Pred} {plan : State → Core → Plan}

theorem exec_off_quiet (hx : exec i s = issue c p plan s) (h : Ready s c) (he : executes (coreOf s c) p = false)
    (hq : Quiet (plan s (coreOf s c))) : AnswersOff (exec i s) s c id :=
  hx ▸ issue_off h he fun _ => hq

/-- Predicated off, STEPEND issues as any other row (05 R134, R152). -/
theorem execStepend_off {f : FmtC} (h : Ready s c) (he : executes (coreOf s c) p = false) :
    exec (.stepend c p f) s = issue c p (planStepend c) s := by
  show execStepend c p f s = _
  simp only [execStepend, issue, openIssue_ready h, he]

/-- A row of the sparse unit. -/
theorem exec_off_sparse {op : Nat} {check : List Byte → List Nat} {f : FmtI} (hx : exec i s = issue c p (planSparse c op check f) s)
    (h : Ready s c) (he : executes (coreOf s c) p = false) :
    AnswersOff (exec i s) s c (fun k => { k with sparseOut := true, sparseAt := s.plane.cyc }) :=
  hx ▸ issue_off h he fun hi => (always_planSparse ..).resolve_left (by rw [hi]; decide)

end Rows

/-- Settles O52: every row issues a plan that is quiet when predicated off, but for those of the sparse unit. -/
theorem predicatedOffChangesNothing : Obligations.PredicatedOffChangesNothing := by
  intro i c p s hi h he
  show AnswersOff (exec i s) s c _
  cases i
  case stepend => cases hi; exact exec_off_quiet (execStepend_off h he) h he (quiet_planStepend ..)
  case spdot => cases hi; exact exec_off_sparse rfl h he
  case spcompress => cases hi; exact exec_off_sparse rfl h he
  case spbin => cases hi; exact exec_off_sparse rfl h he
  case spmask => cases hi; exact exec_off_sparse rfl h he
  all_goals cases hi <;> exact exec_off_quiet rfl h he (by simp)

end Sys2Proof.Machine
end

section
/-! SUPPORT. The fused rows: what a post, the start of a collective and the start of the sequencer leave of their core (05 R154, R155;
11 R286, R288). -/
namespace Sys2Proof.Machine
open Sys2Proof.Safety Sys2Proof.Claims

-- Effects on one core ---------------------------------------------------------------------------------------------------

/-- From `s` to `t`, in one issue cycle, core `c` goes to `g` of itself, and every other core stays. -/
structure Moves (s t : State) (c : Nat) (g : Core → Core) : Prop where
  cyc : t.plane.cyc = s.plane.cyc
  own : coreOf t c = g (coreOf s c)
  others : ∀ b, b ≠ c → coreOf t b = coreOf s b

theorem Moves.modCore (s : State) (c : Nat) (g : Core → Core) : Moves s (modCore s c g) c g :=
  ⟨rfl, core_modCore_same .., fun _ h => core_modCore_ne s g h⟩

theorem Moves.trans {s t u : State} {c : Nat} {g h : Core → Core} (hg : Moves s t c g) (hh : Moves t u c h) :
    Moves s u c (fun k => h (g k)) :=
  ⟨hh.cyc.trans hg.cyc, by rw [hh.own, hg.own], fun b hb => (hh.others b hb).trans (hg.others b hb)⟩

theorem afterIssue_moves (s : State) (c : Nat) (needs : List Need) :
    Moves s (afterIssue s c needs id) c (fun k => retire k s.plane.cyc needs) :=
  ⟨rfl, core_setCore_same .., fun _ h => core_setCore_ne _ _ h⟩

/-- The comparison with what partners' frames have shown changes no core (11 R288). -/
theorem checkArrived_moves (s : State) (c : Nat) (p : CollPost) : Moves s (checkArrived s c p) c id := by
  simp only [checkArrived]
  split
  · have h := fun u => recordTile_records u (tileOf c) 0x18
    exact ⟨by rw [h]; rfl, (h _).core c, fun b _ => (h _).core b⟩
  · exact ⟨rfl, rfl, fun _ _ => rfl⟩

/-- A collective begins: its ordinal is used up, and the post is known (11 R286). -/
def begun (p : CollPost) (k : Core) : Core := { k with collOrd := smSet 0 k.collOrd p.ct (p.seq + 1), fused := k.fused ++ [p] }

theorem beginColl_moves (s : State) (c : Nat) (p : CollPost) : Moves s (beginColl c p s) c (begun p) :=
  (Moves.modCore s c (begun p)).trans (checkArrived_moves ..)

/-- A post in cycle `n` of the instruction at `pc`: the outbox entry, the hold request of a full outbox, the protection of what is
sent (04 R119, R124). -/
def posted (n pc : Nat) (p : CollPost) (k : Core) : Core :=
  { k with
    outbox := k.outbox ++ [⟨n, .coll p⟩]
    gates := k.gates ++ if 8 ≤ k.outbox.length then [⟨n, pc, .outbox, false⟩] else []
    prot := k.prot ++ (p.ranges.filter (fun r => r.2 ≠ 0)).map (fun r => ⟨n + 1, r.1, r.1 + r.2⟩) }

theorem foldl_protect (n : Nat) (rs : List (Nat × Nat)) (k : Core) : rs.foldl (fun k r => protect k n r.1 r.2) k =
    { k with prot := k.prot ++ (rs.filter (fun r => r.2 ≠ 0)).map (fun r => ⟨n + 1, r.1, r.1 + r.2⟩) } := by
  induction rs generalizing k with
  | nil => simp
  | cons r rs ih =>
    rw [List.foldl_cons, ih]
    by_cases h : r.2 = 0 <;> simp [protect, h]

theorem outboxGate_eq (k : Core) (n pc : Nat) : outboxGate k n pc =
    { k with gates := k.gates ++ if 8 ≤ k.outbox.length then [⟨n, pc, .outbox, false⟩] else [] } := by
  unfold outboxGate
  split
  · rfl
  · simp

theorem postColl_eq (s : State) (c pc : Nat) (p : CollPost) : postColl c pc p s = modCore s c (posted s.plane.cyc pc p) := by
  simp only [postColl, foldl_protect, outboxGate_eq]
  rfl

/-- A core that has posted begins the collective. -/
theorem Moves.post_begin {s t : State} {c : Nat} {g : Core → Core} (h : Moves s t c g) (pc : Nat) (p : CollPost) :
    Moves s (beginColl c p (postColl c pc p t)) c (fun k => begun p (posted s.plane.cyc pc p (g k))) := by
  rw [postColl_eq, h.cyc]
  exact (h.trans (.modCore ..)).trans (beginColl_moves ..)

/-- The receive buffer of an exchange goes by counts (05 R155). -/
def countedBuf (b : Nat) (k : Core) : Core :=
  if (lbGet k b).rule = .plain then lbSet k b { lbGet k b with rule := .counted none } else k

theorem byCounts_moves (s : State) (c b : Nat) : Moves s (byCounts s c b) c (countedBuf b) := by
  unfold byCounts
  split
  case isTrue h => exact ⟨rfl, by rw [setRule, core_modCore_same, countedBuf, if_pos h], fun _ hd => core_modCore_ne _ _ hd⟩
  case isFalse h => exact ⟨rfl, by rw [countedBuf, if_neg h], fun _ _ => rfl⟩

theorem countedBuf_frame (b : Nat) (k : Core) : countedBuf b k = { k with lb := (countedBuf b k).lb } := by
  unfold countedBuf
  split <;> rfl

theorem lbGet_countedBuf_ne {b d : Nat} (h : d ≠ b) (k : Core) : lbGet (countedBuf b k) d = lbGet k d := by
  unfold countedBuf
  split
  · rw [lbGet_lbSet, if_neg h]
  · rfl

theorem rule_countedBuf (b : Nat) (k : Core) : (lbGet (countedBuf b k) b).rule ≠ .plain := by
  unfold countedBuf
  split
  · rw [lbGet_lbSet, if_pos rfl]
    simp
  · assumption

-- The row -----------------------------------------------------------------------------------------------------------------

section Row
variable {s : State} {c : Nat} {p : Pred} {f : FmtX} {ra r kind : Nat} {e : Course} {i : Instr}
  {own : Core → CollDesc → Option (Course × Nat) → List Nat} {needs : Core → CollDesc → Nat → List Need}
  {eff : Nat → CollAt → State → State} {reads : Core → CollDesc → Nat → List (Nat × List Nat)}

/-- What a fused instruction of format X finds at core `k`, on course `e` with the module at rank `r` (05 R154, 11 R286). -/
def collAt (k : Core) (f : FmtX) (ra r : Nat) (e : Course) : CollAt :=
  ⟨f.ct.toNat, collDescOf (memRead k.ls (sGet k ra + f.imm).toNat 64), e, r, smGet 0 k.collOrd f.ct.toNat⟩

theorem planFused_acts (hr : sReg f.ra = some ra) (hc : fusedCourse s c f.ct.toNat = some (e, r))
    (he : (coreOf s c).ecc = Ecc.none) (ho : (coreOf s c).sparseOut = false) :
    let x := collAt (coreOf s c) f ra r e
    fusedFaults (coreOf s c) (sGet (coreOf s c) ra + f.imm).toNat kind (some (e, r)) x.seq (own (coreOf s c) x.d) = [] →
    ActsOnState (planFused c f kind own needs eff reads s (coreOf s c)) (nLSP ++ needs (coreOf s c) x.d e.p)
      (eff (coreOf s c).pc x) := by
  intro x hok
  simp only [planFused, hr, hc, formAddr_sound he]
  exact ⟨rfl, ho, hok, rfl, rfl, rfl⟩

/-- A fused instruction whose checks pass has issued and retired, then its effect follows. -/
theorem fused_issues (hi : ∀ s, exec i s = issue c p (planFused c f kind own needs eff reads) s) (hr : sReg f.ra = some ra)
    (hc : fusedCourse s c f.ct.toNat = some (e, r)) (ho : (coreOf s c).sparseOut = false) (hf : Fires s c p) :
    let x := collAt (coreOf s c) f ra r e
    fusedFaults (coreOf s c) (sGet (coreOf s c) ra + f.imm).toNat kind (some (e, r)) x.seq (own (coreOf s c) x.d) = [] →
    Vacant s c (nLSP ++ needs (coreOf s c) x.d e.p) →
    ∃ s₁, exec i s = .next (eff (coreOf s c).pc x s₁) ∧
      Moves s s₁ c (fun k => retire k s.plane.cyc (nLSP ++ needs (coreOf s c) x.d e.p)) :=
  fun hok hv => ⟨_, (hi s).trans (issue_actsOnState hf hv (planFused_acts hr hc hf.sound ho hok)), afterIssue_moves ..⟩

end Row

-- The sequencer -----------------------------------------------------------------------------------------------------------

/-- Everything of `t` but entries, pipeline, gates and sequencer is as in `k`. -/
def SequencerOnly (k t : Core) : Prop := t = { k with acc := t.acc, mx := t.mx, gates := t.gates, seq := t.seq }

theorem SequencerOnly.refl (k : Core) : SequencerOnly k k := rfl
theorem SequencerOnly.trans {k l t : Core} (h : SequencerOnly k l) (h' : SequencerOnly l t) : SequencerOnly k t := by
  unfold SequencerOnly at h h' ⊢
  rw [h', h]
theorem SequencerOnly.foldl {α : Type} {op : Core → α → Core} (h : ∀ k x, SequencerOnly k (op k x)) (xs : List α) (k : Core) :
    SequencerOnly k (xs.foldl op k) := by
  induction xs generalizing k with
  | nil => exact .refl k
  | cons x xs ih => exact (h k x).trans (ih _)
theorem SequencerOnly.addGate (k : Core) (n pc : Nat) (kind : GateKind) : SequencerOnly k (addGate k n pc kind) := rfl

theorem enterProduct_only (k : Core) (n : Nat) (d : CollDesc) (fmt : AccFmt) (mode : AccMode) :
    SequencerOnly k (enterProduct k n d fmt mode) := by
  refine .foldl (fun k i => ?_) _ k
  simp only
  (repeat' split) <;> exact rfl

/-- `g` starts sequencer `q`, and otherwise changes only what its product uses. -/
def Starts (g : Core → Core) (q : Seq) : Prop := ∀ k, SequencerOnly k (g k) ∧ (g k).seq = some q

/-- The start of the sequencer reaches its own core only (05 R154). -/
theorem startSeq_moves {x : CollAt} {ta tb : Ty} {cl : MClass} {fmt : AccFmt} (h : fusedForm x.d = some (ta, tb, cl, fmt)) (c pc off : Nat)
    (mode : AccMode) (drains : Bool) (pieces : List (Option Nat)) (gates : List (Nat × Nat)) (post : Option CollPost) (s : State) :
    ∃ g q, Moves s (startSeq c pc x off mode drains pieces gates post s) c g ∧ Starts g q ∧
      q.start = s.plane.cyc + off ∧ q.mode = mode ∧ q.n = x.d.n ∧ q.kp = x.d.kp ∧ q.drain = drains ∧ q.pieces = pieces ∧
      q.post = post := by
  simp only [startSeq, h]
  refine ⟨_, _, Moves.modCore .., fun k => ⟨?_, rfl⟩, rfl, rfl, rfl, rfl, rfl, rfl, rfl⟩
  exact .trans (.trans (enterProduct_only ..) (.foldl (fun _ _ => .addGate ..) _ _)) rfl

theorem SequencerOnly.outbox {k t : Core} (h : SequencerOnly k t) : t.outbox = k.outbox := by rw [h]
theorem SequencerOnly.collOrd {k t : Core} (h : SequencerOnly k t) : t.collOrd = k.collOrd := by rw [h]
theorem SequencerOnly.files {k t : Core} (h : SequencerOnly k t) : t.s = k.s ∧ t.p = k.p ∧ t.v = k.v ∧ t.ls = k.ls := by
  rw [h]
  exact ⟨rfl, rfl, rfl, rfl⟩

-- The rows ------------------------------------------------------------------------------------------------------------------

/-- A product whose checks pass has a form (03 R70). -/
theorem fusedForm_of_productFaults {k : Core} {d : CollDesc} {gather : Bool} (h : productFaults k d gather = []) :
    ∃ ta tb cl fmt, fusedForm d = some (ta, tb, cl, fmt) := by
  have hform : formFaults d = [] := (List.append_eq_nil_iff.mp h).1
  unfold formFaults at hform
  split at hform
  case h_2 => cases hform
  case h_1 ta tb hta htb =>
    split at hform
    case h_1 cl fmt hcl hfmt =>
      split at hform
      case isTrue hok => exact ⟨ta, tb, cl, fmt, by simp [fusedForm, hta, htb, hcl, hfmt, hok]⟩
      case isFalse => cases hform
    case h_2 => simp at hform
    case h_3 => cases hform

/-- The checks of its own that a fused instruction passes. -/
theorem own_of_fusedFaults {k : Core} {a kind seq : Nat} {e : Option (Course × Nat)} {own : Option (Course × Nat) → List Nat}
    (h : fusedFaults k a kind e seq own = []) : own e = [] := by
  simp only [fusedFaults] at h
  split at h
  case isTrue =>
    obtain ⟨⟨-, hown⟩, -⟩ := (List.append_eq_nil_iff.mp h).imp_left List.append_eq_nil_iff.mp
    exact hown
  case isFalse hb => exact absurd (List.isEmpty_iff.mpr h) hb

-- The rows ------------------------------------------------------------------------------------------------------------------

theorem effAccAr_moves (s : State) (c pc : Nat) (x : CollAt) :
    let w := wireBytes (coreOf s c) ((tyOfCode x.d.wire).getD .fp32) (if x.d.srcacc = 4 then x.d.e0 else 64 * x.d.srcacc + x.d.e0)
      x.d.n
    let post := fusedPost x.d 3 x.ct x.seq w.1 []
    Moves s (effAccAr c pc x s) c (fun k => begun post (posted s.plane.cyc pc post (raiseFp k w.2))) :=
  (Moves.modCore s c _).post_begin pc _

theorem effXchV_moves (s : State) (c pc : Nat) (x : CollAt) :
    let post := fusedPost x.d 4 x.ct x.seq [] (sendTable (coreOf s c) x.d.slsa x.e.p)
    Moves s (effXchV c pc x s) c (fun k => begun post (posted s.plane.cyc pc post (countedBuf x.d.rlb k))) :=
  (byCounts_moves s c x.d.rlb).post_begin pc _

/-- GTH.V has a receive buffer at the root alone (05 R155). -/
def rootBuf (x : CollAt) (k : Core) : Core := if x.r = x.d.root then countedBuf x.d.rlb k else k

theorem rootBuf_frame (x : CollAt) (k : Core) : rootBuf x k = { k with lb := (rootBuf x k).lb } := by
  unfold rootBuf
  split
  · exact countedBuf_frame ..
  · rfl

theorem lbGet_rootBuf_ne {x : CollAt} {b : Nat} (h : b ≠ x.d.rlb ∨ x.r ≠ x.d.root) (k : Core) :
    lbGet (rootBuf x k) b = lbGet k b := by
  unfold rootBuf
  split
  case isTrue hroot => exact lbGet_countedBuf_ne (h.resolve_right (not_not.mpr hroot)) k
  case isFalse => rfl

theorem effGthV_moves (s : State) (c pc : Nat) (x : CollAt) :
    let post := fusedPost x.d 5 x.ct x.seq [] [(x.d.slsa, x.d.slen)]
    Moves s (effGthV c pc x s) c (fun k => begun post (posted s.plane.cyc pc post (rootBuf x k))) := by
  refine Moves.post_begin (g := rootBuf x) ?_ pc _
  unfold rootBuf
  split
  · exact byCounts_moves ..
  · exact ⟨rfl, rfl, fun _ _ => rfl⟩

/-- The core that MM.AG leaves: the sequencer's start and the post of its own piece (05 R155). -/
theorem effMmAg_moves {x : CollAt} {ta tb : Ty} {cl : MClass} {fmt : AccFmt} (h : fusedForm x.d = some (ta, tb, cl, fmt)) (s : State)
    (c pc : Nat) :
    let post := fusedPost x.d 1 x.ct x.seq [] [((stream (coreOf s c) x.d.msb).base, pieceBytes x.d tb)]
    ∃ g q, Moves s (effMmAg c pc x s) c (fun k => begun post (posted s.plane.cyc pc post (g k))) ∧ Starts g q ∧
      q.start = s.plane.cyc + 40 ∧ q.mode = .bowed ∧ q.n = x.d.n ∧ q.kp = x.d.kp ∧ q.drain = x.d.drain ∧
      q.pieces.length = x.e.p ∧ q.post = none := by
  obtain ⟨g, q, hm, hg, hstart, hmode, hn, hkp, hdrain, hpieces, hpost⟩ := startSeq_moves h c pc 40 .bowed x.d.drain
    (pieceBases (coreOf s c) x.d x.e x.r (pieceBytes x.d tb)) (pieceGates x cl s.plane.cyc) none s
  refine ⟨g, q, ?_, hg, hstart, hmode, hn, hkp, hdrain, by simp [hpieces, pieceBases], hpost⟩
  simp only [effMmAg, h]
  exact hm.post_begin pc _

/-- The core that MM.RS leaves: the sequencer posts when its run ends (05 R155). -/
theorem effMmRs_moves {x : CollAt} {ta tb : Ty} {cl : MClass} {fmt : AccFmt} (h : fusedForm x.d = some (ta, tb, cl, fmt)) (s : State)
    (c pc : Nat) :
    let post := fusedPost x.d 2 x.ct x.seq [] []
    ∃ g q, Moves s (effMmRs c pc x s) c (fun k => begun post (g k)) ∧ Starts g q ∧
      q.start = s.plane.cyc + 1 ∧ q.mode = .direct ∧ q.n = x.d.n ∧ q.kp = x.d.kp ∧ q.drain = true ∧ q.pieces = [none] ∧
      q.post = some post := by
  obtain ⟨g, q, hm, hg⟩ := startSeq_moves h c pc 1 .direct true [none] [] (some (postFields x 2)) s
  exact ⟨g, q, hm.trans (beginColl_moves ..), hg⟩

/-- Settles O16: each row issues its plan, whose effect is known by what it makes of its core. -/
theorem fusedRowsPostTheirInstance : Obligations.FusedRowsPostTheirInstance := by
  intro s c p f ra r e hr a d ct seq ok hc ho hf
  refine ⟨fun hok hv => ?_, fun hok hv => ?_, fun hok hv => ?_, fun hok hv => ?_, fun hok hv => ?_⟩
  case refine_1 =>
    intro w post
    obtain ⟨s₁, he, h₁⟩ := fused_issues (i := .accAr c p f) (fun _ => rfl) hr hc ho hf hok hv
    have m := h₁.trans (effAccAr_moves s₁ c (coreOf s c).pc (collAt (coreOf s c) f ra r e))
    rw [h₁.own, h₁.cyc] at m
    refine ⟨_, he, m.others, m.own.trans ?_⟩
    simp only [begun, posted, fusedPost, List.filter_nil, List.map_nil, List.append_nil]
    rfl
  case refine_2 =>
    intro table post
    obtain ⟨s₁, he, h₁⟩ := fused_issues (i := .xchV c p f) (fun _ => rfl) hr hc ho hf hok hv
    have m := h₁.trans (effXchV_moves s₁ c (coreOf s c).pc (collAt (coreOf s c) f ra r e))
    rw [h₁.own, h₁.cyc] at m
    refine ⟨_, he, m.others, ?_, fun b hb => ?_, ?_⟩ <;> rw [m.own]
    · simp only [begun, posted]
      rw [countedBuf_frame]
      rfl
    · exact lbGet_countedBuf_ne hb _
    · exact rule_countedBuf d.rlb _
  case refine_3 =>
    intro post
    obtain ⟨s₁, he, h₁⟩ := fused_issues (i := .gthV c p f) (fun _ => rfl) hr hc ho hf hok hv
    have m := h₁.trans (effGthV_moves s₁ c (coreOf s c).pc (collAt (coreOf s c) f ra r e))
    rw [h₁.cyc] at m
    refine ⟨_, he, m.others, ?_, fun b hb => ?_⟩ <;> rw [m.own]
    · simp only [begun, posted]
      rw [rootBuf_frame]
      rfl
    · exact lbGet_rootBuf_ne hb _
  case refine_4 =>
    obtain ⟨ta, tb, cl, fmt, hform⟩ := fusedForm_of_productFaults (List.append_eq_nil_iff.mp
      (List.append_eq_nil_iff.mp (own_of_fusedFaults hok)).1).1
    obtain ⟨s₁, he, h₁⟩ := fused_issues (i := .mmAg c p f) (fun _ => rfl) hr hc ho hf hok hv
    obtain ⟨g, q, hm, hg, hq⟩ := effMmAg_moves (x := collAt (coreOf s c) f ra r e) hform s₁ c (coreOf s c).pc
    have m := h₁.trans hm
    rw [h₁.own, h₁.cyc] at m
    rw [h₁.cyc] at hq
    obtain ⟨honly, hseq⟩ := hg (retire (coreOf s c) s.plane.cyc (nLSP ++ ⟨.obp, 0, 8⟩ :: productNeeds d e.p 40 d.drain))
    refine ⟨_, ta, tb, cl, fmt, _, he, m.others, hform, rfl, ?_⟩
    rw [m.own]
    exact ⟨congrArg (· ++ _) honly.outbox, congrArg (fun m => smSet 0 m ct (seq + 1)) honly.collOrd, ⟨q, hseq, hq⟩, honly.files⟩
  case refine_5 =>
    obtain ⟨ta, tb, cl, fmt, hform⟩ := fusedForm_of_productFaults (List.append_eq_nil_iff.mp
      (List.append_eq_nil_iff.mp (own_of_fusedFaults hok)).1).1
    obtain ⟨s₁, he, h₁⟩ := fused_issues (i := .mmRs c p f) (fun _ => rfl) hr hc ho hf hok hv
    obtain ⟨g, q, hm, hg, hq⟩ := effMmRs_moves (x := collAt (coreOf s c) f ra r e) hform s₁ c (coreOf s c).pc
    have m := h₁.trans hm
    rw [h₁.cyc] at hq
    refine ⟨_, he, m.others, ?_⟩
    rw [m.own]
    obtain ⟨honly, hseq⟩ := hg (retire (coreOf s c) s.plane.cyc (nLSP ++ (productNeeds d 1 1 true ++
      match fusedForm d with | some (_, _, cl, _) => [⟨.obp, productLen d cl 1 + 7, 8⟩] | none => [])))
    exact ⟨honly.outbox, congrArg (fun m => smSet 0 m ct (seq + 1)) honly.collOrd, ⟨q, hseq, hq⟩, honly.files⟩

end Sys2Proof.Machine
end

section
/-! SUPPORT. A halt-class fault: its record, the halt with the run's end and its interrupts, and the fault log's entry (05 R156, R157;
14 R374, R388; 17 R439). -/
namespace Sys2Proof.Machine
open Sys2Proof.Safety Sys2Proof.Claims

/-- `t` has the cores, memories, tiles and Bridges of `s`. -/
structure KeepsUnits (s t : State) : Prop where
  cores : t.cores = s.cores
  dram : t.dram = s.dram
  tiles : t.tiles = s.tiles
  bridges : t.bridges = s.bridges

namespace KeepsUnits
variable {s t u : State}

theorem refl (s : State) : KeepsUnits s s := ⟨rfl, rfl, rfl, rfl⟩
theorem trans (h : KeepsUnits s t) (h' : KeepsUnits t u) : KeepsUnits s u :=
  ⟨h'.cores.trans h.cores, h'.dram.trans h.dram, h'.tiles.trans h.tiles, h'.bridges.trans h.bridges⟩
theorem of_records (h : RecordsOnly s t) : KeepsUnits s t := ⟨by rw [h], h.dram, by rw [h], h.bridges⟩
theorem setPlane (s : State) (p : Plane) : KeepsUnits s { s with plane := p } := ⟨rfl, rfl, rfl, rfl⟩

end KeepsUnits

-- The fault log -------------------------------------------------------------------------------------------------------

/-- `t` differs from `s` in what the log of core faults takes: the registers of the fault log and above, and the plane's note of it. -/
structure LogsFaults (s t : State) : Prop extends KeepsUnits s t where
  plane : t.plane = { s.plane with logged := t.plane.logged }
  below : ∀ a < dcs SP 0x2F00, regWord t a = regWord s a

namespace LogsFaults
variable {s t u : State}

theorem refl (s : State) : LogsFaults s s := ⟨.refl s, rfl, fun _ _ => rfl⟩

theorem trans (h : LogsFaults s t) (h' : LogsFaults t u) : LogsFaults s u where
  toKeepsUnits := h.toKeepsUnits.trans h'.toKeepsUnits
  plane := by rw [h'.plane, h.plane]
  below a ha := (h'.below a ha).trans (h.below a ha)

theorem ite {c : Prop} [Decidable c] (h : LogsFaults s t) (h' : LogsFaults s u) : LogsFaults s (if c then t else u) := by
  split <;> assumption

theorem regPutNat (s : State) {a : Nat} (ha : dcs SP 0x2F00 ≤ a) (v n : Nat) : LogsFaults s (regPutNat s a v n) := by
  have h : RecordsOnly s (Machine.regPutNat s a v n) := (RecordsOnly.refl s).regPutNat ..
  exact ⟨.of_records h, by rw [h], fun b hb => regWord_regPutNat_out _ _ _ _ _ (.inl (hb.trans_le ha))⟩

theorem regSetBits (s : State) {a : Nat} (ha : dcs SP 0x2F00 ≤ a) (hi lo x : Nat) : LogsFaults s (regSetBits s a hi lo x) :=
  regPutNat s ha ..

/-- A field of a register below the log reads as before. -/
theorem regBits (h : LogsFaults s t) {a hi : Nat} (lo : Nat) (ha : a + 4 * (hi / 32 + 1) ≤ dcs SP 0x2F00) :
    regBits t a hi lo = regBits s a hi lo := by
  rw [Machine.regBits, Machine.regBits, regNat_congr a _ fun i hi' => h.below _ (by omega)]

end LogsFaults

theorem logEntry_above (i : Nat) : dcs SP 0x2F00 ≤ dcs SP (0x3000 + i * 0x10) := by
  unfold dcs
  omega

theorem logFault_logs (s : State) (die code cls detail n : Nat) : LogsFaults s (logFault s die code cls detail n) := by
  unfold logFault
  simp only
  split
  · exact .regSetBits s (logEntry_above _) ..
  · refine .ite ?_ (.regSetBits s le_rfl ..)
    exact (LogsFaults.regPutNat s (logEntry_above _) ..).trans (.regSetBits _ le_rfl ..)

theorem collectTile_logs (s : State) (t : Nat) : LogsFaults s (collectTile s t) := by
  unfold collectTile
  split
  · exact .refl s
  · split
    · exact .ite (.regPutNat s (logEntry_above _) ..) (.refl s)
    · exact .refl s
    · exact (logFault_logs ..).trans ⟨.setPlane .., rfl, fun _ _ => rfl⟩

theorem collectCoreFaults_logs (s : State) : LogsFaults s (collectCoreFaults s) :=
  foldl_keeps LogsFaults.refl (fun _ _ _ => .trans) collectTile_logs _ s

-- Interrupts ----------------------------------------------------------------------------------------------------------

theorem raiseIrq_keeps (s : State) (b : Nat) : KeepsUnits s (raiseIrq s b) := by
  obtain ⟨o, h, -⟩ := raiseIrq_eq s b
  exact ⟨by rw [h], by rw [h], by rw [h], by rw [h]⟩

theorem plane_raiseIrq (s : State) (b : Nat) : (raiseIrq s b).plane = s.plane := by
  obtain ⟨o, h, -⟩ := raiseIrq_eq s b
  rw [h]

theorem regBits_doorbell (s : State) (b a hi lo : Nat) : regBits (doorbell s b) a hi lo = regBits s a hi lo :=
  regBits_congr (s := s) (t := doorbell s b) rfl ..

/-- What reads the same once the event's pending bit is set reads the same after the event. -/
theorem regBits_raiseIrq_other {s : State} {b a hi lo : Nat}
    (h : regBits (regSetBits s (dcs APL 0x100) b b 1) a hi lo = regBits s a hi lo) :
    regBits (raiseIrq s b) a hi lo = regBits s a hi lo := by
  simp only [raiseIrq]
  split
  · rfl
  · split
    · exact h
    · exact (regBits_doorbell ..).trans h

/-- The bit of an event pends (14 R374). -/
theorem regBits_raiseIrq_same (s : State) {b : Nat} (hb : b < 32) : regBits (raiseIrq s b) (dcs APL 0x100) b b = 1 := by
  have hset : regBits (regSetBits s (dcs APL 0x100) b b 1) (dcs APL 0x100) b b = 1 := by
    rw [regBits_regSetBits_same, Nat.add_sub_cancel_left]
    rfl
  simp only [raiseIrq]
  split
  case isTrue h =>
    rw [bitAt, decide_eq_true_eq] at h
    simpa only [regBits, Nat.div_eq_of_lt hb, regNat, bitsOf, Nat.mul_zero, Nat.add_zero, Nat.add_sub_cancel_left, pow_one] using h
  case isFalse =>
    split
    · exact hset
    · exact (regBits_doorbell ..).trans hset

-- The end of the run and the halt ---------------------------------------------------------------------------------------

/-- The report of a run that failed: its result, the fault's code and the step (14 R388). -/
theorem regBits_runEnd_failed (s : State) {code : Nat} (h : code < 256) : let t := runEnd s 2 code
    regBits t (dcs SP 0x200) 1 0 = 2 ∧ regBits t (dcs SP 0x200) 15 8 = code ∧ regBits t (dcs SP 0x200) 63 32 = stepOf s 0 := by
  have hstep : stepOf s 0 < 2 ^ 32 := BitVec.isLt _
  have far : ∀ (u : State) (hi lo : Nat), regBits (raiseIrq u 20) (dcs SP 0x200) hi lo = regBits u (dcs SP 0x200) hi lo :=
    fun u hi lo => regBits_raiseIrq_other (regBits_regSetBits_ne u 1 (.inr (by decide)))
  have hreg : ∀ {hi : Nat} (lo : Nat), hi < 64 → regBits (runEnd s 2 code) (dcs SP 0x200) hi lo =
      bitsOf ((2 + code * 2 ^ 8 + stepOf s 0 * 2 ^ 32) % 2 ^ 64) hi lo := by
    intro hi lo hhi
    rw [runEnd, far, ← bitsOf_regNat _ _ (m := 2) hhi, regNat_regPutNat_same, if_pos rfl, Nat.shiftLeft_eq, Nat.shiftLeft_eq]
  refine ⟨(hreg 0 (by decide)).trans ?_, (hreg 8 (by decide)).trans ?_, (hreg 32 (by decide)).trans ?_⟩ <;>
    (simp only [bitsOf, Nat.shiftRight_eq_div_pow]; omega)

/-- A plane that runs halts at the end of cycle `n`, its run ended as failed, and interrupts 20 and 22 pend (05 R156; 14 R374, R388). -/
theorem haltPlane_halts {s : State} (h : s.plane.halted = none) (n c : Nat) {code : Nat} (hcode : code < 256) :
    let t := haltPlane s n c code
    t.plane.halted = some n ∧ t.plane.haltBy = c ∧ t.plane.run = .idle ∧
      regBits t (dcs SP 0x200) 1 0 = 2 ∧ regBits t (dcs SP 0x200) 15 8 = code ∧
      regBits t (dcs SP 0x200) 63 32 = (tileReg s 0 0x80C).toNat ∧
      regBits t (dcs APL 0x100) 20 20 = 1 ∧ regBits t (dcs APL 0x100) 22 22 = 1 := by
  have ht : haltPlane s n c code =
      raiseIrq (runEnd { s with plane := { s.plane with halted := some n, haltBy := c, run := .idle } } 2 code) 22 := by
    simp only [haltPlane, h]
  set s₁ := { s with plane := { s.plane with halted := some n, haltBy := c, run := .idle } } with hs₁
  obtain ⟨hresult, hfcode, hstep⟩ := regBits_runEnd_failed s₁ hcode
  have hplane : (haltPlane s n c code).plane = s₁.plane := by
    rw [ht, plane_raiseIrq, runEnd, plane_raiseIrq, regPutNat_frame]
  have far : ∀ (hi lo : Nat), regBits (raiseIrq (runEnd s₁ 2 code) 22) (dcs SP 0x200) hi lo =
      regBits (runEnd s₁ 2 code) (dcs SP 0x200) hi lo := fun hi lo =>
    regBits_raiseIrq_other (regBits_regSetBits_ne _ 1 (.inr (by decide)))
  refine ⟨by rw [hplane], by rw [hplane], by rw [hplane], ?_⟩
  rw [ht, far, far, far]
  refine ⟨hresult, hfcode, hstep, ?_, regBits_raiseIrq_same _ (by decide)⟩
  rw [regBits_raiseIrq_other (regBits_regSetBits_field _ _ 1 (.inl (by decide)))]
  exact regBits_raiseIrq_same _ (by decide)

theorem runEnd_keeps (s : State) (result fcode : Nat) : KeepsUnits s (runEnd s result fcode) :=
  (KeepsUnits.of_records ((RecordsOnly.refl s).regPutNat ..)).trans (raiseIrq_keeps ..)

theorem haltPlane_keeps (s : State) (n c code : Nat) : KeepsUnits s (haltPlane s n c code) := by
  unfold haltPlane
  split
  · exact (KeepsUnits.setPlane ..).trans ((runEnd_keeps ..).trans (raiseIrq_keeps ..))
  · split
    · exact (KeepsUnits.setPlane ..).trans (.of_records ((RecordsOnly.refl _).regSetBits ..))
    · exact .refl s

/-- Settles O54: the fault is recorded, then the plane halts, then the fault log takes its entry, above the registers of the report. -/
theorem coreFaultHaltsPlane : Obligations.CoreFaultHaltsPlane := by
  intro s c code pc n h0 hcode t
  have hlog : LogsFaults (haltPlane (modCore s c fun k => recordFault k code pc n) n c code) t := collectCoreFaults_logs _
  have hkeep : KeepsUnits (modCore s c fun k => recordFault k code pc n) t := (haltPlane_keeps ..).trans hlog.toKeepsUnits
  have hown : coreOf t c = recordFault (coreOf s c) code pc n := (coreOf_congr hkeep.cores c).trans (core_modCore_same ..)
  refine ⟨fun d hd => (coreOf_congr hkeep.cores d).trans (core_modCore_ne _ _ hd), hkeep.dram, hkeep.tiles, hkeep.bridges,
    fun hf => hown.trans (if_pos hf), fun hf => hown.trans (if_neg hf), fun hrun => ?_⟩
  obtain ⟨hhalted, hby, hidle, hresult, hfcode, hstep, hended, hhalt⟩ :=
    haltPlane_halts (s := modCore s c fun k => recordFault k code pc n) hrun n c hcode
  rw [hlog.regBits 0 (by decide), hlog.regBits 8 (by decide), hlog.regBits 32 (by decide), hlog.regBits 20 (by decide),
    hlog.regBits 22 (by decide), hlog.plane]
  exact ⟨hhalted, hby, hidle, hresult, hfcode, hstep, hended, hhalt⟩

end Sys2Proof.Machine
end

section
/-! SUPPORT. The sparse unit: how its rows start it, and what its run leaves for the join (06 R158 to R162, R169, R174, R176, R177,
R181). -/
namespace Sys2Proof.Machine
open Sys2Proof.Safety Sys2Proof.Claims

-- Rows ----------------------------------------------------------------------------------------------------------------

/-- The row of a ready core whose plan meets no fault, acts on the core alone, and has an effect besides that does not depend on the
predicate and leaves the errors of the core (05 R134). -/
theorem issue_actsAlways {s : State} {c : Nat} {p : Pred} {plan : State → Core → Plan} {needs : List Need} {a : Core → Core}
    {g : Nat → Core → Core} (h : Fires s c p) (hv : Vacant s c needs)
    (hp : ActsOnCore { plan s (coreOf s c) with always := id } c needs g) (ha : (plan s (coreOf s c)).always = a)
    (hk : ∀ k, (a k).ecc = k.ecc) :
    issue c p plan s = .next (afterIssue s c needs (fun k => g s.plane.cyc (a k))) := by
  obtain ⟨hillegal, hclash, hfaults, hneeds, -, heff⟩ := hp
  dsimp only at hillegal hclash hfaults hneeds heff
  have hsound : (coreOf (setCore (noteIssue s c false) c (a (retire (coreOf s c) s.plane.cyc needs))) c).ecc = Ecc.none := by
    rw [core_setCore_same, hk, retire, h.sound]
  have hvacant : needs.any (needClash (coreOf s c) s.plane.cyc) = false := hv
  rw [issue_clean h.toReady]
  · simp [hneeds, ha, heff, h.executes, afterIssue, modCore, runPlan_sound hsound]
  · simp [planFaults, hillegal, hclash, hfaults, hneeds, hvacant, lowestCode]

/-- Each sparse-unit row issues the plan of its number under its own descriptor checks (06 R176). -/
theorem sparseRows_issue : ∀ row ∈ sparseRows, ∀ (c : Nat) (p : Pred) (f : FmtI) (s : State),
    exec (row.1 c p f) s = issue c p (planSparse c row.2.1 row.2.2 f) s := by
  intro row hrow
  simp only [sparseRows, List.mem_cons, List.not_mem_nil, or_false] at hrow
  obtain rfl | rfl | rfl | rfl := hrow <;> exact fun _ _ _ _ => rfl

section Acts
variable {c : Nat} {f : FmtI} {s : State} {k : Core} {ra a : Nat}

/-- A sparse-unit row whose descriptor passes its checks puts the unit on it: from the next tuning count to the seventh after the run
(06 R158, R169). -/
theorem planSparse_acts {op : Nat} {check : List Byte → List Nat} (hr : sReg f.ra = some ra) (hfn : f.fn = 0)
    (ha : formAddr k ra f.imm = a) (hal : a % 64 = 0) (hin : a + 64 ≤ 0xC000) (hu : ungated k a 64 = [])
    (hd : check (memRead k.ls a 64) = []) (ho : k.sparseOut = false) :
    ActsOnCore { planSparse c op check f s k with always := id } c nLSP (fun _ x =>
        { x with sparse := .running op (memRead k.ls a 64) (s.count + 1)
                  (s.count + 1 + sparseLen (sparsePoison s c) op k.ls (memRead k.ls a 64) + 7) }) ∧
      (planSparse c op check f s k).always = fun x => { x with sparseOut := true, sparseAt := s.plane.cyc } := by
  simp only [planSparse, hr, hfn, ha, ne_eq, not_true_eq_false, if_false, and_true]
  exact onCore_acts_clash (by rw [lsFaults_nil hal hin, hu, hd]; rfl) ho

/-- SPJOIN is a gate on the sparse unit (06 R159). -/
theorem planSpjoin_acts (c : Nat) (s : State) (k : Core) :
    ActsOnCore (planSpjoin c s k) c nSIU (fun n x => addGate x n k.pc .spjoin) := onCore_acts ..

/-- SPMERGE posts what its descriptor names and protects the bytes of its pairs (06 R177). -/
theorem planSpmerge_acts {d : List Byte} (hr : sReg f.ra = some ra) (hfn : f.fn = 0) (ha : formAddr k ra f.imm = a)
    (hd : memRead k.ls a 32 = d) (hal : a % 32 = 0) (hin : a + 32 ≤ 0xC000) (hu : ungated k a 32 = []) (hok : mergeFaults d = [])
    (ho : k.sparseOut = false) :
    ActsOnCore (planSpmerge c f s k) c (⟨.obp, 0, 8⟩ :: nLSP) (fun n x =>
      protect (postOutbox (outboxGate x n k.pc) n (.merge d)) n (fieldLE d 8 2) (mergeBytes d)) := by
  simp only [planSpmerge, hr, hfn, ha, hd, ne_eq, not_true_eq_false, if_false]
  exact onCore_acts_clash (by rw [lsFaults_nil hal hin, hu, hok]; rfl) ho

end Acts

/-- A post of pairs: the hold request of a full outbox, the entry, the protection of the pairs (04 R119, R124; 06 R177). -/
theorem postMerge_eq (k : Core) (n pc a len : Nat) (d : List Byte) :
    protect (postOutbox (outboxGate k n pc) n (.merge d)) n a len =
      { k with
        outbox := k.outbox ++ [⟨n, .merge d⟩]
        gates := k.gates ++ if 8 ≤ k.outbox.length then [⟨n, pc, .outbox, false⟩] else []
        prot := k.prot ++ ([(a, len)].filter (fun r => r.2 ≠ 0)).map (fun r => ⟨n + 1, r.1, r.1 + r.2⟩) } := by
  have h := foldl_protect n [(a, len)] (postOutbox (outboxGate k n pc) n (.merge d))
  rw [List.foldl_cons, List.foldl_nil] at h
  rw [h, outboxGate_eq]
  rfl

/-- Settles O17: the rows of the sparse unit, SPJOIN and SPMERGE issue their plans. -/
theorem sparseRowsStartTheUnit : Obligations.SparseRowsStartTheUnit := by
  refine ⟨?_, ?_, ?_⟩
  · intro row hrow s c p f ra hr hfn a d hal hin hu hd ho hf hv
    obtain ⟨hacts, halways⟩ := planSparse_acts (c := c) (s := s) (op := row.2.1) (check := row.2.2) hr hfn
      (formAddr_sound hf.sound ra f.imm) hal hin hu hd ho
    rw [sparseRows_issue row hrow]
    exact issue_actsAlways hf hv hacts halways fun _ => rfl
  · exact fun s c p f hf hv => issue_acts hf hv (planSpjoin_acts c s _)
  · intro s c p f ra hr hfn a d n hal hin hu hd ho hf hv
    have hissue : exec (.spmerge c p f) s = _ :=
      issue_acts hf hv (planSpmerge_acts (d := d) hr hfn (formAddr_sound hf.sound ra f.imm) rfl hal hin hu hd ho)
    exact hissue.trans (congrArg _ (afterIssue_congr (postMerge_eq ..)))

-- Runs ----------------------------------------------------------------------------------------------------------------

section Runs
variable {k : Core} {op st idle : Nat} {d : List Byte}

/-- Before the count from which its unit is idle, a run has left nothing yet (06 R158). -/
theorem sparseAtCount_before {x : Nat} (poison : Bool) (hk : k.sparse = .running op d st idle) (hx : x < idle) :
    sparseAtCount poison x k = k := by
  simp [sparseAtCount, hk, hx]

/-- A run that is over has left its bytes and its findings (06 R161, R169). -/
theorem sparseAtCount_due {x : Nat} (poison : Bool) (hk : k.sparse = .running op d st idle) (hx : idle ≤ x) (he : k.ecc = Ecc.none) :
    sparseAtCount poison x k = { k with
      ls := (sparseRun poison op k.ls d).1
      sparse := .finished { (sparseRun poison op k.ls d).2 with run := idle - st - 7 } } := by
  simp [sparseAtCount, hk, Nat.not_lt.mpr hx, checkedRun, he, Ecc.none]

end Runs

/-- A run that has been ended is not ended again. -/
theorem sparseAtCount_twice (poison : Bool) (x : Nat) (k : Core) :
    sparseAtCount poison x (sparseAtCount poison x k) = sparseAtCount poison x k := by
  have h : sparseAtCount poison x k = k ∨ sparseRuns (sparseAtCount poison x k) = false := by
    unfold sparseAtCount
    split
    · split
      · exact .inl rfl
      · exact .inr rfl
    · exact .inl rfl
  rcases h with h | h
  · rw [h, h]
  · exact sparseAtCount_idle _ _ h

/-- Ending the runs of some cores ends that of each of them, and touches no other core. -/
theorem coreOf_foldl_sparseAtCount (cs : List Nat) (s : State) (c : Nat) :
    coreOf (cs.foldl (fun s c => modCore s c (sparseAtCount (sparsePoison s c) s.count)) s) c =
      if c ∈ cs then sparseAtCount (sparsePoison s c) s.count (coreOf s c) else coreOf s c := by
  induction cs generalizing s with
  | nil => rfl
  | cons b cs ih =>
    have hp : ∀ f, sparsePoison (modCore s b f) c = sparsePoison s c := fun _ => rfl
    rw [List.foldl_cons, ih, hp, modCore_count]
    by_cases hb : c = b
    · subst hb
      simp [sparseAtCount_twice]
    · simp [core_modCore_ne s _ hb, hb]

/-- A core whose sparse unit runs is listed. -/
theorem mem_cores_of_sparseRuns {s : State} {c : Nat} (h : sparseRuns (coreOf s c) = true) : (c, coreOf s c) ∈ s.cores :=
  mem_of_smGet_ne Core.reset s.cores fun hr => by
    have h' : sparseRuns Core.reset = true := hr ▸ h
    exact absurd h' (by decide)

/-- With the plane not halted, every core's unit stands as the count has it (06 R158, R169). -/
theorem coreOf_finishSparse {s : State} (h : s.plane.halted = none) (c : Nat) :
    coreOf (finishSparse s) c = sparseAtCount (sparsePoison s c) s.count (coreOf s c) := by
  rw [finishSparse, if_neg (by simp [h]), coreOf_foldl_sparseAtCount]
  split
  · rfl
  · next hc =>
    refine (sparseAtCount_idle _ _ (Bool.eq_false_iff.mpr fun hr => hc ?_)).symm
    exact List.mem_map.mpr ⟨_, List.mem_filter.mpr ⟨mem_cores_of_sparseRuns hr, hr⟩, rfl⟩

/-- A pause outside A0 takes no samples: time passes, and runs of sparse units end (13 R349; 16 R429). -/
theorem passTo_paused {s : State} {x : Nat} (hm : s.muted = false) (hlt : s.count < x) (hd : muteDue s x = false)
    (hr : s.plane.run = .paused) (hp : 1 ≤ pwrState s) : passTo s x = finishSparse { s with count := x } := by
  obtain ⟨f, hf⟩ : ∃ f, x - s.count = f + 1 := ⟨x - s.count - 1, by omega⟩
  have hp : pwrState s ≠ 0 := by omega
  simp [passTo, hf, pass, hm, Nat.not_le.mpr hlt, planeRuns, takesSamples, hr, hp, passIdle, hd, Nat.max_eq_right hlt.le]

theorem sparseRunDone_passes {s : State} {c op st idle : Nat} {d : List Byte} (hc : c < coreCount)
    (hk : (coreOf s c).sparse = .running op d st idle) (hclocks : clocksRun s = true) (hh : s.plane.halted = none) :
    exec (.sparseRunDone c) s = .next (passTo s idle) := by
  show execSparseRunDone c s = _
  simp [execSparseRunDone, Nat.not_le.mpr hc, hk, hclocks, hh]

-- SPMASK --------------------------------------------------------------------------------------------------------------

theorem chunksAux_getElem? {α : Type} {n : Nat} (hn : 0 < n) (f : Nat) (xs : List α) (j : Nat) (hf : xs.length ≤ f) :
    (chunksAux n f xs)[j]? = if n * j < xs.length then some ((xs.drop (n * j)).take n) else none := by
  induction f generalizing xs j with
  | zero => simp [chunksAux, List.length_eq_zero_iff.mp (Nat.le_zero.mp hf)]
  | succ f ih =>
    match xs, j with
    | [], j => simp [chunksAux]
    | x :: xs, 0 => simp [chunksAux]
    | x :: xs, j + 1 =>
      have hlen : ((x :: xs).drop n).length ≤ f := by
        rw [List.length_drop]
        omega
      have hlt : n * j < (x :: xs).length - n ↔ n * (j + 1) < (x :: xs).length := by
        rw [Nat.mul_succ]
        omega
      rw [chunksAux, List.getElem?_cons_succ, ih _ _ hlen, List.length_drop, List.drop_drop, Nat.add_comm n, ← Nat.mul_succ]
      · simp only [hlt]
      · exact nofun

/-- The pieces of a list, each where the one before it ends. -/
theorem chunks_getElem? {α : Type} {n : Nat} (hn : 0 < n) (xs : List α) (j : Nat) :
    (chunks n xs)[j]? = if n * j < xs.length then some ((xs.drop (n * j)).take n) else none :=
  chunksAux_getElem? hn _ xs j le_rfl

/-- Row bits as SPMASK writes them: eight to a byte, the first in its lowest bit (06 R174). -/
def maskBytes (bs : List Bool) : List Byte :=
  (chunks 8 bs).map (fun g => BitVec.ofNat 8 (packNat 1 (g.map (fun b => if b then 1 else 0))))

/-- The bits of SPMASK's rows (06 R174). -/
def maskRows (ls : Memory) (d : List Byte) : List Bool := (List.range (fieldLE d 8 2)).map (fun r =>
  maskBit (fieldLE d 32 4) (fieldLE d 36 4) (natLE (memRead ls (fieldLE d 16 2 + 4 * r) 4)))

@[simp] theorem length_maskRows (ls : Memory) (d : List Byte) : (maskRows ls d).length = fieldLE d 8 2 := by simp [maskRows]

theorem sparseRun_spmask (poison : Bool) (ls : Memory) (d : List Byte) :
    (sparseRun poison 4 ls d).1 = memWrite ls (fieldLE d 26 2) (maskBytes (maskRows ls d)) := rfl

theorem testBit_packNat_bits {bs : List Bool} {i : Nat} (h : i < bs.length) :
    (packNat 1 (bs.map (fun b => if b then 1 else 0))).testBit i = bs[i] := by
  have hlane := packNat_lane 1 (bs.map (fun b => if b then 1 else 0)) i (by simpa using h)
  rw [Nat.one_mul, Nat.pow_one, Nat.shiftRight_eq_div_pow, List.getElem_map] at hlane
  rw [Nat.testBit_eq_decide_div_mod_eq, hlane]
  cases bs[i] <;> rfl

theorem maskBytes_length_le (bs : List Bool) : (maskBytes bs).length ≤ (bs.length + 7) / 8 := by
  rw [maskBytes, List.length_map, ← List.getElem?_eq_none_iff, chunks_getElem? (by decide), if_neg (by omega)]

/-- Bit `r` of the bytes is the bit of row `r`. -/
theorem maskBytes_bit {bs : List Bool} {r : Nat} (h : r < bs.length) :
    ∃ b, (maskBytes bs)[r / 8]? = some b ∧ b.getLsbD (r % 8) = bs[r] := by
  have hin : 8 * (r / 8) < bs.length := by omega
  have hbit : r % 8 < ((bs.drop (8 * (r / 8))).take 8).length := by
    rw [List.length_take, List.length_drop]
    omega
  refine ⟨_, by rw [maskBytes, List.getElem?_map, chunks_getElem? (by decide), if_pos hin, Option.map_some], ?_⟩
  rw [BitVec.getLsbD_ofNat, testBit_packNat_bits hbit, List.getElem_take, List.getElem_drop]
  simp only [Nat.mod_lt r (show 0 < 8 by decide), decide_true, Bool.true_and, Nat.div_add_mod]

/-- Settles O18: the run's end by the count, what it leaves, and the bytes of SPMASK. -/
theorem sparseRunLeavesItsFindings : Obligations.SparseRunLeavesItsFindings := by
  refine ⟨fun s c op st idle d hc hk hclocks hh => ?_, fun poison x op st idle d k hk => ?_, fun poison ls d r hr => ?_⟩
  · have hexec := sparseRunDone_passes hc hk hclocks hh
    refine ⟨hexec, fun he hm hlt hd hrun _ hp => ⟨_, hexec, ?_⟩⟩
    rw [passTo_paused hm hlt hd hrun hp]
    have hcore : ∀ b, coreOf (finishSparse { s with count := idle }) b = sparseAtCount (sparsePoison s b) idle (coreOf s b) :=
      coreOf_finishSparse (s := { s with count := idle }) hh
    have honly := finishSparse_coresOnly { s with count := idle }
    exact ⟨honly.count, (hcore c).trans (sparseAtCount_due _ hk le_rfl he),
      fun b hb => (hcore b).trans (sparseAtCount_idle _ _ hb), honly⟩
  · exact ⟨sparseAtCount_before poison hk, fun hx he => sparseAtCount_due poison hk hx he⟩
  · intro out m
    have hm : m = memWrite ls out (maskBytes (maskRows ls d)) := sparseRun_spmask poison ls d
    refine ⟨?_, fun x hx => ?_⟩
    · obtain ⟨b, hb, hbit⟩ := maskBytes_bit (bs := maskRows ls d) (hr.trans_eq (length_maskRows ls d).symm)
      obtain ⟨hlt, rfl⟩ := List.getElem?_eq_some_iff.mp hb
      rw [hm, memByte_memWrite_in _ _ _ _ hlt, hbit]
      simp [maskRows]
    · have hlen := maskBytes_length_le (maskRows ls d)
      rw [length_maskRows] at hlen
      rw [hm]
      exact memByte_memWrite_out _ _ _ _ (hx.imp_right fun hx => le_trans (Nat.add_le_add_left hlen _) hx)

end Sys2Proof.Machine
end

section
/-! SUPPORT. The merge trees of the tiles and the tokens of the module: contributions that join, land or wait, and the token's frame (06
R178 to R180; 08 R211, R212; 11 R303, R304). -/
namespace Sys2Proof.Machine
open Sys2Proof.Safety Sys2Proof.Claims

-- Merges --------------------------------------------------------------------------------------------------------------

/-- Contributions to one merge agree in every field from VT to DCORE (06 R178). -/
theorem fieldLE_of_mgSame {d e : List Byte} (h : mgSame d e = true) {i n : Nat} (hi : 1 ≤ i) (hn : i + n ≤ 8) :
    fieldLE d i n = fieldLE e i n := by
  have hfield : ∀ l : List Byte, (l.drop i).take n = ((((l.drop 1).take 7).drop (i - 1)).take n) := fun l => by
    rw [List.drop_take, List.drop_drop, List.take_take, Nat.add_sub_cancel' hi, Nat.min_eq_left (by omega)]
  rw [fieldLE, fieldLE, hfield d, hfield e, of_decide_eq_true h]

/-- The landing of a complete merge goes by the fields that its contributions share (06 R180). -/
theorem mergeLand_congr {d e : List Byte} (h : mgSame d e = true) (s : State) (t : Nat) (got : List MergePost) :
    mergeLand s t d (mergeOut (mgVt d) (fieldLE d 2 1) got) = mergeLand s t e (mergeOut (mgVt e) (fieldLE e 2 1) got) := by
  simp only [mergeLand, mgVt, fieldLE_of_mgSame h (i := 1) (n := 1), fieldLE_of_mgSame h (i := 2) (n := 1),
    fieldLE_of_mgSame h (i := 3) (n := 1), fieldLE_of_mgSame h (i := 6) (n := 2), Nat.reduceLeDiff, Nat.reduceAdd]

/-- The tile without the first contribution on its way. -/
def popMerge (rest : List MergePost) (y : Tile) : Tile := { y with mergeQ := rest }

/-- The tile with merge `g` in the place of the one of its number. -/
def putMerge (g : Merge) (y : Tile) : Tile := { y with merges := y.merges.filter (fun h => h.mid ≠ g.mid) ++ [g] }

theorem mem_putMerge (g : Merge) (y : Tile) : g ∈ (putMerge g y).merges := List.mem_append_right _ (List.mem_singleton_self g)

/-- A merge of a new number comes last. -/
theorem merges_putMerge_new {g : Merge} {y : Tile} (h : ∀ m ∈ y.merges, m.mid ≠ g.mid) : (putMerge g y).merges = y.merges ++ [g] := by
  rw [putMerge, List.filter_eq_self.mpr fun m hm => decide_eq_true (h m hm)]

section Take
variable {s : State} {g : Merge} {x : MergePost}

/-- A contribution that leaves its merge incomplete is kept (06 R178). -/
theorem mergeTake_keeps (h : g.got.length + 1 < mgPcnt g.first) (t : Nat) :
    mergeTake s t g x = modTile s t (putMerge { g with got := g.got ++ [x] }) := by
  have hpart : ¬ mgPcnt g.first ≤ (g.got ++ [x]).length := by
    rw [List.length_append]
    exact Nat.not_le.mpr h
  simp only [mergeTake, hpart, if_false]
  rfl

/-- The last contribution completes its merge, which lands; without an upset its values are the tree's (06 R179, R180). -/
theorem mergeTake_lands (h : mgPcnt g.first ≤ g.got.length + 1) (he : s.errs = Errs.none) (t : Nat) :
    mergeTake s t g x = mergeLand (modTile s t (putMerge { g with done := true, got := [] })) t g.first
      (mergeOut (mgVt g.first) (fieldLE g.first 2 1) (g.got ++ [x])) := by
  have hfull : mgPcnt g.first ≤ (g.got ++ [x]).length := by
    rw [List.length_append]
    exact h
  have hupset : ∀ (f : Tile → Tile) (vt : Nat) (m : SMap Nat), mergeUpset (modTile s t f) t vt m = (modTile s t f, m) := by
    intro f vt m
    simp [mergeUpset, takeUnitUpset, he, Errs.none]
  simp only [mergeTake, hfull, if_true, hupset]
  rfl

end Take

section Contribution
variable {s : State} {t : Nat} {x : MergePost} {rest : List MergePost}

/-- A contribution that does not complete its merge does not wait (04 R120). -/
theorem mergeWaits_of_open {n : Nat} (h : n + 1 < mgPcnt x.desc) : mergeWaits s t x n = false := by
  simp [mergeWaits, Nat.not_le.mpr h]

/-- Nor does one whose buffer is armed. -/
theorem mergeWaits_of_armed {n : Nat} (h : armed s (t * 16384 + fieldLE x.desc 6 2) (fieldLE x.desc 3 1) = true) :
    mergeWaits s t x n = false := by
  simp [mergeWaits, h]

theorem mergeWaits_of_unarmed {n : Nat} (hp : mgPcnt x.desc ≤ n + 1)
    (h : armed s (t * 16384 + fieldLE x.desc 6 2) (fieldLE x.desc 3 1) = false) : mergeWaits s t x n = true := by
  simp [mergeWaits, hp, h]

/-- The first contribution to a merge opens it, or waits (06 R178). -/
theorem mergeContribution_opens (ht : t < 64) (hc : clocksRun s = true) (hq : (tile s t).mergeQ = x :: rest)
    (hn : ∀ g ∈ (tile s t).merges, g.mid ≠ fieldLE x.desc 0 1) :
    exec (.mergeContribution t) s = .next (if mergeWaits s t x 0 then s else
      mergeTake (modTile s t (popMerge rest)) t ⟨fieldLE x.desc 0 1, x.desc, [], false⟩ x) := by
  have hnone : (tile s t).merges.find? (fun g => g.mid = fieldLE x.desc 0 1) = none :=
    List.find?_eq_none.mpr fun g hg => by simpa using hn g hg
  show execMergeContribution t s = _
  simp only [execMergeContribution, tileCmd_works ht hc, hq, hnone]
  rfl

/-- A contribution that agrees with an open merge joins it, or waits (06 R178). -/
theorem mergeContribution_joins {g : Merge} (ht : t < 64) (hc : clocksRun s = true) (hq : (tile s t).mergeQ = x :: rest)
    (hg : (tile s t).merges.find? (fun g => g.mid = fieldLE x.desc 0 1) = some g) (hd : g.done = false)
    (hs : mgSame g.first x.desc = true) :
    exec (.mergeContribution t) s = .next (if mergeWaits s t x g.got.length then s else
      mergeTake (modTile s t (popMerge rest)) t g x) := by
  show execMergeContribution t s = _
  simp only [execMergeContribution, tileCmd_works ht hc, hq, hg, hd, hs, Bool.not_true, Bool.or_self, Bool.false_eq_true, if_false]
  rfl

end Contribution

theorem CoresOnly.tiles {s t : State} (h : CoresOnly s t) : t.tiles = s.tiles := by rw [h]

theorem tile_modTile_same (s : State) (t : Nat) (f : Tile → Tile) : tile (modTile s t f) t = f (tile s t) := tile_setTile_same ..

/-- Bytes that fit land in a buffer whose completion rule has just been set: the core alone changes (04 R120; 06 R180). -/
theorem landAt_setRule {s : State} {c b a : Nat} {bs : List Byte} (r : LandRule)
    (h : landRefused (lbGet (coreOf s c) b) a bs.length = false) :
    let u := landAt (setRule s c b r) c b a bs
    CoresOnly s u ∧ landedAt s u c b a bs ∧ (lbGet (coreOf u c) b).rule = r := by
  intro u
  have hbuf : lbGet (coreOf (setRule s c b r) c) b = { lbGet (coreOf s c) b with rule := r } := by
    rw [setRule, core_modCore_same, lbGet_lbSet, if_pos rfl]
  have hu : u = modCore (setRule s c b r) c (landed b a bs) := landAt_landed (by rw [hbuf]; exact h)
  have hcore : coreOf u c = landed b a bs (coreOf (setRule s c b r) c) := by rw [hu, core_modCore_same]
  have hls : (coreOf u c).ls = memWrite (coreOf s c).ls a bs := by
    rw [hcore, ls_landed, setRule, core_modCore_same]
    rfl
  refine ⟨by rw [hu]; rfl, ⟨?_, ?_, fun y hy => ?_, fun k hk => ?_⟩, ?_⟩
  · rw [hcore, lbGet_landed, hbuf]
  · rw [hls, memRead_memWrite_same]
  · rw [hls, memByte_memWrite_out _ _ _ _ hy]
  · rw [hu, core_modCore_ne _ _ hk, setRule, core_modCore_ne _ _ hk]
  · rw [hcore, lbGet_landed, hbuf]

/-- The output of a complete merge lands in the buffer its descriptor names, which is complete at its length (06 R180). -/
theorem mergeLand_landed {s : State} {t : Nat} {d : List Byte} {m : SMap Nat} :
    let c := t * 16384 + fieldLE d 6 2
    let b := fieldLE d 3 1
    let bs := mergeImage (mgVt d) m
    let lb := lbGet (coreOf s c) b
    landRefused lb lb.base bs.length = false →
    CoresOnly s (mergeLand s t d m) ∧ landedAt s (mergeLand s t d m) c b lb.base bs ∧
      (lbGet (coreOf (mergeLand s t d m) c) b).rule = .counted (some bs.length) :=
  landAt_setRule _

-- Tokens --------------------------------------------------------------------------------------------------------------

theorem fLast_mkFrame (p : FrameSpec) : fLast (mkFrame p) = p.last := by
  have hlow : p.dest.toNat + p.src.toNat * 2 ^ 32 + p.cls % 4 * 2 ^ 64 + p.hop % 4 * 2 ^ 66 < 2 ^ 68 := by
    have hdest := p.dest.isLt
    have hsrc := p.src.isLt
    omega
  have hlast : (if p.last then 1 else 0) < 2 ^ 1 := by split <;> decide
  have hbit : bitsOf (hdrOf p) 68 68 = if p.last then 1 else 0 := by
    have he : hdrOf p = p.dest.toNat + p.src.toNat * 2 ^ 32 + p.cls % 4 * 2 ^ 64 + p.hop % 4 * 2 ^ 66 +
        2 ^ 68 * ((if p.last then 1 else 0) + 2 ^ 1 * (2 ^ 3 * (p.type % 2 ^ 8 + 2 ^ 8 * (p.payload.length + 2 ^ 16 *
          (p.seq % 2 ^ 32 + 2 ^ 32 * hdrHigh p))))) := by
      rw [hdrOf_eq, hdrLow]
      ring
    rw [he]
    exact bitsOf_between 68 hlow hlast rfl
  rw [fLast, fGet_mkFrame p (by omega), hbit]
  cases p.last <;> rfl

theorem length_subBytes (u : Sub) : (subBytes u).length = 32 := by simp [subBytes, bytesLE_length]

/-- A stream of one item on a leg to one receiver is one frame, its last, with the data behind the subheader (07 R203, 08 R212, 10
R254). -/
theorem legFrames_single (c : CollSpec) (u : Sub) (bs : List Byte) {l : Leg} (h : l.mc = none) :
    ∃ f, legFrames c [(u, bs)] l = [f] ∧ fType f = c.type % 256 ∧ fLast f = true ∧ fData f = bs := by
  simp only [legFrames, h, List.mapIdx_cons, List.mapIdx_nil]
  refine ⟨_, rfl, fType_mkFrame _, (fLast_mkFrame _).trans rfl, ?_⟩
  rw [fData, payload_mkFrame, ← length_subBytes u, List.drop_left]

theorem upLeg_mc (c : Course) (pos : Nat) (a root : Nat × Nat) (final : BitVec 32) : (upLeg c pos a root final).mc = none := by
  unfold upLeg
  split <;> rfl

/-- The status word has four bits (11 R304). -/
theorem fieldLE_ownStatus (s : State) : fieldLE (bytesLE 8 (ownStatus s)) 0 8 = ownStatus s := by
  have hlt : ownStatus s < 256 ^ 8 := by
    unfold ownStatus
    split_ifs <;> decide
  rw [fieldLE, List.drop_zero, List.take_of_length_le (bytesLE_length 8 _).le, natLE_bytesLE, Nat.mod_eq_of_lt hlt]

/-- The token stands last in the receive space of the first engine on its way, and is noted as sent (11 R304). -/
theorem sendToken_sends (s : State) (n : Nat) (e : Course) (r : Nat) :
    let t := sendToken s n e r
    let g := engOf e e.rootEng 0
    ∃ x, t.tokSent = s.tokSent ++ [n] ∧ (bridge t g).recv = (bridge s g).recv ++ [x] ∧ x.port = .localPort ∧
      fType x.frame = 0x15 ∧ fLast x.frame = true ∧ fieldLE (fData x.frame) 0 8 = ownStatus s ∧
      t = { s with tokSent := t.tokSent, bridges := t.bridges, regs := t.regs } := by
  intro t g
  obtain ⟨f, hf, htype, hlast, hdata⟩ := legFrames_single
    (engSpec s g (engineEpid s g) 0x15 (collArg 0 n 0 0 (stepLow s 0)) 0 3) { cid := e.cid, p := e.p, root := e.root, lo := r }
    (bytesLE 8 (ownStatus s)) (upLeg_mc e 0 (selfAt s g) (rankAt e e.root) (engineAt g (rankAt e e.root)))
  have ht : t = arriveWith { s with tokSent := s.tokSent ++ [n] } g .localPort none none f :=
    congrArg (engineSends { s with tokSent := s.tokSent ++ [n] } g) hf
  have hframe := arriveWith_local { s with tokSent := s.tokSent ++ [n] } g none none f
  rw [← ht] at hframe
  refine ⟨rxOf { s with tokSent := s.tokSent ++ [n] } g none none f, ?_, ?_, rfl, htype, hlast, ?_, ?_⟩
  · rw [hframe]
  · rw [ht]
    exact recv_arriveWith ..
  · exact (congrArg (fieldLE · 0 8) hdata).trans (fieldLE_ownStatus s)
  · rw [hframe]

theorem tokenSend_waits {s : State} {n : Nat} (hn : n < 64) (h : tokenDue s n = false) : exec (.tokenSend n) s = .next s := by
  show execTokenSend n s = _
  simp [execTokenSend, Nat.not_le.mpr hn, h]

/-- A token that is due is sent by the entry of the engine it goes to first (11 R303, R304). -/
theorem tokenSend_due {s : State} {n r : Nat} {e : Course} (hn : n < 64) (hc : clocksRun s = true) (h : tokenDue s n = true)
    (he : course? s (64 + (cteBits s n 39 32 - 64) % 36) n = some e)
    (hr : rankOf e (selfAt s (64 + (cteBits s n 39 32 - 64) % 36)) = some r) :
    exec (.tokenSend n) s = .next (sendToken s n e r) := by
  show execTokenSend n s = _
  simp [execTokenSend, Nat.not_le.mpr hn, h, hc, he, hr]

/-- Settles O34: contributions are kept, land or wait; a token that is due is sent. -/
theorem mergesAndTokensComplete : Obligations.MergesAndTokensComplete := by
  refine ⟨?_, ?_⟩
  · intro s t x rest ht hc hq c b
    have htile : ∀ g : Merge, tile (modTile (modTile s t (popMerge rest)) t (putMerge g)) t = putMerge g (popMerge rest (tile s t)) :=
      fun g => by rw [tile_modTile_same, tile_modTile_same]
    refine ⟨fun hn hp => ?_, ?_, fun hn hp ha => ?_⟩
    · have hexec := mergeContribution_opens ht hc hq hn
      rw [mergeWaits_of_open hp, if_neg (by decide), mergeTake_keeps (g := ⟨fieldLE x.desc 0 1, x.desc, [], false⟩) hp] at hexec
      exact ⟨_, hexec, by rw [htile]; rfl, by rw [htile]; exact merges_putMerge_new hn, rfl⟩
    · intro g hg hd hs hp ha bs lb hfit he
      have hexec := mergeContribution_joins ht hc hq hg hd hs
      rw [mergeWaits_of_armed ha, if_neg (by decide), mergeTake_lands (s := modTile s t (popMerge rest)) hp.le he,
        mergeLand_congr hs] at hexec
      obtain ⟨honly, hland, hrule⟩ := mergeLand_landed
        (s := modTile (modTile s t (popMerge rest)) t (putMerge { g with done := true, got := [] })) hfit
      refine ⟨_, hexec, ?_, hland, hrule, ?_⟩
      · rw [tile_congr honly.tiles, htile]
        rfl
      · rw [tile_congr honly.tiles, htile]
        exact mem_putMerge ..
    · rw [mergeContribution_opens ht hc hq hn, mergeWaits_of_unarmed hp ha, if_pos rfl]
  · intro s n r e hn hc d
    refine ⟨tokenSend_waits hn, fun hdue he hr => ?_⟩
    obtain ⟨x, hx⟩ := sendToken_sends s n e r
    exact ⟨_, x, tokenSend_due hn hc hdue he hr, hx⟩

end Sys2Proof.Machine
end

section
/-! SUPPORT. The words of a Bridge die that its link goes by, and what leaves them as they are: faults, interrupts, buffers, queues and
schedulers, which all count and record elsewhere (07 R209, R480; 08 R233 to R235; 17 R437, R439). -/
namespace Sys2Proof.Machine

/-- `t` has the words of `s` at the first 256 offsets of every tile and Bridge: there the registers of a link lie, and no counter, pool
or record. -/
structure KeepsLinkRegs (s t : State) : Prop where
  word : ∀ d < 100, ∀ o < 0x100, regWord t (dcs d o) = regWord s (dcs d o)

namespace KeepsLinkRegs
variable {s t u : State}

theorem refl (s : State) : KeepsLinkRegs s s := ⟨fun _ _ _ _ => rfl⟩
theorem trans (h : KeepsLinkRegs s t) (h' : KeepsLinkRegs t u) : KeepsLinkRegs s u :=
  ⟨fun d hd o ho => (h'.word d hd o ho).trans (h.word d hd o ho)⟩
theorem of_regs (h : t.regs = s.regs) : KeepsLinkRegs s t := ⟨fun _ _ _ _ => by rw [regWord, regWord, h]⟩
theorem ite {c : Prop} [Decidable c] (h : KeepsLinkRegs s t) (h' : KeepsLinkRegs s u) : KeepsLinkRegs s (if c then t else u) := by
  split <;> assumption
theorem foldl {α : Type} {f : State → α → State} (h : ∀ a x, KeepsLinkRegs a (f a x)) (l : List α) (s : State) :
    KeepsLinkRegs s (l.foldl f s) :=
  foldl_keeps refl (fun _ _ _ => trans) h l s

theorem regPutNat (s : State) (die : Nat) {o n : Nat} (v : Nat) (ho : 0x100 ≤ o) (hn : o + 4 * n ≤ 2 ^ 24) :
    KeepsLinkRegs s (regPutNat s (dcs die o) v n) :=
  ⟨fun d _ p hp => regWord_regPutNat_out _ _ _ _ _ (by unfold dcs; omega)⟩
theorem regSetBits (s : State) (die : Nat) {o hi : Nat} (lo x : Nat) (ho : 0x100 ≤ o) (hn : o + 4 * (hi / 32 + 1) ≤ 2 ^ 24) :
    KeepsLinkRegs s (regSetBits s (dcs die o) hi lo x) := regPutNat s die _ ho hn

end KeepsLinkRegs

-- Faults and interrupts -----------------------------------------------------------------------------------------------

theorem logFault_linkRegs (s : State) (die code cls detail n : Nat) : KeepsLinkRegs s (logFault s die code cls detail n) :=
  ⟨fun d _ o _ => (logFault_logs s die code cls detail n).below _ (by unfold dcs SP; omega)⟩

theorem recordAddr_dcs (die : Nat) : ∃ d o, recordAddr die = dcs d o ∧ 0x100 ≤ o ∧ o + 8 ≤ 2 ^ 24 := by
  unfold recordAddr
  split
  · exact ⟨_, _, rfl, by decide, by decide⟩
  · split <;> exact ⟨_, _, rfl, by decide, by decide⟩

theorem recordAs_linkRegs (s : State) (die code cls detail : Nat) : KeepsLinkRegs s (recordAs s die code cls detail) := by
  unfold recordAs
  extract_lets a s₁ u s₂ s₃
  have put : ∀ (u : State) (hi lo x : Nat), hi < 64 → KeepsLinkRegs u (regSetBits u a hi lo x) := by
    obtain ⟨d, o, ha, ho, hn⟩ := recordAddr_dcs die
    exact fun u hi lo x h => (show a = dcs d o from ha) ▸ .regSetBits u d lo x ho (by omega)
  have h₁ : KeepsLinkRegs s s₁ :=
    .ite (((put _ 7 _ _ (by decide)).trans (put _ 9 _ _ (by decide))).trans (put _ 31 _ _ (by decide))) (put _ 10 _ _ (by decide))
  have h₂ : KeepsLinkRegs s₁ s₂ := by
    refine .ite ?_ (.refl s₁)
    exact (put s₁ 11 11 1 (by decide)).trans (.of_regs rfl)
  exact ((h₁.trans h₂).trans (put s₂ 47 32 _ (by decide))).trans (logFault_linkRegs ..)

theorem raiseIrq_linkRegs (s : State) {b : Nat} (h : b < 32) : KeepsLinkRegs s (raiseIrq s b) := by
  have hset : KeepsLinkRegs s (regSetBits s (dcs APL 0x100) b b 1) := .regSetBits s APL b 1 (by decide) (by omega)
  exact .ite (.refl s) (.ite hset (hset.trans (.of_regs rfl)))

-- Counters and buffers ------------------------------------------------------------------------------------------------

theorem fCls_lt (f : Frame) : fCls f < 4 := Nat.mod_lt _ (by decide)

theorem brgCount_linkRegs (s : State) (d : Nat) {n : Nat} (k : Nat) (h : n < 64) : KeepsLinkRegs s (brgCount s d n k) :=
  .regPutNat s d _ (by omega) (by omega)

theorem poolAdd_linkRegs (s : State) (d p : Nat) (k : Int) : KeepsLinkRegs s (poolAdd s d p k) := by
  unfold poolAdd
  refine .ite (.refl s) ?_
  unfold poolField
  split <;> exact .regSetBits s d _ _ (by decide) (by decide)

theorem setLines_linkRegs (s : State) (d : Nat) (ls : List Nat) : KeepsLinkRegs s (setLines s d ls) :=
  .trans (.of_regs (modBridge_regs ..)) (.regSetBits _ d _ _ (by decide) (by decide))

theorem setVoq_linkRegs (s : State) (d q : Nat) (v : Voq) : KeepsLinkRegs s (setVoq s d q v) := .of_regs (modBridge_regs ..)

theorem joinVoq_linkRegs (s : State) (d q : Nat) (h : Held) : KeepsLinkRegs s (joinVoq s d q h) := setVoq_linkRegs ..

theorem freeTail_linkRegs (s : State) (d : Nat) (x : Spilled) : KeepsLinkRegs s (freeTail s d x) :=
  .ite (.refl s) (setLines_linkRegs ..)

-- Receive space -------------------------------------------------------------------------------------------------------

theorem inject_linkRegs (s : State) (d : Nat) (f : Frame) : KeepsLinkRegs s (inject s d f) := by
  have := fCls_lt f
  exact .trans (.of_regs (setBridge_regs ..)) (brgCount_linkRegs _ d _ (by omega))

theorem unreachableAt_linkRegs (s : State) (d : Nat) (f : Frame) : KeepsLinkRegs s (unreachableAt s d f) :=
  .trans (brgCount_linkRegs s d 1 (by decide)) (.ite (inject_linkRegs ..) (recordAs_linkRegs ..))

theorem returnCredits_linkRegs (s : State) (d : Nat) (e : RxEntry) : KeepsLinkRegs s (returnCredits s d e) := by
  unfold returnCredits
  split
  · exact .of_regs (modBridge_regs ..)
  · exact .refl s

theorem dropRx_linkRegs (s : State) (d : Nat) (e : RxEntry) : KeepsLinkRegs s (dropRx s d e) := by
  have hdrop : KeepsLinkRegs s (returnCredits (modBridge s d fun b => { b with recv := b.recv.filter (fun x => x.num ≠ e.num) }) d e) :=
    .trans (.of_regs (modBridge_regs ..)) (returnCredits_linkRegs ..)
  unfold dropRx
  split
  · exact hdrop.trans (poolAdd_linkRegs ..)
  · exact hdrop

theorem putRx_linkRegs (s : State) (d : Nat) (e : RxEntry) : KeepsLinkRegs s (putRx s d e) := .of_regs (modBridge_regs ..)

theorem spillLeaves_linkRegs (s : State) (d : Nat) (x : Spilling) : KeepsLinkRegs s (spillLeaves s d x) := by
  unfold spillLeaves
  split
  · exact .refl s
  · exact .ite (dropRx_linkRegs ..) (putRx_linkRegs ..)

-- Frames of a lost link -----------------------------------------------------------------------------------------------

theorem sentFrames_linkRegs (s : State) (d n : Nat) (xs : List Sent) : KeepsLinkRegs s (sentFrames s d n xs) := by
  induction xs generalizing n with
  | nil => exact .refl s
  | cons x xs ih => exact (ih _).trans (.ite (.refl _) (.ite (setVoq_linkRegs ..) (recordAs_linkRegs ..)))

theorem moveHeld_linkRegs (s : State) (d : Nat) (p : Port) (h : Held) : KeepsLinkRegs s (moveHeld s d p h) := by
  unfold moveHeld
  split
  · exact joinVoq_linkRegs ..
  · exact (poolAdd_linkRegs ..).trans (unreachableAt_linkRegs ..)

theorem moveSpilled_linkRegs (s : State) (d : Nat) (p : Port) (x : Spilled) : KeepsLinkRegs s (moveSpilled s d p x) := by
  unfold moveSpilled
  simp only
  split
  · exact moveHeld_linkRegs ..
  · exact setVoq_linkRegs ..
  · exact (freeTail_linkRegs ..).trans (unreachableAt_linkRegs ..)

theorem moveVoqs_linkRegs (s : State) (d o : Nat) (p : Port) : KeepsLinkRegs s (moveVoqs s d o p) := by
  refine .foldl (fun a vl => .ite (setVoq_linkRegs ..) (.trans (.trans ?_ (.foldl (fun _ _ => moveHeld_linkRegs ..) _ _))
    (.foldl (fun _ _ => moveSpilled_linkRegs ..) _ _))) _ s
  split
  · exact (setVoq_linkRegs ..).trans (poolAdd_linkRegs ..)
  · exact setVoq_linkRegs ..

theorem moveWaiting_linkRegs (s : State) (d o : Nat) : KeepsLinkRegs s (moveWaiting s d o) := by
  refine .foldl (fun a e => ?_) _ s
  split
  · extract_lets fix gone e' t
    have ht : KeepsLinkRegs a t := .ite (dropRx_linkRegs a d e) (putRx_linkRegs a d e')
    exact ht.trans (.foldl (fun _ _ => unreachableAt_linkRegs ..) gone t)
  · exact .refl a

theorem moveSpilling1_linkRegs (s : State) (d o : Nat) (x : Spilling) : KeepsLinkRegs s (moveSpilling1 s d o x) := by
  unfold moveSpilling1
  refine .ite ?_ (.of_regs (modBridge_regs ..))
  split
  · exact .of_regs (modBridge_regs ..)
  · exact ((setLines_linkRegs ..).trans (spillLeaves_linkRegs ..)).trans (unreachableAt_linkRegs ..)

theorem moveSpilling_linkRegs (s : State) (d o : Nat) : KeepsLinkRegs s (moveSpilling s d o) :=
  .trans (.of_regs (modBridge_regs ..)) (.foldl (fun _ _ => moveSpilling1_linkRegs ..) _ _)

/-- What becomes of the frames of a lost link leaves the registers of every link (07 R209). -/
theorem loseFrames_linkRegs (s : State) (d : Nat) : KeepsLinkRegs s (loseFrames s d) :=
  .trans (.trans (t := modBridge (modLink s d fun x => { x with sent := [], inBuf := 0, cursor := 0 }) d _) (.of_regs rfl)
    (sentFrames_linkRegs ..)) (.foldl (fun _ _ => (((moveVoqs_linkRegs ..).trans (moveVoqs_linkRegs ..)).trans
      (moveWaiting_linkRegs ..)).trans (moveSpilling_linkRegs ..)) _ _)

theorem dropFlight_linkRegs (s : State) (d o : Nat) (gone : InFlight → Bool) : KeepsLinkRegs s (dropFlight s d o gone) := by
  have hcredit : ∀ (a : State) (i : InFlight), KeepsLinkRegs a (if o < 36 then
      modLink a d (fun l => { l with credits := l.credits.modify (i.q % 12) (· + i.flits) }) else a) :=
    fun a i => .ite (.of_regs (modBridge_regs ..)) (.refl a)
  refine .trans (.of_regs (modBridge_regs ..)) (.foldl (fun a i => ?_) _ _)
  cases i.rsv with
  | some p => exact (hcredit a i).trans (poolAdd_linkRegs ..)
  | none => exact hcredit a i

theorem dropFlights_linkRegs (s : State) (gone : InFlight → Bool) : KeepsLinkRegs s (dropFlights s gone) := by
  refine .foldl (fun a b => ?_) _ s
  exact .foldl (fun _ _ => dropFlight_linkRegs ..) _ a

theorem dropLinkRx_linkRegs (s : State) (d : Nat) : KeepsLinkRegs s (dropLinkRx s d) := by
  unfold dropLinkRx
  simp only
  exact .trans ((dropFlights_linkRegs ..).trans (.ite (.refl _) (setLines_linkRegs ..))) (.of_regs (modBridge_regs ..))

-- Queues at rest ------------------------------------------------------------------------------------------------------

theorem setSched_linkRegs (s : State) (d o : Nat) (x : Sched) : KeepsLinkRegs s (setSched s d o x) := .of_regs (modBridge_regs ..)

theorem restVoqs_linkRegs (s : State) (d : Nat) : KeepsLinkRegs s (restVoqs s d) :=
  .foldl (fun _ _ => .ite (setVoq_linkRegs ..) (.refl _)) _ s

theorem restSched_linkRegs (s : State) (d o : Nat) : KeepsLinkRegs s (restSched s d o) := by
  unfold restSched
  extract_lets x gone y z t
  have ht : KeepsLinkRegs s t := setSched_linkRegs s d o z
  split
  · exact .refl s
  · split
    · exact ht.trans (.regPutNat t d _ (by decide) (by decide))
    · exact ht

theorem restQueues_linkRegs (s : State) : KeepsLinkRegs s (restQueues s) := by
  have hsched : ∀ (a : State) (b : Nat × Bridge), KeepsLinkRegs a (b.2.scheds.foldl (fun s x => restSched s b.1 x.1) a) :=
    fun a b => .foldl (fun _ _ => restSched_linkRegs ..) _ a
  exact .trans (.foldl restVoqs_linkRegs _ s) (.foldl hsched _ _)

end Sys2Proof.Machine
end

section
/-! SUPPORT. The state of a link: its configuration, training and resets, and its departure from UP (07 R188, R192, R480; 16 R425; 18
R472). -/
namespace Sys2Proof.Machine
open Sys2Proof.Safety

-- Bridges and links after a write -------------------------------------------------------------------------------------

@[simp] theorem bridge_modLink_same (s : State) (d : Nat) (f : Link → Link) :
    bridge (modLink s d f) d = { bridge s d with link := f (bridge s d).link } := bridge_setBridge_same ..
theorem bridge_modLink_ne (s : State) {d e : Nat} (f : Link → Link) (h : e ≠ d) : bridge (modLink s d f) e = bridge s e :=
  bridge_setBridge_ne _ _ h
@[simp] theorem bridge_regSetBits (s : State) (a hi lo x d : Nat) : bridge (regSetBits s a hi lo x) d = bridge s d :=
  bridge_congr (regSetBits_bridges ..) d
@[simp] theorem bridge_setLinkState (s : State) (e st d : Nat) : bridge (setLinkState s e st) d = bridge s d := bridge_regSetBits ..
@[simp] theorem bridge_regCount (s : State) (a n d : Nat) : bridge (regCount s a n) d = bridge s d :=
  bridge_congr (regCount_bridges ..) d
@[simp] theorem bridge_lcount (s : State) (e n k d : Nat) : bridge (lcount s e n k) d = bridge s d := bridge_regCount ..
@[simp] theorem bridge_emit (s : State) (o : Output) (d : Nat) : bridge (emit s o) d = bridge s d := rfl
@[simp] theorem bridge_raiseIrq (s : State) (b d : Nat) : bridge (raiseIrq s b) d = bridge s d :=
  bridge_congr (raiseIrq_keeps s b).bridges d

@[simp] theorem linkState_modLink (s : State) (e d : Nat) (f : Link → Link) : linkState (modLink s e f) d = linkState s d :=
  regBits_congr (t := modLink s e f) rfl ..
@[simp] theorem linkState_emit (s : State) (o : Output) (d : Nat) : linkState (emit s o) d = linkState s d :=
  regBits_congr (t := emit s o) rfl ..

theorem linkState_setLinkState (s : State) (d : Nat) {st : Nat} (h : st < 8) : linkState (setLinkState s d st) d = st := by
  rw [linkState, setLinkState, regBits_regSetBits_same]
  exact Nat.mod_eq_of_lt h

theorem bounds_of_isBridge {d : Nat} (h : isBridge d = true) : 64 ≤ d ∧ d < 100 := by simpa [isBridge] using h

/-- `t` differs from `s` in registers and Bridges alone. -/
def BridgesOnly (s t : State) : Prop := t = { s with regs := t.regs, bridges := t.bridges }

namespace BridgesOnly
variable {s t : State}

theorem trans {u : State} (h : BridgesOnly s t) (h' : BridgesOnly t u) : BridgesOnly s u := by
  unfold BridgesOnly at h h' ⊢
  rw [h', h]
theorem regSetBits (s : State) (a hi lo x : Nat) : BridgesOnly s (regSetBits s a hi lo x) := by
  unfold BridgesOnly
  rw [regSetBits_frame]
theorem regCount (s : State) (a n : Nat) : BridgesOnly s (regCount s a n) := by
  unfold BridgesOnly Machine.regCount
  rw [regPutNat_frame]
theorem modLink (s : State) (d : Nat) (f : Link → Link) : BridgesOnly s (modLink s d f) := rfl
/-- What a link is left in by an event. -/
theorem setLink (s : State) (d st : Nat) (f : Link → Link) : BridgesOnly s (setLinkState (Machine.modLink s d f) d st) :=
  (modLink ..).trans (regSetBits ..)
theorem emit (h : BridgesOnly s t) (o : Output) :
    emit t o = { s with regs := (emit t o).regs, bridges := (emit t o).bridges, out := s.out ++ [o] } := by
  unfold BridgesOnly at h
  rw [h]
  rfl

end BridgesOnly

-- Registers of one word ------------------------------------------------------------------------------------------------

theorem regBits_of_word {s t : State} {a hi : Nat} (h : regWord t a = regWord s a) (lo : Nat) (hh : hi < 32) :
    regBits t a hi lo = regBits s a hi lo := by
  simp only [regBits, Nat.div_eq_of_lt hh, regNat, h]

theorem regWord_regSetBits_ne (s : State) {a b hi : Nat} (lo x : Nat) (hh : hi < 32) (h : b ≠ a) :
    regWord (regSetBits s a hi lo x) b = regWord s b := by
  simp only [regSetBits, Nat.div_eq_of_lt hh, regPutNat, regWord_regPut_ne s _ h]

-- The configuration of a link -----------------------------------------------------------------------------------------

/-- The offsets of the BRG_VLCREDv, of what the check of a configuration reads, and of all that configures a link: with them
BRG_SELF and BRG_PEER, then BRG_LINKCTL and BRG_PEERSN (07). -/
def creditOffsets : List Nat := (List.range 12).map (fun v => 0x40 + 4 * v)
def checkedOffsets : List Nat := [0x0, 0x10] ++ creditOffsets
def configOffsets : List Nat := [0x34, 0x18, 0x1C] ++ checkedOffsets

theorem configOffsets_low : ∀ o ∈ configOffsets, o < 0x100 ∧ o ≠ 0x30 := by decide

theorem creditOffsets_mem {v : Nat} (h : v < 12) : 0x40 + 4 * v ∈ creditOffsets := List.mem_map.mpr ⟨v, List.mem_range.mpr h, rfl⟩

/-- The words of Bridge `d` at the offsets `os` are the same in `t` as in `s`. -/
structure SameWords (d : Nat) (os : List Nat) (s t : State) : Prop where
  word : ∀ o ∈ os, regWord t (dcs d o) = regWord s (dcs d o)

namespace SameWords
variable {d : Nat} {os : List Nat} {s t u : State}

theorem trans (h : SameWords d os s t) (h' : SameWords d os t u) : SameWords d os s u :=
  ⟨fun o ho => (h'.word o ho).trans (h.word o ho)⟩
theorem of_regs (h : t.regs = s.regs) : SameWords d os s t := ⟨fun _ _ => by rw [regWord, regWord, h]⟩
theorem regPutNat (s : State) {p n : Nat} (v : Nat) (h : ∀ o ∈ os, o < p ∨ p + 4 * n ≤ o) :
    SameWords d os s (regPutNat s (dcs d p) v n) :=
  ⟨fun o ho => regWord_regPutNat_out _ _ _ _ _ (by have := h o ho; unfold dcs; omega)⟩

theorem field (h : SameWords d os s t) {o hi : Nat} (lo : Nat) (ho : o ∈ os) (hh : hi < 32) :
    regBits t (dcs d o) hi lo = regBits s (dcs d o) hi lo :=
  regBits_of_word (h.word o ho) lo hh

theorem vlCred (h : SameWords d creditOffsets s t) {v : Nat} (hv : v < 12) : vlCred t d v = vlCred s d v := by
  rw [Machine.vlCred, Machine.vlCred, h.field 0 (creditOffsets_mem hv) (by decide)]

theorem freshLink (h : SameWords d creditOffsets s t) : freshLink t d = freshLink s d := by
  have hadv : (List.range 12).map (Machine.vlCred t d) = (List.range 12).map (Machine.vlCred s d) :=
    List.map_congr_left fun v hv => h.vlCred (List.mem_range.mp hv)
  rw [Machine.freshLink, Machine.freshLink, hadv]

theorem configOk (h : SameWords d checkedOffsets s t) (hd : isBridge d = true) : configOk t d = configOk s d := by
  obtain ⟨h64, h100⟩ := bounds_of_isBridge hd
  have hself : selfAt t d = selfAt s d := by
    simp only [selfAt, if_neg (Nat.not_lt.mpr h64), if_pos h100, h.field (o := 0x0) (hi := 3) 0 (by decide) (by decide),
      h.field (o := 0x0) (hi := 7) 4 (by decide) (by decide)]
  have hcred : SameWords d creditOffsets s t := ⟨fun o ho => h.word o (List.mem_append_right _ ho)⟩
  have hsum : (List.range 12).foldl (fun n v => n + Machine.vlCred t d v) 0 =
      (List.range 12).foldl (fun n v => n + Machine.vlCred s d v) 0 :=
    List.foldl_ext _ _ _ fun n v hv => by rw [hcred.vlCred (List.mem_range.mp hv)]
  simp only [Machine.configOk, hself, hsum, h.field (o := 0x10) (hi := 3) 0 (by decide) (by decide),
    h.field (o := 0x10) (hi := 7) 4 (by decide) (by decide)]

end SameWords

/-- The link of Bridge `d` is configured in `t` as in `s`. -/
abbrev KeepsConfig (d : Nat) (s t : State) : Prop := SameWords d configOffsets s t

namespace KeepsConfig
variable {d : Nat} {s t : State}

theorem of_linkRegs (hd : d < 100) (h : KeepsLinkRegs s t) : KeepsConfig d s t :=
  ⟨fun o ho => h.word d hd o (configOffsets_low o ho).1⟩
/-- BRG_LINKSTAT is none of the configuration. -/
theorem setStat (s : State) {hi : Nat} (lo x : Nat) (h : hi < 32) : KeepsConfig d s (regSetBits s (dcs d 0x30) hi lo x) :=
  ⟨fun o ho => regWord_regSetBits_ne s lo x h fun he => (configOffsets_low o ho).2 (Nat.add_left_cancel he)⟩
theorem setLinkState (s : State) (st : Nat) : KeepsConfig d s (setLinkState s d st) := setStat s 0 st (by decide)

theorem checked (h : KeepsConfig d s t) : SameWords d checkedOffsets s t := ⟨fun o ho => h.word o (List.mem_append_right _ ho)⟩
theorem credit (h : KeepsConfig d s t) : SameWords d creditOffsets s t := ⟨fun o ho => h.checked.word o (List.mem_append_right _ ho)⟩

theorem enable (h : KeepsConfig d s t) : regBits t (dcs d 0x34) 0 0 = regBits s (dcs d 0x34) 0 0 :=
  h.field 0 (by decide) (by decide)

theorem peerSn (h : KeepsConfig d s t) : regNat t (dcs d 0x18) 2 = regNat s (dcs d 0x18) 2 := by
  have hlow := h.word 0x18 (by decide)
  have hhigh := h.word 0x1C (by decide)
  simp only [regNat, dcs_add, hlow, hhigh, Nat.reduceAdd]

theorem trainState (h : KeepsConfig d s t) (hd : isBridge d = true) : trainState t d = trainState s d := by
  rw [Machine.trainState, Machine.trainState, mayTrain, mayTrain, h.checked.configOk hd, h.enable,
    h.field (o := 0x0) (hi := 8) 8 (by decide) (by decide), h.field (o := 0x10) (hi := 16) 16 (by decide) (by decide)]

end KeepsConfig

theorem trainState_lt (s : State) (d : Nat) : trainState s d < 8 := by
  unfold trainState
  split
  · decide
  · split <;> decide

/-- A link that is enabled trains when its own position and the expected peer are valid and its configuration is (07 R480). -/
theorem trainState_enabled {s : State} {d : Nat} (h : regBits s (dcs d 0x34) 0 0 = 1) : trainState s d =
    if regBits s (dcs d 0x0) 8 8 = 1 ∧ regBits s (dcs d 0x10) 16 16 = 1 then (if configOk s d then lsTRAINING else lsCONFIG)
      else lsDISABLED := by
  by_cases hv : regBits s (dcs d 0x0) 8 8 = 1 ∧ regBits s (dcs d 0x10) 16 16 = 1
  · cases hc : configOk s d <;> simp [trainState, mayTrain, h, hv, hc]
  · simp only [trainState, mayTrain, h, decide_true, Bool.true_and, if_neg hv]
    rw [if_pos (by simpa [imp_iff_not_or] using hv)]

/-- `t` is `s` after the link of Bridge `d` began to train anew: configured as before, it takes the credits it will advertise and
stands in the state its configuration gives (07 R192, R480). -/
structure Trains (d : Nat) (s t : State) : Prop where
  config : KeepsConfig d s t
  link : (bridge t d).link = freshLink s d
  state : linkState t d = trainState t d

theorem Trains.emit {d : Nat} {s t : State} (hd : isBridge d = true) (h : Trains d s t) (o : Output) : Trains d s (emit t o) where
  config := h.config.trans (.of_regs rfl)
  link := h.link
  state := by
    have hk : KeepsConfig d t (Machine.emit t o) := .of_regs rfl
    rw [linkState_emit, h.state, hk.trainState hd]

theorem Trains.setLinkState {d : Nat} {s u : State} (hd : isBridge d = true) (hu : KeepsConfig d s u)
    (hl : (bridge u d).link = freshLink s d) : Trains d s (setLinkState u d (trainState u d)) where
  config := hu.trans (KeepsConfig.setLinkState ..)
  link := by rw [bridge_setLinkState, hl]
  state := by
    have hk : KeepsConfig d u (Machine.setLinkState u d (trainState u d)) := KeepsConfig.setLinkState ..
    rw [linkState_setLinkState _ _ (trainState_lt u d), hk.trainState hd]

/-- Training that starts again without a departure (07 R480). -/
theorem restartTraining_down {s : State} {d : Nat} (h : linkState s d ≠ lsUP) :
    restartTraining s d = setLinkState (modLink s d (fun _ => freshLink s d)) d (trainState s d) := if_neg h

theorem restartTraining_trains {s : State} {d : Nat} (hd : isBridge d = true) (h : linkState s d ≠ lsUP) :
    Trains d s (restartTraining s d) := by
  have hk : KeepsConfig d s (modLink s d fun _ => freshLink s d) := .of_regs (modBridge_regs ..)
  rw [restartTraining_down h, ← hk.trainState hd]
  exact .setLinkState hd hk (by rw [bridge_modLink_same])

-- Class L -------------------------------------------------------------------------------------------------------------

/-- A clear of some classes leaves a word none of whose fields are of them. -/
theorem regWord_clearRegs_kept {q : Cls → Bool} {a : Nat} (h : ∀ v, clearedWord q a v = v) (s : State) (dies : Nat → Bool) :
    regWord (clearRegs s dies q) a = regWord s a := by
  have hget : smGet none (clearRegs s dies q).regs a = smGet none s.regs a := by
    unfold clearRegs
    induction s.regs with
    | nil => rfl
    | cons e m ih =>
      obtain ⟨b, w⟩ := e
      cases w with
      | none => simp only [List.map_cons, smGet, ih]
      | some v =>
        by_cases hb : b = a
        · subst hb
          by_cases hd : dies (b / 2 ^ 24) <;> simp only [List.map_cons, smGet, hd, h, if_true, Bool.false_eq_true, if_false]
        · by_cases hd : dies (b / 2 ^ 24) <;> simp only [List.map_cons, smGet, hd, hb, ih, if_true, Bool.false_eq_true, if_false]
  rw [regWord, regWord, hget]

/-- No field of a link's configuration is of class L (07). -/
theorem config_not_classL : ∀ o ∈ configOffsets,
    (findIn regTable .bridge o).all (fun x => x.1.fields.all (fun f => !decide (f.cls = .l))) = true := by decide +kernel

/-- A clear of class L leaves a word whose register has no field of that class. -/
theorem clearedWord_not_classL {a : Nat} (h : (findReg a).all (fun x => x.1.fields.all (fun f => !decide (f.cls = .l))) = true)
    (v : Word) : clearedWord (fun q => q = .l) a v = v := by
  unfold clearedWord
  split
  · rfl
  · next r w hf =>
    rw [hf, Option.all_some, List.all_eq_true] at h
    have hm : maskOf (fun f => decide (f.cls = .l)) w r.fields = 0#32 := maskOf_none _ fun f hf' => by simpa using h f hf'
    simp only [hm, BitVec.not_zero, BitVec.and_allOnes, BitVec.and_zero, BitVec.or_zero]

theorem clearedWord_config {d o : Nat} (hd : isBridge d = true) (ho : o ∈ configOffsets) (v : Word) :
    clearedWord (fun q => q = .l) (dcs d o) v = v := by
  obtain ⟨h64, h100⟩ := bounds_of_isBridge hd
  have hlow := (configOffsets_low o ho).1
  refine clearedWord_not_classL ?_ v
  rw [findReg_dcs (dieKind_bridge h64 h100) (by omega)]
  exact config_not_classL o ho

theorem clearL_config {d : Nat} (hd : isBridge d = true) (s : State) (keep : Bool) : KeepsConfig d s (clearL s d keep) := by
  have hclear : KeepsConfig d s (clearRegs s (fun x => x = d) (fun q => q = .l)) :=
    ⟨fun o ho => regWord_clearRegs_kept (clearedWord_config hd ho) s _⟩
  cases keep with
  | false => exact hclear
  | true => exact hclear.trans ⟨fun o ho => regWord_regPut_ne _ _ fun he => (configOffsets_low o ho).2 (Nat.add_left_cancel he)⟩

theorem clearL_bridges (s : State) (d : Nat) (keep : Bool) : (clearL s d keep).bridges = s.bridges := by
  cases keep <;> rfl

-- Queues at rest ------------------------------------------------------------------------------------------------------

/-- Every Bridge of `t` has the link and the receive space it has in `s`. -/
structure KeepsPorts (s t : State) : Prop where
  link : ∀ d, (bridge t d).link = (bridge s d).link
  recv : ∀ d, (bridge t d).recv = (bridge s d).recv

namespace KeepsPorts
variable {s t u : State}

theorem refl (s : State) : KeepsPorts s s := ⟨fun _ => rfl, fun _ => rfl⟩
theorem trans (h : KeepsPorts s t) (h' : KeepsPorts t u) : KeepsPorts s u :=
  ⟨fun d => (h'.link d).trans (h.link d), fun d => (h'.recv d).trans (h.recv d)⟩
theorem of_bridges (h : t.bridges = s.bridges) : KeepsPorts s t :=
  ⟨fun d => congrArg Bridge.link (bridge_congr h d), fun d => congrArg Bridge.recv (bridge_congr h d)⟩
theorem foldl {α : Type} {f : State → α → State} (h : ∀ a x, KeepsPorts a (f a x)) (l : List α) (s : State) :
    KeepsPorts s (l.foldl f s) :=
  foldl_keeps refl (fun _ _ _ => trans) h l s
theorem modBridge {f : Bridge → Bridge} (hl : ∀ b, (f b).link = b.link) (hr : ∀ b, (f b).recv = b.recv) (s : State) (d : Nat) :
    KeepsPorts s (modBridge s d f) := by
  have hb : ∀ e, bridge (Machine.modBridge s d f) e = if e = d then f (bridge s d) else bridge s e := fun e => smGet_smSet ..
  constructor <;> intro e <;> rw [hb] <;> split
  · next h => rw [hl, h]
  · rfl
  · next h => rw [hr, h]
  · rfl

end KeepsPorts

theorem setVoq_ports (s : State) (d q : Nat) (v : Voq) : KeepsPorts s (setVoq s d q v) :=
  .modBridge (f := fun b => { b with voqs := smSet Voq.reset b.voqs q v }) (fun _ => rfl) (fun _ => rfl) s d
theorem setSched_ports (s : State) (d o : Nat) (x : Sched) : KeepsPorts s (setSched s d o x) :=
  .modBridge (f := fun b => { b with scheds := smSet Sched.reset b.scheds o x }) (fun _ => rfl) (fun _ => rfl) s d

theorem restVoqs_ports (s : State) (d : Nat) : KeepsPorts s (restVoqs s d) := by
  refine .foldl (fun a x => ?_) _ s
  split
  · exact setVoq_ports ..
  · exact .refl a

theorem restSched_ports (s : State) (d o : Nat) : KeepsPorts s (restSched s d o) := by
  unfold restSched
  extract_lets x gone y z t
  have ht : KeepsPorts s t := setSched_ports s d o z
  split
  · exact .refl s
  · split
    · exact ht.trans (.of_bridges (regPutNat_bridges ..))
    · exact ht

/-- Bringing queues to rest touches tags alone: links and receive spaces stay (09 R242). -/
theorem restQueues_ports (s : State) : KeepsPorts s (restQueues s) := by
  have hsched : ∀ (a : State) (b : Nat × Bridge), KeepsPorts a (b.2.scheds.foldl (fun s x => restSched s b.1 x.1) a) :=
    fun a b => .foldl (fun _ _ => restSched_ports ..) _ a
  exact .trans (.foldl restVoqs_ports _ s) (.foldl hsched _ _)

-- Resets and departures -----------------------------------------------------------------------------------------------

/-- `t` is `s` after the link of Bridge `d` was reset: configured as before, it starts anew, and of its receive space only what the
attachment brought is left (08 R233, 16 R425). -/
structure LinkCleared (d : Nat) (s t : State) : Prop where
  config : KeepsConfig d s t
  link : (bridge t d).link = freshLink s d
  recv : ∀ e ∈ (bridge t d).recv, e.port = .localPort

theorem recv_dropLinkRx (s : State) (d : Nat) : ∀ e ∈ (bridge (dropLinkRx s d) d).recv, e.port = .localPort := by
  unfold dropLinkRx
  extract_lets nums s₁ lost s₂
  rw [modBridge, bridge_setBridge_same]
  intro e he
  have hp := (List.mem_filter.mp he).2
  cases h : e.port with
  | localPort => rfl
  | link => simp [h] at hp

/-- A link is cleared when its receive space goes and it is fresh, and what follows leaves its configuration, links and receive
spaces. -/
theorem LinkCleared.of_fresh {d : Nat} {s u t : State} (hd : isBridge d = true) (hs : KeepsConfig d s u)
    (ht : KeepsConfig d (modLink (dropLinkRx u d) d (fun _ => freshLink u d)) t)
    (hp : KeepsPorts (modLink (dropLinkRx u d) d (fun _ => freshLink u d)) t) : LinkCleared d s t where
  config := (hs.trans (KeepsConfig.of_linkRegs (bounds_of_isBridge hd).2 (dropLinkRx_linkRegs u d))).trans
    (.trans (.of_regs (modBridge_regs ..)) ht)
  link := by rw [hp.link, bridge_modLink_same, hs.credit.freshLink]
  recv := by
    rw [hp.recv, bridge_modLink_same]
    exact recv_dropLinkRx u d

/-- A departure from UP: the link is cleared, takes the state it is to have, and interrupt 23 follows (07 R480). -/
theorem departUp_cleared {d : Nat} (hd : isBridge d = true) (s : State) (next : State → Nat → Nat) :
    ∃ u, LinkCleared d s u ∧ departUp s d next = raiseIrq (setLinkState u d (next u d)) 23 := by
  have h100 := (bounds_of_isBridge hd).2
  unfold departUp
  extract_lets a n s₁ s₂ s₃ s₄
  have hstat : KeepsConfig d s s₁ := (KeepsConfig.setStat s _ _ (by decide)).trans (KeepsConfig.setStat _ _ _ (by decide))
  have hlost : KeepsConfig d s s₂ :=
    (hstat.trans (KeepsConfig.setLinkState ..)).trans (KeepsConfig.of_linkRegs h100 (loseFrames_linkRegs ..))
  have hrest : KeepsPorts s₃ s₄ := .trans (.of_bridges (clearL_bridges ..)) (restQueues_ports _)
  have hconfig : KeepsConfig d s₃ s₄ := (clearL_config hd _ _).trans (KeepsConfig.of_linkRegs h100 (restQueues_linkRegs _))
  exact ⟨s₄, .of_fresh hd hlost hconfig hrest, rfl⟩

/-- What a departed link is left with. -/
theorem departUp_departs {d : Nat} (hd : isBridge d = true) (s : State) {next : State → Nat → Nat} (hn : ∀ u, next u d < 8) :
    ∃ u, KeepsConfig d u (departUp s d next) ∧ LinkCleared d s (departUp s d next) ∧ linkState (departUp s d next) d = next u d := by
  have h100 := (bounds_of_isBridge hd).2
  obtain ⟨u, hu, ht⟩ := departUp_cleared hd s next
  have hirq := raiseIrq_linkRegs (setLinkState u d (next u d)) (b := 23) (by decide)
  have hconfig : KeepsConfig d u (departUp s d next) := ht ▸ (KeepsConfig.setLinkState u _).trans (KeepsConfig.of_linkRegs h100 hirq)
  refine ⟨u, hconfig, ⟨hu.config.trans hconfig, ?_, ?_⟩, ?_⟩
  · rw [ht, bridge_raiseIrq, bridge_setLinkState, hu.link]
  · rw [ht, bridge_raiseIrq, bridge_setLinkState]
    exact hu.recv
  · have hstat : linkState (raiseIrq (setLinkState u d (next u d)) 23) d = linkState (setLinkState u d (next u d)) d :=
      regBits_of_word (hirq.word d h100 0x30 (by decide)) 0 (by decide)
    rw [ht, hstat, linkState_setLinkState _ _ (hn u)]

/-- A departure that trains at once ends in the state its configuration gives (07 R480). -/
theorem departUp_trains {d : Nat} (hd : isBridge d = true) (s : State) : Trains d s (departUp s d trainState) := by
  obtain ⟨u, hu, hc, hst⟩ := departUp_departs hd s fun u => trainState_lt u d
  exact ⟨hc.config, hc.link, by rw [hst, hu.trainState hd]⟩

/-- A reset of a link that is not UP clears it, and it starts to train (16 R425). -/
theorem linkReset_trains {s : State} {d : Nat} (hd : isBridge d = true) (h : linkState s d ≠ lsUP) :
    Trains d s (linkReset s d) ∧ ∀ e ∈ (bridge (linkReset s d) d).recv, e.port = .localPort := by
  unfold linkReset
  extract_lets s₁ s₂ s₃
  have hs : s₁ = s := if_neg h
  have hrest := restQueues_linkRegs (modLink (dropLinkRx s₁ d) d fun _ => freshLink s₁ d)
  have hconfig := (KeepsConfig.of_linkRegs (d := d) (bounds_of_isBridge hd).2 hrest).trans (clearL_config hd s₂ false)
  have hports : KeepsPorts _ s₃ := (restQueues_ports _).trans (.of_bridges (clearL_bridges s₂ d false))
  have hcleared : LinkCleared d s s₃ := .of_fresh hd (.of_regs (hs ▸ rfl)) hconfig hports
  refine ⟨.setLinkState hd hcleared.config hcleared.link, ?_⟩
  rw [bridge_setLinkState]
  exact hcleared.recv

end Sys2Proof.Machine
end

section
/-! SUPPORT. What the host's link commands and the events of the lanes answer: ENABLE, RETRAIN, BRG_PEERSN, group lock and signal loss
(07 R190, R480; 18 R472). -/
namespace Sys2Proof.Machine
open Sys2Proof.Safety

section Commands
variable {s : State} {d : Nat}

-- ENABLE --------------------------------------------------------------------------------------------------------------

theorem linkEnable_served (hd : isBridge d = true) (hs : Served s d) :
    exec (.linkEnable d) s = .next (emit (enableLink s d) (.mmioDone true)) := bridgeWrite_of hd hs
theorem linkDisable_served (hd : isBridge d = true) (hs : Served s d) :
    exec (.linkDisable d) s = .next (emit (clearEnable s d) (.mmioDone true)) := bridgeWrite_of hd hs
theorem linkRetrain_served (hd : isBridge d = true) (hs : Served s d) :
    exec (.linkRetrain d) s = .next (emit (linkReset s d) (.mmioDone true)) := bridgeWrite_of hd hs
theorem linkConfigWrite_served (hd : isBridge d = true) (hs : Served s d) (r : LinkReg) (v : BitVec 64) :
    exec (.linkConfigWrite d r v) s = .next (emit (linkConfigWrite s d r v.toNat) (.mmioDone true)) := bridgeWrite_of hd hs

/-- The state with ENABLE written. -/
abbrev withEnable (s : State) (d x : Nat) : State := regSetBits s (dcs d 0x34) 0 0 x

theorem enable_withEnable (x : Nat) : regBits (withEnable s d x) (dcs d 0x34) 0 0 = x % 2 := regBits_regSetBits_same ..
theorem linkState_withEnable (x : Nat) : linkState (withEnable s d x) d = linkState s d :=
  regBits_regSetBits_ne s x (.inl le_rfl)
theorem checked_withEnable (x : Nat) : SameWords d checkedOffsets s (withEnable s d x) := .regPutNat s _ (by decide)
theorem freshLink_withEnable (x : Nat) : freshLink (withEnable s d x) d = freshLink s d :=
  SameWords.freshLink (.regPutNat s _ (by decide))

theorem enableLink_rises (h : regBits s (dcs d 0x34) 0 0 = 0) : enableLink s d = restartTraining (withEnable s d 1) d :=
  if_neg (by rw [h]; decide)

theorem clearEnable_down (h : linkState s d ≠ lsUP) :
    clearEnable s d = setLinkState (modLink (withEnable s d 0) d (fun _ => freshLink (withEnable s d 0) d)) d lsDISABLED :=
  if_neg (by rwa [linkState_withEnable])

theorem clearEnable_up (h : linkState s d = lsUP) : clearEnable s d =
    if atBoundary (bridge s d).link then departUp (withEnable s d 0) d (fun _ _ => lsDISABLED)
      else modLink (withEnable s d 0) d (fun l => { l with downAsked := true }) := by
  unfold clearEnable
  simp only [linkState_withEnable, if_pos h, bridge_regSetBits]
  rfl

/-- A cleared ENABLE outlasts what leaves the configuration. -/
theorem KeepsConfig.disabled {t : State} (h : KeepsConfig d (withEnable s d 0) t) : regBits t (dcs d 0x34) 0 0 = 0 := by
  rw [h.enable, enable_withEnable]

-- BRG_PEERSN ----------------------------------------------------------------------------------------------------------

/-- A software write of a word all of whose bits are writable is a write of it. -/
theorem regWrite_writable {a w : Nat} {r : RegDef} (hf : findReg a = some (r, w))
    (hrw : maskOf (fun f => f.acc = .rw) w r.fields = BitVec.allOnes 32) (hw1 : maskOf (fun f => f.acc = .w1c) w r.fields = 0#32)
    (s : State) (v : Word) : regWrite s a v = regPut s a v := by
  simp only [regWrite, hf, writtenWord, hrw, hw1, BitVec.not_allOnes, BitVec.and_zero, BitVec.zero_or, BitVec.not_zero,
    BitVec.and_allOnes]

theorem peerSn_writable : ∀ o ∈ [0x18, 0x1C], ∃ x, findIn regTable .bridge o = some x ∧
    maskOf (fun f => f.acc = .rw) x.2 x.1.fields = BitVec.allOnes 32 ∧ maskOf (fun f => f.acc = .w1c) x.2 x.1.fields = 0#32 := by
  simp only [List.mem_cons, List.not_mem_nil, or_false, forall_eq_or_imp, forall_eq]
  exact ⟨⟨_, rfl, by decide +kernel, by decide +kernel⟩, _, rfl, by decide +kernel, by decide +kernel⟩

theorem regWrite_peerSn (hd : isBridge d = true) {o : Nat} (ho : o ∈ [0x18, 0x1C]) (s : State) (v : Word) :
    regWrite s (dcs d o) v = regPut s (dcs d o) v := by
  obtain ⟨h64, h100⟩ := bounds_of_isBridge hd
  obtain ⟨x, hx, hrw, hw1⟩ := peerSn_writable o ho
  have hlow : ∀ o ∈ [0x18, 0x1C], o < 2 ^ 24 := by decide
  exact regWrite_writable ((findReg_dcs (dieKind_bridge h64 h100) (hlow o ho)).trans hx) hrw hw1 s v

/-- A write of BRG_PEERSN that changes it restarts training (07 R480). -/
theorem linkConfigWrite_peerSn (hd : isBridge d = true) {v : Nat} (hv : v < 2 ^ 64) (h : regNat s (dcs d 0x18) 2 ≠ v) :
    linkConfigWrite s d .peerSn v = restartTraining (regPutNat s (dcs d 0x18) v 2) d := by
  have hput : (List.range 2).foldl (fun s i => regWrite s (dcs d 0x18 + 4 * i) (BitVec.ofNat 32 (v >>> (32 * i)))) s =
      regPutNat s (dcs d 0x18) v 2 := by
    simp only [List.range_succ, List.range_zero, List.nil_append, List.foldl_append, List.foldl_cons, List.foldl_nil, dcs_add,
      regPutNat, Nat.reduceMul, Nat.reduceAdd, Nat.shiftRight_eq_div_pow, pow_zero, Nat.div_one,
      regWrite_peerSn hd (show 0x18 ∈ [0x18, 0x1C] by decide), regWrite_peerSn hd (show 0x1C ∈ [0x18, 0x1C] by decide)]
  have hnew : regNat (regPutNat s (dcs d 0x18) v 2) (dcs d 0x18) 2 = v := by
    rw [regNat_regPutNat_same]
    exact Nat.mod_eq_of_lt hv
  unfold linkConfigWrite
  simp only [hput, hnew]
  exact if_pos (.inl (Ne.symm h))

-- The lanes -----------------------------------------------------------------------------------------------------------

theorem linkLock_locks (hb : BridgeWorks s d) (h : linkState s d = lsTRAINING) :
    exec (.linkLock d) s = .next (setLinkState (modLink s d againLink) d lsEXCHANGE) :=
  (bridgeCmd_works hb).trans (congrArg _ (if_pos h))

theorem linkSignalLoss_unlocks (hb : BridgeWorks s d) (h : linkState s d = lsEXCHANGE) :
    exec (.linkSignalLoss d) s = .next (setLinkState (modLink s d againLink) d lsTRAINING) := by
  have hup : linkState s d ≠ lsUP := by
    rw [h]
    decide
  show execLinkSignalLoss d s = _
  rw [execLinkSignalLoss, bridgeCmd_works hb, if_neg hup, if_pos h]

end Commands

-- The clauses ---------------------------------------------------------------------------------------------------------

section Clauses
variable {s : State} {d : Nat}

/-- ENABLE from 0 to 1 starts training at once. -/
theorem linkEnable_starts (hd : isBridge d = true) (hs : Served s d) (h0 : regBits s (dcs d 0x34) 0 0 = 0) (hup : linkState s d ≠ lsUP) :
    ∃ t, exec (.linkEnable d) s = .next t ∧ regBits t (dcs d 0x34) 0 0 = 1 ∧ (bridge t d).link = freshLink s d ∧
      linkState t d = (if regBits s (dcs d 0x0) 8 8 = 1 ∧ regBits s (dcs d 0x10) 16 16 = 1
        then (if configOk s d then lsTRAINING else lsCONFIG) else lsDISABLED) ∧
      (∀ e, e ≠ d → bridge t e = bridge s e) ∧ t.out = s.out ++ [.mmioDone true] ∧
      t = { s with regs := t.regs, bridges := t.bridges, out := t.out } := by
  have hup' : linkState (withEnable s d 1) d ≠ lsUP := by rwa [linkState_withEnable]
  have htrain := (restartTraining_trains hd hup').emit hd (.mmioDone true)
  have hon : regBits (emit (restartTraining (withEnable s d 1) d) (.mmioDone true)) (dcs d 0x34) 0 0 = 1 := by
    rw [KeepsConfig.enable htrain.config, enable_withEnable]
  have honly : BridgesOnly s (restartTraining (withEnable s d 1) d) := by
    rw [restartTraining_down hup']
    exact (BridgesOnly.regSetBits ..).trans (.setLink ..)
  have hcheck := (checked_withEnable (s := s) (d := d) 1).trans (KeepsConfig.checked htrain.config)
  refine ⟨_, by rw [linkEnable_served hd hs, enableLink_rises h0], hon, ?_, ?_, ?_, ?_, ?_⟩
  · rw [htrain.link, freshLink_withEnable]
  · rw [htrain.state, trainState_enabled hon, hcheck.configOk hd, hcheck.field (o := 0x0) (hi := 8) 8 (by decide) (by decide),
      hcheck.field (o := 0x10) (hi := 16) 16 (by decide) (by decide)]
  · intro e he
    rw [bridge_emit, restartTraining_down hup', bridge_setLinkState, bridge_modLink_ne _ _ he, bridge_regSetBits]
  · exact congrArg State.out (honly.emit _)
  · rw [honly.emit]

/-- ENABLE from 1 to 0 takes a link that is not UP to DISABLED. -/
theorem linkDisable_down (hd : isBridge d = true) (hs : Served s d) (hup : linkState s d ≠ lsUP) :
    ∃ t, exec (.linkDisable d) s = .next t ∧ regBits t (dcs d 0x34) 0 0 = 0 ∧ (bridge t d).link = freshLink s d ∧
      linkState t d = lsDISABLED ∧ t = { s with regs := t.regs, bridges := t.bridges, out := s.out ++ [.mmioDone true] } := by
  have honly : BridgesOnly s (clearEnable s d) := by
    rw [clearEnable_down hup]
    exact (BridgesOnly.regSetBits ..).trans (.setLink ..)
  have hconfig : KeepsConfig d (withEnable s d 0) (emit (clearEnable s d) (.mmioDone true)) := by
    rw [clearEnable_down hup]
    exact (SameWords.of_regs (modBridge_regs ..)).trans ((KeepsConfig.setLinkState ..).trans (.of_regs rfl))
  refine ⟨_, linkDisable_served hd hs, hconfig.disabled, ?_, ?_, honly.emit _⟩
  · rw [clearEnable_down hup, bridge_emit, bridge_setLinkState, bridge_modLink_same, freshLink_withEnable]
  · rw [clearEnable_down hup, linkState_emit, linkState_setLinkState _ _ (by decide)]

/-- An UP link waits for the frame boundary. -/
theorem linkDisable_waits (hd : isBridge d = true) (hs : Served s d) (hup : linkState s d = lsUP)
    (hb : atBoundary (bridge s d).link = false) :
    ∃ t, exec (.linkDisable d) s = .next t ∧ regBits t (dcs d 0x34) 0 0 = 0 ∧ linkState t d = lsUP ∧
      (bridge t d).link = { (bridge s d).link with downAsked := true } := by
  refine ⟨_, by rw [linkDisable_served hd hs, clearEnable_up hup, if_neg (by simp [hb])], ?_, ?_, ?_⟩
  · exact KeepsConfig.disabled (.of_regs rfl)
  · rw [linkState_emit, linkState_modLink, linkState_withEnable, hup]
  · rw [bridge_emit, bridge_modLink_same, bridge_regSetBits]

/-- At a frame boundary an UP link goes to DISABLED. -/
theorem linkDisable_departs (hd : isBridge d = true) (hs : Served s d) (hup : linkState s d = lsUP)
    (hb : atBoundary (bridge s d).link = true) :
    ∃ t, exec (.linkDisable d) s = .next t ∧ regBits t (dcs d 0x34) 0 0 = 0 ∧ linkState t d = lsDISABLED ∧
      (bridge t d).link = freshLink s d := by
  obtain ⟨u, -, hcleared, hstate⟩ := departUp_departs hd (withEnable s d 0) (next := fun _ _ => lsDISABLED) fun _ => by decide
  refine ⟨_, by rw [linkDisable_served hd hs, clearEnable_up hup, if_pos hb], ?_, ?_, ?_⟩
  · exact KeepsConfig.disabled (hcleared.config.trans (.of_regs rfl))
  · rw [linkState_emit, hstate]
  · rw [bridge_emit, hcleared.link, freshLink_withEnable]

/-- ENABLE set again while the write of 0 waits: the link departs and trains. -/
theorem linkEnable_restarts (hd : isBridge d = true) (hs : Served s d) (hup : linkState s d = lsUP)
    (h0 : regBits s (dcs d 0x34) 0 0 = 0) : ∃ t, exec (.linkEnable d) s = .next t ∧ linkState t d = trainState t d := by
  have hdepart : restartTraining (withEnable s d 1) d = departUp (withEnable s d 1) d trainState :=
    if_pos (by rw [linkState_withEnable, hup])
  exact ⟨_, by rw [linkEnable_served hd hs, enableLink_rises h0, hdepart], ((departUp_trains hd _).emit hd _).state⟩

/-- RETRAIN resets the link. -/
theorem linkRetrain_resets (hd : isBridge d = true) (hs : Served s d) (hup : linkState s d ≠ lsUP) :
    ∃ t, exec (.linkRetrain d) s = .next t ∧ linkState t d = trainState t d ∧ (bridge t d).link = freshLink s d ∧
      ∀ e ∈ (bridge t d).recv, e.port = .localPort := by
  obtain ⟨htrain, hrecv⟩ := linkReset_trains hd hup
  have htrain := htrain.emit hd (.mmioDone true)
  refine ⟨_, linkRetrain_served hd hs, htrain.state, htrain.link, ?_⟩
  rw [bridge_emit]
  exact hrecv

/-- A changed BRG_PEERSN restarts training. -/
theorem linkConfigWrite_restarts (hd : isBridge d = true) (hs : Served s d) (hup : linkState s d ≠ lsUP) {v : BitVec 64}
    (hv : regNat s (dcs d 0x18) 2 ≠ v.toNat) :
    ∃ t, exec (.linkConfigWrite d .peerSn v) s = .next t ∧ regNat t (dcs d 0x18) 2 = v.toNat ∧
      linkState t d = trainState t d ∧ (bridge t d).link = freshLink s d := by
  have hup' : linkState (regPutNat s (dcs d 0x18) v.toNat 2) d ≠ lsUP := by
    rwa [linkState, regBits, regNat_regPutNat_ne s (.inr (by unfold dcs; omega))]
  have hcred : SameWords d creditOffsets s (regPutNat s (dcs d 0x18) v.toNat 2) := .regPutNat s _ (by decide)
  have htrain := (restartTraining_trains hd hup').emit hd (.mmioDone true)
  refine ⟨_, by rw [linkConfigWrite_served hd hs, linkConfigWrite_peerSn hd v.isLt hv], ?_, htrain.state, ?_⟩
  · rw [KeepsConfig.peerSn htrain.config, regNat_regPutNat_same]
    exact Nat.mod_eq_of_lt v.isLt
  · rw [htrain.link, hcred.freshLink]

/-- A link whose training goes on or back: what is left of it. -/
theorem againLink_leaves (s : State) (d : Nat) {st : Nat} (h : st < 8) : let t := setLinkState (modLink s d againLink) d st
    linkState t d = st ∧ (bridge t d).link = againLink (bridge s d).link ∧ t = { s with regs := t.regs, bridges := t.bridges } :=
  ⟨linkState_setLinkState _ _ h, by rw [bridge_setLinkState, bridge_modLink_same], BridgesOnly.setLink ..⟩

end Clauses

end Sys2Proof.Machine
end

section
/-! SUPPORT. The groups of a link: what one that is sent carries, and what one that is received changes (17 R446, R450; 18 R469 to R472). -/
namespace Sys2Proof.Machine
open Sys2Proof.Safety

-- Control words -------------------------------------------------------------------------------------------------------

/-- LCRC covers the low 288 bits of the control word (18 R470). -/
theorem groupCrc_low {a b : Nat} (h : a % 2 ^ 288 = b % 2 ^ 288) (slots : List (BitVec 512)) : groupCrc a slots = groupCrc b slots := by
  rw [groupCrc, groupCrc, h]

/-- A group that was made carries a valid LCRC. -/
theorem mkGroup_lcrc {ctl : Nat} (h : ctl < 2 ^ 288) (slots : List (BitVec 512)) :
    bitsOf (mkGroup ctl slots).ctl.toNat 319 288 = (groupCrc (mkGroup ctl slots).ctl.toNat slots).toNat := by
  have hcrc : (groupCrc ctl slots).toNat < 2 ^ 32 := BitVec.isLt _
  have hctl : (mkGroup ctl slots).ctl.toNat = ctl + (groupCrc ctl slots).toNat * 2 ^ 288 := by
    rw [mkGroup, BitVec.toNat_ofNat, Nat.shiftLeft_eq]
    omega
  rw [groupCrc_low (a := (mkGroup ctl slots).ctl.toNat) (b := ctl) (by rw [hctl]; omega), hctl, bitsOf, Nat.shiftRight_eq_div_pow]
  omega

/-- The flits of the next group of an UP link: from the cursor, while the retry buffer takes them (18 R471). -/
def upSlots (l : Link) : List (BitVec 512) :=
  let fl := (unackedFlits l).drop l.cursor
  fl.take (min 160 ((l.inBuf - l.cursor) + min (fl.length - (l.inBuf - l.cursor)) (4096 - l.inBuf)))

/-- Their control word (18 R470). -/
def upControl (l : Link) : Nat :=
  (l.seqBase + BitVec.ofNat 16 l.cursor).toNat + l.expect.toNat <<< 16 + (l.rnum % 16) <<< 32 +
    (upSlots l).length <<< 36 + (credField l.ret) <<< 44 + 1 <<< 140

/-- The link once that group has been sent: the cursor is behind it, and its credits have been returned. -/
def afterSend (l : Link) : Link :=
  { l with cursor := l.cursor + (upSlots l).length, inBuf := max l.inBuf (l.cursor + (upSlots l).length)
           ret := l.ret.map (fun n => n - min 255 n) }

/-- The control word of the next group in EXCHANGE (18 R472). -/
def exchangeControl (s : State) (d : Nat) : Nat :=
  let l := (bridge s d).link
  l.expect.toNat <<< 16 + (l.rnum % 16) <<< 32 + (exchangeWord s d l.kind) <<< 44

theorem upSlots_length (l : Link) : (upSlots l).length ≤ 160 := by
  rw [upSlots, List.length_take]
  omega

theorem upSlots_prefix (l : Link) : upSlots l <+: (unackedFlits l).drop l.cursor := List.take_prefix ..

theorem upControl_lt {l : Link} (h : l.ret.length = 12) : upControl l < 2 ^ 288 := by
  have hcred : credField l.ret < 2 ^ 96 := by
    have := packNat_lt 8 (l.ret.map fun n => min 255 n)
    rwa [List.length_map, h] at this
  have hseq := (l.seqBase + BitVec.ofNat 16 l.cursor).isLt
  have hack := l.expect.isLt
  have hlen := upSlots_length l
  simp only [upControl, Nat.shiftLeft_eq]
  omega

theorem regBits_lt (s : State) (a hi lo : Nat) : regBits s a hi lo < 2 ^ (hi + 1 - lo) := Nat.mod_lt _ (by positivity)

/-- An exchange word fits the 96 bits of CRED (18 R472). -/
theorem exchangeWord_lt {s : State} {d k : Nat} (hd : isBridge d = true) (hk : k ≤ 3) (hv : (bridge s d).link.verdict ≤ 2) :
    exchangeWord s d k < 2 ^ 96 := by
  obtain ⟨h64, h100⟩ := bounds_of_isBridge hd
  unfold exchangeWord
  split
  · have hy : (selfAt s d).1 < 2 ^ 4 := regBits_lt ..
    have hx : (selfAt s d).2 < 2 ^ 4 := regBits_lt ..
    have hsn := regNat_lt s (dcs SP 0x8) 2
    simp only [Nat.shiftLeft_eq]
    omega
  · have hadv : packNat 12 (((bridge s d).link.adv.drop (6 * (k - 2))).take 6) < 2 ^ 72 := by
      refine (packNat_lt ..).trans_le (Nat.pow_le_pow_right (by decide) ?_)
      rw [List.length_take]
      omega
    simp only [Nat.shiftLeft_eq]
    generalize packNat 12 (((bridge s d).link.adv.drop (6 * (k - 2))).take 6) = p at hadv ⊢
    split <;> omega

theorem exchangeControl_lt {s : State} {d : Nat} (hd : isBridge d = true) (hk : (bridge s d).link.kind ≤ 3)
    (hv : (bridge s d).link.verdict ≤ 2) : exchangeControl s d < 2 ^ 288 := by
  unfold exchangeControl
  extract_lets l
  have hword : exchangeWord s d l.kind < 2 ^ 96 := exchangeWord_lt hd hk hv
  have hack := l.expect.isLt
  rw [Nat.shiftLeft_eq, Nat.shiftLeft_eq, Nat.shiftLeft_eq]
  omega

-- Sending -------------------------------------------------------------------------------------------------------------

section Send
variable {s : State} {d : Nat}

theorem linkGroupSend_works (h : BridgeWorks s d) : exec (.linkGroupSend d) s = .next (sendGroup s d) :=
  bridgeCmd_works (f := (sendGroup · d)) h

/-- The next exchange word has been sent, and the rotation goes on (18 R472). -/
def afterExchange (s : State) (d : Nat) : State :=
  emit (modLink s d (fun l => { l with kind := l.kind % 3 + 1 })) (.linkGroup d (mkGroup (exchangeControl s d) []))

theorem sendGroup_up (hup : linkState s d = lsUP) (hask : (bridge s d).link.downAsked = false) : sendGroup s d =
    emit (modLink s d afterSend) (.linkGroup d (mkGroup (upControl (bridge s d).link) (upSlots (bridge s d).link))) := by
  unfold sendGroup
  extract_lets l fl fresh slots ctl c s₁ s₂ l₂
  have hl : l₂.downAsked = false := by
    show (bridge (emit (modLink s d _) _) d).link.downAsked = false
    rw [bridge_emit, bridge_modLink_same]
    exact hask
  rw [if_pos hup, if_neg (by simp [hl])]
  rfl

theorem sendGroup_exchange (hx : linkState s d = lsEXCHANGE) : sendGroup s d =
    if (bridge s d).link.verdict = 2 ∧ (bridge s d).link.kind ≠ 1 then mismatch (afterExchange s d) d else afterExchange s d := by
  have hup : linkState s d ≠ lsUP := by
    rw [hx]
    decide
  unfold sendGroup
  rw [if_neg hup, if_pos hx]
  simp only [Bool.and_eq_true, decide_eq_true_eq]
  rfl

/-- The end that found a mismatch enters MISMATCH and sets PEER_MISMATCH (07 R190). -/
theorem mismatch_found (hd : isBridge d = true) (h : (bridge s d).link.verdict = 2) :
    linkState (mismatch s d) d = lsMISMATCH ∧ regBits (mismatch s d) (dcs d 0x30) 8 8 = 1 := by
  have hstat : regWord (mismatch s d) (dcs d 0x30) =
      regWord (regSetBits (setLinkState s d lsMISMATCH) (dcs d 0x30) 8 8 1) (dcs d 0x30) := by
    rw [mismatch, if_pos (by simpa using h)]
    exact ((recordAs_linkRegs ..).trans (raiseIrq_linkRegs _ (by decide))).word d (bounds_of_isBridge hd).2 0x30 (by decide)
  constructor
  · rw [linkState, regBits_of_word hstat 0 (by decide), regBits_regSetBits_field _ _ _ (.inl (by decide))]
    exact linkState_setLinkState _ _ (by decide)
  · rw [regBits_of_word hstat 8 (by decide), regBits_regSetBits_same]
    rfl

end Send

-- Receiving -----------------------------------------------------------------------------------------------------------

section Receive
variable {s : State} {d : Nat} {g : Group}

/-- The codewords of a group are counted by their state (17 R446). -/
def codewordsCounted (s : State) (d : Nat) (g : Group) : State := lcount (lcount s d 0 g.fixed) d 1 g.lost

@[simp] theorem bridge_codewordsCounted (s : State) (d : Nat) (g : Group) (e : Nat) : bridge (codewordsCounted s d g) e = bridge s e := by
  rw [codewordsCounted, bridge_lcount, bridge_lcount]

theorem codewordsCounted_bridgesOnly (s : State) (d : Nat) (g : Group) : BridgesOnly s (codewordsCounted s d g) :=
  (BridgesOnly.regCount ..).trans (.regCount ..)

theorem linkState_codewordsCounted (s : State) (d : Nat) (g : Group) : linkState (codewordsCounted s d g) d = linkState s d := by
  rw [codewordsCounted, lcount, lcount, regCount, regCount, linkState, regBits, regNat_regPutNat_ne _ (.inl (by unfold dcs; omega)),
    regNat_regPutNat_ne _ (.inl (by unfold dcs; omega))]
  rfl

/-- BRG_LCNT0 counts the codewords FEC corrected (17 R446). -/
theorem codewordsCounted_fixed (s : State) (d : Nat) (g : Group) :
    regNat (codewordsCounted s d g) (dcs d 0x4400) 2 = min (2 ^ 64 - 1) (regNat s (dcs d 0x4400) 2 + g.fixed) := by
  have hfit : min (2 ^ 64 - 1) (regNat s (dcs d 0x4400) 2 + g.fixed) < 2 ^ (32 * 2) := by omega
  rw [codewordsCounted, lcount, lcount, regCount, regCount, regNat_regPutNat_ne _ (.inl (by unfold dcs; omega)),
    show dcs d (0x4400 + 8 * 0) = dcs d 0x4400 from rfl, regNat_regPutNat_same, Nat.mod_eq_of_lt hfit]

theorem slots_of_wf (hw : (Instr.linkGroupReceive d g).wf = true) : g.slots.length ≤ 160 ∧ g.lost + g.fixed ≤ 16 ∧
    (g.uncorrectable = false → g.slots.length = min 160 (bitsOf g.ctl.toNat 43 36)) := by
  obtain ⟨-, hg⟩ := (Bool.and_eq_true ..).mp hw
  simp only [groupOk, Bool.and_eq_true, decide_eq_true_eq, Bool.or_eq_true] at hg
  obtain ⟨⟨hlen, hcw⟩, hn⟩ := hg
  exact ⟨hlen, hcw, fun hu => hn.resolve_left (by simp [hu])⟩

theorem linkGroupReceive_wf (hd : isBridge d = true) (hw : (Instr.linkGroupReceive d g).wf = true) :
    exec (.linkGroupReceive d g) s = if s.life = .up ∧ s.muted then .next (lcount s d 4 (bitsOf g.ctl.toNat 43 36))
      else .next (if bridgesOn s then receiveGroup s d g else s) := by
  obtain ⟨hlen, hcw, hn⟩ := slots_of_wf hw
  have hform : ¬ (160 < g.slots.length ∨ 16 < g.lost + g.fixed ∨
      (g.slots.length ≠ min 160 (bitsOf g.ctl.toNat 43 36) ∧ g.uncorrectable = false)) := by
    rintro (h | h | ⟨h, hu⟩)
    · omega
    · omega
    · exact h (hn hu)
  show execLinkGroupReceive d g s = _
  rw [execLinkGroupReceive, if_neg (by simp [hd]), if_neg hform]

/-- A muted Bridge discards the group and counts its flits (17 R450). -/
theorem linkGroupReceive_muted (hd : isBridge d = true) (hw : (Instr.linkGroupReceive d g).wf = true) (hl : s.life = .up)
    (hm : s.muted = true) : exec (.linkGroupReceive d g) s = .next (regCount s (dcs d 0x4420) (g.ctl.toNat / 2 ^ 36 % 256)) := by
  simp only [linkGroupReceive_wf hd hw, if_pos (And.intro hl hm), lcount, bitsOf, Nat.shiftRight_eq_div_pow, Nat.reduceMul,
    Nat.reduceAdd, Nat.reduceSub, Nat.reducePow]

/-- A Bridge in UP that is not muted counts the group's codewords and treats it by R471. -/
theorem linkGroupReceive_up (hd : isBridge d = true) (hw : (Instr.linkGroupReceive d g).wf = true) (hon : bridgesOn s = true)
    (hup : linkState s d = lsUP) : exec (.linkGroupReceive d g) s = .next (groupUp (codewordsCounted s d g) d g) := by
  have hawake : ¬ (s.life = .up ∧ s.muted = true) := by
    rintro ⟨-, hm⟩
    simp [bridgesOn, soundpostRuns, hm] at hon
  have hup' : linkState (codewordsCounted s d g) d = lsUP := by rw [linkState_codewordsCounted, hup]
  rw [linkGroupReceive_wf hd hw, if_neg hawake, if_pos hon]
  exact congrArg _ (if_pos hup')

/-- A group whose LCRC fails is asked for again (18 R471). -/
def askAgain (l : Link) : Link := { l with rnum := (l.rnum + 1) % 16, awaiting := true, rxRounds := l.rxRounds + 1 }

theorem groupUp_fails (hc : bitsOf g.ctl.toNat 319 288 ≠ (groupCrc g.ctl.toNat g.slots).toNat)
    (ha : (bridge s d).link.awaiting = false) (hr : (bridge s d).link.rxRounds < 15) :
    groupUp s d g = modLink (lcount s d 2 160) d askAgain := by
  have hfail : groupUp s d g = failGroup s d ((bridge s d).link.awaiting &&
      BitVec.ofNat 16 (bitsOf g.ctl.toNat 15 0) = (bridge s d).link.expect) 160 := if_pos (.inr hc)
  have hlimit : ¬ 16 ≤ (bridge s d).link.rxRounds + 1 := by omega
  rw [hfail, failGroup]
  simp only [bridge_lcount, ha, Bool.false_and, Bool.false_eq_true, if_false, if_neg hlimit]
  rw [modLink, modLink, modBridge, modBridge, bridge_lcount]
  rfl

/-- What the CRED field of a control word adds to the credits of a link, where it is valid (18 R470). -/
def takeCredits (ctl : Nat) (l : Link) : Link :=
  if bitAt ctl 140 then
    { l with credits := (l.credits.zip (List.range 12)).map (fun x => x.1 + bitsOf ctl (44 + 8 * x.2 + 7) (44 + 8 * x.2)) }
  else l

theorem takeAck_actedRnum (l : Link) (ack : BitVec 16) : (takeAck l ack).actedRnum = l.actedRnum := by
  unfold takeAck
  extract_lets n
  split <;> rfl

theorem takeAck_within {l : Link} {ack : BitVec 16} (h : (ack - l.seqBase).toNat ≤ l.inBuf) : takeAck l ack =
    { l with sent := dropAcked (ack - l.seqBase).toNat l.sent, inBuf := l.inBuf - (ack - l.seqBase).toNat
             cursor := l.cursor - (ack - l.seqBase).toNat, seqBase := ack } := if_pos h

theorem takeCredits_eq (ctl : Nat) (l : Link) : takeCredits ctl l = { l with credits := (takeCredits ctl l).credits } := by
  unfold takeCredits
  split <;> rfl

theorem takeCredits_actedRnum (ctl : Nat) (l : Link) : (takeCredits ctl l).actedRnum = l.actedRnum := by rw [takeCredits_eq]

/-- The credits of lane `v` grow by its field of CRED where PHASE tells that the group is of an UP link (18 R470). -/
theorem takeCredits_credits {l : Link} (h : l.credits.length = 12) (ctl : BitVec 320) {v : Nat} (hv : v < 12) :
    (takeCredits ctl.toNat l).credits[v]? = l.credits[v]?.map (fun c => c +
      (if ctl.getLsbD 140 then ctl.toNat / 2 ^ (44 + 8 * v) % 256 else 0)) := by
  have hphase : bitAt ctl.toNat 140 = ctl.getLsbD 140 := by
    rw [bitAt, BitVec.getLsbD, Nat.testBit_eq_decide_div_mod_eq, Nat.shiftRight_eq_div_pow]
  have hfield : bitsOf ctl.toNat (44 + 8 * v + 7) (44 + 8 * v) = ctl.toNat / 2 ^ (44 + 8 * v) % 256 := by
    rw [bitsOf, Nat.shiftRight_eq_div_pow, show 44 + 8 * v + 7 + 1 - (44 + 8 * v) = 8 by omega, show 2 ^ 8 = 256 from rfl]
  have hlane : l.credits[v]? = some l.credits[v] := List.getElem?_eq_getElem (by omega)
  rw [takeCredits, hphase, hlane]
  cases ctl.getLsbD 140 with
  | false => exact hlane
  | true => simp [List.getElem?_zip_eq_some, hv, hlane, hfield]

theorem modLink_modLink (s : State) (d : Nat) (f f' : Link → Link) : modLink (modLink s d f) d f' = modLink s d (f' ∘ f) := by
  rw [modLink, modBridge, bridge_modLink_same, modLink, modBridge, setBridge_setBridge]
  rfl

/-- A control word whose RNUM has been acted on acknowledges flits and returns credits alone (18 R471). -/
theorem takeControl_acted {ctl : Nat} (h : bitsOf ctl 35 32 = (bridge s d).link.actedRnum) :
    takeControl s d ctl = modLink s d (takeCredits ctl ∘ (takeAck · (BitVec.ofNat 16 (bitsOf ctl 31 16)))) := by
  unfold takeControl
  extract_lets ack rn s₁ s₂ l
  have hs : s₂ = modLink s d (takeCredits ctl ∘ (takeAck · ack)) := by
    by_cases hb : bitAt ctl 140 = true
    · refine (if_pos hb).trans ((modLink_modLink s d (takeAck · ack) _).trans (congrArg (modLink s d) (funext fun l => ?_)))
      exact (if_pos hb).symm
    · refine (if_neg hb).trans (congrArg (modLink s d) (funext fun l => ?_))
      exact (if_neg hb).symm
  have hl : l.actedRnum = (bridge s d).link.actedRnum := by
    show (bridge s₂ d).link.actedRnum = _
    rw [hs, bridge_modLink_same]
    exact (takeCredits_actedRnum ..).trans (takeAck_actedRnum ..)
  rw [if_pos (h.trans hl.symm), hs]

/-- A passing group without flits, which begins at the expected number: its control word alone acts (18 R471). -/
theorem groupUp_empty (hu : g.uncorrectable = false) (hc : bitsOf g.ctl.toNat 319 288 = (groupCrc g.ctl.toNat g.slots).toNat)
    (hn : min 160 (bitsOf g.ctl.toNat 43 36) = 0) (hs : BitVec.ofNat 16 g.ctl.toNat = (bridge s d).link.expect) :
    groupUp s d g = takeControl s d g.ctl.toNat := by
  have hseq : BitVec.ofNat 16 (bitsOf g.ctl.toNat 15 0) = (bridge s d).link.expect := by
    rw [← hs]
    exact BitVec.eq_of_toNat_eq (by simp [bitsOf])
  have hpass : ¬ (g.uncorrectable ∨ bitsOf g.ctl.toNat 319 288 ≠ (groupCrc g.ctl.toNat g.slots).toNat) := by simp [hu, hc]
  unfold groupUp
  simp [if_neg hpass, hseq, hn]

end Receive

end Sys2Proof.Machine
end

section
/-! The links of the Bridges: their states, and the groups they exchange (07 R190, R480; 16 R425; 17 R446, R450; 18 R469 to R472). -/
namespace Sys2Proof.Machine
open Sys2Proof.Safety

section Clauses
variable {s : State} {d : Nat}

-- Groups sent ---------------------------------------------------------------------------------------------------------

/-- An UP Bridge sends its next flits with their number, its credits and a valid LCRC. -/
theorem linkGroupSend_up (hw : BridgeWorks s d) (hup : linkState s d = lsUP) (hask : (bridge s d).link.downAsked = false)
    (hret : (bridge s d).link.ret.length = 12) :
    ∃ (t : State) (g : Group), exec (.linkGroupSend d) s = .next t ∧ t.out = s.out ++ [.linkGroup d g] ∧
      g.uncorrectable = false ∧ bitsOf g.ctl.toNat 319 288 = (groupCrc g.ctl.toNat g.slots).toNat ∧
      g.slots.length ≤ 160 ∧ g.slots <+: (unackedFlits (bridge s d).link).drop (bridge s d).link.cursor ∧
      (bridge t d).link.cursor = (bridge s d).link.cursor + g.slots.length ∧
      t = { s with bridges := t.bridges, out := t.out } := by
  refine ⟨_, mkGroup (upControl (bridge s d).link) (upSlots (bridge s d).link),
    (linkGroupSend_works hw).trans (congrArg _ (sendGroup_up hup hask)), rfl, rfl, ?_, ?_, ?_, ?_, rfl⟩
  · exact mkGroup_lcrc (upControl_lt hret) _
  · exact upSlots_length _
  · exact upSlots_prefix _
  · rw [bridge_emit, bridge_modLink_same]
    rfl

/-- In EXCHANGE a Bridge sends its identity words in rotation. -/
theorem linkGroupSend_exchange (hw : BridgeWorks s d) (hx : linkState s d = lsEXCHANGE) (hk : (bridge s d).link.kind ≤ 3)
    (hv : (bridge s d).link.verdict ≤ 1) :
    ∃ (t : State) (g : Group), exec (.linkGroupSend d) s = .next t ∧ t.out = s.out ++ [.linkGroup d g] ∧ g.slots = [] ∧
      bitsOf g.ctl.toNat 319 288 = (groupCrc g.ctl.toNat []).toNat ∧
      (bridge t d).link = { (bridge s d).link with kind := (bridge s d).link.kind % 3 + 1 } := by
  have hno : ¬ ((bridge s d).link.verdict = 2 ∧ (bridge s d).link.kind ≠ 1) := by omega
  refine ⟨afterExchange s d, mkGroup (exchangeControl s d) [], ?_, rfl, rfl, ?_, ?_⟩
  · rw [linkGroupSend_works hw, sendGroup_exchange hx, if_neg hno]
  · exact mkGroup_lcrc (exchangeControl_lt hw.bridge hk (by omega)) []
  · rw [afterExchange, bridge_emit, bridge_modLink_same]

/-- With a verdict of mismatch the Bridge goes to MISMATCH once the verdict has been sent. -/
theorem linkGroupSend_mismatch (hw : BridgeWorks s d) (hx : linkState s d = lsEXCHANGE) (hv : (bridge s d).link.verdict = 2)
    (hk : (bridge s d).link.kind ≠ 1) :
    ∃ t, exec (.linkGroupSend d) s = .next t ∧ linkState t d = lsMISMATCH ∧ regBits t (dcs d 0x30) 8 8 = 1 := by
  have hv' : (bridge (afterExchange s d) d).link.verdict = 2 := by
    rw [afterExchange, bridge_emit, bridge_modLink_same]
    exact hv
  exact ⟨_, by rw [linkGroupSend_works hw, sendGroup_exchange hx, if_pos ⟨hv, hk⟩], mismatch_found hw.bridge hv'⟩

/-- In no other state a Bridge sends anything (log 2). -/
theorem linkGroupSend_idle (hd : isBridge d = true) (hup : linkState s d ≠ lsUP) (hx : linkState s d ≠ lsEXCHANGE) :
    exec (.linkGroupSend d) s = .next s := by
  cases hon : bridgesOn s with
  | false => exact bridgeCmd_idle (f := (sendGroup · d)) hd hon
  | true =>
    have hsend : sendGroup s d = s := by
      unfold sendGroup
      rw [if_neg hup, if_neg hx]
    rw [linkGroupSend_works ⟨hd, hon⟩, hsend]

-- Groups received -----------------------------------------------------------------------------------------------------

/-- A group whose LCRC fails is asked for again, and nothing of it is taken. -/
theorem linkGroupReceive_fails (hw : BridgeWorks s d) {g : Group} (hwf : (Instr.linkGroupReceive d g).wf = true)
    (hup : linkState s d = lsUP) (hc : bitsOf g.ctl.toNat 319 288 ≠ (groupCrc g.ctl.toNat g.slots).toNat)
    (ha : (bridge s d).link.awaiting = false) (hr : (bridge s d).link.rxRounds < 15) :
    ∃ t, exec (.linkGroupReceive d g) s = .next t ∧
      bridge t d = { bridge s d with link := { (bridge s d).link with
        rnum := ((bridge s d).link.rnum + 1) % 16, awaiting := true, rxRounds := (bridge s d).link.rxRounds + 1 } } ∧
      t = { s with bridges := t.bridges, regs := t.regs } := by
  have hfail : groupUp (codewordsCounted s d g) d g = modLink (lcount (codewordsCounted s d g) d 2 160) d askAgain :=
    groupUp_fails hc (by rwa [bridge_codewordsCounted]) (by rwa [bridge_codewordsCounted])
  refine ⟨_, by rw [linkGroupReceive_up hw.bridge hwf hw.works hup, hfail], ?_, ?_⟩
  · rw [bridge_modLink_same, bridge_lcount, bridge_codewordsCounted]
    rfl
  · exact (codewordsCounted_bridgesOnly s d g).trans ((BridgesOnly.regCount ..).trans (.modLink ..))

/-- A good group without flits releases what it acknowledges and adds its credits. -/
theorem linkGroupReceive_good (hw : BridgeWorks s d) {g : Group} (hwf : (Instr.linkGroupReceive d g).wf = true)
    (hup : linkState s d = lsUP) (hu : g.uncorrectable = false)
    (hc : bitsOf g.ctl.toNat 319 288 = (groupCrc g.ctl.toNat g.slots).toNat) (hnil : g.slots = [])
    (hseq : BitVec.ofNat 16 g.ctl.toNat = (bridge s d).link.expect)
    (hrn : g.ctl.toNat / 2 ^ 32 % 16 = (bridge s d).link.actedRnum) :
    let l := (bridge s d).link
    let n := (BitVec.ofNat 16 (g.ctl.toNat / 2 ^ 16) - l.seqBase).toNat
    n ≤ l.inBuf → l.credits.length = 12 →
    ∃ t, exec (.linkGroupReceive d g) s = .next t ∧ (bridge t d).link.inBuf = l.inBuf - n ∧
      (bridge t d).link.sent = dropAcked n l.sent ∧ (bridge t d).link.seqBase = BitVec.ofNat 16 (g.ctl.toNat / 2 ^ 16) ∧
      (∀ v < 12, (bridge t d).link.credits[v]? = l.credits[v]?.map (fun c => c +
        (if g.ctl.getLsbD 140 then g.ctl.toNat / 2 ^ (44 + 8 * v) % 256 else 0))) ∧
      regNat t (dcs d 0x4400) 2 = min (2 ^ 64 - 1) (regNat s (dcs d 0x4400) 2 + g.fixed) ∧
      (∀ e, e ≠ d → bridge t e = bridge s e) := by
  intro l n hn hcr
  have hack : BitVec.ofNat 16 (bitsOf g.ctl.toNat 31 16) = BitVec.ofNat 16 (g.ctl.toNat / 2 ^ 16) :=
    BitVec.eq_of_toNat_eq (by simp [bitsOf, Nat.shiftRight_eq_div_pow])
  have hslots : min 160 (bitsOf g.ctl.toNat 43 36) = 0 := by
    rw [← (slots_of_wf hwf).2.2 hu, hnil, List.length_nil]
  have hrn' : bitsOf g.ctl.toNat 35 32 = (bridge (codewordsCounted s d g) d).link.actedRnum := by
    simp only [bridge_codewordsCounted, ← hrn, bitsOf, Nat.shiftRight_eq_div_pow, Nat.reduceAdd, Nat.reduceSub, Nat.reducePow]
  have hgroup : groupUp (codewordsCounted s d g) d g = modLink (codewordsCounted s d g) d
      (takeCredits g.ctl.toNat ∘ (takeAck · (BitVec.ofNat 16 (g.ctl.toNat / 2 ^ 16)))) := by
    rw [groupUp_empty hu hc hslots (by rwa [bridge_codewordsCounted]), takeControl_acted hrn', hack]
  obtain ⟨l', hl', hack'⟩ : ∃ l', (bridge (groupUp (codewordsCounted s d g) d g) d).link = takeCredits g.ctl.toNat l' ∧
      l' = { l with sent := dropAcked n l.sent, inBuf := l.inBuf - n, cursor := l.cursor - n
                    seqBase := BitVec.ofNat 16 (g.ctl.toNat / 2 ^ 16) } := by
    rw [hgroup, bridge_modLink_same, bridge_codewordsCounted]
    exact ⟨_, rfl, takeAck_within hn⟩
  refine ⟨_, linkGroupReceive_up hw.bridge hwf hw.works hup, ?_, ?_, ?_, ?_, ?_, ?_⟩
  · rw [hl', takeCredits_eq, hack']
  · rw [hl', takeCredits_eq, hack']
  · rw [hl', takeCredits_eq, hack']
  · intro v hv
    rw [hl', takeCredits_credits (by rw [hack']; exact hcr) _ hv, hack']
  · rw [hgroup, ← codewordsCounted_fixed]
    exact regNat_congr _ _ fun _ _ => by rw [regWord, regWord, modLink, modBridge_regs]
  · intro e he
    rw [hgroup, bridge_modLink_ne _ _ he, bridge_codewordsCounted]

end Clauses

/-- Settles O23: the host's commands and the lanes move a link between its states, and the groups it sends and receives follow the rules
of retry and credits. That a Bridge that is neither UP nor in EXCHANGE sends nothing and changes nothing is log 2. -/
theorem linksMoveAndExchangeGroups : Obligations.LinksMoveAndExchangeGroups := by
  refine ⟨fun s d hd => ⟨?_, ?_, ?_, ?_, ?_, ?_, ?_, ?_, ?_⟩, fun s d hd => ⟨?_, ?_, ?_, ?_, ?_, ?_, ?_⟩⟩
  · exact linkEnable_starts hd
  · exact linkDisable_down hd
  · exact linkDisable_waits hd
  · exact linkDisable_departs hd
  · exact linkEnable_restarts hd
  · exact linkRetrain_resets hd
  · exact fun v hs hup hv => linkConfigWrite_restarts hd hs hup hv
  · exact fun hon h => ⟨_, linkLock_locks ⟨hd, hon⟩ h, againLink_leaves s d (by decide)⟩
  · exact fun hon h => ⟨_, linkSignalLoss_unlocks ⟨hd, hon⟩ h, againLink_leaves s d (by decide)⟩
  · exact fun hon => linkGroupSend_up ⟨hd, hon⟩
  · exact fun hon => linkGroupSend_exchange ⟨hd, hon⟩
  · exact fun hon => linkGroupSend_mismatch ⟨hd, hon⟩
  · exact linkGroupSend_idle hd
  · exact fun g hwf hon hup _ hc ha hr => linkGroupReceive_fails ⟨hd, hon⟩ hwf hup hc ha hr
  · exact fun g hwf hon hup hu hc hnil hseq hrn => linkGroupReceive_good ⟨hd, hon⟩ hwf hup hu hc hnil hseq hrn
  · exact fun g hwf hl hm => linkGroupReceive_muted hd hwf hl hm

end Sys2Proof.Machine
end

section
/-! SUPPORT. The receive space of a Bridge: what an entry's departure leaves, where its one copy is placed, and what FRAME_ADMIT and
FRAME_ADMIT_RETRY do at the head of a lane (08 R218 to R222, R227; 12 R322). -/
namespace Sys2Proof.Machine
open Sys2Proof.Safety Sys2Proof.Claims

-- One Bridge ----------------------------------------------------------------------------------------------------------

@[simp] theorem bridge_modBridge_same (s : State) (d : Nat) (f : Bridge → Bridge) : bridge (modBridge s d f) d = f (bridge s d) :=
  bridge_setBridge_same ..

theorem voq_setVoq_same (s : State) (d q : Nat) (v : Voq) : voq (setVoq s d q v) d q = v := by
  rw [voq, setVoq, bridge_modBridge_same, smGet_smSet_same]

theorem voq_congr {s t : State} {d : Nat} (h : (bridge t d).voqs = (bridge s d).voqs) (q : Nat) : voq t d q = voq s d q := by
  rw [voq, voq, h]

/-- `t` has the cores, memories and tiles of `s`, and of its Bridges all but Bridge `d`. -/
structure BridgeOnly (d : Nat) (s t : State) : Prop where
  others : ∀ b, b ≠ d → bridge t b = bridge s b
  dram : t.dram = s.dram
  cores : t.cores = s.cores
  tiles : t.tiles = s.tiles

namespace BridgeOnly
variable {d : Nat} {s t u : State}

theorem trans (h : BridgeOnly d s t) (h' : BridgeOnly d t u) : BridgeOnly d s u :=
  ⟨fun b hb => (h'.others b hb).trans (h.others b hb), h'.dram.trans h.dram, h'.cores.trans h.cores, h'.tiles.trans h.tiles⟩
theorem of_units (h : KeepsUnits s t) : BridgeOnly d s t := ⟨fun b _ => bridge_congr h.bridges b, h.dram, h.cores, h.tiles⟩
theorem modBridge (s : State) (d : Nat) (f : Bridge → Bridge) : BridgeOnly d s (modBridge s d f) :=
  ⟨fun _ hb => bridge_setBridge_ne _ _ hb, rfl, rfl, rfl⟩

end BridgeOnly

-- Counters ------------------------------------------------------------------------------------------------------------

/-- `t` is `s` but for counters of Bridge `d`, which lie from offset 0x4000 on (08 R235). -/
structure CountsOnly (d : Nat) (s t : State) : Prop where
  units : KeepsUnits s t
  field : ∀ {o hi : Nat} (lo : Nat), o + 4 * (hi / 32 + 1) ≤ 0x4000 → regBits t (dcs d o) hi lo = regBits s (dcs d o) hi lo

theorem brgCount_units (s : State) (d n k : Nat) : KeepsUnits s (brgCount s d n k) := .of_records (.regPutNat (.refl s) ..)

namespace CountsOnly
variable {d : Nat} {s t u : State}

theorem refl (s : State) : CountsOnly d s s := ⟨.refl s, fun _ _ => rfl⟩
theorem trans (h : CountsOnly d s t) (h' : CountsOnly d t u) : CountsOnly d s u :=
  ⟨h.units.trans h'.units, fun lo ho => (h'.field lo ho).trans (h.field lo ho)⟩
theorem ite {c : Prop} [Decidable c] (h : CountsOnly d s t) (h' : CountsOnly d s u) : CountsOnly d s (if c then t else u) := by
  split <;> assumption
theorem brgCount (s : State) (d n k : Nat) : CountsOnly d s (brgCount s d n k) where
  units := brgCount_units ..
  field lo ho := congrArg (bitsOf · _ lo) (regNat_regPutNat_ne s (.inl (by unfold dcs; omega)))

theorem bridge (h : CountsOnly d s t) (b : Nat) : bridge t b = bridge s b := bridge_congr h.units.bridges b
theorem voq (h : CountsOnly d s t) (b q : Nat) : voq t b q = voq s b q := by rw [Machine.voq, Machine.voq, h.bridge]

theorem poolFree (h : CountsOnly d s t) (p : Nat) : poolFree t d p = poolFree s d p := by
  unfold Machine.poolFree poolField
  split <;> exact h.field _ (by decide)

theorem fittingPool (h : CountsOnly d s t) (n : Nat) : fittingPool t d n = fittingPool s d n := by
  simp only [Machine.fittingPool, h.poolFree]

theorem underThreshold (h : CountsOnly d s t) {cls : Nat} (hc : cls < 4) (n : Nat) :
    underThreshold t d cls n = underThreshold s d cls n := by
  have hfree : freeBytes t d = freeBytes s d := by simp only [freeBytes, h.poolFree]
  rw [Machine.underThreshold, Machine.underThreshold, hfree, h.field (4 * cls) (by omega)]

/-- Counters decide no placement. -/
theorem takesInto (h : CountsOnly d s t) {q cls n p : Nat} (hc : cls < 4) (hp : takesInto s d q cls n p) : takesInto t d q cls n p := by
  unfold Claims.takesInto at hp ⊢
  rwa [h.voq, h.bridge, h.underThreshold hc, h.fittingPool]

/-- A frame that is placed after a count is placed. -/
theorem placedIn (h : CountsOnly d s t) {q p : Nat} {e : RxEntry} {f : Frame} (hp : placedIn t u d q p e f) : placedIn s u d q p e f := by
  obtain ⟨hq, hpool, hrecv, hothers, hdram, hcores, htiles⟩ := hp
  rw [h.voq] at hq
  rw [h.poolFree] at hpool
  rw [h.bridge] at hrecv
  exact ⟨hq, hpool, hrecv, fun b hb => (hothers b hb).trans (h.bridge b), hdram.trans h.units.dram, hcores.trans h.units.cores,
    htiles.trans h.units.tiles⟩

end CountsOnly

-- Buffers -------------------------------------------------------------------------------------------------------------

theorem poolAdd_units (s : State) (d p : Nat) (k : Int) : KeepsUnits s (poolAdd s d p k) :=
  .of_records (.ite (.refl s) (.regSetBits (.refl s) ..))

@[simp] theorem bridge_poolAdd (s : State) (d p : Nat) (k : Int) (b : Nat) : bridge (poolAdd s d p k) b = bridge s b :=
  bridge_congr (poolAdd_units s d p k).bridges b

theorem poolFree_congr {s t : State} (h : t.regs = s.regs) (d p : Nat) : poolFree t d p = poolFree s d p := regBits_congr h ..

/-- A buffer taken from a pool is one free buffer less. -/
theorem poolFree_take {s : State} {d p : Nat} (hp : p ≠ 5) : poolFree (poolAdd s d p (-1)) d p = poolFree s d p - 1 := by
  have hlt : poolFree s d p - 1 < 2 ^ ((poolField p).2.1 + 1 - (poolField p).2.2) := (Nat.sub_le ..).trans_lt (regBits_lt ..)
  have hn : ((poolFree s d p : Int) + -1).toNat = poolFree s d p - 1 := by omega
  rw [poolAdd, if_neg hp, hn]
  exact (regBits_regSetBits_same ..).trans (Nat.mod_eq_of_lt hlt)

/-- A request's buffer is a general one. -/
theorem fittingPool_lt {s : State} {d n p : Nat} (h : fittingPool s d n = some p) : p < 4 :=
  List.mem_range.mp (List.mem_of_find?_eq_some h)

-- The receive space ---------------------------------------------------------------------------------------------------

/-- A Bridge that entry `e` has left: a frame of the LINK port returns its credits (07 R192). -/
def afterLeave (e : RxEntry) (b : Bridge) : Bridge :=
  { b with
    recv := b.recv.filter (fun x => x.num ≠ e.num)
    link := match e.port with
      | .link => { b.link with ret := b.link.ret.modify e.vl (· + flitsOf e.frame) }
      | .localPort => b.link }

/-- The departure of an entry changes its Bridge, and frees the buffer reserved for it. -/
theorem dropRx_eq (s : State) (d : Nat) (e : RxEntry) : dropRx s d e =
    match e.buf with
    | some p => poolAdd (modBridge s d (afterLeave e)) d p 1
    | none => modBridge s d (afterLeave e) := by
  have hleave : returnCredits (modBridge s d fun b => { b with recv := b.recv.filter (fun x => x.num ≠ e.num) }) d e =
      modBridge s d (afterLeave e) := by
    unfold returnCredits afterLeave
    cases e.port with
    | link => simp [modLink, modBridge]
    | localPort => rfl
  rewrite [dropRx, hleave]
  rfl

theorem bridge_dropRx (s : State) (d : Nat) (e : RxEntry) : bridge (dropRx s d e) d = afterLeave e (bridge s d) := by
  rw [dropRx_eq]
  cases e.buf <;> simp

theorem dropRx_only (s : State) (d : Nat) (e : RxEntry) : BridgeOnly d s (dropRx s d e) := by
  rw [dropRx_eq]
  cases e.buf with
  | some p => exact (BridgeOnly.modBridge ..).trans (.of_units (poolAdd_units ..))
  | none => exact .modBridge ..

theorem dropRx_regs {s : State} {d : Nat} {e : RxEntry} (h : e.buf = none) : (dropRx s d e).regs = s.regs := by
  rw [dropRx_eq, h, modBridge_regs]

-- Placement -----------------------------------------------------------------------------------------------------------

section Place
variable {s : State} {d : Nat} {e : RxEntry} {c : Copy}

theorem tailBound_none (h : (bridge s d).spilling = []) (q : Nat) : tailBound s d q = false := by simp [tailBound, h]

/-- A held frame joins the SRAM part of a VOQ that has no other (08 R221). -/
theorem joinVoq_sram {q : Nat} (h : (voq s d q).spill = []) (x : Held) :
    joinVoq s d q x = setVoq s d q { voq s d q with sram := (voq s d q).sram ++ [x] } :=
  congrArg (setVoq s d q) (if_pos (by rw [h]; rfl))

/-- The one copy of an entry is taken: the entry leaves the receive space (08 R222). -/
theorem placeAll_taken {u : State} (h : placeCopy s d e c = (u, some false)) (hsp : e.spilling = 0) :
    placeAll s d e [c] = dropRx u d { e with buf := none } := by
  simp [placeAll, h, hsp]

/-- It is not taken: the entry waits with it, and the first wait is counted. -/
theorem placeAll_refused {u : State} (h : placeCopy s d e c = (u, none)) :
    placeAll s d e [c] = putRx (if e.counted then u else brgCount u d 31 1) d { e with copies := [c], counted := true } := by
  simp [placeAll, h]

/-- place() takes the smallest fitting buffer of a VOQ below its threshold (08 R221, R227). -/
theorem placeSram_taken {q p : Nat} {f : Frame} (h : takesInto s d q (fCls f) f.payload.length p) : placeSram s d q e f =
    (poolAdd (setVoq s d q { voq s d q with sram := (voq s d q).sram ++ [⟨f, p, false, e.stall, e.red⟩] }) d p (-1), true) := by
  obtain ⟨hspill, hway, hunder, hfit⟩ := h
  simp [placeSram, hspill, tailBound_none hway, hunder, hfit]

/-- place() refuses a VOQ that has frames in spill or is not below its threshold (08 R221). -/
theorem placeSram_refused {q : Nat} {f : Frame}
    (h : (voq s d q).spill ≠ [] ∨ underThreshold s d (fCls f) (voqBytes (voq s d q)) = false) :
    ∃ u, placeSram s d q e f = (u, false) ∧ CountsOnly d s u := by
  unfold placeSram
  extract_lets v
  by_cases htail : (!v.spill.isEmpty || tailBound s d q) = true
  · exact ⟨s, if_pos htail, .refl s⟩
  · have hspill : v.spill = [] := by
      simp only [Bool.or_eq_true, not_or, Bool.not_eq_true, Bool.not_eq_false', List.isEmpty_iff] at htail
      exact htail.1
    have hover : underThreshold s d (fCls f) (voqBytes v) = false := h.resolve_left (· hspill)
    exact ⟨_, by rw [if_neg htail, hover]; rfl, .brgCount ..⟩

/-- An entry with one copy goes to the VOQ that takes it (08 R221, R222). -/
theorem placeAll_places {p : Nat} (hsp : e.spilling = 0) (hbuf : e.buf = none)
    (h : takesInto s d (voqNo e.port c.out c.vl) (fCls c.frame) c.frame.payload.length p) :
    placedIn s (placeAll s d e [c]) d (voqNo e.port c.out c.vl) p e c.frame := by
  have hp : p < 4 := fittingPool_lt h.2.2.2
  set q := voqNo e.port c.out c.vl with hq
  set v : Voq := { voq s d q with sram := (voq s d q).sram ++ [⟨c.frame, p, false, e.stall, e.red⟩] }
  have hplace : placeCopy s d e c = (poolAdd (setVoq s d q v) d p (-1), some false) := by
    simp only [placeCopy, hbuf, ← hq, placeSram_taken h, if_true]
    rfl
  rw [placeAll_taken hplace hsp]
  have hbridge : bridge (poolAdd (setVoq s d q v) d p (-1)) d = bridge (setVoq s d q v) d := bridge_poolAdd ..
  have honly : BridgeOnly d s (dropRx (poolAdd (setVoq s d q v) d p (-1)) d { e with buf := none }) :=
    ((BridgeOnly.modBridge ..).trans (.of_units (poolAdd_units ..))).trans (dropRx_only ..)
  refine ⟨?_, ?_, ?_, honly.others, honly.dram, honly.cores, honly.tiles⟩
  · rw [voq_congr (s := setVoq s d q v) (by rw [bridge_dropRx, hbridge, afterLeave]), voq_setVoq_same]
  · rw [poolFree_congr (dropRx_regs rfl), poolFree_take (by omega), poolFree_congr (t := setVoq s d q v) (modBridge_regs ..)]
  · rw [bridge_dropRx, hbridge, setVoq, bridge_modBridge_same, afterLeave]

/-- An answer goes to its VOQ in the buffer reserved for it (12 R322). -/
theorem placeAll_reserved {p : Nat} (hsp : e.spilling = 0) (hbuf : e.buf = some p) (hway : (bridge s d).spilling = [])
    (hspill : (voq s d (voqNo e.port c.out c.vl)).spill = []) :
    voq (placeAll s d e [c]) d (voqNo e.port c.out c.vl) = { voq s d (voqNo e.port c.out c.vl) with
      sram := (voq s d (voqNo e.port c.out c.vl)).sram ++ [⟨c.frame, p, false, e.stall, e.red⟩] } ∧
    (bridge (placeAll s d e [c]) d).recv = (bridge s d).recv.filter (fun x => x.num ≠ e.num) := by
  set q := voqNo e.port c.out c.vl with hq
  set v : Voq := { voq s d q with sram := (voq s d q).sram ++ [⟨c.frame, p, false, e.stall, e.red⟩] }
  have hplace : placeCopy s d e c = (setVoq s d q v, some false) := by
    simp only [placeCopy, hbuf, ← hq, tailBound_none hway, joinVoq_sram hspill, Bool.false_eq_true, if_false]
    rfl
  rw [placeAll_taken hplace hsp]
  constructor
  · rw [voq_congr (s := setVoq s d q v) (by rw [bridge_dropRx, afterLeave]), voq_setVoq_same]
  · rw [bridge_dropRx, setVoq, bridge_modBridge_same, afterLeave]

/-- An entry whose copy neither frame SRAM nor spill takes stays, with its copy (08 R221, R222). -/
theorem placeAll_waits (hbuf : e.buf = none) (hoff : (bridge s d).spillOn = false)
    (h : (voq s d (voqNo e.port c.out c.vl)).spill ≠ [] ∨
      underThreshold s d (fCls c.frame) (voqBytes (voq s d (voqNo e.port c.out c.vl))) = false) :
    ∃ u, CountsOnly d s u ∧ placeAll s d e [c] = putRx u d { e with copies := [c], counted := true } := by
  obtain ⟨u, hu, hcount⟩ := placeSram_refused (e := e) (f := c.frame) h
  have hroom : spillRoom u d (flitsOf c.frame) = false := by simp [spillRoom, hcount.bridge, hoff]
  have hplace : placeCopy s d e c = (u, none) := by simp [placeCopy, hbuf, hu, hroom]
  exact ⟨_, hcount.trans (.ite (.refl u) (.brgCount ..)), placeAll_refused hplace⟩

end Place

-- Admission -----------------------------------------------------------------------------------------------------------

section Admit
variable {s : State} {d : Nat} {e : RxEntry}

theorem routeReads_sound (h : s.errs = Errs.none) (f : Frame) : routeReads s d f = s := by simp [routeReads, h, Errs.none]

/-- An entry that was checked before is placed (08 R222). -/
theorem admitEntry_checked (h : e.checked = true) : admitEntry s d e = placeAll s d e e.copies := by simp [admitEntry, h]

/-- A frame that fails a check is discarded: it leaves the receive space, and registers alone say why (08 R218). -/
theorem admitEntry_discards (hc : e.checked = false)
    (h : hcrcOf e.frame ≠ fHcrc e.frame ∨ formatOk e.frame = false ∨ (fCls e.frame < 3 ∧ fEpoch e.frame ≠ epochOf s d)) :
    KeepsUnits (dropRx s d e) (admitEntry s d e) := by
  have hrecord (code : Nat) : KeepsUnits (dropRx s d e) (brgCount (recordBrg (dropRx s d e) d code) d 35 1) :=
    .trans (.of_records (recordAs_records ..)) (brgCount_units ..)
  unfold admitEntry
  simp only [hc, Bool.false_eq_true, if_false]
  split
  · exact hrecord 0x20
  · next hhcrc =>
    split
    · exact hrecord 0x21
    · next hformat =>
      rw [if_pos ((h.resolve_left hhcrc).resolve_left hformat)]
      exact brgCount_units ..

/-- Entry `e` once the checks have passed and its route has given the copies `cs`. -/
def routedRx (e : RxEntry) (cs : List Copy) : RxEntry :=
  { e with checked := true, mcast := e.port = .localPort && fMcast e.frame, copies := cs }

/-- A frame that passes every check is routed and placed; a multicast frame's copies are counted first (08 R218, R219, R221, R224). -/
theorem admitEntry_clean {cs : List Copy} (he : s.errs = Errs.none) (hc : e.checked = false) (h : cleanAt s d e.frame)
    (hroute : routeVia s d e e.frame = .copies cs) :
    ∃ u, CountsOnly d s u ∧ admitEntry s d e = placeAll u d (routedRx e cs) cs := by
  obtain ⟨hhcrc, hformat, hepoch, hfcrc⟩ := h
  have hep : ¬ (fCls e.frame < 3 ∧ fEpoch e.frame ≠ epochOf s d) := fun ⟨hcls, hne⟩ => hne (hepoch hcls)
  refine ⟨if (e.port = .localPort && fMcast e.frame) = true then brgCount s d 33 cs.length else s,
    .ite (.brgCount ..) (.refl s), ?_⟩
  have hok : (decide (fcrcOf e.frame ≠ e.frame.crc) && !fCorrupt e.frame) = false := by simp [hfcrc]
  simp only [admitEntry, hc, hhcrc, hformat, hep, hok, Bool.false_eq_true, Bool.true_eq_false, ne_eq, not_true, if_false,
    routeReads_sound he, hroute]
  rfl

end Admit

-- The commands --------------------------------------------------------------------------------------------------------

section Commands
variable {s : State} {d : Nat} {port : Port} {v : Nat} {e : RxEntry}

/-- FRAME_ADMIT of a lane without a frame changes nothing; that it does is the model's choice (log 2). -/
theorem frameAdmit_idle (hb : BridgeWorks s d) (hv : v < 12) (h : laneHead s d port v = none) :
    exec (.frameAdmit d port v) s = .next s :=
  (if_neg (Nat.not_le.mpr hv)).trans ((bridgeCmd_works hb).trans (by rw [h]))

/-- FRAME_ADMIT admits the first frame of its lane. -/
theorem frameAdmit_head (hb : BridgeWorks s d) (hv : v < 12) (h : laneHead s d port v = some e) (hc : e.checked = false) :
    exec (.frameAdmit d port v) s = .next (admitEntry s d e) :=
  (if_neg (Nat.not_le.mpr hv)).trans ((bridgeCmd_works hb).trans (by rw [h]; simp [hc]))

/-- FRAME_ADMIT of a frame that passes every check and has one copy is its placement. -/
theorem frameAdmit_clean {c : Copy} (hb : BridgeWorks s d) (hv : v < 12) (he : s.errs = Errs.none)
    (h : laneHead s d port v = some e) (hc : e.checked = false) (hclean : cleanAt s d e.frame)
    (hroute : routeVia s d e e.frame = .copies [c]) :
    ∃ u, CountsOnly d s u ∧ exec (.frameAdmit d port v) s = .next (placeAll u d (routedRx e [c]) [c]) := by
  obtain ⟨u, hu, hadmit⟩ := admitEntry_clean he hc hclean hroute
  exact ⟨u, hu, by rw [frameAdmit_head hb hv h hc, hadmit]⟩

/-- FRAME_ADMIT_RETRY of one waiting frame is its placement. -/
theorem frameAdmitRetry_one (hb : BridgeWorks s d)
    (h : (bridge s d).recv.filter (fun e => e.checked && !e.copies.isEmpty && !e.sel && isLaneHead s d e) = [e]) :
    exec (.frameAdmitRetry d) s = .next (placeAll s d e e.copies) := by
  have hmem : e ∈ (bridge s d).recv.filter (fun e => e.checked && !e.copies.isEmpty && !e.sel && isLaneHead s d e) := by simp [h]
  have hc : e.checked = true := by
    have hall := (List.mem_filter.mp hmem).2
    simp only [Bool.and_eq_true] at hall
    exact hall.1.1.1
  show execFrameAdmitRetry d s = _
  rw [execFrameAdmitRetry, bridgeCmd_works hb, retryWaiting, h, List.foldl_cons, List.foldl_nil, admitEntry_checked hc]

end Commands

/-- Settles O24: a frame that fails a check is discarded; one that passes is placed, in a free buffer or the one reserved for it, or
waits with its copy. That FRAME_ADMIT of an empty lane changes nothing is log 2. -/
theorem frameAdmissionPlacesOrDiscards : Obligations.FrameAdmissionPlacesOrDiscards := by
  intro s d port v e hb hv herr
  refine ⟨frameAdmit_idle hb hv, fun hh hc hbad => ?discards, fun c p hh hc hclean hsp hbuf hroute hp => ?places,
    fun c p hh hc hclean hsp hbuf hroute hway hspill => ?reserved, fun c hh hc hclean _ hbuf hroute hoff hfull => ?waits,
    fun c p hone hcopies hsp hbuf hp => ?retry⟩
  case discards =>
    have hkeeps := admitEntry_discards hc hbad
    have hbridge : bridge (admitEntry s d e) d = afterLeave e (bridge s d) :=
      (bridge_congr hkeeps.bridges d).trans (bridge_dropRx ..)
    have honly : BridgeOnly d s (admitEntry s d e) := (dropRx_only s d e).trans (.of_units hkeeps)
    refine ⟨_, frameAdmit_head hb hv hh hc, ?_, ?_, fun hport => ?_, honly.dram, honly.cores, honly.tiles⟩
    · rw [hbridge, afterLeave]
    · rw [hbridge, afterLeave]
    · simp only [hbridge, afterLeave, hport]
  case places =>
    obtain ⟨u, hu, hexec⟩ := frameAdmit_clean hb hv herr hh hc hclean hroute
    exact ⟨_, hexec, hu.placedIn (placeAll_places (e := routedRx e [c]) hsp hbuf (hu.takesInto (fCls_lt _) hp))⟩
  case reserved =>
    obtain ⟨u, hu, hexec⟩ := frameAdmit_clean hb hv herr hh hc hclean hroute
    rw [← hu.bridge d] at hway ⊢
    rw [← hu.voq] at hspill ⊢
    exact ⟨_, hexec, placeAll_reserved (e := routedRx e [c]) hsp hbuf hway hspill⟩
  case waits =>
    obtain ⟨u, hu, hexec⟩ := frameAdmit_clean hb hv herr hh hc hclean hroute
    rw [← hu.bridge d] at hoff
    rw [← hu.underThreshold (fCls_lt _), ← hu.voq] at hfull
    obtain ⟨w, hw, hplace⟩ := placeAll_waits (e := routedRx e [c]) hbuf hoff hfull
    have hbridge : bridge w d = bridge s d := (hu.trans hw).bridge d
    refine ⟨_, { routedRx e [c] with copies := [c], counted := true }, hexec.trans (congrArg _ hplace), ?_, rfl, rfl, rfl, rfl, ?_⟩
    · rw [putRx, bridge_modBridge_same, hbridge]
    · rw [putRx, bridge_modBridge_same, hbridge]
      rfl
  case retry =>
    refine ⟨_, frameAdmitRetry_one hb hone, ?_⟩
    rw [hcopies]
    exact placeAll_places hsp hbuf hp

end Sys2Proof.Machine
end

section
/-! SUPPORT. Exact sums: 48 bytes spell the accumulator they were made from, and the merge of contributions by distinct ranks does not
depend on its order (10 R264 to R267). -/
namespace Sys2Proof.Machine
open Sys2Proof.Safety Sys2Proof.Claims

theorem exactSum_eq {x y : ExactSum} (ha : x.a = y.a) (hnanv : x.nanv = y.nanv) (hrank : x.rank = y.rank) (hnan : x.nan = y.nan)
    (hpinf : x.pinf = y.pinf) (hninf : x.ninf = y.ninf) (hsnan : x.snan = y.snan) (hnegz : x.negz = y.negz) : x = y := by
  cases x
  cases y
  exact ExactSum.mk.injEq .. ▸ ⟨ha, hnanv, hrank, hnan, hpinf, hninf, hsnan, hnegz⟩

-- The 48 bytes --------------------------------------------------------------------------------------------------------

theorem toSigned_ofSigned {w : Nat} {i : Int} (h : i.natAbs < 2 ^ w) : toSigned (w + 1) (ofSigned (w + 1) i) = i := by
  have hw : 2 ^ (w + 1) = 2 * 2 ^ w := Nat.pow_succ'
  have hcode : (ofSigned (w + 1) i : Int) = if 0 ≤ i then i else i + (2 * 2 ^ w : Nat) := by
    rw [ofSigned, hw, Int.toNat_of_nonneg (Int.emod_nonneg _ (by have := Nat.two_pow_pos w; omega))]
    split
    · exact Int.emod_eq_of_lt ‹_› (by omega)
    · rw [← Int.add_emod_right, Int.emod_eq_of_lt (by omega) (by omega)]
  rw [toSigned, Nat.mod_eq_of_lt (ofSigned_lt ..)]
  split at hcode <;> split <;> omega

theorem toSigned_add_mul (w v m : Nat) : toSigned w (v + 2 ^ w * m) = toSigned w v := by
  simp only [toSigned, Nat.add_mul_mod_self_left]

/-- The fields of an accumulator fit their places in the 48 bytes (10 R264). -/
structure ExactFits (x : ExactSum) : Prop where
  size : x.a.natAbs < 2 ^ 319
  nanv : x.nanv < 2 ^ 32
  rank : x.rank < 256

theorem exactFlags_eq (x : ExactSum) :
    exactFlags x = x.nan.toNat + 2 * x.pinf.toNat + 4 * x.ninf.toNat + 8 * x.snan.toNat + 16 * x.negz.toNat := by
  have hbit (b : Bool) (n : Nat) : (if b then n else 0) = n * b.toNat := by cases b <;> simp
  simp only [exactFlags, hbit, Nat.one_mul]

theorem bitAt_of_digit {v i : Nat} {b : Bool} (h : (v >>> i) % 2 = b.toNat) : bitAt v i = b := by
  rw [bitAt, h]
  cases b <;> rfl

theorem shiftLeft_above (a n f r lo : Nat) :
    a + n <<< lo + f <<< (lo + 32) + r <<< (lo + 40) = a + 2 ^ lo * (n + 2 ^ 32 * f + 2 ^ 40 * r) := by
  simp only [Nat.shiftLeft_eq, pow_add]
  ring

theorem shiftRight_above {a lo : Nat} (h : a < 2 ^ lo) (m k : Nat) : (a + 2 ^ lo * m) >>> (lo + k) = m / 2 ^ k := by
  rw [Nat.shiftRight_add, Nat.shiftRight_eq_div_pow, Nat.shiftRight_eq_div_pow, Nat.add_mul_div_left _ _ (Nat.two_pow_pos lo),
    Nat.div_eq_of_lt h, Nat.zero_add]

/-- A lies below bit 320, the other fields of the 48 bytes above it (10 R264). -/
theorem exactCode_eq (x : ExactSum) :
    exactCode x = ofSigned 320 x.a + 2 ^ 320 * (x.nanv + 2 ^ 32 * exactFlags x + 2 ^ 40 * x.rank) :=
  shiftLeft_above ..

theorem exactOf_a (v : Nat) : (exactOf v).a = toSigned 320 v := by simp only [exactOf]

/-- The 48 bytes of an accumulator spell it again (10 R264). -/
theorem exactOf_exactCode {x : ExactSum} (h : ExactFits x) : exactOf (exactCode x) = x := by
  have hlow : (exactOf (exactCode x)).a = x.a := by
    rw [exactOf_a, exactCode_eq, toSigned_add_mul, toSigned_ofSigned h.size]
  have hhigh (k : Nat) : exactCode x >>> (320 + k) = (x.nanv + 2 ^ 32 * exactFlags x + 2 ^ 40 * x.rank) / 2 ^ k := by
    rw [exactCode_eq, shiftRight_above (ofSigned_lt ..)]
  have hflags := exactFlags_eq x
  have hnanv := h.nanv
  have hrank := h.rank
  have hnan := Bool.toNat_le x.nan
  have hpinf := Bool.toNat_le x.pinf
  have hninf := Bool.toNat_le x.ninf
  have hsnan := Bool.toNat_le x.snan
  have hnegz := Bool.toNat_le x.negz
  have hdigit : ∀ (i : Nat) (b : Bool), (x.nanv + 2 ^ 32 * exactFlags x + 2 ^ 40 * x.rank) / 2 ^ (32 + i) % 2 = b.toNat →
      bitAt (exactCode x) (320 + (32 + i)) = b := fun i b hb => bitAt_of_digit (by rw [hhigh, hb])
  refine exactSum_eq hlow ?_ ?_ (hdigit 0 _ ?_) (hdigit 1 _ ?_) (hdigit 2 _ ?_) (hdigit 3 _ ?_) (hdigit 4 _ ?_)
  · exact (congrArg (· % 2 ^ 32) (hhigh 0)).trans (show _ = x.nanv by omega)
  · exact (congrArg (· % 2 ^ 8) (hhigh 40)).trans (show _ = x.rank by omega)
  all_goals omega

-- Contributions -------------------------------------------------------------------------------------------------------

/-- A format whose values lie below 2^129: those of exact sums (10 R264). -/
structure ExactSumFmt (f : FpFmt) : Prop where
  kind : f.kind = .ieee
  ew : 0 < f.ew
  mw : 0 < f.mw
  range : 2 ^ f.ew ≤ f.bias + 129
  width : f.ew + f.mw < 32

theorem exactSumFmt_of_mem {f : FpFmt} (h : f ∈ [fFP32, fBF16, fFP16]) : ExactSumFmt f := by
  simp only [List.mem_cons, List.not_mem_nil, or_false] at h
  rcases h with rfl | rfl | rfl <;> exact ⟨rfl, by decide, by decide, by decide, by decide⟩

section Leaf
variable {f : FpFmt} {r c : Nat}

/-- A finite value has a significand of the format's precision and no exponent above the largest. -/
theorem fin_of_fpDecode {n : Bool} {m : Nat} {e : Int} (hf : ExactSumFmt f) (h : fpDecode f c = .fin n m e) :
    m < 2 ^ (f.mw + 1) ∧ e + f.mw ≤ 128 := by
  have hex : bitsOf c (f.ew + f.mw - 1) f.mw < 2 ^ f.ew :=
    (Nat.mod_lt _ (Nat.two_pow_pos _)).trans_le (Nat.pow_le_pow_right (by decide) (by have := hf.ew; omega))
  have hfr : c % 2 ^ f.mw < 2 ^ f.mw := Nat.mod_lt _ (Nat.two_pow_pos _)
  have hrange := hf.range
  have hpow : 2 ^ (f.mw + 1) = 2 * 2 ^ f.mw := Nat.pow_succ'
  have hone : 1 ≤ 2 ^ f.ew := Nat.one_le_two_pow
  unfold fpDecode at h
  simp only [hf.kind] at h
  split at h
  · split at h <;> cases h
  · split at h <;> (cases h; omega)

theorem nanCode_lt {n : Bool} {fr : Nat} (hf : ExactSumFmt f) (hfr : fr < 2 ^ f.mw) : nanCode f n fr < 2 ^ 32 := by
  have hq : fr ||| 2 ^ (f.mw - 1) < 2 ^ f.mw := Nat.or_lt_two_pow hfr (Nat.pow_lt_pow_right (by decide) (by have := hf.mw; omega))
  have hs : signBit f n ≤ 2 ^ (f.ew + f.mw) := by unfold signBit; split <;> simp
  have hw : 2 ^ (f.ew + f.mw) ≤ 2 ^ 31 := Nat.pow_le_pow_right (by decide) (by have := hf.width; omega)
  have hi : infCode f + 2 ^ f.mw = 2 ^ (f.ew + f.mw) := by
    rw [infCode, Nat.sub_mul, Nat.one_mul, ← pow_add, Nat.sub_add_cancel (Nat.pow_le_pow_right (by decide) (by omega))]
  simp only [nanCode, quietFrac, hf.kind]
  omega

theorem frac_of_fpDecode {n s : Bool} {fr : Nat} (hf : ExactSumFmt f) (h : fpDecode f c = .nan n fr s) : fr < 2 ^ f.mw := by
  have hfr : c % 2 ^ f.mw < 2 ^ f.mw := Nat.mod_lt _ (Nat.two_pow_pos _)
  unfold fpDecode at h
  simp only [hf.kind] at h
  split at h
  · split at h
    · cases h
    · cases h
      exact hfr
  · split at h <;> cases h

/-- A leaf that is no NaN names no rank, and one that is names its own (10 R265). -/
theorem exactLeaf_rank (f : FpFmt) (r c : Nat) :
    ((exactLeaf f r c).nan = true ∧ (exactLeaf f r c).rank = r) ∨
    ((exactLeaf f r c).nan = false ∧ (exactLeaf f r c).nanv = 0 ∧ (exactLeaf f r c).rank = 0) := by
  unfold exactLeaf
  split
  · exact .inl ⟨rfl, rfl⟩
  · split <;> exact .inr ⟨rfl, rfl, rfl⟩
  · exact .inr ⟨rfl, rfl, rfl⟩

theorem exactLeaf_a_le (hf : ExactSumFmt f) : (exactLeaf f r c).a.natAbs ≤ 2 ^ 278 := by
  unfold exactLeaf
  split
  · exact Nat.zero_le _
  · split <;> exact Nat.zero_le _
  · next n m e h =>
    obtain ⟨hm, he⟩ := fin_of_fpDecode hf h
    have hwidth := hf.width
    have hbits : f.mw + 1 + (e + 149).toNat ≤ 278 := by omega
    have hv : m <<< (e + 149).toNat ≤ 2 ^ 278 := by
      rw [Nat.shiftLeft_eq]
      refine (Nat.mul_le_mul_right _ hm.le).trans ?_
      rw [← pow_add]
      exact pow_le_pow_right₀ one_le_two hbits
    generalize m <<< (e + 149).toNat = v at hv
    cases n with
    | false => exact hv
    | true => exact (Int.natAbs_neg v).trans_le hv

theorem exactLeaf_nanv_lt (hf : ExactSumFmt f) : (exactLeaf f r c).nanv < 2 ^ 32 := by
  unfold exactLeaf
  split
  · next h => exact nanCode_lt hf (frac_of_fpDecode hf h)
  · split <;> exact Nat.two_pow_pos 32
  · exact Nat.two_pow_pos 32

end Leaf

-- Trees ---------------------------------------------------------------------------------------------------------------

/-- The accumulator of a tree of contributions, before it becomes bytes. -/
def treeSum (f : FpFmt) : SumTree → ExactSum
  | .leaf r c => exactLeaf f r c
  | .node l r => exactAdd (treeSum f l) (treeSum f r)

/-- Each contribution adds at most 2^278 to the magnitude; the NaN and the rank are those of one of them. -/
theorem treeSum_bounds {f : FpFmt} (hf : ExactSumFmt f) : ∀ {t : SumTree}, (∀ l ∈ t.leaves, l.1 < 256) →
    (treeSum f t).a.natAbs ≤ t.leaves.length * 2 ^ 278 ∧ (treeSum f t).nanv < 2 ^ 32 ∧ (treeSum f t).rank < 256
  | .leaf r c, h => by
    have hr : r < 256 := h (r, c) (List.mem_singleton.mpr rfl)
    refine ⟨(exactLeaf_a_le hf).trans_eq (Nat.one_mul _).symm, exactLeaf_nanv_lt hf, ?_⟩
    rcases exactLeaf_rank f r c with ⟨-, hrank⟩ | ⟨-, -, hrank⟩
    · exact hrank.trans_lt hr
    · exact hrank.trans_lt (by decide)
  | .node l r, h => by
    rw [SumTree.leaves, List.forall_mem_append] at h
    obtain ⟨hla, hln, hlr⟩ := treeSum_bounds hf h.1
    obtain ⟨hra, hrn, hrr⟩ := treeSum_bounds hf h.2
    simp only [treeSum, exactAdd, SumTree.leaves, List.length_append, Nat.add_mul]
    refine ⟨(Int.natAbs_add_le ..).trans (Nat.add_le_add hla hra), ?_, ?_⟩ <;> split <;> assumption

/-- An accumulator of no more than 256 contributions fits the 48 bytes (10 R264). -/
theorem treeSum_fits {f : FpFmt} {t : SumTree} (hf : ExactSumFmt f) (hn : t.leaves.length ≤ 256)
    (hr : ∀ l ∈ t.leaves, l.1 < 256) : ExactFits (treeSum f t) := by
  obtain ⟨ha, hnanv, hrank⟩ := treeSum_bounds hf hr
  have hsize : t.leaves.length * 2 ^ 278 < 2 ^ 41 * 2 ^ 278 := Nat.mul_lt_mul_of_pos_right (by omega) (pow_pos two_pos _)
  rw [← pow_add] at hsize
  exact ⟨ha.trans_lt hsize, hnanv, hrank⟩

/-- The bytes an engine holds for a tree are those of its accumulator. -/
theorem code_eq_exactCode {f : FpFmt} (hf : ExactSumFmt f) : ∀ {t : SumTree}, t.leaves.length ≤ 256 → (∀ l ∈ t.leaves, l.1 < 256) →
    t.code f = exactCode (treeSum f t)
  | .leaf _ _, _, _ => rfl
  | .node l r, hn, hr => by
    rw [SumTree.leaves, List.length_append] at hn
    rw [SumTree.leaves, List.forall_mem_append] at hr
    have hl : l.leaves.length ≤ 256 := by omega
    have hrn : r.leaves.length ≤ 256 := by omega
    rw [SumTree.code, code_eq_exactCode hf hl hr.1, code_eq_exactCode hf hrn hr.2,
      exactOf_exactCode (treeSum_fits hf hl hr.1), exactOf_exactCode (treeSum_fits hf hrn hr.2), treeSum]

-- The order of merging ------------------------------------------------------------------------------------------------

/-- `x` is what the contributions `ls` come to, in terms that do not speak of their order: the sum, the special values seen, and the
NaN of the lowest rank (10 R265). -/
structure SumsTo (f : FpFmt) (ls : List (Nat × Nat)) (x : ExactSum) : Prop where
  a : x.a = (ls.map fun l => (exactLeaf f l.1 l.2).a).sum
  nan : x.nan = ls.any fun l => (exactLeaf f l.1 l.2).nan
  pinf : x.pinf = ls.any fun l => (exactLeaf f l.1 l.2).pinf
  ninf : x.ninf = ls.any fun l => (exactLeaf f l.1 l.2).ninf
  snan : x.snan = ls.any fun l => (exactLeaf f l.1 l.2).snan
  negz : x.negz = ls.all fun l => (exactLeaf f l.1 l.2).negz
  chosen : x.nan = true → ∃ l ∈ ls, (exactLeaf f l.1 l.2).nan = true ∧ x.nanv = (exactLeaf f l.1 l.2).nanv ∧ x.rank = l.1 ∧
    ∀ k ∈ ls, (exactLeaf f k.1 k.2).nan = true → l.1 ≤ k.1
  plain : x.nan = false → x.nanv = 0 ∧ x.rank = 0

namespace SumsTo
variable {f : FpFmt} {ls ks : List (Nat × Nat)} {x y : ExactSum}

theorem leaf (f : FpFmt) (r c : Nat) : SumsTo f [(r, c)] (exactLeaf f r c) := by
  constructor
  case chosen =>
    intro hnan
    have hrank := (exactLeaf_rank f r c).resolve_right (by simp [hnan])
    exact ⟨(r, c), List.mem_singleton.mpr rfl, hnan, rfl, hrank.2, by simp⟩
  case plain => exact fun hnan => ((exactLeaf_rank f r c).resolve_left (by simp [hnan])).2
  all_goals simp

/-- Of two NaNs the merge takes the one of the lower rank, and it takes a NaN before a number (10 R265). -/
theorem add (hx : SumsTo f ls x) (hy : SumsTo f ks y) : SumsTo f (ls ++ ks) (exactAdd x y) := by
  constructor
  case a => simp [exactAdd, hx.a, hy.a]
  case nan => simp [exactAdd, hx.nan, hy.nan]
  case pinf => simp [exactAdd, hx.pinf, hy.pinf]
  case ninf => simp [exactAdd, hx.ninf, hy.ninf]
  case snan => simp [exactAdd, hx.snan, hy.snan]
  case negz => simp [exactAdd, hx.negz, hy.negz]
  case plain =>
    intro hnan
    obtain ⟨hxn, hyn⟩ : x.nan = false ∧ y.nan = false := by simpa [exactAdd] using hnan
    simpa [exactAdd, hxn] using hy.plain hyn
  case chosen =>
    intro hnan
    by_cases hleft : (x.nan && (!y.nan || decide (x.rank ≤ y.rank))) = true
    · simp only [exactAdd, hleft, if_true]
      simp only [Bool.and_eq_true, Bool.or_eq_true, Bool.not_eq_true', decide_eq_true_eq] at hleft
      obtain ⟨l, hl, hln, hlv, hlr, hmin⟩ := hx.chosen hleft.1
      refine ⟨l, List.mem_append_left _ hl, hln, hlv, hlr, fun k hk hkn => ?_⟩
      rcases List.mem_append.mp hk with hk | hk
      · exact hmin k hk hkn
      · have hyn : y.nan = true := by rw [hy.nan]; exact List.any_eq_true.mpr ⟨k, hk, hkn⟩
        obtain ⟨m, -, -, -, hmr, hmmin⟩ := hy.chosen hyn
        have hle := hleft.2.resolve_left (by simp [hyn])
        have := hmmin k hk hkn
        omega
    · simp only [exactAdd, hleft]
      have hyn : y.nan = true := by
        by_contra hyn
        simp_all [exactAdd]
      obtain ⟨l, hl, hln, hlv, hlr, hmin⟩ := hy.chosen hyn
      refine ⟨l, List.mem_append_right _ hl, hln, hlv, hlr, fun k hk hkn => ?_⟩
      rcases List.mem_append.mp hk with hk | hk
      · have hxn : x.nan = true := by rw [hx.nan]; exact List.any_eq_true.mpr ⟨k, hk, hkn⟩
        obtain ⟨m, -, -, -, hmr, hmmin⟩ := hx.chosen hxn
        have := hmmin k hk hkn
        simp only [hxn, hyn, Bool.not_true, Bool.false_or, Bool.true_and, decide_eq_true_eq] at hleft
        omega
      · exact hmin k hk hkn

theorem tree (f : FpFmt) : ∀ t : SumTree, SumsTo f t.leaves (treeSum f t)
  | .leaf r c => leaf f r c
  | .node l r => (tree f l).add (tree f r)

theorem perm (h : SumsTo f ls x) (hp : ls.Perm ks) : SumsTo f ks x where
  a := h.a.trans (hp.map _).sum_eq
  nan := h.nan.trans hp.any_eq
  pinf := h.pinf.trans hp.any_eq
  ninf := h.ninf.trans hp.any_eq
  snan := h.snan.trans hp.any_eq
  negz := h.negz.trans hp.all_eq
  chosen hn := by simpa only [hp.mem_iff] using h.chosen hn
  plain := h.plain

/-- Contributions by distinct ranks come to one accumulator: only one of them has the lowest rank of a NaN. -/
theorem unique (hd : (ls.map (·.1)).Nodup) (hx : SumsTo f ls x) (hy : SumsTo f ls y) : x = y := by
  have hnan : x.nan = y.nan := hx.nan.trans hy.nan.symm
  have hchosen : x.nanv = y.nanv ∧ x.rank = y.rank := by
    cases hn : x.nan with
    | false =>
      obtain ⟨hxv, hxr⟩ := hx.plain hn
      obtain ⟨hyv, hyr⟩ := hy.plain (hnan ▸ hn)
      exact ⟨hxv.trans hyv.symm, hxr.trans hyr.symm⟩
    | true =>
      obtain ⟨l, hl, hln, hlv, hlr, hlmin⟩ := hx.chosen hn
      obtain ⟨k, hk, hkn, hkv, hkr, hkmin⟩ := hy.chosen (hnan ▸ hn)
      have hlk : l = k := List.inj_on_of_nodup_map hd hl hk (le_antisymm (hlmin k hk hkn) (hkmin l hl hln))
      subst hlk
      exact ⟨hlv.trans hkv.symm, hlr.trans hkr.symm⟩
  exact exactSum_eq (hx.a.trans hy.a.symm) hchosen.1 hchosen.2 hnan (hx.pinf.trans hy.pinf.symm) (hx.ninf.trans hy.ninf.symm)
    (hx.snan.trans hy.snan.symm) (hx.negz.trans hy.negz.symm)

end SumsTo

/-- Distinct ranks below 256 are at most 256. -/
theorem length_le_of_ranks {ls : List (Nat × Nat)} (hd : (ls.map (·.1)).Nodup) (hr : ∀ l ∈ ls, l.1 < 256) : ls.length ≤ 256 := by
  have hsub : ls.map (·.1) ⊆ List.range 256 := fun r h => by
    obtain ⟨l, hl, rfl⟩ := List.mem_map.mp h
    exact List.mem_range.mpr (hr l hl)
  simpa using (List.subperm_of_subset hd hsub).length_le

/-- Settles O32: the bytes are those of the tree's accumulator, which the set of contributions determines. -/
theorem exactSumsDoNotDependOnTheOrder : Obligations.ExactSumsDoNotDependOnTheOrder := by
  intro f hf x y hp hd hl
  have hfmt : ExactSumFmt f := exactSumFmt_of_mem hf
  have hrx : ∀ l ∈ x.leaves, l.1 < 256 := fun l h => (hl l h).1
  have hry : ∀ l ∈ y.leaves, l.1 < 256 := fun l h => hrx l (hp.mem_iff.mpr h)
  have hnx : x.leaves.length ≤ 256 := length_le_of_ranks hd hrx
  rw [code_eq_exactCode hfmt hnx hrx, code_eq_exactCode hfmt (hp.length_eq ▸ hnx) hry,
    ((SumsTo.tree f x).perm hp).unique ((hp.map _).nodup_iff.mp hd) (SumsTo.tree f y)]

end Sys2Proof.Machine
end

section
/-! SUPPORT. Collective frames at a tile agent: how a frame of the present step is delivered, and what the agent's own sending leaves
(07 R203; 11 R285, R288, R300, R302). -/
namespace Sys2Proof.Machine
open Sys2Proof.Safety Sys2Proof.Claims

-- Course entries ------------------------------------------------------------------------------------------------------

theorem course?_of_frameCourse {s : State} {die : Nat} {f : Frame} {e : Course} (h : frameCourse s die f = some e) :
    course? s die (argCt (fArg f)) = some e := by
  unfold frameCourse at h
  split at h
  · next c hc =>
    rw [hc]
    exact (Option.ite_none_right_eq_some.mp h).2
  · cases h

theorem entryLost_of_course? {s : State} {die n : Nat} {e : Course} (h : course? s die n = some e) :
    entryLost s die 7 n (courseWord s die n) = false := by
  have hok := (Option.ite_none_right_eq_some.mp h).1
  simp only [Bool.and_eq_true, Bool.not_eq_true'] at hok
  exact hok.2

/-- A tile agent finds no error in an entry that a frame can name (17 R444). -/
theorem courseRead_named {s : State} {t : Nat} {f : Frame} {e : Course} (ht : t < 64) (h : frameCourse s t f = some e) :
    courseRead s t (argCt (fArg f)) = s := by
  have hlost := entryLost_of_course? (course?_of_frameCourse h)
  have htile : ¬ (64 ≤ t ∧ t < 100) := by omega
  unfold entryLost at hlost
  unfold courseRead tableRead
  cases hm : s.errs.marks.isEmpty with
  | true => rfl
  | false =>
    simp only [hm, Bool.not_false, Bool.true_and] at hlost
    simp only [hlost, htile, if_false, Bool.false_eq_true]

-- Words that fault records leave --------------------------------------------------------------------------------------

/-- A fault record changes its own two words and the log (17 R437, R439). -/
theorem regWord_recordAs (s : State) {die b : Nat} (code cls detail : Nat) (h : b < recordAddr die ∨ recordAddr die + 8 ≤ b)
    (hlog : b < dcs SP 0x2F00) : regWord (recordAs s die code cls detail) b = regWord s b := by
  have put (u : State) {hi : Nat} (lo x : Nat) (hh : hi < 64) :
      regWord (regSetBits u (recordAddr die) hi lo x) b = regWord u b := regWord_regPutNat_out _ _ _ _ _ (by omega)
  unfold recordAs
  extract_lets a s₁ u s₂ s₃
  have h₁ : regWord s₁ b = regWord s b := by
    unfold s₁
    split
    · rw [put _ _ _ (by decide), put _ _ _ (by decide), put _ _ _ (by decide)]
    · exact put _ _ _ (by decide)
  have h₂ : regWord s₂ b = regWord s₁ b := by
    unfold s₂
    split
    · exact put s₁ 11 1 (by decide)
    · rfl
  rw [(logFault_logs ..).below b hlog, put _ _ _ (by decide), h₂, h₁]

/-- The coordinates a tile has depend on one word (07 R182). -/
theorem selfAt_tile {s u : State} {t : Nat} (ht : t < 64) (h : regWord u (dcs t 0x830) = regWord s (dcs t 0x830)) :
    selfAt u t = selfAt s t := by
  simp only [selfAt, if_pos ht, regBits_of_word h _ (show 3 < 32 by decide), regBits_of_word h _ (show 7 < 32 by decide)]

theorem selfAt_recordTile (s : State) {t : Nat} (code : Nat) (ht : t < 64) : selfAt (recordTile s t code) t = selfAt s t := by
  have haddr : recordAddr t = dcs t 0x840 := if_pos ht
  exact selfAt_tile ht (regWord_recordAs s _ _ _ (by rw [haddr]; unfold dcs; omega) (by unfold dcs SP; omega))

-- Sending -------------------------------------------------------------------------------------------------------------

/-- A frame that is no memory request leaves every tile as it is. -/
theorem agentEmit_tiles {s : State} {t : Nat} {f : Frame} (h : isMfReq (fType f) = false) : (agentEmit s t f).tiles = s.tiles := by
  unfold agentEmit
  split
  · next cs _ => exact (arriveVia_local s (tileExit f cs).1 (tileExit f cs).2 f).2.1
  · rw [h]
    exact (recordAs_records ..).tiles

/-- `u` has the cores of `s` and, but for its injection queues, tile `t`. -/
structure SendsOnly (t : Nat) (s u : State) : Prop where
  cores : u.cores = s.cores
  tile : ∃ q, tile u t = { tile s t with inj := q }

namespace SendsOnly
variable {t : Nat} {s u v : State}

theorem refl (s : State) : SendsOnly t s s := ⟨rfl, _, rfl⟩
theorem trans (h : SendsOnly t s u) (h' : SendsOnly t u v) : SendsOnly t s v := by
  obtain ⟨hc, q, hq⟩ := h
  obtain ⟨hc', q', hq'⟩ := h'
  exact ⟨hc'.trans hc, q', by rw [hq', hq]⟩
theorem of_tiles (hc : u.cores = s.cores) (ht : u.tiles = s.tiles) : SendsOnly t s u := ⟨hc, _, tile_congr ht t⟩
theorem of_records (h : RecordsOnly s u) : SendsOnly t s u := of_tiles h.cores h.tiles
theorem setInj (s : State) (t k : Nat) (q : List (Bool × Frame)) : SendsOnly t s (setInj s t k q) := ⟨rfl, _, tile_setTile_same ..⟩

end SendsOnly

/-- What a queue holds after it has been set was put there. -/
theorem of_mem_injQ_setInj {s : State} {t k : Nat} {q : List (Bool × Frame)} {x : Bool × Frame} (h : x ∈ injQ (setInj s t k q) t k) :
    x ∈ q := by
  rw [injQ_setInj] at h
  split at h
  · exact h
  · exact absurd h List.not_mem_nil

/-- A queue without memory requests empties into Bridges alone (09 R247). -/
theorem releaseInj_sendsOnly {t k n : Nat} {s : State} (h : ∀ x ∈ injQ s t k, isMfReq (fType x.2) = false) :
    SendsOnly t s (releaseInj t k n s) := by
  induction n generalizing s with
  | zero => exact .refl s
  | succ n ih =>
    unfold releaseInj
    split
    · exact .refl s
    · next seen f rest hq =>
      have hf : isMfReq (fType f) = false := h (seen, f) (by simp [hq])
      extract_lets sh col
      split
      · split
        · exact .refl s
        · exact (SendsOnly.setInj ..).trans (.of_records (polCount_records ..))
      · set u := polCount (debit (setInj s t k rest) t 0x900 k sh col (64 * flitsOf f)) t (4 * col + k)
        have hu : RecordsOnly (setInj s t k rest) u := (debit_records ..).trans (polCount_records ..)
        have hkeep : KeepsQueues (setInj s t k rest) (agentEmit u t f) := (KeepsQueues.of_records hu).trans (agentEmit_keeps ..)
        have hrest : ∀ x ∈ injQ (agentEmit u t f) t k, isMfReq (fType x.2) = false := fun x hx =>
          h x (hq ▸ List.mem_cons_of_mem _ (of_mem_injQ_setInj (hkeep.injQ t k ▸ hx)))
        exact (((SendsOnly.setInj ..).trans (.of_records hu)).trans (.of_tiles (agentEmit_cores hf) (agentEmit_tiles hf))).trans (ih hrest)

/-- Frames that are no memory requests, behind none, are sent without a change of any core. -/
theorem agentSends_sendsOnly {s : State} {t k : Nat} {fs : List Frame} (hk : k ≠ 1)
    (hq : ∀ x ∈ injQ s t k, isMfReq (fType x.2) = false) (hf : ∀ f ∈ fs, isMfReq (fType f) = false) :
    SendsOnly t s (agentSends s t k fs) := by
  rw [agentSends, if_neg hk]
  refine (SendsOnly.setInj ..).trans (releaseInj_sendsOnly fun x hx => ?_)
  rcases List.mem_append.mp (of_mem_injQ_setInj hx) with hx | hx
  · exact hq x hx
  · obtain ⟨f, hfs, rfl⟩ := List.mem_map.mp hx
    exact hf f hfs

theorem fType_fSet (f : Frame) {hi lo : Nat} (v : Nat) (d : 79 < lo ∨ hi < 72) : fType (fSet f hi lo v) = fType f :=
  fGet_fSet f v (by decide) d

theorem fType_sealFrame (f : Frame) : fType (sealFrame f) = fType f := by
  have hhdr : (sealFrame f).hdr = (fSet f 255 240 (hcrcOf f)).hdr := rfl
  rw [← fType_fSet f (hi := 255) (lo := 240) (hcrcOf f) (.inl (by decide)), fType, fType, fGet, fGet, hhdr]

/-- Every frame of a stream has the stream's type (11 R287). -/
theorem fType_of_mem_legFrames {c : CollSpec} {items : List (Sub × List Byte)} {l : Leg} {f : Frame} (h : f ∈ legFrames c items l) :
    fType f = c.type % 256 := by
  obtain ⟨i, -, rfl⟩ := List.mem_mapIdx.mp h
  split
  · rw [fType_sealFrame, fType_fSet _ _ (by decide), fType_fSet _ _ (by decide), fType_mkFrame]
  · exact fType_mkFrame _

theorem fType_of_mem_pathFrames {c : CollSpec} {items : List (Sub × List Byte)} {ls : List Leg} {f : Frame}
    (h : f ∈ pathFrames c items ls) : fType f = c.type % 256 := by
  obtain ⟨l, -, hl⟩ := List.mem_flatMap.mp h
  exact fType_of_mem_legFrames hl

-- Delivery ------------------------------------------------------------------------------------------------------------

/-- `u` is `s` once tile `t` has taken frame `f` off FRM-IN and compared its sender's instruction: the tables of streams and of
arrivals, and records, may differ (07 R203; 11 R288). -/
structure TakenAt (t : Nat) (f : Frame) (s u : State) : Prop where
  cores : u.cores = s.cores
  bridges : u.bridges = s.bridges
  self : selfAt u t = selfAt s t
  tile : ∃ rows a, tile u t = { tile s t with frmIn := (tile s t).frmIn.erase f, streams := rows, arrived := a }

/-- The comparison of partners leaves the cores, the Bridges and the tile, but for what it notes (11 R288). -/
theorem checkPartner_notes (s : State) {t : Nat} (f : Frame) (ht : t < 64) :
    (checkPartner s t f).cores = s.cores ∧ (checkPartner s t f).bridges = s.bridges ∧
      selfAt (checkPartner s t f) t = selfAt s t ∧ ∃ a, tile (checkPartner s t f) t = { tile s t with arrived := a } := by
  unfold checkPartner
  simp only
  split
  · split
    · have hrec := recordTile_records s t 0x18
      exact ⟨hrec.cores, hrec.bridges, selfAt_recordTile s _ ht, _, hrec.tile t⟩
    · exact ⟨rfl, rfl, rfl, _, rfl⟩
  · exact ⟨rfl, rfl, rfl, _, tile_modTile_same ..⟩

/-- A frame whose turn it is is taken and delivered (11 R285, R288). -/
theorem collFrm_delivers {s : State} {t ty : Nat} {f : Frame} {e : Course} (ht : t < 64) (h : deliversNow s t ty f e) :
    ∃ u, TakenAt t f s u ∧ collFrm ty t s = collDeliver u t e f := by
  obtain ⟨-, hhead, hcourse, hstep, hwait, hnew, hroom, hlast, -⟩ := h
  obtain ⟨rows, hrows⟩ := streamStep_first hnew hlast
  have hnow : ¬ stepLow s t = (stepLow s t + 1) % 2 ^ 16 := by omega
  have hstream : streamRoom (tile s t) f = true := by simp [streamRoom, rowRoom, hroom]
  let v := modTile (popFrm s t f) t (fun x => { x with streams := rows })
  have hv : tile v t = { tile s t with frmIn := (tile s t).frmIn.erase f, streams := rows } := by
    rw [tile_modTile_same, popFrm_tile]
  obtain ⟨hcores, hbridges, hself, a, htile⟩ := checkPartner_notes v f ht
  refine ⟨checkPartner v t f, ⟨hcores, hbridges, hself, rows, a, by rw [htile, hv]⟩, ?_⟩
  simp only [collFrm, hhead, courseRead_named ht hcourse, hcourse, hstep, hnow, hwait, hstream, hrows, if_false, ne_eq,
    not_true_eq_false, Bool.not_true, Bool.or_self, Bool.false_eq_true]
  rfl

/-- A frame of the present step that must wait changes nothing (04 R120; 11 R288). -/
theorem collFrm_waits {s : State} {t ty : Nat} {f : Frame} {e : Course} (ht : t < 64) (hhead : frmHead (tile s t) ty = some f)
    (hcourse : frameCourse s t f = some e) (hstep : argStep (fArg f) = stepLow s t) (hwait : collWaits s t e f = true) :
    collFrm ty t s = s := by
  simp [collFrm, hhead, courseRead_named ht hcourse, hcourse, hstep, hwait]

theorem fType_of_frmHead {x : Tile} {ty : Nat} {f : Frame} (h : frmHead x ty = some f) : fType f = ty := by
  unfold frmHead at h
  split at h
  · next g _ =>
    obtain ⟨hty, hg⟩ := Option.ite_none_right_eq_some.mp h
    cases hg
    exact hty
  · cases h

/-- The four commands of a tile take the collective frames of their types. -/
theorem exec_collFrm {s : State} {t : Nat} (ht : t < 64) (hc : clocksRun s = true) :
    exec (.sdown t) s = .next (collFrm 0x11 t s) ∧ exec (.cpiece t) s = .next (collFrm 0x12 t s) ∧
      exec (.ccount t) s = .next (collFrm 0x13 t s) ∧ exec (.cbase t) s = .next (collFrm 0x14 t s) := by
  have h (ty : Nat) : collCmd ty t s = .next (collFrm ty t s) := (if_pos ht).trans (tileCmd_works ht hc)
  exact ⟨h 0x11, h 0x12, h 0x13, h 0x14⟩

end Sys2Proof.Machine
end

section
/-! SUPPORT. Where delivered collective frames land: results, pieces and counts in their buffers, bases at the pieces they release (10
R254; 11 R288, R293, R294, R300, R302). -/
namespace Sys2Proof.Machine
open Sys2Proof.Safety Sys2Proof.Claims

-- Landed bytes --------------------------------------------------------------------------------------------------------

section Landed
variable {s u v : State} {c b a : Nat} {bs : List Byte}

theorem landedAt_congr (h : u.cores = s.cores) (hl : landedAt u v c b a bs) : landedAt s v c b a bs := by
  have hcore (k : Nat) : coreOf u k = coreOf s k := coreOf_congr h k
  simpa only [landedAt, hcore] using hl

/-- Bytes that fit have landed once their core alone has changed by them. -/
theorem landedAt_of_cores (h : v.cores = (modCore s c (landed b a bs)).cores) : landedAt s v c b a bs := by
  have hcore : coreOf v c = landed b a bs (coreOf s c) := (coreOf_congr h c).trans (core_modCore_same ..)
  refine ⟨by rw [hcore, lbGet_landed], by rw [hcore, ls_landed, memRead_memWrite_same], fun y hy => ?_, fun k hk => ?_⟩
  · rw [hcore, ls_landed, memByte_memWrite_out _ _ _ _ hy]
  · exact (coreOf_congr h k).trans (core_modCore_ne _ _ hk)

/-- A change of the core that leaves its buffers and its store leaves what has landed. -/
theorem landedAt_modCore {g : Core → Core} (hlb : ∀ k, (g k).lb = k.lb) (hls : ∀ k, (g k).ls = k.ls)
    (h : landedAt s v c b a bs) : landedAt s (modCore v c g) c b a bs := by
  obtain ⟨hcount, hread, hout, hother⟩ := h
  have hbuf : lbGet (coreOf (modCore v c g) c) b = lbGet (coreOf v c) b := by rw [core_modCore_same, lbGet, hlb, lbGet]
  have hstore : (coreOf (modCore v c g) c).ls = (coreOf v c).ls := by rw [core_modCore_same, hls]
  refine ⟨by rw [hbuf, hcount], by rw [hstore, hread], fun y hy => by rw [hstore, hout y hy], fun k hk => ?_⟩
  rw [core_modCore_ne _ _ hk, hother k hk]

end Landed

-- Chunks --------------------------------------------------------------------------------------------------------------

theorem injQ_congr {s u : State} {t : Nat} (h : (tile u t).inj = (tile s t).inj) (k : Nat) : injQ u t k = injQ s t k := by
  rw [injQ, injQ, h]

/-- `u` has the cores of `s` and, but for chunks, poison and what is to be sent, tile `t`. -/
structure ChecksOnly (t : Nat) (s u : State) : Prop where
  cores : u.cores = s.cores
  tile : ∃ cs ps q, tile u t = { tile s t with chunks := cs, poisoned := ps, inj := q }

namespace ChecksOnly
variable {t : Nat} {s u v : State}

theorem refl (s : State) : ChecksOnly t s s := ⟨rfl, _, _, _, rfl⟩
theorem trans (h : ChecksOnly t s u) (h' : ChecksOnly t u v) : ChecksOnly t s v := by
  obtain ⟨hc, cs, ps, q, hq⟩ := h
  obtain ⟨hc', cs', ps', q', hq'⟩ := h'
  exact ⟨hc'.trans hc, cs', ps', q', by rw [hq', hq]⟩
theorem of_sends (h : SendsOnly t s u) : ChecksOnly t s u := by
  obtain ⟨hc, q, hq⟩ := h
  exact ⟨hc, _, _, q, hq⟩
theorem of_records (h : RecordsOnly s u) : ChecksOnly t s u := .of_sends (.of_records h)
theorem chunks (s : State) (t : Nat) (cs : List ChunkRow) : ChecksOnly t s (modTile s t (fun x => { x with chunks := cs })) :=
  ⟨rfl, _, _, _, tile_modTile_same ..⟩
theorem frmIn (h : ChecksOnly t s u) : (Machine.tile u t).frmIn = (Machine.tile s t).frmIn := by
  obtain ⟨-, _, _, _, h⟩ := h
  rw [h]

end ChecksOnly

section Chunk
variable {s : State} {t : Nat}

/-- Poison is no memory request (11 R302). -/
theorem sendPoison_checks {ct : Nat} {e : Course} (h : ∀ x ∈ injQ s t 2, isMfReq (fType x.2) = false) :
    ChecksOnly t s (sendPoison s t ct e) := by
  unfold sendPoison
  split
  · exact .refl s
  · extract_lets u a
    have htile : tile u t = { tile s t with poisoned := (tile s t).poisoned ++ [ct] } := tile_modTile_same ..
    have hu : ChecksOnly t s u := ⟨rfl, _, _, _, htile⟩
    split
    · exact hu
    · refine hu.trans (.of_sends (agentSends_sendsOnly (by decide) ?_ fun f hf => ?_))
      · rw [injQ_congr (s := s) (by rw [htile])]
        exact h
      · rw [fType_of_mem_pathFrames hf]
        rfl

/-- The check of a chunk leaves the cores (11 R300, R301). -/
theorem chunkLanded_checks {e : Course} {f : Frame} {off : Nat} {bs : List Byte}
    (h : ∀ x ∈ injQ s t 2, isMfReq (fType x.2) = false) : ChecksOnly t s (chunkLanded s t e f off bs) := by
  unfold chunkLanded
  extract_lets _ _ _ _ rest _ _ u
  split
  · exact .chunks ..
  · have hu : ChecksOnly t s u := .chunks s t rest
    split
    · have hrec := recordTile_records u t 0x2A
      have htile : tile (recordTile u t 0x2A) t = { tile s t with chunks := rest } := (hrec.tile t).trans (tile_modTile_same ..)
      refine (hu.trans (.of_records hrec)).trans (sendPoison_checks ?_)
      rw [injQ_congr (s := s) (by rw [htile])]
      exact h
    · exact hu

/-- The bytes of a chunk that fit land, and nothing else happens to a core (11 R293, R294). -/
theorem landChunk_lands {e : Course} {f : Frame} {b off co : Nat} {bs : List Byte}
    (hfit : landRefused (lbGet (coreOf s (destCore f)) b) ((lbGet (coreOf s (destCore f)) b).base + off) bs.length = false)
    (h : ∀ x ∈ injQ s t 2, isMfReq (fType x.2) = false) :
    landedAt s (landChunk s t e f b off co bs) (destCore f) b ((lbGet (coreOf s (destCore f)) b).base + off) bs ∧
      (coreOf (landChunk s t e f b off co bs) (destCore f)).lateFlags = (coreOf s (destCore f)).lateFlags ∧
      (tile (landChunk s t e f b off co bs) t).frmIn = (tile s t).frmIn := by
  set w := modCore s (destCore f) (landed b ((lbGet (coreOf s (destCore f)) b).base + off) bs)
  have hland : landChunk s t e f b off co bs = chunkLanded w t e f co bs := by
    simp only [landChunk, hfit, Bool.false_eq_true, if_false, landAt_landed hfit]
    rfl
  have hqueue : injQ w t 2 = injQ s t 2 := injQ_congr (by rw [tile_modCore]) 2
  have hchecks : ChecksOnly t w (chunkLanded w t e f co bs) := chunkLanded_checks (hqueue ▸ h)
  rw [hland]
  refine ⟨landedAt_of_cores hchecks.cores, ?_, hchecks.frmIn⟩
  rw [coreOf_congr hchecks.cores, core_modCore_same]
  rfl

end Chunk

-- Results -------------------------------------------------------------------------------------------------------------

/-- The element index at which a result frame lands in its member's buffer, in bytes (11 R293). -/
def downOff (e : Course) (r : Nat) (p : CollPost) (f : Frame) : Nat :=
  ((fSub f).eoff - firstElem e r p) * wireSize (fSub f).wire

/-- The bytes of a result frame. -/
def downBytes (f : Frame) : List Byte := (fData f).take ((fSub f).elems * wireSize (fSub f).wire)

/-- The flags of a result frame that wait for the gate of its buffer (10 R262). -/
def downFlags (f : Frame) : Nat × FFlags × BitVec 2 :=
  (argRlb (fArg f), BitVec.ofNat 6 ((fSub f).pflags % 32), if bitAt (fSub f).pflags 5 then mxWrap else 0)

/-- A result frame lands at its element index, and its flags wait (10 R262; 11 R293). -/
theorem landDown_lands {s : State} {t r : Nat} {e : Course} {f : Frame} {p : CollPost}
    (hp : postOf (coreOf s (destCore f)) f = some p) (hr : rankOf e (selfAt s t) = some r)
    (hfirst : firstElem e r p ≤ (fSub f).eoff) (h : ∀ x ∈ injQ s t 2, isMfReq (fType x.2) = false) :
    let lb := lbGet (coreOf s (destCore f)) (argRlb (fArg f))
    landRefused lb (lb.base + downOff e r p f) (downBytes f).length = false →
    landedAt s (landDown s t e f) (destCore f) (argRlb (fArg f)) (lb.base + downOff e r p f) (downBytes f) ∧
      (coreOf (landDown s t e f) (destCore f)).lateFlags = (coreOf s (destCore f)).lateFlags ++ [downFlags f] ∧
      (tile (landDown s t e f) t).frmIn = (tile s t).frmIn := by
  intro lb hfit
  obtain ⟨hland, hflags, hfrm⟩ := landChunk_lands (e := e) (co := downOff e r p f) hfit h
  have hdown : landDown s t e f =
      modCore (landChunk s t e f (argRlb (fArg f)) (downOff e r p f) (downOff e r p f) (downBytes f)) (destCore f)
        (fun k => { k with lateFlags := k.lateFlags ++ [downFlags f] }) := by
    simp only [landDown, hp, hr, Nat.not_lt.mpr hfirst, if_false]
    rfl
  rw [hdown]
  exact ⟨landedAt_modCore (fun _ => rfl) (fun _ => rfl) hland, by rw [core_modCore_same, hflags], hfrm⟩

-- Pieces --------------------------------------------------------------------------------------------------------------

/-- Where a piece lands does not change as its frame is taken. -/
theorem TakenAt.pieceAt {t : Nat} {f : Frame} {s u : State} (h : TakenAt t f s u) (e : Course) : pieceAt u t e f = pieceAt s t e f := by
  obtain ⟨hcores, -, hself, rows, a, htile⟩ := h
  simp only [Machine.pieceAt, hself, coreOf_congr hcores, htile, xchRow]

/-- A piece frame lands at its offset (11 R294). -/
theorem landPiece_lands {s : State} {t b off : Nat} {e : Course} {f : Frame} (hp : pieceAt s t e f = some (b, off))
    (h : ∀ x ∈ injQ s t 2, isMfReq (fType x.2) = false) :
    let lb := lbGet (coreOf s (destCore f)) b
    let bs := (fData f).take (fSub f).elems
    landRefused lb (lb.base + off) bs.length = false →
    landedAt s (landPiece s t e f) (destCore f) b (lb.base + off) bs ∧ (tile (landPiece s t e f) t).frmIn = (tile s t).frmIn := by
  intro lb bs hfit
  obtain ⟨hland, -, hfrm⟩ := landChunk_lands (e := e) (co := (fSub f).eoff) hfit h
  have hpiece : landPiece s t e f = landChunk s t e f b off (fSub f).eoff bs := by simp only [landPiece, hp]; rfl
  rw [hpiece]
  exact ⟨hland, hfrm⟩

-- Counts --------------------------------------------------------------------------------------------------------------

/-- An exchange with the count of the sender of frame `f` (11 R294). -/
def counted (x : XchRecv) (f : Frame) : XchRecv :=
  { x with counts := x.counts.set (fSub f).lo (some (fieldLE (fData f) 0 4)), srcs := x.srcs ++ [((fSub f).lo, fSrc f)] }

/-- A count that is not the last leaves another open. -/
theorem counted_open {x : XchRecv} {f : Frame} {q : Nat} (hne : (fSub f).lo ≠ q) (hq : x.counts[q]? = some none) :
    (counted x f).counts.all (·.isSome) = false := by
  have hnone : (counted x f).counts[q]? = some none := (List.getElem?_set_ne hne).trans hq
  exact List.all_eq_false.mpr ⟨none, List.mem_of_getElem? hnone, by simp⟩

/-- The tile with an exchange in the place of the one of its core, entry and ordinal. -/
def putXch (x : XchRecv) (y : Tile) : Tile :=
  { y with xrecv := y.xrecv.filter (fun z => !(z.lc = x.lc && z.ct = x.ct && z.seq = x.seq)) ++ [x] }

/-- A buffer that takes counts is complete at a number yet to be known (11 R294). -/
def countRule (s : State) (c b : Nat) : State :=
  match (lbGet (coreOf s c) b).rule with
  | .plain => setRule s c b (.counted none)
  | .counted _ => s

theorem landAt_countRule {s : State} {c b a : Nat} {bs : List Byte} (h : landRefused (lbGet (coreOf s c) b) a bs.length = false) :
    let u := landAt (countRule s c b) c b a bs
    CoresOnly s u ∧ landedAt s u c b a bs ∧ (lbGet (coreOf u c) b).rule ≠ .plain := by
  intro u
  cases hr : (lbGet (coreOf s c) b).rule with
  | plain =>
    have hu : u = landAt (setRule s c b (.counted none)) c b a bs := by simp only [u, countRule, hr]
    obtain ⟨honly, hland, hrule⟩ := landAt_setRule (.counted none) h
    rw [hu]
    exact ⟨honly, hland, by rw [hrule]; exact nofun⟩
  | counted n =>
    have hu : u = modCore s c (landed b a bs) := by simp only [u, countRule, hr, landAt_landed h]
    refine ⟨by rw [hu]; rfl, landedAt_of_cores (by rw [hu]), ?_⟩
    rw [hu, core_modCore_same, lbGet_landed, hr]
    exact nofun

theorem base_countRule (s : State) (c b : Nat) : (lbGet (coreOf (countRule s c b) c) b).base = (lbGet (coreOf s c) b).base := by
  unfold countRule
  split
  · rw [setRule, core_modCore_same, lbGet_lbSet, if_pos rfl]
  · rfl

/-- A count lands at its sender's rank (11 R294). -/
theorem landCountFrame_lands {s : State} {t b q : Nat} {e : Course} {f : Frame} {x : XchRecv}
    (hbuf : countBuf (coreOf s (destCore f)) f = some b) (hrow : xchRow (tile s t) f = some x) (hne : (fSub f).lo ≠ q)
    (hlo : x.counts[(fSub f).lo]? = some none) (hq : x.counts[q]? = some none) :
    let a := (lbGet (coreOf s (destCore f)) b).base + 4 * (fSub f).lo
    let v := landCountFrame s t e f
    landRefused (lbGet (coreOf s (destCore f)) b) a 4 = false →
    landedAt s v (destCore f) b a (bytesLE 4 (fieldLE (fData f) 0 4)) ∧ counted x f ∈ (tile v t).xrecv ∧
      (tile v t).frmIn = (tile s t).frmIn ∧ (lbGet (coreOf v (destCore f)) b).rule ≠ .plain := by
  intro a v hfit
  let w := modTile s t (putXch (counted x f))
  have hv : v = landAt (countRule w (destCore f) b) (destCore f) b a (bytesLE 4 (fieldLE (fData f) 0 4)) := by
    have hopen := counted_open (f := f) hne hq
    have hbase : a = (lbGet (coreOf (countRule w (destCore f) b) (destCore f)) b).base + 4 * (fSub f).lo := by
      rw [base_countRule]
      rfl
    rw [hbase]
    simp only [v, landCountFrame, hbuf, hrow, hlo, Option.getD_some, ne_eq, not_true_eq_false, if_false]
    simp only [counted] at hopen
    rw [hopen, if_neg (by decide)]
    rfl
  obtain ⟨honly, hland, hrule⟩ := landAt_countRule (s := w) (bs := bytesLE 4 (fieldLE (fData f) 0 4))
    (by rw [bytesLE_length]; exact hfit)
  rw [← hv] at honly hland hrule
  have htile : tile v t = putXch (counted x f) (tile s t) := (tile_congr honly.tiles t).trans (tile_modTile_same ..)
  refine ⟨landedAt_congr rfl hland, ?_, by rw [htile]; rfl, hrule⟩
  rw [htile]
  exact List.mem_append_right _ (List.mem_singleton_self _)

-- Bases ---------------------------------------------------------------------------------------------------------------

/-- Whether kept bytes are those a base releases: of the same core, course entry, ordinal and rank (11 R294, R295). -/
def isOwed (f : Frame) (y : XchSend) : Bool :=
  y.lc = lcOf (destCore f) && y.ct = argCt (fArg f) && y.seq = (fSub f).seq && y.rank = (fSub f).lo

/-- A base releases what is owed to its sender; one that refuses it sends nothing (11 R294, R295). -/
theorem takeBase_releases {s : State} {t r : Nat} {e : Course} {f : Frame} {x : XchSend}
    (hx : (tile s t).xsend.find? (isOwed f) = some x) (hr : rankOf e (selfAt s t) = some r)
    (h : ∀ x ∈ injQ s t 2, isMfReq (fType x.2) = false) :
    let v := takeBase s t e f
    v.cores = s.cores ∧ (tile v t).frmIn = (tile s t).frmIn ∧
      (tile v t).xsend = (tile s t).xsend.filter (fun y => !isOwed f y) ∧
      (bitAt (fieldLE (fData f) 0 8) 32 = true → v.bridges = s.bridges) := by
  obtain ⟨v, hv⟩ : ∃ v, v = takeBase s t e f := ⟨_, rfl⟩
  rw [← hv]
  unfold takeBase at hv
  extract_lets c u mine w a goal at hv
  have hmine : mine = isOwed f := rfl
  simp only [hmine, hx, hr] at hv
  have hw : tile w t = { tile s t with xsend := (tile s t).xsend.filter (fun z => !isOwed f z) } := tile_modTile_same ..
  split at hv
  · rw [hv]
    exact ⟨rfl, by rw [hw], by rw [hw], fun _ => rfl⟩
  · next hbit =>
    obtain ⟨hcores, q, htile⟩ : SendsOnly t w v := by
      rw [hv]
      refine agentSends_sendsOnly (by decide) ?_ fun g hg => ?_
      · rw [injQ_congr (s := s) (by rw [hw])]
        exact h
      · rw [fType_of_mem_legFrames hg]
        rfl
    exact ⟨hcores, by rw [htile, hw], by rw [htile, hw], fun hset => absurd hset hbit⟩

end Sys2Proof.Machine
end

section
/-! SUPPORT. A frame's turn at a Saddle engine: what taking it and bringing staging up to date leave, and the frames the engine sends
(07 R203, R204; 08 R220; 10 R252, R257, R272). -/
namespace Sys2Proof.Machine
open Sys2Proof.Safety Sys2Proof.Claims

-- Engines and registers -----------------------------------------------------------------------------------------------

theorem bridge_modEng_same (s : State) (d : Nat) (g : Engine → Engine) :
    bridge (modEng s d g) d = { bridge s d with eng := g (bridge s d).eng } := bridge_modBridge_same ..

theorem bridge_sadCount (s : State) (d n b : Nat) : bridge (sadCount s d n) b = bridge s b := bridge_regCount ..

/-- The coordinates a Bridge has depend on one word (07 R182). -/
theorem selfAt_bridge {s u : State} {d : Nat} (hd : isBridge d = true) (h : regWord u (dcs d 0) = regWord s (dcs d 0)) :
    selfAt u d = selfAt s d := by
  obtain ⟨h64, h100⟩ := bounds_of_isBridge hd
  simp only [selfAt, if_neg (Nat.not_lt.mpr h64), if_pos h100, regBits_of_word h _ (show 3 < 32 by decide),
    regBits_of_word h _ (show 7 < 32 by decide)]

/-- So does its epoch (08 R233). -/
theorem epochOf_bridge {s u : State} {d : Nat} (hd : isBridge d = true) (h : regWord u (dcs d 0x120) = regWord s (dcs d 0x120)) :
    epochOf u d = epochOf s d := by
  obtain ⟨h64, h100⟩ := bounds_of_isBridge hd
  simp only [epochOf, if_neg (Nat.not_lt.mpr h64), if_pos h100, regBits_of_word h _ (show 7 < 32 by decide)]

/-- A register of a die from offset `lo` on is none of the words below that offset or of the dies above. -/
theorem outside_die {a d lo o n : Nat} (hlo : lo ≤ o) (h : o + n ≤ 2 ^ 24) (ha : a < dcs d lo ∨ dcs (d + 1) 0 ≤ a) :
    a < dcs d o ∨ dcs d o + n ≤ a := by
  refine ha.imp (·.trans_le (Nat.add_le_add_left hlo _)) fun hend => le_trans ?_ hend
  calc dcs d o + n = d * 2 ^ 24 + (o + n) := Nat.add_assoc ..
    _ ≤ d * 2 ^ 24 + 2 ^ 24 := Nat.add_le_add_left h _
    _ = dcs (d + 1) 0 := by rw [dcs, Nat.add_zero, Nat.add_one_mul]

-- Staging -------------------------------------------------------------------------------------------------------------

/-- `u` is `s` but for registers of Bridge `d`, Bridges, and requests to slivers; receive space, input and partials of Bridge `d` are
as before. -/
structure StagesOnly (d : Nat) (s u : State) : Prop where
  rest : u = { s with regs := u.regs, bridges := u.bridges, tiles := u.tiles }
  word : ∀ a, a < dcs d 0 ∨ dcs (d + 1) 0 ≤ a → regWord u a = regWord s a
  recv : (bridge u d).recv = (bridge s d).recv
  inq : (bridge u d).eng.inq = (bridge s d).eng.inq
  held : (bridge u d).eng.held = (bridge s d).eng.held

namespace StagesOnly
variable {d : Nat} {s u v : State}

theorem refl (s : State) : StagesOnly d s s := ⟨rfl, fun _ _ => rfl, rfl, rfl, rfl⟩
theorem trans (h : StagesOnly d s u) (h' : StagesOnly d u v) : StagesOnly d s v where
  rest := by rw [h'.rest, h.rest]
  word a ha := (h'.word a ha).trans (h.word a ha)
  recv := h'.recv.trans h.recv
  inq := h'.inq.trans h.inq
  held := h'.held.trans h.held
theorem ite {c : Prop} [Decidable c] (h : StagesOnly d s u) (h' : StagesOnly d s v) : StagesOnly d s (if c then u else v) := by
  split <;> assumption
theorem foldl {α : Type} {f : State → α → State} (h : ∀ a x, StagesOnly d a (f a x)) (l : List α) (s : State) :
    StagesOnly d s (l.foldl f s) :=
  foldl_keeps refl (fun _ _ _ => trans) h l s

theorem regPutNat (s : State) {o n : Nat} (v : Nat) (h : o + 4 * n ≤ 2 ^ 24) : StagesOnly d s (regPutNat s (dcs d o) v n) where
  rest := by rw [regPutNat_frame]
  word a ha := regWord_regPutNat_out _ _ _ _ _ (outside_die (Nat.zero_le _) h ha)
  recv := congrArg Bridge.recv (bridge_congr (regPutNat_bridges ..) d)
  inq := congrArg (·.eng.inq) (bridge_congr (regPutNat_bridges ..) d)
  held := congrArg (·.eng.held) (bridge_congr (regPutNat_bridges ..) d)
theorem regSetBits (s : State) {o hi : Nat} (lo x : Nat) (h : o + 4 * (hi / 32 + 1) ≤ 2 ^ 24) :
    StagesOnly d s (regSetBits s (dcs d o) hi lo x) := regPutNat s _ h
theorem sadCount (s : State) {n : Nat} (h : n < 8) : StagesOnly d s (sadCount s d n) := regPutNat s _ (by omega)

theorem modBridge (s : State) {g : Bridge → Bridge} (hr : ∀ b, (g b).recv = b.recv) (hi : ∀ b, (g b).eng.inq = b.eng.inq)
    (hh : ∀ b, (g b).eng.held = b.eng.held) : StagesOnly d s (modBridge s d g) where
  rest := rfl
  word _ _ := by rw [regWord, regWord, modBridge_regs]
  recv := by rw [bridge_modBridge_same, hr]
  inq := by rw [bridge_modBridge_same, hi]
  held := by rw [bridge_modBridge_same, hh]
theorem modEng (s : State) {g : Engine → Engine} (hi : ∀ e, (g e).inq = e.inq) (hh : ∀ e, (g e).held = e.held) :
    StagesOnly d s (modEng s d g) := modBridge s (fun _ => rfl) (fun b => hi b.eng) fun b => hh b.eng
theorem pushSvc (s : State) (a : Nat) (op : SvcOp) (src : SvcFrom) : StagesOnly d s (pushSvc s a op src) :=
  ⟨rfl, fun _ _ => rfl, rfl, rfl, rfl⟩
theorem setLines (s : State) (ls : List Nat) : StagesOnly d s (setLines s d ls) :=
  (modBridge s (g := fun b => { b with lines := ls }) (fun _ => rfl) (fun _ => rfl) fun _ => rfl).trans
    (regSetBits _ _ _ (by decide))

theorem cores (h : StagesOnly d s u) : u.cores = s.cores := by rw [h.rest]
theorem dram (h : StagesOnly d s u) : u.dram = s.dram := by rw [h.rest]
theorem stepCodes (h : StagesOnly d s u) : u.stepCodes = s.stepCodes := by rw [h.rest]
theorem tokGot (h : StagesOnly d s u) : u.tokGot = s.tokGot := by rw [h.rest]

end StagesOnly

section Restage
variable (d : Nat)

theorem spillWriteLines_stages (s : State) (f : Frame) (ls : List Nat) : StagesOnly d s (spillWriteLines s d f ls) :=
  .foldl (fun _ _ => .pushSvc ..) _ s

theorem findPlace_stages (s : State) (slot : Option Nat) (f : Frame) : StagesOnly d s (findPlace s d slot f).1 := by
  unfold findPlace
  simp only
  split
  · exact .refl s
  · split
    · exact .refl s
    · split
      · exact ((StagesOnly.setLines ..).trans (.sadCount _ (by decide))).trans (spillWriteLines_stages ..)
      · exact .refl s

theorem stageFrame_stages (slot : Frame → Option Nat) (s : State) (f : Frame) : StagesOnly d s (stageFrame slot d s f) :=
  (findPlace_stages d s (slot f) f).trans
    (.modEng _ (g := fun g => { g with places := g.places ++ [(f, (findPlace s d (slot f) f).2)] }) (fun _ => rfl) fun _ => rfl)

theorem keepPlaces_stages (s : State) (keep : Frame → Bool) : StagesOnly d s (keepPlaces s d keep) :=
  (StagesOnly.ite (.refl s) (.setLines ..)).trans
    (.modEng _ (g := fun g => { g with places := g.places.filter (fun x => keep x.1) }) (fun _ => rfl) fun _ => rfl)

/-- Bringing staging up to date leaves what the engine holds and what waits at its Bridge (10 R272). -/
theorem restage_stages (s : State) (slot : Frame → Option Nat) : StagesOnly d s (restage s d slot) := by
  unfold restage
  extract_lets fs u had v ps a pages
  have hu : StagesOnly d s u := keepPlaces_stages ..
  have hv : StagesOnly d u v := .foldl (fun _ _ => stageFrame_stages ..) _ u
  have hstat (w : State) {hi : Nat} (lo x : Nat) (h : hi < 64) : StagesOnly d w (regSetBits w a hi lo x) :=
    .regSetBits w _ _ (by omega)
  exact (hu.trans hv).trans (((hstat v _ _ (by decide)).trans (hstat _ _ _ (by decide))).trans (hstat _ _ _ (by decide)))

end Restage

-- A frame's turn ------------------------------------------------------------------------------------------------------

/-- `u` is `s` once the engine of Bridge `d` has taken frame `f` off its input: its stream table and its counters may differ. -/
structure EngineTakes (d : Nat) (f : Frame) (s u : State) : Prop where
  only : BridgesOnly s u
  word : ∀ a, a < dcs d 0x100000 ∨ dcs (d + 1) 0 ≤ a → regWord u a = regWord s a
  recv : (bridge u d).recv = (bridge s d).recv
  eng : ∃ rows, (bridge u d).eng = { (bridge s d).eng with inq := (bridge s d).eng.inq.erase f, streams := rows }

namespace EngineTakes
variable {d : Nat} {f : Frame} {s u : State}

theorem selfAt (h : EngineTakes d f s u) (hd : isBridge d = true) : selfAt u d = selfAt s d :=
  selfAt_bridge hd (h.word _ (.inl (by unfold dcs; omega)))
theorem epochOf (h : EngineTakes d f s u) (hd : isBridge d = true) : epochOf u d = epochOf s d :=
  epochOf_bridge hd (h.word _ (.inl (by unfold dcs; omega)))
theorem errs (h : EngineTakes d f s u) : u.errs = s.errs := by rw [h.only]
theorem cores (h : EngineTakes d f s u) : u.cores = s.cores := by rw [h.only]
theorem dram (h : EngineTakes d f s u) : u.dram = s.dram := by rw [h.only]
theorem inq (h : EngineTakes d f s u) : (bridge u d).eng.inq = (bridge s d).eng.inq.erase f := by
  obtain ⟨_, h⟩ := h.eng
  rw [h]
theorem held (h : EngineTakes d f s u) : (bridge u d).eng.held = (bridge s d).eng.held := by
  obtain ⟨_, h⟩ := h.eng
  rw [h]

end EngineTakes

theorem courseRead_sound {s : State} (h : s.errs = Errs.none) (die n : Nat) : courseRead s die n = s := by
  simp [courseRead, tableRead, h, Errs.none]

/-- The one frame of a stream, its last: delivered at once (07 R203). -/
theorem streamStep_only {rows : List StreamRow} {f : Frame} (h : rows.find? (isRow f) = none) (hn : fScount f = 1) :
    ∃ rows', streamStep rows f = (rows', [f], false) := by
  simp [streamStep, h, hn]

section Turn
variable {s : State} {d ty : Nat} {f : Frame} {e : Course}

/-- A frame whose turn it is and that is delivered alone: the engine takes it, delivers it, and brings staging up to date (10 R257,
R272; 11 R285). -/
theorem engineFrm_delivers (h : engineTurn s d ty f e) (hrows : ∃ rows, streamStep (bridge s d).eng.streams f = (rows, [f], false)) :
    ∃ u slot, EngineTakes d f s u ∧ engineFrm ty d s = restage (engineDeliver d e u f) d slot := by
  obtain ⟨-, -, herr, hhead, hty, hcourse, hroom, -⟩ := h
  obtain ⟨rows, hrows⟩ := hrows
  let s₀ := if ty = 0x10 then sadCount s d 0 else s
  have hbridge : bridge s₀ d = bridge s d := by
    unfold s₀
    split
    · exact bridge_sadCount ..
    · rfl
  let u := modEng (modEng s₀ d (fun g => { g with inq := g.inq.erase f })) d (fun g => { g with streams := rows })
  have hu : bridge u d = { bridge s d with
      eng := { (bridge s d).eng with inq := (bridge s d).eng.inq.erase f, streams := rows } } := by
    rw [bridge_modEng_same, bridge_modEng_same, hbridge]
  have honly : BridgesOnly s s₀ := by
    unfold s₀
    split
    · exact .regCount ..
    · rfl
  have hword : ∀ a, a < dcs d 0x100000 ∨ dcs (d + 1) 0 ≤ a → regWord s₀ a = regWord s a := fun a ha => by
    unfold s₀
    split
    · exact regWord_regPutNat_out _ _ _ _ _ (outside_die (by decide) (by decide) ha)
    · rfl
  refine ⟨u, fun g => if sameStage g f then some (entryOf (bridge s d).eng.streams f) else none,
    ⟨honly.trans rfl, hword, by rw [hu], rows, by rw [hu]⟩, ?_⟩
  simp only [engineFrm, hhead, Option.filter, hty, decide_true, if_true, courseRead_sound herr, hcourse, hroom, Bool.not_true,
    Bool.false_eq_true, if_false]
  rw [show (if ty = 0x10 then sadCount s d 0 else s) = s₀ from rfl, hbridge, hrows]
  rfl

/-- The engine's command is its frame's turn (10 R252). -/
theorem engineCmd_takes (h : engineTurn s d ty f e) : engineCmd ty d s = .next (engineFrm ty d s) := by
  obtain ⟨hw, hc, -⟩ := h
  exact (bridgeCmd_works hw).trans (by rw [if_pos hc])

theorem collCmd_takes (h : engineTurn s d ty f e) : collCmd ty d s = .next (engineFrm ty d s) := by
  have hd := (bounds_of_isBridge h.1.bridge).1
  exact (if_neg (Nat.not_lt.mpr hd)).trans (engineCmd_takes h)

end Turn

-- Frames out ----------------------------------------------------------------------------------------------------------

theorem bridge_arriveWith (s : State) (d : Nat) (via buf : Option Nat) (f : Frame) :
    bridge (arriveWith s d .localPort via buf f) d = { bridge s d with
      recv := (bridge s d).recv ++ [rxOf s d via buf f], arrivals := (bridge s d).arrivals + 1 } := by
  rw [arriveWith_local]
  exact bridge_setBridge_same ..

/-- The frames an engine sends stand last in the receive space of its Bridge, in their order (08 R220). -/
theorem engineSends_recv (s : State) (d : Nat) (fs : List Frame) :
    ∃ es, (bridge (engineSends s d fs) d).recv = (bridge s d).recv ++ es ∧ es.map (·.frame) = fs ∧
      (∀ x ∈ es, x.port = .localPort) ∧ (bridge (engineSends s d fs) d).eng = (bridge s d).eng ∧
      BridgesOnly s (engineSends s d fs) := by
  induction fs generalizing s with
  | nil => exact ⟨[], (List.append_nil _).symm, rfl, fun _ h => absurd h List.not_mem_nil, rfl, rfl⟩
  | cons f fs ih =>
    obtain ⟨es, hrecv, hframe, hport, heng, honly⟩ := ih (inject s d f)
    have hbridge : bridge (inject s d f) d = _ := bridge_arriveWith s d none none f
    have hin : BridgesOnly s (inject s d f) := arriveWith_local s d none none f
    refine ⟨rxOf s d none none f :: es, ?_, congrArg (f :: ·) hframe, ?_, ?_, hin.trans honly⟩
    · exact hrecv.trans (by rw [hbridge, List.append_assoc]; rfl)
    · exact List.forall_mem_cons.mpr ⟨rfl, hport⟩
    · exact heng.trans (by rw [hbridge])

end Sys2Proof.Machine
end

section
/-! SUPPORT. The collective frames of O31: those that tiles take, and the copies of row multicasts that corner engines send on (11 R285,
R288, R291, R293, R294). -/
namespace Sys2Proof.Machine
open Sys2Proof.Safety Sys2Proof.Claims

-- Tiles ---------------------------------------------------------------------------------------------------------------

namespace TakenAt
variable {t ty : Nat} {f : Frame} {e : Course} {s u : State}

theorem core (h : TakenAt t f s u) (c : Nat) : coreOf u c = coreOf s c := coreOf_congr h.cores c
theorem frmIn (h : TakenAt t f s u) : (Machine.tile u t).frmIn = (Machine.tile s t).frmIn.erase f := by
  obtain ⟨_, _, h⟩ := h.tile
  rw [h]
theorem xrecv (h : TakenAt t f s u) : (Machine.tile u t).xrecv = (Machine.tile s t).xrecv := by
  obtain ⟨_, _, h⟩ := h.tile
  rw [h]
theorem xsend (h : TakenAt t f s u) : (Machine.tile u t).xsend = (Machine.tile s t).xsend := by
  obtain ⟨_, _, h⟩ := h.tile
  rw [h]

/-- The agent holds back no memory request in the class of collective frames. -/
theorem queue (h : TakenAt t f s u) (hn : deliversNow s t ty f e) : ∀ x ∈ injQ u t 2, isMfReq (fType x.2) = false := by
  obtain ⟨-, -, -, -, -, -, -, -, hq⟩ := hn
  obtain ⟨_, _, htile⟩ := h.tile
  rw [injQ_congr (s := s) (by rw [htile])]
  exact hq

end TakenAt

theorem type_of_deliversNow {s : State} {t ty : Nat} {f : Frame} {e : Course} (h : deliversNow s t ty f e) : fType f = ty := by
  obtain ⟨-, hhead, -⟩ := h
  exact fType_of_frmHead hhead

section Tile
variable {s : State} {t : Nat} {f : Frame} {e : Course}

/-- SDOWN of the present step (10 R254, R262; 11 R293). -/
theorem sdown_lands {p : CollPost} {r : Nat} (ht : t < 64) (hc : clocksRun s = true) (hnow : deliversNow s t 0x11 f e)
    (hp : postOf (coreOf s (destCore f)) f = some p) (hr : rankOf e (selfAt s t) = some r) (hfirst : firstElem e r p ≤ (fSub f).eoff)
    (hfit : landRefused (lbGet (coreOf s (destCore f)) (argRlb (fArg f)))
      ((lbGet (coreOf s (destCore f)) (argRlb (fArg f))).base + downOff e r p f) (downBytes f).length = false) :
    ∃ v, exec (.sdown t) s = .next v ∧ (tile v t).frmIn = (tile s t).frmIn.erase f ∧
      landedAt s v (destCore f) (argRlb (fArg f)) ((lbGet (coreOf s (destCore f)) (argRlb (fArg f))).base + downOff e r p f)
        (downBytes f) ∧
      (coreOf v (destCore f)).lateFlags = (coreOf s (destCore f)).lateFlags ++ [downFlags f] := by
  obtain ⟨u, hu, hrun⟩ := collFrm_delivers ht hnow
  obtain ⟨hexec, -⟩ := exec_collFrm (s := s) ht hc
  have hdown : collDeliver u t e f = landDown u t e f := by simp only [collDeliver, type_of_deliversNow hnow]
  rw [← hu.core] at hp hfit ⊢
  rw [← hu.self] at hr
  obtain ⟨hland, hflags, hfrm⟩ := landDown_lands hp hr hfirst (hu.queue hnow) hfit
  exact ⟨_, hexec.trans (by rw [hrun, hdown]), hfrm.trans hu.frmIn, landedAt_congr hu.cores hland, hflags⟩

/-- CPIECE of the present step (11 R294). -/
theorem cpiece_lands {b off : Nat} (ht : t < 64) (hc : clocksRun s = true) (hnow : deliversNow s t 0x12 f e)
    (hp : pieceAt s t e f = some (b, off))
    (hfit : landRefused (lbGet (coreOf s (destCore f)) b) ((lbGet (coreOf s (destCore f)) b).base + off)
      ((fData f).take (fSub f).elems).length = false) :
    ∃ v, exec (.cpiece t) s = .next v ∧ (tile v t).frmIn = (tile s t).frmIn.erase f ∧
      landedAt s v (destCore f) b ((lbGet (coreOf s (destCore f)) b).base + off) ((fData f).take (fSub f).elems) := by
  obtain ⟨u, hu, hrun⟩ := collFrm_delivers ht hnow
  obtain ⟨-, hexec, -⟩ := exec_collFrm (s := s) ht hc
  have hpiece : collDeliver u t e f = landPiece u t e f := by simp only [collDeliver, type_of_deliversNow hnow]
  rw [← hu.core] at hfit ⊢
  rw [← hu.pieceAt] at hp
  obtain ⟨hland, hfrm⟩ := landPiece_lands hp (hu.queue hnow) hfit
  exact ⟨_, hexec.trans (by rw [hrun, hpiece]), hfrm.trans hu.frmIn, landedAt_congr hu.cores hland⟩

/-- CCOUNT of the present step, while another count is open (11 R294). -/
theorem ccount_lands {b q : Nat} {x : XchRecv} (ht : t < 64) (hc : clocksRun s = true) (hnow : deliversNow s t 0x13 f e)
    (hbuf : countBuf (coreOf s (destCore f)) f = some b) (hrow : xchRow (tile s t) f = some x) (hne : (fSub f).lo ≠ q)
    (hlo : x.counts[(fSub f).lo]? = some none) (hq : x.counts[q]? = some none)
    (hfit : landRefused (lbGet (coreOf s (destCore f)) b) ((lbGet (coreOf s (destCore f)) b).base + 4 * (fSub f).lo) 4 = false) :
    ∃ v, exec (.ccount t) s = .next v ∧ (tile v t).frmIn = (tile s t).frmIn.erase f ∧
      landedAt s v (destCore f) b ((lbGet (coreOf s (destCore f)) b).base + 4 * (fSub f).lo)
        (bytesLE 4 (fieldLE (fData f) 0 4)) ∧
      counted x f ∈ (tile v t).xrecv ∧ (lbGet (coreOf v (destCore f)) b).rule ≠ .plain := by
  obtain ⟨u, hu, hrun⟩ := collFrm_delivers ht hnow
  obtain ⟨-, -, hexec, -⟩ := exec_collFrm (s := s) ht hc
  have hcount : collDeliver u t e f = landCountFrame u t e f := by simp only [collDeliver, type_of_deliversNow hnow]
  have hrow' : xchRow (tile u t) f = some x := by rw [xchRow, hu.xrecv]; exact hrow
  rw [← hu.core] at hbuf hfit ⊢
  obtain ⟨hland, hmem, hfrm, hrule⟩ := landCountFrame_lands (e := e) hbuf hrow' hne hlo hq hfit
  exact ⟨_, hexec.trans (by rw [hrun, hcount]), hfrm.trans hu.frmIn, landedAt_congr hu.cores hland, hmem, hrule⟩

/-- CBASE of the present step (11 R294, R295). -/
theorem cbase_releases {x : XchSend} {r : Nat} (ht : t < 64) (hc : clocksRun s = true) (hnow : deliversNow s t 0x14 f e)
    (hr : rankOf e (selfAt s t) = some r) (hx : (tile s t).xsend.find? (isOwed f) = some x) :
    ∃ v, exec (.cbase t) s = .next v ∧ (tile v t).frmIn = (tile s t).frmIn.erase f ∧
      (tile v t).xsend = (tile s t).xsend.filter (fun y => !isOwed f y) ∧ v.cores = s.cores ∧
      (bitAt (fieldLE (fData f) 0 8) 32 = true → v.bridges = s.bridges) := by
  obtain ⟨u, hu, hrun⟩ := collFrm_delivers ht hnow
  obtain ⟨-, -, -, hexec⟩ := exec_collFrm (s := s) ht hc
  have hbase : collDeliver u t e f = takeBase u t e f := by simp only [collDeliver, type_of_deliversNow hnow]
  rw [← hu.self] at hr
  rw [← hu.xsend] at hx ⊢
  obtain ⟨hcores, hfrm, hsend, hbridges⟩ := takeBase_releases hx hr (hu.queue hnow)
  exact ⟨_, hexec.trans (by rw [hrun, hbase]), hfrm.trans hu.frmIn, hsend, hcores.trans hu.cores,
    fun hbit => (hbridges hbit).trans hu.bridges⟩

end Tile

-- Corner engines ------------------------------------------------------------------------------------------------------

section Relay
variable {s u : State} {d ty : Nat} {f : Frame} {e : Course}

/-- The downward frames of instances, but for tokens and poison, are relayed; a base of a kept piece is none of them (11 R291, R292). -/
theorem engineDeliver_relays (hty : fType f ∈ [0x11, 0x12, 0x13, 0x14]) (hhop : fHop f = 2) (hkept : keptFor u d f = none) :
    engineDeliver d e u f = relayDown u d e f := by
  simp only [List.mem_cons, List.not_mem_nil, or_false] at hty
  unfold engineDeliver
  rcases hty with h | h | h | h <;> simp only [h, hhop, hkept, if_true]

theorem reframe_congr (h : epochOf u d = epochOf s d) : reframe u d f = reframe s d f :=
  funext fun l => by simp only [reframe, h]

theorem EngineTakes.keptFor (h : EngineTakes d f s u) : keptFor u d f = keptFor s d f := by
  obtain ⟨rows, heng⟩ := h.eng
  simp only [Machine.keptFor, heng]

/-- The copies of a row multicast on the legs along the column of Bridge `d` (11 R291). -/
def columnCopies (s : State) (d : Nat) (e : Course) (f : Frame) : List Frame :=
  (columnLegs (selfAt s d) e.members (downEnd e f)).map (reframe s d f)

theorem EngineTakes.columnCopies (h : EngineTakes d f s u) (hd : isBridge d = true) : columnCopies u d e f = columnCopies s d e f := by
  rw [Machine.columnCopies, Machine.columnCopies, h.selfAt hd, reframe_congr (h.epochOf hd)]

/-- The engine at the corner of a row sends one frame on each leg along its column (11 R291). -/
theorem relay_sends (hturn : engineTurn s d ty f e) (hty : ty ∈ [0x11, 0x12, 0x13, 0x14]) (hlast : fLast f = false)
    (hm : fMcast f = true) (hhop : fHop f = 2) (hkept : keptFor s d f = none) :
    ∃ t es, collCmd ty d s = .next t ∧ (bridge t d).recv = (bridge s d).recv ++ es ∧
      es.map (fun x => x.frame) = columnCopies s d e f ∧
      (∀ x ∈ es, x.port = .localPort) ∧ (bridge t d).eng.inq = (bridge s d).eng.inq.erase f ∧ t.cores = s.cores ∧
      t.dram = s.dram := by
  obtain ⟨hw, -, -, -, htype, -, -, hnew⟩ := id hturn
  obtain ⟨u, slot, hu, hrun⟩ := engineFrm_delivers hturn (streamStep_first hnew hlast)
  obtain ⟨es, hrecv, hframes, hport, heng, honly⟩ := engineSends_recv u d (columnCopies u d e f)
  have hrelay : engineDeliver d e u f = engineSends u d (columnCopies u d e f) :=
    (engineDeliver_relays (htype ▸ hty) hhop (hu.keptFor.trans hkept)).trans (if_pos hm)
  have hstage := restage_stages d (engineSends u d (columnCopies u d e f)) slot
  refine ⟨_, es, (collCmd_takes hturn).trans (by rw [hrun, hrelay]), ?_, ?_, hport, ?_, ?_, ?_⟩
  · rw [hstage.recv, hrecv, hu.recv]
  · rw [hframes, hu.columnCopies hw.bridge]
  · rw [hstage.inq, heng, hu.inq]
  · rw [hstage.cores, honly, hu.cores]
  · rw [hstage.dram, honly, hu.dram]

end Relay

/-- Settles O31: at a tile each type of frame lands, or waits; at a corner engine every type is relayed. -/
theorem collectiveFramesLandAndRelay : Obligations.CollectiveFramesLandAndRelay := by
  refine ⟨fun s t f e ht hc => ?_, fun s d f e => ?_⟩
  · intro c u
    refine ⟨fun p r hnow hp hr hfirst hfit => sdown_lands ht hc hnow hp hr hfirst hfit,
      fun b off hnow hp hfit => cpiece_lands ht hc hnow hp hfit,
      fun b q x hnow hbuf hrow hne hlo hq hfit => ccount_lands ht hc hnow hbuf hrow hne hlo hq hfit,
      fun x r hnow hr hx => cbase_releases ht hc hnow hr hx, ?waits⟩
    case waits =>
      obtain ⟨hdown, hpiece, hcount, hbase⟩ := exec_collFrm (s := s) ht hc
      simp only [List.forall_mem_cons, hdown, hpiece, hcount, hbase]
      refine ⟨fun hh hf hs hw => ?_, fun hh hf hs hw => ?_, fun hh hf hs hw => ?_, fun hh hf hs hw => ?_,
        fun _ h => absurd h List.not_mem_nil⟩
      all_goals rw [collFrm_waits ht hh hf hs hw]
  · simp only [List.forall_mem_cons]
    exact ⟨fun hturn hl hm hh hk => relay_sends hturn (by decide) hl hm hh hk,
      fun hturn hl hm hh hk => relay_sends hturn (by decide) hl hm hh hk,
      fun hturn hl hm hh hk => relay_sends hturn (by decide) hl hm hh hk,
      fun hturn hl hm hh hk => relay_sends hturn (by decide) hl hm hh hk, fun _ h => absurd h List.not_mem_nil⟩

end Sys2Proof.Machine
end

section
/-! SUPPORT. Partials at a Saddle engine: how one is taken in and held, and how two siblings combine or one is promoted (10 R255 to R257,
R260, R261, R263; 11 R302, R304, R305). -/
namespace Sys2Proof.Machine
open Sys2Proof.Safety Sys2Proof.Claims

-- Spans ---------------------------------------------------------------------------------------------------------------

/-- A span is not its own sibling (10 R255). -/
theorem sibLo_ne (lo log : Nat) : sibLo lo log ≠ lo := by
  have hpow := Nat.two_pow_pos log
  unfold sibLo
  split
  · omega
  · next hodd =>
    have hle : 2 ^ log ≤ lo := by
      by_contra hlt
      exact hodd (by rw [Nat.div_eq_of_lt (by omega)])
    omega

-- Held partials -------------------------------------------------------------------------------------------------------

section Held
variable {s : State} {d : Nat} {e : Course} {p : Partial}

theorem eng_holdPart (s : State) (d : Nat) (p : Partial) : (bridge (holdPart s d p) d).eng =
    { (bridge s d).eng with held := (bridge s d).eng.held ++ [p], done := (bridge s d).eng.done ++ [(p.key, p.lo, p.log)] } := by
  rw [holdPart, bridge_modEng_same]

theorem eng_dropPart (s : State) (d : Nat) (p : Partial) :
    (bridge (dropPart s d p) d).eng = { (bridge s d).eng with held := (bridge s d).eng.held.erase p } := by
  rw [dropPart, bridge_modEng_same]

/-- A held partial waits at the root module while its sibling is to come and none is held (10 R256). -/
theorem settlePart_waits (hlog : p.log < logP p.par.p) (hsib : sibLo p.lo p.log < p.par.p)
    (hroot : selfAt s d = rankAt e p.par.root)
    (hnone : ∀ q ∈ (bridge s d).eng.held, q.key = p.key → q.lo ≠ sibLo p.lo p.log) : settlePart s d e p = none := by
  have hfind : (bridge s d).eng.held.find? (fun q => q.key = p.key && q.log = p.log && q.lo = sibLo p.lo p.log) = none :=
    List.find?_eq_none.mpr fun q hq hmatch => by
      simp only [Bool.and_eq_true, decide_eq_true_eq] at hmatch
      exact hnone q hq hmatch.1.1 hmatch.2
  have hpass : ((List.range (2 ^ p.log)).all fun k =>
      decide (p.par.p ≤ sibLo p.lo p.log + k) || passes e (selfAt s d) (rankAt e p.par.root) (sibLo p.lo p.log + k)) = true := by
    simp [passes, hroot]
  simp only [settlePart, hlog, if_true, Nat.not_le.mpr hsib, if_false, hfind, hpass]

/-- A partial whose course has no other of its step here is held, at the root module (10 R256, R257). -/
theorem takePart_holds (htaken : spanTaken s d p.key p.lo p.log = false) (hother : ∀ q ∈ (bridge s d).eng.held, q.key ≠ p.key)
    (hlog : p.log < logP p.par.p) (hsib : sibLo p.lo p.log < p.par.p) (hroot : selfAt s d = rankAt e p.par.root) :
    takePart s d e p = holdPart s d p := by
  have hheld : (bridge (holdPart s d p) d).eng.held = (bridge s d).eng.held ++ [p] := by rw [eng_holdPart]
  have hself : selfAt (holdPart s d p) d = selfAt s d := by
    simp only [selfAt, regBits_congr (t := holdPart s d p) (modBridge_regs ..)]
  have hwait : settlePart (holdPart s d p) d e p = none := by
    refine settlePart_waits hlog hsib (hself.trans hroot) fun q hq hkey => ?_
    rw [hheld, List.mem_append, List.mem_singleton] at hq
    rcases hq with hq | rfl
    · exact absurd hkey (hother q hq)
    · exact fun hlo => sibLo_ne _ _ hlo.symm
  have hmine : (bridge (holdPart s d p) d).eng.held.filter (fun q => q.key = p.key) = [p] := by
    rw [hheld, List.filter_append, List.filter_eq_nil_iff.mpr fun q hq => by simpa using hother q hq]
    simp
  rw [takePart, htaken, if_neg (by decide), settle, hmine, settleFirst, hwait]
  rfl

end Held

-- Frames of partials --------------------------------------------------------------------------------------------------

theorem natLE_lt (bs : List Byte) : natLE bs < 256 ^ bs.length := by
  induction bs with
  | nil => exact Nat.one_pos
  | cons b bs ih =>
    have hb := b.isLt
    rw [natLE, List.length_cons, Nat.pow_succ]
    omega

theorem fieldLE_lt (bs : List Byte) (o n : Nat) : fieldLE bs o n < 256 ^ n :=
  (natLE_lt _).trans_le (Nat.pow_le_pow_right (by decide) (List.length_take_le ..))

/-- The key of a reduction is none of a token's (11 R305). -/
theorem chunk_frameKey_ne {f : Frame} (h : fType f ≠ 0x15) : (frameKey f).chunk ≠ tokenChunk := by
  have hlt : (fSub f).chunk < 256 ^ 2 := fieldLE_lt ..
  have hchunk : (frameKey f).chunk = (fSub f).chunk := if_neg h
  rw [hchunk, tokenChunk]
  omega

/-- The partial that one SPART frame carries (10 R254, R258). -/
def framePart (f : Frame) : Partial :=
  ⟨fSrc f, fArg f, frameKey f, frameParam (fSub f), (fSub f).lo, (fSub f).log, gatheredFlags [f], (fSub f).acc,
    elemsOf (if (fSub f).acc then 48 else wireSize (fSub f).wire) (fSub f).elems (fData f)⟩

/-- The partial a token frame stands for (11 R305). -/
def tokenPart (e : Course) (f : Frame) : Partial :=
  ⟨fSrc f, fArg f, frameKey f, ⟨(fSub f).cid, 5, false, 0, 0, (fSub f).p, e.root, 1⟩, (fSub f).lo, (fSub f).log, 0, false,
    [fieldLE (fData f) 0 4]⟩

section Plain
variable {s : State} {d : Nat} {e : Course} {f : Frame} {par : CollParam}

theorem reduceSlot_plain (h : par.prog = 0) : reduceSlot s d par = none := if_pos h

theorem recordSlot_plain (h : par.prog = 0) (fl : Nat) : recordSlot s d par fl = none := by
  rw [recordSlot, gatherSlot, if_pos h]

theorem progSub_plain (h : e.prog ≠ 16) : progSub s e f = fSub f := if_neg fun hc => h hc.2.1

theorem stagedFlags_sound (h : s.errs = Errs.none) (fs : List Frame) : stagedFlags s d fs = (s, gatheredFlags fs) := by
  simp [stagedFlags, sramRead, h, Errs.none]

/-- A frame that is a whole partial is gathered at once (07 R203). -/
theorem gatherFrame_whole (hg : (bridge s d).eng.gather = []) (hl : fLast f = true) :
    gatherFrame s d f = (modEng s d (fun g => { g with gather := [] }), some [f]) := by
  simp [gatherFrame, hg, hl, smInsert]

/-- A whole partial of a reduction without program is taken in as its frame has it (10 R256). -/
theorem spartDone_plain (he : s.errs = Errs.none) (hty : fType f ≠ 0x15) (hp : (fSub f).prog = 0) (hprog : e.prog ≠ 16) :
    spartDone s d e f [f] = takePart s d e (framePart f) := by
  have hslot : ∀ (x : State) (key : CollKey) (b : Bool), useSlot x d key 0 b = x := fun _ _ _ => if_pos rfl
  have htoken : ∀ q : Partial, q.key = frameKey f → isToken q = false := fun q hq => by
    simp [isToken, hq, chunk_frameKey_ne hty]
  have hsize : ∀ q : Partial, q.key = frameKey f → q.par = frameParam (fSub f) →
      partSize s d q = if q.acc then 48 else wireSize q.par.wire := fun q hkey hpar => by
    simp only [partSize, htoken q hkey, hpar, recordSlot_plain (par := frameParam (fSub f)) hp, Bool.false_eq_true, if_false]
  have hleaf : ∀ q : Partial, q.par = frameParam (fSub f) → applyLeaf s d q = q := fun q hpar => by
    simp only [applyLeaf, hpar, reduceSlot_plain (par := frameParam (fSub f)) hp, Option.filter]
  simp only [spartDone, List.headD_cons, progSub_plain hprog, stagedFlags_sound he, hp, frameParam, hslot]
  rw [hleaf _ (by simp only [frameParam, hp]), hsize _ rfl (by simp only [frameParam, hp])]
  simp only [List.flatMap_cons, List.flatMap_nil, List.append_nil, framePart, frameParam, hp]

/-- A whole partial of a span not taken in yet is taken in (10 R256, R257). -/
theorem takeSpart_whole (he : s.errs = Errs.none) (hty : fType f ≠ 0x15) (hl : fLast f = true) (hp : (fSub f).prog = 0)
    (hprog : e.prog ≠ 16) (hok : spanOk (fSub f).p (fSub f).lo (fSub f).log = true)
    (htaken : spanTaken s d (frameKey f) (fSub f).lo (fSub f).log = false) (hg : (bridge s d).eng.gather = []) :
    takeSpart s d e f = takePart (modEng s d (fun g => { g with gather := [] })) d e (framePart f) := by
  have hspan : spanGathered s d f = false := by simp [spanGathered, hg]
  have hmark : markSlot s d (argStep (fArg f)) (progSub s e f).prog = s := if_pos (.inl (by rw [progSub_plain hprog, hp]))
  have herr : (modEng s d (fun g => { g with gather := [] })).errs = Errs.none := he
  simp only [takeSpart, hok, htaken, hspan, hmark, gatherFrame_whole hg hl, Bool.not_true, Bool.or_self, Bool.false_eq_true, if_false]
  exact spartDone_plain herr hty hp hprog

end Plain

-- A frame's partial, held ---------------------------------------------------------------------------------------------

/-- The span of frame `f` waits alone at Bridge `d`: its sibling is to come, and no other partial of its key is there (10 R256). -/
structure WaitsAlone (s : State) (d : Nat) (f : Frame) : Prop where
  ok : spanOk (fSub f).p (fSub f).lo (fSub f).log = true
  below : (fSub f).log < logP (fSub f).p
  sibling : sibLo (fSub f).lo (fSub f).log < (fSub f).p
  fresh : spanTaken s d (frameKey f) (fSub f).lo (fSub f).log = false
  gather : (bridge s d).eng.gather = []
  other : ∀ q ∈ (bridge s d).eng.held, q.key ≠ frameKey f

section Waits
variable {s u : State} {d ty : Nat} {f : Frame} {e : Course} {p : Partial}

theorem EngineTakes.spanTaken (h : EngineTakes d f s u) (key : CollKey) (lo log : Nat) :
    spanTaken u d key lo log = spanTaken s d key lo log := by
  obtain ⟨rows, heng⟩ := h.eng
  rw [Machine.spanTaken, Machine.spanTaken, heng]

theorem WaitsAlone.of_takes (hu : EngineTakes d f s u) (h : WaitsAlone s d f) : WaitsAlone u d f where
  ok := h.ok
  below := h.below
  sibling := h.sibling
  fresh := (hu.spanTaken ..).trans h.fresh
  gather := by
    obtain ⟨rows, heng⟩ := hu.eng
    rw [heng]
    exact h.gather
  other := by
    rw [hu.held]
    exact h.other

/-- A SPART frame that waits alone becomes a partial the engine holds (10 R256). -/
theorem takeSpart_holds (he : s.errs = Errs.none) (hty : fType f ≠ 0x15) (hl : fLast f = true) (hp : (fSub f).prog = 0)
    (hprog : e.prog ≠ 16) (hroot : selfAt s d = rankAt e (fSub f).root) (h : WaitsAlone s d f) :
    takeSpart s d e f = holdPart (modEng s d (fun g => { g with gather := [] })) d (framePart f) := by
  have heng : (bridge (modEng s d (fun g => { g with gather := [] })) d).eng = { (bridge s d).eng with gather := [] } := by
    rw [bridge_modEng_same]
  have hself : selfAt (modEng s d (fun g => { g with gather := [] })) d = selfAt s d := by
    simp only [selfAt, regBits_congr (t := modEng s d (fun g => { g with gather := [] })) (modBridge_regs ..)]
  rw [takeSpart_whole he hty hl hp hprog h.ok h.fresh h.gather]
  refine takePart_holds ?_ ?_ h.below h.sibling (hself.trans hroot)
  · rw [spanTaken, heng]
    exact h.fresh
  · rw [heng]
    exact h.other

/-- A token that waits alone is held (11 R305). -/
theorem takeTokenUp_holds (hroot : selfAt s d = rankAt e e.root) (h : WaitsAlone s d f) :
    takeTokenUp s d e f = holdPart s d (tokenPart e f) := by
  rw [takeTokenUp, h.ok, if_neg (by decide)]
  exact takePart_holds (p := tokenPart e f) h.fresh h.other h.below h.sibling hroot

/-- What the state is after a frame's turn that has left the engine with one more partial. -/
theorem turn_holds (hturn : engineTurn s d ty f e) (hn : fScount f = 1)
    (hhold : ∀ u, EngineTakes d f s u → ∃ v, engineDeliver d e u f = holdPart v d p ∧ StagesOnly d u v) :
    ∃ t, engineCmd ty d s = .next t ∧ (bridge t d).eng.inq = (bridge s d).eng.inq.erase f ∧
      (bridge t d).eng.held = (bridge s d).eng.held ++ [p] ∧ t.cores = s.cores ∧ t.dram = s.dram := by
  obtain ⟨-, -, -, -, -, -, -, hnew⟩ := id hturn
  obtain ⟨u, slot, hu, hrun⟩ := engineFrm_delivers hturn (streamStep_only hnew hn)
  obtain ⟨v, hdeliver, hv⟩ := hhold u hu
  have hstage := restage_stages d (holdPart v d p) slot
  refine ⟨_, (engineCmd_takes hturn).trans (by rw [hrun, hdeliver]), ?_, ?_, ?_, ?_⟩
  · rw [hstage.inq, eng_holdPart, hv.inq, hu.inq]
  · rw [hstage.held, eng_holdPart, hv.held, hu.held]
  · exact hstage.cores.trans (hv.cores.trans hu.cores)
  · exact hstage.dram.trans (hv.dram.trans hu.dram)

/-- SPART of a span that waits alone at the root module (10 R256). -/
theorem spart_holds (hturn : engineTurn s d 0x10 f e) (hl : fLast f = true) (hn : fScount f = 1) (hp : (fSub f).prog = 0)
    (hprog : e.prog ≠ 16) (hroot : selfAt s d = rankAt e (fSub f).root) (h : WaitsAlone s d f) :
    ∃ t, exec (.spart d) s = .next t ∧ (bridge t d).eng.inq = (bridge s d).eng.inq.erase f ∧
      (bridge t d).eng.held = (bridge s d).eng.held ++ [framePart f] ∧ t.cores = s.cores ∧ t.dram = s.dram := by
  obtain ⟨hw, -, herr, -, hty, -⟩ := id hturn
  refine turn_holds hturn hn fun u hu => ⟨_, ?_, .modEng u (g := fun g => { g with gather := [] }) (fun _ => rfl) fun _ => rfl⟩
  have hdeliver : engineDeliver d e u f = takeSpart u d e f := by simp only [engineDeliver, hty]
  rw [hdeliver]
  exact takeSpart_holds (hu.errs.trans herr) (by rw [hty]; decide) hl hp hprog ((hu.selfAt hw.bridge).trans hroot) (h.of_takes hu)

/-- CTOKU of a token that waits alone at the root module (11 R305). -/
theorem ctoku_holds (hturn : engineTurn s d 0x15 f e) (hn : fScount f = 1)
    (hroot : selfAt s d = rankAt e e.root) (h : WaitsAlone s d f) :
    ∃ t, exec (.ctoku d) s = .next t ∧ (bridge t d).eng.inq = (bridge s d).eng.inq.erase f ∧
      (bridge t d).eng.held = (bridge s d).eng.held ++ [tokenPart e f] ∧ t.cores = s.cores ∧ t.dram = s.dram := by
  obtain ⟨hw, -, -, -, hty, -⟩ := id hturn
  refine turn_holds hturn hn fun u hu => ⟨u, ?_, .refl u⟩
  have hdeliver : engineDeliver d e u f = takeTokenUp u d e f := by simp only [engineDeliver, hty]
  rw [hdeliver]
  exact takeTokenUp_holds ((hu.selfAt hw.bridge).trans hroot) (h.of_takes hu)

end Waits

-- Token results and poison --------------------------------------------------------------------------------------------

section Results
variable {s u v : State} {d ty : Nat} {f : Frame} {e : Course}

theorem tuning_above {d : Nat} (hd : isBridge d = true) (o : Nat) : dcs (d + 1) 0 ≤ dcs TUN o := by
  obtain ⟨-, h100⟩ := bounds_of_isBridge hd
  calc dcs (d + 1) 0 ≤ dcs TUN 0 := Nat.add_le_add_right (Nat.mul_le_mul_right _ (by unfold TUN; omega)) 0
    _ ≤ dcs TUN o := Nat.add_le_add_left (Nat.zero_le o) _

/-- What leaves the words above a Bridge leaves the registers of the Tuning die. -/
theorem regBits_tuning (hd : isBridge d = true) (h : ∀ a, dcs (d + 1) 0 ≤ a → regWord u a = regWord s a) (o hi lo : Nat) :
    regBits u (dcs TUN o) hi lo = regBits s (dcs TUN o) hi lo := by
  rw [regBits, regBits, regNat_congr _ _ fun i _ => h _ ((tuning_above hd o).trans (Nat.le_add_right ..))]

theorem EngineTakes.nowStep (h : EngineTakes d f s u) (hd : isBridge d = true) : nowStep u d f = nowStep s d f := by
  obtain ⟨h64, -⟩ := bounds_of_isBridge hd
  have hword : regWord u (dcs 0 0x80C) = regWord s (dcs 0 0x80C) := h.word _ (.inl (by unfold dcs; omega))
  simp only [Machine.nowStep, stepOf, if_neg (Nat.not_lt.mpr h64), tileReg, hword]

/-- A status register at `a` with the bits `x` joined to its status and one wait less (11 R305). -/
def joinTokens (s : State) (a x : Nat) : State :=
  let u := regSetBits s a 31 0 (regBits s a 31 0 ||| x)
  regSetBits u a 38 32 (regBits u a 38 32 - 1)

theorem status_joinTokens (s : State) (a : Nat) {x : Nat} (hx : x < 2 ^ 32) :
    regBits (joinTokens s a x) a 31 0 = regBits s a 31 0 ||| x := by
  rw [joinTokens, regBits_regSetBits_field _ _ _ (.inl (by decide)), regBits_regSetBits_same]
  exact Nat.mod_eq_of_lt (Nat.or_lt_two_pow (regBits_lt ..) hx)

theorem waits_joinTokens (s : State) (a x : Nat) : regBits (joinTokens s a x) a 38 32 = regBits s a 38 32 - 1 := by
  have hlt : regBits s a 38 32 < 2 ^ 7 := regBits_lt ..
  rw [joinTokens, regBits_regSetBits_same, regBits_regSetBits_field _ _ _ (.inr (by decide))]
  exact Nat.mod_eq_of_lt (by omega)

/-- A token result of the present step joins TUN_TOKSTAT (11 R305). -/
theorem takeTokenDown_joins (h : nowStep s d f = true) :
    (takeTokenDown s d f).tokGot = s.tokGot ++ [argCt (fArg f)] ∧
      (takeTokenDown s d f).regs = (joinTokens s (dcs TUN 0xC00) (fieldLE (fData f) 0 4)).regs ∧
      (takeTokenDown s d f).cores = s.cores ∧ (takeTokenDown s d f).dram = s.dram := by
  unfold takeTokenDown joinTokens
  rw [if_neg (by simp [h])]
  generalize dcs TUN 0xC00 = a
  refine ⟨?_, rfl, ?_, ?_⟩
  · simp only [regSetBits_tokGot]
  · simp only [regSetBits_cores]
  · simp only [regSetBits_dram]

/-- CTOKD of the present step (11 R305). -/
theorem ctokd_joins (hturn : engineTurn s d 0x16 f e) (hn : fScount f = 1) (hend : atEnd f = true) (hnow : nowStep s d f = true) :
    ∃ t, exec (.ctokd d) s = .next t ∧ t.tokGot = s.tokGot ++ [argCt (fArg f)] ∧
      regBits t (dcs TUN 0xC00) 31 0 = regBits s (dcs TUN 0xC00) 31 0 ||| fieldLE (fData f) 0 4 ∧
      regBits t (dcs TUN 0xC00) 38 32 = regBits s (dcs TUN 0xC00) 38 32 - 1 ∧ t.cores = s.cores ∧ t.dram = s.dram := by
  obtain ⟨hw, -, -, -, hty, -, -, hnew⟩ := id hturn
  obtain ⟨u, slot, hu, hrun⟩ := engineFrm_delivers hturn (streamStep_only hnew hn)
  obtain ⟨hgot, hregs, hcores, hdram⟩ := takeTokenDown_joins ((hu.nowStep hw.bridge).trans hnow)
  have hdeliver : engineDeliver d e u f = takeTokenDown u d f := by simp only [engineDeliver, hty, hend, if_true]
  have hstage := restage_stages d (takeTokenDown u d f) slot
  have hstaged (hi lo : Nat) : regBits (restage (takeTokenDown u d f) d slot) (dcs TUN 0xC00) hi lo =
      regBits (joinTokens u (dcs TUN 0xC00) (fieldLE (fData f) 0 4)) (dcs TUN 0xC00) hi lo :=
    (regBits_tuning hw.bridge (fun a ha => hstage.word a (.inr ha)) 0xC00 hi lo).trans (regBits_congr hregs ..)
  have htaken (hi lo : Nat) : regBits u (dcs TUN 0xC00) hi lo = regBits s (dcs TUN 0xC00) hi lo :=
    regBits_tuning hw.bridge (fun a ha => hu.word a (.inr ha)) 0xC00 hi lo
  refine ⟨_, (engineCmd_takes hturn).trans (by rw [hrun, hdeliver]), ?_, ?_, ?_, ?_, ?_⟩
  · rw [hstage.tokGot, hgot, hu.only]
  · rw [hstaged, status_joinTokens _ _ ((fieldLE_lt ..).trans_eq (by decide)), htaken]
  · rw [hstaged, waits_joinTokens, htaken]
  · exact hstage.cores.trans (hcores.trans hu.cores)
  · exact hstage.dram.trans (hdram.trans hu.dram)

theorem logFault_stepCodes (s : State) (die code cls detail n : Nat) :
    (logFault s die code cls detail n).stepCodes = s.stepCodes := by
  unfold logFault
  simp only
  split
  · exact regSetBits_stepCodes ..
  · split
    · rw [regSetBits_stepCodes, regPutNat_stepCodes]
    · exact regSetBits_stepCodes ..

/-- A fail-class fault is noted for the step (17 R437). -/
theorem recordBrg_stepCodes (s : State) (d : Nat) {code : Nat} (h : faultClass code = 1) : code ∈ (recordBrg s d code).stepCodes := by
  simp [recordBrg, recordDie, h, recordAs, logFault_stepCodes]

/-- CPOISON of the present step (11 R302). -/
theorem cpoison_records (hturn : engineTurn s d 0x17 f e) (hn : fScount f = 1) (hend : atEnd f = true)
    (hnow : nowStep s d f = true) :
    ∃ t, exec (.cpoison d) s = .next t ∧ 0x2B ∈ t.stepCodes ∧ t.cores = s.cores ∧ t.dram = s.dram := by
  obtain ⟨hw, -, -, -, hty, -, -, hnew⟩ := id hturn
  obtain ⟨u, slot, hu, hrun⟩ := engineFrm_delivers hturn (streamStep_only hnew hn)
  have hdeliver : engineDeliver d e u f = recordBrg u d 0x2B := by
    simp only [engineDeliver, hty, hend, if_true, takePoison, (hu.nowStep hw.bridge).trans hnow]
  have hrec : RecordsOnly u (recordBrg u d 0x2B) := recordAs_records ..
  have hstage := restage_stages d (recordBrg u d 0x2B) slot
  refine ⟨_, (engineCmd_takes hturn).trans (by rw [hrun, hdeliver]), ?_, ?_, ?_⟩
  · rw [hstage.stepCodes]
    exact recordBrg_stepCodes _ _ (by decide)
  · exact hstage.cores.trans (hrec.cores.trans hu.cores)
  · exact hstage.dram.trans (hrec.dram.trans hu.dram)

end Results

-- Combination ---------------------------------------------------------------------------------------------------------

theorem bitAt_eq_testBit (v b : Nat) : bitAt v b = v.testBit b := by
  rw [bitAt, Nat.testBit_eq_decide_div_mod_eq, Nat.shiftRight_eq_div_pow]

/-- Joined flags are those of every part. -/
theorem bitAt_foldl_or {α : Type} (g : α → Nat) (xs : List α) (z b : Nat) :
    bitAt (xs.foldl (fun m x => m ||| g x) z) b = true ↔ bitAt z b = true ∨ ∃ x ∈ xs, bitAt (g x) b = true := by
  induction xs generalizing z with
  | nil => simp
  | cons x xs ih =>
    rw [List.foldl_cons, ih]
    simp [bitAt_eq_testBit, or_assoc]

section Combine
variable {s : State} {d : Nat} {l r : Partial}

theorem toAcc_plain {p : Partial} (h : p.par.exact = false) : toAcc p = p := by simp [toAcc, h]

/-- Element by element, the left operand first: what two partials of one length combine to without a program (10 R260, R261). -/
def elemPairs (l r : Partial) : List (Nat × Nat) :=
  (l.elems.zip r.elems).map fun y => combineElem l.par.rop l.par.wire y.1 y.2

theorem combineElems_plain (hp : l.par.prog = 0) (hl : l.acc = false) (hr : r.acc = false) (ht : isToken l = false)
    (hlen : l.elems.length = r.elems.length) : combineElems s d l r =
      ((elemPairs l r).map (·.1), (elemPairs l r).foldl (fun f o => f ||| o.2) 0) := by
  have halign : alignElems l.elems r.elems = l.elems.zip r.elems := by
    rw [alignElems, List.drop_eq_nil_of_le hlen.ge, List.drop_eq_nil_of_le hlen.le, List.append_nil, List.append_nil]
  simp only [combineElems, ht, hl, hr, reduceSlot_plain hp, halign, Option.filter, Bool.false_eq_true, ne_eq, not_true_eq_false,
    if_false]
  rfl

theorem engineUpset_sound (h : s.errs = Errs.none) (wire : Nat) (xs : List Nat) : engineUpset s d wire xs = (s, xs, 0) := by
  simp [engineUpset, takeUnitUpset, h, Errs.none]

/-- The partial of the parent span that two siblings combine to (10 R255, R257, R261, R263). -/
def combinedPart (s : State) (d : Nat) (l r : Partial) : Partial :=
  { l with src := engineEpid s d, log := l.log + 1, elems := (elemPairs l r).map (·.1)
           pflags := l.pflags ||| r.pflags ||| (elemPairs l r).foldl (fun f o => f ||| o.2) 0 }

theorem engineEpid_dropPart (s : State) (d b : Nat) (p : Partial) : engineEpid (dropPart s d p) b = engineEpid s b := by
  have hself : selfAt (dropPart s d p) b = selfAt s b := by
    simp only [selfAt, regBits_congr (t := dropPart s d p) (modBridge_regs ..)]
  rw [engineEpid, engineEpid, hself]

/-- Two siblings that agree leave staging, and their combination is held (10 R255, R256). -/
theorem held_combinePart (he : s.errs = Errs.none) (hpar : l.par = r.par) (hp : l.par.prog = 0) (hx : l.par.exact = false)
    (hl : l.acc = false) (hr : r.acc = false) (ht : isToken l = false) (hlen : l.elems.length = r.elems.length) :
    (bridge (combinePart s d l r) d).eng.held = (((bridge s d).eng.held.erase l).erase r) ++ [combinedPart s d l r] := by
  have hright : toAcc { r with par := { r.par with exact := l.par.exact, wire := l.par.wire } } = r := by
    rw [hpar]
    exact toAcc_plain (hpar ▸ hx)
  have hagree : ¬ (l.par ≠ r.par ∨ ((none : Option Slot).isNone = true ∧ l.elems.length ≠ r.elems.length)) := by
    simp [hpar, hlen]
  have hcombine : combinePart s d l r =
      sadCount (holdPart (dropPart (dropPart s d l) d r) d (combinedPart s d l r)) d 1 := by
    simp only [combinePart, recordSlot_plain hp, if_neg hagree, toAcc_plain hx, hright, combineElems_plain hp hl hr ht hlen,
      engineUpset_sound (s := dropPart (dropPart s d l) d r) he, engineEpid_dropPart, Nat.or_zero]
    rfl
  rw [hcombine, bridge_sadCount, eng_holdPart, eng_dropPart, eng_dropPart]

/-- A partial without sibling is held as it is, under the parent span (10 R255, R256). -/
theorem held_promotePart (hx : l.par.exact = false) : (bridge (promotePart s d l) d).eng.held =
    (bridge s d).eng.held.erase l ++ [{ l with src := engineEpid s d, log := l.log + 1 }] := by
  rw [promotePart, bridge_sadCount, eng_holdPart, eng_dropPart, toAcc_plain hx]

theorem elemPairs_getElem? {i : Nat} (hlen : l.elems.length = r.elems.length) (hi : i < l.elems.length) :
    (elemPairs l r)[i]? = some (combineElem l.par.rop l.par.wire (l.elems.getD i 0) (r.elems.getD i 0)) := by
  have hr : i < r.elems.length := hlen ▸ hi
  simp [elemPairs, hi, hr]

theorem length_elemPairs (hlen : l.elems.length = r.elems.length) : (elemPairs l r).length = l.elems.length := by
  simp [elemPairs, hlen]

/-- The flags that a combination raises are those of its elements (10 R261). -/
theorem bitAt_elemPairs (hlen : l.elems.length = r.elems.length) (b : Nat) :
    bitAt ((elemPairs l r).foldl (fun f o => f ||| o.2) 0) b = true ↔ ∃ i < l.elems.length,
      bitAt (combineElem l.par.rop l.par.wire (l.elems.getD i 0) (r.elems.getD i 0)).2 b = true := by
  have hzero : bitAt 0 b = false := by rw [bitAt_eq_testBit, Nat.zero_testBit]
  rw [bitAt_foldl_or (fun o : Nat × Nat => o.2), hzero]
  simp only [Bool.false_eq_true, false_or]
  constructor
  · rintro ⟨o, ho, hbit⟩
    obtain ⟨i, hi, rfl⟩ := List.mem_iff_getElem.mp ho
    have hil : i < l.elems.length := length_elemPairs hlen ▸ hi
    have hget := elemPairs_getElem? hlen hil
    rw [List.getElem?_eq_getElem hi, Option.some.injEq] at hget
    exact ⟨i, hil, hget ▸ hbit⟩
  · rintro ⟨i, hi, hbit⟩
    exact ⟨_, List.mem_of_getElem? (elemPairs_getElem? hlen hi), hbit⟩

end Combine

/-- Settles O33: the four upward types at an engine, and the two ways a held partial becomes one of its parent span. -/
theorem enginesHoldAndCombinePartials : Obligations.EnginesHoldAndCombinePartials := by
  refine ⟨fun s d f e => ?_, fun s d l r he hpar hp hx hl hr ht hlen => ?_⟩
  · intro u alone
    have hwaits : alone (frameKey f) → WaitsAlone s d f := fun ⟨hok, hlog, hsib, hfresh, hgather, hother⟩ =>
      ⟨hok, hlog, hsib, hfresh, hgather, hother⟩
    refine ⟨fun hturn hl hn hp hprog hroot ha => ?_, fun hturn hl hn hroot ha => ?_, fun hturn _ hn hend hnow => ?_,
      fun hturn _ hn hend hnow => ?_⟩
    · exact spart_holds hturn hl hn hp hprog hroot (hwaits ha)
    · exact ctoku_holds hturn hn hroot (hwaits ha)
    · exact ctokd_joins hturn hn hend hnow
    · exact cpoison_records hturn hn hend hnow
  · intro el
    have hlength : ((elemPairs l r).map (·.1)).length = l.elems.length := by rw [List.length_map, length_elemPairs hlen]
    refine ⟨⟨_, _, held_combinePart he hpar hp hx hl hr ht hlen, hlength, fun i hi => ?_, fun b => ?_⟩, held_promotePart hx⟩
    · rw [List.getD_eq_getElem?_getD, List.getElem?_map, elemPairs_getElem? hlen (hlength ▸ hi)]
      rfl
    · rw [hlength]
      exact bitAt_elemPairs hlen b

end Sys2Proof.Machine
end

section
/-! SUPPORT. A request at its home tile agent: what the agent reads, and what it leaves of a duplicate, a refused and a queued request
(12 R320, R322, R330, R334). -/
namespace Sys2Proof.Machine
open Sys2Proof.Safety Sys2Proof.Claims

section Home
variable {s : State} {t d rsv : Nat} {f : Frame}

/-- The tile once its filter holds a new request; a full filter forgets its oldest pair (12 R330). -/
def noted (x : Tile) (f : Frame) : Tile :=
  { x with filter := (if 65536 ≤ x.filter.length then x.filter.drop 1 else x.filter) ++ [(fSrc f, fSeq f)] }

theorem mem_filter_noted (x : Tile) (f : Frame) : (fSrc f, fSeq f) ∈ (noted x f).filter :=
  List.mem_append_right _ (List.mem_singleton_self _)

-- What the agent reads ------------------------------------------------------------------------------------------------

theorem homeReads_sound (he : s.errs = Errs.none) (t : Nat) (f : Frame) : homeReads s t f = s := by simp [homeReads, he, Errs.none]

theorem entryLost_sound (he : s.errs = Errs.none) (die arr idx held : Nat) : entryLost s die arr idx held = false := by
  simp [entryLost, he, Errs.none]

/-- The decision of R320 rests on the region table, not on what the tile holds. -/
theorem homeRefuses_setTile (s : State) (t : Nat) (x : Tile) (f : Frame) : homeRefuses (setTile s t x) t f = homeRefuses s t f := by
  have hword (a : Nat) : regWord (setTile s t x) a = regWord s a := rfl
  have hentry : regionEntry (setTile s t x) t = regionEntry s t := rfl
  simp only [homeRefuses, regionOf, hword, hentry]

-- What its operations leave -------------------------------------------------------------------------------------------

theorem mfCount_units (s : State) (t n : Nat) : KeepsUnits s (mfCount s t n) := .of_records (.regPutNat (.refl s) ..)

theorem sendBinv_units (s : State) (line : Nat) : KeepsUnits s (sendBinv s line) := by
  unfold sendBinv
  split
  · exact .refl s
  · exact ⟨rfl, rfl, rfl, rfl⟩

theorem KeepsUnits.foldl {α : Type} {g : State → α → State} (h : ∀ u a, KeepsUnits u (g u a)) (l : List α) (s : State) :
    KeepsUnits s (l.foldl g s) :=
  foldl_keeps .refl (fun _ _ _ => .trans) h l s

/-- Setting requests aside rewrites their port's queue; beyond it back-invalidations leave (12 R334). -/
theorem setAside_units (s : State) (t lc : Nat) : ∃ q, KeepsUnits (setPort s t lc q) (setAside s t lc) :=
  ⟨_, .foldl (fun u _ => .foldl sendBinv_units _ u) _ _⟩

/-- An answer changes nothing but the Bridge it returns to and that Bridge's counters (12 R322). -/
theorem answer_frame (s : State) (d rsv : Nat) (f : Frame) :
    answer s d rsv f = { s with bridges := (answer s d rsv f).bridges, regs := (answer s d rsv f).regs } := by
  rw [answer, arriveWith_local]

theorem recv_answer (s : State) (d rsv : Nat) (f : Frame) :
    (bridge (answer s d rsv f) d).recv = (bridge s d).recv ++ [rxOf s d none (if rsv = 5 then none else some rsv) f] :=
  recv_arriveWith ..

-- The three outcomes --------------------------------------------------------------------------------------------------

/-- A request that the filter has is only counted, and the buffer reserved for its answer is freed (12 R330). -/
theorem homeTakes_duplicate (he : s.errs = Errs.none) (h : (fSrc f, fSeq f) ∈ (tile s t).filter) :
    KeepsUnits s (homeTakes s t f d rsv) := by
  have htakes : homeTakes s t f d rsv = mfCount (poolAdd s d rsv 1) t 6 := by
    simp only [homeTakes, homeReads_sound he, entryLost_sound he, List.contains_iff_mem.mpr h, Bool.not_false, Bool.and_self, if_true]
  exact htakes ▸ (poolAdd_units ..).trans (mfCount_units ..)

/-- A new request that the decision of R320 refuses: the filter holds it, and a NAK stands last at its Bridge, in the buffer reserved
for its answer (12 R320, R322). -/
theorem homeTakes_refused (he : s.errs = Errs.none) (h : (fSrc f, fSeq f) ∉ (tile s t).filter) {code : Nat}
    (hr : homeRefuses s t f = some code) :
    let u := homeTakes s t f d rsv
    tile u t = noted (tile s t) f ∧ u.dram = s.dram ∧ u.cores = s.cores ∧
      ∃ e, (bridge u d).recv = (bridge s d).recv ++ [e] ∧ e.frame = nakFor s d f code ∧ e.port = .localPort ∧
        e.buf = (if rsv = 5 then none else some rsv) := by
  intro u
  set v := setTile s t (noted (tile s t) f)
  set w := mfCount v t 5
  have htakes : u = answer w d rsv (nakFor s d f code) := by
    have hc : (tile s t).filter.contains (fSrc f, fSeq f) = false := by simpa using h
    simp only [u, homeTakes, homeReads_sound he, hc, Bool.false_and, Bool.false_eq_true, if_false, homeRefuses_setTile, hr]
    rfl
  have hw : KeepsUnits v w := mfCount_units ..
  have hu : u = { w with bridges := u.bridges, regs := u.regs } := by rw [htakes, ← answer_frame]
  have htiles : u.tiles = v.tiles := (congrArg State.tiles hu).trans hw.tiles
  refine ⟨(tile_congr htiles t).trans (tile_setTile_same ..), (congrArg State.dram hu).trans hw.dram,
    (congrArg State.cores hu).trans hw.cores, rxOf w d none (if rsv = 5 then none else some rsv) (nakFor s d f code), ?_, rfl, rfl, rfl⟩
  rw [htakes, recv_answer, bridge_congr hw.bridges]
  rfl

/-- A new request that it permits: the filter holds it, and with an empty directory it stands last at its sliver's port (12 R320). -/
theorem homeTakes_queued (he : s.errs = Errs.none) (h : (fSrc f, fSeq f) ∉ (tile s t).filter) (hr : homeRefuses s t f = none) :
    let u := homeTakes s t f d rsv
    let lc := reqDpa f / 2 ^ 23 % 16384
    tile u t = { noted (tile s t) f with ports := (tile u t).ports } ∧ u.dram = s.dram ∧ u.cores = s.cores ∧
      (s.dir = [] → port u t lc = port s t lc ++ [⟨reqDpa f % 2 ^ 23, svcOpOf f, .fabric f d rsv, 0, [], false, false⟩] ∧
        u.bridges = s.bridges) := by
  intro u lc
  set v := setTile s t (noted (tile s t) f)
  set w := setPort v t lc (port v t lc ++ [⟨reqDpa f % 2 ^ 23, svcOpOf f, .fabric f d rsv, 0, [], false, false⟩]) with hw
  have htakes : u = setAside w t lc := by
    have hc : (tile s t).filter.contains (fSrc f, fSeq f) = false := by simpa using h
    simp only [u, homeTakes, homeReads_sound he, hc, Bool.false_and, Bool.false_eq_true, if_false, homeRefuses_setTile, hr]
    rfl
  obtain ⟨q, hq⟩ := htakes ▸ setAside_units w t lc
  have hv : tile v t = noted (tile s t) f := tile_setTile_same ..
  have hport : port v t lc = port s t lc := by
    rw [port, hv]
    rfl
  refine ⟨?_, hq.dram, hq.cores, fun hd => ?_⟩
  · rw [tile_congr hq.tiles t, setPort, tile_modTile_same, hw, setPort, tile_modTile_same, hv]
  · have hu : u = setPort w t lc (port w t lc) := htakes.trans (setAside_empty hd)
    exact ⟨by rw [hu, port_setPort_same, hw, port_setPort_same, hport], by rw [hu]; rfl⟩

/-- The request at the head of SVC-REQ meets the home's decision (12 R320). -/
theorem mfRequest_head {ty : Nat} {rest : List (Frame × Nat × Nat)} (ht : t < 64) (hk : clocksRun s = true)
    (hin : (tile s t).svcIn = (f, d, rsv) :: rest) (hty : fType f = ty) :
    mfRequest ty t s = .next (homeTakes (setTile s t { tile s t with svcIn := rest }) t f d rsv) := by
  simp only [mfRequest, tileCmd_works ht hk, hin, hty, if_true, modTile]

/-- MF_LOAD, MF_STORE and MF_ATOMIC take the head of SVC-REQ by its type. -/
theorem exec_mfRequest (t : Nat) (s : State) :
    ∀ r ∈ [(Instr.mfLoad t, 2), (Instr.mfStore t, 3), (Instr.mfAtomic t, 4)], exec r.1 s = mfRequest r.2 t s := by
  simp only [List.forall_mem_cons]
  exact ⟨rfl, rfl, rfl, fun _ h => absurd h List.not_mem_nil⟩

end Home

/-- Settles O28: a duplicate, a refused and a queued request. -/
theorem homeTakesOrRefusesRequests : Obligations.HomeTakesOrRefusesRequests := by
  intro s t d rsv f rest ht hk he hin r hr hty
  set v := setTile s t { tile s t with svcIn := rest }
  have hv : tile v t = { tile s t with svcIn := rest } := tile_setTile_same ..
  have hdecides : homeRefuses v t f = homeRefuses s t f := homeRefuses_setTile ..
  refine ⟨homeTakes v t f d rsv, (exec_mfRequest t s r hr).trans (mfRequest_head ht hk hin hty), ?_⟩
  by_cases hdup : (fSrc f, fSeq f) ∈ (tile s t).filter
  · have hu : KeepsUnits v (homeTakes v t f d rsv) := homeTakes_duplicate he (by rwa [hv])
    have htile := (tile_congr hu.tiles t).trans hv
    exact ⟨by rw [htile], hu.dram, hu.cores, fun _ => ⟨by rw [htile], by rw [htile], hu.bridges⟩, fun h => absurd hdup h,
      fun _ h => absurd hdup h, fun h => absurd hdup h⟩
  · have hnew : (fSrc f, fSeq f) ∉ (tile v t).filter := by rwa [hv]
    cases hrefuse : homeRefuses s t f with
    | some code =>
      obtain ⟨htile, hdram, hcores, hnak⟩ := homeTakes_refused (s := v) (d := d) (rsv := rsv) he hnew (hdecides.trans hrefuse)
      rw [hv] at htile
      refine ⟨by rw [htile]; rfl, hdram, hcores, fun h => absurd h hdup, fun _ => htile ▸ mem_filter_noted ..,
        fun c _ hc => ?_, fun _ h => nomatch h⟩
      obtain rfl := Option.some.inj hc
      exact ⟨by rw [htile]; rfl, hnak⟩
    | none =>
      obtain ⟨htile, hdram, hcores, hqueued⟩ := homeTakes_queued (s := v) (d := d) (rsv := rsv) he hnew (hdecides.trans hrefuse)
      rw [hv] at htile
      refine ⟨by rw [htile]; rfl, hdram, hcores, fun h => absurd h hdup, fun _ => htile ▸ mem_filter_noted ..,
        fun _ _ h => (nomatch h), fun _ _ hd => ?_⟩
      obtain ⟨hport, hbridges⟩ := hqueued hd
      exact ⟨hport.trans (by rw [port, port, hv]), hbridges⟩

end Sys2Proof.Machine
end

section
/-! SUPPORT. The atomics at a sliver port: what each operation leaves in memory, and the service and answer of one (12 R314 to R317,
R323). -/
namespace Sys2Proof.Machine
open Sys2Proof.Safety Sys2Proof.Claims

-- Operations ----------------------------------------------------------------------------------------------------------

theorem fieldLE_lt_bits (bs : List Byte) (o n : Nat) : fieldLE bs o n < 2 ^ (8 * n) :=
  (fieldLE_lt bs o n).trans_eq (Nat.pow_mul 2 8 n).symm

theorem memNat_lt (m : Memory) (a n : Nat) : memNat m a n < 2 ^ (8 * n) := by
  have h := natLE_lt (memRead m a n)
  rw [memRead_length] at h
  exact h.trans_eq (Nat.pow_mul 2 8 n).symm

/-- A number written in `n` bytes is read back modulo their size. -/
theorem memNat_memWrite_bytesLE (m : Memory) (a n v : Nat) : memNat (memWrite m a (bytesLE n v)) a n = v % 2 ^ (8 * n) := by
  have h := memRead_memWrite_same m a (bytesLE n v)
  rw [bytesLE_length] at h
  rw [memNat, h, natLE_bytesLE, Nat.pow_mul]

/-- Operation `o` leaves what `val` says of a value and operands of `w` bits, and that has `w` bits. -/
def AtomicRow (o : Nat) (val : Nat → Nat → Nat → Nat → Nat) : Prop :=
  o < 10 ∧ ∀ w m a b, m < 2 ^ w → a < 2 ^ w → b < 2 ^ w → atomicNew o w m a b = val w m a b ∧ val w m a b < 2 ^ w

theorem atomicMin_eq {w m a : Nat} (hm : m < 2 ^ w) (ha : a < 2 ^ w) (b : Nat) :
    atomicNew 4 w m a b = ofSigned w (min (toSigned w m) (toSigned w a)) := by
  have hval : atomicNew 4 w m a b = if toSigned w a < toSigned w m then a else m := rfl
  obtain hle | hlt := le_or_gt (toSigned w m) (toSigned w a)
  · rw [hval, if_neg hle.not_gt, min_eq_left hle, ofSigned_toSigned hm]
  · rw [hval, if_pos hlt, min_eq_right hlt.le, ofSigned_toSigned ha]

theorem atomicMax_eq {w m a : Nat} (hm : m < 2 ^ w) (ha : a < 2 ^ w) (b : Nat) :
    atomicNew 5 w m a b = ofSigned w (max (toSigned w m) (toSigned w a)) := by
  have hval : atomicNew 5 w m a b = if toSigned w m < toSigned w a then a else m := rfl
  obtain hlt | hle := lt_or_ge (toSigned w m) (toSigned w a)
  · rw [hval, if_pos hlt, max_eq_right hlt.le, ofSigned_toSigned ha]
  · rw [hval, if_neg hle.not_gt, max_eq_left hle, ofSigned_toSigned hm]

theorem atomicRows_serve : ∀ row ∈ atomicRows,
    AtomicRow row.2.1 row.2.2 ∧ ∀ (c : Nat) (s : State), exec (row.1 c) s = serveAtomic row.2.1 c s := by
  simp only [atomicRows, List.forall_mem_cons]
  refine ⟨⟨⟨by decide, ?add⟩, fun _ _ => rfl⟩, ⟨⟨by decide, ?and⟩, fun _ _ => rfl⟩, ⟨⟨by decide, ?or⟩, fun _ _ => rfl⟩,
    ⟨⟨by decide, ?xor⟩, fun _ _ => rfl⟩, ⟨⟨by decide, ?min⟩, fun _ _ => rfl⟩, ⟨⟨by decide, ?max⟩, fun _ _ => rfl⟩,
    ⟨⟨by decide, ?minu⟩, fun _ _ => rfl⟩, ⟨⟨by decide, ?maxu⟩, fun _ _ => rfl⟩, ⟨⟨by decide, ?swap⟩, fun _ _ => rfl⟩,
    ⟨⟨by decide, ?cas⟩, fun _ _ => rfl⟩, fun _ h => absurd h List.not_mem_nil⟩ <;> intro w m a b hm ha hb
  case add => exact ⟨rfl, Nat.mod_lt _ (Nat.two_pow_pos w)⟩
  case and => exact ⟨rfl, Nat.and_lt_two_pow _ ha⟩
  case or => exact ⟨rfl, Nat.or_lt_two_pow hm ha⟩
  case xor => exact ⟨rfl, Nat.xor_lt_two_pow hm ha⟩
  case min => exact ⟨atomicMin_eq hm ha b, ofSigned_lt ..⟩
  case max => exact ⟨atomicMax_eq hm ha b, ofSigned_lt ..⟩
  case minu => exact ⟨rfl, (Nat.min_le_left ..).trans_lt hm⟩
  case maxu => exact ⟨rfl, Nat.max_lt.mpr ⟨hm, ha⟩⟩
  case swap => exact ⟨rfl, ha⟩
  case cas => exact ⟨rfl, by show (if m = a then b else m) < _; split <;> assumption⟩

-- Service -------------------------------------------------------------------------------------------------------------

theorem atomicServe_integer (dram : Memory) (a : Nat) {aop : Nat} (data : List Byte) (h : aop % 16 < 10) :
    ∃ k, atomicServe dram a aop data =
      let n := if bitAt aop 4 then 8 else 4
      (memWrite dram a (bytesLE n (atomicNew (aop % 16) (8 * n) (memNat dram a n) (fieldLE data 0 n) (fieldLE data n n))),
        bytesLE 8 (memNat dram a n), k) := by
  unfold atomicServe
  split
  · omega
  · omega
  · exact ⟨_, rfl⟩

theorem atomicServe_xadd (dram : Memory) (a : Nat) {aop : Nat} (data : List Byte) (h : aop % 16 = 10) :
    atomicServe dram a aop data =
      (memWrite dram a (bytesLE 64 (xaddLine (memNat dram a 64) (fieldLE data 0 4))), bytesLE 8 0, 3) := by
  simp only [atomicServe, h]

theorem atomicServe_xrd (dram : Memory) (a : Nat) {aop : Nat} (data : List Byte) (h : aop % 16 = 11) :
    atomicServe dram a aop data = (dram, bytesLE 8 (xrdLine (memNat dram a 64)), 4) := by
  simp only [atomicServe, h]

/-- An atomic returns 8 bytes. -/
theorem atomicServe_returns (dram : Memory) (a aop : Nat) (data : List Byte) : (atomicServe dram a aop data).2.1.length = 8 := by
  unfold atomicServe
  split <;> exact bytesLE_length ..

section Serve
variable {s : State} {c aop : Nat} {r : SvcReq} {data : List Byte} {req : Frame} {die rsv : Nat}

/-- With an empty directory a write invalidates no line at the host (12 R334). -/
theorem writeTouch_empty (h : s.dir = []) (l : Nat) : writeTouch s l = s := by simp [writeTouch, dirFind, h]

theorem homeUpset_sound (h : s.errs = Errs.none) (t a : Nat) : homeUpset s t a = (s, s.dram) := by
  simp [homeUpset, takeUnitUpset, h, Errs.none]

/-- The end of an atomic's service, once its memory value stands at `a` and it is counted: the upset of the exact-sum adder, the host's
lines, and the answer (12 R314 to R317, R334; 17 R441). -/
def atomicEnd (c aop a : Nat) (r : SvcReq) (v : List Byte) (w : State) : State :=
  let (w, m) := if aop % 16 = 10 then homeUpset w (tileOf c) a else (w, w.dram)
  let w := if aop % 16 = 11 then w else writeTouch { w with dram := m } (a / 64)
  if bitAt aop 5 then sendAnswer w r 5 v else sendAnswer w r 6 []

/-- Without upsets, and with an empty directory, it is the answer alone. -/
theorem atomicEnd_sound {w : State} (he : w.errs = Errs.none) (hd : w.dir = []) (a : Nat) (v : List Byte) :
    atomicEnd c aop a r v w = sendAnswer w r (if bitAt aop 5 then 5 else 6) (if bitAt aop 5 then v else []) := by
  have hupset : (if aop % 16 = 10 then homeUpset w (tileOf c) a else (w, w.dram)) = (w, w.dram) := by rw [homeUpset_sound he, ite_self]
  have htouch : (if aop % 16 = 11 then w else writeTouch w (a / 64)) = w := by rw [writeTouch_empty hd, ite_self]
  simp only [atomicEnd, hupset, htouch]
  split <;> rfl

/-- An atomic of the fabric that comes next leaves its memory value, leaves its port, is counted, and ends (04 R105, 12 R323). -/
theorem serveAtomic_next_request (hc : c < coreCount) (hk : clocksRun s = true) (hd : s.dir = []) (he : s.errs = Errs.none)
    (hr : refreshFrame s (tileOf c) s.count = false) (hs : r.src = .fabric req die rsv) (hb : r.bad = false)
    (hp : portPick s (tileOf c) (lcOf c) = some r) (ho : r.op = .atomic aop data) :
    let x := atomicServe s.dram (dpaOf c r.off) aop data
    let u := { setPort s (tileOf c) (lcOf c) (port s (tileOf c) (lcOf c)) with dram := x.1 }
    serveAtomic (aop % 16) c s = .next (atomicEnd c aop (dpaOf c r.off) r x.2.1
      (fabricCount (portDrop u (tileOf c) (lcOf c) r) (tileOf c) x.2.2 r)) := by
  intro x u
  set v := setPort s (tileOf c) (lcOf c) (port s (tileOf c) (lcOf c)) with hv
  have hturn : refreshFrame v (tileOf c) v.count = false := (refreshFrame_setPort ..).trans hr
  have hpick : portPick v (tileOf c) (lcOf c) = some r := portPick_setPort_self.trans hp
  have hcount : fabricCount (portDrop u (tileOf c) (lcOf c) r) (tileOf c) x.2.2 r =
      { mfCount (portDrop v (tileOf c) (lcOf c) r) (tileOf c) x.2.2 with dram := x.1 } := by
    rw [fabricCount, if_pos (by simp [isFabric, hs])]
    rfl
  have hsound : { r with bad := false } = r := by rw [← hb]
  simp only [serveAtomic, coreCmd_works hc hk, setAside_empty hd, ← hv, hpick, ho, hturn, and_self, if_true,
      slotRead_sound (s := v) he, Bool.false_and, Bool.false_eq_true, if_false, hcount]
  rw [← ho, hsound]
  rfl

/-- It is answered by the bytes it returns, or without data where none are asked for (12 R314). -/
theorem serveAtomic_answered (hc : c < coreCount) (hk : clocksRun s = true) (hd : s.dir = []) (he : s.errs = Errs.none)
    (hr : refreshFrame s (tileOf c) s.count = false) (hs : r.src = .fabric req die rsv) (hb : r.bad = false)
    (hp : portPick s (tileOf c) (lcOf c) = some r) (ho : r.op = .atomic aop data) :
    let x := atomicServe s.dram (dpaOf c r.off) aop data
    ∃ u, serveAtomic (aop % 16) c s = .next u ∧ Answered { s with dram := x.1 } u (tileOf c) (lcOf c) r req die
      (if bitAt aop 5 then 5 else 6) (if bitAt aop 5 then x.2.1 else []) := by
  intro x
  refine ⟨_, serveAtomic_next_request hc hk hd he hr hs hb hp ho, ?_⟩
  set u := { setPort s (tileOf c) (lcOf c) (port s (tileOf c) (lcOf c)) with dram := x.1 }
  have hport : port u (tileOf c) (lcOf c) = port s (tileOf c) (lcOf c) := port_setPort_same ..
  set w := fabricCount (portDrop u (tileOf c) (lcOf c) r) (tileOf c) x.2.2 r
  have hframe : w = { portDrop u (tileOf c) (lcOf c) r with regs := w.regs } := fabricCount_frame ..
  rw [atomicEnd_sound ((congrArg State.errs hframe).trans he) ((congrArg State.dir hframe).trans hd)]
  have hlen : (if bitAt aop 5 then x.2.1 else []).length < 2 ^ 16 := by
    split
    · exact (atomicServe_returns ..).trans_lt (by decide)
    · decide
  obtain ⟨hq, hrest⟩ := fabric_answered (s := u) (t := tileOf c) (lc := lcOf c) hs hb x.2.2 (ty := if bitAt aop 5 then 5 else 6)
    (by split <;> decide) hlen
  exact ⟨hq.trans (congrArg (·.erase r) hport), hrest⟩

/-- The answer is MF_DATA with the returned bytes where bit 5 of AOP asks for them, else MF_ACK (12 R314). -/
theorem answered_by_return {u : State} {m : Memory} {t lc : Nat} {bit : Bool} {v : List Byte}
    (h : Answered { s with dram := m } u t lc r req die (if bit then 5 else 6) (if bit then v else [])) :
    port u t lc = (port s t lc).erase r ∧
      ∃ e, (bridge u die).recv = (bridge s die).recv ++ [e] ∧ fDest e.frame = fSrc req ∧ fSeq e.frame = fSeq req ∧
        (if bit then fType e.frame = 5 ∧ e.frame.payload = v else fType e.frame = 6 ∧ e.frame.payload = []) := by
  obtain ⟨hport, -, e, hrecv, htype, hdest, hseq, hpay⟩ := h
  refine ⟨hport, e, hrecv, hdest, hseq, ?_⟩
  cases bit with
  | true => exact ⟨htype, hpay⟩
  | false => exact ⟨htype, hpay⟩

end Serve

/-- Settles O30: the integer atomics by their rows, XADD and XRD. -/
theorem atomicsUpdateTheirBytes : Obligations.AtomicsUpdateTheirBytes := by
  intro s c r aop data req die rsv hc hk hd he hr hs hb hp ho a answered
  obtain ⟨u, hserve, hanswered⟩ := serveAtomic_answered hc hk hd he hr hs hb hp ho
  have hdram : u.dram = (atomicServe s.dram a aop data).1 := hanswered.2.1
  have hanswer : answered u (atomicServe s.dram a aop data).2.1 := answered_by_return hanswered
  refine ⟨fun row hrow hop => ?_, fun hop => ?_, fun hop => ?_⟩
  · obtain ⟨⟨hlt, hval⟩, hexec⟩ := atomicRows_serve row hrow
    intro n
    obtain ⟨k, hx⟩ := atomicServe_integer s.dram a data (hop ▸ hlt)
    rw [hx] at hdram hanswer
    obtain ⟨hnew, hfits⟩ := hval (8 * n) _ _ _ (memNat_lt s.dram a n) (fieldLE_lt_bits data 0 n) (fieldLE_lt_bits data n n)
    refine ⟨u, (hexec c s).trans (hop ▸ hserve), ?_, fun x hout => ?_, hanswer⟩
    · rw [hdram, memNat_memWrite_bytesLE, hop, hnew, Nat.mod_eq_of_lt hfits]
    · rw [hdram]
      exact memByte_memWrite_out _ _ _ _ (by rwa [bytesLE_length])
  · rw [atomicServe_xadd s.dram a data hop] at hdram hanswer
    rw [hop] at hserve
    refine ⟨u, hserve, ?_, fun x hout => ?_, hanswer⟩
    · rw [hdram, memNat_memWrite_bytesLE]
    · rw [hdram]
      exact memByte_memWrite_out _ _ _ _ (by rwa [bytesLE_length])
  · rw [atomicServe_xrd s.dram a data hop] at hdram hanswer
    rw [hop] at hserve
    exact ⟨u, hserve, hdram, hanswer⟩

end Sys2Proof.Machine
end

section
/-! SUPPORT. What every update of the state keeps: the canonical form of registers, memories and unit tables, and the counters of the
non-volatile array, which never fall (15 R411; 16 R423, R434). -/
namespace Sys2Proof.Machine
open Sys2Proof.Safety Sys2Proof.Claims

/-- Since `s₀` the canonical form has been kept and no counter has fallen. -/
def Steady (s₀ s : State) : Prop := (Canonical s₀ → Canonical s) ∧ NeverFell s₀ s

/-- Where an outcome is a next state, it is steady since `s₀`. -/
def SteadyOut (s₀ : State) (o : Out) : Prop := ∀ t, o = .next t → Steady s₀ t

/-- The effect of a plan keeps a state steady. -/
def SteadyPlan (pl : Plan) : Prop := ∀ s₀ s, Steady s₀ s → Steady s₀ (pl.eff s)

-- Sparse maps --------------------------------------------------------------------------------------------------------

theorem smWf_filter {α : Type} [DecidableEq α] (d : α) (m : SMap α) (p : Nat × α → Bool) (h : smWf d m = true) :
    smWf d (m.filter p) = true := by
  induction m with
  | nil => rfl
  | cons e m ih =>
    obtain ⟨hne, hlt, hm⟩ := (smWf_cons d e.1 e.2 m).mp h
    rw [List.filter_cons]
    split
    · exact (smWf_cons d e.1 e.2 _).mpr ⟨hne, fun x hx => hlt x (List.mem_filter.mp hx).1, ih hm⟩
    · exact ih hm

theorem smWf_append {α : Type} [DecidableEq α] (d : α) (l m : SMap α) (k : Nat) (hl : smWf d l = true) (hm : smWf d m = true)
    (hlk : ∀ e ∈ l, e.1 < k) (hkm : ∀ e ∈ m, k ≤ e.1) : smWf d (l ++ m) = true := by
  induction l with
  | nil => exact hm
  | cons e l ih =>
    obtain ⟨hne, hlt, hl⟩ := (smWf_cons d e.1 e.2 l).mp hl
    obtain ⟨he, hlk⟩ := List.forall_mem_cons.mp hlk
    refine (smWf_cons d e.1 e.2 _).mpr ⟨hne, fun x hx => ?_, ih hl hlk⟩
    rcases List.mem_append.mp hx with hx | hx
    · exact hlt x hx
    · exact he.trans_le (hkm x hx)

/-- A map built anew by writes is canonical. -/
theorem smWf_foldl_smSet {α β : Type} [DecidableEq α] (d : α) (k : β → Nat) (v : β → α) (l : List β) (m : SMap α) (h : smWf d m = true) :
    smWf d (l.foldl (fun m e => smSet d m (k e) (v e)) m) = true := by
  induction l generalizing m with
  | nil => exact h
  | cons e l ih => exact ih _ (smWf_smSet _ _ _ _ h)

/-- Clearing registers changes their values and leaves their places. -/
theorem smWf_regs_map (f : Nat → BitVec 32 → BitVec 32) (m : SMap (Option (BitVec 32))) (g : Nat × Option (BitVec 32) → Nat × Option
    (BitVec 32))
    (hg : ∀ a v, g (a, v) = (a, v.map (f a))) (h : smWf none m = true) : smWf none (m.map g) = true := by
  induction m with
  | nil => rfl
  | cons e m ih =>
    obtain ⟨a, v⟩ := e
    obtain ⟨hne, hlt, hm⟩ := (smWf_cons none a v m).mp h
    rw [List.map_cons, hg]
    refine (smWf_cons ..).mpr ⟨by simpa using hne, fun x hx => ?_, ih hm⟩
    obtain ⟨y, hy, rfl⟩ := List.mem_map.mp hx
    obtain ⟨c, w⟩ := y
    rw [hg]
    exact hlt (c, w) hy

-- Flash --------------------------------------------------------------------------------------------------------------

@[simp] theorem eraseRegion_rpa (f : Flash) (r : Nat) : (eraseRegion f r).rpa = f.rpa := by
  unfold eraseRegion
  split
  · rfl
  · rfl

@[simp] theorem programRegion_rpa (f : Flash) (r : Nat) (bs : List Byte) : (programRegion f r bs).rpa = f.rpa := by
  simp only [programRegion]
  split
  · exact eraseRegion_rpa f r
  · exact eraseRegion_rpa f r

-- Memory -------------------------------------------------------------------------------------------------------------

theorem atomicServe_wf {m : Memory} {a aop : Nat} {data : List Byte} (h : Memory.wf m = true) :
    Memory.wf (atomicServe m a aop data).1 = true := by
  unfold atomicServe
  split
  · exact memWrite_wf _ _ _ h
  · exact h
  · exact memWrite_wf _ _ _ h

-- Fields -------------------------------------------------------------------------------------------------------------

namespace Steady
variable {s₀ s : State}

theorem refl (s : State) : Steady s s := ⟨id, le_rfl, le_rfl, le_rfl, le_rfl⟩

/-- Fields outside the form and the counters are free. -/
protected theorem update (h : Steady s₀ s) {out image pending count muted plane tokSent tokGot stepCodes dir recalls cohWait polSp polApl
    life pins exec due ring gov booted ucode copy mute smbAt errs free} :
    Steady s₀ ⟨out, image, pending, count, muted, plane, tokSent, tokGot, s.cores, s.regs, s.dram, s.bridges, s.tiles, stepCodes, dir,
      recalls, cohWait, polSp, polApl, life, pins, s.mbx, exec, due, ring, gov, s.flash, booted, ucode, copy, mute, s.a2Saved, smbAt,
      errs, free⟩ := h

protected theorem withDram (h : Steady s₀ s) {m : Memory} (hm : Memory.wf s.dram = true → Memory.wf m = true) :
    Steady s₀ { s with dram := m } := by
  refine ⟨fun h₀ => ?_, h.2⟩
  obtain ⟨hdram, hrest⟩ := h.1 h₀
  exact ⟨hm hdram, hrest⟩

protected theorem withRegs (h : Steady s₀ s) {m : SMap (Option (BitVec 32))} (hm : smWf none s.regs = true → smWf none m = true) :
    Steady s₀ { s with regs := m } := by
  refine ⟨fun h₀ => ?_, h.2⟩
  obtain ⟨hdram, hregs, hrest⟩ := h.1 h₀
  exact ⟨hdram, hm hregs, hrest⟩

protected theorem withCores (h : Steady s₀ s) {m : SMap Core} (hm : smWf Core.reset s.cores = true → smWf Core.reset m = true) :
    Steady s₀ { s with cores := m } := by
  refine ⟨fun h₀ => ?_, h.2⟩
  obtain ⟨hdram, hregs, hcores, hrest⟩ := h.1 h₀
  exact ⟨hdram, hregs, hm hcores, hrest⟩

protected theorem withBridges (h : Steady s₀ s) {m : SMap Bridge}
    (hm : smWf Bridge.reset s.bridges = true → smWf Bridge.reset m = true) : Steady s₀ { s with bridges := m } := by
  refine ⟨fun h₀ => ?_, h.2⟩
  obtain ⟨hdram, hregs, hcores, hbridges, hrest⟩ := h.1 h₀
  exact ⟨hdram, hregs, hcores, hm hbridges, hrest⟩

protected theorem withTiles (h : Steady s₀ s) {m : SMap Tile} (hm : smWf Tile.reset s.tiles = true → smWf Tile.reset m = true) :
    Steady s₀ { s with tiles := m } := by
  refine ⟨fun h₀ => ?_, h.2⟩
  obtain ⟨hdram, hregs, hcores, hbridges, htiles, hrest⟩ := h.1 h₀
  exact ⟨hdram, hregs, hcores, hbridges, hm htiles, hrest⟩

protected theorem withMbx (h : Steady s₀ s) {m : SMap Mailbox}
    (hm : smWf Mailbox.reset s.mbx = true → smWf Mailbox.reset m = true) : Steady s₀ { s with mbx := m } := by
  refine ⟨fun h₀ => ?_, h.2⟩
  obtain ⟨hdram, hregs, hcores, hbridges, htiles, hmbx, hrest⟩ := h.1 h₀
  exact ⟨hdram, hregs, hcores, hbridges, htiles, hm hmbx, hrest⟩

protected theorem dropSaved (h : Steady s₀ s) : Steady s₀ { s with a2Saved := [] } := by
  refine ⟨fun h₀ => ?_, h.2⟩
  obtain ⟨hdram, hregs, hcores, hbridges, htiles, hmbx, -⟩ := h.1 h₀
  exact ⟨hdram, hregs, hcores, hbridges, htiles, hmbx, rfl, fun e he => nomatch he⟩

protected theorem withFlash (h : Steady s₀ s) {f : Flash} (hf : NeverFell s { s with flash := f }) : Steady s₀ { s with flash := f } := by
  obtain ⟨hform, hu, hw, hb, hn⟩ := h
  obtain ⟨hu', hw', hb', hn'⟩ := hf
  exact ⟨hform, hu.trans hu', hw.trans hw', hb.trans hb', hn.trans hn'⟩

/-- A state with several fields of another made anew, each of them in the form. -/
protected theorem rebuilt {t : State} (h : Steady s₀ s) (dram : Memory.wf s.dram = true → Memory.wf t.dram = true := by exact id)
    (regs : smWf none s.regs = true → smWf none t.regs = true := by exact id)
    (cores : smWf Core.reset s.cores = true → smWf Core.reset t.cores = true := by exact id)
    (bridges : smWf Bridge.reset s.bridges = true → smWf Bridge.reset t.bridges = true := by exact id)
    (tiles : smWf Tile.reset s.tiles = true → smWf Tile.reset t.tiles = true := by exact id)
    (mbx : smWf Mailbox.reset s.mbx = true → smWf Mailbox.reset t.mbx = true := by exact id)
    (saved : t.a2Saved = s.a2Saved := by rfl) (flash : t.flash = s.flash := by rfl) : Steady s₀ t := by
  refine ⟨fun h₀ => ?_, by simpa only [NeverFell, flash] using h.2⟩
  obtain ⟨hdram, hregs, hcores, hbridges, htiles, hmbx, hsaved⟩ := h.1 h₀
  exact ⟨dram hdram, regs hregs, cores hcores, bridges hbridges, tiles htiles, mbx hmbx, saved ▸ hsaved⟩

-- Control ------------------------------------------------------------------------------------------------------------

protected theorem ite {c : Prop} [Decidable c] {t : State} (hs : Steady s₀ s) (ht : Steady s₀ t) : Steady s₀ (if c then s else t) := by
  split
  · exact hs
  · exact ht

protected theorem ite_fst {c : Prop} [Decidable c] {β : Type} {p q : State × β} (hp : Steady s₀ p.1) (hq : Steady s₀ q.1) :
    Steady s₀ (if c then p else q).1 := by
  split
  · exact hp
  · exact hq

protected theorem foldl {β : Type} {l : List β} {f : State → β → State} (h : Steady s₀ s)
    (hf : ∀ s x, Steady s₀ s → Steady s₀ (f s x)) : Steady s₀ (l.foldl f s) := by
  induction l generalizing s with
  | nil => exact h
  | cons x l ih => exact ih (hf s x h)

protected theorem foldl_fst {β γ : Type} {l : List β} {f : State × γ → β → State × γ} {p : State × γ} (h : Steady s₀ p.1)
    (hf : ∀ p x, Steady s₀ p.1 → Steady s₀ (f p x).1) : Steady s₀ (l.foldl f p).1 := by
  induction l generalizing p with
  | nil => exact h
  | cons x l ih => exact ih (hf p x h)

/-- The state of a pair that a function answers. -/
theorem of_eq {β : Type} {p : State × β} {t : State} {x : β} (h : Steady s₀ p.1) (he : p = (t, x)) : Steady s₀ t := by
  rwa [he] at h

end Steady

namespace SteadyOut
variable {s₀ s : State}

protected theorem next (h : Steady s₀ s) : SteadyOut s₀ (.next s) := fun _ ht => Host.Outcome.next.inj ht ▸ h
protected theorem fault {f : Fault} : SteadyOut s₀ (.fault f) := fun _ ht => nomatch ht
protected theorem refused {r : Refusal} : SteadyOut s₀ (.refused r) := fun _ ht => nomatch ht

protected theorem ite {c : Prop} [Decidable c] {a b : Out} (ha : SteadyOut s₀ a) (hb : SteadyOut s₀ b) :
    SteadyOut s₀ (if c then a else b) := by
  split
  · exact ha
  · exact hb

end SteadyOut

namespace SteadyPlan

protected theorem bad : SteadyPlan Plan.bad := fun _ _ h => h
protected theorem reading {pl : Plan} (h : SteadyPlan pl) {rs : List (Nat × List Nat)} : SteadyPlan (.reading rs pl) := h

protected theorem acts {i n x f e a r k} (he : ∀ s₀ s, Steady s₀ s → Steady s₀ (e s)) : SteadyPlan ⟨i, n, x, f, e, a, r, k⟩ := he
protected theorem still {i n x f a r k} : SteadyPlan ⟨i, n, x, f, id, a, r, k⟩ := fun _ _ h => h
protected theorem withEff {pl : Plan} (h : SteadyPlan pl) {i n x f a r k} : SteadyPlan ⟨i, n, x, f, pl.eff, a, r, k⟩ := h
protected theorem ite {c : Prop} [Decidable c] {p q : Plan} (hp : SteadyPlan p) (hq : SteadyPlan q) : SteadyPlan (if c then p else q) := by
  split
  · exact hp
  · exact hq

protected theorem onCore {c : Nat} {needs : List Need} {f : Nat → Core → Core} {faults : List Nat} :
    SteadyPlan (onCore c needs f faults) := fun _ s h => h.withCores (smWf_smSet _ s.cores c (f s.plane.cyc (coreOf s c)))

end SteadyPlan

namespace Steady
variable {s₀ s : State}

protected theorem regPut (h : Steady s₀ s) {a : Nat} {v : Word} : Steady s₀ (regPut s a v) := h.withRegs (smWf_smSet _ _ _ _)

protected theorem regPutNat (h : Steady s₀ s) {a v n : Nat} : Steady s₀ (regPutNat s a v n) := by
  induction n generalizing s a v with
  | zero => exact h
  | succ n ih => exact ih h.regPut

protected theorem regSetBits (h : Steady s₀ s) {a hi lo x : Nat} : Steady s₀ (regSetBits s a hi lo x) := h.regPutNat

protected theorem regCount (h : Steady s₀ s) {a n : Nat} : Steady s₀ (regCount s a n) := h.regPutNat

protected theorem regWrite (h : Steady s₀ s) {a : Nat} {v : Word} : Steady s₀ (regWrite s a v) := by
  unfold regWrite
  split
  · exact h
  · exact h.regPut

protected theorem clearRegs (h : Steady s₀ s) {dies : Nat → Bool} {q : Cls → Bool} : Steady s₀ (clearRegs s dies q) := by
  refine h.withRegs (smWf_regs_map (fun a v => if dies (a / 2 ^ 24) then clearedWord q a v else v) _ _ fun a v => ?_)
  cases v with
  | none => rfl
  | some v =>
    dsimp only
    split
    · simp [*]
    · simp [*]

protected theorem setCore (h : Steady s₀ s) {c : Nat} {k : Core} : Steady s₀ (setCore s c k) := h.withCores (smWf_smSet _ _ _ _)

protected theorem modCore (h : Steady s₀ s) {c : Nat} {f : Core → Core} : Steady s₀ (modCore s c f) := h.setCore

protected theorem mapCores (h : Steady s₀ s) {f : Nat → Core → Core} : Steady s₀ (mapCores s f) := .foldl h fun _ _ h => h.setCore

protected theorem emit (h : Steady s₀ s) {o : Output} : Steady s₀ (emit s o) := h.update

end Steady

namespace SteadyOut
variable {s₀ s : State}

protected theorem hostTxn (h : Steady s₀ s) {i : Instr} {f : State → State} (hf : ∀ s, Steady s₀ s → Steady s₀ (f s)) : SteadyOut s₀
    (hostTxn i s f) := .next (.ite h (.ite h.update (hf _ h)))

protected theorem mmioWrite (h : Steady s₀ s) {i : Instr} {d : Nat} {exempt : Bool} {f : State → State}
    (hf : ∀ s, Steady s₀ s → Steady s₀ (f s)) : SteadyOut s₀ (mmioWrite i d exempt s f) :=
  .ite (.next h.emit) (.hostTxn h fun _ h => .ite ((hf _ h).emit) h.emit)

end SteadyOut

namespace Steady
variable {s₀ s : State}

protected theorem doorbell (h : Steady s₀ s) {b : Nat} : Steady s₀ (doorbell s b) := h.emit

protected theorem raiseIrq (h : Steady s₀ s) {b : Nat} : Steady s₀ (raiseIrq s b) := .ite h (.ite h.regSetBits h.regSetBits.doorbell)

protected theorem powerEvent (h : Steady s₀ s) {b : Nat} : Steady s₀ (powerEvent s b) := .ite h h.regSetBits.raiseIrq

protected theorem logFault (h : Steady s₀ s) {die code cls detail n : Nat} : Steady s₀ (logFault s die code cls detail n) := by
  unfold logFault
  dsimp only
  split
  · exact h.regSetBits
  · exact .ite h.regPutNat.regSetBits h.regSetBits

protected theorem recordAs (h : Steady s₀ s) {die code cls detail : Nat} : Steady s₀ (recordAs s die code cls detail) := by
  unfold recordAs
  extract_lets a s₁ s₂ s₃ s₄
  have h₁ : Steady s₀ s₁ := .ite h.regSetBits.regSetBits.regSetBits h.regSetBits
  have h₃ : Steady s₀ s₃ := .ite h₁.regSetBits.update h₁
  exact h₃.regSetBits.logFault

protected theorem recordDie (h : Steady s₀ s) {die code detail : Nat} : Steady s₀ (recordDie s die code detail) := h.recordAs

protected theorem runEnd (h : Steady s₀ s) {result fcode : Nat} : Steady s₀ (runEnd s result fcode) := h.regPutNat.raiseIrq

protected theorem collectTile (h : Steady s₀ s) {t : Nat} : Steady s₀ (collectTile s t) := by
  unfold collectTile
  dsimp only
  split
  · exact h
  · split
    · exact .ite h.regPutNat h
    · exact h
    · exact h.logFault.update

protected theorem collectCoreFaults (h : Steady s₀ s) : Steady s₀ (collectCoreFaults s) := .foldl h fun _ _ h => h.collectTile

protected theorem haltPlane (h : Steady s₀ s) {n c code : Nat} : Steady s₀ (haltPlane s n c code) := by
  unfold haltPlane
  dsimp only
  split
  · exact h.update.runEnd.raiseIrq
  · exact .ite h.update.regSetBits h

protected theorem coreFault (h : Steady s₀ s) {c code pc n : Nat} : Steady s₀ (coreFault s c code pc n) :=
    h.modCore.haltPlane.collectCoreFaults

protected theorem voidUe (h : Steady s₀ s) : Steady s₀ (voidUe s) := .ite h h.regSetBits

protected theorem errCount (h : Steady s₀ s) {t n : Nat} : Steady s₀ (errCount s t n) := .ite h.regCount.voidUe h.regCount

protected theorem eccFlush (h : Steady s₀ s) {c : Nat} : Steady s₀ (eccFlush s c) := .ite h (.foldl h.setCore fun _ _ h => h.errCount)

protected theorem recordHalt (h : Steady s₀ s) {die code detail : Nat} : Steady s₀ (recordHalt s die code detail) :=
  .ite h.recordAs.haltPlane h.recordAs

protected theorem dramCheck (h : Steady s₀ s) {a n : Nat} : Steady s₀ (dramCheck s a n).1 := .ite_fst h (.foldl h fun _ _ h => h.errCount)

protected theorem recordDram (h : Steady s₀ s) {a cls : Nat} : Steady s₀ (recordDram s a cls) := h.recordAs

protected theorem tableRead (h : Steady s₀ s) {die arr idx held : Nat} : Steady s₀ (tableRead s die arr idx held) := by
  unfold tableRead
  extract_lets ms s₁ s₂
  have h₁ : Steady s₀ s₁ := .ite h.regCount h
  exact .ite h (.ite (Steady.ite h₁.errCount h₁.voidUe).recordHalt h₁)

protected theorem recordSram (h : Steady s₀ s) {die arr idx : Nat} : Steady s₀ (recordSram s die arr idx) := .recordAs (.ite h h.voidUe)

protected theorem bridgeCorrected (h : Steady s₀ s) {d n : Nat} : Steady s₀ (bridgeCorrected s d n) := .ite h h.regCount

protected theorem sramRead (h : Steady s₀ s) {d arr : Nat} {held : List Nat} : Steady s₀ (sramRead s d arr held).1 :=
  .ite_fst h h.update.bridgeCorrected

protected theorem takeUnitUpset (h : Steady s₀ s) {unit : Nat} : Steady s₀ (takeUnitUpset s unit).1 := by
  unfold takeUnitUpset
  dsimp only
  split
  · exact h.update
  · exact h

protected theorem unitCheck (h : Steady s₀ s) {die m : Nat} {u : Upset} : Steady s₀ (unitCheck s die m u) :=
  .ite h (.recordAs (.ite h.errCount h))

protected theorem setBridge (h : Steady s₀ s) {d : Nat} {b : Bridge} : Steady s₀ (setBridge s d b) := h.withBridges (smWf_smSet _ _ _ _)

protected theorem modBridge (h : Steady s₀ s) {d : Nat} {f : Bridge → Bridge} : Steady s₀ (modBridge s d f) := h.setBridge

protected theorem modLink (h : Steady s₀ s) {d : Nat} {f : Link → Link} : Steady s₀ (modLink s d f) := h.modBridge

protected theorem modEng (h : Steady s₀ s) {d : Nat} {f : Engine → Engine} : Steady s₀ (modEng s d f) := h.modBridge

protected theorem setTile (h : Steady s₀ s) {t : Nat} {x : Tile} : Steady s₀ (setTile s t x) := h.withTiles (smWf_smSet _ _ _ _)

protected theorem modTile (h : Steady s₀ s) {t : Nat} {f : Tile → Tile} : Steady s₀ (modTile s t f) := h.setTile

protected theorem setLinkState (h : Steady s₀ s) {d st : Nat} : Steady s₀ (setLinkState s d st) := h.regSetBits

protected theorem brgCount (h : Steady s₀ s) {d n k : Nat} : Steady s₀ (brgCount s d n k) := h.regCount

protected theorem courseRead (h : Steady s₀ s) {die n : Nat} : Steady s₀ (courseRead s die n) := h.tableRead

protected theorem routeReads (h : Steady s₀ s) {die : Nat} {f : Frame} : Steady s₀ (routeReads s die f) :=
  .ite h (.ite h.tableRead.courseRead h.tableRead)

protected theorem crossLate (h : Steady s₀ s) {t : Nat} : Steady s₀ (crossLate s t) := by
  unfold crossLate
  dsimp only
  split
  · exact h
  · refine .foldl h fun _ _ h => ?_
    split
    · exact h.setCore.regSetBits.update.coreFault
    · exact h

protected theorem meshCycle (h : Steady s₀ s) {t : Nat} : Steady s₀ (meshCycle s t) := by
  unfold meshCycle
  refine .update (.foldl (.foldl h.crossLate fun _ _ h => ?_) fun _ _ h => ?_)
  · split
    · exact h.coreFault
    · exact h
  · split
    · exact h.modCore
    · exact h

protected theorem coreSlots (h : Steady s₀ s) {n c : Nat} : Steady s₀ (coreSlots n s c) := by
  unfold coreSlots
  dsimp only
  split
  · exact h
  · refine .foldl h.setCore fun _ _ h => ?_
    split
    · exact h.dramCheck.modCore
    · exact h.withDram (memWrite_wf _ _ _)

protected theorem eccHalts (h : Steady s₀ s) {n c : Nat} : Steady s₀ (eccHalts n s c) := .ite h (.foldl h.modCore fun _ _ h => h.coreFault)

protected theorem coreCycle (h : Steady s₀ s) {n c : Nat} : Steady s₀ (coreCycle n s c) := by
  unfold coreCycle
  dsimp only
  split
  · exact h.setCore.eccFlush.eccHalts.coreFault
  · exact h.setCore.eccFlush.eccHalts

protected theorem finishSparse (h : Steady s₀ s) : Steady s₀ (finishSparse s) := .ite h (.foldl h fun _ _ h => h.modCore)

protected theorem enterCycle (h : Steady s₀ s) {n : Nat} : Steady s₀ (enterCycle s n) :=
  .meshCycle (.foldl h.update fun _ _ h => h.coreCycle.coreSlots)

protected theorem passGates (h : Steady s₀ s) {n c : Nat} : Steady s₀ (passGates n s c) := by
  unfold passGates
  dsimp only
  split
  · exact h
  · refine .foldl h.setCore fun _ _ h => ?_
    split
    · exact h.setCore.haltPlane
    · exact h.setCore

protected theorem recordTile (h : Steady s₀ s) {t code : Nat} : Steady s₀ (recordTile s t code) := h.recordDie

protected theorem recordBrg (h : Steady s₀ s) {d code : Nat} : Steady s₀ (recordBrg s d code) := h.recordDie

protected theorem poolAdd (h : Steady s₀ s) {d p : Nat} {k : ℤ} : Steady s₀ (poolAdd s d p k) := .ite h h.regSetBits

protected theorem setVoq (h : Steady s₀ s) {d q : Nat} {v : Voq} : Steady s₀ (setVoq s d q v) := h.modBridge

protected theorem setLines (h : Steady s₀ s) {d : Nat} {ls : List Nat} : Steady s₀ (setLines s d ls) := h.modBridge.regSetBits

protected theorem arriveWith (h : Steady s₀ s) {d : Nat} {p : Port} {via buf : Option Nat} {f : Frame} : Steady s₀
    (arriveWith s d p via buf f) := by
  unfold arriveWith
  dsimp only
  split
  · exact h.setBridge.brgCount.brgCount
  · exact h.setBridge.brgCount

protected theorem arriveVia (h : Steady s₀ s) {d : Nat} {p : Port} {via : Option Nat} {f : Frame} : Steady s₀ (arriveVia s d p via f) :=
    h.arriveWith

protected theorem arrive (h : Steady s₀ s) {d : Nat} {p : Port} {f : Frame} : Steady s₀ (arrive s d p f) := h.arriveVia

protected theorem inject (h : Steady s₀ s) {d : Nat} {f : Frame} : Steady s₀ (inject s d f) := h.arrive

protected theorem returnCredits (h : Steady s₀ s) {d : Nat} {e : RxEntry} : Steady s₀ (returnCredits s d e) := by
  unfold returnCredits
  split
  · exact h.modLink
  · exact h

protected theorem dropRx (h : Steady s₀ s) {d : Nat} {e : RxEntry} : Steady s₀ (dropRx s d e) := by
  unfold dropRx
  dsimp only
  split
  · exact h.modBridge.returnCredits.poolAdd
  · exact h.modBridge.returnCredits

protected theorem putRx (h : Steady s₀ s) {d : Nat} {e : RxEntry} : Steady s₀ (putRx s d e) := h.modBridge

protected theorem unreachableAt (h : Steady s₀ s) {d : Nat} {f : Frame} : Steady s₀ (unreachableAt s d f) :=
  .ite h.brgCount.inject h.brgCount.recordAs

protected theorem placeSram (h : Steady s₀ s) {d q : Nat} {e : RxEntry} {f : Frame} : Steady s₀ (placeSram s d q e f).1 := by
  unfold placeSram
  dsimp only
  split
  · exact h
  · split
    · exact h.brgCount
    · split
      · exact h.setVoq.poolAdd
      · exact h.brgCount

protected theorem joinVoq (h : Steady s₀ s) {d q : Nat} {x : Held} : Steady s₀ (joinVoq s d q x) := h.setVoq

protected theorem placeCopy (h : Steady s₀ s) {d : Nat} {e : RxEntry} {c : Copy} : Steady s₀ (placeCopy s d e c).1 := by
  unfold placeCopy
  dsimp only
  split
  · exact .ite_fst h h.joinVoq
  · exact .ite_fst h.placeSram (.ite_fst h.placeSram.setLines.modBridge.brgCount h.placeSram)

protected theorem placeAll (h : Steady s₀ s) {d : Nat} {e : RxEntry} {cs : List Copy} : Steady s₀ (placeAll s d e cs) := by
  induction cs generalizing s e with
  | nil => exact .ite h.dropRx h.putRx
  | cons c cs ih =>
    unfold placeAll
    split
    · next he => exact ih (h.placeCopy.of_eq he)
    · next he => exact .putRx (.ite (h.placeCopy.of_eq he) (h.placeCopy.of_eq he).brgCount)

protected theorem admitEntry (h : Steady s₀ s) {d : Nat} {e : RxEntry} : Steady s₀ (admitEntry s d e) := by
  unfold admitEntry
  dsimp only
  split
  · exact h.placeAll
  · split
    · exact h.dropRx.recordBrg.brgCount
    · split
      · exact h.dropRx.recordBrg.brgCount
      · split
        · exact h.dropRx.brgCount
        · split
          · exact .unreachableAt (.dropRx (.routeReads (.ite h.recordBrg.brgCount h)))
          · exact .placeAll (.ite (.brgCount (.routeReads (.ite h.recordBrg.brgCount h))) (.routeReads (.ite h.recordBrg.brgCount h)))

protected theorem retryWaiting (h : Steady s₀ s) {d : Nat} : Steady s₀ (retryWaiting s d) := .foldl h fun _ _ h => h.admitEntry

protected theorem setPort (h : Steady s₀ s) {t lc : Nat} {q : List SvcReq} : Steady s₀ (setPort s t lc q) := h.modTile

protected theorem pushSvc (h : Steady s₀ s) {a : Nat} {op : SvcOp} {src : SvcFrom} : Steady s₀ (pushSvc s a op src) := h.setPort

protected theorem spillWriteLines (h : Steady s₀ s) {d : Nat} {f : Frame} {ls : List Nat} : Steady s₀ (spillWriteLines s d f ls) :=
  .foldl h fun _ _ h => h.pushSvc

protected theorem spillLeaves (h : Steady s₀ s) {d : Nat} {x : Spilling} : Steady s₀ (spillLeaves s d x) := by
  unfold spillLeaves
  split
  · exact h
  · exact .ite h.dropRx h.putRx

protected theorem spillDone (h : Steady s₀ s) {d : Nat} : Steady s₀ (spillDone s d) := by
  unfold spillDone
  dsimp only
  split
  · exact h
  · exact h.spillWriteLines.setVoq.modBridge.spillLeaves

protected theorem freeTail (h : Steady s₀ s) {d : Nat} {x : Spilled} : Steady s₀ (freeTail s d x) := .ite h h.setLines

protected theorem startRefill (h : Steady s₀ s) {d q : Nat} {v : Voq} {x : Spilled} : Steady s₀ (startRefill s d q v x) := by
  unfold startRefill
  dsimp only
  split
  · exact h
  · split
    · exact h
    · exact .foldl h.setVoq.poolAdd fun _ _ h => h.pushSvc

protected theorem endRefill (h : Steady s₀ s) {d q : Nat} {v : Voq} {x : Spilled} {xs : List Spilled} {p : Nat} :
    Steady s₀ (endRefill s d q v x xs p) := by
  unfold endRefill
  extract_lets f v₁ s₁ bad s₂ f₂ s₃
  have h₁ : Steady s₀ s₁ := h.freeTail
  have h₂ : Steady s₀ s₂ := .ite h₁.recordBrg.brgCount h₁
  have h₃ : Steady s₀ s₃ := .ite h₂.brgCount h₂
  exact .ite h₁.setVoq.poolAdd.recordBrg.brgCount h₃.setVoq.brgCount

protected theorem refillVoq (h : Steady s₀ s) {d q : Nat} : Steady s₀ (refillVoq s d q) := by
  unfold refillVoq
  dsimp only
  split
  · exact h
  · split
    · exact h
    · split
      · exact h.setVoq
      · exact h.startRefill
      · exact .ite h.endRefill h

protected theorem consumerCheck (h : Steady s₀ s) {rec : State → Nat → State} {f : Frame} (hf : ∀ s x, Steady s₀ s → Steady s₀ (rec s x))
    : Steady s₀ (consumerCheck s rec f).1 := .ite_fst (hf _ _ h) h

protected theorem toTile (h : Steady s₀ s) {d : Nat} {rsv : Option Nat} {f : Frame} : Steady s₀ (toTile s d rsv f) :=
  .ite (.modTile (.consumerCheck h fun _ _ h => h.recordTile)) (.ite (.modTile (.consumerCheck h fun _ _ h => h.recordTile))
    (.recordTile (.consumerCheck h fun _ _ h => h.recordTile)))

protected theorem toEngine (h : Steady s₀ s) {d : Nat} {f : Frame} : Steady s₀ (toEngine s d f) :=
  .ite (.modEng (.consumerCheck h fun _ _ h => h.recordBrg.brgCount)) (.brgCount (.recordBrg
    (.consumerCheck h fun _ _ h => h.recordBrg.brgCount)))

protected theorem deliver (h : Steady s₀ s) {d o : Nat} {rsv : Option Nat} {f : Frame} : Steady s₀ (deliver s d o rsv f) := by
  unfold deliver
  split
  · split
    · refine .unreachableAt ?_
      split
      · exact h.poolAdd
      · exact h
    · exact h.toTile
  · exact .ite h.toEngine (.recordDie (.consumerCheck h fun _ _ h => h.recordDie))

protected theorem handToLink (h : Steady s₀ s) {d die q : Nat} {f : Frame} : Steady s₀ (handToLink s d die q f) :=
    h.modLink.brgCount.brgCount

protected theorem closeStreams (h : Steady s₀ s) : Steady s₀ (closeStreams s) :=
  .foldl (.foldl h fun _ _ h => .foldl h.setTile fun _ _ h => h.recordTile) fun _ _ h => .foldl h.modEng fun _ _ h => h.recordBrg

protected theorem spillInForce (h : Steady s₀ s) {d : Nat} : Steady s₀ (spillInForce s d) := h.modBridge

protected theorem stepEndFabric (h : Steady s₀ s) : Steady s₀ (stepEndFabric s) :=
  .foldl (.foldl (.foldl h fun _ _ h => h.setTile) fun _ _ h => h.modEng) fun _ _ h => h.spillInForce

protected theorem clearTokens (h : Steady s₀ s) : Steady s₀ (clearTokens s) := h.regPutNat

protected theorem drainCore (h : Steady s₀ s) {c : Nat} : Steady s₀ (drainCore s c) := .foldl h fun _ _ h => h.setCore.coreSlots

protected theorem drainMesh (h : Steady s₀ s) : Steady s₀ (drainMesh s) := by
  unfold drainMesh
  dsimp only
  refine .update (.foldl h fun _ _ h => .foldl h fun _ _ h => ?_)
  split
  · exact h.modCore
  · exact h

protected theorem drainPlane (h : Steady s₀ s) : Steady s₀ (drainPlane s) := .drainMesh (.foldl h fun _ _ h => h.drainCore)

protected theorem finishStep (h : Steady s₀ s) : Steady s₀ (finishStep s) := by
  unfold finishStep
  extract_lets s₁ bound s₂ s₃ s₄ s₅ s₆ s₇ p₈ s₉ s₁₀
  have h₂ : Steady s₀ s₂ := .ite h.collectCoreFaults.regSetBits h.collectCoreFaults
  have h₅ : Steady s₀ s₅ := .foldl h₂.mapCores.clearRegs fun _ _ h => h.regPut
  have h₉ : Steady s₀ s₉ := h₅.clearTokens.stepEndFabric.update
  exact .ite h₉.drainPlane.update.runEnd (.ite h₉.update.raiseIrq h₉)

protected theorem failStep (h : Steady s₀ s) {n : Nat} : Steady s₀ (failStep s n) := h.update.haltPlane.collectCoreFaults

protected theorem settleStep (h : Steady s₀ s) {n : Nat} : Steady s₀ (settleStep s n) := by
  unfold settleStep
  dsimp only
  split
  · exact h
  · exact .ite h (.ite h.closeStreams.failStep h.closeStreams.finishStep)

protected theorem beginHold (h : Steady s₀ s) {n : Nat} : Steady s₀ (beginHold s n) := h.update.finishSparse.regSetBits

protected theorem resumeCycle (h : Steady s₀ s) {n : Nat} : Steady s₀ (resumeCycle s n) :=
  .ite (.settleStep (.foldl h fun _ _ h => h.passGates)) (.enterCycle (.settleStep (.foldl h fun _ _ h => h.passGates)))

protected theorem testStepEnd (h : Steady s₀ s) : Steady s₀ (testStepEnd s) := .ite h.regSetBits.update h

protected theorem freeze (h : Steady s₀ s) : Steady s₀ (freeze s) := h.update.finishSparse.regSetBits.regSetBits.update

protected theorem countFrame (h : Steady s₀ s) {x : Nat} : Steady s₀ (countFrame s x) := .ite h.regCount h

protected theorem fetchLost (h : Steady s₀ s) : Steady s₀ (fetchLost s) := .foldl h fun _ _ h => .ite h.modCore.eccFlush.coreFault h

protected theorem advance (h : Steady s₀ s) : Steady s₀ (advance s) := by
  unfold advance
  extract_lets n x f s₁ s₂
  have h₂ : Steady s₀ s₂ := .ite h.testStepEnd.countFrame h.testStepEnd
  exact .ite h.freeze (.ite h.fetchLost (.ite h₂.beginHold h₂.update.finishSparse.resumeCycle))

protected theorem retestCore (h : Steady s₀ s) {c : Nat} : Steady s₀ (retestCore s c) := h.modCore

protected theorem recordSample (h : Steady s₀ s) {causes : Nat} : Steady s₀ (recordSample s causes) := by
  unfold recordSample
  refine .foldl (.foldl h.regSetBits.regPutNat fun _ _ h => ?_) fun _ _ h => .ite h.regCount h
  split
  · exact h.regPut
  · exact h.regPut

protected theorem sampleHold (h : Steady s₀ s) {x : Nat} : Steady s₀ (sampleHold s x) :=
  .update (.foldl h.update.finishSparse fun _ _ h => h.retestCore)

protected theorem decideHold (h : Steady s₀ s) {x found : Nat} : Steady s₀ (decideHold s x found) := by
  unfold decideHold
  extract_lets paused causes p₀ s₁ s₂ p₂ s₃
  have h₁ : Steady s₀ s₁ := h.update.finishSparse.countFrame.recordSample
  exact .ite (.ite h₁.resumeCycle h₁) h₁.regSetBits.update.resumeCycle

protected theorem releaseSample (h : Steady s₀ s) : Steady s₀ (releaseSample s) := by
  unfold releaseSample
  dsimp only
  split
  · exact .ite h.decideHold h.sampleHold
  · exact h.sampleHold

protected theorem advanceToHold (h : Steady s₀ s) {f : Nat} : Steady s₀ (advanceToHold f s) := by
  induction f generalizing s with
  | zero => exact h
  | succ f ih => exact .ite (ih h.advance) h

protected theorem advanceTo (h : Steady s₀ s) {x f : Nat} : Steady s₀ (advanceTo x f s) := by
  induction f generalizing s with
  | zero => exact h
  | succ f ih => exact .ite (ih h.advance) h

end Steady

namespace SteadyPlan

protected theorem residue {m : Nat} {plan : State → Core → Plan} {s : State} {k : Core} (hp : SteadyPlan (plan s k)) :
    SteadyPlan (residue m plan s k) := hp

end SteadyPlan

namespace Steady
variable {s₀ s : State}

protected theorem openIssue (h : Steady s₀ s) {c : Nat} : Steady s₀ (openIssue s c) := .ite h.advance h

protected theorem stepSkew (h : Steady s₀ s) {n : Nat} : Steady s₀ (stepSkew s n) :=
  .collectCoreFaults (.foldl h.update fun _ _ h => h.setCore.haltPlane)

protected theorem noteIssue (h : Steady s₀ s) {c : Nat} {isEnd : Bool} : Steady s₀ (noteIssue s c isEnd) := h.update

protected theorem runChecked (h : Steady s₀ s) {c n pc : Nat} {pl : Plan} (hp : SteadyPlan pl) : Steady s₀ (runChecked s c n pc pl) := by
  unfold runChecked
  dsimp only
  split
  · exact hp _ _ h
  · exact (hp _ _ h).setCore.eccFlush

protected theorem runPlan (h : Steady s₀ s) {c n pc : Nat} {pl : Plan} (hp : SteadyPlan pl) : Steady s₀ (runPlan s c n pc pl) :=
  .ite (hp _ _ h) (.ite (.ite h.setCore.eccFlush.coreFault h.setCore.setCore.eccFlush) (h.setCore.eccFlush.runChecked hp))

protected theorem issueNow (h : Steady s₀ s) {c : Nat} {p : Pred} {isEnd : Bool} {plan : State → Core → Plan}
    (hp : ∀ s k, SteadyPlan (plan s k)) : Steady s₀ (issueNow s c p isEnd plan) := by
  have hn : Steady s₀ (noteIssue s c isEnd) := h.noteIssue
  unfold issueNow
  exact .ite h.coreFault (.ite (.ite hn.modCore.coreFault.stepSkew hn.modCore.coreFault)
    (.ite hn.stepSkew (.ite (hn.setCore.runPlan (hp _ _)) hn.setCore)))

end Steady

namespace SteadyOut
variable {s₀ s : State}

protected theorem issue (h : Steady s₀ s) {c : Nat} {p : Pred} {plan : State → Core → Plan} (hp : ∀ s k, SteadyPlan (plan s k)) :
    SteadyOut s₀ (issue c p plan s) := .ite .refused (.next (.ite (h.openIssue.issueNow hp) h.openIssue))

end SteadyOut

namespace Steady
variable {s₀ s : State}

protected theorem overfill (h : Steady s₀ s) {c b : Nat} : Steady s₀ (overfill s c b) := h.modCore.recordTile

protected theorem landAt (h : Steady s₀ s) {c b a : Nat} {bs : List Byte} : Steady s₀ (landAt s c b a bs) := .ite h.overfill h.setCore

protected theorem landCount (h : Steady s₀ s) {c b n : Nat} : Steady s₀ (landCount s c b n) := .ite h.overfill h.setCore

protected theorem setRule (h : Steady s₀ s) {c b : Nat} {r : LandRule} : Steady s₀ (setRule s c b r) := h.modCore

protected theorem popFrm (h : Steady s₀ s) {t : Nat} {f : Frame} : Steady s₀ (popFrm s t f) := h.modTile

end Steady

namespace SteadyOut
variable {s₀ s : State}

protected theorem tileCmd (h : Steady s₀ s) {t : Nat} {f : State → State} (hf : ∀ s, Steady s₀ s → Steady s₀ (f s)) : SteadyOut s₀
    (tileCmd t s f) := .ite .refused (.next (.ite (hf _ h) h))

protected theorem coreCmd (h : Steady s₀ s) {c : Nat} {f : State → State} (hf : ∀ s, Steady s₀ s → Steady s₀ (f s)) : SteadyOut s₀
    (coreCmd c s f) := .ite .refused (.next (.ite (hf _ h) h))

end SteadyOut

namespace Steady
variable {s₀ s : State}

protected theorem landSend (h : Steady s₀ s) {f : Frame} : Steady s₀ (landSend s f) := h.landAt

end Steady

namespace SteadyOut
variable {s₀ s : State}

protected theorem execFrameLand (h : Steady s₀ s) {t : Nat} : SteadyOut s₀ (execFrameLand t s) := by
  unfold execFrameLand
  dsimp only
  refine .tileCmd h fun _ h => ?_
  split
  · exact h
  · exact .ite h (.foldl (.ite h.popFrm.modTile.recordTile h.popFrm.modTile) fun _ _ h => h.landSend)

end SteadyOut

namespace Steady
variable {s₀ s : State}

protected theorem engineSends (h : Steady s₀ s) {d : Nat} {fs : List Frame} : Steady s₀ (engineSends s d fs) :=
  .foldl h fun _ _ h => h.inject

protected theorem setSched (h : Steady s₀ s) {d o : Nat} {x : Sched} : Steady s₀ (setSched s d o x) := h.modBridge

protected theorem restVoqs (h : Steady s₀ s) {d : Nat} : Steady s₀ (restVoqs s d) := .foldl h fun _ _ h => .ite h.setVoq h

protected theorem restSched (h : Steady s₀ s) {d o : Nat} : Steady s₀ (restSched s d o) := .ite h (.ite h.setSched.regPutNat h.setSched)

protected theorem dropFlight (h : Steady s₀ s) {d o : Nat} {gone : InFlight → Bool} : Steady s₀ (dropFlight s d o gone) := by
  unfold dropFlight
  dsimp only
  refine .foldl h.setSched fun _ _ h => ?_
  split
  · exact .poolAdd (.ite h.modLink h)
  · exact .ite h.modLink h

protected theorem dropFlights (h : Steady s₀ s) {gone : InFlight → Bool} : Steady s₀ (dropFlights s gone) :=
  .foldl h fun _ _ h => .foldl h fun _ _ h => h.dropFlight

protected theorem restQueues (h : Steady s₀ s) : Steady s₀ (restQueues s) :=
  .foldl (.foldl h fun _ _ h => h.restVoqs) fun _ _ h => .foldl h fun _ _ h => h.restSched

end Steady

namespace SteadyOut
variable {s₀ s : State}

protected theorem bridgeCmd (h : Steady s₀ s) {d : Nat} {f : State → State} (hf : ∀ s, Steady s₀ s → Steady s₀ (f s)) : SteadyOut s₀
    (bridgeCmd d s f) := .ite (.next (.ite (hf _ h) h)) .refused

end SteadyOut

namespace Steady
variable {s₀ s : State}

protected theorem putBack (h : Steady s₀ s) {x : Sent} : Steady s₀ (putBack s x) := h.setVoq

protected theorem sentFrames (h : Steady s₀ s) {d n : Nat} {xs : List Sent} : Steady s₀ (sentFrames s d n xs) := by
  induction xs generalizing n with
  | nil => exact h
  | cons x xs ih => exact .ite ih (.ite ih.putBack ih.recordBrg)

protected theorem moveHeld (h : Steady s₀ s) {d : Nat} {p : Port} {x : Held} : Steady s₀ (moveHeld s d p x) := by
  unfold moveHeld
  split
  · exact h.joinVoq
  · exact h.poolAdd.unreachableAt

protected theorem moveSpilled (h : Steady s₀ s) {d : Nat} {p : Port} {x : Spilled} : Steady s₀ (moveSpilled s d p x) := by
  unfold moveSpilled
  dsimp only
  split
  · exact h.moveHeld
  · exact h.setVoq
  · exact h.freeTail.unreachableAt

protected theorem moveVoqs (h : Steady s₀ s) {d o : Nat} {p : Port} : Steady s₀ (moveVoqs s d o p) := by
  unfold moveVoqs
  refine .foldl h fun _ _ h => .ite h.setVoq (.foldl (.foldl ?_ fun _ _ h => h.moveHeld) fun _ _ h => h.moveSpilled)
  split
  · exact h.setVoq.poolAdd
  · exact h.setVoq

protected theorem moveWaiting (h : Steady s₀ s) {d o : Nat} : Steady s₀ (moveWaiting s d o) :=
  .foldl h fun _ _ h => .ite (.foldl (.ite h.dropRx h.putRx) fun _ _ h => h.unreachableAt) h

protected theorem moveSpilling1 (h : Steady s₀ s) {d o : Nat} {x : Spilling} : Steady s₀ (moveSpilling1 s d o x) := by
  unfold moveSpilling1
  dsimp only
  split
  · split
    · exact h.modBridge
    · exact h.setLines.spillLeaves.unreachableAt
  · exact h.modBridge

protected theorem moveSpilling (h : Steady s₀ s) {d o : Nat} : Steady s₀ (moveSpilling s d o) :=
  .foldl h.modBridge fun _ _ h => h.moveSpilling1

protected theorem loseFrames (h : Steady s₀ s) {d : Nat} : Steady s₀ (loseFrames s d) :=
  .foldl h.modLink.modBridge.sentFrames fun _ _ h => h.moveVoqs.moveVoqs.moveWaiting.moveSpilling

protected theorem dropLinkRx (h : Steady s₀ s) {d : Nat} : Steady s₀ (dropLinkRx s d) :=
  .modBridge (.ite h.dropFlights h.dropFlights.setLines)

protected theorem clearL (h : Steady s₀ s) {d : Nat} {keep : Bool} : Steady s₀ (clearL s d keep) := .ite h.clearRegs.regPut h.clearRegs

protected theorem departUp (h : Steady s₀ s) {d : Nat} {next : State → Nat → Nat} : Steady s₀ (departUp s d next) :=
    h.regSetBits.regSetBits.setLinkState.loseFrames.dropLinkRx.modLink.clearL.restQueues.setLinkState.raiseIrq

protected theorem restartTraining (h : Steady s₀ s) {d : Nat} : Steady s₀ (restartTraining s d) := .ite h.departUp h.modLink.setLinkState

protected theorem linkReset (h : Steady s₀ s) {d : Nat} : Steady s₀ (linkReset s d) :=
  .setLinkState (.clearL (.restQueues (.modLink (.dropLinkRx (.ite h.departUp h)))))

protected theorem disableLink (h : Steady s₀ s) {d : Nat} : Steady s₀ (disableLink s d) := h.departUp

protected theorem mismatch (h : Steady s₀ s) {d : Nat} : Steady s₀ (mismatch s d) :=
  .ite h.setLinkState.regSetBits.recordBrg.raiseIrq h.setLinkState

protected theorem sendGroup (h : Steady s₀ s) {d : Nat} : Steady s₀ (sendGroup s d) :=
  .ite (.ite h.modLink.emit.disableLink h.modLink.emit) (.ite (.ite h.modLink.emit.mismatch h.modLink.emit) h)

protected theorem lcount (h : Steady s₀ s) {d n k : Nat} : Steady s₀ (lcount s d n k) := h.regCount

protected theorem takeFlit (h : Steady s₀ s) {d : Nat} {w : BitVec 512} : Steady s₀ (takeFlit s d w) := .ite h.modLink h.modLink.arrive

protected theorem retryLimit (h : Steady s₀ s) {d : Nat} : Steady s₀ (retryLimit s d) := h.recordBrg.departUp

protected theorem takeControl (h : Steady s₀ s) {d ctl : Nat} : Steady s₀ (takeControl s d ctl) :=
  .ite (.ite h.modLink.modLink h.modLink) (.ite (.retryLimit (.lcount (.modLink (.ite h.modLink.modLink h.modLink)))) (.lcount
    (.modLink (.ite h.modLink.modLink h.modLink))))

protected theorem failGroup (h : Steady s₀ s) {d : Nat} {atExpected : Bool} {flits : Nat} : Steady s₀ (failGroup s d atExpected flits) :=
  .ite h.lcount (.ite h.lcount.modLink.retryLimit h.lcount.modLink)

protected theorem groupUp (h : Steady s₀ s) {d : Nat} {g : Group} : Steady s₀ (groupUp s d g) :=
  .ite h.failGroup (.ite h.failGroup (.ite h.takeControl (.foldl h.takeControl.modLink fun _ _ h => h.takeFlit)))

protected theorem judge (h : Steady s₀ s) {d w : Nat} : Steady s₀ (judge s d w) := h.regPutNat.regPutNat.modLink

protected theorem enterUp (h : Steady s₀ s) {d : Nat} : Steady s₀ (enterUp s d) := h.modLink.setLinkState

protected theorem groupExchange (h : Steady s₀ s) {d : Nat} {g : Group} : Steady s₀ (groupExchange s d g) := by
  unfold groupExchange
  extract_lets ctl w kind v s₁ l
  have h₁ : Steady s₀ s₁ := by
    unfold s₁
    clear_value kind
    split
    · exact h
    · exact h.judge
    · exact h.modLink
  exact .ite (.ite h.enterUp.groupUp h) (.ite h₁.mismatch (.ite h₁.enterUp h₁))

protected theorem receiveGroup (h : Steady s₀ s) {d : Nat} {g : Group} : Steady s₀ (receiveGroup s d g) :=
  .ite h.lcount.lcount.groupUp (.ite (.ite h.lcount.lcount.lcount h.lcount.lcount.groupExchange) h.lcount.lcount)

end Steady

namespace SteadyOut
variable {s₀ s : State}

protected theorem bridgeWrite (h : Steady s₀ s) {i : Instr} {d : Nat} {f : State → State} (hf : ∀ s, Steady s₀ s → Steady s₀ (f s))
    : SteadyOut s₀ (bridgeWrite i d s f) := .ite (.mmioWrite h fun _ h => hf _ h) .refused

end SteadyOut

namespace Steady
variable {s₀ s : State}

protected theorem enableLink (h : Steady s₀ s) {d : Nat} : Steady s₀ (enableLink s d) := .ite h h.regSetBits.restartTraining

end Steady

namespace SteadyOut
variable {s₀ s : State}

protected theorem execLinkEnable (h : Steady s₀ s) {d : Nat} : SteadyOut s₀ (execLinkEnable d s) := .bridgeWrite h fun _ h => h.enableLink

end SteadyOut

namespace Steady
variable {s₀ s : State}

protected theorem clearEnable (h : Steady s₀ s) {d : Nat} : Steady s₀ (clearEnable s d) :=
  .ite (.ite h.regSetBits.disableLink h.regSetBits.modLink) h.regSetBits.modLink.setLinkState

end Steady

namespace SteadyOut
variable {s₀ s : State}

protected theorem execLinkDisable (h : Steady s₀ s) {d : Nat} : SteadyOut s₀ (execLinkDisable d s) :=
  .bridgeWrite h fun _ h => h.clearEnable

protected theorem execLinkRetrain (h : Steady s₀ s) {d : Nat} : SteadyOut s₀ (execLinkRetrain d s) := .bridgeWrite h fun _ h => h.linkReset

end SteadyOut

namespace Steady
variable {s₀ s : State}

protected theorem linkCtlWrite (h : Steady s₀ s) {d v : Nat} : Steady s₀ (linkCtlWrite s d v) :=
  .ite (.linkReset (.ite h.regSetBits.enableLink (.ite h.regSetBits.clearEnable h.regSetBits))) (.ite h.regSetBits.enableLink
    (.ite h.regSetBits.clearEnable h.regSetBits))

protected theorem linkConfigWrite (h : Steady s₀ s) {d : Nat} {r : LinkReg} {v : Nat} : Steady s₀ (linkConfigWrite s d r v) :=
  .ite (.restartTraining (.foldl h fun _ _ h => h.regWrite)) (.foldl h fun _ _ h => h.regWrite)

end Steady

namespace SteadyOut
variable {s₀ s : State}

protected theorem execLinkConfigWrite (h : Steady s₀ s) {d : Nat} {r : LinkReg} {v : BitVec 64} : SteadyOut s₀
    (execLinkConfigWrite d r v s) := .bridgeWrite h fun _ h => h.linkConfigWrite

protected theorem execLinkLock (h : Steady s₀ s) {d : Nat} : SteadyOut s₀ (execLinkLock d s) :=
  .bridgeCmd h fun _ h => .ite h.modLink.setLinkState h

protected theorem execLinkGroupSend (h : Steady s₀ s) {d : Nat} : SteadyOut s₀ (execLinkGroupSend d s) :=
  .bridgeCmd h fun _ h => h.sendGroup

protected theorem execLinkGroupReceive (h : Steady s₀ s) {d : Nat} {g : Group} : SteadyOut s₀ (execLinkGroupReceive d g s) :=
  .ite .refused (.ite .fault (.ite (.next h.lcount) (.next (.ite h.receiveGroup h))))

protected theorem execLinkSignalLoss (h : Steady s₀ s) {d : Nat} : SteadyOut s₀ (execLinkSignalLoss d s) :=
  .bridgeCmd h fun _ h => .ite h.departUp (.ite h.modLink.setLinkState h)

end SteadyOut

namespace Steady
variable {s₀ s : State}

protected theorem sadCount (h : Steady s₀ s) {d n : Nat} : Steady s₀ (sadCount s d n) := h.regCount

protected theorem sadSpan (h : Steady s₀ s) {d : Nat} : Steady s₀ (sadSpan s d) := h.recordBrg.sadCount

protected theorem sadProg (h : Steady s₀ s) {d : Nat} : Steady s₀ (sadProg s d) := h.recordBrg.sadCount

protected theorem sadSize (h : Steady s₀ s) {d : Nat} : Steady s₀ (sadSize s d) := h.recordBrg.sadCount

protected theorem markSlot (h : Steady s₀ s) {d step prog : Nat} : Steady s₀ (markSlot s d step prog) := .ite h h.modEng

protected theorem useSlot (h : Steady s₀ s) {d : Nat} {key : CollKey} {prog : Nat} {applies : Bool} : Steady s₀
    (useSlot s d key prog applies) := .ite h (.ite h.markSlot h.markSlot.modEng.sadProg)

protected theorem forwardPart (h : Steady s₀ s) {d : Nat} {e : Course} {p : Partial} : Steady s₀ (forwardPart s d e p) := h.engineSends

protected theorem finishPart (h : Steady s₀ s) {d : Nat} {e : Course} {p : Partial} : Steady s₀ (finishPart s d e p) := by
  unfold finishPart
  dsimp only
  split
  · exact h.engineSends
  · split
    · exact h.sadCount.engineSends
    · exact h.sadCount.engineSends

protected theorem dropPart (h : Steady s₀ s) {d : Nat} {p : Partial} : Steady s₀ (dropPart s d p) := h.modEng

protected theorem holdPart (h : Steady s₀ s) {d : Nat} {p : Partial} : Steady s₀ (holdPart s d p) := h.modEng

protected theorem promotePart (h : Steady s₀ s) {d : Nat} {p : Partial} : Steady s₀ (promotePart s d p) := h.dropPart.holdPart.sadCount

protected theorem engineUpset (h : Steady s₀ s) {d wire : Nat} {xs : List Nat} : Steady s₀ (engineUpset s d wire xs).1 := by
  unfold engineUpset
  split
  · next he => exact (h.takeUnitUpset.of_eq he).unitCheck
  · next he => exact h.takeUnitUpset.of_eq he

protected theorem combinePart (h : Steady s₀ s) {d : Nat} {l r : Partial} : Steady s₀ (combinePart s d l r) := by
  unfold combinePart
  dsimp only
  split
  · exact .sadCount (.holdPart (.ite (.sadSize (.ite h.dropPart.dropPart.recordBrg h.dropPart.dropPart))
    (.ite h.dropPart.dropPart.recordBrg h.dropPart.dropPart)))
  · exact .sadCount (.holdPart (.engineUpset (.ite h.dropPart.dropPart.recordBrg h.dropPart.dropPart)))

protected theorem settlePart (h : Steady s₀ s) {d : Nat} {e : Course} {p : Partial} {t : State} (he : settlePart s d e p = some t) :
    Steady s₀ t := by
  unfold settlePart at he
  extract_lets top a root sib at he
  split at he
  · split at he
    · exact Option.some.inj he ▸ h.promotePart
    · split at he
      · exact Option.some.inj he ▸ .ite h.combinePart h.combinePart
      · split at he
        · cases he
        · exact Option.some.inj he ▸ h.dropPart.forwardPart.sadCount
  · split at he
    · exact Option.some.inj he ▸ h.dropPart.finishPart
    · cases he

protected theorem settleFirst (h : Steady s₀ s) {d : Nat} {e : Course} {ps : List Partial} {t : State}
    (he : settleFirst s d e ps = some t) : Steady s₀ t := by
  induction ps with
  | nil => cases he
  | cons p ps ih =>
    unfold settleFirst at he
    split at he
    · next hp => exact Option.some.inj he ▸ h.settlePart hp
    · exact ih he

protected theorem settle (h : Steady s₀ s) {d : Nat} {e : Course} {key : CollKey} {n : Nat} : Steady s₀ (settle d e key n s) := by
  induction n generalizing s with
  | zero => exact h
  | succ n ih =>
    unfold settle
    split
    · next he => exact ih (h.settleFirst he)
    · exact h

protected theorem takePart (h : Steady s₀ s) {d : Nat} {e : Course} {p : Partial} : Steady s₀ (takePart s d e p) :=
  .ite h.sadSpan h.holdPart.settle

protected theorem findPlace (h : Steady s₀ s) {d : Nat} {slot : Option Nat} {f : Frame} : Steady s₀ (findPlace s d slot f).1 := by
  unfold findPlace
  dsimp only
  split
  · exact h
  · exact .ite_fst h (.ite_fst h.setLines.sadCount.spillWriteLines h)

protected theorem stageFrame (h : Steady s₀ s) {slot : Frame → Option Nat} {d : Nat} {f : Frame} : Steady s₀ (stageFrame slot d s f) :=
    h.findPlace.modEng

protected theorem keepPlaces (h : Steady s₀ s) {d : Nat} {keep : Frame → Bool} : Steady s₀ (keepPlaces s d keep) :=
  .modEng (.ite h h.setLines)

protected theorem restage (h : Steady s₀ s) {d : Nat} {slot : Frame → Option Nat} : Steady s₀ (restage s d slot) :=
  .regSetBits (.regSetBits (.regSetBits (.foldl h.keepPlaces fun _ _ h => h.stageFrame)))

protected theorem refillTokens (h : Steady s₀ s) {d base c : Nat} {sh : Shaper} : Steady s₀ (refillTokens s d base c sh) :=
  .ite h h.regPutNat

protected theorem debit (h : Steady s₀ s) {d base c : Nat} {sh : Shaper} {t b : Nat} : Steady s₀ (debit s d base c sh t b) :=
  .ite h h.regPutNat

protected theorem committedTokens (h : Steady s₀ s) {d base c : Nat} {full : Bool} {sh : Shaper} : Steady s₀
    (committedTokens s d base c full sh) := h.regPutNat

protected theorem commitShapers (h : Steady s₀ s) {d base mask : Nat} {full : Bool} {old : List Shaper} :
    Steady s₀ (commitShapers s d base mask full old).1 :=
  .foldl_fst h fun _ _ h => .ite_fst h.committedTokens h

protected theorem shaperWrite (h : Steady s₀ s) {d v : Nat} : Steady s₀ (shaperWrite s d v) := h.commitShapers.modBridge

end Steady

namespace SteadyOut
variable {s₀ s : State}

protected theorem execShaperCommit (h : Steady s₀ s) {d : Nat} {v : BitVec 32} : SteadyOut s₀ (execShaperCommit d v s) :=
  .bridgeWrite h fun _ h => h.shaperWrite

end SteadyOut

namespace Steady
variable {s₀ s : State}

protected theorem wakeVoqs (h : Steady s₀ s) {u : BitVec 48} {ks : List Cand} : Steady s₀ (wakeVoqs s u ks) :=
  .foldl h fun _ _ h => .ite h h.setVoq

protected theorem wakeAll (h : Steady s₀ s) {d o : Nat} : Steady s₀ (wakeAll s d o) :=
  .foldl h fun _ _ h => .ite h (.ite h.wakeVoqs h.wakeVoqs.setSched)

protected theorem markHead (h : Steady s₀ s) {k : Cand} {sel stall red : Bool} : Steady s₀ (markHead s k sel stall red) := by
  unfold markHead
  dsimp only
  split
  · exact h.modBridge
  · exact h.setVoq

protected theorem countStalls (h : Steady s₀ s) {d o c : Nat} : Steady s₀ (countStalls s d o c) :=
  .ite h (.foldl h fun _ _ h => .ite h h.markHead.brgCount)

protected theorem advanceTags (h : Steady s₀ s) {d o c : Nat} {k : Cand} : Steady s₀ (advanceTags s d o c k) :=
  .ite h.setVoq.setSched.regPutNat h.setVoq.setSched

protected theorem takeSelected (h : Steady s₀ s) {d o : Nat} {k : Cand} : Steady s₀ (takeSelected s d o k) := by
  unfold takeSelected
  dsimp only
  refine .setSched ?_
  split
  · exact .poolAdd (.ite h.markHead.modLink h.markHead)
  · exact .ite h.markHead.modLink h.markHead

protected theorem ringMove (h : Steady s₀ s) {d o : Nat} : Steady s₀ (ringMove s d o) := .ite h h.setSched

protected theorem shpCount (h : Steady s₀ s) {d n : Nat} : Steady s₀ (shpCount s d n) := h.regCount

protected theorem selectOut (h : Steady s₀ s) {d o : Nat} : Steady s₀ (selectOut s d o) := by
  unfold selectOut
  extract_lets s₁ s₂ s₃ s₄ picks s₅
  have h₂ : Steady s₀ s₂ := .ite (.foldl h.ringMove fun _ _ h => h.refillTokens) h.ringMove
  have h₄ : Steady s₀ s₄ := .foldl h₂.wakeAll fun _ _ h => h.countStalls
  have h₅ : Steady s₀ s₅ := .foldl h₄ fun _ _ h => .ite h.markHead.shpCount h
  refine .ite h₄ ?_
  split
  · exact h₅
  · exact (Steady.ite h₅.debit.shpCount h₅).takeSelected.advanceTags

protected theorem unbuffer (h : Steady s₀ s) {x : InFlight} : Steady s₀ (unbuffer s x).1 := by
  unfold unbuffer
  dsimp only
  split
  · split
    · exact h.dropRx
    · exact h
  · split
    · exact h.setVoq.poolAdd
    · exact h

protected theorem departFrame (h : Steady s₀ s) {d o : Nat} {i : InFlight} {f : Frame} : Steady s₀ (departFrame s d o i f) := by
  unfold departFrame
  dsimp only
  split
  · split
    · exact h.sramRead.recordBrg.brgCount.recordSram.modLink
    · split
      · exact h.sramRead.recordBrg.brgCount.recordSram.poolAdd
      · exact h.sramRead.recordBrg.brgCount.recordSram
  · exact .ite (.handToLink (.ite h.sramRead.recordSram h.sramRead)) (.deliver (.ite h.sramRead.recordSram h.sramRead))

protected theorem departOut (h : Steady s₀ s) {d o : Nat} : Steady s₀ (departOut s d o) := by
  unfold departOut
  dsimp only
  split
  · exact h
  · split
    · exact h.setSched.unbuffer
    · exact h.setSched.unbuffer.departFrame

end Steady

namespace SteadyOut
variable {s₀ s : State}

protected theorem execFrameAdmit (h : Steady s₀ s) {d : Nat} {port : Port} {v : Nat} : SteadyOut s₀ (execFrameAdmit d port v s) := by
  unfold execFrameAdmit
  split
  · exact .refused
  · refine .bridgeCmd h fun _ h => ?_
    split
    · exact .ite h h.admitEntry
    · exact h

protected theorem execFrameAdmitRetry (h : Steady s₀ s) {d : Nat} : SteadyOut s₀ (execFrameAdmitRetry d s) :=
  .bridgeCmd h fun _ h => h.retryWaiting

protected theorem execSpillAdmit (h : Steady s₀ s) {d : Nat} : SteadyOut s₀ (execSpillAdmit d s) := .bridgeCmd h fun _ h => h.spillDone

protected theorem execRefill (h : Steady s₀ s) {d q : Nat} : SteadyOut s₀ (execRefill d q s) :=
  .ite .refused (.bridgeCmd h fun _ h => h.refillVoq.restQueues)

protected theorem execEgressSelect (h : Steady s₀ s) {d o : Nat} : SteadyOut s₀ (execEgressSelect d o s) :=
  .ite .refused (.bridgeCmd h fun _ h => h.selectOut)

protected theorem execFrameDepart (h : Steady s₀ s) {d o : Nat} : SteadyOut s₀ (execFrameDepart d o s) :=
  .ite .refused (.bridgeCmd h fun _ h => h.departOut)

end SteadyOut

namespace Steady
variable {s₀ s : State}

protected theorem discardVoq (h : Steady s₀ s) {d q : Nat} : Steady s₀ (discardVoq s d q) := by
  unfold discardVoq
  refine .ite h (.brgCount (.foldl (.foldl ?_ fun _ _ h => h.poolAdd) fun _ _ h => .freeTail ?_))
  · split
    · exact h.setVoq.poolAdd
    · exact h.setVoq
  · split
    · exact h.poolAdd
    · exact h

protected theorem discardFrames (h : Steady s₀ s) {d : Nat} : Steady s₀ (discardFrames s d) := by
  unfold discardFrames
  extract_lets s₁ b gone s₂ s₃ s₄ sp s₅
  have h₂ : Steady s₀ s₂ := .foldl h.dropFlights fun _ _ h => h.dropRx
  have h₄ : Steady s₀ s₄ := .foldl h₂.brgCount fun _ _ h => h.discardVoq
  have h₅ : Steady s₀ s₅ := .ite h₄ h₄.setLines
  exact h₅.modBridge

protected theorem discardRetry (h : Steady s₀ s) {d : Nat} : Steady s₀ (discardRetry s d) := h.modLink.brgCount

protected theorem epochBridge (h : Steady s₀ s) {d v : Nat} : Steady s₀ (epochBridge s d v) := h.regSetBits.discardFrames.discardRetry

end Steady

namespace SteadyPlan

protected theorem aluRR {c t : Nat} {op : Word → Word → Word} {f : FmtR} {s : State} {k : Core} : SteadyPlan (aluRR c t op f s k) := by
  unfold aluRR
  refine .reading ?_
  split
  · exact .onCore
  · exact .bad

protected theorem aluRI {c : Nat} {op : Word → Word → Word} {f : FmtI} {s : State} {k : Core} : SteadyPlan (aluRI c op f s k) := by
  unfold aluRI
  refine .reading ?_
  split
  · exact .onCore
  · exact .bad

protected theorem predRR {c : Nat} {op : Bool → Bool → Bool} {f : FmtR} {s : State} {k : Core} : SteadyPlan (predRR c op f s k) := by
  unfold predRR
  split
  · exact .onCore
  · exact .bad

protected theorem planLi {c : Nat} {f : FmtI} {s : State} {k : Core} : SteadyPlan (planLi c f s k) := by
  unfold planLi
  split
  · exact .onCore
  · exact .bad

protected theorem planIcmp {c : Nat} {f : FmtR} {s : State} {k : Core} : SteadyPlan (planIcmp c f s k) := by
  unfold planIcmp
  split
  · split
    · exact .reading .onCore
    · exact .bad
  · exact .bad

protected theorem planPnot {c : Nat} {f : FmtR} {s : State} {k : Core} : SteadyPlan (planPnot c f s k) := by
  unfold planPnot
  split
  · exact .onCore
  · exact .bad

protected theorem planCsrr {c : Nat} {f : FmtI} {s : State} {k : Core} : SteadyPlan (planCsrr c f s k) := by
  unfold planCsrr
  dsimp only
  split
  · exact .bad
  · split
    · exact .bad
    · exact .onCore

protected theorem planCsrw {c : Nat} {f : FmtI} {s : State} {k : Core} : SteadyPlan (planCsrw c f s k) := by
  unfold planCsrw
  split
  · exact .bad
  · split
    · exact .bad
    · exact .reading .onCore

protected theorem planRdid {c : Nat} {f : FmtI} {s : State} {k : Core} : SteadyPlan (planRdid c f s k) := by
  unfold planRdid
  dsimp only
  split
  · split
    · exact .onCore
    · exact .bad
  · split
    · exact .onCore
    · exact .bad
  · split
    · exact .onCore
    · exact .bad
  · split
    · exact .onCore
    · exact .bad
  · split
    · exact .onCore
    · exact .bad
  · exact .bad

protected theorem planBr {c : Nat} {f : FmtC} {s : State} {k : Core} : SteadyPlan (planBr c f s k) := .onCore

protected theorem planBrr {c : Nat} {f : FmtC} {s : State} {k : Core} : SteadyPlan (planBrr c f s k) := by
  unfold planBrr
  dsimp only
  split
  · exact .bad
  · exact .reading .onCore

end SteadyPlan

namespace Steady
variable {s₀ s : State}

protected theorem haltFence (h : Steady s₀ s) {n : Nat} : Steady s₀ (haltFence s n) := h.mapCores

end Steady

namespace SteadyPlan

protected theorem planHalt {c : Nat} {s : State} {k : Core} : SteadyPlan (planHalt c s k) :=
  .acts fun _ _ h => .ite h.modCore.update.haltFence h.modCore

protected theorem planGate {c : Nat} {f : FmtC} {s : State} {k : Core} : SteadyPlan (planGate c f s k) := by
  unfold planGate
  dsimp only
  exact .onCore

protected theorem planCapo {c : Nat} {s : State} {k : Core} : SteadyPlan (planCapo c s k) := .onCore

protected theorem planStepend {c : Nat} {s : State} {k : Core} : SteadyPlan (planStepend c s k) := .acts fun _ _ h => h.modCore.update

end SteadyPlan

namespace SteadyOut
variable {s₀ s : State}

protected theorem execStepend (h : Steady s₀ s) {c : Nat} {p : Pred} {f : FmtC} : SteadyOut s₀ (execStepend c p f s) :=
  .ite .refused (.next (.ite (.issueNow h.openIssue fun _ _ => .planStepend) h.openIssue))

end SteadyOut

namespace SteadyPlan

protected theorem fpPlan {c ar : Nat} {dv : Bool} {op : FpOp} {f : FmtR} {s : State} {k : Core} : SteadyPlan (fpPlan c ar dv op f s k) := by
  unfold fpPlan
  dsimp only
  split
  · split
    · exact .reading .onCore
    · exact .bad
  · exact .bad

protected theorem planFcmp {c : Nat} {f : FmtR} {s : State} {k : Core} : SteadyPlan (planFcmp c f s k) := by
  unfold planFcmp
  split
  · split
    · exact .reading .onCore
    · exact .bad
  · exact .bad

protected theorem planFcvt {c : Nat} {f : FmtR} {s : State} {k : Core} : SteadyPlan (planFcvt c f s k) := by
  unfold planFcvt
  dsimp only
  split
  · split
    · exact .bad
    · split
      · exact .reading .onCore
      · exact .bad
  · exact .bad

protected theorem vfPlan {c ar : Nat} {dv nar : Bool} {op : FpOp} {f : FmtR} {s : State} {k : Core} : SteadyPlan
    (vfPlan c ar dv nar op f s k) := by
  unfold vfPlan
  dsimp only
  split
  · split
    · exact .reading .onCore
    · exact .bad
  · exact .bad

protected theorem planVfcmp {c : Nat} {f : FmtR} {s : State} {k : Core} : SteadyPlan (planVfcmp c f s k) := by
  unfold planVfcmp
  dsimp only
  split
  · split
    · exact .reading .onCore
    · exact .bad
  · exact .bad

protected theorem planVcvt {c : Nat} {f : FmtR} {s : State} {k : Core} : SteadyPlan (planVcvt c f s k) := by
  unfold planVcvt
  dsimp only
  split
  · split
    · exact .bad
    · split
      · exact .bad
      · split
        · split
          · exact .bad
          · exact .reading .onCore
        · split
          · exact .bad
          · exact .reading .onCore
  · exact .bad

protected theorem planVqmx {c : Nat} {f : FmtR} {s : State} {k : Core} : SteadyPlan (planVqmx c f s k) := by
  unfold planVqmx
  dsimp only
  split
  · split
    · exact .bad
    · split
      · split
        · exact .bad
        · exact .reading (.withEff .onCore)
      · split
        · exact .bad
        · exact .reading .onCore
  · exact .bad

protected theorem planVdqmx {c : Nat} {f : FmtR} {s : State} {k : Core} : SteadyPlan (planVdqmx c f s k) := by
  unfold planVdqmx
  dsimp only
  split
  · split
    · exact .reading (.withEff .onCore)
    · exact .bad
  · exact .bad

protected theorem planVqeb4 {c : Nat} {f : FmtR} {s : State} {k : Core} : SteadyPlan (planVqeb4 c f s k) := by
  unfold planVqeb4
  dsimp only
  split
  · exact .reading .onCore
  · exact .bad

protected theorem planVdqeb4 {c : Nat} {f : FmtR} {s : State} {k : Core} : SteadyPlan (planVdqeb4 c f s k) := by
  unfold planVdqeb4
  dsimp only
  split
  · exact .reading .onCore
  · exact .bad

protected theorem viPlan {c : Nat} {op : Nat → Nat → Nat → Nat} {f : FmtR} {s : State} {k : Core} : SteadyPlan (viPlan c op f s k) := by
  unfold viPlan
  dsimp only
  split
  · exact .reading .onCore
  · exact .bad

protected theorem planVperm {c : Nat} {f : FmtR} {s : State} {k : Core} : SteadyPlan (planVperm c f s k) := by
  unfold planVperm
  dsimp only
  split
  · exact .reading .onCore
  · exact .bad

protected theorem planVsel {c : Nat} {f : FmtR} {s : State} {k : Core} : SteadyPlan (planVsel c f s k) := by
  unfold planVsel
  dsimp only
  split
  · exact .reading .onCore
  · exact .bad

protected theorem planVbcast {c : Nat} {f : FmtR} {s : State} {k : Core} : SteadyPlan (planVbcast c f s k) := by
  unfold planVbcast
  split
  · split
    · exact .reading .onCore
    · exact .bad
  · exact .bad

protected theorem planVext {c : Nat} {f : FmtR} {s : State} {k : Core} : SteadyPlan (planVext c f s k) := by
  unfold planVext
  dsimp only
  split
  · split
    · exact .reading .onCore
    · exact .bad
  · exact .bad

protected theorem planMovrx {c : Nat} {f : FmtR} {s : State} {k : Core} : SteadyPlan (planMovrx c f s k) := by
  unfold planMovrx
  split
  · split
    · exact .reading .onCore
    · exact .bad
  · split
    · exact .reading .onCore
    · exact .bad
  · exact .bad

protected theorem planLd {c : Nat} {f : FmtI} {s : State} {k : Core} : SteadyPlan (planLd c f s k) := by
  unfold planLd
  dsimp only
  split
  · split
    · split
      · exact .reading (.withEff .onCore)
      · exact .bad
    · split
      · exact .reading (.withEff .onCore)
      · exact .bad
  · exact .bad

protected theorem planSt {c : Nat} {f : FmtI} {s : State} {k : Core} : SteadyPlan (planSt c f s k) := by
  unfold planSt
  dsimp only
  split
  · split
    · exact .reading (.withEff .onCore)
    · exact .bad
  · exact .bad

protected theorem planSld {c : Nat} {f : FmtI} {s : State} {k : Core} : SteadyPlan (planSld c f s k) := by
  unfold planSld
  dsimp only
  split
  · split
    · exact .reading .onCore
    · exact .bad
  · split
    · exact .reading (.withEff .onCore)
    · exact .bad
  · exact .bad

protected theorem planSst {c : Nat} {f : FmtI} {s : State} {k : Core} : SteadyPlan (planSst c f s k) := by
  unfold planSst
  dsimp only
  split
  · split
    · exact .reading .onCore
    · exact .bad
  · split
    · exact .reading (.withEff .onCore)
    · exact .bad
  · exact .bad

protected theorem planIfill {c : Nat} {f : FmtI} {s : State} {k : Core} : SteadyPlan (planIfill c f s k) := by
  unfold planIfill
  dsimp only
  split
  · exact .reading .onCore
  · exact .bad

protected theorem planSmsend {c : Nat} {f : FmtI} {s : State} {k : Core} : SteadyPlan (planSmsend c f s k) := by
  unfold planSmsend
  dsimp only
  split
  · exact .acts fun _ _ h => h.update
  · exact .bad

protected theorem planSmsendv {c : Nat} {f : FmtI} {s : State} {k : Core} : SteadyPlan (planSmsendv c f s k) := by
  unfold planSmsendv
  dsimp only
  split
  · exact .acts fun _ _ h => h.update
  · exact .bad

protected theorem planOutpost {c : Nat} {f : FmtI} {s : State} {k : Core} : SteadyPlan (planOutpost c f s k) := by
  unfold planOutpost
  dsimp only
  split
  · exact .reading (.withEff .onCore)
  · exact .bad

protected theorem planLbarm {c : Nat} {f : FmtI} {s : State} {k : Core} : SteadyPlan (planLbarm c f s k) := by
  unfold planLbarm
  dsimp only
  split
  · exact .reading .onCore
  · exact .bad

end SteadyPlan

namespace Steady
variable {s₀ s : State}

protected theorem homeReads (h : Steady s₀ s) {t : Nat} {f : Frame} : Steady s₀ (homeReads s t f) :=
  .ite h (.foldl h.tableRead fun _ _ h => h.tableRead)

protected theorem setDir (h : Steady s₀ s) {ds : List DirLine} : Steady s₀ (setDir s ds) := h.update.regPutNat

protected theorem sendBinv (h : Steady s₀ s) {line : Nat} : Steady s₀ (sendBinv s line) := .ite h h.emit.update

protected theorem writeTouch (h : Steady s₀ s) {line : Nat} : Steady s₀ (writeTouch s line) := by
  unfold writeTouch
  split
  · exact .ite h h.sendBinv
  · exact h

protected theorem setAside (h : Steady s₀ s) {t lc : Nat} : Steady s₀ (setAside s t lc) :=
  .foldl h.setPort fun _ _ h => .foldl h fun _ _ h => h.sendBinv

protected theorem mfCount (h : Steady s₀ s) {t n : Nat} : Steady s₀ (mfCount s t n) := h.regCount

protected theorem answer (h : Steady s₀ s) {d rsv : Nat} {f : Frame} : Steady s₀ (answer s d rsv f) := h.arriveWith

protected theorem homeTakes (h : Steady s₀ s) {t : Nat} {f : Frame} {d rsv : Nat} : Steady s₀ (homeTakes s t f d rsv) := by
  unfold homeTakes
  dsimp only
  split
  · exact h.homeReads.poolAdd.mfCount
  · split
    · exact h.homeReads.setTile.mfCount.answer
    · exact h.homeReads.setTile.setPort.setAside

end Steady

namespace SteadyOut
variable {s₀ s : State}

protected theorem mfRequest (h : Steady s₀ s) {ty t : Nat} : SteadyOut s₀ (mfRequest ty t s) := by
  unfold mfRequest
  refine .tileCmd h fun _ h => ?_
  split
  · exact .ite h.modTile.homeTakes h
  · exact h

protected theorem execMfLoad (h : Steady s₀ s) {t : Nat} : SteadyOut s₀ (execMfLoad t s) := .mfRequest h

protected theorem execMfStore (h : Steady s₀ s) {t : Nat} : SteadyOut s₀ (execMfStore t s) := .mfRequest h

protected theorem execMfAtomic (h : Steady s₀ s) {t : Nat} : SteadyOut s₀ (execMfAtomic t s) := .mfRequest h

end SteadyOut

namespace Steady
variable {s₀ s : State}

protected theorem portDrop (h : Steady s₀ s) {t lc : Nat} {r : SvcReq} : Steady s₀ (portDrop s t lc r) := h.setPort

protected theorem portPut (h : Steady s₀ s) {t lc : Nat} {r r' : SvcReq} : Steady s₀ (portPut s t lc r r') := h.setPort

protected theorem sendAnswer (h : Steady s₀ s) {r : SvcReq} {ty : Nat} {data : List Byte} : Steady s₀ (sendAnswer s r ty data) := by
  unfold sendAnswer
  dsimp only
  split
  · exact h.answer
  · exact h

protected theorem slotRead (h : Steady s₀ s) {a n : Nat} : Steady s₀ (slotRead s a n).1 := .ite h.dramCheck.recordDram h.dramCheck

protected theorem fabricCount (h : Steady s₀ s) {t n : Nat} {r : SvcReq} : Steady s₀ (fabricCount s t n r) := .ite h.mfCount h

protected theorem serveLine (h : Steady s₀ s) {t lc : Nat} {r : SvcReq} : Steady s₀ (serveLine s t lc r) := by
  unfold serveLine
  dsimp only
  split
  · exact .ite h.slotRead.portDrop.fabricCount.sendAnswer h.slotRead.portPut
  · exact .ite (.sendAnswer (.fabricCount (.portDrop (.ite h ((h.withDram (memWrite_wf _ _ _)).writeTouch))))) (.portPut (.ite h
    ((h.withDram (memWrite_wf _ _ _)).writeTouch)))
  · exact h

protected theorem refphWrite (h : Steady s₀ s) {t : Nat} {v : BitVec 32} : Steady s₀ (refphWrite s t v) := h.regWrite.modTile

end Steady

namespace SteadyOut
variable {s₀ s : State}

protected theorem execRefresh (h : Steady s₀ s) {t : Nat} : SteadyOut s₀ (execRefresh t s) := .tileCmd h fun _ h => h

end SteadyOut

namespace Steady
variable {s₀ s : State}

protected theorem nakAtomic (h : Steady s₀ s) {t : Nat} {r : SvcReq} : Steady s₀ (nakAtomic s t r) := by
  unfold nakAtomic
  split
  · exact h.mfCount.answer
  · exact h

protected theorem homeUpset (h : Steady s₀ s) {t a : Nat} : Steady s₀ (homeUpset s t a).1 := by
  unfold homeUpset
  split
  · next he => exact (h.takeUnitUpset.of_eq he).unitCheck
  · next he => exact h.takeUnitUpset.of_eq he

protected theorem homeUpset_dram (h : Steady s₀ s) {t a : Nat} :
    Steady s₀ { (homeUpset s t a).1 with dram := (homeUpset s t a).2 } := by
  unfold homeUpset
  split
  · next u he =>
    have hu := h.takeUnitUpset.of_eq he
    refine ⟨fun h₀ => ?_, hu.unitCheck.2⟩
    obtain ⟨-, hrest⟩ := hu.unitCheck.1 h₀
    exact ⟨memWrite_wf _ _ _ (hu.1 h₀).1, hrest⟩
  · next he => exact h.takeUnitUpset.of_eq he

end Steady

namespace SteadyOut
variable {s₀ s : State}

protected theorem serveAtomic (h : Steady s₀ s) {o c : Nat} : SteadyOut s₀ (serveAtomic o c s) := by
  unfold serveAtomic
  refine .coreCmd h fun s h => ?_
  extract_lets t lc s₁
  have h₁ : Steady s₀ s₁ := h.setAside
  clear_value s₁
  split
  · next r _ =>
    split
    · next aop data _ =>
      refine .ite ?_ h₁
      extract_lets a
      have h₂ : Steady s₀ (slotRead s₁ a (atomicTouch aop)).1 := h₁.slotRead
      generalize slotRead s₁ a (atomicTouch aop) = p at h₂ ⊢
      obtain ⟨s₂, bad⟩ := p
      dsimp -zeta only at h₂ ⊢
      have hm : Memory.wf s₂.dram = true → Memory.wf (atomicServe s₂.dram a aop data).1 = true := atomicServe_wf
      generalize atomicServe s₂.dram a aop data = q at hm ⊢
      obtain ⟨m, v, n⟩ := q
      refine .ite h₂.portDrop.nakAtomic ?_
      dsimp -zeta only at hm ⊢
      extract_lets s₃ s₄ s₅ r'
      have h₄ : Steady s₀ s₄ := by
        have hc : Steady s₀ s₃ := h₂.portDrop.mfCount
        refine ⟨fun h₀ => ?_, hc.2⟩
        obtain ⟨-, hrest⟩ := hc.1 h₀
        exact ⟨hm (h₂.1 h₀).1, hrest⟩
      have h₅ : Steady s₀ s₅ := by
        refine .ite (.ite_fst h₄.homeUpset h₄) (.writeTouch ?_)
        split
        · exact h₄.homeUpset_dram
        · exact h₄
      exact .ite h₅.sendAnswer h₅.sendAnswer
    · exact h₁
  · exact h₁

protected theorem execAtomicAdd (h : Steady s₀ s) {c : Nat} : SteadyOut s₀ (execAtomicAdd c s) := .serveAtomic h

protected theorem execAtomicAnd (h : Steady s₀ s) {c : Nat} : SteadyOut s₀ (execAtomicAnd c s) := .serveAtomic h

protected theorem execAtomicOr (h : Steady s₀ s) {c : Nat} : SteadyOut s₀ (execAtomicOr c s) := .serveAtomic h

protected theorem execAtomicXor (h : Steady s₀ s) {c : Nat} : SteadyOut s₀ (execAtomicXor c s) := .serveAtomic h

protected theorem execAtomicMin (h : Steady s₀ s) {c : Nat} : SteadyOut s₀ (execAtomicMin c s) := .serveAtomic h

protected theorem execAtomicMax (h : Steady s₀ s) {c : Nat} : SteadyOut s₀ (execAtomicMax c s) := .serveAtomic h

protected theorem execAtomicMinu (h : Steady s₀ s) {c : Nat} : SteadyOut s₀ (execAtomicMinu c s) := .serveAtomic h

protected theorem execAtomicMaxu (h : Steady s₀ s) {c : Nat} : SteadyOut s₀ (execAtomicMaxu c s) := .serveAtomic h

protected theorem execSwap (h : Steady s₀ s) {c : Nat} : SteadyOut s₀ (execSwap c s) := .serveAtomic h

protected theorem execCas (h : Steady s₀ s) {c : Nat} : SteadyOut s₀ (execCas c s) := .serveAtomic h

protected theorem execXadd (h : Steady s₀ s) {c : Nat} : SteadyOut s₀ (execXadd c s) := .serveAtomic h

protected theorem execXrd (h : Steady s₀ s) {c : Nat} : SteadyOut s₀ (execXrd c s) := .serveAtomic h

end SteadyOut

namespace Steady
variable {s₀ s : State}

protected theorem releaseReq (h : Steady s₀ s) {c : Nat} {e : ReqEntry} : Steady s₀ (releaseReq s c e) := h.modTile.modCore

protected theorem takeNak (h : Steady s₀ s) {c : Nat} {e : ReqEntry} {code : Nat} : Steady s₀ (takeNak s c e code) := by
  unfold takeNak
  dsimp only
  refine .releaseReq ?_
  split
  · exact .recordTile (.ite h.landCount h)
  · exact .modCore (.ite h.landCount h)
  · exact .modCore (.ite h.landCount h)
  · exact .ite h.landCount h

end Steady

namespace SteadyOut
variable {s₀ s : State}

protected theorem takeAnswer (h : Steady s₀ s) {ty t : Nat} {land : State → Nat → ReqEntry → Frame → State}
    (hf : ∀ s x y z, Steady s₀ s → Steady s₀ (land s x y z)) : SteadyOut s₀ (takeAnswer ty t land s) := by
  unfold takeAnswer
  dsimp only
  refine .tileCmd h fun _ h => ?_
  split
  · exact h
  · split
    · exact h.popFrm.tableRead.recordTile.mfCount
    · exact hf _ _ _ _ h.popFrm.tableRead

protected theorem execMfData (h : Steady s₀ s) {t : Nat} : SteadyOut s₀ (execMfData t s) :=
  .takeAnswer h fun _ _ _ _ h => .releaseReq (.ite h.landAt h)

protected theorem execMfAck (h : Steady s₀ s) {t : Nat} : SteadyOut s₀ (execMfAck t s) := .takeAnswer h fun _ _ _ _ h => h.releaseReq

protected theorem execNak (h : Steady s₀ s) {t : Nat} : SteadyOut s₀ (execNak t s) := .takeAnswer h fun _ _ _ _ h => h.takeNak

end SteadyOut

namespace Steady
variable {s₀ s : State}

protected theorem agentEmit (h : Steady s₀ s) {t : Nat} {f : Frame} : Steady s₀ (agentEmit s t f) := by
  unfold agentEmit
  split
  · exact h.arriveVia
  · split
    · split
      · exact h.takeNak
      · exact h
    · exact h.recordAs

protected theorem setInj (h : Steady s₀ s) {t k : Nat} {q : List (Bool × Frame)} : Steady s₀ (setInj s t k q) := h.modTile

protected theorem polCount (h : Steady s₀ s) {d n : Nat} : Steady s₀ (polCount s d n) := h.regCount

protected theorem releaseInj (h : Steady s₀ s) {t k n : Nat} : Steady s₀ (releaseInj t k n s) := by
  induction n generalizing s with
  | zero => exact h
  | succ n ih =>
    unfold releaseInj
    split
    · exact h
    · exact .ite (.ite h h.setInj.polCount) (ih h.setInj.debit.polCount.agentEmit)

protected theorem agentSends (h : Steady s₀ s) {t k : Nat} {fs : List Frame} : Steady s₀ (agentSends s t k fs) :=
  .ite (.foldl h fun _ _ h => h.agentEmit) h.setInj.releaseInj

protected theorem payloadRead (h : Steady s₀ s) {c : Nat} {spans : List (Nat × Nat)} : Steady s₀ (payloadRead s c spans).1 :=
  .ite_fst h (.ite h.setCore.eccFlush.recordSram h.setCore.eccFlush)

protected theorem sendFrame (h : Steady s₀ s) {c : Nat} {d : List Byte} : Steady s₀ (sendFrame s c d).1 := h.modTile

protected theorem popOutbox (h : Steady s₀ s) {c : Nat} : Steady s₀ (popOutbox s c) := h.modCore

protected theorem drainDesc (h : Steady s₀ s) {c posted : Nat} {d : List Byte} : Steady s₀ (drainDesc s c posted d) :=
  .ite (.ite h h.sendFrame.payloadRead.popOutbox.agentSends) (.ite h h.modTile.popOutbox.modCore.payloadRead.agentSends)

protected theorem drainColl (h : Steady s₀ s) {c : Nat} {p : CollPost} : Steady s₀ (drainColl s c p) := by
  unfold drainColl
  dsimp only
  split
  · exact h
  · split
    · exact h.courseRead.popOutbox.recordTile
    · split
      · exact h.courseRead.popOutbox.recordTile
      · exact h.courseRead.popOutbox.modTile.payloadRead.agentSends

end Steady

namespace SteadyOut
variable {s₀ s : State}

protected theorem execOutboxDrain (h : Steady s₀ s) {c : Nat} : SteadyOut s₀ (execOutboxDrain c s) := by
  unfold execOutboxDrain
  dsimp only
  refine .coreCmd h fun _ h => ?_
  split
  · exact h
  · split
    · exact h.drainDesc
    · exact h.drainColl
    · exact h.popOutbox.modTile

end SteadyOut

namespace Steady
variable {s₀ s : State}

protected theorem setPolicers (h : Steady s₀ s) {d : Nat} {ps : List Shaper} : Steady s₀ (setPolicers s d ps) :=
  .ite h.modTile (.ite h.update h.update)

end Steady

namespace SteadyOut
variable {s₀ s : State}

protected theorem execPolicerRelease (h : Steady s₀ s) {d k : Nat} : SteadyOut s₀ (execPolicerRelease d k s) :=
  .ite .refused (.next (.ite h (.ite h.refillTokens.releaseInj h.refillTokens)))

end SteadyOut

namespace Steady
variable {s₀ s : State}

protected theorem policerWrite (h : Steady s₀ s) {d v : Nat} : Steady s₀ (policerWrite s d v) := h.commitShapers.setPolicers

end Steady

namespace SteadyOut
variable {s₀ s : State}

protected theorem execPolicerCommit (h : Steady s₀ s) {d : Nat} {v : BitVec 32} : SteadyOut s₀ (execPolicerCommit d v s) :=
  .ite .refused (.mmioWrite h fun _ h => h.policerWrite)

end SteadyOut

namespace Steady
variable {s₀ s : State}

protected theorem writeWords (h : Steady s₀ s) {a : Nat} {bs : List Byte} : Steady s₀ (writeWords s a bs) :=
  .foldl h fun _ _ h => h.regWrite

protected theorem writeTopology (h : Steady s₀ s) {p : List Byte} : Steady s₀ (writeTopology s p) :=
  .regPut (.regSetBits (.regSetBits (.foldl (.foldl h fun _ _ h => h.regWrite.writeWords.regWrite) fun _ _ h =>
    h.writeWords.regWrite)))

protected theorem writeLink (h : Steady s₀ s) {p : List Byte} {d : Nat} : Steady s₀ (writeLink s p d).1 := h.regWrite.writeWords.writeWords

protected theorem writeCourses (h : Steady s₀ s) {first : Nat} {es : List (List Byte)} : Steady s₀ (writeCourses s first es) :=
  .foldl h fun _ _ h => .foldl (.foldl h fun _ _ h => h.writeWords) fun _ _ h => h.writeWords

protected theorem writeRegions (h : Steady s₀ s) {first : Nat} {es : List (List Byte)} : Steady s₀ (writeRegions s first es) :=
  .foldl h fun _ _ h => .foldl h fun _ _ h => h.writeWords

protected theorem applyRecord (h : Steady s₀ s) {r : List Byte} : Steady s₀ (applyRecord s r) :=
  .foldl h fun _ _ h => .ite (.ite h h.regPut) (.regPut (.ite h h.regPut))

protected theorem applyBlock (h : Steady s₀ s) {b : Nat × List Byte} : Steady s₀ (applyBlock s b) := by
  unfold applyBlock
  split
  · exact .foldl h.writeTopology fun _ _ h => h.writeLink
  · exact h.writeCourses
  · exact h.writeRegions

protected theorem applyContainer (h : Steady s₀ s) {bs : List Byte} : Steady s₀ (applyContainer s bs) :=
  .foldl (.foldl h fun _ _ h => h.applyRecord) fun _ _ h => h.applyBlock

protected theorem startRun (h : Steady s₀ s) {x : Nat} : Steady s₀ (startRun s x) := h.update.enterCycle

protected theorem passIdle (h : Steady s₀ s) {x : Nat} : Steady s₀ (passIdle s x) := .ite h.freeze h.update.finishSparse

protected theorem pass (h : Steady s₀ s) {x f : Nat} : Steady s₀ (pass x f s) := by
  induction f generalizing s with
  | zero => exact h
  | succ f ih =>
    unfold pass
    split
    · exact h
    split
    · exact ih h.advanceTo
    split
    · split
      · exact .ite (ih h.releaseSample) h.passIdle
      · exact ih h.passIdle
    · split
      · exact .ite (ih h.startRun) h.passIdle
      · exact h.passIdle

protected theorem passTo (h : Steady s₀ s) {x : Nat} : Steady s₀ (passTo s x) := h.pass

end Steady

namespace SteadyOut
variable {s₀ s : State}

protected theorem execRunStart (h : Steady s₀ s) : SteadyOut s₀ (execRunStart s) := by
  unfold execRunStart
  refine .next ?_
  split
  · exact h
  · split
    · exact h
    · exact h.passTo

protected theorem execPlaneHold (h : Steady s₀ s) : SteadyOut s₀ (execPlaneHold s) := .next (.ite h.advanceToHold h)

protected theorem execReleaseSample (h : Steady s₀ s) : SteadyOut s₀ (execReleaseSample s) := .next (.ite h.passTo h)

protected theorem execGovernorFrame (h : Steady s₀ s) : SteadyOut s₀ (execGovernorFrame s) := by
  unfold execGovernorFrame
  refine .next ?_
  split
  · exact h
  · split
    · exact h
    · exact h.passTo

end SteadyOut

namespace Steady
variable {s₀ s : State}

protected theorem tick (h : Steady s₀ s) : Steady s₀ (tick s) := .ite h h.passTo

protected theorem setMbx (h : Steady s₀ s) {n : Nat} {m : Mailbox} : Steady s₀ (setMbx s n m) := h.withMbx (smWf_smSet _ _ _ _)

protected theorem setMbxState (h : Steady s₀ s) {n x : Nat} : Steady s₀ (setMbxState s n x) := h.regSetBits

protected theorem mbxWrite (h : Steady s₀ s) {n : Nat} {side : Side} {o : Nat} {bs : List Byte} : Steady s₀ (mbxWrite s n side o bs) :=
  .ite h h.setMbx

protected theorem respond (h : Steady s₀ s) {n : Nat} {a : Answer} : Steady s₀ (respond s n a) :=
  .raiseIrq (.setMbxState (.ite h.setMbx.update.update h.setMbx.update))

protected theorem settleQueue (h : Steady s₀ s) {f : Nat} : Steady s₀ (settleQueue f s) := by
  induction f generalizing s with
  | zero => exact h
  | succ f ih =>
    unfold settleQueue
    split
    · exact h
    · split
      · exact h
      · exact .ite h (ih h.respond)

end Steady

namespace SteadyOut
variable {s₀ s : State}

protected theorem mbxCmd (h : Steady s₀ s) {n row : Nat} {f : State → State × Answer} (hf : ∀ s, Steady s₀ s → Steady s₀
    (f s).1) : SteadyOut s₀ (mbxCmd n row s f) :=
  .ite .refused (.next (.ite h (.ite h.respond.settleQueue (((hf _ h).respond).settleQueue))))

end SteadyOut

namespace Steady
variable {s₀ s : State}

protected theorem goWrite (h : Steady s₀ s) {n : Nat} {side : Side} : Steady s₀ (goWrite s n side) :=
  .ite h (.ite h.regSetBits h.setMbx.setMbxState.update.settleQueue)

protected theorem ackWrite (h : Steady s₀ s) {n : Nat} {side : Side} : Steady s₀ (ackWrite s n side) :=
  .ite h (.setMbxState (.ite h.update h))

protected theorem syncCopyEnable (h : Steady s₀ s) : Steady s₀ (syncCopyEnable s) := h.regSetBits

protected theorem setRole (h : Steady s₀ s) {n role : Nat} : Steady s₀ (setRole s n role) := h.regSetBits.syncCopyEnable

end Steady

namespace SteadyOut
variable {s₀ s : State}

protected theorem execSessionNonce (h : Steady s₀ s) {n : Nat} : SteadyOut s₀ (execSessionNonce n s) := .mbxCmd h fun _ h => h.setMbx.update

end SteadyOut

namespace Steady
variable {s₀ s : State}

protected theorem authFailed (h : Steady s₀ s) {n : Nat} : Steady s₀ (authFailed s n) := .ite h.setMbx.update h.setMbx.update

protected theorem sessionOpen (h : Steady s₀ s) {n : Nat} : Steady s₀ (sessionOpen s n).1 := by
  unfold sessionOpen
  dsimp only
  split
  · exact h
  · split
    · exact h
    · split
      · exact h.authFailed
      · exact .ite_fst h.setMbx.update.setRole h.authFailed

end Steady

namespace SteadyOut
variable {s₀ s : State}

protected theorem execSessionOpen (h : Steady s₀ s) {n : Nat} : SteadyOut s₀ (execSessionOpen n s) :=
  .ite (.next h.respond.settleQueue) (.mbxCmd h fun _ h => h.sessionOpen)

protected theorem execSessionClose (h : Steady s₀ s) {n : Nat} : SteadyOut s₀ (execSessionClose n s) := .mbxCmd h fun _ h => h.setRole

protected theorem execNonceExpiry (h : Steady s₀ s) {n : Nat} : SteadyOut s₀ (execNonceExpiry n s) :=
  .ite .refused (.next (.ite h.setMbx h))

protected theorem execLockoutExpiry (h : Steady s₀ s) : SteadyOut s₀ (execLockoutExpiry s) := .next (.ite h.update h)

protected theorem execSessionIdleExpiry (h : Steady s₀ s) {n : Nat} : SteadyOut s₀ (execSessionIdleExpiry n s) :=
  .ite .refused (.next (.ite h.setRole.raiseIrq h))

end SteadyOut

namespace Steady
variable {s₀ s : State}

protected theorem checkPartner (h : Steady s₀ s) {t : Nat} {f : Frame} : Steady s₀ (checkPartner s t f) := by
  unfold checkPartner
  dsimp only
  split
  · exact .ite h.recordTile h
  · exact h.modTile

protected theorem checkArrived (h : Steady s₀ s) {c : Nat} {p : CollPost} : Steady s₀ (checkArrived s c p) :=
  .ite h.modTile.recordTile h.modTile

protected theorem sendPoison (h : Steady s₀ s) {t ct : Nat} {e : Course} : Steady s₀ (sendPoison s t ct e) := by
  unfold sendPoison
  dsimp only
  split
  · exact h
  · split
    · exact h.modTile
    · exact h.modTile.agentSends

protected theorem chunkLanded (h : Steady s₀ s) {t : Nat} {e : Course} {f : Frame} {off : Nat} {bs : List Byte} : Steady s₀
    (chunkLanded s t e f off bs) := .ite h.modTile (.ite h.modTile.recordTile.sendPoison h.modTile)

protected theorem landChunk (h : Steady s₀ s) {t : Nat} {e : Course} {f : Frame} {b off chunkOff : Nat} {bs : List Byte} : Steady s₀
    (landChunk s t e f b off chunkOff bs) := .ite h.overfill h.landAt.chunkLanded

protected theorem landDown (h : Steady s₀ s) {t : Nat} {e : Course} {f : Frame} : Steady s₀ (landDown s t e f) := by
  unfold landDown
  dsimp only
  split
  · exact .ite h.overfill h.landChunk.modCore
  · exact h

protected theorem landPiece (h : Steady s₀ s) {t : Nat} {e : Course} {f : Frame} : Steady s₀ (landPiece s t e f) := by
  unfold landPiece
  split
  · exact h.landChunk
  · exact h

protected theorem countsComplete (h : Steady s₀ s) {c : Nat} {e : Course} {x : XchRecv} : Steady s₀ (countsComplete s c e x) := by
  unfold countsComplete
  dsimp only
  split
  · exact .agentSends (.ite h.landAt.overfill.setRule h.landAt.setRule)
  · exact .ite h.landAt.overfill.setRule h.landAt.setRule

protected theorem landCountFrame (h : Steady s₀ s) {t : Nat} {e : Course} {f : Frame} : Steady s₀ (landCountFrame s t e f) := by
  unfold landCountFrame
  dsimp only
  split
  · exact h
  · split
    · exact h.overfill
    · split
      · refine .countsComplete (.landAt ?_)
        split
        · exact h.modTile.setRule
        · exact h.modTile
      · refine .landAt ?_
        split
        · exact h.modTile.setRule
        · exact h.modTile

protected theorem takeBase (h : Steady s₀ s) {t : Nat} {e : Course} {f : Frame} : Steady s₀ (takeBase s t e f) := by
  unfold takeBase
  dsimp only
  split
  · exact .ite h.modTile h.modTile.agentSends
  · exact h

protected theorem collDeliver (h : Steady s₀ s) {t : Nat} {e : Course} {f : Frame} : Steady s₀ (collDeliver s t e f) := by
  unfold collDeliver
  split
  · exact h.landDown
  · exact h.landPiece
  · exact h.landCountFrame
  · exact h.takeBase

protected theorem collFrm (h : Steady s₀ s) {ty t : Nat} : Steady s₀ (collFrm ty t s) := by
  unfold collFrm
  split
  · exact h
  · extract_lets s₁
    have h₁ : Steady s₀ s₁ := h.courseRead
    split
    · exact h₁.popFrm.recordTile
    · exact .ite h₁ (.ite h₁.popFrm (.ite h₁ (.foldl (Steady.ite h₁.popFrm.modTile.recordTile h₁.popFrm.modTile).checkPartner
        fun _ _ h => h.collDeliver)))

protected theorem gatherFrame (h : Steady s₀ s) {d : Nat} {f : Frame} : Steady s₀ (gatherFrame s d f).1 := .ite_fst h.modEng h.modEng

protected theorem stagedFlags (h : Steady s₀ s) {d : Nat} {fs : List Frame} : Steady s₀ (stagedFlags s d fs).1 :=
  .ite_fst h.sramRead.recordSram h.sramRead

protected theorem spartDone (h : Steady s₀ s) {d : Nat} {e : Course} {f : Frame} {fs : List Frame} : Steady s₀ (spartDone s d e f fs) :=
    h.stagedFlags.useSlot.takePart

protected theorem takeSpart (h : Steady s₀ s) {d : Nat} {e : Course} {f : Frame} : Steady s₀ (takeSpart s d e f) := by
  unfold takeSpart
  extract_lets u
  refine .ite h.sadSpan ?_
  split
  · next he => exact h.markSlot.gatherFrame.of_eq he
  · next he => exact (h.markSlot.gatherFrame.of_eq he).spartDone

protected theorem pieceDone (h : Steady s₀ s) {d : Nat} {e : Course} {f : Frame} {fs : List Frame} : Steady s₀ (pieceDone s d e f fs) := by
  unfold pieceDone
  extract_lets u par key bytes slot s₁ kept
  have hkept {s bs fl} (h : Steady s₀ s) : Steady s₀ (kept s bs fl) := .ite h.engineSends h.engineSends.modEng
  have h₂ : Steady s₀ (stagedFlags s₁ d fs).1 := h.useSlot.stagedFlags
  generalize stagedFlags s₁ d fs = p at h₂ ⊢
  obtain ⟨s₂, fl⟩ := p
  clear_value slot kept
  dsimp -zeta only at h₂ ⊢
  split
  · exact hkept h₂
  · extract_lets s₃
    have h₃ : Steady s₀ s₃ := .ite h₂ h₂.sadSize
    clear_value s₃
    exact .ite (hkept h₃) (Steady.ite h₃.sadSize h₃).takePart

protected theorem takePiece (h : Steady s₀ s) {d : Nat} {e : Course} {f : Frame} : Steady s₀ (takePiece s d e f) := by
  unfold takePiece
  split
  · next he => exact h.markSlot.gatherFrame.of_eq he
  · next he => exact (h.markSlot.gatherFrame.of_eq he).pieceDone

protected theorem takeEngineBase (h : Steady s₀ s) {d : Nat} {e : Course} {f : Frame} {k : KeptPiece} : Steady s₀
    (takeEngineBase s d e f k) := .ite h.modEng h.modEng.engineSends

protected theorem relayDown (h : Steady s₀ s) {d : Nat} {e : Course} {f : Frame} : Steady s₀ (relayDown s d e f) := by
  unfold relayDown
  dsimp only
  split
  · exact h.engineSends
  · split
    · exact h.engineSends
    · exact h.recordBrg

protected theorem relayUp (h : Steady s₀ s) {d : Nat} {e : Course} {f : Frame} : Steady s₀ (relayUp s d e f) := h.engineSends

protected theorem takeTokenUp (h : Steady s₀ s) {d : Nat} {e : Course} {f : Frame} : Steady s₀ (takeTokenUp s d e f) :=
  .ite h.sadSpan h.takePart

protected theorem takeTokenDown (h : Steady s₀ s) {d : Nat} {f : Frame} : Steady s₀ (takeTokenDown s d f) :=
  .ite h h.regSetBits.regSetBits.update

protected theorem takePoison (h : Steady s₀ s) {d : Nat} {f : Frame} : Steady s₀ (takePoison s d f) := .ite h.recordBrg h

protected theorem engineDeliver (h : Steady s₀ s) {d : Nat} {e : Course} {f : Frame} : Steady s₀ (engineDeliver d e s f) := by
  unfold engineDeliver
  split
  · exact h.takeSpart
  · exact h.relayDown
  · exact .ite h.relayDown (.ite h.relayUp h.takePiece)
  · exact .ite h.relayDown h.relayUp
  · split
    · exact h.takeEngineBase
    · exact h.relayDown
  · exact h.takeTokenUp
  · exact .ite h.takeTokenDown h.relayDown
  · exact .ite h.takePoison h.relayDown

protected theorem engineFrm (h : Steady s₀ s) {ty d : Nat} : Steady s₀ (engineFrm ty d s) := by
  unfold engineFrm
  split
  · exact h
  · next f _ =>
    extract_lets pop s₁
    have h₁ : Steady s₀ s₁ := h.courseRead
    split
    · exact h₁.modEng.recordBrg
    · have h₂ : Steady s₀ (if ty = 0x10 then sadCount s₁ d 0 else s₁) := .ite h₁.sadCount h₁
      exact .ite h₁ (Steady.foldl (.ite h₂.modEng.modEng.recordBrg h₂.modEng.modEng) fun _ _ h => h.engineDeliver).restage

end Steady

namespace SteadyOut
variable {s₀ s : State}

protected theorem engineCmd (h : Steady s₀ s) {ty d : Nat} : SteadyOut s₀ (engineCmd ty d s) := .bridgeCmd h fun _ h => .ite h.engineFrm h

protected theorem collCmd (h : Steady s₀ s) {ty d : Nat} : SteadyOut s₀ (collCmd ty d s) :=
  .ite (.tileCmd h fun _ h => h.collFrm) (.engineCmd h)

protected theorem execSpart (h : Steady s₀ s) {d : Nat} : SteadyOut s₀ (execSpart d s) := .engineCmd h

protected theorem execSdown (h : Steady s₀ s) {d : Nat} : SteadyOut s₀ (execSdown d s) := .collCmd h

protected theorem execCpiece (h : Steady s₀ s) {d : Nat} : SteadyOut s₀ (execCpiece d s) := .collCmd h

protected theorem execCcount (h : Steady s₀ s) {d : Nat} : SteadyOut s₀ (execCcount d s) := .collCmd h

protected theorem execCbase (h : Steady s₀ s) {d : Nat} : SteadyOut s₀ (execCbase d s) := .collCmd h

protected theorem execCtoku (h : Steady s₀ s) {d : Nat} : SteadyOut s₀ (execCtoku d s) := .engineCmd h

protected theorem execCtokd (h : Steady s₀ s) {d : Nat} : SteadyOut s₀ (execCtokd d s) := .engineCmd h

protected theorem execCpoison (h : Steady s₀ s) {d : Nat} : SteadyOut s₀ (execCpoison d s) := .engineCmd h

end SteadyOut

namespace Steady
variable {s₀ s : State}

protected theorem sendToken (h : Steady s₀ s) {n : Nat} {e : Course} {r : Nat} : Steady s₀ (sendToken s n e r) := h.update.engineSends

end Steady

namespace SteadyOut
variable {s₀ s : State}

protected theorem execTokenSend (h : Steady s₀ s) {n : Nat} : SteadyOut s₀ (execTokenSend n s) := by
  unfold execTokenSend
  dsimp only
  split
  · exact .refused
  · refine .next ?_
    split
    · exact h
    · split
      · exact h
      · split
        · exact h.sendToken
        · exact h

end SteadyOut

namespace Steady
variable {s₀ s : State}

protected theorem freeAnswers (h : Steady s₀ s) : Steady s₀ (freeAnswers s) := .foldl h fun _ _ h => h.poolAdd

protected theorem abortStep (h : Steady s₀ s) {epoch : Nat → Nat} : Steady s₀ (abortStep s epoch) := by
  unfold abortStep
  extract_lets s₁ s₂ s₃ s₄ s₅ s₆ s₇ s₈ s₉
  have h₂ : Steady s₀ s₂ := .restQueues (.foldl h.collectCoreFaults fun _ _ h => h.epochBridge.restage)
  have h₃ : Steady s₀ s₃ := .foldl h₂ fun _ _ h => h.regSetBits
  have h₆ : Steady s₀ s₆ := .foldl h₃.mapCores.freeAnswers fun _ _ h => h.setTile
  have h₈ : Steady s₀ s₈ := .foldl h₆.clearRegs fun _ _ h => h.spillInForce
  exact h₈.clearTokens.regSetBits.update

protected theorem endRun (h : Steady s₀ s) : Steady s₀ (endRun s) := .ite h h.update.runEnd

protected theorem stepAbort (h : Steady s₀ s) {epoch : Nat → Nat} : Steady s₀ (stepAbort s epoch) := h.abortStep.endRun

protected theorem resetDone (h : Steady s₀ s) {code : Nat} : Steady s₀ (resetDone s code) := .ite h.regSetBits h

protected theorem disarm (h : Steady s₀ s) : Steady s₀ (disarm s) := .ite h.regSetBits.regSetBits h

protected theorem planeReset (h : Steady s₀ s) : Steady s₀ (planeReset s) := by
  unfold planeReset
  extract_lets s₁ s₂ s₃
  have h₃ : Steady s₀ s₃ := h.disarm.stepAbort.clearRegs
  clear_value s₃
  exact h₃.rebuilt (cores := fun _ => rfl)

protected theorem loadMap (h : Steady s₀ s) : Steady s₀ (loadMap s) :=
  .foldl (.foldl h fun _ _ h => h.regPut) fun _ _ h => .ite h h.recordTile

protected theorem commitAll (h : Steady s₀ s) {d base : Nat} {old : List Shaper} : Steady s₀ (commitAll s d base old).1 := h.commitShapers

protected theorem commitUnits (h : Steady s₀ s) : Steady s₀ (commitUnits s) :=
  .foldl (.foldl h fun _ _ h => h.commitAll.modBridge) fun _ _ h => h.commitAll.setPolicers

protected theorem applyImages (h : Steady s₀ s) : Steady s₀ (applyImages s) := by
  unfold applyImages
  dsimp only
  split
  · exact h.applyContainer.applyContainer
  · exact h.applyContainer

protected theorem startLinks (h : Steady s₀ s) : Steady s₀ (startLinks s) := .foldl h fun _ _ h => h.setLinkState

protected theorem clearDevice (h : Steady s₀ s) : Steady s₀ (clearDevice s) :=
  h.clearRegs.dropSaved.rebuilt (bridges := fun _ => rfl) (tiles := fun _ => rfl)

protected theorem saveTiles (h : Steady s₀ s) : Steady s₀ (saveTiles s) := by
  refine ⟨fun h₀ => ?_, h.2⟩
  obtain ⟨hdram, hregs, hcores, hbridges, htiles, hmbx, -⟩ := h.1 h₀
  exact ⟨hdram, smWf_filter _ _ _ hregs, hcores, hbridges, htiles, hmbx, smWf_filter _ _ _ hregs,
    fun e he => of_decide_eq_true (List.mem_filter.mp he).2⟩

protected theorem loadUcode (h : Steady s₀ s) : Steady s₀ (loadUcode s) := h.update

protected theorem deviceReset (h : Steady s₀ s) {code : Nat} : Steady s₀ (deviceReset s code) := by
  unfold deviceReset
  extract_lets s₁ s₂ s₃ s₄ s₅ s₆
  have h₃ : Steady s₀ s₃ := .commitUnits (.foldl h.planeReset.clearDevice.applyImages.loadMap.loadUcode fun _ _ h => h.spillInForce)
  have h₄ : Steady s₀ s₄ := .ite h₃.saveTiles h₃
  exact h₄.regSetBits.startLinks.update.resetDone

protected theorem dueReset (h : Steady s₀ s) : Steady s₀ (dueReset s) := by
  unfold dueReset
  split
  · exact h
  · exact h.deviceReset

end Steady

namespace SteadyOut
variable {s₀ s : State}

protected theorem execDeviceReset (h : Steady s₀ s) : SteadyOut s₀ (execDeviceReset s) := .next (.ite h.dueReset h)

protected theorem execResetPlane (h : Steady s₀ s) {n : Nat} : SteadyOut s₀ (execResetPlane n s) :=
  .mbxCmd h fun s h => by
    dsimp only
    exact h.planeReset.resetDone

protected theorem execResetDevice (h : Steady s₀ s) {n : Nat} : SteadyOut s₀ (execResetDevice n s) := .mbxCmd h fun _ h => h.update

protected theorem execResetLink (h : Steady s₀ s) {n : Nat} : SteadyOut s₀ (execResetLink n s) :=
  .mbxCmd h fun _ h => .foldl h fun _ _ h => h.linkReset

end SteadyOut

namespace Steady
variable {s₀ s : State}

protected theorem warmState (h : Steady s₀ s) : Steady s₀ (warmState s) :=
  (h.clearRegs.clearDevice.rebuilt (dram := fun _ => rfl) (cores := fun _ => rfl)
    (mbx := fun _ => smWf_foldl_smSet _ _ _ _ _ rfl)).regSetBits

protected theorem coldState (h : Steady s₀ s) : Steady s₀ (coldState s) := (h.warmState.rebuilt (regs := fun _ => rfl)).regSetBits

protected theorem stopWrite (h : Steady s₀ s) : Steady s₀ (stopWrite s) := by
  unfold stopWrite
  split
  · next n _ _ =>
    have hf : NeverFell s { s with flash := if Config.writeBegun s.free then eraseRegion s.flash (reqPay s n 1 1) else s.flash } := by
      split
      · simp [NeverFell]
      · exact ⟨le_rfl, le_rfl, le_rfl, le_rfl⟩
    exact .ite (h.withFlash hf).update h
  · exact h

end Steady

namespace SteadyOut
variable {s₀ s : State}

protected theorem execColdReset (h : Steady s₀ s) : SteadyOut s₀ (execColdReset s) := .next (.ite h h.stopWrite.coldState)

protected theorem execWarmReset (h : Steady s₀ s) : SteadyOut s₀ (execWarmReset s) :=
  .next (.ite h (.ite h.warmState.update h.stopWrite.warmState.update))

protected theorem execPowerLoss (h : Steady s₀ s) : SteadyOut s₀ (execPowerLoss s) :=
  .next (h.stopWrite.coldState.rebuilt (regs := fun _ => rfl) (mbx := fun _ => rfl))

protected theorem execPowerUp (h : Steady s₀ s) : SteadyOut s₀ (execPowerUp s) := .next (.ite h.update h)

end SteadyOut

namespace Steady
variable {s₀ s : State}

protected theorem bootHalt (h : Steady s₀ s) {step code : Nat} : Steady s₀ (bootHalt s step code) := h.regPut.update

protected theorem bootRelease (h : Steady s₀ s) {copy : Nat} {fac uds : List Byte} {user : Option (Nat × List Byte)} {rej : Nat × Nat} :
    Steady s₀ (bootRelease s copy fac uds user rej) := by
  unfold bootRelease
  extract_lets pkg carrier fw ver r log wrap nonce device cdi own b s₁ s₂ s₃ s₄ f₀ f g₀ g
  have h₄ : Steady s₀ s₄ := h.regPut.regPutNat.regPutNat.regPutNat
  have hr : s₄.flash.rpa = r := by simp [s₄, s₃, s₂, s₁, r]
  have hf : NeverFell s₄ { s₄ with flash := f } := by simp [NeverFell, f, hr, Rpa.written]
  clear_value s₄ b f g
  exact (h₄.withFlash hf).update

end Steady

namespace SteadyOut
variable {s₀ s : State}

protected theorem execBoot (h : Steady s₀ s) : SteadyOut s₀ (execBoot s) := by
  unfold execBoot
  refine .next (.ite h ?_)
  split
  · exact h.bootHalt
  · split
    · exact h.bootHalt
    · have hf {k : Option (List Byte)} : Steady s₀ { s with flash := { s.flash with rpa := { s.flash.rpa with key := k } } } :=
        h.withFlash ⟨le_rfl, le_rfl, le_rfl, le_rfl⟩
      exact .ite h.bootHalt hf.bootRelease

end SteadyOut

namespace Steady
variable {s₀ s : State}

protected theorem quote (h : Steady s₀ s) {nonce : List Byte} : Steady s₀ (quote s nonce).1 := h.update

end Steady

namespace SteadyOut
variable {s₀ s : State}

protected theorem execAttestQuote (h : Steady s₀ s) {n : Nat} : SteadyOut s₀ (execAttestQuote n s) :=
  .mbxCmd h fun s h => h.quote (nonce := reqBytes s n 0 32)

end SteadyOut

namespace Steady
variable {s₀ s : State}

protected theorem attestObject (h : Steady s₀ s) {n : Nat} {obj : List Byte} : Steady s₀ (attestObject s n obj).1 := .ite_fst h h

end Steady

namespace SteadyOut
variable {s₀ s : State}

protected theorem execAttestLog (h : Steady s₀ s) {n : Nat} : SteadyOut s₀ (execAttestLog n s) := .mbxCmd h fun _ h => h.attestObject

protected theorem execAttestAliasCert (h : Steady s₀ s) {n : Nat} : SteadyOut s₀ (execAttestAliasCert n s) :=
  .mbxCmd h fun _ h => h.attestObject

protected theorem execAttestDeviceCert (h : Steady s₀ s) {n : Nat} : SteadyOut s₀ (execAttestDeviceCert n s) :=
  .mbxCmd h fun _ h => h.attestObject

end SteadyOut

namespace Steady
variable {s₀ s : State}

protected theorem updateWrite (h : Steady s₀ s) {n : Nat} {img : Option (List Byte)} : Steady s₀ (updateWrite s n img).1 := by
  unfold updateWrite
  extract_lets r s₁
  have h₁ : Steady s₀ s₁ := h.emit
  refine .ite_fst h (.ite_fst h ?_)
  split
  · exact h₁
  · extract_lets x f s₂ r₂ f₂
    have hf : NeverFell s₁ { s₁ with flash := f } := by simp [NeverFell, f]
    have h₂ : Steady s₀ s₂ := (h₁.withFlash hf).update
    have hf₂ : NeverFell s₂ { s₂ with flash := f₂ } := ⟨le_rfl, le_rfl, le_rfl, Nat.le_succ _⟩
    exact .ite_fst h₁ (.ite_fst h₂ (h₂.withFlash hf₂))

end Steady

namespace SteadyOut
variable {s₀ s : State}

protected theorem execUpdateImageWrite (h : Steady s₀ s) {n : Nat} {img : Option (List Byte)} : SteadyOut s₀
    (execUpdateImageWrite n img s) := .ite .fault (.mbxCmd h fun _ h => h.updateWrite)

protected theorem execUpdateImageActivate (h : Steady s₀ s) {n : Nat} : SteadyOut s₀ (execUpdateImageActivate n s) :=
  .mbxCmd h fun _ h => .ite_fst h (.ite_fst h (h.withFlash ⟨le_rfl, le_rfl, le_rfl, le_rfl⟩))

protected theorem execUpdateImageCommit (h : Steady s₀ s) {n : Nat} : SteadyOut s₀ (execUpdateImageCommit n s) := by
  unfold execUpdateImageCommit
  refine .mbxCmd h fun s h => .ite_fst h ?_
  split
  · exact h
  · extract_lets u w f₀ r f
    have hw : s.flash.rpa.fwArb ≤ w := by
      unfold w
      split
      · exact le_max_left _ _
      · exact le_rfl
    have hf : NeverFell s { s with flash := f } := ⟨le_max_left _ _, hw, le_rfl, le_rfl⟩
    exact (h.withFlash hf).regPutNat

end SteadyOut

namespace Steady
variable {s₀ s : State}

protected theorem reply (h : Steady s₀ s) {code : Nat} {data : List Byte} : Steady s₀ (reply s code data) := h.emit

protected theorem dirFree (h : Steady s₀ s) {line : Nat} : Steady s₀ (dirFree s line) := h.setDir

protected theorem dramWrite (h : Steady s₀ s) {a : Nat} {bs : List Byte} : Steady s₀ (dramWrite s a bs) := h.withDram (memWrite_wf _ _ _)

protected theorem grant (h : Steady s₀ s) {a : Nat} {excl : Bool} : Steady s₀ (grant s a excl).1 := by
  unfold grant
  dsimp only
  split
  · exact h.setDir.reply
  · split
    · split
      · exact h.sendBinv
      · exact h
    · exact h.setDir.reply

protected theorem enabledWrite (h : Steady s₀ s) {a : Nat} {es : List Bool} {bs : List Byte} : Steady s₀ (enabledWrite s a es bs) := by
  induction es generalizing s a bs with
  | nil => exact h
  | cons e es ih =>
    cases bs with
    | nil => exact h
    | cons b bs => exact ih (.ite h.dramWrite h)

protected theorem hostReads (h : Steady s₀ s) {a n : Nat} {go : State → State × Bool} (hf : ∀ s, Steady s₀ s → Steady s₀
    (go s).1) : Steady s₀ (hostReads s a n go).1 :=
  .ite_fst (.reply (.recordDram (.dramCheck (.ite h h.tableRead)))) (hf _ (.dramCheck (.ite h h.tableRead)))

protected theorem cohAct (h : Steady s₀ s) {c : Instr} : Steady s₀ (cohAct s c).1 := by
  unfold cohAct
  dsimp only
  split
  · exact .ite_fst h.reply (.hostReads h fun _ h => h.grant)
  · exact .ite_fst h.reply (.hostReads h fun _ h => h.grant)
  · exact .ite_fst h.reply (.hostReads h fun _ h => h.reply)
  · exact .ite_fst h.reply h.enabledWrite.reply
  · exact .ite_fst h.reply h.dramWrite.dirFree.update.reply
  · exact .ite_fst h.reply h.dirFree.reply
  · exact h

protected theorem cohTry (h : Steady s₀ s) {c : Instr} : Steady s₀ (cohTry s c) := .ite h.update h.pushSvc

protected theorem cohRetry (h : Steady s₀ s) : Steady s₀ (cohRetry s) := .foldl h.update fun _ _ h => h.cohTry

protected theorem takeWriteback (h : Steady s₀ s) {a : Nat} {d : List Byte} : Steady s₀ (takeWriteback s a d) :=
  .dirFree (.update (.ite h.dramWrite h))

protected theorem serveHost (h : Steady s₀ s) {c : Instr} : Steady s₀ (serveHost s c) := by
  unfold serveHost
  dsimp only
  split
  · exact h.takeWriteback.cohRetry
  · exact .cohRetry (.ite h.cohAct h.cohAct.update)

end Steady

namespace SteadyOut
variable {s₀ s : State}

protected theorem execServiceSlot (h : Steady s₀ s) {c : Nat} : SteadyOut s₀ (execServiceSlot c s) := by
  unfold execServiceSlot
  dsimp only
  refine .coreCmd h fun _ h => ?_
  split
  · exact h.setAside
  · split
    · split
      · exact h.setAside.portDrop.serveHost
      · exact h.setAside.serveLine
    · exact h.setAside

end SteadyOut

namespace Steady
variable {s₀ s : State}

protected theorem failHost (h : Steady s₀ s) : Steady s₀ (failHost s) := .foldl h.update fun _ _ h => h.reply

end Steady

namespace SteadyOut
variable {s₀ s : State}

protected theorem hostReq (h : Steady s₀ s) {c : Instr} {a n : Nat} : SteadyOut s₀ (hostReq c a n s) :=
  .ite .fault (.hostTxn h fun _ h => .ite h.cohTry h.reply)

protected theorem execRdS (h : Steady s₀ s) {a : Nat} : SteadyOut s₀ (execRdS a s) := .hostReq h

protected theorem execRdE (h : Steady s₀ s) {a : Nat} : SteadyOut s₀ (execRdE a s) := .hostReq h

protected theorem execRdNc (h : Steady s₀ s) {a len : Nat} : SteadyOut s₀ (execRdNc a len s) := .hostReq h

protected theorem execWrNc (h : Steady s₀ s) {a : Nat} {be : List Bool} {data : List Byte} : SteadyOut s₀ (execWrNc a be data s) :=
  .ite .fault (.hostReq h)

protected theorem execWb (h : Steady s₀ s) {a : Nat} {data : List Byte} : SteadyOut s₀ (execWb a data s) := .ite .fault (.hostReq h)

protected theorem execDrop (h : Steady s₀ s) {a : Nat} : SteadyOut s₀ (execDrop a s) := .hostReq h

end SteadyOut

namespace Steady
variable {s₀ s : State}

protected theorem binvAnswer (h : Steady s₀ s) {a : Nat} {data : Option (List Byte)} : Steady s₀ (binvAnswer s a data) := by
  unfold binvAnswer
  dsimp only
  split
  · exact h
  · split
    · exact h.pushSvc
    · exact .cohRetry (.ite h.update h.update.dirFree)

end Steady

namespace SteadyOut
variable {s₀ s : State}

protected theorem binvTxn (h : Steady s₀ s) {c : Instr} {a : Nat} {data : Option (List Byte)} : SteadyOut s₀ (binvTxn c a data s) :=
  .ite .fault (.hostTxn h fun _ h => h.binvAnswer)

protected theorem execBinvAck (h : Steady s₀ s) {a : Nat} : SteadyOut s₀ (execBinvAck a s) := .binvTxn h

protected theorem execBinvWb (h : Steady s₀ s) {a : Nat} {data : List Byte} : SteadyOut s₀ (execBinvWb a data s) := .binvTxn h

end SteadyOut

namespace Steady
variable {s₀ s : State}

protected theorem setInProgress (h : Steady s₀ s) {ch : Nat} {d : Option (List Byte)} : Steady s₀ (setInProgress s ch d) := h.update

protected theorem copyRingWrite (h : Steady s₀ s) {ch v : Nat} : Steady s₀ (copyRingWrite s ch v) :=
    h.regWrite.regWrite.regSetBits.regSetBits

protected theorem copyResume (h : Steady s₀ s) {v : Nat} : Steady s₀ (copyResume s v) := .foldl h fun _ _ h => .ite h.regSetBits h

protected theorem descRecall (h : Steady s₀ s) {x : Desc} : Steady s₀ (descRecall s x) := .foldl h fun _ _ h => h.sendBinv

protected theorem bulkRead (h : Steady s₀ s) {a n : Nat} : Steady s₀ (bulkRead s a n) := .foldl h fun _ _ h => h.emit

protected theorem bulkWrite (h : Steady s₀ s) {a : Nat} {bs : List Byte} : Steady s₀ (bulkWrite s a bs) := .foldl h fun _ _ h => h.emit

protected theorem bulkCheck (h : Steady s₀ s) {x : Desc} {n : Nat} : Steady s₀ (bulkCheck s x n) :=
  .ite h (.ite h.dramCheck.recordDram h.dramCheck)

protected theorem descWrite (h : Steady s₀ s) {x : Desc} {bs : List Byte} : Steady s₀ (descWrite s x bs) := by
  unfold descWrite
  dsimp only
  split
  · exact .foldl (h.withDram (memWrite_wf _ _ _)) fun _ _ h => h.writeTouch
  · exact h.modCore
  · exact h.modCore

protected theorem descEnd (h : Steady s₀ s) {ch : Nat} {x : Desc} {status : Nat} : Steady s₀ (descEnd s ch x status) :=
    h.setInProgress.emit.regSetBits

protected theorem haltChannel (h : Steady s₀ s) {ch : Nat} : Steady s₀ (haltChannel s ch) := h.regSetBits.raiseIrq

protected theorem descDone (h : Steady s₀ s) {ch : Nat} {x : Desc} {status : Nat} : Steady s₀ (descDone s ch x status) :=
  .ite h.descEnd.raiseIrq h.descEnd

protected theorem takeDesc (h : Steady s₀ s) {ch : Nat} {desc : Option (List Byte)} : Steady s₀ (takeDesc s ch desc) := by
  unfold takeDesc
  dsimp only
  split
  · exact h.emit.haltChannel
  · exact .ite h.emit.descDone (.ite h.emit.descDone (.descRecall (.ite h.emit.setInProgress.bulkRead h.emit.setInProgress)))

end Steady

namespace SteadyOut
variable {s₀ s : State}

protected theorem channelCmd (h : Steady s₀ s) {ch : Nat} {o : Out} (ho : SteadyOut s₀ o) : SteadyOut s₀ (channelCmd ch s o) :=
  .ite .refused (.ite ho (.next h))

protected theorem execCopyDoorbell (h : Steady s₀ s) {ch : Nat} {v : BitVec 32} : SteadyOut s₀ (execCopyDoorbell ch v s) :=
  .ite .refused (.mmioWrite h fun _ h => h.regWrite)

protected theorem execCopyRingWrite (h : Steady s₀ s) {ch : Nat} {v : BitVec 64} : SteadyOut s₀ (execCopyRingWrite ch v s) :=
  .ite .refused (.mmioWrite h fun _ h => h.copyRingWrite)

protected theorem execCopyResume (h : Steady s₀ s) {ch : Nat} : SteadyOut s₀ (execCopyResume ch s) :=
  .ite .refused (.mmioWrite h fun _ h => h.copyResume)

protected theorem execCopyDescriptor (h : Steady s₀ s) {ch : Nat} {desc : Option (List Byte)} : SteadyOut s₀
    (execCopyDescriptor ch desc s) := .ite .fault (.channelCmd h (.next (.ite h.takeDesc h)))

protected theorem execCopyDescriptorDone (h : Steady s₀ s) {ch : Nat} {data : List Byte} : SteadyOut s₀
    (execCopyDescriptorDone ch data s) := by
  unfold execCopyDescriptorDone
  dsimp only
  refine .channelCmd h ?_
  split
  · exact .next h
  · exact .ite (.next h) (.ite (.next h.descRecall) (.ite (.next h.descDone) (.ite .fault (.ite (.next h.descWrite.descDone)
    (.next h.bulkCheck.bulkWrite.descDone)))))

protected theorem execHostErr (h : Steady s₀ s) {ch : Nat} {data : List Byte} : SteadyOut s₀ (execHostErr ch data s) := by
  unfold execHostErr
  dsimp only
  refine .channelCmd h ?_
  split
  · exact .next h
  · exact .ite (.next h) (.ite (.next h.descRecall) (.ite .fault (.next (.haltChannel (.descEnd (.ite h
    (.ite h.descWrite h.bulkCheck.bulkWrite)))))))

end SteadyOut

namespace Steady
variable {s₀ s : State}

protected theorem setRingState (h : Steady s₀ s) {x : Nat} : Steady s₀ (setRingState s x) := h.update.regSetBits

protected theorem enterHoldover (h : Steady s₀ s) : Steady s₀ (enterHoldover s) := .ite h h.update.setRingState

protected theorem ringFollows (h : Steady s₀ s) {old : Nat} : Steady s₀ (ringFollows s old) := by
  unfold ringFollows
  extract_lets solo r₀ r s₁ r₂ r₁ s₂
  have h₁ : Steady s₀ s₁ := .ite h.update h
  have h₂ : Steady s₀ s₂ := .ite (.ite h₁ h₁.setRingState) (.ite h₁.update.setRingState h₁)
  exact .ite h₂.enterHoldover h₂

protected theorem ringCtlWrite (h : Steady s₀ s) {v : Nat} : Steady s₀ (ringCtlWrite s v) := h.regWrite.ringFollows

end Steady

namespace SteadyOut
variable {s₀ s : State}

protected theorem execTunRingctlWrite (h : Steady s₀ s) {v : BitVec 32} : SteadyOut s₀ (execTunRingctlWrite v s) :=
  .mmioWrite h fun _ h => h.ringCtlWrite

protected theorem execSyncSend (h : Steady s₀ s) : SteadyOut s₀ (execSyncSend s) := .next (.ite h (.ite h.passTo h.passTo.update.emit))

end SteadyOut

namespace Steady
variable {s₀ s : State}

protected theorem syncActs (h : Steady s₀ s) {e : ℤ} {target : Nat} : Steady s₀ (syncActs s e target) := by
  unfold syncActs
  dsimp only
  split
  · exact .ite (.ite h.setRingState h.update) (.ite h.update.update h.update)
  · exact .ite h.update (.ite h.setRingState h.update)
  · exact .ite h.setRingState h
  · exact h

protected theorem takeSync (h : Steady s₀ s) {w : SyncWord} : Steady s₀ (takeSync s w) :=
  .ite h.update.regSetBits.regSetBits.enterHoldover h.update.regSetBits.regSetBits.syncActs

end Steady

namespace SteadyOut
variable {s₀ s : State}

protected theorem execSyncReceive (h : Steady s₀ s) {w : SyncWord} : SteadyOut s₀ (execSyncReceive w s) :=
  .next (.ite h (.ite h.emit (.ite (.ite h h.emit) (.takeSync (.ite h h.emit)))))

protected theorem execSyncTimeout (h : Steady s₀ s) : SteadyOut s₀ (execSyncTimeout s) :=
  .next (.ite h (.ite h.passTo (.ite h.passTo.update.regSetBits.enterHoldover h.passTo.enterHoldover)))

end SteadyOut

namespace Steady
variable {s₀ s : State}

protected theorem armMute (h : Steady s₀ s) {src : Nat} : Steady s₀ (armMute s src) := h.update.regSetBits.regSetBits.regSetBits

protected theorem muteLate (h : Steady s₀ s) : Steady s₀ (muteLate s) := h.regSetBits

protected theorem armWrite (h : Steady s₀ s) : Steady s₀ (armWrite s) := .ite h.muteLate (.ite h h.armMute)

protected theorem muteCtlWrite (h : Steady s₀ s) {v : Nat} : Steady s₀ (muteCtlWrite s v) := .ite h.regWrite.armWrite h.regWrite.disarm

end Steady

namespace SteadyOut
variable {s₀ s : State}

protected theorem execMuteArm (h : Steady s₀ s) : SteadyOut s₀ (execMuteArm s) := .mmioWrite h fun _ h => h.armWrite

protected theorem execMuteDisarm (h : Steady s₀ s) : SteadyOut s₀ (execMuteDisarm s) := .mmioWrite h fun _ h => h.disarm

protected theorem execMuteNFall (h : Steady s₀ s) : SteadyOut s₀ (execMuteNFall s) :=
  .next (.ite h (.ite h.update (.ite h.update.muteLate (.ite h.update h.update.regPutNat.armMute))))

protected theorem execMuteFreeze (h : Steady s₀ s) : SteadyOut s₀ (execMuteFreeze s) := .next (.ite h.passTo h)

end SteadyOut

namespace Steady
variable {s₀ s : State}

protected theorem irqMaskWrite (h : Steady s₀ s) {v : Word} : Steady s₀ (irqMaskWrite s v) :=
  .foldl h.regWrite fun _ _ h => .ite h.doorbell h

protected theorem clearFaultLog (h : Steady s₀ s) : Steady s₀ (clearFaultLog s) := .regPutNat (.update (.foldl h fun _ _ h => h.regPutNat))

protected theorem mbxCtlWrite (h : Steady s₀ s) {n : Nat} {side : Side} {v : Word} : Steady s₀ (mbxCtlWrite s n side v) :=
  .ite h (.ite (.ite (.dueReset (.ackWrite (.ite h.regWrite.goWrite h.regWrite))) (.ackWrite (.ite h.regWrite.goWrite h.regWrite)))
    (.ite h.regWrite.goWrite h.regWrite))

protected theorem slotTouch (h : Steady s₀ s) {d o : Nat} : Steady s₀ (slotTouch s d o) := by
  unfold slotTouch
  split
  · exact .ite h.sadProg h
  · exact h

protected theorem epochWrite (h : Steady s₀ s) {d v : Nat} : Steady s₀ (epochWrite s d v) := h.epochBridge.restage.restQueues

protected theorem bridgeWord (h : Steady s₀ s) {d o : Nat} {v : Word} : Steady s₀ (bridgeWord s d o v) :=
  .ite h.linkCtlWrite (.ite (.ite h.regWrite.restartTraining h.regWrite) (.ite h.epochWrite (.ite h.shaperWrite (.ite h h.regWrite))))

protected theorem tileWord (h : Steady s₀ s) {t o : Nat} {v : Word} : Steady s₀ (tileWord s t o v) :=
  .ite h.modCore (.ite h.policerWrite (.ite h.refphWrite (.ite h h.regWrite)))

protected theorem apenoWord (h : Steady s₀ s) {o : Nat} {v : Word} : Steady s₀ (apenoWord s o v) :=
  .ite h.irqMaskWrite (.ite h.copyResume (.ite h.regWrite.regSetBits.regSetBits (.ite h.policerWrite h.regWrite)))

protected theorem soundpostWord (h : Steady s₀ s) {o : Nat} {v : Word} : Steady s₀ (soundpostWord s o v) :=
  .ite h.mbxCtlWrite (.ite h.mbxWrite (.ite h.policerWrite (.ite (.ite h.clearFaultLog h) h.regWrite)))

protected theorem tuningWord (h : Steady s₀ s) {o : Nat} {v : Word} : Steady s₀ (tuningWord s o v) :=
  .ite h.ringCtlWrite (.ite h.muteCtlWrite h.regWrite)

protected theorem wordWrite (h : Steady s₀ s) {a : Nat} {v : Word} : Steady s₀ (wordWrite s a v) :=
  .ite h.tileWord (.ite h.bridgeWord (.ite h.apenoWord (.ite h.soundpostWord (.ite h.tuningWord h.regWrite))))

protected theorem dcsStore (h : Steady s₀ s) {a sz v : Nat} : Steady s₀ (dcsStore s a sz v) :=
  .ite (.wordWrite (.wordWrite (.ite h.slotTouch h))) (.wordWrite (.ite h.slotTouch h))

end Steady

namespace SteadyOut
variable {s₀ s : State}

protected theorem dcsReadTxn (h : Steady s₀ s) {i : Instr} {a sz : Nat} {after : State → State} (hf : ∀ s, Steady s₀ s → Steady s₀
    (after s)) : SteadyOut s₀ (dcsReadTxn i a sz after s) := by
  unfold dcsReadTxn
  split
  · exact .next h.emit
  · refine .hostTxn h fun _ h => ?_
    split
    · exact hf _ h.emit
    · exact h.emit

protected theorem dcsTxn (h : Steady s₀ s) {i : Instr} {a sz v : Nat} : SteadyOut s₀ (dcsTxn i a sz v s) :=
  .ite (.mmioWrite h fun _ h => h.dcsStore) (.ite (.next h.emit) (.hostTxn h fun _ h => h.emit))

protected theorem execDcsWrite (h : Steady s₀ s) {a : BitVec 32} {sz : Nat} {v : BitVec 64} : SteadyOut s₀ (execDcsWrite a sz v s) :=
  .dcsTxn h

protected theorem execSaddleSlotWrite (h : Steady s₀ s) {a : BitVec 32} {sz : Nat} {v : BitVec 64} : SteadyOut s₀
    (execSaddleSlotWrite a sz v s) := .ite (.dcsTxn h) .refused

protected theorem execEpochWrite (h : Steady s₀ s) {d : Nat} {v : BitVec 32} : SteadyOut s₀ (execEpochWrite d v s) :=
  .bridgeWrite h fun _ h => h.epochWrite

protected theorem execIrqMaskWrite (h : Steady s₀ s) {v : BitVec 32} : SteadyOut s₀ (execIrqMaskWrite v s) :=
  .mmioWrite h fun _ h => h.irqMaskWrite

protected theorem execFaultLogClear (h : Steady s₀ s) : SteadyOut s₀ (execFaultLogClear s) := .mmioWrite h fun _ h => h.clearFaultLog

protected theorem execRstcauseRead (h : Steady s₀ s) : SteadyOut s₀ (execRstcauseRead s) := .dcsReadTxn h fun _ h => h.regSetBits

protected theorem mbxCtlCmd (h : Steady s₀ s) {i : Instr} {n : Nat} {src : Side} {v : Word} : SteadyOut s₀ (mbxCtlCmd i n src v s) := by
  unfold mbxCtlCmd
  split
  · exact .refused
  · split
    · exact .mmioWrite h fun _ h => h.mbxCtlWrite
    · exact .ite .refused (.next (.ite h.mbxCtlWrite h))

protected theorem execMbxGo (h : Steady s₀ s) {n : Nat} {src : Side} : SteadyOut s₀ (execMbxGo n src s) := .mbxCtlCmd h

protected theorem execMbxAck (h : Steady s₀ s) {n : Nat} {src : Side} : SteadyOut s₀ (execMbxAck n src s) := .mbxCtlCmd h

end SteadyOut

namespace SteadyPlan

protected theorem planMset {c : Nat} {f : FmtI} {s : State} {k : Core} : SteadyPlan (planMset c f s k) := by
  unfold planMset
  dsimp only
  split
  · exact .reading (.withEff .onCore)
  · exact .bad

protected theorem planMscale {c : Nat} {f : FmtR} {s : State} {k : Core} : SteadyPlan (planMscale c f s k) := by
  unfold planMscale
  dsimp only
  split
  · exact .reading .onCore
  · exact .bad

protected theorem planMalda {c : Nat} {f : FmtI} {s : State} {k : Core} : SteadyPlan (planMalda c f s k) := by
  unfold planMalda
  dsimp only
  split
  · exact .bad
  · exact .reading (.withEff .onCore)

protected theorem planMma {c : Nat} {f : FmtM} {s : State} {k : Core} : SteadyPlan (planMma c f s k) := by
  unfold planMma
  dsimp only
  split
  · exact .bad
  · exact .withEff .onCore

protected theorem planAccinit {c : Nat} {f : FmtA} {s : State} {k : Core} : SteadyPlan (planAccinit c f s k) := by
  unfold planAccinit
  dsimp only
  split
  · exact .ite .bad .onCore
  · exact .bad

protected theorem planAccld {c : Nat} {f : FmtA} {s : State} {k : Core} : SteadyPlan (planAccld c f s k) := by
  unfold planAccld
  dsimp only
  split
  · exact .ite .bad (.reading .onCore)
  · exact .bad

protected theorem planDrain {c : Nat} {f : FmtA} {s : State} {k : Core} : SteadyPlan (planDrain c f s k) := .ite .bad .onCore

protected theorem planAccrd {c : Nat} {f : FmtA} {s : State} {k : Core} : SteadyPlan (planAccrd c f s k) := by
  unfold planAccrd
  dsimp only
  split
  · exact .ite .bad (.reading .onCore)
  · exact .bad

end SteadyPlan

namespace Steady
variable {s₀ s : State}

protected theorem beginColl (h : Steady s₀ s) {c : Nat} {p : CollPost} : Steady s₀ (beginColl c p s) := h.modCore.checkArrived

protected theorem postColl (h : Steady s₀ s) {c pc : Nat} {p : CollPost} : Steady s₀ (postColl c pc p s) := h.modCore

end Steady

namespace SteadyPlan

protected theorem planFused {c : Nat} {f : FmtX} {kind : Nat} {own : Core → CollDesc → Option (Course × Nat) → List Nat}
    {needs : Core → CollDesc → Nat → List Need} {eff : Nat → CollAt → State → State}
    {reads : Core → CollDesc → Nat → List (Nat × List Nat)} {s : State} {k : Core}
    (hf : ∀ {n x s₀ s}, Steady s₀ s → Steady s₀ (eff n x s)) : SteadyPlan (planFused c f kind own needs eff reads s k) := by
  unfold planFused
  split
  · exact .bad
  · refine .acts fun _ _ h => ?_
    split
    · exact hf h
    · exact h

end SteadyPlan

namespace Steady
variable {s₀ s : State}

protected theorem startSeq (h : Steady s₀ s) {c pc : Nat} {x : CollAt} {off : Nat} {mode : AccMode} {drains : Bool} {pieces : List
    (Option Nat)} {gates : List (Nat × Nat)} {post : Option CollPost} : Steady s₀ (startSeq c pc x off mode drains pieces gates post s)
      := by
  unfold startSeq
  dsimp only
  split
  · exact h
  · exact h.modCore

protected theorem effMmAg (h : Steady s₀ s) {c pc : Nat} {x : CollAt} : Steady s₀ (effMmAg c pc x s) := by
  unfold effMmAg
  dsimp only
  split
  · exact h
  · exact h.startSeq.postColl.beginColl

end Steady

namespace SteadyPlan

protected theorem planMmAg {c : Nat} {f : FmtX} {s : State} {k : Core} : SteadyPlan (planMmAg c f s k) := .planFused fun h => h.effMmAg

end SteadyPlan

namespace Steady
variable {s₀ s : State}

protected theorem effMmRs (h : Steady s₀ s) {c pc : Nat} {x : CollAt} : Steady s₀ (effMmRs c pc x s) := h.startSeq.beginColl

end Steady

namespace SteadyPlan

protected theorem planMmRs {c : Nat} {f : FmtX} {s : State} {k : Core} : SteadyPlan (planMmRs c f s k) := .planFused fun h => h.effMmRs

end SteadyPlan

namespace Steady
variable {s₀ s : State}

protected theorem effAccAr (h : Steady s₀ s) {c pc : Nat} {x : CollAt} : Steady s₀ (effAccAr c pc x s) := h.modCore.postColl.beginColl

end Steady

namespace SteadyPlan

protected theorem planAccAr {c : Nat} {f : FmtX} {s : State} {k : Core} : SteadyPlan (planAccAr c f s k) := .planFused fun h => h.effAccAr

end SteadyPlan

namespace Steady
variable {s₀ s : State}

protected theorem byCounts (h : Steady s₀ s) {c b : Nat} : Steady s₀ (byCounts s c b) := .ite h.setRule h

protected theorem effXchV (h : Steady s₀ s) {c pc : Nat} {x : CollAt} : Steady s₀ (effXchV c pc x s) := h.byCounts.postColl.beginColl

end Steady

namespace SteadyPlan

protected theorem planXchV {c : Nat} {f : FmtX} {s : State} {k : Core} : SteadyPlan (planXchV c f s k) := .planFused fun h => h.effXchV

end SteadyPlan

namespace Steady
variable {s₀ s : State}

protected theorem effGthV (h : Steady s₀ s) {c pc : Nat} {x : CollAt} : Steady s₀ (effGthV c pc x s) :=
  .beginColl (.postColl (.ite h.byCounts h))

end Steady

namespace SteadyPlan

protected theorem planGthV {c : Nat} {f : FmtX} {s : State} {k : Core} : SteadyPlan (planGthV c f s k) := .planFused fun h => h.effGthV

end SteadyPlan

namespace Steady
variable {s₀ s : State}

protected theorem mergeLand (h : Steady s₀ s) {t : Nat} {d : List Byte} {m : SMap Nat} : Steady s₀ (mergeLand s t d m) := h.setRule.landAt

protected theorem mergeUpset (h : Steady s₀ s) {t vt : Nat} {m : SMap Nat} : Steady s₀ (mergeUpset s t vt m).1 := by
  unfold mergeUpset
  split
  · next he => exact (h.takeUnitUpset.of_eq he).unitCheck
  · next he => exact h.takeUnitUpset.of_eq he

protected theorem mergeTake (h : Steady s₀ s) {t : Nat} {g : Merge} {x : MergePost} : Steady s₀ (mergeTake s t g x) :=
  .ite h.modTile.mergeUpset.mergeLand h.modTile

end Steady

namespace SteadyOut
variable {s₀ s : State}

protected theorem execMergeContribution (h : Steady s₀ s) {t : Nat} : SteadyOut s₀ (execMergeContribution t s) := by
  unfold execMergeContribution
  dsimp only
  refine .tileCmd h fun _ h => ?_
  split
  · exact h
  · split
    · exact .ite h h.modTile.mergeTake
    · exact .ite h.modTile.recordTile (.ite h h.modTile.mergeTake)

end SteadyOut

namespace Steady
variable {s₀ s : State}

protected theorem recordMeasures (h : Steady s₀ s) {m : Sensors} {a : Nat} : Steady s₀ (recordMeasures s m a) :=
    h.regPutNat.regPutNat.regPutNat

protected theorem governorEvents (h : Steady s₀ s) {m : Sensors} {v : Verdict} {peakOut avgOver : Bool} :
    Steady s₀ (governorEvents s m v peakOut avgOver) := by
  unfold governorEvents
  extract_lets s₁ s₂ s₃
  have h₁ : Steady s₀ s₁ := .ite h.powerEvent h
  have h₂ : Steady s₀ s₂ := .ite h₁.powerEvent h₁
  have h₃ : Steady s₀ s₃ := .ite h₂.powerEvent h₂
  exact .ite h₃.powerEvent h₃

protected theorem governorPeriod (h : Steady s₀ s) {m : Sensors} : Steady s₀ (governorPeriod s m) :=
    h.update.regSetBits.regSetBits.regSetBits.regSetBits.regSetBits.recordMeasures.governorEvents

end Steady

namespace SteadyOut
variable {s₀ s : State}

protected theorem execGovernorPeriod (h : Steady s₀ s) {m : Sensors} : SteadyOut s₀ (execGovernorPeriod m s) :=
  .ite .fault (.next (.ite h (.ite h.passTo h.passTo.update.governorPeriod)))

end SteadyOut

namespace Steady
variable {s₀ s : State}

protected theorem writeWear (h : Steady s₀ s) : Steady s₀ (writeWear s) := h.withFlash ⟨le_rfl, le_rfl, le_rfl, le_rfl⟩

end Steady

namespace SteadyOut
variable {s₀ s : State}

protected theorem execWearLogWrite (h : Steady s₀ s) : SteadyOut s₀ (execWearLogWrite s) := .next (.ite h.writeWear h)

protected theorem execPowerQuery (h : Steady s₀ s) {n : Nat} : SteadyOut s₀ (execPowerQuery n s) := .mbxCmd h fun _ h => h

end SteadyOut

namespace Steady
variable {s₀ s : State}

protected theorem setPwr (h : Steady s₀ s) {x : Nat} : Steady s₀ (setPwr s x) := h.regSetBits

protected theorem zeroDuty (h : Steady s₀ s) : Steady s₀ (zeroDuty s) := h.update.regSetBits

protected theorem exitA1 (h : Steady s₀ s) : Steady s₀ (exitA1 s) := .ite h.setPwr.zeroDuty h

protected theorem restoreTiles (h : Steady s₀ s) : Steady s₀ (restoreTiles s) := by
  refine ⟨fun h₀ => ?_, h.2⟩
  obtain ⟨hdram, hregs, hcores, hbridges, htiles, hmbx, hsaved, hlow⟩ := h.1 h₀
  exact ⟨hdram, smWf_append _ _ _ _ hsaved (smWf_filter _ _ _ hregs) hlow fun e he => of_decide_eq_true (List.mem_filter.mp he).2,
    hcores, hbridges, htiles, hmbx, rfl, fun e he => nomatch he⟩

protected theorem exitA2 (h : Steady s₀ s) : Steady s₀ (exitA2 s) :=
  .resetDone (.foldl h.setPwr.zeroDuty.restoreTiles.planeReset fun _ _ h => h.spillInForce)

protected theorem exitA3 (h : Steady s₀ s) : Steady s₀ (exitA3 s) := ((h.withDram fun _ => rfl).setPwr).zeroDuty

protected theorem throughA0 (h : Steady s₀ s) : Steady s₀ (throughA0 s) := by
  unfold throughA0
  split
  · exact h.exitA1
  · exact h.exitA2
  · exact h.exitA3.deviceReset
  · exact h

protected theorem powerAnswer (h : Steady s₀ s) : Steady s₀ (powerAnswer s).1 := h

end Steady

namespace SteadyOut
variable {s₀ s : State}

protected theorem execPowerSetA0 (h : Steady s₀ s) {n : Nat} : SteadyOut s₀ (execPowerSetA0 n s) := by
  unfold execPowerSetA0
  dsimp only
  refine .mbxCmd h fun _ h => ?_
  split
  · exact h.exitA3.update.powerAnswer
  · exact h.throughA0.powerAnswer

protected theorem execPowerSetA1 (h : Steady s₀ s) {n : Nat} : SteadyOut s₀ (execPowerSetA1 n s) :=
  .mbxCmd h fun _ h => .ite_fst h.powerAnswer (.ite_fst h h.throughA0.setPwr.powerAnswer)

end SteadyOut

namespace Steady
variable {s₀ s : State}

protected theorem beginA2 (h : Steady s₀ s) {n : Nat} : Steady s₀ (beginA2 s n) := .update (.foldl h.throughA0 fun _ _ h => h.modBridge)

end Steady

namespace SteadyOut
variable {s₀ s : State}

protected theorem execPowerSetA2 (h : Steady s₀ s) {n : Nat} : SteadyOut s₀ (execPowerSetA2 n s) :=
  .ite .refused (.next (.ite h (.ite h.respond.settleQueue (.ite h.respond.settleQueue (.ite h.respond.settleQueue h.beginA2)))))

end SteadyOut

namespace Steady
variable {s₀ s : State}

protected theorem gateTiles (h : Steady s₀ s) : Steady s₀ (gateTiles s) :=
  (h.failHost.saveTiles.rebuilt (cores := fun _ => rfl) (tiles := fun _ => smWf_foldl_smSet _ _ _ _ _ rfl)).setPwr

end Steady

namespace SteadyOut
variable {s₀ s : State}

protected theorem execA2TileGate (h : Steady s₀ s) : SteadyOut s₀ (execA2TileGate s) := by
  unfold execA2TileGate
  dsimp only
  refine .next ?_
  split
  · exact h
  · exact .ite h h.gateTiles.update.respond.settleQueue

end SteadyOut

namespace Steady
variable {s₀ s : State}

protected theorem darken (h : Steady s₀ s) : Steady s₀ (darken s) :=
  (((((h.withCores fun _ => rfl).withRegs (smWf_filter _ _ _)).withBridges fun _ => rfl).withTiles fun _ => rfl).dropSaved).update

protected theorem enterA3 (h : Steady s₀ s) : Steady s₀ (enterA3 s) := .setPwr (.darken (.failHost (.foldl h fun _ _ h => h.disableLink)))

end Steady

namespace SteadyOut
variable {s₀ s : State}

protected theorem execPowerSetA3 (h : Steady s₀ s) {n : Nat} : SteadyOut s₀ (execPowerSetA3 n s) :=
  .mbxCmd h fun _ h => .ite_fst h.powerAnswer (.ite_fst h h.throughA0.enterA3.powerAnswer)

end SteadyOut

namespace Steady
variable {s₀ s : State}

protected theorem setTopology (h : Steady s₀ s) {p : List Byte} : Steady s₀ (setTopology s p) :=
  .foldl h.writeTopology.ringFollows fun _ _ h => .ite h.writeLink.restartTraining h.writeLink

end Steady

namespace SteadyOut
variable {s₀ s : State}

protected theorem execSetTopology (h : Steady s₀ s) {n : Nat} : SteadyOut s₀ (execSetTopology n s) :=
  .mbxCmd h fun _ h => .ite_fst h.setTopology h

protected theorem execSetCourseTable (h : Steady s₀ s) {n : Nat} : SteadyOut s₀ (execSetCourseTable n s) := by
  unfold execSetCourseTable
  dsimp only
  refine .mbxCmd h fun _ h => ?_
  split
  · exact h
  · split
    · exact h
    · exact h.writeCourses

protected theorem execSetRegionTable (h : Steady s₀ s) {n : Nat} : SteadyOut s₀ (execSetRegionTable n s) :=
  .mbxCmd h fun _ h => .ite_fst h h.writeRegions

end SteadyOut

namespace Steady
variable {s₀ s : State}

protected theorem writeSect (h : Steady s₀ s) {img : List Byte} {x : Sect} : Steady s₀ (writeSect s img x) := by
  unfold writeSect
  dsimp only
  refine .foldl h fun _ _ h => ?_
  split
  · exact h.modCore
  · exact h.modCore
  · exact h.withDram (memWrite_wf _ _ _)

protected theorem writeFingerprints (h : Steady s₀ s) {img : List Byte} {key0 key1 mod : Nat} : Steady s₀
    (writeFingerprints s img key0 key1 mod) := h.regPutNat.regPutNat

protected theorem writeSeeds (h : Steady s₀ s) {key0 key1 mod pol : Nat} : Steady s₀ (writeSeeds s key0 key1 mod pol) :=
  .foldl h fun _ _ h => h.regPut.regPut.regPut.regPut

protected theorem placeImage (h : Steady s₀ s) {n : Nat} {img : List Byte} : Steady s₀ (placeImage s n img) :=
  .regPut (.writeFingerprints (.writeSeeds (.update (.foldl h fun _ _ h => h.writeSect))))

protected theorem loadProgram (h : Steady s₀ s) {n : Nat} {img : Option (List Byte)} : Steady s₀ (loadProgram s n img).1 := by
  unfold loadProgram
  dsimp only
  split
  · exact h
  · split
    · exact h
    · split
      · exact h.planeReset.resetDone.emit
      · exact .ite_fst h.planeReset.resetDone.emit h.planeReset.resetDone.emit.placeImage

end Steady

namespace SteadyOut
variable {s₀ s : State}

protected theorem execLoadProgram (h : Steady s₀ s) {n : Nat} {img : Option (List Byte)} : SteadyOut s₀ (execLoadProgram n img s) :=
  .ite .fault (.mbxCmd h fun _ h => h.loadProgram)

end SteadyOut

namespace Steady
variable {s₀ s : State}

protected theorem writeSlot (h : Steady s₀ s) {d i : Nat} {x : Slot} : Steady s₀ (writeSlot s d i x) :=
  .foldl (.foldl h.writeWords fun _ _ h => h.writeWords) fun _ _ h => h.writeWords

end Steady

namespace SteadyOut
variable {s₀ s : State}

protected theorem execLoadSaddleProgram (h : Steady s₀ s) {n : Nat} : SteadyOut s₀ (execLoadSaddleProgram n s) :=
  .mbxCmd h fun _ h => .ite_fst h (.foldl h fun _ _ h => h.writeSlot)

end SteadyOut

namespace Steady
variable {s₀ s : State}

protected theorem armRun (h : Steady s₀ s) {l : Nat} {resume : Option Nat} : Steady s₀ (armRun s l resume) :=
  .update (.regSetBits (.regPutNat (.foldl h.mapCores fun _ _ h => h.regPut)))

end Steady

namespace SteadyOut
variable {s₀ s : State}

protected theorem execLaunch (h : Steady s₀ s) {n : Nat} : SteadyOut s₀ (execLaunch n s) :=
  .mbxCmd h fun _ h => .ite_fst h (.ite_fst h h.exitA1.armRun)

protected theorem execPause (h : Steady s₀ s) {n : Nat} : SteadyOut s₀ (execPause n s) := .mbxCmd h fun _ h => .ite_fst h h.update

protected theorem execContRun (h : Steady s₀ s) {n : Nat} : SteadyOut s₀ (execContRun n s) :=
  .mbxCmd h fun _ h => .ite_fst h (.ite_fst h h.exitA1.regPutNat.update)

protected theorem execAbortStep (h : Steady s₀ s) {n : Nat} : SteadyOut s₀ (execAbortStep n s) :=
  .mbxCmd h fun s h => by
    dsimp only
    exact h.stepAbort

protected theorem waited (h : Steady s₀ s) {i : Instr} : SteadyOut s₀ (waited i s) := by
  cases i with
  | linkEnable => exact .execLinkEnable h
  | linkDisable => exact .execLinkDisable h
  | linkRetrain => exact .execLinkRetrain h
  | linkConfigWrite => exact .execLinkConfigWrite h
  | shaperCommit => exact .execShaperCommit h
  | policerCommit => exact .execPolicerCommit h
  | epochWrite => exact .execEpochWrite h
  | copyDoorbell => exact .execCopyDoorbell h
  | copyRingWrite => exact .execCopyRingWrite h
  | copyResume => exact .execCopyResume h
  | irqMaskWrite => exact .execIrqMaskWrite h
  | dcsWrite => exact .execDcsWrite h
  | saddleSlotWrite => exact .execSaddleSlotWrite h
  | faultLogClear => exact .execFaultLogClear h
  | rstcauseRead => exact .execRstcauseRead h
  | mbxGo => exact .execMbxGo h
  | mbxAck => exact .execMbxAck h
  | tunRingctlWrite => exact .execTunRingctlWrite h
  | muteArm => exact .execMuteArm h
  | muteDisarm => exact .execMuteDisarm h
  | rdS => exact .execRdS h
  | rdE => exact .execRdE h
  | rdNc => exact .execRdNc h
  | wrNc => exact .execWrNc h
  | wb => exact .execWb h
  | drop => exact .execDrop h
  | binvAck => exact .execBinvAck h
  | binvWb => exact .execBinvWb h
  | _ => exact .next h

end SteadyOut

namespace Steady
variable {s₀ s : State}

protected theorem afterOut (h : Steady s₀ s) {o : Out} (ho : SteadyOut s₀ o) : Steady s₀ (afterOut s o) := by
  unfold afterOut
  split
  · exact ho _ rfl
  · exact h

protected theorem replay (h : Steady s₀ s) : Steady s₀ (replay s) := .foldl h.update fun _ _ h => .afterOut h (.waited h)

protected theorem askResume (h : Steady s₀ s) : Steady s₀ (askResume s) := .ite h (.ite h.update h.regSetBits)

end Steady

namespace SteadyOut
variable {s₀ s : State}

protected theorem execMuteNRise (h : Steady s₀ s) : SteadyOut s₀ (execMuteNRise s) := .next (.ite h h.update.askResume)

protected theorem execMuteResume (h : Steady s₀ s) : SteadyOut s₀ (execMuteResume s) :=
  .ite (.next (.ite h.askResume h)) (.mmioWrite h fun _ h => h)

end SteadyOut

namespace Steady
variable {s₀ s : State}

protected theorem unmute (h : Steady s₀ s) : Steady s₀ (unmute s) := h.update.regSetBits

end Steady

namespace SteadyOut
variable {s₀ s : State}

protected theorem execMuteThaw (h : Steady s₀ s) : SteadyOut s₀ (execMuteThaw s) := .next (.ite h.unmute.replay h)

protected theorem execScanShift (h : Steady s₀ s) {seg : Nat} : SteadyOut s₀ (execScanShift seg s) :=
  .ite .refused (.next (.ite h (.ite h.emit h.update.emit)))

protected theorem execMemoryInstrumentRead (h : Steady s₀ s) {c : Nat} {arr : MemArray} {a : Nat} : SteadyOut s₀
    (execMemoryInstrumentRead c arr a s) := .ite .refused (.ite .fault (.next (.ite h.emit h)))

protected theorem execTapReset (h : Steady s₀ s) : SteadyOut s₀ (execTapReset s) := .next h

end SteadyOut

namespace Steady
variable {s₀ s : State}

protected theorem loseMute (h : Steady s₀ s) : Steady s₀ (loseMute s) := .ite h h.update.regSetBits

protected theorem loseDies (h : Steady s₀ s) : Steady s₀ (loseDies s) := by
  have hd : Steady s₀ { darken (failHost s) with dram := [], plane := { (failHost s).plane with mesh := [] } } :=
    h.failHost.darken.rebuilt (dram := fun _ => rfl)
  exact .ite hd.raiseIrq hd

protected theorem recordTrip (h : Steady s₀ s) {code : Nat} : Steady s₀ (recordTrip s code) := h.recordAs.regSetBits.powerEvent.update

protected theorem endWaits (h : Steady s₀ s) : Steady s₀ (endWaits s) := by
  unfold endWaits
  dsimp only
  split
  · exact h.update
  · exact h.update.update.respond.settleQueue

protected theorem trip (h : Steady s₀ s) {code : Nat} : Steady s₀ (trip s code) :=
  .ite h (.replay (.endWaits (.setPwr (.ite h.loseMute.loseDies.recordTrip.update.writeWear h.loseMute.loseDies.recordTrip))))

end Steady

namespace SteadyOut
variable {s₀ s : State}

protected theorem execThermalTrip (h : Steady s₀ s) : SteadyOut s₀ (execThermalTrip s) := .next h.trip

protected theorem execPowerTrip (h : Steady s₀ s) : SteadyOut s₀ (execPowerTrip s) := .next h.trip

protected theorem execUndervoltageStop (h : Steady s₀ s) : SteadyOut s₀ (execUndervoltageStop s) := .next h.trip

protected theorem smbCmd (h : Steady s₀ s) {pec : Bool} {f : State → State} (hf : ∀ s, Steady s₀ s → Steady s₀ (f s)) : SteadyOut s₀
    (smbCmd pec s f) := .next (.ite (hf _ h) h.emit)

end SteadyOut

namespace Steady
variable {s₀ s : State}

protected theorem smbAck (h : Steady s₀ s) {bs : List Byte} : Steady s₀ (smbAck s bs) := h.emit

end Steady

namespace SteadyOut
variable {s₀ s : State}

protected theorem execSmbSetOffset (h : Steady s₀ s) {v : BitVec 16} {pec : Bool} : SteadyOut s₀ (execSmbSetOffset v pec s) :=
  .smbCmd h fun _ h => .ite h.update.smbAck h.emit

protected theorem execSmbBlockWrite (h : Steady s₀ s) {data : List Byte} {pec : Bool} : SteadyOut s₀ (execSmbBlockWrite data pec s) :=
  .ite .fault (.smbCmd h fun _ h => h.mbxWrite.update.smbAck)

protected theorem execSmbBlockRead (h : Steady s₀ s) {pec : Bool} : SteadyOut s₀ (execSmbBlockRead pec s) :=
  .smbCmd h fun _ h => h.update.smbAck

protected theorem execSmbReadCtl (h : Steady s₀ s) {pec : Bool} : SteadyOut s₀ (execSmbReadCtl pec s) := .smbCmd h fun _ h => h.smbAck

protected theorem execSmbAlertResponse (h : Steady s₀ s) {pec : Bool} : SteadyOut s₀ (execSmbAlertResponse pec s) :=
  .smbCmd h fun _ h => .ite h.emit h.update.smbAck

protected theorem pmbusWord (h : Steady s₀ s) {pec : Bool} {f : State → Nat} : SteadyOut s₀ (pmbusWord pec s f) :=
  .smbCmd h fun _ h => h.smbAck

protected theorem execStatusWord (h : Steady s₀ s) {pec : Bool} : SteadyOut s₀ (execStatusWord pec s) := .pmbusWord h

protected theorem execReadVin (h : Steady s₀ s) {pec : Bool} : SteadyOut s₀ (execReadVin pec s) := .pmbusWord h

protected theorem execReadIin (h : Steady s₀ s) {pec : Bool} : SteadyOut s₀ (execReadIin pec s) := .pmbusWord h

protected theorem execReadTemperature1 (h : Steady s₀ s) {pec : Bool} : SteadyOut s₀ (execReadTemperature1 pec s) := .pmbusWord h

protected theorem execReadTemperature2 (h : Steady s₀ s) {pec : Bool} : SteadyOut s₀ (execReadTemperature2 pec s) := .pmbusWord h

protected theorem execReadPin (h : Steady s₀ s) {pec : Bool} : SteadyOut s₀ (execReadPin pec s) := .pmbusWord h

protected theorem execPmbusRevision (h : Steady s₀ s) {pec : Bool} : SteadyOut s₀ (execPmbusRevision pec s) := .smbCmd h fun _ h => h.smbAck

end SteadyOut

namespace SteadyPlan

protected theorem planSparse {c op : Nat} {check : List Byte → List Nat} {f : FmtI} {s : State} {k : Core} : SteadyPlan
    (planSparse c op check f s k) := by
  unfold planSparse
  dsimp only
  split
  · exact .bad
  · exact .ite .bad (.withEff .onCore)

protected theorem planSpjoin {c : Nat} {s : State} {k : Core} : SteadyPlan (planSpjoin c s k) := .onCore

end SteadyPlan

namespace SteadyOut
variable {s₀ s : State}

protected theorem execSparseRunDone (h : Steady s₀ s) {c : Nat} : SteadyOut s₀ (execSparseRunDone c s) := by
  unfold execSparseRunDone
  split
  · exact .refused
  · split
    · exact .next (.ite h.passTo h)
    · exact .next h

end SteadyOut

namespace SteadyPlan

protected theorem planSpmerge {c : Nat} {f : FmtI} {s : State} {k : Core} : SteadyPlan (planSpmerge c f s k) := by
  unfold planSpmerge
  dsimp only
  split
  · exact .bad
  · exact .ite .bad (.withEff .onCore)

end SteadyPlan

namespace SteadyOut
variable {s₀ s : State}

protected theorem execTelemetrySummary (h : Steady s₀ s) {n : Nat} : SteadyOut s₀ (execTelemetrySummary n s) :=
  .mbxCmd h fun _ h => h.update

protected theorem execTelemetryBridge (h : Steady s₀ s) {n : Nat} : SteadyOut s₀ (execTelemetryBridge n s) :=
  .mbxCmd h fun _ h => .ite_fst h.update h

end SteadyOut

/-- The instructions of a core: the plan of each row keeps a state steady. -/
theorem row_steady {s₀ s : State} (h : Steady s₀ s) {i : Instr} (hi : (rowPred i).isSome) : SteadyOut s₀ (exec i s) := by
  cases i with
  | halt => exact .issue h fun _ _ => .planHalt
  | stepend c p f => exact .execStepend h (f := f)
  | gate => exact .issue h fun _ _ => .planGate
  | capo => exact .issue h fun _ _ => .planCapo
  | br => exact .issue h fun _ _ => .planBr
  | brr => exact .issue h fun _ _ => .planBrr
  | add | sub | mul | mulh | mulhu => exact .issue h fun _ _ => .residue .aluRR
  | and | or | xor | shl | shr | sra | min | max | minu | maxu => exact .issue h fun _ _ => .aluRR
  | icmp => exact .issue h fun _ _ => .planIcmp
  | pand | por | pxor => exact .issue h fun _ _ => .predRR
  | pnot => exact .issue h fun _ _ => .planPnot
  | addi => exact .issue h fun _ _ => .residue .aluRI
  | andi | ori | xori | shli | shri | srai => exact .issue h fun _ _ => .aluRI
  | li => exact .issue h fun _ _ => .planLi
  | csrr => exact .issue h fun _ _ => .planCsrr
  | csrw => exact .issue h fun _ _ => .planCsrw
  | rdid => exact .issue h fun _ _ => .planRdid
  | fadd | fsub | fmul | ffma | fdiv | fsqrt => exact .issue h fun _ _ => .residue .fpPlan
  | fmin | fmax | fminnum | fmaxnum | fneg | fabs => exact .issue h fun _ _ => .fpPlan
  | fcmp => exact .issue h fun _ _ => .planFcmp
  | fcvt => exact .issue h fun _ _ => .planFcvt
  | vfadd | vfsub | vfmul | vffma | vfdiv | vfsqrt => exact .issue h fun _ _ => .residue .vfPlan
  | vfmin | vfmax | vfminnum | vfmaxnum | vfneg | vfabs => exact .issue h fun _ _ => .vfPlan
  | vfcmp => exact .issue h fun _ _ => .planVfcmp
  | vcvt => exact .issue h fun _ _ => .planVcvt
  | vadd | vsub | vmul => exact .issue h fun _ _ => .residue .viPlan
  | vand | vor | vxor | vshl | vshr | vsra | vmin | vmax | vminu | vmaxu => exact .issue h fun _ _ => .viPlan
  | vperm => exact .issue h fun _ _ => .planVperm
  | vsel => exact .issue h fun _ _ => .planVsel
  | vbcast => exact .issue h fun _ _ => .planVbcast
  | vext => exact .issue h fun _ _ => .planVext
  | vqmx => exact .issue h fun _ _ => .planVqmx
  | vdqmx => exact .issue h fun _ _ => .planVdqmx
  | vqeb4 => exact .issue h fun _ _ => .planVqeb4
  | vdqeb4 => exact .issue h fun _ _ => .planVdqeb4
  | movrx => exact .issue h fun _ _ => .planMovrx
  | ld => exact .issue h fun _ _ => .residue .planLd
  | st => exact .issue h fun _ _ => .residue .planSt
  | sld => exact .issue h fun _ _ => .residue .planSld
  | sst => exact .issue h fun _ _ => .residue .planSst
  | ifill => exact .issue h fun _ _ => .residue .planIfill
  | smsend => exact .issue h fun _ _ => .planSmsend
  | smsendv => exact .issue h fun _ _ => .planSmsendv
  | outpost => exact .issue h fun _ _ => .residue .planOutpost
  | lbarm => exact .issue h fun _ _ => .planLbarm
  | mset => exact .issue h fun _ _ => .residue .planMset
  | mscale => exact .issue h fun _ _ => .planMscale
  | malda => exact .issue h fun _ _ => .planMalda
  | mma => exact .issue h fun _ _ => .planMma
  | accinit => exact .issue h fun _ _ => .planAccinit
  | accld => exact .issue h fun _ _ => .planAccld
  | drain => exact .issue h fun _ _ => .planDrain
  | accrd => exact .issue h fun _ _ => .planAccrd
  | mmAg => exact .issue h fun _ _ => .planMmAg
  | mmRs => exact .issue h fun _ _ => .planMmRs
  | accAr => exact .issue h fun _ _ => .planAccAr
  | xchV => exact .issue h fun _ _ => .planXchV
  | gthV => exact .issue h fun _ _ => .planGthV
  | spdot | spcompress | spbin | spmask => exact .issue h fun _ _ => .planSparse
  | spmerge => exact .issue h fun _ _ => .planSpmerge
  | spjoin => exact .issue h fun _ _ => .planSpjoin
  | _ => cases hi

/-- Every instruction and command keeps a state steady. -/
theorem exec_steady {s₀ s : State} (h : Steady s₀ s) (i : Instr) : SteadyOut s₀ (exec i s) := by
  by_cases hi : (rowPred i).isSome
  · exact row_steady h hi
  cases i with
  | nop => exact .issue h fun _ _ => .still
  | sparseRunDone => exact .execSparseRunDone h
  | governorPeriod => exact .execGovernorPeriod h
  | linkEnable => exact .execLinkEnable h
  | linkDisable => exact .execLinkDisable h
  | linkRetrain => exact .execLinkRetrain h
  | linkConfigWrite => exact .execLinkConfigWrite h
  | linkLock => exact .execLinkLock h
  | linkGroupSend => exact .execLinkGroupSend h
  | linkGroupReceive => exact .execLinkGroupReceive h
  | linkSignalLoss => exact .execLinkSignalLoss h
  | frameAdmit => exact .execFrameAdmit h
  | frameAdmitRetry => exact .execFrameAdmitRetry h
  | spillAdmit => exact .execSpillAdmit h
  | refill => exact .execRefill h
  | egressSelect => exact .execEgressSelect h
  | frameDepart => exact .execFrameDepart h
  | outboxDrain => exact .execOutboxDrain h
  | policerRelease => exact .execPolicerRelease h
  | frameLand => exact .execFrameLand h
  | mfLoad => exact .execMfLoad h
  | mfStore => exact .execMfStore h
  | mfAtomic => exact .execMfAtomic h
  | serviceSlot => exact .execServiceSlot h
  | refresh => exact .execRefresh h
  | atomicAdd => exact .execAtomicAdd h
  | atomicAnd => exact .execAtomicAnd h
  | atomicOr => exact .execAtomicOr h
  | atomicXor => exact .execAtomicXor h
  | atomicMin => exact .execAtomicMin h
  | atomicMax => exact .execAtomicMax h
  | atomicMinu => exact .execAtomicMinu h
  | atomicMaxu => exact .execAtomicMaxu h
  | swap => exact .execSwap h
  | cas => exact .execCas h
  | xadd => exact .execXadd h
  | xrd => exact .execXrd h
  | mfData => exact .execMfData h
  | mfAck => exact .execMfAck h
  | nak => exact .execNak h
  | spart => exact .execSpart h
  | sdown => exact .execSdown h
  | cpiece => exact .execCpiece h
  | ccount => exact .execCcount h
  | cbase => exact .execCbase h
  | tokenSend => exact .execTokenSend h
  | ctoku => exact .execCtoku h
  | ctokd => exact .execCtokd h
  | cpoison => exact .execCpoison h
  | mergeContribution => exact .execMergeContribution h
  | rdS => exact .execRdS h
  | rdE => exact .execRdE h
  | rdNc => exact .execRdNc h
  | wrNc => exact .execWrNc h
  | wb => exact .execWb h
  | drop => exact .execDrop h
  | binvAck => exact .execBinvAck h
  | binvWb => exact .execBinvWb h
  | copyDoorbell => exact .execCopyDoorbell h
  | copyRingWrite => exact .execCopyRingWrite h
  | copyResume => exact .execCopyResume h
  | copyDescriptor => exact .execCopyDescriptor h
  | copyDescriptorDone => exact .execCopyDescriptorDone h
  | hostErr => exact .execHostErr h
  | irqMaskWrite => exact .execIrqMaskWrite h
  | dcsWrite => exact .execDcsWrite h
  | epochWrite => exact .execEpochWrite h
  | shaperCommit => exact .execShaperCommit h
  | policerCommit => exact .execPolicerCommit h
  | saddleSlotWrite => exact .execSaddleSlotWrite h
  | mbxGo => exact .execMbxGo h
  | mbxAck => exact .execMbxAck h
  | sessionNonce => exact .execSessionNonce h
  | sessionOpen => exact .execSessionOpen h
  | sessionClose => exact .execSessionClose h
  | nonceExpiry => exact .execNonceExpiry h
  | sessionIdleExpiry => exact .execSessionIdleExpiry h
  | setTopology => exact .execSetTopology h
  | setCourseTable => exact .execSetCourseTable h
  | setRegionTable => exact .execSetRegionTable h
  | loadProgram => exact .execLoadProgram h
  | loadSaddleProgram => exact .execLoadSaddleProgram h
  | launch => exact .execLaunch h
  | pause => exact .execPause h
  | contRun => exact .execContRun h
  | abortStep => exact .execAbortStep h
  | powerQuery => exact .execPowerQuery h
  | powerSetA0 => exact .execPowerSetA0 h
  | powerSetA1 => exact .execPowerSetA1 h
  | powerSetA2 => exact .execPowerSetA2 h
  | powerSetA3 => exact .execPowerSetA3 h
  | telemetrySummary => exact .execTelemetrySummary h
  | telemetryBridge => exact .execTelemetryBridge h
  | attestQuote => exact .execAttestQuote h
  | attestLog => exact .execAttestLog h
  | attestAliasCert => exact .execAttestAliasCert h
  | attestDeviceCert => exact .execAttestDeviceCert h
  | resetDevice => exact .execResetDevice h
  | resetPlane => exact .execResetPlane h
  | resetLink => exact .execResetLink h
  | updateImageWrite => exact .execUpdateImageWrite h
  | updateImageActivate => exact .execUpdateImageActivate h
  | updateImageCommit => exact .execUpdateImageCommit h
  | syncReceive => exact .execSyncReceive h
  | scanShift => exact .execScanShift h
  | memoryInstrumentRead => exact .execMemoryInstrumentRead h
  | smbSetOffset => exact .execSmbSetOffset h
  | smbBlockWrite => exact .execSmbBlockWrite h
  | smbBlockRead => exact .execSmbBlockRead h
  | smbReadCtl => exact .execSmbReadCtl h
  | smbAlertResponse => exact .execSmbAlertResponse h
  | statusWord => exact .execStatusWord h
  | readVin => exact .execReadVin h
  | readIin => exact .execReadIin h
  | readTemperature1 => exact .execReadTemperature1 h
  | readTemperature2 => exact .execReadTemperature2 h
  | readPin => exact .execReadPin h
  | pmbusRevision => exact .execPmbusRevision h
  | tunRingctlWrite => exact .execTunRingctlWrite h
  | planeHold => exact .execPlaneHold h
  | releaseSample => exact .execReleaseSample h
  | runStart => exact .execRunStart h
  | governorFrame => exact .execGovernorFrame h
  | wearLogWrite => exact .execWearLogWrite h
  | thermalTrip => exact .execThermalTrip h
  | powerTrip => exact .execPowerTrip h
  | undervoltageStop => exact .execUndervoltageStop h
  | powerLoss => exact .execPowerLoss h
  | coldReset => exact .execColdReset h
  | warmReset => exact .execWarmReset h
  | boot => exact SteadyOut.execBoot (s := s) h
  | deviceReset => exact .execDeviceReset h
  | faultLogClear => exact .execFaultLogClear h
  | rstcauseRead => exact .execRstcauseRead h
  | lockoutExpiry => exact .execLockoutExpiry h
  | a2TileGate => exact .execA2TileGate h
  | syncSend => exact .execSyncSend h
  | syncTimeout => exact .execSyncTimeout h
  | muteArm => exact .execMuteArm h
  | muteDisarm => exact .execMuteDisarm h
  | muteNFall => exact .execMuteNFall h
  | muteFreeze => exact .execMuteFreeze h
  | muteNRise => exact .execMuteNRise h
  | muteResume => exact .execMuteResume h
  | muteThaw => exact .execMuteThaw h
  | tapReset => exact .execTapReset h
  | powerUp => exact .execPowerUp h
  | _ => exact absurd rfl hi

theorem Steady.fetchCore {s₀ s : State} (h : Steady s₀ s) {c : Nat} : Steady s₀ (fetchCore s c) := by
  have hf : Steady s₀ (eccFlush (modCore s c fun k => (eccRead k 1 [k.pc]).1) c) := h.modCore.eccFlush
  unfold Machine.fetchCore
  refine .ite ?_ h
  dsimp only
  split
  · next i _ =>
    have hi := exec_steady hf i
    split
    · next he => exact hi _ he
    · exact hf
  · exact hf.issueNow fun _ _ => .bad

theorem Steady.idleStep {s₀ s : State} (h : Steady s₀ s) : Steady s₀ (idleStep s) := by
  have hf : Steady s₀ (fetchCycle s) := .ite (.foldl h fun _ _ h => h.fetchCore) h
  exact hf.tick

/-- Every step keeps the canonical form and lets no counter fall. -/
theorem step_steady {s t : State} (h : step s = .next t) : Steady s t := by
  unfold step at h
  split at h
  · exact Host.Outcome.next.inj h ▸ (Steady.refl s).idleStep
  · exact exec_steady (Steady.refl s).update _ t h

/-- Settles O58: no function of the model lowers a counter of the non-volatile array, and a step is one of them. -/
theorem countersNeverFall : Obligations.CountersNeverFall := fun _ _ h => (step_steady h).2

/-- Settles O56: every function of the model keeps the canonical form, and a step is one of them. -/
theorem everyStepKeepsTheCanonicalForm : Obligations.EveryStepKeepsTheCanonicalForm := fun _ _ hc h => (step_steady h).1 hc

/-- Settles O57: the maps of the reset state are empty, and its two registers stand in order. -/
theorem resetHasTheCanonicalForm : Obligations.ResetHasTheCanonicalForm :=
  ⟨rfl, by decide, rfl, rfl, rfl, rfl, rfl, fun _ he => nomatch he⟩

end Sys2Proof.Machine
end

section
/-! SUPPORT. Issue from the instruction store: what an instruction word spells, and the fetch of a sound core (04 R97, R102; 05 R133,
R135, R138). -/
namespace Sys2Proof.Machine
open Sys2Proof.Safety Sys2Proof.Claims

-- Writes that change nothing ----------------------------------------------------------------------------------------

theorem smErase_absent {α : Type} {m : SMap α} {k : Nat} (h : ∀ e ∈ m, k < e.1) : smErase m k = m := by
  induction m with
  | nil => rfl
  | cons e m ih =>
    obtain ⟨hlt, hm⟩ := List.forall_mem_cons.mp h
    rw [smErase, if_neg (by omega), ih hm]

theorem smGet_absent {α : Type} (d : α) {m : SMap α} {k : Nat} (h : ∀ e ∈ m, k < e.1) : smGet d m k = d := by
  induction m with
  | nil => rfl
  | cons e m ih =>
    obtain ⟨hlt, hm⟩ := List.forall_mem_cons.mp h
    rw [smGet, if_neg (by omega), ih hm]

theorem smInsert_below {α : Type} {m : SMap α} {k : Nat} {v : α} (h : ∀ e ∈ m, k < e.1) : smInsert k v m = (k, v) :: m := by
  cases m with
  | nil => rfl
  | cons e m => rw [smInsert, if_pos (h e (List.mem_cons_self ..))]

/-- A canonical map in which a key is given the value it has is as it was. -/
theorem smSet_smGet {α : Type} [DecidableEq α] (d : α) (m : SMap α) (k : Nat) (h : smWf d m = true) :
    smSet d m k (smGet d m k) = m := by
  induction m with
  | nil => simp [smSet, smGet, smErase]
  | cons e m ih =>
    obtain ⟨a, v⟩ := e
    obtain ⟨hne, hlt, hm⟩ := (smWf_cons d a v m).mp h
    have ih := ih hm
    by_cases hk : a = k
    · subst hk
      simp [smSet, smGet, smErase, hne, smErase_absent hlt, smInsert_below hlt]
    · rw [smGet, if_neg hk]
      by_cases hd : smGet d m k = d
      · rw [hd, smSet, if_pos rfl] at ih
        simp [hd, smSet, smErase, hk, ih]
      · have hka : ¬ k < a := fun hka => hd (smGet_absent d fun e he => hka.trans (hlt e he))
        rw [smSet, if_neg hd] at ih
        simp [hd, smSet, smErase, hk, smInsert, hka, ih]

/-- A core left as it is leaves a canonical state as it is. -/
theorem modCore_same {s : State} {c : Nat} {f : Core → Core} (h : Canonical s) (hf : f (coreOf s c) = coreOf s c) :
    modCore s c f = s := by
  obtain ⟨-, -, hcores, -⟩ := h
  rw [modCore, hf, setCore, coreOf, smSet_smGet _ _ _ hcores]

-- Instruction words --------------------------------------------------------------------------------------------------

theorem extractLsb'_toNat_div (w : BitVec 64) (start len : Nat) : (w.extractLsb' start len).toNat = w.toNat / 2 ^ start % 2 ^ len := by
  rw [BitVec.extractLsb'_toNat, Nat.shiftRight_eq_div_pow]

theorem opcOf_eq (w : BitVec 64) : opcOf w = w.toNat / 2 ^ 56 := by
  have := w.isLt
  rw [opcOf, extractLsb'_toNat_div]
  omega

theorem predOf_eq (w : BitVec 64) : predOf w = ⟨w.getLsbD 55, w.getLsbD 54, BitVec.ofNat 3 (w.toNat / 2 ^ 51)⟩ := by
  rw [predOf, BitVec.extractLsb', Nat.shiftRight_eq_div_pow]

/-- Every row of the table issues on the core and under the predicate it is given. -/
def Issues {α : Type} (r : Row α) : Prop := ∀ c p f, rowPred (r c p f) = some (c, p)

theorem intRows_issue : ∀ r ∈ intRows, Issues r := by
  simp only [intRows, List.forall_mem_cons, List.not_mem_nil, IsEmpty.forall_iff, implies_true, and_true]
  and_intros <;> exact fun _ _ _ => rfl

theorem predRows_issue : ∀ r ∈ predRows, Issues r := by
  simp only [predRows, List.forall_mem_cons, List.not_mem_nil, IsEmpty.forall_iff, implies_true, and_true]
  and_intros <;> exact fun _ _ _ => rfl

theorem fpRows_issue : ∀ r ∈ fpRows, Issues r := by
  simp only [fpRows, List.forall_mem_cons, List.not_mem_nil, IsEmpty.forall_iff, implies_true, and_true]
  and_intros <;> exact fun _ _ _ => rfl

theorem vfpRows_issue : ∀ r ∈ vfpRows, Issues r := by
  simp only [vfpRows, List.forall_mem_cons, List.not_mem_nil, IsEmpty.forall_iff, implies_true, and_true]
  and_intros <;> exact fun _ _ _ => rfl

theorem vintRows_issue : ∀ r ∈ vintRows, Issues r := by
  simp only [vintRows, List.forall_mem_cons, List.not_mem_nil, IsEmpty.forall_iff, implies_true, and_true]
  and_intros <;> exact fun _ _ _ => rfl

theorem blockRows_issue : ∀ r ∈ blockRows, Issues r := by
  simp only [blockRows, List.forall_mem_cons, List.not_mem_nil, IsEmpty.forall_iff, implies_true, and_true]
  and_intros <;> exact fun _ _ _ => rfl

theorem rowR_issues {w : BitVec 64} {r : Row FmtR} (h : rowR w = some r) : Issues r := by
  unfold rowR at h
  dsimp only at h
  split at h
  · exact intRows_issue _ (List.mem_of_getElem? h)
  · cases h; exact fun _ _ _ => rfl
  · exact predRows_issue _ (List.mem_of_getElem? h)
  · exact fpRows_issue _ (List.mem_of_getElem? h)
  · cases h; exact fun _ _ _ => rfl
  · cases h; exact fun _ _ _ => rfl
  · exact vfpRows_issue _ (List.mem_of_getElem? h)
  · cases h; exact fun _ _ _ => rfl
  · cases h; exact fun _ _ _ => rfl
  · exact vintRows_issue _ (List.mem_of_getElem? h)
  · cases h; exact fun _ _ _ => rfl
  · cases h; exact fun _ _ _ => rfl
  · cases h; exact fun _ _ _ => rfl
  · cases h; exact fun _ _ _ => rfl
  · exact blockRows_issue _ (List.mem_of_getElem? h)
  · cases h; exact fun _ _ _ => rfl
  · cases h; exact fun _ _ _ => rfl
  · cases h

theorem immRow_issues {n : Nat} {r : Row FmtI} (h : immRow n = some r) : Issues r := by
  unfold immRow at h
  split at h <;> cases h <;> exact fun _ _ _ => rfl

theorem meshRow_issues {n : Nat} {r : Row FmtI} (h : meshRow n = some r) : Issues r := by
  unfold meshRow at h
  split at h <;> cases h <;> exact fun _ _ _ => rfl

theorem rowI_issues {w : BitVec 64} {r : Row FmtI} (h : rowI w = some r) : Issues r := by
  unfold rowI at h
  dsimp only at h
  split at h
  case h_1 => exact immRow_issues h
  case h_11 => exact meshRow_issues h
  all_goals cases h <;> exact fun _ _ _ => rfl

theorem rowA_issues {n : Nat} {r : Row FmtA} (h : rowA n = some r) : Issues r := by
  unfold rowA at h
  split at h <;> cases h <;> exact fun _ _ _ => rfl

theorem rowC_issues {n : Nat} {r : Row FmtC} (h : rowC n = some r) : Issues r := by
  unfold rowC at h
  split at h <;> cases h <;> exact fun _ _ _ => rfl

theorem rowX_issues {n : Nat} {r : Row FmtX} (h : rowX n = some r) : Issues r := by
  unfold rowX at h
  split at h <;> cases h <;> exact fun _ _ _ => rfl

/-- A word spells NOP, or an instruction row of its core under its predicate. -/
theorem decodeInsn_issues {c : Nat} {w : BitVec 64} {i : Instr} (h : decodeInsn c w = some i) :
    i = .nop c ∨ rowPred i = some (c, predOf w) := by
  unfold decodeInsn at h
  dsimp only at h
  split at h
  · cases h; exact .inl rfl
  refine .inr ?_
  split at h
  · cases h; rfl
  simp only [Option.or_eq_some_iff, Option.map_eq_some_iff] at h
  obtain ⟨r, hr, rfl⟩ | ⟨-, ⟨r, hr, rfl⟩ | ⟨-, ⟨r, hr, rfl⟩ | ⟨-, ⟨r, hr, rfl⟩ | ⟨-, r, hr, rfl⟩⟩⟩⟩ := h
  · exact rowR_issues hr _ _ _
  · exact rowI_issues hr _ _ _
  · exact rowA_issues hr _ _ _
  · exact rowC_issues hr _ _ _
  · exact rowX_issues hr _ _ _

/-- A word of an opcode without a row spells no instruction (05 R135). -/
theorem decodeInsn_unlisted {c : Nat} {w : BitVec 64} (h : opcOf w ∉ opcodes) : decodeInsn c w = none := by
  have hr : rowR w = none := by
    unfold rowR
    dsimp only
    split <;> simp_all [opcodes]
  have hi : rowI w = none := by
    unfold rowI
    dsimp only
    split <;> simp_all [opcodes]
  have ha : rowA (opcOf w) = none := by
    unfold rowA
    split <;> simp_all [opcodes]
  have hc : rowC (opcOf w) = none := by
    unfold rowC
    split <;> simp_all [opcodes]
  have hx : rowX (opcOf w) = none := by
    unfold rowX
    split <;> simp_all [opcodes]
  have h0 : opcOf w ≠ 0 := by rintro h0; simp [h0, opcodes] at h
  have hm : opcOf w ≠ 0x38 := by rintro h0; simp [h0, opcodes] at h
  simp [decodeInsn, h0, hm, hr, hi, ha, hc, hx]

-- Fetch --------------------------------------------------------------------------------------------------------------

/-- An instruction a word spells answers a next state on a core that exists. -/
theorem exec_decoded_next {c : Nat} {w : BitVec 64} {i : Instr} (hc : c < coreCount) (h : decodeInsn c w = some i) (s : State) :
    ∃ t, exec i s = .next t := by
  obtain rfl | hp := decodeInsn_issues h
  · exact issue_next hc
  · exact exec_row_next hp ((wf_of_rowPred hp).trans (decide_eq_true hc)) s

/-- The fetch of a core in whose memories no error stands leaves the state as it is (17 R442). -/
theorem fetch_reads_soundly {s : State} {c : Nat} (hw : Canonical s) (h : Turn s c) :
    eccFlush (modCore s c fun k => (eccRead k 1 [k.pc]).1) c = s := by
  have he : (eccRead (coreOf s c) 1 [(coreOf s c).pc]).1 = coreOf s c := by simp [eccRead, h.sound, Ecc.none]
  rw [modCore_same hw he]
  simp [eccFlush, h.sound, Ecc.none]

theorem fetchCore_decoded {s : State} {c : Nat} {i : Instr} (hw : Canonical s) (h : Turn s c)
    (hd : decodeInsn c (fetchWord (coreOf s c)) = some i) : exec i s = .next (fetchCore s c) := by
  obtain ⟨t, ht⟩ := exec_decoded_next h.lists hd s
  simp [fetchCore, canIssue_turn h, fetch_reads_soundly hw h, hd, ht]

theorem fetchCore_unlisted {s : State} {c : Nat} (hw : Canonical s) (h : Ready s c)
    (hd : decodeInsn c (fetchWord (coreOf s c)) = none) :
    fetchCore s c = coreFault (spent s c) c 0x01 (coreOf s c).pc s.plane.cyc := by
  have hp := Nat.not_le.mpr h.inStore
  simp [fetchCore, canIssue_turn h.toTurn, fetch_reads_soundly hw h.toTurn, hd, issueNow, hp, h.noSkew, Plan.bad, planFaults, lowestCode,
    spent]

/-- Settles O55: a step is the front command's own; the bits of a word are those of its format. -/
theorem stepRunsFrontCommand : Obligations.StepRunsFrontCommand := by
  refine ⟨fun _ _ _ => rfl, fun s hs => ?idle, fun _ _ _ hw h hd => fetchCore_decoded hw h hd,
    fun _ _ hw h hd => fetchCore_unlisted hw h hd, fun c w hw => decodeInsn_unlisted (by rwa [opcOf_eq]), fun _ => rfl,
    fun c w => ?formats⟩
  case idle => simp [step, hs, idleStep]
  case formats =>
    rw [← opcOf_eq, ← predOf_eq]
    refine ⟨fun ho hf => ⟨fmtR w, ?_⟩, fun ho => ⟨fmtI w, ?_⟩, fun ho => ⟨fmtM w, ?_⟩, fun ho => ⟨fmtA w, ?_⟩,
      fun ho => ⟨fmtC w, ?_⟩, fun ho => ⟨fmtX w, ?_⟩⟩
    · have hf : (fmtR w).fn.toNat = 1 := by rw [← hf]; exact extractLsb'_toNat_div w 12 6
      simp [decodeInsn, rowR, ho, hf, intRows]
      simp [fmtR, Nat.shiftRight_eq_div_pow]
    · simp [decodeInsn, rowR, rowI, ho]
      simp [fmtI, Nat.shiftRight_eq_div_pow]
    · simp [decodeInsn, ho]
      simp [fmtM, Nat.shiftRight_eq_div_pow]
    · simp [decodeInsn, rowR, rowI, rowA, ho]
      simp [fmtA, Nat.shiftRight_eq_div_pow]
    · simp [decodeInsn, rowR, rowI, rowA, rowC, ho]
      simp [fmtC, Nat.shiftRight_eq_div_pow]
    · simp [decodeInsn, rowR, rowI, rowA, rowC, rowX, ho]
      simp [fmtX, Nat.shiftRight_eq_div_pow]

end Sys2Proof.Machine
end

section
/-! SUPPORT. The SMBus port (18 R477, R478). -/
namespace Sys2Proof.Machine
open Sys2Proof.Safety

-- LINEAR11 -----------------------------------------------------------------------------------------------------------

/-- A field of two's complement gives back every number in its range. -/
theorem toSigned_ofSigned_of_mem {w : Nat} {i : Int} (hlo : -2 ^ w ≤ i) (hhi : i < 2 ^ w) : toSigned (w + 1) (ofSigned (w + 1) i) = i := by
  have hp : ((2 ^ w : Nat) : Int) = 2 ^ w := by push_cast; rfl
  have hw : 2 ^ (w + 1) = 2 * 2 ^ w := Nat.pow_succ'
  have hcode : (ofSigned (w + 1) i : Int) = if 0 ≤ i then i else i + (2 * 2 ^ w : Nat) := by
    rw [ofSigned, hw, Int.toNat_of_nonneg (Int.emod_nonneg _ (by have := Nat.two_pow_pos w; omega))]
    split
    · exact Int.emod_eq_of_lt ‹_› (by omega)
    · rw [← Int.add_emod_right, Int.emod_eq_of_lt (by omega) (by omega)]
  rw [toSigned, Nat.mod_eq_of_lt (ofSigned_lt ..)]
  split at hcode <;> split <;> omega

/-- The exponent and the mantissa of a LINEAR11 word (18 R478). -/
theorem linear11_fields {n m : Int} (hn : -16 ≤ n) (hn' : n < 16) (hm : -1024 ≤ m) (hm' : m < 1024) :
    let w := ofSigned 11 m + ofSigned 5 n <<< 11
    toSigned 5 (w / 2 ^ 11) = n ∧ toSigned 11 w = m := by
  have hlt := ofSigned_lt 11 m
  have hdiv : (ofSigned 11 m + ofSigned 5 n <<< 11) / 2 ^ 11 = ofSigned 5 n := by rw [Nat.shiftLeft_eq]; omega
  refine ⟨?_, ?_⟩
  · rw [hdiv]
    exact toSigned_ofSigned_of_mem (w := 4) hn hn'
  · rw [Nat.shiftLeft_eq, Nat.mul_comm, toSigned_add_mul]
    exact toSigned_ofSigned_of_mem (w := 10) hm hm'

theorem linearScaled_pos (v n : Int) : 0 < (linearScaled v n).2 := by
  unfold linearScaled
  split
  · simp
  · positivity

theorem mem_linearExps {v n : Int} : n ∈ linearExps v ↔
    (-16 ≤ n ∧ n < 16) ∧ -1024 * (linearScaled v n).2 ≤ (linearScaled v n).1 ∧ (linearScaled v n).1 ≤ 1023 * (linearScaled v n).2 := by
  have hr : (∃ i : Nat, i < 32 ∧ (i : Int) - 16 = n) ↔ -16 ≤ n ∧ n < 16 :=
    ⟨by rintro ⟨i, hi, rfl⟩; omega, fun h => ⟨(n + 16).toNat, by omega, by omega⟩⟩
  rw [linearExps, List.mem_filter, List.mem_map, ← hr]
  simp

/-- A value of 18 R478's range has an exponent. -/
theorem linearExps_ne_nil {v : Int} (hlo : -1024000 ≤ v) (hhi : v ≤ 33000000000) : linearExps v ≠ [] := by
  refine List.ne_nil_of_mem (a := 15) (mem_linearExps.mpr ?_)
  have h : linearScaled v 15 = (v, 32768000) := by simp [linearScaled]
  rw [h]
  omega

/-- The mantissa of a LINEAR11 word is one of the neighbours of the value, at the word's exponent (log 44). -/
theorem linear11_near {v : Int} (hlo : -1024000 ≤ v) (hhi : v ≤ 33000000000) :
    let n := toSigned 5 (linear11 v / 2 ^ 11)
    let m := toSigned 11 (linear11 v)
    let x := linearScaled v n
    (m - 1) * x.2 < x.1 ∧ x.1 < (m + 1) * x.2 := by
  have hlen : 0 < (linearExps v).length := List.length_pos_of_ne_nil (linearExps_ne_nil hlo hhi)
  have hk := Nat.mod_lt (Config.linearPick v) hlen
  obtain ⟨n, hn⟩ : ∃ n, (linearExps v)[Config.linearPick v % (linearExps v).length]? = some n := ⟨_, List.getElem?_eq_getElem hk⟩
  obtain ⟨⟨hn0, hn1⟩, ha, hb⟩ := mem_linearExps.mp (List.mem_of_getElem? hn)
  have hpos := linearScaled_pos v n
  obtain ⟨m, hm, hm0, hm1, hlow, hhigh⟩ : ∃ m, linear11 v = ofSigned 11 m + ofSigned 5 n <<< 11 ∧ -1024 ≤ m ∧ m < 1024 ∧
      (m - 1) * (linearScaled v n).2 < (linearScaled v n).1 ∧ (linearScaled v n).1 < (m + 1) * (linearScaled v n).2 := by
    generalize hab : linearScaled v n = ab at ha hb hpos
    obtain ⟨a, b⟩ := ab
    dsimp only at ha hb hpos
    refine ⟨if a % b = 0 then a / b else a / b + (if Config.linearUp v then 1 else 0), ?_, ?_⟩
    · simp only [linear11, hn, hab]
    have hdiv := Int.emod_add_mul_ediv a b
    have h0 := Int.emod_nonneg a hpos.ne'
    have h1 := Int.emod_lt_of_pos a hpos
    have hq0 : -1024 ≤ a / b := by rw [Int.le_ediv_iff_mul_le hpos]; exact ha
    have hq1 : a / b ≤ 1023 := by
      have := Int.ediv_le_ediv hpos hb
      rwa [Int.mul_ediv_cancel _ hpos.ne'] at this
    generalize a / b = q at *
    split
    · have hqb : q * b = a := by rw [Int.mul_comm]; omega
      refine ⟨hq0, by omega, ?_, ?_⟩ <;> rw [← hqb] <;> nlinarith
    · have hr : 0 < a % b := by omega
      have hlt : q < 1023 := by
        by_contra hq
        obtain rfl : q = 1023 := by omega
        omega
      split
      · exact ⟨by omega, by omega, by nlinarith, by nlinarith⟩
      · exact ⟨by omega, by omega, by nlinarith, by nlinarith⟩
  obtain ⟨he, hf⟩ := linear11_fields hn0 hn1 hm0 hm1
  rw [hm, he, hf]
  exact ⟨hlow, hhigh⟩

-- Transfers ----------------------------------------------------------------------------------------------------------

theorem pmbusWord_smbCmd (f : State → Nat) (p : Bool) (s : State) :
    pmbusWord p s f = smbCmd p s fun s => smbAck s (bytesLE 2 (f s)) := rfl

/-- A word of PMBus is acknowledged with its two bytes. -/
theorem pmbusWord_works {s : State} (h : smbAnswers s = true) (f : State → Nat) :
    pmbusWord true s f = .next { s with out := s.out ++ [.smbus true (bytesLE 2 (f s))] } := smbCmd_works h

theorem pmbusWord_linear {s : State} {i : Instr} {v : Int}
    (hi : exec i s = .next { s with out := s.out ++ [.smbus true (bytesLE 2 (linear11 v))] }) :
    ∃ w, exec i s = .next { s with out := s.out ++ [.smbus true (bytesLE 2 w)] } ∧ (-1024000 ≤ v → v ≤ 33000000000 →
      let n := toSigned 5 (w / 2 ^ 11)
      let m := toSigned 11 w
      let x := linearScaled v n
      (m - 1) * x.2 < x.1 ∧ x.1 < (m + 1) * x.2) :=
  ⟨linear11 v, hi, linear11_near⟩

/-- Bits 2, 6 and 13 of STATUS_WORD. -/
theorem statusWord_bits {a : Nat} (ha : a < 2) (p q : Prop) [Decidable p] [Decidable q] :
    let w := 4 * a + (if p then 64 else 0) + (if q then 8192 else 0)
    (bitAt w 2 = true ↔ a = 1) ∧ (bitAt w 6 = true ↔ p) ∧ (bitAt w 13 = true ↔ q) := by
  have hb (w k : Nat) : bitAt w k = true ↔ w / 2 ^ k % 2 = 1 := by simp [bitAt, Nat.shiftRight_eq_div_pow]
  simp only [hb]
  by_cases hp : p <;> by_cases hq : q <;> simp only [hp, hq, if_true, if_false, iff_true, iff_false] <;> omega

theorem smbBlockWrite_works {s : State} {bs : List Byte} (h : smbAnswers s = true) (h4 : 4 ≤ bs.length) (h32 : bs.length ≤ 32)
    (hm : bs.length % 4 = 0) (hi : mbxState s 15 = 0) (hfit : s.smbAt + bs.length ≤ 4096) :
    exec (.smbBlockWrite bs true) s = .next { setMbx s 15 { mbx s 15 with mem := memWrite (mbx s 15).mem s.smbAt bs } with
      smbAt := s.smbAt + bs.length, out := s.out ++ [.smbus true []] } := by
  have hlen : ¬ (bs.length < 4 ∨ 32 < bs.length ∨ bs.length % 4 ≠ 0) := by omega
  have htake : bs.take (0x1000 - s.smbAt) = bs := List.take_of_length_le (by omega)
  rw [show exec (.smbBlockWrite bs true) s = execSmbBlockWrite bs true s from rfl, execSmbBlockWrite, if_neg hlen, smbCmd_works h]
  simp [mbxWrite, hi, htake, smbAck, Nat.min_eq_right hfit]
  rfl

/-- The rows of the port, each a command that may be refused (18 R477). -/
theorem smbRow_of {bs : List Byte} (h4 : 4 ≤ bs.length) (h32 : bs.length ≤ 32) (hm : bs.length % 4 = 0) (v : BitVec 16) (s : State) :
    ∀ i ∈ [Instr.smbSetOffset v, .smbBlockWrite bs, .smbBlockRead, .smbReadCtl, .smbAlertResponse, .statusWord, .readVin, .readIin,
      .readTemperature1, .readTemperature2, .readPin, .pmbusRevision], ∃ f, ∀ p, exec (i p) s = smbCmd p s f := by
  have hlen : ¬ (bs.length < 4 ∨ 32 < bs.length ∨ bs.length % 4 ≠ 0) := by omega
  simp only [List.forall_mem_cons, List.not_mem_nil, IsEmpty.forall_iff, implies_true, and_true]
  and_intros
  · exact ⟨_, fun p => Eq.trans (b := execSmbSetOffset v p s) rfl rfl⟩
  · exact ⟨_, fun p => if_neg hlen⟩
  · exact ⟨_, fun p => Eq.trans (b := execSmbBlockRead p s) rfl rfl⟩
  · exact ⟨_, fun p => Eq.trans (b := execSmbReadCtl p s) rfl rfl⟩
  · exact ⟨_, fun p => Eq.trans (b := execSmbAlertResponse p s) rfl rfl⟩
  · exact ⟨_, fun p => Eq.trans (b := execStatusWord p s) rfl (pmbusWord_smbCmd _ p s)⟩
  · exact ⟨_, fun p => Eq.trans (b := execReadVin p s) rfl (pmbusWord_smbCmd _ p s)⟩
  · exact ⟨_, fun p => Eq.trans (b := execReadIin p s) rfl (pmbusWord_smbCmd _ p s)⟩
  · exact ⟨_, fun p => Eq.trans (b := execReadTemperature1 p s) rfl (pmbusWord_smbCmd _ p s)⟩
  · exact ⟨_, fun p => Eq.trans (b := execReadTemperature2 p s) rfl (pmbusWord_smbCmd _ p s)⟩
  · exact ⟨_, fun p => Eq.trans (b := execReadPin p s) rfl (pmbusWord_smbCmd _ p s)⟩
  · exact ⟨_, fun p => Eq.trans (b := execPmbusRevision p s) rfl rfl⟩

/-- Settles O50: each row is acknowledged with its bytes; a word of LINEAR11 has a neighbour of the value as its mantissa. -/
theorem smbusTransfersComplete : Obligations.SmbusTransfersComplete := by
  refine ⟨fun s h => ⟨fun v hv hlt => ?_, fun v hv => ?_, fun bs h4 h32 hm hi hfit => ?_, ?_, ?_, fun ha => ?_, fun ha => ?_, ?_,
    ?_, ?_⟩, fun s bs v h4 h32 hm i hi => ?_⟩
  · change execSmbSetOffset v true s = _
    rw [execSmbSetOffset, smbCmd_works h, if_pos ⟨hv, hlt⟩]
    rfl
  · change execSmbSetOffset v true s = _
    rw [execSmbSetOffset, smbCmd_works h, if_neg (by omega)]
    rfl
  · refine ⟨_, smbBlockWrite_works h h4 h32 hm hi hfit, ?_, fun x hx => ?_, rfl, rfl⟩
    · simp [mbx, setMbx, memRead_memWrite_same]
    · simp [mbx, setMbx, memByte_memWrite_out _ _ _ _ hx]
  · exact smbCmd_works (f := fun s => smbAck { s with smbAt := s.smbAt + min 32 (4096 - s.smbAt) } _) h
  · exact smbCmd_works (f := fun s => smbAck s (bytesLE 1 _)) h
  · refine ⟨BitVec.ofNat 8 (2 * (0x60 + Config.smbAddr.toNat)), ?_⟩
    change execSmbAlertResponse true s = _
    simp [execSmbAlertResponse, smbCmd_works h, ha, smbAck, emit, bytesLE]
  · change execSmbAlertResponse true s = _
    simp [execSmbAlertResponse, smbCmd_works h, ha, emit]
  · exact smbCmd_works (f := fun s => smbAck s _) h
  · change ∃ w, execStatusWord true s = _ ∧ _
    exact ⟨_, pmbusWord_works h _, statusWord_bits (regBits_lt ..) _ _⟩
  · simp only [List.forall_mem_cons, List.not_mem_nil, IsEmpty.forall_iff, implies_true, and_true]
    exact ⟨pmbusWord_linear (pmbusWord_works h fun s => linear11 (regBits s _ 31 0)),
      pmbusWord_linear (pmbusWord_works h fun s => linear11 (regBits s _ 63 32)),
      pmbusWord_linear (pmbusWord_works h fun s => linear11 (milliDegrees (regBits s _ 15 0))),
      pmbusWord_linear (pmbusWord_works h fun s => linear11 (milliDegrees (regBits s _ 39 24))),
      pmbusWord_linear (pmbusWord_works h fun s => linear11 (1000 * regBits s _ 31 0))⟩
  · obtain ⟨f, hf⟩ := smbRow_of h4 h32 hm v s i hi
    exact ⟨(hf false).trans (smbCmd_refused (.inr rfl)), fun h => (hf true).trans (smbCmd_refused (.inl h))⟩

end Sys2Proof.Machine
end

section
/-! SUPPORT. The test port of a frozen module, and the transactions that wait for its resumption (17 R450 to R453; 18 R479). -/
namespace Sys2Proof.Machine
open Sys2Proof.Safety

/-- A segment shifts one bit and moves one place on (17 R451). -/
theorem scanShift_muted {s : State} {g : Nat} (hg : g < 140) (hp : g ≠ 138) (ho : scanOpen s = true) (hm : s.muted = true) :
    exec (.scanShift g) s = .next { s with
      mute := { s.mute with
        scan := smSet 0 s.mute.scan g ((smGet 0 s.mute.scan g + 1) % (Config.segmentTop g + 1)) }
      out := s.out ++ [.scanBit (Config.scanBit g (smGet 0 s.mute.scan g) s.mute.frozen)] } := by
  change execScanShift g s = _
  simp [execScanShift, Nat.not_le.mpr hg, hp, ho, hm, emit]

/-- A segment shifts nothing while the port is closed; 138 is the instrument's (17 R451, R453). -/
theorem scanShift_closed {s : State} {g : Nat} (hg : g < 140) (h : scanOpen s = false ∨ g = 138) :
    exec (.scanShift g) s = .next s := by
  change execScanShift g s = _
  have hc : (!scanOpen s || decide (g = 138)) = true := by simpa using h
  rw [execScanShift, if_neg (Nat.not_le.mpr hg), if_pos hc]

/-- The instrument gives a word of a frozen core's array; no error stands in it (17 R453). -/
theorem memoryInstrumentRead_muted {s : State} {c a : Nat} {arr : MemArray} (hc : c < coreCount) (ha : a < arraySize arr)
    (ho : scanOpen s = true) (hm : s.muted = true) (he : (coreOf s c).ecc.marks = []) :
    exec (.memoryInstrumentRead c arr a) s =
      .next { s with out := s.out ++ [.instrument (arrayWord (coreOf s c) arr a) false false] } := by
  have herr (ue : Bool) : arrayErr (coreOf s c) arr a ue = false := by cases arr <;> simp [arrayErr, standing, he]
  change execMemoryInstrumentRead c arr a s = _
  simp [execMemoryInstrumentRead, Nat.not_le.mpr hc, Nat.not_le.mpr ha, ho, hm, herr, emit]

theorem memoryInstrumentRead_closed {s : State} {c a : Nat} {arr : MemArray} (hc : c < coreCount) (ha : a < 256)
    (h : scanOpen s = false ∨ s.muted = false) : exec (.memoryInstrumentRead c arr a) s = .next s := by
  have hsize : a < arraySize arr := by cases arr <;> simp only [arraySize] <;> omega
  have hn : ¬ (scanOpen s && s.muted) = true := by simpa [Classical.or_iff_not_imp_left] using h
  change execMemoryInstrumentRead c arr a s = _
  rw [execMemoryInstrumentRead, if_neg (Nat.not_le.mpr hc), if_neg (Nat.not_le.mpr hsize), if_neg hn]

section
variable {s : State} (h : s.life = .up) (hm : s.muted = true)
include h hm

theorem mmioWrite_muted {i : Instr} {d : Nat} {x : Bool} {f : State → State} :
    mmioWrite i d x s f = .next { s with mute := { s.mute with waiting := s.mute.waiting ++ [i] } } := by
  simp [mmioWrite, h, hostTxn_muted h hm]

theorem hostReq_muted {c : Instr} {a : Nat} (ha : a % 64 = 0) (hlt : a < 2 ^ 43) :
    hostReq c a 64 s = .next { s with mute := { s.mute with waiting := s.mute.waiting ++ [c] } } := by
  rw [hostReq, if_neg (by omega), hostTxn_muted h hm]

theorem binvAck_muted {a : Nat} (ha : a % 64 = 0) (hlt : a < 2 ^ 43) :
    execBinvAck a s = .next { s with mute := { s.mute with waiting := s.mute.waiting ++ [.binvAck a] } } := by
  have hn : ¬ (2 ^ 43 ≤ a ∨ a % 64 ≠ 0 ∨ (none : Option (List Byte)).any (fun d => d.length ≠ 64) = true) := by
    rintro (h | h | h)
    · omega
    · omega
    · cases h
  rw [execBinvAck, binvTxn, if_neg hn, hostTxn_muted h hm]

theorem rstcauseRead_muted :
    execRstcauseRead s = .next { s with mute := { s.mute with waiting := s.mute.waiting ++ [.rstcauseRead] } } := by
  simp [execRstcauseRead, dcsReadTxn, h, hostTxn_muted h hm]

/-- A transaction of the host that meets a muted module waits for its resumption (17 R450). -/
theorem hostTransactions_wait {a : Nat} {v : BitVec 32} (ha : a % 64 = 0) (hlt : a < 2 ^ 43) :
    ∀ i ∈ [Instr.rdS a, .rdE a, .drop a, .binvAck a, .irqMaskWrite v, .faultLogClear, .rstcauseRead, .muteDisarm, .tunRingctlWrite v,
      .dcsWrite (BitVec.ofNat 32 (dcs SP 0x100)) 4 0],
      exec i s = .next { s with mute := { s.mute with waiting := s.mute.waiting ++ [i] } } := by
  simp only [List.forall_mem_cons, List.not_mem_nil, IsEmpty.forall_iff, implies_true, and_true]
  exact ⟨hostReq_muted h hm ha hlt, hostReq_muted h hm ha hlt, hostReq_muted h hm ha hlt, binvAck_muted h hm ha hlt,
    mmioWrite_muted h hm, mmioWrite_muted h hm, rstcauseRead_muted h hm, mmioWrite_muted h hm, mmioWrite_muted h hm,
    mmioWrite_muted h hm⟩

end

/-- Settles O49: a shift moves its own segment, a read changes nothing, and what the host asks is kept for the resumption. -/
theorem scanReadsTheFrozenModule : Obligations.ScanReadsTheFrozenModule := by
  refine ⟨fun s g hg hp ho hm => ?shift, fun s g hg h => scanShift_closed hg h,
    fun s c a hc ho hm he => ⟨fun ha => ?ls, fun ha => ?is, fun ha => ?acc⟩,
    fun s c a arr hc ha h => memoryInstrumentRead_closed hc ha h, fun _ => rfl,
    fun s a v h hm ha hlt => hostTransactions_wait h hm ha hlt⟩
  case shift =>
    exact ⟨_, _, scanShift_muted hg hp ho hm, rfl, smGet_smSet_same .., fun x hx => smGet_smSet_ne _ _ _ hx, rfl⟩
  case ls => exact memoryInstrumentRead_muted hc ha ho hm he
  case is => exact memoryInstrumentRead_muted hc ha ho hm he
  case acc => exact memoryInstrumentRead_muted hc ha ho hm he

end Sys2Proof.Machine
end

section
/-! SUPPORT. MUTE: its arming, its count, and the resumption (17 R447, R448, R454). -/
namespace Sys2Proof.Machine
open Sys2Proof.Safety

-- The registers ------------------------------------------------------------------------------------------------------

/-- A write to MUTECTL leaves MUTEAT. -/
theorem muteAt_regSetBits (s : State) (hi lo x : Nat) : muteAt (regSetBits s muteCtl hi lo x) = muteAt s := by
  rw [muteAt, regSetBits, regNat_regPutNat_ne]
  · rfl
  · exact .inl (by simp only [muteCtl, dcs]; omega)

/-- The state bits of MUTECTL are their own. -/
theorem muteState_regSetBits (s : State) (x : Nat) {hi lo : Nat} (d : hi < 2 ∨ 3 < lo) :
    muteState (regSetBits s muteCtl hi lo x) = muteState s :=
  regBits_regSetBits_field s _ _ (d.symm.imp id id)

/-- What arming writes: the count of MUTEAT, MUTECTL's EN, state and source (17 R447). -/
theorem armMute_eq (s : State) (src : Nat) :
    armMute s src = { s with regs := (armMute s src).regs, mute := { s.mute with due := muteAt s } } := by
  rw [armMute, regSetBits_frame, regSetBits_frame (regSetBits _ ..), regSetBits_frame { s with mute := _ }]

@[simp] theorem muteState_armMute (s : State) (src : Nat) : muteState (armMute s src) = 1 := by
  rw [armMute, muteState_regSetBits _ _ (.inr (by omega))]
  exact regBits_regSetBits_same ..

@[simp] theorem muteSource_armMute (s : State) (src : Nat) : regBits (armMute s src) muteCtl 4 4 = src % 2 :=
  regBits_regSetBits_same ..

@[simp] theorem muteAt_armMute (s : State) (src : Nat) : muteAt (armMute s src) = muteAt s := by
  rw [armMute, muteAt_regSetBits, muteAt_regSetBits, muteAt_regSetBits]
  rfl

-- Arming -------------------------------------------------------------------------------------------------------------

section
variable {s : State} (h : Served s TUN)
include h

theorem muteArm_arms (hp : pwrState s ≤ 1) (ha : s.count + 1024 ≤ muteAt s) (hs : muteState s = 0) :
    exec .muteArm s = .next (emit (armMute s 0) (.mmioDone true)) := by
  have hw : armWrite s = armMute s 0 := by rw [armWrite, if_neg (by omega), if_neg (by omega)]
  exact hw ▸ mmioWrite_of h

theorem muteArm_late (hl : 1 < pwrState s ∨ muteAt s < s.count + 1024) :
    exec .muteArm s = .next (emit (muteLate s) (.mmioDone true)) := by
  have hw : armWrite s = muteLate s := if_pos hl
  exact hw ▸ mmioWrite_of h

theorem muteDisarm_disarms (hs : muteState s = 1) :
    exec .muteDisarm s = .next (emit (regSetBits (regSetBits s muteCtl 3 2 0) muteCtl 0 0 0) (.mmioDone true)) := by
  have hw : disarm s = regSetBits (regSetBits s muteCtl 3 2 0) muteCtl 0 0 0 := if_pos hs
  exact hw ▸ mmioWrite_of h

end

/-- The falling pin arms the next multiple of 256 that lies at least 64 counts ahead (17 R447). -/
theorem muteNFall_arms {s : State} (hr : soundpostRuns s = true) (hn : s.pins.muteN = true) (hp : pwrState s ≤ 1)
    (hs : muteState s = 0) : exec .muteNFall s =
      .next (armMute (regPutNat { s with pins := { s.pins with muteN := false } } (dcs TUN 0x100) (256 * ceilDiv (s.count + 64) 256) 2) 1) := by
  have hp : ¬ 1 < pwrState { s with pins := { s.pins with muteN := false } } := Nat.not_lt.mpr hp
  have hs : muteState { s with pins := { s.pins with muteN := false } } = 0 := hs
  have hr : soundpostRuns { s with pins := { s.pins with muteN := false } } = true := hr
  change execMuteNFall s = _
  simp [execMuteNFall, hn, hr, hp, hs]

-- The mute count -----------------------------------------------------------------------------------------------------

/-- Time passes to the mute count at which an idle module freezes (17 R448). -/
theorem muteFreeze_freezes {s : State} (hr : soundpostRuns s = true) (hi : s.plane.run = .idle) (hp : pwrState s ≤ 1)
    (hs : muteState s = 1) (hlt : s.count < s.mute.due) : exec .muteFreeze s = .next (freeze s) := by
  obtain ⟨f, hf⟩ : ∃ f, s.mute.due - s.count = f + 1 := ⟨s.mute.due - s.count - 1, by omega⟩
  have hm : s.muted = false := by
    simp only [soundpostRuns, Bool.and_eq_true, Bool.not_eq_true'] at hr
    exact hr.2
  have hd : muteDue s s.mute.due = true := by
    have hs : regBits s (dcs TUN 0x108) 3 2 = 1 := hs
    simp [muteDue, hs, hp]
  change execMuteFreeze s = _
  simp [execMuteFreeze, hr, hs, hp, Nat.max_eq_right (Nat.succ_le_of_lt hlt), passTo, hf, pass, hm, Nat.not_le.mpr hlt, planeRuns,
    takesSamples, hi, passIdle, hd]

/-- A module without a running sparse unit freezes as it stands. -/
theorem freeze_eq {s : State} (hc : ∀ e ∈ s.cores, sparseRuns e.2 = false) (hlt : s.count < s.mute.due) :
    freeze s = { s with regs := (freeze s).regs, count := s.mute.due, muted := true, free := s.free + 1
                        mute := { s.mute with frozen := s.free } } := by
  have hf : finishSparse { s with count := s.mute.due - 1 } = { s with count := s.mute.due - 1 } := finishSparse_none hc
  simp only [freeze, Nat.max_eq_right (Nat.succ_le_of_lt hlt), hf]
  rw [regSetBits_frame, regSetBits_frame { s with count := _ }]

theorem muteState_freeze (s : State) : muteState (freeze s) = 2 :=
  (muteState_regSetBits _ _ (.inl (by omega))).trans (regBits_regSetBits_same ..)

/-- The resumption of a module for which nothing waits (17 R454). -/
theorem muteThaw_thaws {s : State} (hm : s.muted = true) (ht : s.mute.thaw = true) (hw : s.mute.waiting = []) :
    exec .muteThaw s = .next (unmute s) := by
  have hu : (unmute s).mute = { s.mute with thaw := false, scan := [] } := rfl
  change execMuteThaw s = _
  simp only [execMuteThaw, hm, ht, Bool.and_self, if_true, replay, hu, hw, List.foldl_nil]
  rw [unmute, regSetBits_frame]
  simp only [← hw]

/-- The count the falling pin arms (17 R447). -/
theorem nextMuteCount (c : Nat) : 256 * ceilDiv (c + 64) 256 % 256 = 0 ∧ c + 64 ≤ 256 * ceilDiv (c + 64) 256 ∧
    256 * ceilDiv (c + 64) 256 < c + 320 := by
  rw [ceilDiv]
  omega

/-- MUTEAT holds a count of 64 bits. -/
theorem muteAt_regPutNat (s : State) {v : Nat} (h : v < 2 ^ 64) : muteAt (regPutNat s (dcs TUN 0x100) v 2) = v := by
  rw [muteAt, regNat_regPutNat_same, Nat.mod_eq_of_lt h]

theorem askResume_ready {s : State} (hm : s.muted = true) (ht : s.mute.thaw = false) (hs : s.mute.scan = []) :
    askResume s = { s with mute := { s.mute with thaw := true } } := by simp [askResume, hm, ht, hs]

/-- A segment out of its place refuses the resumption (17 R454). -/
theorem askResume_scanned {s : State} (hm : s.muted = true) (ht : s.mute.thaw = false) (hs : s.mute.scan ≠ []) :
    askResume s = regSetBits s muteCtl 5 5 1 := by simp [askResume, hm, ht, hs]

theorem muteNRise_asks {s : State} (hn : s.pins.muteN = false) :
    exec .muteNRise s = .next (askResume { s with pins := { s.pins with muteN := true } }) := by
  change execMuteNRise s = _
  simp [execMuteNRise, hn]

theorem muteResume_muted {s : State} (hm : s.muted = true) :
    exec .muteResume s = .next (if s.pins.muteN then askResume s else s) := if_pos hm

/-- Settles O48: what arms MUTE writes its count; the module freezes at it, and resumes when it is asked with every segment in its
place. -/
theorem muteStopsAndResumes : Obligations.MuteStopsAndResumes := by
  refine ⟨fun s h => ⟨fun hp ha hs => ?arm, fun hl => ?late, fun hs => ?disarm⟩, fun s hr hn hp hs hlt => ?fall,
    fun s hr hi hp hs hlt hc => ?freeze, fun s hm hn ht => ⟨fun hs => ?rise, fun hs => ?riseRefused⟩,
    fun s hm ht => ⟨fun hn hs => ?resume, fun hn => ?resumePin⟩, fun s hm ht hw => ?thaw⟩
  case arm =>
    refine ⟨_, muteArm_arms h hp ha hs, muteState_armMute .., muteSource_armMute .., muteAt_armMute .., ?_⟩
    rw [armMute_eq]
    rfl
  case late => exact ⟨_, muteArm_late h hl, regBits_regSetBits_same .., muteState_regSetBits _ _ (.inl (by omega))⟩
  case disarm =>
    refine ⟨_, muteDisarm_disarms h hs, ?_, ?_⟩
    · exact (muteState_regSetBits _ _ (.inl (by omega))).trans (regBits_regSetBits_same ..)
    · rw [regSetBits_frame, regSetBits_frame s]
      rfl
  case fall =>
    obtain ⟨hmul, hlow, hhigh⟩ := nextMuteCount s.count
    refine ⟨_, muteNFall_arms hr hn hp hs, ?_⟩
    generalize 256 * ceilDiv (s.count + 64) 256 = m at hmul hlow hhigh ⊢
    have ha (t : State) : muteAt (armMute (regPutNat t (dcs TUN 0x100) m 2) 1) = m := by
      rw [muteAt_armMute, muteAt_regPutNat _ (by omega)]
    rw [ha]
    have he := armMute_eq (regPutNat { s with pins := { s.pins with muteN := false } } (dcs TUN 0x100) m 2) 1
    refine ⟨?_, muteState_armMute .., muteSource_armMute .., hmul, hlow, hhigh, ?_⟩
    · rw [he, regPutNat_frame]
    · rw [he, muteAt_regPutNat _ (by omega), regPutNat_frame]
  case freeze =>
    refine ⟨_, muteFreeze_freezes hr hi hp hs hlt, ?_⟩
    have hm := muteState_freeze s
    rw [freeze_eq hc hlt] at hm ⊢
    exact ⟨rfl, rfl, hm, rfl, rfl, rfl, rfl⟩
  case rise =>
    exact (muteNRise_asks hn).trans (congrArg _ (askResume_ready (s := { s with pins := { s.pins with muteN := true } }) hm ht hs))
  case riseRefused =>
    have ha := askResume_scanned (s := { s with pins := { s.pins with muteN := true } }) hm ht hs
    refine ⟨_, (muteNRise_asks hn).trans (congrArg _ ha), ?_, regBits_regSetBits_same .., ?_⟩
    · rw [regSetBits_frame]
      exact ht
    · rw [regSetBits_frame]
      exact hm
  case resume => rw [muteResume_muted hm, if_pos hn, askResume_ready hm ht hs]
  case resumePin => rw [muteResume_muted hm, if_neg (by simp [hn])]
  case thaw =>
    refine ⟨_, muteThaw_thaws hm ht hw, ?_⟩
    have hu : muteState (unmute s) = 0 := regBits_regSetBits_same ..
    rw [hu, unmute, regSetBits_frame]
    exact ⟨rfl, by dsimp only; omega, rfl, rfl, rfl, rfl, rfl, rfl⟩

end Sys2Proof.Machine
end

section
/-! SUPPORT. Answers of the command executive: what a response writes, and what it leaves (14 R374, R376 to R378). -/
namespace Sys2Proof.Machine
open Sys2Proof.Safety Sys2Proof.Claims

-- Byte memories ------------------------------------------------------------------------------------------------------

theorem memWrite_append (m : Memory) (a : Nat) (bs cs : List Byte) :
    memWrite m a (bs ++ cs) = memWrite (memWrite m a bs) (a + bs.length) cs := by
  induction bs generalizing m a with
  | nil => rfl
  | cons b bs ih => rw [List.cons_append, memWrite, ih, memWrite, List.length_cons, Nat.add_assoc, Nat.add_comm 1]

theorem memRead_congr {m m' : Memory} {a n : Nat} (h : ∀ i < n, memByte m' (a + i) = memByte m (a + i)) :
    memRead m' a n = memRead m a n := by
  induction n generalizing a with
  | zero => rfl
  | succ n ih =>
    rw [memRead, memRead, ih fun i hi => by rw [Nat.add_assoc, Nat.add_comm 1]; exact h _ (Nat.succ_lt_succ hi)]
    exact congrArg (· :: _) (h 0 n.succ_pos)

/-- Bytes apart from what is written read as before. -/
theorem memRead_memWrite_out (m : Memory) {a b n : Nat} {bs : List Byte} (h : a + n ≤ b ∨ b + bs.length ≤ a) :
    memRead (memWrite m b bs) a n = memRead m a n :=
  memRead_congr fun i hi => memByte_memWrite_out _ _ _ _ (by omega)

theorem memNat_memWrite_out (m : Memory) {a b n : Nat} {bs : List Byte} (h : a + n ≤ b ∨ b + bs.length ≤ a) :
    memNat (memWrite m b bs) a n = memNat m a n := congrArg natLE (memRead_memWrite_out m h)

-- The response -------------------------------------------------------------------------------------------------------

/-- The header of a response (14 R376). -/
def responseHeader (s : State) (n : Nat) (a : Answer) : List Byte :=
  bytesLE 2 (reqCode s n) ++ bytesLE 2 a.status ++ bytesLE 4 a.data.length ++ bytesLE 4 (reqTag s n) ++ bytesLE 4 a.detail ++
    List.replicate 16 0

/-- The memory of the mailbox that is answered. -/
def responseMem (s : State) (n : Nat) (a : Answer) : Memory :=
  memWrite (memWrite (mbx s n).mem 0x800 (responseHeader s n a)) 0x820 a.data

/-- A response before its mailbox is DONE and its interrupt pends. -/
def responded (s : State) (n : Nat) (a : Answer) : State :=
  { setMbx s n { mbx s n with mem := responseMem s n a } with
    exec := { s.exec with queue := s.exec.queue.erase n }
    pins := if (mbx s n).owner = .smbus then { s.pins with smbAlertN := false } else s.pins }

theorem respond_eq (s : State) (n : Nat) (a : Answer) : respond s n a = raiseIrq (setMbxState (responded s n a) n 2) n := by
  unfold respond responded
  dsimp only
  split
  · rfl
  · rfl

/-- The fields of a response's header, and its payload after it (14 R376). -/
theorem responseMem_fields (s : State) (n : Nat) (a : Answer) :
    memNat (responseMem s n a) 0x802 2 = a.status % 2 ^ 16 ∧ memNat (responseMem s n a) 0x804 4 = a.data.length % 2 ^ 32 ∧
      memNat (responseMem s n a) 0x808 4 = reqTag s n ∧ memNat (responseMem s n a) 0x80C 4 = a.detail % 2 ^ 32 ∧
      memRead (responseMem s n a) 0x820 a.data.length = a.data := by
  have hm : responseMem s n a = memWrite (memWrite (memWrite (memWrite (memWrite (memWrite (memWrite (mbx s n).mem
      0x800 (bytesLE 2 (reqCode s n))) 0x802 (bytesLE 2 a.status)) 0x804 (bytesLE 4 a.data.length)) 0x808 (bytesLE 4 (reqTag s n)))
      0x80C (bytesLE 4 a.detail)) 0x810 (List.replicate 16 0)) 0x820 a.data := by
    simp only [responseMem, responseHeader, memWrite_append, bytesLE_length, List.length_append, Nat.reduceAdd]
  have hout {k n b : Nat} {bs : List Byte} (m : Memory) (h : k + n ≤ b) : memNat (memWrite m b bs) k n = memNat m k n :=
    memNat_memWrite_out _ (.inl h)
  have htag : reqTag s n % 2 ^ (8 * 4) = reqTag s n := Nat.mod_eq_of_lt (memNat_lt ..)
  rw [hm]
  refine ⟨?_, ?_, ?_, ?_, memRead_memWrite_same ..⟩
  · rw [hout _ (by omega), hout _ (by omega), hout _ (by omega), hout _ (by omega), hout _ (by omega), memNat_memWrite_bytesLE]
  · rw [hout _ (by omega), hout _ (by omega), hout _ (by omega), hout _ (by omega), memNat_memWrite_bytesLE]
  · rw [hout _ (by omega), hout _ (by omega), hout _ (by omega), memNat_memWrite_bytesLE, htag]
  · rw [hout _ (by omega), hout _ (by omega), memNat_memWrite_bytesLE]

/-- A response leaves all but its mailbox, the queue, the alert pin, registers and the host's doorbell. -/
theorem respond_frame (s : State) (n : Nat) (a : Answer) : respond s n a = { responded s n a with
    regs := (respond s n a).regs, out := (respond s n a).out } := by
  obtain ⟨o, h, -⟩ := raiseIrq_eq (setMbxState (responded s n a) n 2) n
  rw [← respond_eq] at h
  rw [h, setMbxState, regSetBits_frame]

section
variable (s : State) (n : Nat) (a : Answer)

@[simp] theorem respond_cores : (respond s n a).cores = s.cores := by rw [respond_frame]; rfl
@[simp] theorem respond_plane : (respond s n a).plane = s.plane := by rw [respond_frame]; rfl
@[simp] theorem respond_bridges : (respond s n a).bridges = s.bridges := by rw [respond_frame]; rfl
@[simp] theorem respond_tiles : (respond s n a).tiles = s.tiles := by rw [respond_frame]; rfl
@[simp] theorem respond_dram : (respond s n a).dram = s.dram := by rw [respond_frame]; rfl
@[simp] theorem respond_flash : (respond s n a).flash = s.flash := by rw [respond_frame]; rfl
@[simp] theorem respond_image : (respond s n a).image = s.image := by rw [respond_frame]; rfl
@[simp] theorem respond_due : (respond s n a).due = s.due := by rw [respond_frame]; rfl
@[simp] theorem respond_count : (respond s n a).count = s.count := by rw [respond_frame]; rfl
@[simp] theorem respond_exec : (respond s n a).exec = { s.exec with queue := s.exec.queue.erase n } := by rw [respond_frame]; rfl
@[simp] theorem respond_mbx_same : mbx (respond s n a) n = { mbx s n with mem := responseMem s n a } := by
  rw [respond_frame]
  exact mbx_setMbx_same ..

end

/-- A bit of a register of one word. -/
theorem bitAt_regWord {s : State} {a b : Nat} (hb : b < 32) : bitAt (regWord s a).toNat b = true ↔ regBits s a b b = 1 := by
  simp only [bitAt, regBits, Nat.div_eq_of_lt hb, regNat, bitsOf, Nat.mul_zero, Nat.add_zero, Nat.add_sub_cancel_left, pow_one,
    decide_eq_true_eq]

section
variable {s : State} {n : Nat} (a : Answer) (hn : n < 16)
include hn

/-- A register that is neither the mailbox's control nor IRQSTAT reads as before. -/
theorem regBits_respond {b hi lo : Nat} (hm : b + 4 * (hi / 32 + 1) ≤ mbxCtl n ∨ mbxCtl n + 4 ≤ b)
    (hirq : b + 4 * (hi / 32 + 1) ≤ dcs APL 0x100 ∨ dcs APL 0x104 ≤ b) : regBits (respond s n a) b hi lo = regBits s b hi lo := by
  have hb : n / 32 = 0 := by omega
  have hset : regBits (setMbxState (responded s n a) n 2) b hi lo = regBits s b hi lo :=
    (regBits_regSetBits_ne _ 2 hm).trans (regBits_congr (s := s) (t := responded s n a) rfl ..)
  rw [respond_eq, regBits_raiseIrq_other, hset]
  rw [regBits_regSetBits_ne]
  rw [hb]
  exact hirq.imp id (by simp only [dcs]; omega)

/-- The other fields of a mailbox's control, and the other mailboxes, read as before. -/
theorem regBits_respond_ctl (m : Nat) {hi lo : Nat} (h32 : hi < 32) (d : m ≠ n ∨ hi < 2 ∨ 3 < lo) :
    regBits (respond s n a) (mbxCtl m) hi lo = regBits s (mbxCtl m) hi lo := by
  have hb : n / 32 = 0 := by omega
  have hh : hi / 32 = 0 := by omega
  have hset : regBits (setMbxState (responded s n a) n 2) (mbxCtl m) hi lo = regBits (responded s n a) (mbxCtl m) hi lo := by
    by_cases hm : m = n
    · rw [hm]
      exact regBits_regSetBits_field _ _ _ (d.resolve_left (not_not.mpr hm))
    · refine regBits_regSetBits_ne _ 2 ?_
      simp only [mbxCtl, dcs, hh]
      omega
  rw [respond_eq, regBits_raiseIrq_other, hset]
  · exact regBits_congr (s := s) (t := responded s n a) rfl ..
  · rw [regBits_regSetBits_ne]
    right
    simp only [mbxCtl, dcs, hb, SP, APL]
    omega

theorem sessionRole_respond (m : Nat) : sessionRole (respond s n a) m = sessionRole s m :=
  regBits_respond_ctl a hn m (by omega) (.inr (.inr (by omega)))

theorem mbxState_respond : mbxState (respond s n a) n = 2 := by
  have hb : n / 32 = 0 := by omega
  rw [respond_eq, mbxState, regBits_raiseIrq_other]
  · exact regBits_regSetBits_same ..
  · rw [regBits_regSetBits_ne]
    right
    simp only [mbxCtl, dcs, hb, SP, APL]
    omega

/-- What a response to the only command queued leaves in its mailbox (14 R374, R376, R377). -/
theorem respond_answers {s₀ : State} {a : Answer} (hm : (mbx s n).mem = (mbx s₀ n).mem) (hq : s.exec.queue = [n])
    (hs : a.status < 2 ^ 16) (hd : a.detail < 2 ^ 32) (hl : a.data.length < 2 ^ 32) :
    answers s₀ (respond s n a) n a.status a.detail a.data := by
  obtain ⟨hstatus, hlen, htag, hdetail, hdata⟩ := responseMem_fields s n a
  have ht : reqTag s n = reqTag s₀ n := congrArg (memNat · 8 4) hm
  refine ⟨mbxState_respond a hn, ?_, ?_, ?_, ?_, ?_, ?_, ?_⟩
  · rw [respond_mbx_same, hstatus, Nat.mod_eq_of_lt hs]
  · rw [respond_mbx_same, hlen, Nat.mod_eq_of_lt hl]
  · rw [respond_mbx_same, htag, ht]
  · rw [respond_mbx_same, hdetail, Nat.mod_eq_of_lt hd]
  · rw [respond_mbx_same, hdata]
  · rw [bitAt_regWord (by omega), respond_eq]
    exact regBits_raiseIrq_same _ (by omega)
  · simp [hq]

end

theorem sharedStatus_lt (s : State) (n : Nat) : sharedStatus s n < 2 ^ 16 := by
  unfold sharedStatus
  dsimp only
  repeat' split
  all_goals decide

/-- A command that passes the shared checks answers with what its own function gives. -/
theorem mbxCmd_answers {s t : State} {n row : Nat} {f : State → State × Answer} {a : Answer} (h : Taken s n row) (hf : f s = (t, a))
    (hm : (mbx t n).mem = (mbx s n).mem) (hq : t.exec.queue = s.exec.queue) (hs : a.status < 2 ^ 16 := by decide)
    (hd : a.detail < 2 ^ 32 := by decide) (hl : a.data.length < 2 ^ 32 := by decide) :
    mbxCmd n row s f = .next (respond t n a) ∧ answers s (respond t n a) n a.status a.detail a.data := by
  have hq := hq.trans h.alone
  refine ⟨?_, respond_answers h.box hm hq hs hd hl⟩
  rw [mbxCmd_passes h.box h.takes h.passes, hf, settleQueue_nil]
  simp [hq]

-- The shared checks --------------------------------------------------------------------------------------------------

/-- An outcome is that of a command under the shared checks: none where the mailbox is not the next one, an answer where a check
fails (14 R382). -/
structure Checked (s : State) (n row : Nat) (o : Out) : Prop where
  other : mbxTaken s n row = false → o = .next s
  fails : mbxTaken s n row = true → sharedStatus s n ≠ stOK → o = .next (settleQueue 16 (respond s n (.st (sharedStatus s n))))

section
variable {s : State} {n : Nat} (hn : n < 16)
include hn

theorem mbxCmd_checked {row : Nat} {f : State → State × Answer} : Checked s n row (mbxCmd n row s f) :=
  ⟨mbxCmd_other hn, mbxCmd_fails hn⟩

theorem loadProgram_checked : Checked s n 0x200 (execLoadProgram n none s) := by
  rw [execLoadProgram, if_neg (by simp)]
  exact mbxCmd_checked hn

theorem updateImageWrite_checked : Checked s n 0x701 (execUpdateImageWrite n none s) := by
  rw [execUpdateImageWrite, if_neg (by simp)]
  exact mbxCmd_checked hn

theorem powerSetA2_checked : Checked s n 0x403 (execPowerSetA2 n s) where
  other ht := by rw [execPowerSetA2, if_neg (by omega), if_pos (by simp [ht])]
  fails ht hs := by rw [execPowerSetA2, if_neg (by omega), if_neg (by simp [ht]), if_pos hs]

omit hn in
/-- Outside a lockout SESSION_OPEN passes the shared checks like the others (log 45). -/
theorem sessionOpen_eq (h : s.exec.lockout = false ∨ mbxTaken s n 0x020 = false) :
    execSessionOpen n s = mbxCmd n 0x020 s fun s => sessionOpen s n := by
  rcases h with h | h <;> simp [execSessionOpen, h]

theorem mailboxRows_checked : ∀ row ∈ mailboxRows, (row.2 = 0x020 → s.exec.lockout = false ∨ mbxTaken s n 0x020 = false) →
    Checked s n row.2 (exec (row.1 n) s) := by
  simp only [mailboxRows, List.forall_mem_cons, List.not_mem_nil, IsEmpty.forall_iff, implies_true, and_true]
  and_intros
  · exact fun _ => (mbxCmd_checked hn : Checked s n 0x10 (execSessionNonce n s))
  · intro h
    change Checked s n 0x020 (execSessionOpen n s)
    rw [sessionOpen_eq (h trivial)]
    exact mbxCmd_checked hn
  · exact fun _ => (mbxCmd_checked hn : Checked s n 0x30 (execSessionClose n s))
  · exact fun _ => (mbxCmd_checked hn : Checked s n 0x100 (execSetTopology n s))
  · exact fun _ => (mbxCmd_checked hn : Checked s n 0x110 (execSetCourseTable n s))
  · exact fun _ => (mbxCmd_checked hn : Checked s n 0x120 (execSetRegionTable n s))
  · exact fun _ => loadProgram_checked hn
  · exact fun _ => (mbxCmd_checked hn : Checked s n 0x210 (execLoadSaddleProgram n s))
  · exact fun _ => (mbxCmd_checked hn : Checked s n 0x300 (execLaunch n s))
  · exact fun _ => (mbxCmd_checked hn : Checked s n 0x310 (execPause n s))
  · exact fun _ => (mbxCmd_checked hn : Checked s n 0x320 (execContRun n s))
  · exact fun _ => (mbxCmd_checked hn : Checked s n 0x330 (execAbortStep n s))
  · exact fun _ => (mbxCmd_checked hn : Checked s n 0x400 (execPowerQuery n s))
  · exact fun _ => (mbxCmd_checked hn : Checked s n 0x401 (execPowerSetA0 n s))
  · exact fun _ => (mbxCmd_checked hn : Checked s n 0x402 (execPowerSetA1 n s))
  · exact fun _ => powerSetA2_checked hn
  · exact fun _ => (mbxCmd_checked hn : Checked s n 0x404 (execPowerSetA3 n s))
  · exact fun _ => (mbxCmd_checked hn : Checked s n 0x410 (execTelemetrySummary n s))
  · exact fun _ => (mbxCmd_checked hn : Checked s n 0x411 (execTelemetryBridge n s))
  · exact fun _ => (mbxCmd_checked hn : Checked s n 0x500 (execAttestQuote n s))
  · exact fun _ => (mbxCmd_checked hn : Checked s n 0x501 (execAttestLog n s))
  · exact fun _ => (mbxCmd_checked hn : Checked s n 0x502 (execAttestAliasCert n s))
  · exact fun _ => (mbxCmd_checked hn : Checked s n 0x503 (execAttestDeviceCert n s))
  · exact fun _ => (mbxCmd_checked hn : Checked s n 0x600 (execResetDevice n s))
  · exact fun _ => (mbxCmd_checked hn : Checked s n 0x601 (execResetPlane n s))
  · exact fun _ => (mbxCmd_checked hn : Checked s n 0x602 (execResetLink n s))
  · exact fun _ => updateImageWrite_checked hn
  · exact fun _ => (mbxCmd_checked hn : Checked s n 0x702 (execUpdateImageActivate n s))
  · exact fun _ => (mbxCmd_checked hn : Checked s n 0x703 (execUpdateImageCommit n s))

end

-- The status of the shared checks --------------------------------------------------------------------------------------

section
variable {s : State} {n : Nat}

theorem sharedStatus_noSession (hr : sessionRole s n = 0) (h1 : reqCode s n ≠ 1) (h2 : reqCode s n ≠ 2) :
    sharedStatus s n = stNO_SESSION := by simp [sharedStatus, hr, h1, h2]

/-- The commands of the HOST alone (14 R382). -/
theorem sharedStatus_role (hr : sessionRole s n = 2)
    (hc : reqCode s n ∈ [0x10, 0x11, 0x12, 0x20, 0x21, 0x30, 0x31, 0x32, 0x33, 0x50, 0x70]) : sharedStatus s n = stROLE := by
  have hrow : ∀ c ∈ [0x10, 0x11, 0x12, 0x20, 0x21, 0x30, 0x31, 0x32, 0x33, 0x50, 0x70], codeListed c = true ∧ roleMay c 2 = false := by
    decide
  obtain ⟨hlist, hrole⟩ := hrow _ hc
  simp [sharedStatus, hr, hlist, hrole]

/-- What the checks before those of the module's state leave to a HOST's command of a right length. -/
theorem sharedStatus_host (hr : sessionRole s n = 1) (hlist : codeListed (reqCode s n) = true) (hrole : roleMay (reqCode s n) 1 = true)
    (hl : lenOk s n = true) : sharedStatus s n =
      if pwrState s = 4 ∧ reqCode s n ∉ [0x01, 0x02, 0x03, 0x41, 0x50] ∧ ¬ (reqCode s n = 0x40 ∧ reqPay s n 0 1 = 0) then stPWR_TRIPPED
      else if (pwrState s = 2 ∨ pwrState s = 3) ∧ reqCode s n ∈ [0x10, 0x11, 0x12, 0x20, 0x30, 0x32] then stPWR_STATE
      else if runBusy s ∧ reqCode s n ∈ [0x10, 0x11, 0x12, 0x20, 0x21, 0x70] then stBUSY
      else stOK := by
  simp [sharedStatus, hr, hlist, hrole, hl]

theorem sharedStatus_tripped (hr : sessionRole s n = 1) (hc : reqCode s n ∈ [0x10, 0x20, 0x30]) (hl : lenOk s n = true)
    (hp : pwrState s = 4) : sharedStatus s n = stPWR_TRIPPED := by
  have hrow : ∀ c ∈ [0x10, 0x20, 0x30], codeListed c = true ∧ roleMay c 1 = true ∧ c ∉ [0x01, 0x02, 0x03, 0x41, 0x50] ∧ c ≠ 0x40 := by decide
  obtain ⟨hlist, hrole, hnot, h40⟩ := hrow _ hc
  rw [sharedStatus_host hr hlist hrole hl, if_pos ⟨hp, hnot, fun h => h40 h.1⟩]

theorem sharedStatus_busy (hr : sessionRole s n = 1) (hc : reqCode s n ∈ [0x10, 0x20, 0x70]) (hl : lenOk s n = true)
    (hp : pwrState s = 0) (hrun : s.plane.run = .running) : sharedStatus s n = stBUSY := by
  have hrow : ∀ c ∈ [0x10, 0x20, 0x70], codeListed c = true ∧ roleMay c 1 = true ∧ c ∈ [0x10, 0x11, 0x12, 0x20, 0x21, 0x70] := by decide
  obtain ⟨hlist, hrole, hin⟩ := hrow _ hc
  have hbusy : runBusy s = true := by simp [runBusy, hrun]
  rw [sharedStatus_host hr hlist hrole hl, if_neg (by omega), if_neg (by omega), if_pos ⟨hbusy, hin⟩]

end

/-- Settles O38: every row is a command under the shared checks; the statuses are the branches of `sharedStatus`. -/
theorem mailboxCommandsAreCheckedAlike : Obligations.MailboxCommandsAreCheckedAlike := by
  refine ⟨fun row hrow s n h hl hs => ?fails, fun row hrow s n hn ht => ?other, fun s n => sharedStatus_noSession,
    fun s n => sharedStatus_role, fun s n => sharedStatus_tripped, fun s n => sharedStatus_busy⟩
  case fails =>
    have hf := (mailboxRows_checked h.box row hrow fun he => .inl (hl he)).fails h.takes hs
    rw [settleQueue_nil _ _ (by simp [h.alone])] at hf
    exact ⟨_, hf, respond_answers h.box rfl h.alone (sharedStatus_lt s n) (Nat.two_pow_pos _) (Nat.two_pow_pos _), by simp, by simp,
      by simp, by simp, by simp, by simp, by simp, by simp⟩
  case other => exact (mailboxRows_checked hn row hrow fun he => .inr (he ▸ ht)).other ht

end Sys2Proof.Machine
end

section
/-! SUPPORT. Sessions (14 R380, R381). -/
namespace Sys2Proof.Machine
open Sys2Proof.Safety Sys2Proof.Claims

-- Roles --------------------------------------------------------------------------------------------------------------

/-- The copy enable is not a mailbox's register. -/
theorem sessionRole_syncCopyEnable (s : State) (m : Nat) : sessionRole (syncCopyEnable s) m = sessionRole s m :=
  regBits_regSetBits_ne _ _ (.inr (by simp only [dcs, APL, SP]; omega))

theorem sessionRole_setRole_same (s : State) (n : Nat) {role : Nat} (h : role < 4) : sessionRole (setRole s n role) n = role := by
  rw [setRole, sessionRole_syncCopyEnable]
  exact (regBits_regSetBits_same ..).trans (Nat.mod_eq_of_lt h)

theorem sessionRole_setRole_ne (s : State) {n m : Nat} (role : Nat) (h : m ≠ n) : sessionRole (setRole s n role) m = sessionRole s m := by
  rw [setRole, sessionRole_syncCopyEnable]
  exact regBits_regSetBits_ne _ _ (by simp only [mbxCtl, dcs]; omega)

theorem setRole_frame (s : State) (n role : Nat) : setRole s n role = { s with regs := (setRole s n role).regs } := by
  rw [setRole, syncCopyEnable, regSetBits_frame, regSetBits_frame s]

theorem hostSession_congr {s t : State} (h : ∀ m, sessionRole t m = sessionRole s m) : hostSession t = hostSession s := by
  simp only [hostSession, h]

/-- The copy enable says whether a HOST session is open (14 R380). -/
theorem copyEnable_setRole (s : State) (n role : Nat) :
    regBits (setRole s n role) (dcs APL 0x300) 0 0 = if hostSession (setRole s n role) then 1 else 0 := by
  rw [setRole, hostSession_congr (sessionRole_syncCopyEnable _), syncCopyEnable, regBits_regSetBits_same]
  split <;> rfl

-- The rows -----------------------------------------------------------------------------------------------------------

section
variable {s : State} {n : Nat}

/-- The state in which a mailbox has the nonce `v` (14 R380). -/
def nonced (s : State) (n : Nat) (v : List Byte) : State := { setMbx s n { mbx s n with nonce := some v } with free := s.free + 1 }

theorem mbx_nonced (s : State) (n : Nat) (v : List Byte) : mbx (nonced s n v) n = { mbx s n with nonce := some v } := mbx_setMbx_same ..

theorem sessionNonce_answers (h : Taken s n 0x010) : ∃ t v, exec (.sessionNonce n) s = .next t ∧ v.length = 32 ∧
    (mbx t n).nonce = some v ∧ answers s t n 0 0 v ∧ sessionRole t n = sessionRole s n ∧ t.cores = s.cores ∧ t.plane = s.plane := by
  let v := bytesLE 32 (Config.sessionNonce s.free).toNat
  have hlen : v.length = 32 := bytesLE_length ..
  obtain ⟨hn, ha⟩ := mbxCmd_answers (f := fun s => (nonced s n (bytesLE 32 (Config.sessionNonce s.free).toNat),
      ⟨stOK, 0, bytesLE 32 (Config.sessionNonce s.free).toNat⟩)) (t := nonced s n v) (a := ⟨stOK, 0, v⟩) h rfl
    (by rw [mbx_nonced]) rfl (Nat.two_pow_pos _) (Nat.two_pow_pos _) (hlen.trans_lt (by decide))
  refine ⟨_, v, hn, hlen, ?_, ha, sessionRole_respond _ h.box n, respond_cores .., respond_plane ..⟩
  rw [respond_mbx_same, mbx_nonced]

/-- The state in which the role of a right proof is open (14 R380). -/
def opened (s : State) (n role : Nat) : State :=
  setRole { setMbx s n { mbx s n with nonce := none } with exec := { s.exec with fails := 0 } } n role

theorem opened_frame (s : State) (n role : Nat) : opened s n role =
    { setMbx s n { mbx s n with nonce := none } with exec := { s.exec with fails := 0 }, regs := (opened s n role).regs } :=
  setRole_frame ..

theorem mbx_opened (s : State) (n role : Nat) : mbx (opened s n role) n = { mbx s n with nonce := none } := by
  rw [opened_frame]
  exact mbx_setMbx_same ..

theorem mbx_authFailed (s : State) (n : Nat) : mbx (authFailed s n) n = { mbx s n with nonce := none } := by
  unfold authFailed
  dsimp only
  split
  · exact mbx_setMbx_same ..
  · exact mbx_setMbx_same ..

theorem authFailed_exec (s : State) (n : Nat) : (authFailed s n).exec = { s.exec with
    fails := if s.exec.fails + 1 = 8 then 0 else s.exec.fails + 1
    lockout := if s.exec.fails + 1 = 8 then true else s.exec.lockout } := by
  have he : (setMbx s n { mbx s n with nonce := none }).exec = s.exec := rfl
  simp only [authFailed, he]
  split
  · rfl
  · rfl

theorem sessionRole_authFailed (s : State) (n m : Nat) : sessionRole (authFailed s n) m = sessionRole s m := by
  refine regBits_congr ?_ ..
  unfold authFailed
  dsimp only
  split
  · rfl
  · rfl

/-- The role a proof may open, and the right one. -/
theorem sessionOpen_right {k v : List Byte} (hr : reqPay s n 0 1 = 1 ∧ n ≠ 15 ∨ reqPay s n 0 1 = 2)
    (hk : roleKey s (reqPay s n 0 1) = some k) (hv : (mbx s n).nonce = some v)
    (hp : hmac k (proofMessage v n (reqPay s n 0 1)) = reqBytes s n 4 32) :
    sessionOpen s n = (opened s n (reqPay s n 0 1), .st stOK) := by
  rw [sessionOpen]
  dsimp only
  rw [if_neg (by omega)]
  simp only [hk, hv, if_pos hp]
  rfl

theorem sessionOpen_wrong {k v : List Byte} (hr : reqPay s n 0 1 = 1 ∧ n ≠ 15 ∨ reqPay s n 0 1 = 2)
    (hk : roleKey s (reqPay s n 0 1) = some k) (hv : (mbx s n).nonce = some v)
    (hp : hmac k (proofMessage v n (reqPay s n 0 1)) ≠ reqBytes s n 4 32) :
    sessionOpen s n = (authFailed s n, .st stAUTH_FAILED) := by
  rw [sessionOpen]
  dsimp only
  rw [if_neg (by omega)]
  simp only [hk, hv, if_neg hp]

theorem exec_sessionOpen (h : s.exec.lockout = false) :
    exec (.sessionOpen n) s = mbxCmd n 0x020 s fun s => sessionOpen s n := sessionOpen_eq (.inl h)

theorem sessionOpen_opens {k v : List Byte} (h : Taken s n 0x020) (hl : s.exec.lockout = false)
    (hr : reqPay s n 0 1 = 1 ∧ n ≠ 15 ∨ reqPay s n 0 1 = 2) (hk : roleKey s (reqPay s n 0 1) = some k) (hv : (mbx s n).nonce = some v)
    (hp : hmac k (proofMessage v n (reqPay s n 0 1)) = reqBytes s n 4 32) :
    ∃ t, exec (.sessionOpen n) s = .next t ∧ answers s t n 0 0 [] ∧ sessionRole t n = reqPay s n 0 1 ∧ (mbx t n).nonce = none ∧
      t.exec.fails = 0 ∧ regBits t (dcs APL 0x300) 0 0 = (if hostSession t then 1 else 0) ∧ t.cores = s.cores := by
  have hframe := opened_frame s n (reqPay s n 0 1)
  have he : (opened s n (reqPay s n 0 1)).exec = { s.exec with fails := 0 } := by rw [hframe]
  obtain ⟨hn, ha⟩ := mbxCmd_answers (f := fun s => sessionOpen s n) (a := .st stOK) h (sessionOpen_right hr hk hv hp) (by rw [mbx_opened]) (by rw [he])
  refine ⟨_, (exec_sessionOpen hl).trans hn, ha, ?_, ?_, ?_, ?_, ?_⟩
  · rw [sessionRole_respond _ h.box, opened, sessionRole_setRole_same _ _ (by omega)]
  · rw [respond_mbx_same, mbx_opened]
  · rw [respond_exec, he]
  · rw [hostSession_congr (sessionRole_respond _ h.box), regBits_respond _ h.box, opened, copyEnable_setRole]
    · simp only [mbxCtl, dcs, APL, SP]
      omega
    · simp only [dcs]
      omega
  · rw [respond_cores, hframe]
    rfl

theorem sessionOpen_fails {k v : List Byte} (h : Taken s n 0x020) (hl : s.exec.lockout = false)
    (hr : reqPay s n 0 1 = 1 ∧ n ≠ 15 ∨ reqPay s n 0 1 = 2) (hk : roleKey s (reqPay s n 0 1) = some k) (hv : (mbx s n).nonce = some v)
    (hp : hmac k (proofMessage v n (reqPay s n 0 1)) ≠ reqBytes s n 4 32) :
    ∃ t, exec (.sessionOpen n) s = .next t ∧ answers s t n 6 0 [] ∧ sessionRole t n = sessionRole s n ∧ (mbx t n).nonce = none ∧
      t.exec.lockout = decide (s.exec.fails + 1 = 8) ∧ t.exec.fails = if s.exec.fails + 1 = 8 then 0 else s.exec.fails + 1 := by
  obtain ⟨hn, ha⟩ := mbxCmd_answers (f := fun s => sessionOpen s n) (a := .st stAUTH_FAILED) h (sessionOpen_wrong hr hk hv hp) (by rw [mbx_authFailed]) (by rw [authFailed_exec])
  refine ⟨_, (exec_sessionOpen hl).trans hn, ha, ?_, ?_, ?_, ?_⟩
  · rw [sessionRole_respond _ h.box, sessionRole_authFailed]
  · rw [respond_mbx_same, mbx_authFailed]
  · rw [respond_exec, authFailed_exec, hl]
    simp
  · rw [respond_exec, authFailed_exec]

/-- In a lockout no proof is tried (14 R381). -/
theorem sessionOpen_lockedOut (h : Next s n 0x020) (hl : s.exec.lockout = true) :
    ∃ t, exec (.sessionOpen n) s = .next t ∧ answers s t n 8 0 [] ∧ (mbx t n).nonce = (mbx s n).nonce ∧
      t.exec.fails = s.exec.fails ∧ sessionRole t n = sessionRole s n := by
  have he : exec (.sessionOpen n) s = .next (respond s n (.st stLOCKOUT)) := by
    change execSessionOpen n s = _
    rw [execSessionOpen, if_pos (by simp [hl, h.box, h.takes]), settleQueue_nil]
    simp [h.alone]
  exact ⟨_, he, respond_answers h.box rfl h.alone (by decide) (by decide) (by decide), by rw [respond_mbx_same], by rw [respond_exec],
    sessionRole_respond _ h.box n⟩

theorem sessionClose_closes (h : Taken s n 0x030) : ∃ t, exec (.sessionClose n) s = .next t ∧ answers s t n 0 0 [] ∧
    sessionRole t n = 0 ∧ (∀ m < 16, m ≠ n → sessionRole t m = sessionRole s m) ∧ t.cores = s.cores ∧ t.plane = s.plane := by
  have hframe := setRole_frame s n 0
  obtain ⟨hn, ha⟩ := mbxCmd_answers (f := fun s => (setRole s n 0, .st stOK)) (t := setRole s n 0) (a := .st stOK) h rfl (by rw [hframe]; rfl) (by rw [hframe])
  refine ⟨_, hn, ha, ?_, fun m _ hm => ?_, ?_, ?_⟩
  · rw [sessionRole_respond _ h.box, sessionRole_setRole_same _ _ (by omega)]
  · rw [sessionRole_respond _ h.box, sessionRole_setRole_ne _ _ hm]
  · rw [respond_cores, hframe]
  · rw [respond_plane, hframe]

-- Expiries -----------------------------------------------------------------------------------------------------------

theorem nonceExpiry_forgets (hr : soundpostRuns s = true) (hn : n < 16) : ∃ t, exec (.nonceExpiry n) s = .next t ∧
    (mbx t n).nonce = none ∧ (mbx t n).mem = (mbx s n).mem ∧ t = { s with mbx := t.mbx } := by
  refine ⟨setMbx s n { mbx s n with nonce := none }, ?_, by rw [mbx_setMbx_same], by rw [mbx_setMbx_same], rfl⟩
  change execNonceExpiry n s = _
  rw [execNonceExpiry, if_neg (by omega), if_pos hr]

theorem sessionIdleExpiry_closes (hr : soundpostRuns s = true) (hn : n < 16) (hs : sessionRole s n ≠ 0)
    (hi : regBits s (dcs SP 0x100) 15 0 ≠ 0) (hm : mbxState s n ≠ 1) :
    exec (.sessionIdleExpiry n) s = .next (raiseIrq (setRole s n 0) 25) := by
  change execSessionIdleExpiry n s = _
  rw [execSessionIdleExpiry, if_neg (by omega), if_pos (by simp [hr, hs, hi, hm])]

theorem sessionIdleExpiry_waits (hn : n < 16) (h : regBits s (dcs SP 0x100) 15 0 = 0 ∨ mbxState s n = 1) :
    exec (.sessionIdleExpiry n) s = .next s := by
  change execSessionIdleExpiry n s = _
  rw [execSessionIdleExpiry, if_neg (by omega), if_neg]
  rcases h with h | h <;> simp [h]

theorem sessionRole_raiseIrq (s : State) {b : Nat} (hb : b < 32) (n : Nat) : sessionRole (raiseIrq s b) n = sessionRole s n :=
  regBits_raiseIrq_other (regBits_regSetBits_ne _ _ (.inr (by simp only [Nat.div_eq_of_lt hb, dcs, APL, SP]; omega)))

end

/-- Settles O40: an answer leaves the roles, so what each row does to its session is what stands after it. The order of the lockout
check is log 45. -/
theorem sessionsOpenAndClose : Obligations.SessionsOpenAndClose := by
  refine ⟨fun s n => sessionNonce_answers,
    fun s n k v h hl hr hk hv => ⟨sessionOpen_opens h hl hr hk hv, sessionOpen_fails h hl hr hk hv⟩, fun s n => sessionOpen_lockedOut,
    fun s n => sessionClose_closes, fun s n hr hn => ⟨nonceExpiry_forgets hr hn, ?lockout, fun hs hi hm => ?idle,
      sessionIdleExpiry_waits hn⟩⟩
  case lockout =>
    change execLockoutExpiry s = _
    rw [execLockoutExpiry, if_pos hr]
  case idle =>
    refine ⟨_, sessionIdleExpiry_closes hr hn hs hi hm, ?_, (bitAt_regWord (by omega)).mpr (regBits_raiseIrq_same _ (by omega))⟩
    rw [sessionRole_raiseIrq _ (by omega), sessionRole_setRole_same _ _ (by omega)]

end Sys2Proof.Machine
end

section
/-! SUPPORT. What an abort of the run and a reset of the plane leave as it was (15 R403; 16 R425, R429). -/
namespace Sys2Proof.Machine
open Sys2Proof.Safety Sys2Proof.Claims

/-- Since `s₀` at most registers, units, the plane, the image and the outputs have changed. -/
def Works (s₀ s : State) : Prop := s = { s₀ with
  out := s.out, image := s.image, plane := s.plane, tokSent := s.tokSent, tokGot := s.tokGot, cores := s.cores, regs := s.regs, bridges := s.bridges
  tiles := s.tiles, stepCodes := s.stepCodes }

namespace Works
variable {s₀ s t : State}

theorem refl (s : State) : Works s s := rfl

theorem trans (h : Works s₀ s) (h' : Works s t) : Works s₀ t := by
  unfold Works at h h' ⊢
  rw [h', h]

theorem of_records (h : RecordsOnly s t) : Works s t := by
  unfold RecordsOnly at h
  unfold Works
  rw [h]

theorem of_stages {d : Nat} (h : StagesOnly d s t) : Works s t := by
  unfold Works
  rw [h.rest]

theorem flash (h : Works s₀ s) : s.flash = s₀.flash := by rw [h]
theorem mbx (h : Works s₀ s) : s.mbx = s₀.mbx := by rw [h]
theorem exec (h : Works s₀ s) : s.exec = s₀.exec := by rw [h]

protected theorem update (h : Works s₀ s) {out image plane tokSent tokGot cores regs bridges tiles stepCodes} :
    Works s₀ { s with
      out := out, image := image, plane := plane, tokSent := tokSent, tokGot := tokGot, cores := cores, regs := regs, bridges := bridges
      tiles := tiles, stepCodes := stepCodes } := by
  unfold Works at h ⊢
  rw [h]

protected theorem foldl {β : Type} {l : List β} {f : State → β → State} (h : Works s₀ s)
    (hf : ∀ s x, Works s₀ s → Works s₀ (f s x)) : Works s₀ (l.foldl f s) := by
  induction l generalizing s with
  | nil => exact h
  | cons x l ih => exact ih (hf s x h)

protected theorem ite {c : Prop} [Decidable c] (hs : Works s₀ s) (ht : Works s₀ t) : Works s₀ (if c then s else t) := by
  split
  · exact hs
  · exact ht

protected theorem ite_fst {c : Prop} [Decidable c] {β : Type} {p q : State × β} (hp : Works s₀ p.1) (hq : Works s₀ q.1) :
    Works s₀ (if c then p else q).1 := by
  split
  · exact hp
  · exact hq

protected theorem regPut (h : Works s₀ s) {a : Nat} {v : Word} : Works s₀ (regPut s a v) := h.update

protected theorem regPutNat (h : Works s₀ s) {a v n : Nat} : Works s₀ (regPutNat s a v n) := by
  induction n generalizing s a v with
  | zero => exact h
  | succ n ih => exact ih h.regPut

protected theorem regSetBits (h : Works s₀ s) {a hi lo x : Nat} : Works s₀ (regSetBits s a hi lo x) := h.regPutNat

protected theorem regCount (h : Works s₀ s) {a n : Nat} : Works s₀ (regCount s a n) := h.regPutNat

protected theorem clearRegs (h : Works s₀ s) {dies : Nat → Bool} {q : Cls → Bool} : Works s₀ (clearRegs s dies q) := h.update

protected theorem setCore (h : Works s₀ s) {c : Nat} {k : Core} : Works s₀ (setCore s c k) := h.update

protected theorem mapCores (h : Works s₀ s) {f : Nat → Core → Core} : Works s₀ (mapCores s f) := .foldl h fun _ _ h => h.setCore

protected theorem emit (h : Works s₀ s) {o : Output} : Works s₀ (emit s o) := h.update

protected theorem doorbell (h : Works s₀ s) {b : Nat} : Works s₀ (doorbell s b) := h.emit

protected theorem raiseIrq (h : Works s₀ s) {b : Nat} : Works s₀ (raiseIrq s b) := .ite h (.ite h.regSetBits h.regSetBits.doorbell)

protected theorem logFault (h : Works s₀ s) {die code cls detail n : Nat} : Works s₀ (logFault s die code cls detail n) :=
  h.trans (of_records (logFault_records ..))

protected theorem runEnd (h : Works s₀ s) {result fcode : Nat} : Works s₀ (runEnd s result fcode) := h.regPutNat.raiseIrq

protected theorem collectTile (h : Works s₀ s) {t : Nat} : Works s₀ (collectTile s t) := by
  unfold collectTile
  dsimp only
  split
  · exact h
  · split
    · exact .ite h.regPutNat h
    · exact h
    · exact h.logFault.update

protected theorem collectCoreFaults (h : Works s₀ s) : Works s₀ (collectCoreFaults s) := .foldl h fun _ _ h => h.collectTile

protected theorem setBridge (h : Works s₀ s) {d : Nat} {b : Bridge} : Works s₀ (setBridge s d b) := h.update

protected theorem modBridge (h : Works s₀ s) {d : Nat} {f : Bridge → Bridge} : Works s₀ (modBridge s d f) := h.setBridge

protected theorem modLink (h : Works s₀ s) {d : Nat} {f : Link → Link} : Works s₀ (modLink s d f) := h.modBridge

protected theorem modEng (h : Works s₀ s) {d : Nat} {f : Engine → Engine} : Works s₀ (modEng s d f) := h.modBridge

protected theorem setTile (h : Works s₀ s) {t : Nat} {x : Tile} : Works s₀ (setTile s t x) := h.update

protected theorem brgCount (h : Works s₀ s) {d n k : Nat} : Works s₀ (brgCount s d n k) := h.regCount

protected theorem poolAdd (h : Works s₀ s) {d p : Nat} {k : ℤ} : Works s₀ (poolAdd s d p k) := .ite h h.regSetBits

protected theorem setVoq (h : Works s₀ s) {d q : Nat} {v : Voq} : Works s₀ (setVoq s d q v) := h.modBridge

protected theorem setLines (h : Works s₀ s) {d : Nat} {ls : List Nat} : Works s₀ (setLines s d ls) := h.modBridge.regSetBits

protected theorem returnCredits (h : Works s₀ s) {d : Nat} {e : RxEntry} : Works s₀ (returnCredits s d e) := by
  unfold returnCredits
  split
  · exact h.modLink
  · exact h

protected theorem dropRx (h : Works s₀ s) {d : Nat} {e : RxEntry} : Works s₀ (dropRx s d e) := by
  unfold dropRx
  dsimp only
  split
  · exact h.modBridge.returnCredits.poolAdd
  · exact h.modBridge.returnCredits

protected theorem freeTail (h : Works s₀ s) {d : Nat} {x : Spilled} : Works s₀ (freeTail s d x) := .ite h h.setLines

protected theorem spillInForce (h : Works s₀ s) {d : Nat} : Works s₀ (spillInForce s d) := h.modBridge

protected theorem clearTokens (h : Works s₀ s) : Works s₀ (clearTokens s) := h.regPutNat

protected theorem setSched (h : Works s₀ s) {d o : Nat} {x : Sched} : Works s₀ (setSched s d o x) := h.modBridge

protected theorem restVoqs (h : Works s₀ s) {d : Nat} : Works s₀ (restVoqs s d) := .foldl h fun _ _ h => .ite h.setVoq h

protected theorem restSched (h : Works s₀ s) {d o : Nat} : Works s₀ (restSched s d o) := .ite h (.ite h.setSched.regPutNat h.setSched)

protected theorem dropFlight (h : Works s₀ s) {d o : Nat} {gone : InFlight → Bool} : Works s₀ (dropFlight s d o gone) := by
  unfold dropFlight
  dsimp only
  refine .foldl h.setSched fun _ _ h => ?_
  split
  · exact .poolAdd (.ite h.modLink h)
  · exact .ite h.modLink h

protected theorem dropFlights (h : Works s₀ s) {gone : InFlight → Bool} : Works s₀ (dropFlights s gone) :=
  .foldl h fun _ _ h => .foldl h fun _ _ h => h.dropFlight

protected theorem restQueues (h : Works s₀ s) : Works s₀ (restQueues s) :=
  .foldl (.foldl h fun _ _ h => h.restVoqs) fun _ _ h => .foldl h fun _ _ h => h.restSched

protected theorem restage (h : Works s₀ s) {d : Nat} {slot : Frame → Option Nat} : Works s₀ (restage s d slot) := h.trans (of_stages (restage_stages ..))

protected theorem discardVoq (h : Works s₀ s) {d q : Nat} : Works s₀ (discardVoq s d q) := by
  unfold discardVoq
  refine .ite h (.brgCount (.foldl (.foldl ?_ fun _ _ h => h.poolAdd) fun _ _ h => .freeTail ?_))
  · split
    · exact h.setVoq.poolAdd
    · exact h.setVoq
  · split
    · exact h.poolAdd
    · exact h

protected theorem discardFrames (h : Works s₀ s) {d : Nat} : Works s₀ (discardFrames s d) := by
  unfold discardFrames
  extract_lets s₁ b gone s₂ s₃ s₄ sp s₅
  have h₂ : Works s₀ s₂ := .foldl h.dropFlights fun _ _ h => h.dropRx
  have h₄ : Works s₀ s₄ := .foldl h₂.brgCount fun _ _ h => h.discardVoq
  have h₅ : Works s₀ s₅ := .ite h₄ h₄.setLines
  exact h₅.modBridge

protected theorem discardRetry (h : Works s₀ s) {d : Nat} : Works s₀ (discardRetry s d) := h.modLink.brgCount

protected theorem epochBridge (h : Works s₀ s) {d v : Nat} : Works s₀ (epochBridge s d v) := h.regSetBits.discardFrames.discardRetry

protected theorem freeAnswers (h : Works s₀ s) : Works s₀ (freeAnswers s) := .foldl h fun _ _ h => h.poolAdd

protected theorem abortStep (h : Works s₀ s) {epoch : Nat → Nat} : Works s₀ (abortStep s epoch) := by
  unfold abortStep
  extract_lets s₁ s₂ s₃ s₄ s₅ s₆ s₇ s₈ s₉
  have h₂ : Works s₀ s₂ := .restQueues (.foldl h.collectCoreFaults fun _ _ h => h.epochBridge.restage)
  have h₃ : Works s₀ s₃ := .foldl h₂ fun _ _ h => h.regSetBits
  have h₆ : Works s₀ s₆ := .foldl h₃.mapCores.freeAnswers fun _ _ h => h.setTile
  have h₈ : Works s₀ s₈ := .foldl h₆.clearRegs fun _ _ h => h.spillInForce
  exact h₈.clearTokens.regSetBits.update

protected theorem endRun (h : Works s₀ s) : Works s₀ (endRun s) := .ite h h.update.runEnd

protected theorem stepAbort (h : Works s₀ s) {epoch : Nat → Nat} : Works s₀ (stepAbort s epoch) := h.abortStep.endRun

protected theorem disarm (h : Works s₀ s) : Works s₀ (disarm s) := .ite h.regSetBits.regSetBits h

protected theorem planeReset (h : Works s₀ s) : Works s₀ (planeReset s) := by
  unfold planeReset
  extract_lets s₁ s₂ s₃
  have h₃ : Works s₀ s₃ := h.disarm.stepAbort.clearRegs
  clear_value s₃
  exact h₃.update

end Works

end Sys2Proof.Machine
end

section
/-! SUPPORT. What the work of a Device reset leaves: it loads registers, units and microcode and nothing else (15 R403; 16 R425). -/
namespace Sys2Proof.Machine
open Sys2Proof.Safety Sys2Proof.Claims

-- Images -------------------------------------------------------------------------------------------------------------

theorem regPut_records (s : State) (a : Nat) (v : Word) : RecordsOnly s (regPut s a v) := rfl

theorem regWrite_records (s : State) (a : Nat) (v : Word) : RecordsOnly s (regWrite s a v) := by
  unfold regWrite
  split
  · rfl
  · rfl

theorem writeWords_records (s : State) (a : Nat) (bs : List Byte) : RecordsOnly s (writeWords s a bs) :=
  .foldl (fun s _ => regWrite_records s _ _) _ s

theorem applyRecord_records (s : State) (r : List Byte) : RecordsOnly s (applyRecord s r) := by
  refine .foldl (fun s d => ?_) _ s
  have hput (s : State) (a v m : Nat) : RecordsOnly s (if m = 0 then s else
      regPut s a ((regWord s a &&& ~~~ BitVec.ofNat 32 m) ||| (BitVec.ofNat 32 v &&& BitVec.ofNat 32 m))) := .ite (.refl s) rfl
  exact (hput s _ _ _).trans (hput _ _ _ _)

theorem writeLink_records (s : State) (p : List Byte) (d : Nat) : RecordsOnly s (writeLink s p d).1 :=
  ((regWrite_records ..).trans (writeWords_records ..)).trans (writeWords_records ..)

theorem writeTopology_records (s : State) (p : List Byte) : RecordsOnly s (writeTopology s p) := by
  refine .trans (.regSetBits (.regSetBits (.trans (.foldl (fun s t => ?_) _ s) (.foldl (fun s d => ?_) _ _)) ..) ..) (regPut_records ..)
  · exact (regWrite_records ..).trans ((writeWords_records ..).trans (regWrite_records ..))
  · exact (writeWords_records ..).trans (regWrite_records ..)

theorem writeCourses_records (s : State) (i : Nat) (es : List (List Byte)) : RecordsOnly s (writeCourses s i es) :=
  .foldl (fun _ _ => .trans (.foldl (fun _ _ => writeWords_records ..) _ _) (.foldl (fun _ _ => writeWords_records ..) _ _)) _ s

theorem writeRegions_records (s : State) (i : Nat) (es : List (List Byte)) : RecordsOnly s (writeRegions s i es) :=
  .foldl (fun _ _ => .foldl (fun _ _ => writeWords_records ..) _ _) _ s

theorem applyBlock_records (s : State) (b : Nat × List Byte) : RecordsOnly s (applyBlock s b) := by
  unfold applyBlock
  split
  · exact (writeTopology_records ..).trans (.foldl (fun _ _ => writeLink_records ..) _ _)
  · exact writeCourses_records ..
  · exact writeRegions_records ..

theorem applyContainer_records (s : State) (bs : List Byte) : RecordsOnly s (applyContainer s bs) :=
  .trans (.foldl applyRecord_records _ s) (.foldl applyBlock_records _ _)

theorem applyImages_records (s : State) : RecordsOnly s (applyImages s) := by
  unfold applyImages
  dsimp only
  split
  · exact (applyContainer_records ..).trans (applyContainer_records ..)
  · exact applyContainer_records ..

theorem loadMap_records (s : State) : RecordsOnly s (loadMap s) :=
  .trans (.foldl (fun _ _ => regPut_records ..) _ s) (.foldl (fun s _ => .ite (.refl s) (recordTile_records ..)) _ _)

theorem startLinks_records (s : State) : RecordsOnly s (startLinks s) :=
  .foldl (fun s _ => (RecordsOnly.refl s).regSetBits ..) _ s

theorem resetDone_records (s : State) (code : Nat) : RecordsOnly s (resetDone s code) :=
  .ite ((RecordsOnly.refl s).regSetBits ..) (.refl s)

-- Units --------------------------------------------------------------------------------------------------------------

/-- `t` differs from `s` in registers, Bridges, tiles, policers and microcode alone. -/
def Loads (s t : State) : Prop := t = { s with
  regs := t.regs, stepCodes := t.stepCodes, bridges := t.bridges, tiles := t.tiles, polSp := t.polSp, polApl := t.polApl
  ucode := t.ucode, a2Saved := t.a2Saved }

namespace Loads
variable {s t u : State}

theorem refl (s : State) : Loads s s := rfl
theorem trans (h : Loads s t) (h' : Loads t u) : Loads s u := by
  unfold Loads at h h' ⊢
  rw [h', h]
theorem of_records (h : RecordsOnly s t) : Loads s t := by
  unfold RecordsOnly at h
  unfold Loads
  rw [h]
theorem foldl {α : Type} {f : State → α → State} (h : ∀ a x, Loads a (f a x)) (l : List α) (s : State) : Loads s (l.foldl f s) :=
  foldl_keeps refl (fun _ _ _ => trans) h l s
theorem ite {c : Prop} [Decidable c] (h : Loads s t) (h' : Loads s u) : Loads s (if c then t else u) := by
  split <;> assumption

end Loads

theorem spillInForce_loads (s : State) (d : Nat) : Loads s (spillInForce s d) := rfl

theorem commitShapers_records (s : State) (d base mask : Nat) (full : Bool) (old : List Shaper) :
    RecordsOnly s (commitShapers s d base mask full old).1 := by
  unfold commitShapers
  generalize List.range 4 = l
  suffices h : ∀ a : State × List Shaper, RecordsOnly a.1 (l.foldl (fun (a : State × List Shaper) c =>
      if bitAt mask c then
        let sh := stagedShaper a.1 d base c
        (committedTokens a.1 d base c full sh, a.2.set c sh)
      else a) a).1 from h (s, old)
  induction l with
  | nil => exact fun a => .refl _
  | cons c l ih =>
    intro a
    refine .trans ?_ (ih _)
    dsimp only
    split
    · exact (RecordsOnly.refl _).regPutNat ..
    · exact .refl _

theorem setPolicers_loads (s : State) (d : Nat) (ps : List Shaper) : Loads s (setPolicers s d ps) := by
  unfold setPolicers
  split
  · rfl
  · split
    · rfl
    · rfl

theorem modBridge_loads (s : State) (d : Nat) (f : Bridge → Bridge) : Loads s (modBridge s d f) := rfl

theorem commitUnits_loads (s : State) : Loads s (commitUnits s) := by
  refine .trans (.foldl (fun s d => ?_) _ s) (.foldl (fun s d => ?_) _ _)
  · exact .trans (.of_records (commitShapers_records ..)) (modBridge_loads ..)
  · exact .trans (.of_records (commitShapers_records ..)) (setPolicers_loads ..)

theorem loadUcode_loads (s : State) : Loads s (loadUcode s) := rfl
theorem saveTiles_loads (s : State) : Loads s (saveTiles s) := rfl

-- Device reset -------------------------------------------------------------------------------------------------------

/-- The part of a Device reset that follows the clearing: images, map and microcode are loaded and the links start (15 R403, R404). -/
def reload (s : State) (code : Nat) : State :=
  let s := loadUcode (loadMap (applyImages s))
  let s := commitUnits (bridgeDies.foldl spillInForce s)
  let s := if pwrState s = 2 then saveTiles s else s
  let s := regSetBits s (dcs TUN 0x18) 1 0 (if regBits s (dcs TUN 0x10) 1 1 = 1 then 3 else 0)
  resetDone { startLinks s with due := none, life := .up } code

theorem deviceReset_eq (s : State) (code : Nat) : deviceReset s code = reload (clearDevice (planeReset s)) code := rfl

theorem released_loads {s t : State} (h : Loads s t) :
    Loads { s with due := none, life := .up } { t with due := none, life := .up } := by
  unfold Loads at h ⊢
  rw [h]

theorem reload_loads (s : State) (code : Nat) : Loads { s with due := none, life := .up } (reload s code) := by
  unfold reload
  extract_lets s₂ s₃ s₄ s₅
  have h₂ : Loads s s₂ :=
    ((Loads.of_records (applyImages_records s)).trans (.of_records (loadMap_records _))).trans (loadUcode_loads _)
  have h₃ : Loads s s₃ := h₂.trans (.trans (.foldl spillInForce_loads _ s₂) (commitUnits_loads _))
  have h₄ : Loads s s₄ := h₃.trans (.ite (saveTiles_loads s₃) (.refl s₃))
  have h₅ : Loads s s₅ := h₄.trans (.of_records ((RecordsOnly.refl s₄).regSetBits ..))
  exact (released_loads (h₅.trans (.of_records (startLinks_records s₅)))).trans (.of_records (resetDone_records ..))

/-- Whether `t` is out of reset with nothing of the run left, as a Device reset of `s` leaves it (15 R403; 16 R425). -/
structure Afresh (s t : State) : Prop where
  life : t.life = .up
  due : t.due = none
  image : t.image = none
  cores : t.cores = []
  plane : t.plane = Plane.reset
  dir : t.dir = []
  recalls : t.recalls = []
  copy : t.copy = []
  mute : t.mute = Mute.reset
  queue : t.exec.queue = []
  flash : t.flash = s.flash

theorem reload_afresh {s₀ s : State} (code : Nat) (h : s.flash = s₀.flash) (himage : s.image = none) (hcores : s.cores = [])
    (hplane : s.plane = Plane.reset) : Afresh s₀ (reload (clearDevice s) code) := by
  have hload := reload_loads (clearDevice s) code
  unfold Loads at hload
  rw [hload]
  exact ⟨rfl, rfl, himage, hcores, hplane, rfl, rfl, rfl, rfl, rfl, h⟩

theorem deviceReset_afresh (s : State) (code : Nat) : Afresh s (deviceReset s code) :=
  reload_afresh code (Works.refl s).planeReset.flash rfl rfl rfl

end Sys2Proof.Machine
end

section
/-! SUPPORT. The mailbox controls: what GO and ACK write (14 R377 to R379). -/
namespace Sys2Proof.Machine
open Sys2Proof.Safety Sys2Proof.Claims

-- The word written -----------------------------------------------------------------------------------------------------

/-- The sixteen controls are one register. -/
theorem findIn_mbxCtl : ∀ n < 16, findIn regTable .soundpost (0x800 + 8 * n) = findIn regTable .soundpost 0x800 := by decide +kernel

/-- No field of a mailbox's control is read-write; writing 1 clears OVERRUN alone. -/
theorem mbxCtl_fields : ∃ x, findIn regTable .soundpost 0x800 = some x ∧ maskOf (fun f => f.acc = .rw) x.2 x.1.fields = 0#32 ∧
    maskOf (fun f => f.acc = .w1c) x.2 x.1.fields = 16#32 :=
  ⟨_, rfl, by decide +kernel, by decide +kernel⟩

/-- The write of GO or ACK leaves every register. -/
theorem regWord_regWrite_mbxCtl (s : State) {n : Nat} (hn : n < 16) {v : Word} (hv : v ∈ [1#32, 2#32]) (a : Nat) :
    regWord (regWrite s (mbxCtl n) v) a = regWord s a := by
  obtain ⟨⟨r, w⟩, hx, hrw, hw1⟩ := mbxCtl_fields
  have hf : findReg (mbxCtl n) = some (r, w) :=
    by rw [mbxCtl, findReg_dcs (k := .soundpost) rfl (by omega), findIn_mbxCtl n hn, hx]
  have hgo : ∀ v ∈ [1#32, 2#32], v &&& 16#32 = 0#32 := by simp
  have hw : regWrite s (mbxCtl n) v = regPut s (mbxCtl n) (regWord s (mbxCtl n)) := by
    simp only [regWrite, hf, writtenWord, hrw, hw1, hgo v hv, BitVec.and_zero, BitVec.not_zero, BitVec.and_allOnes, BitVec.or_zero]
  rw [hw]
  by_cases h : a = mbxCtl n
  · rw [h, regWord_regPut_same]
  · exact regWord_regPut_ne _ _ h

theorem mbxState_regWrite (s : State) {n : Nat} (hn : n < 16) {v : Word} (hv : v ∈ [1#32, 2#32]) :
    mbxState (regWrite s (mbxCtl n) v) n = mbxState s n := regBits_of_word (regWord_regWrite_mbxCtl s hn hv _) _ (by decide)

-- Rows -----------------------------------------------------------------------------------------------------------------

theorem reqPay_congr {s t : State} {n : Nat} (h : (mbx t n).mem = (mbx s n).mem) (o k : Nat) : reqPay t n o k = reqPay s n o k := by
  rw [reqPay, reqPay, h]

theorem reqCode_congr {s t : State} {n : Nat} (h : (mbx t n).mem = (mbx s n).mem) : reqCode t n = reqCode s n := by
  rw [reqCode, reqCode, h]

theorem reqRow_congr {s t : State} {n : Nat} (h : (mbx t n).mem = (mbx s n).mem) : reqRow t n = reqRow s n := by
  simp only [reqRow, reqCode_congr h, reqPay_congr h]

theorem urgent_congr {s t : State} {n : Nat} (h : (mbx t n).mem = (mbx s n).mem) : urgent t n = urgent s n := by
  simp only [urgent, reqCode_congr h]

/-- A queue whose first command has a row stays. -/
theorem settleQueue_row {s : State} {m : Nat} {q : List Nat} (f : Nat) (hq : s.exec.queue = m :: q) (hr : (reqRow s m).isSome = true) :
    settleQueue f s = s := by
  cases f with
  | zero => rfl
  | succ f => simp [settleQueue, hq, hr]

-- GO -------------------------------------------------------------------------------------------------------------------

/-- An idle mailbox becomes its writer's, BUSY. -/
def taken (s : State) (n : Nat) (side : Side) : State := setMbxState (setMbx s n { mbx s n with owner := side }) n 1

theorem taken_frame (s : State) (n : Nat) (side : Side) :
    taken s n side = { s with mbx := (taken s n side).mbx, regs := (taken s n side).regs } := by
  rw [taken, setMbxState, regSetBits_frame]
  rfl

theorem mbx_taken (s : State) (n : Nat) (side : Side) : mbx (taken s n side) n = { mbx s n with owner := side } := by
  rw [taken, setMbxState, regSetBits_frame]
  exact mbx_setMbx_same ..

theorem mem_taken (s : State) (n m : Nat) (side : Side) : (mbx (taken s n side) m).mem = (mbx s m).mem := by
  by_cases h : m = n
  · rw [h, mbx_taken]
  · rw [taken, setMbxState, regSetBits_frame]
    exact congrArg Mailbox.mem (mbx_setMbx_ne _ _ h)

/-- The queue once an urgent command has gone ahead of it, or another behind it (14 R378). -/
def enqueued (s : State) (n : Nat) : List Nat := if urgent s n then n :: s.exec.queue else s.exec.queue ++ [n]

theorem goWrite_idle {s : State} {n : Nat} {side : Side} (hi : mbxState s n = 0) (hd : s.exec.draining = none)
    (hr : ∀ m ∈ n :: s.exec.queue, (reqRow s m).isSome = true) :
    goWrite s n side = { taken s n side with exec := { s.exec with queue := enqueued s n } } := by
  have hexec : (taken s n side).exec = s.exec := by rw [taken_frame]
  have hgo : goWrite s n side = settleQueue 16 { taken s n side with exec := { s.exec with queue := enqueued s n } } := by
    unfold goWrite
    extract_lets st m t q q' e
    have ht : t.exec = s.exec := hexec
    have hu : urgent t n = urgent s n := urgent_congr (mem_taken s n n side)
    have hq' : q' = enqueued s n := by simp [q', q, hu, ht, hd, enqueued]
    have he : e = s.exec := hexec
    rw [if_neg (by simp [st, hi]), if_neg (by simp [st, hi]), hq', he]
    rfl
  obtain ⟨m, q, hmq, hm⟩ : ∃ m q, enqueued s n = m :: q ∧ m ∈ n :: s.exec.queue := by
    unfold enqueued
    cases hq : s.exec.queue with
    | nil => exact ⟨n, [], by simp, by simp⟩
    | cons k q => by_cases hu : urgent s n = true
                  · exact ⟨n, k :: q, by simp [hu], by simp⟩
                  · exact ⟨k, q ++ [n], by simp [hu], by simp⟩
  rw [hgo, settleQueue_row 16 hmq]
  rw [← hr m hm]
  exact congrArg Option.isSome (reqRow_congr (mem_taken s n m side))

theorem goWrite_busy {s : State} {n : Nat} {side : Side} (hb : mbxState s n = 1) (ho : (mbx s n).owner = side) :
    goWrite s n side = regSetBits s (mbxCtl n) 4 4 1 := by
  unfold goWrite
  rw [if_neg (by tauto), if_pos hb]

-- Writes of the control ------------------------------------------------------------------------------------------------

section
variable {s : State} {n : Nat} {side : Side} (hn : n < 16)

theorem mbxCtlWrite_go (h : mbxState s n = 0 ∨ (mbx s n).owner = side) :
    mbxCtlWrite s n side 1 = goWrite (regWrite s (mbxCtl n) 1) n side := by
  unfold mbxCtlWrite
  rw [if_neg (by tauto)]
  rfl

theorem mbxCtlWrite_ack (ho : (mbx s n).owner = side) : mbxCtlWrite s n side 2 =
    if ackStarts (regWrite s (mbxCtl n) 2) n && mbxState (regWrite s (mbxCtl n) 2) n = 2 &&
        decide ((mbx (regWrite s (mbxCtl n) 2) n).owner = side)
      then dueReset (ackWrite (regWrite s (mbxCtl n) 2) n side) else ackWrite (regWrite s (mbxCtl n) 2) n side := by
  unfold mbxCtlWrite
  rw [if_neg (by tauto)]
  rfl

include hn

theorem go_idle (hi : mbxState s n = 0) (hd : s.exec.draining = none) (hr : ∀ m ∈ n :: s.exec.queue, (reqRow s m).isSome = true) :
    let t := mbxCtlWrite s n side 1
    mbxState t n = 1 ∧ (mbx t n).owner = side ∧ (mbx t n).mem = (mbx s n).mem ∧ t.exec.queue = enqueued s n ∧ t.cores = s.cores ∧
      t.plane = s.plane := by
  have hw : mbxState (regWrite s (mbxCtl n) 1) n = 0 := (mbxState_regWrite s hn (by simp)).trans hi
  have hrec := regWrite_records s (mbxCtl n) 1
  intro t
  have ht : t = goWrite (regWrite s (mbxCtl n) 1) n side := mbxCtlWrite_go (.inl hi)
  clear_value t
  generalize regWrite s (mbxCtl n) 1 = u at *
  have hexec : u.exec = s.exec := by rw [hrec]
  have hmbx (m : Nat) : mbx u m = mbx s m := by rw [mbx, mbx, show u.mbx = s.mbx by rw [hrec]]
  have hq : enqueued u n = enqueued s n := by rw [enqueued, enqueued, hexec, urgent_congr (congrArg Mailbox.mem (hmbx n))]
  have hrows : ∀ m ∈ n :: u.exec.queue, (reqRow u m).isSome = true := by
    intro m hm
    rw [reqRow_congr (congrArg Mailbox.mem (hmbx m))]
    exact hr m (hexec ▸ hm)
  rw [goWrite_idle hw (by rw [hexec, hd]) hrows] at ht
  have hcore : (taken u n side).cores = s.cores ∧ (taken u n side).plane = s.plane := by
    rw [taken_frame, hrec]
    exact ⟨rfl, rfl⟩
  have hbox : mbx (taken u n side) n = { mbx s n with owner := side } := by rw [mbx_taken, hmbx]
  have hmem : (mbx (taken u n side) n).mem = (mbx s n).mem := by rw [mbx_taken, hmbx]
  have hstate : mbxState (taken u n side) n = 1 := regBits_regSetBits_same ..
  rw [ht]
  exact ⟨(regBits_congr (s := taken u n side) rfl ..).trans hstate, congrArg Mailbox.owner hbox, hmem, hq, hcore⟩

theorem go_busy (hb : mbxState s n = 1) (ho : (mbx s n).owner = side) :
    let t := mbxCtlWrite s n side 1
    mbxState t n = 1 ∧ regBits t (mbxCtl n) 4 4 = 1 ∧ t.exec = s.exec ∧ t.mbx = s.mbx := by
  have hw : mbxState (regWrite s (mbxCtl n) 1) n = 1 := (mbxState_regWrite s hn (by simp)).trans hb
  have hrec := regWrite_records s (mbxCtl n) 1
  have hbox : mbx (regWrite s (mbxCtl n) 1) n = mbx s n := by rw [hrec]; rfl
  have ht : mbxCtlWrite s n side 1 = regSetBits (regWrite s (mbxCtl n) 1) (mbxCtl n) 4 4 1 := by
    rw [mbxCtlWrite_go (.inr ho), goWrite_busy hw (by rw [hbox, ho])]
  rw [ht]
  refine ⟨(regBits_regSetBits_field _ _ _ (.inl (by decide))).trans hw, regBits_regSetBits_same .., ?_, ?_⟩
  · rw [regSetBits_frame, hrec]
  · rw [regSetBits_frame, hrec]

omit hn in
/-- A mailbox that its owner acknowledges while it is DONE is idle. -/
theorem ackWrite_done (hd : mbxState s n = 2) (ho : (mbx s n).owner = side) :
    let t := ackWrite s n side
    mbxState t n = 0 ∧ (side = .smbus → t.pins.smbAlertN = true) ∧ t = { s with regs := t.regs, pins := t.pins } := by
  have ht : ackWrite s n side = setMbxState (if side = .smbus then { s with pins := { s.pins with smbAlertN := true } } else s) n 0 := by
    unfold ackWrite
    rw [if_neg (by simp [hd, ho])]
  rw [ht]
  refine ⟨regBits_regSetBits_same .., fun h => ?_, ?_⟩
  · rw [setMbxState, regSetBits_frame, if_pos h]
  · rw [setMbxState, regSetBits_frame]
    split
    · rfl
    · rfl

end

/-- A write over a mailbox's side acts, and an APENO write is answered. -/
theorem mbxCtlCmd_writes {s : State} {n : Nat} (hn : n < 16) (hl : s.life = .up) (hm : s.muted = false) {x : Side × Nat}
    (hx : x ∈ [(Side.apeno, n), (Side.smbus, 15)]) (hx2 : x.2 = n) (i : Instr) (v : Word) :
    ∃ o, mbxCtlCmd i n x.1 v s = .next { mbxCtlWrite s n x.1 v with out := o } := by
  rcases List.mem_cons.mp hx with rfl | hx
  · refine ⟨_, (if_neg (by omega)).trans (mmioWrite_served hl hm ?_)⟩
    rfl
  · obtain rfl := List.mem_singleton.mp hx
    subst hx2
    refine ⟨(mbxCtlWrite s 15 .smbus v).out, (if_neg (c := 16 ≤ 15) (by decide)).trans ?_⟩
    simp only [soundpostRuns, hl, hm, ne_eq, not_true_eq_false, if_false]
    rfl

section
variable {s : State} {n : Nat} {side : Side} (hn : n < 16) (hd : mbxState s n = 2) (ho : (mbx s n).owner = side)
include hn hd ho

/-- ACK of a DONE mailbox makes it idle before any reset that waits for it. -/
theorem ack_done : let t := ackWrite (regWrite s (mbxCtl n) 2) n side
    mbxState t n = 0 ∧ (side = .smbus → t.pins.smbAlertN = true) ∧
      t = { s with regs := t.regs, pins := t.pins, stepCodes := t.stepCodes } := by
  have hw : mbxState (regWrite s (mbxCtl n) 2) n = 2 := (mbxState_regWrite s hn (by simp)).trans hd
  have hrec := regWrite_records s (mbxCtl n) 2
  have hbox : mbx (regWrite s (mbxCtl n) 2) n = mbx s n := by rw [hrec]; rfl
  obtain ⟨hstate, halert, hframe⟩ := ackWrite_done (side := side) hw (by rw [hbox, ho])
  refine ⟨hstate, halert, ?_⟩
  rw [hframe, hrec]

omit hn hd in
/-- No reset waits: the mailbox is idle and nothing else follows. -/
theorem ack_plain (hdue : s.due = none) :
    mbxCtlWrite s n side 2 = ackWrite (regWrite s (mbxCtl n) 2) n side := by
  have hwait : ackStarts (regWrite s (mbxCtl n) 2) n = false := by
    rw [regWrite_records s (mbxCtl n) 2]
    simp [ackStarts, hdue]
  rw [mbxCtlWrite_ack ho, hwait]
  rfl

/-- The reset that waits for this mailbox follows its ACK (14 R379). -/
theorem ack_resets (hdue : s.due = some (.command n)) :
    mbxCtlWrite s n side 2 = deviceReset (ackWrite (regWrite s (mbxCtl n) 2) n side) (causeCode (.command n)) := by
  have hw : mbxState (regWrite s (mbxCtl n) 2) n = 2 := (mbxState_regWrite s hn (by simp)).trans hd
  have hrec := regWrite_records s (mbxCtl n) 2
  have hbox : mbx (regWrite s (mbxCtl n) 2) n = mbx s n := by rw [hrec]; rfl
  have hwait : ackStarts (regWrite s (mbxCtl n) 2) n = true := by
    rw [hrec]
    simp [ackStarts, hdue]
  obtain ⟨-, -, hframe⟩ := ack_done hn hd ho
  have hstill : (ackWrite (regWrite s (mbxCtl n) 2) n side).due = some (.command n) := by rw [hframe, ← hdue]
  rw [mbxCtlWrite_ack ho, if_pos (by rw [hwait, hw, hbox, ho]; simp), dueReset, hstill]

theorem ack_afresh (hdue : s.due = some (.command n)) :
    let t := mbxCtlWrite s n side 2
    t.due = none ∧ t.life = .up ∧ t.image = none ∧ t.cores = [] := by
  have h := deviceReset_afresh (ackWrite (regWrite s (mbxCtl n) 2) n side) (causeCode (.command n))
  rw [← ack_resets hn hd ho hdue] at h
  exact ⟨h.due, h.life, h.image, h.cores⟩

end

/-- Settles O39: GO and ACK write a word that keeps its value, then queue the command or free the mailbox. -/
theorem goAndAckMoveTheMailbox : Obligations.GoAndAckMoveTheMailbox := by
  intro s n hn hl hm x hx hx2
  refine ⟨fun hi hd hr => ?idle, fun hb ho => ?busy, fun hd ho hdue => ?done, fun hd ho hdue => ?reset⟩
  case idle =>
    obtain ⟨o, ht⟩ := mbxCtlCmd_writes hn hl hm hx hx2 (.mbxGo n x.1) 1
    obtain ⟨hstate, howner, hmem, hq, hcores, hplane⟩ := go_idle (side := x.1) hn hi hd hr
    exact ⟨_, ht, (regBits_congr (s := mbxCtlWrite s n x.1 1) rfl ..).trans hstate, howner, hmem, hq, hcores, hplane⟩
  case busy =>
    obtain ⟨o, ht⟩ := mbxCtlCmd_writes hn hl hm hx hx2 (.mbxGo n x.1) 1
    obtain ⟨hstate, hover, hexec, hmbx⟩ := go_busy hn hb ho
    exact ⟨_, ht, (regBits_congr (s := mbxCtlWrite s n x.1 1) rfl ..).trans hstate,
      (regBits_congr (s := mbxCtlWrite s n x.1 1) rfl ..).trans hover, hexec, hmbx⟩
  case done =>
    obtain ⟨o, ht⟩ := mbxCtlCmd_writes hn hl hm hx hx2 (.mbxAck n x.1) 2
    obtain ⟨hstate, halert, hframe⟩ := ack_done hn hd ho
    rw [← ack_plain ho hdue] at hstate halert hframe
    exact ⟨_, ht, (regBits_congr (s := mbxCtlWrite s n x.1 2) rfl ..).trans hstate, by rw [hframe], by rw [hframe], halert⟩
  case reset =>
    obtain ⟨o, ht⟩ := mbxCtlCmd_writes hn hl hm hx hx2 (.mbxAck n x.1) 2
    exact ⟨_, ht, ack_afresh hn hd ho hdue⟩

end Sys2Proof.Machine
end

section
/-! SUPPORT. The blocks of bytes that telemetry and attestation answer with (14 R389; 15 R408; 16 R424). -/
namespace Sys2Proof.Machine
open Sys2Proof.Safety Sys2Proof.Claims

-- Fields of bytes in a row ---------------------------------------------------------------------------------------------

theorem fieldLE_skip (as bs : List Byte) {o : Nat} (n : Nat) (h : as.length ≤ o) :
    fieldLE (as ++ bs) o n = fieldLE bs (o - as.length) n := by
  rw [fieldLE, fieldLE, List.drop_append, List.drop_of_length_le h, List.nil_append]

theorem fieldLE_skip_bytesLE (k v : Nat) (bs : List Byte) {o : Nat} (n : Nat) (h : k ≤ o) :
    fieldLE (bytesLE k v ++ bs) o n = fieldLE bs (o - k) n := by
  rw [fieldLE_skip _ _ _ (by rwa [bytesLE_length]), bytesLE_length]

theorem fieldLE_head (n v : Nat) (bs : List Byte) : fieldLE (bytesLE n v ++ bs) 0 n = v % 256 ^ n := by
  rw [fieldLE, List.drop_zero, List.take_left' (bytesLE_length n v), natLE_bytesLE]

theorem natLE_zeros (n : Nat) : natLE (List.replicate n 0) = 0 := by
  induction n with
  | zero => rfl
  | succ n ih => rw [List.replicate_succ, natLE, ih]; rfl

/-- The blocks of a table of equal blocks. -/
theorem drop_take_flatMap {α : Type} {f : α → List Byte} {k : Nat} (hf : ∀ x, (f x).length = k) (l : List α) (bs : List Byte) {i : Nat}
    (h : i < l.length) : (((l.flatMap f) ++ bs).drop (k * i)).take k = f l[i] := by
  induction l generalizing i with
  | nil => exact absurd h (Nat.not_lt_zero i)
  | cons x l ih =>
    cases i with
    | zero => simp [List.take_left' (hf x)]
    | succ i =>
      have hi : k * (i + 1) = (f x).length + k * i := by rw [hf, Nat.mul_succ, Nat.add_comm]
      rw [List.flatMap_cons, List.append_assoc, hi, List.drop_length_add_append, List.getElem_cons_succ]
      exact ih _

theorem length_flatMap_const {α : Type} {f : α → List Byte} {k : Nat} (hf : ∀ x, (f x).length = k) (l : List α) :
    (l.flatMap f).length = k * l.length := by
  induction l with
  | nil => rfl
  | cons x l ih => rw [List.flatMap_cons, List.length_append, hf, ih, List.length_cons]; ring

@[simp] theorem bytesBE_length (n v : Nat) : (bytesBE n v).length = n := by rw [bytesBE, List.length_reverse, bytesLE_length]
@[simp] theorem sigBytes_length (x : Nat × Nat) : (sigBytes x).length = 64 := by simp [sigBytes]
@[simp] theorem sha256_length (m : List Byte) : (sha256 m).length = 32 := by simp [sha256, shaBytes]
@[simp] theorem hashReg_length (s : State) (a : Nat) : (hashReg s a).length = 32 := bytesLE_length ..
@[simp] theorem poweredField_length (s : State) (d p n v : Nat) : (poweredField s d p n v).length = n := bytesLE_length ..
@[simp] theorem reqBytes_length (s : State) (n o k : Nat) : (reqBytes s n o k).length = k := memRead_length ..

theorem poweredField_live {s : State} {d : Nat} (h : dieLive s d = true) (p n v : Nat) : poweredField s d p n v = bytesLE n v := by
  rw [poweredField, if_pos h]

-- The power block ------------------------------------------------------------------------------------------------------

@[simp] theorem powerBlock_length (s : State) : (powerBlock s).length = 64 := by simp [powerBlock, bytesLE_length]

theorem fieldLE_word (s : State) (a : Nat) (bs : List Byte) : fieldLE (bytesLE 4 (regNat s a 1) ++ bs) 0 4 = regNat s a 1 := by
  exact (fieldLE_head ..).trans (Nat.mod_eq_of_lt (regNat_lt s a 1))
theorem fieldLE_pair (s : State) (a : Nat) (bs : List Byte) : fieldLE (bytesLE 8 (regNat s a 2) ++ bs) 0 8 = regNat s a 2 := by
  exact (fieldLE_head ..).trans (Nat.mod_eq_of_lt (regNat_lt s a 2))

theorem powerBlock_fields (s : State) : (∀ x ∈ [(0, 4, 0x200008, 1), (4, 4, 0x200010, 1), (8, 8, 0x200018, 2), (16, 8, 0x200020, 2),
    (24, 8, 0x200030, 2), (32, 8, 0x200028, 2)], fieldLE (powerBlock s) x.1 x.2.1 = regNat s (dcs SP x.2.2.1) x.2.2.2) ∧
    fieldLE (powerBlock s) 40 8 = s.gov.time95 % 2 ^ 64 ∧ fieldLE (powerBlock s) 48 4 = s.gov.trips % 2 ^ 32 ∧
    fieldLE (powerBlock s) 52 12 = 0 := by
  have hz : fieldLE (List.replicate 12 0) 0 12 = 0 := natLE_zeros 12
  simp only [List.forall_mem_cons, List.not_mem_nil, IsEmpty.forall_iff, implies_true, and_true]
  simp (disch := decide) only [powerBlock, List.append_assoc, fieldLE_skip_bytesLE, Nat.reduceMul, Nat.reduceSub, fieldLE_word,
    fieldLE_pair, fieldLE_head _ s.gov.time95, fieldLE_head _ s.gov.trips, hz, Nat.reducePow, and_self]

-- Answers that carry data ----------------------------------------------------------------------------------------------

/-- A command that succeeds answers OK with its data. -/
theorem mbxCmd_data {s t : State} {n row : Nat} {f : State → State × Answer} {data : List Byte} (h : Taken s n row)
    (hf : f s = (t, ⟨stOK, 0, data⟩)) (hm : (mbx t n).mem = (mbx s n).mem) (hq : t.exec.queue = s.exec.queue)
    (hl : data.length < 2 ^ 32) : ∃ u, mbxCmd n row s f = .next u ∧ answers s u n 0 0 data ∧ u.cores = t.cores ∧ u.plane = t.plane := by
  obtain ⟨ht, ha⟩ := mbxCmd_answers h hf hm hq (Nat.two_pow_pos _) (Nat.two_pow_pos _) hl
  exact ⟨_, ht, ha, respond_cores .., respond_plane ..⟩

-- Telemetry ------------------------------------------------------------------------------------------------------------

theorem fieldLE_skip_powered (s : State) (d p k v : Nat) (bs : List Byte) {o : Nat} (n : Nat) (h : k ≤ o) :
    fieldLE (poweredField s d p k v ++ bs) o n = fieldLE bs (o - k) n := fieldLE_skip_bytesLE _ _ _ _ h

@[simp] theorem summary_length (s : State) : (summary s).length = 176 := by simp [summary, bytesLE_length]

theorem runstatWord_lt (s : State) : runstatWord s < 16 := by
  unfold runstatWord
  cases s.plane.run <;> simp only <;> split <;> split <;> decide

theorem summary_fields (s : State) : fieldLE (summary s) 0 4 = regNat s (dcs SP 0x0) 1 ∧ fieldLE (summary s) 4 4 = runstatWord s ∧
    fieldLE (summary s) 16 8 = regNat s (dcs TUN 0xC00) 2 ∧
    (pwrState s ≤ 1 → fieldLE (summary s) 24 4 = (tileReg s 0 0x80C).toNat) ∧ fieldLE (summary s) 28 4 = regNat s (dcs SP 0x440) 1 ∧
    fieldLE (summary s) 72 8 = regNat s (dcs SP 0x200) 2 ∧ (summary s).drop 112 = powerBlock s := by
  have hrun : runstatWord s % 256 ^ 4 = runstatWord s := Nat.mod_eq_of_lt ((runstatWord_lt s).trans (by decide))
  have htile : (tileReg s 0 0x80C).toNat % 256 ^ 4 = (tileReg s 0 0x80C).toNat := Nat.mod_eq_of_lt (tileReg s 0 0x80C).isLt
  refine ⟨?_, ?_, ?_, fun hp => ?_, ?_, ?_, ?_⟩
  case refine_4 =>
    have hlive : dieLive s 0 = true := decide_eq_true hp
    simp (disch := decide) only [summary, List.append_assoc, fieldLE_skip_bytesLE, Nat.reduceMul, Nat.reduceSub,
      poweredField_live hlive]
    exact (fieldLE_head ..).trans htile
  case refine_2 =>
    simp (disch := decide) only [summary, List.append_assoc, fieldLE_skip_bytesLE, Nat.reduceMul, Nat.reduceSub]
    exact (fieldLE_head ..).trans hrun
  case refine_7 =>
    exact List.drop_left' (by simp [bytesLE_length])
  all_goals simp (disch := decide) only [summary, List.append_assoc, fieldLE_skip_bytesLE, fieldLE_skip_powered, Nat.reduceMul,
    Nat.reduceSub, fieldLE_word, fieldLE_pair]

theorem bridgeCounters_length (s : State) (d : Nat) : (bridgeCounters s d).length = 400 := by
  rw [bridgeCounters, List.length_append, length_flatMap_const (fun _ => poweredField_length ..),
    length_flatMap_const (fun _ => poweredField_length ..)]
  rfl

theorem bridgeCounters_fields {s : State} {d : Nat} (h : dieLive s d = true) :
    (∀ i < 38, fieldLE (bridgeCounters s d) (8 * i) 8 = regNat s (dcs d (0x4000 + 8 * i)) 2) ∧
      ∀ i < 12, fieldLE (bridgeCounters s d) (304 + 8 * i) 8 = regNat s (dcs d (0x4200 + 8 * i)) 2 := by
  have hvalue (p a : Nat) : natLE (poweredField s d p 8 (regNat s a 2)) = regNat s a 2 := by
    rw [poweredField_live h, natLE_bytesLE]
    exact Nat.mod_eq_of_lt (regNat_lt s a 2)
  constructor
  · intro i hi
    rw [fieldLE, bridgeCounters, drop_take_flatMap (fun _ => poweredField_length ..) _ _ (by simpa using hi), List.getElem_range, hvalue]
  · intro i hi
    rw [bridgeCounters, fieldLE_skip, length_flatMap_const (fun _ => poweredField_length ..), List.length_range,
      Nat.add_sub_cancel_left, fieldLE, ← List.append_nil (List.flatMap _ _),
      drop_take_flatMap (fun _ => poweredField_length ..) _ _ (by simpa using hi), List.getElem_range, hvalue]
    rw [length_flatMap_const (fun _ => poweredField_length ..), List.length_range]
    omega

/-- What a quote signs: nonce, digest of the log, fingerprints and serial (15 R408). -/
def quoted (s : State) (nonce : List Byte) : List Byte :=
  nonce ++ sha256 s.booted.log ++ bytesLE 32 (regNat s (dcs SP 0x400) 8) ++ bytesLE 32 (regNat s (dcs SP 0x420) 8) ++
    bytesLE 8 (regNat s (dcs SP 0x8) 2)

/-- The signature of a quote. -/
def quoteSig (s : State) (nonce : List Byte) : List Byte :=
  sigBytes (ecdsaSign s.booted.aliasKey (sha256 (ascii "MQAT" ++ quoted s nonce)) (Config.signatureSecret s.free) (2 ^ 32))

theorem quote_eq (s : State) (nonce : List Byte) :
    quote s nonce = ({ s with free := s.free + 1 }, quoted s nonce ++ quoteSig s nonce) := by
  unfold quote quoted quoteSig
  rfl

theorem attestQuote_answers {s : State} {n : Nat} (h : Taken s n 0x500) : ∃ t, exec (.attestQuote n) s = .next t ∧
    answers s t n 0 0 (quoted s (reqBytes s n 0 32) ++ quoteSig s (reqBytes s n 0 32)) ∧ t.cores = s.cores := by
  have hl : (quoted s (reqBytes s n 0 32) ++ quoteSig s (reqBytes s n 0 32)).length < 2 ^ 32 := by
    simp [quoted, quoteSig, bytesLE_length]
  obtain ⟨t, ht, ha, hcores, -⟩ := mbxCmd_data (t := { s with free := s.free + 1 })
    (f := fun s => let r := quote s (reqBytes s n 0 32); (r.1, ⟨stOK, 0, r.2⟩)) h (by rw [quote_eq]) rfl rfl hl
  exact ⟨t, ht, ha, hcores⟩

theorem attestObject_answers {s : State} {n row : Nat} (h : Taken s n row) (obj : List Byte) :
    ∃ t, mbxCmd n row s (fun s => attestObject s n obj) = .next t ∧ t.cores = s.cores ∧
      (reqPay s n 36 4 < obj.length → answers s t n 0 0 (bytesLE 4 obj.length ++ (obj.drop (reqPay s n 36 4)).take 2012)) ∧
      (obj.length ≤ reqPay s n 36 4 → answers s t n 0x58 0 []) := by
  by_cases ho : obj.length ≤ reqPay s n 36 4
  · obtain ⟨ht, ha⟩ := mbxCmd_answers (f := fun s => attestObject s n obj) (a := .st 0x58) h (if_pos ho) rfl rfl
    exact ⟨_, ht, by simp, fun hlt => absurd ho (by omega), fun _ => ha⟩
  · have hl : (bytesLE 4 obj.length ++ (obj.drop (reqPay s n 36 4)).take 2012).length < 2 ^ 32 := by
      simp only [List.length_append, bytesLE_length, List.length_take]
      omega
    obtain ⟨t, ht, ha, hcores, -⟩ := mbxCmd_data (f := fun s => attestObject s n obj) h (if_neg ho) rfl rfl hl
    exact ⟨t, ht, hcores, fun _ => ha, fun hle => absurd hle ho⟩

/-- Settles O45: each answer is the block its command reports. -/
theorem telemetryAndAttestationAnswer : Obligations.TelemetryAndAttestationAnswer := by
  refine ⟨fun s => ⟨powerBlock_length s, powerBlock_fields s⟩, fun s n h => ?power, fun s n h => ?summary,
    fun s n h => ⟨fun hd hlive => ?bridge, fun hd => ?none⟩, fun s n h => ?quote, fun s n => ?objects⟩
  case power =>
    obtain ⟨t, ht, ha, -⟩ := mbxCmd_data (f := fun s => (s, ⟨stOK, 0, powerBlock s⟩)) h rfl rfl rfl (by simp)
    exact ⟨t, ht, ha⟩
  case summary =>
    obtain ⟨t, ht, ha, hcores, hplane⟩ := mbxCmd_data (t := { s with free := s.free + 1 })
      (f := fun s => ({ s with free := s.free + 1 }, ⟨stOK, 0, summary s⟩)) h rfl rfl rfl (by simp)
    obtain ⟨hver, hrun, htok, htile, hvoid, hend, hpower⟩ := summary_fields s
    exact ⟨t, _, ht, ha, summary_length s, hver, hrun, htok, htile, hvoid, hend, hpower, hcores, hplane⟩
  case bridge =>
    obtain ⟨t, ht, ha, -⟩ := mbxCmd_data (t := { s with free := s.free + 1 }) (f := fun s => let d := reqPay s n 1 1
      if isBridge d then ({ s with free := s.free + 1 }, ⟨stOK, 0, bridgeCounters s d⟩) else (s, .st stBAD_LEN))
      h (if_pos hd) rfl rfl (by rw [bridgeCounters_length]; decide)
    exact ⟨t, _, ht, ha, bridgeCounters_length .., bridgeCounters_fields hlive⟩
  case none =>
    exact ⟨_, mbxCmd_answers (f := fun s => let d := reqPay s n 1 1
      if isBridge d then ({ s with free := s.free + 1 }, ⟨stOK, 0, bridgeCounters s d⟩) else (s, .st stBAD_LEN)) (a := .st stBAD_LEN)
      h (if_neg (by simp [hd])) rfl rfl⟩
  case quote =>
    obtain ⟨t, ht, ha, hcores⟩ := attestQuote_answers h
    exact ⟨t, ht, sigBytes_length _, ha, hcores⟩
  case objects => exact ⟨fun h => attestObject_answers h _, fun h => attestObject_answers h _, fun h => attestObject_answers h _⟩

end Sys2Proof.Machine
end

section
/-! SUPPORT. Cold and Warm resets, and what boot leaves (15 R403, R411; 16 R425, R428, R433, R434). -/
namespace Sys2Proof.Machine
open Sys2Proof.Safety Sys2Proof.Claims

-- Resets ---------------------------------------------------------------------------------------------------------------

theorem regBits_flag (s : State) (a b : Nat) (c : Bool) :
    regBits (regSetBits s a b b (if c then 1 else 0)) a b b = if c then 1 else 0 := by
  refine (regBits_regSetBits_same ..).trans ?_
  rw [Nat.add_sub_cancel_left]
  cases c
  · rfl
  · rfl

/-- Whether `t` is `s` held in reset with all that is volatile gone (16 R425, R434). -/
structure HeldFrom (s t : State) : Prop where
  life : t.life = .inReset
  cores : t.cores = []
  dram : t.dram = []
  bridges : t.bridges = []
  tiles : t.tiles = []
  image : t.image = none
  plane : t.plane = Plane.reset
  count : t.count = 0
  muted : t.muted = false
  booted : t.booted = Booted.none
  exec : t.exec = Exec.reset
  alarm : t.pins.alarmN = true
  out : t.out = s.out
  flash : t.flash = s.flash
  time95 : t.gov.time95 = s.gov.time95
  trips : t.gov.trips = s.gov.trips
  tripped : regBits t (dcs SP 0x20) 3 3 = if tripSeen s then 1 else 0

theorem warmState_held (s : State) : HeldFrom s (warmState s) := by
  unfold warmState
  extract_lets tripped s₁ s₂
  have hout : s₂.out = s.out := rfl
  have hflash : s₂.flash = s.flash := rfl
  have hgov : s₂.gov.time95 = s.gov.time95 ∧ s₂.gov.trips = s.gov.trips := ⟨rfl, rfl⟩
  have hunits : s₂.bridges = [] ∧ s₂.tiles = [] := ⟨rfl, rfl⟩
  clear_value s₂
  obtain ⟨hbridges, htiles⟩ := hunits
  obtain ⟨htime, htrips⟩ := hgov
  refine ⟨?_, ?_, ?_, ?_, ?_, ?_, ?_, ?_, ?_, ?_, ?_, ?_, ?_, ?_, ?_, ?_, ?tripped⟩
  case tripped => exact regBits_flag ..
  all_goals rw [regSetBits_frame]
  case refine_4 => exact hbridges
  case refine_5 => exact htiles
  case refine_13 => exact hout
  case refine_14 => exact hflash
  case refine_15 => exact htime
  case refine_16 => exact htrips

theorem coldState_held (s : State) : HeldFrom s (coldState s) := by
  obtain ⟨_, _, _, _, _, _, _, _, _, _, _, _, _, _, _, _, _⟩ := warmState_held s
  unfold coldState
  extract_lets tripped s₁
  refine ⟨?_, ?_, ?_, ?_, ?_, ?_, ?_, ?_, ?_, ?_, ?_, ?_, ?_, ?_, ?_, ?_, ?tripped⟩
  case tripped => exact regBits_flag ..
  all_goals
    rw [regSetBits_frame]
    assumption

theorem coldState_due (s : State) : (coldState s).due = some .cold := by rw [coldState, regSetBits_frame]

/-- A write of an image that is cut off can touch the region it was writing, and nothing else (15 R409). -/
theorem stopWrite_frame (s : State) : stopWrite s = { s with flash := (stopWrite s).flash, free := (stopWrite s).free } ∧
    (stopWrite s).flash.rpa = s.flash.rpa ∧ (s.exec.queue = [] → stopWrite s = s) := by
  unfold stopWrite
  split
  · next n q hq =>
    dsimp only
    refine ⟨?_, ?_, fun h => absurd (hq.symm.trans h) (by simp)⟩
    · split
      · rfl
      · rfl
    · split
      · dsimp only
        split
        · exact eraseRegion_rpa ..
        · rfl
      · rfl
  · exact ⟨rfl, rfl, fun _ => rfl⟩

theorem tripSeen_of_powered {s : State} (h : s.life ≠ .off) :
    tripSeen s = true ↔ pwrState s = 4 ∨ (s.life ≠ .up ∧ regBits s (dcs SP 0x20) 3 3 = 1) := by simp [tripSeen, h]

/-- What a reset of a powered module leaves, by the module as it stood before the image write was cut off. -/
theorem HeldFrom.ends {s u t : State} {c : DeviceCause} (h : HeldFrom u t) (hu : u = s ∨ u = stopWrite s) (hl : s.life ≠ .off)
    (hd : t.due = some c) : t.life = .inReset ∧ t.due = some c ∧ t.cores = [] ∧ t.dram = [] ∧ t.bridges = [] ∧
        t.tiles = [] ∧ t.image = none ∧ t.plane = Plane.reset ∧ t.count = 0 ∧ t.muted = false ∧ t.booted = Booted.none ∧
        t.exec = Exec.reset ∧ t.pins.alarmN = true ∧ (s.exec.queue = [] → t.flash = s.flash) ∧ t.flash.rpa = s.flash.rpa ∧
        t.gov.time95 = s.gov.time95 ∧ t.gov.trips = s.gov.trips ∧
        regBits t (dcs SP 0x20) 3 3 =
          (if pwrState s = 4 ∨ (s.life ≠ .up ∧ regBits s (dcs SP 0x20) 3 3 = 1) then 1 else 0) := by
  obtain ⟨hframe, hrpa, hidle⟩ := stopWrite_frame s
  have hsame : u.flash.rpa = s.flash.rpa ∧ (s.exec.queue = [] → u.flash = s.flash) ∧ u.gov = s.gov ∧ u.life = s.life ∧
      u.regs = s.regs := by
    rcases hu with rfl | rfl
    · exact ⟨rfl, fun _ => rfl, rfl, rfl, rfl⟩
    · exact ⟨hrpa, fun hq => by rw [hidle hq], by rw [hframe], by rw [hframe], by rw [hframe]⟩
  obtain ⟨hurpa, huflash, hgov, hlife, hregs⟩ := hsame
  have htrip : tripSeen u = tripSeen s := by rw [tripSeen, tripSeen, hlife, pwrState_congr hregs, regBits_congr hregs]
  refine ⟨h.life, hd, h.cores, h.dram, h.bridges, h.tiles, h.image, h.plane, h.count, h.muted, h.booted, h.exec, h.alarm,
    fun hq => h.flash.trans (huflash hq), (congrArg Flash.rpa h.flash).trans hurpa, h.time95.trans (by rw [hgov]),
    h.trips.trans (by rw [hgov]), h.tripped.trans ?_⟩
  rw [htrip]
  simp only [tripSeen_of_powered hl]

theorem HeldFrom.withDue {s t : State} (h : HeldFrom s t) (d : Option DeviceCause) : HeldFrom s { t with due := d } := by
  obtain ⟨_, _, _, _, _, _, _, _, _, _, _, _, _, _, _, _, htrip⟩ := h
  constructor
  case tripped => exact (regBits_congr (s := t) rfl ..).trans htrip
  all_goals assumption

-- Boot -----------------------------------------------------------------------------------------------------------------

theorem bootHalt_halts (s : State) (step code : Nat) : (bootHalt s step code).life = .bootHalt := rfl

theorem bootRelease_counts (s : State) (copy : Nat) (fac uds : List Byte) (user : Option (Nat × List Byte)) (rej : Nat × Nat) :
    let t := bootRelease s copy fac uds user rej
    t.life = .released ∧ t.flash.rpa.boots = s.flash.rpa.boots + 1 ∧ regWord t (dcs SEC 0) = 9 ∧ t.booted.factory = fac := by
  unfold bootRelease
  extract_lets pkg carrier fw ver r log wrap nonce device cdi own b s₁ s₂ s₃ s₄ f₀ f g₀ g u
  have h₁ : regWord s₁ (dcs SEC 0) = 9 := regWord_regPut_same ..
  have h₄ : regWord s₄ (dcs SEC 0) = regWord s₁ (dcs SEC 0) :=
    (regWord_regPutNat_out _ _ _ _ _ (by decide)).trans
      ((regWord_regPutNat_out _ _ _ _ _ (by decide)).trans (regWord_regPutNat_out _ _ _ _ _ (by decide)))
  have hboots : f.rpa.boots = s.flash.rpa.boots + 1 := rfl
  have hfac : b.factory = fac := rfl
  clear_value b f g s₄
  exact ⟨rfl, hboots, h₄.trans h₁, hfac⟩

/-- BOOT ends halted, or released with one boot more counted and the factory region in force that it has found (15 R403, R411). -/
theorem boot_ends (s : State) (h : s.life = .inReset) : ∃ t, exec .boot s = .next t ∧ (t.life = .bootHalt ∨ t.life = .released) ∧
    (t.life = .released → t.flash.rpa.boots = s.flash.rpa.boots + 1 ∧ regWord t (dcs SEC 0) = 9 ∧
      ∃ c, bootFactory s = some (c, t.booted.factory)) := by
  have hhalt (step code : Nat) : (bootHalt s step code).life = .released → False := by simp [bootHalt_halts]
  change ∃ t, execBoot s = .next t ∧ _
  unfold execBoot
  rw [if_neg (by simp [h])]
  split
  · exact ⟨_, rfl, .inl rfl, fun hr => (hhalt 1 1 hr).elim⟩
  · next c fac hf =>
    split
    · exact ⟨_, rfl, .inl rfl, fun hr => (hhalt 3 2 hr).elim⟩
    · next u hu =>
      dsimp only
      split
      · exact ⟨_, rfl, .inl rfl, fun hr => (hhalt 5 3 hr).elim⟩
      · refine ⟨_, rfl, ?_⟩
        obtain ⟨hlife, hboots, hword, hfac⟩ := bootRelease_counts _ c fac _ _ _
        exact ⟨.inr hlife, fun _ => ⟨hboots, hword, c, hfac ▸ hf⟩⟩

/-- Settles O22: each reset goes through `HeldFrom` or `Afresh`, boot through its branches. -/
theorem resetsAndBootComplete : Obligations.ResetsAndBootComplete := by
  refine ⟨fun s hl => ?resets, fun s hl hf => ?halts, boot_ends, fun s c hl hm hd => ?due⟩
  case resets =>
    simp only [List.forall_mem_cons, List.not_mem_nil, IsEmpty.forall_iff, implies_true, and_true]
    constructor
    · have ht : execColdReset s = .next (coldState (stopWrite s)) := by rw [execColdReset, if_neg hl]
      exact ⟨_, ht, (coldState_held _).ends (.inr rfl) hl (coldState_due _)⟩
    · by_cases hc : s.due = some .cold ∧ s.life ≠ .up
      · have ht : execWarmReset s = .next { warmState s with due := some .cold } := by rw [execWarmReset, if_neg hl, if_pos hc]
        rw [if_pos hc]
        exact ⟨_, ht, ((warmState_held s).withDue _).ends (.inl rfl) hl rfl⟩
      · have ht : execWarmReset s = .next { warmState (stopWrite s) with due := some .warm } := by
          rw [execWarmReset, if_neg hl, if_neg hc]
        rw [if_neg hc]
        exact ⟨_, ht, ((warmState_held _).withDue _).ends (.inr rfl) hl rfl⟩
  case halts =>
    refine ⟨bootHalt s 1 1, ?_, rfl, rfl, rfl, regWord_regPut_same .., rfl⟩
    change execBoot s = _
    rw [execBoot, if_neg (by simp [hl]), hf]
  case due =>
    have ht : exec .deviceReset s = .next (deviceReset s (causeCode c)) := by
      refine Eq.trans (b := execDeviceReset s) rfl ?_
      rw [execDeviceReset, if_pos ⟨hl, hm⟩, dueReset, hd]
    obtain ⟨hlife, hdue, himage, hcores, hplane, hdir, hrecalls, hcopy, hmute, hqueue, hflash⟩ := deviceReset_afresh s (causeCode c)
    exact ⟨_, ht, hlife, hdue, himage, hcores, hplane, hdir, hrecalls, hcopy, hmute, hqueue, hflash⟩

end Sys2Proof.Machine
end

section
/-! SUPPORT. A trip takes the power of tiles, DRAM and Bridges (16 R422, R431; 18 R461, R462). -/
namespace Sys2Proof.Machine
open Sys2Proof.Safety Sys2Proof.Claims

theorem loseMute_frame (s : State) : (loseMute s).muted = false ∧ (loseMute s).mute.waiting = s.mute.waiting ∧
    loseMute s = { s with muted := false, mute := (loseMute s).mute, regs := (loseMute s).regs } := by
  unfold loseMute
  split
  · next h =>
    have hm : s.muted = false := by simpa using h
    exact ⟨hm, rfl, by rw [← hm]⟩
  · dsimp only
    rw [regSetBits_frame]
    exact ⟨rfl, rfl, rfl⟩

theorem failHost_frame (s : State) : failHost s = { s with cohWait := [], out := (failHost s).out } := by
  unfold failHost
  generalize hostOpen s = l
  suffices h : ∀ (u : State), l.foldl (fun s _ => reply s UR []) u = { u with out := (l.foldl (fun s _ => reply s UR []) u).out } from h _
  induction l with
  | nil => exact fun _ => rfl
  | cons x l ih => exact fun u => ih (reply u UR [])

/-- Every die but the edge dies has lost its power: registers, cores, tiles, Bridges, memory and image are gone. -/
structure Dark (t : State) : Prop where
  cores : t.cores = []
  tiles : t.tiles = []
  bridges : t.bridges = []
  image : t.image = none

theorem darken_dark (s : State) : Dark (darken s) := ⟨rfl, rfl, rfl, rfl⟩

theorem loseDies_dark (s : State) : Dark (loseDies s) ∧ (loseDies s).dram = [] ∧ loseDies s = { s with
    out := (loseDies s).out, image := none, plane := (loseDies s).plane, tokSent := [], tokGot := [], cores := []
    regs := (loseDies s).regs, dram := [], bridges := [], tiles := [], stepCodes := [], cohWait := [], a2Saved := [] } := by
  unfold loseDies
  extract_lets up s₁ d p s₂
  have h₂ : Dark s₂ ∧ s₂.dram = [] ∧ s₂ = { s with
      out := s₂.out, image := none, plane := s₂.plane, tokSent := [], tokGot := [], cores := [], regs := s₂.regs, dram := []
      bridges := [], tiles := [], stepCodes := [], cohWait := [], a2Saved := [] } := by
    refine ⟨⟨rfl, rfl, rfl, rfl⟩, rfl, ?_⟩
    have h₁ : s₁ = { s with cohWait := [], out := s₁.out } := failHost_frame s
    unfold s₂ d darken
    rw [h₁]
  clear_value s₂
  split
  · obtain ⟨⟨hcores, htiles, hbridges, himage⟩, hdram, hframe⟩ := h₂
    obtain ⟨o, hirq, -⟩ := raiseIrq_eq s₂ 23
    rw [hirq]
    refine ⟨⟨hcores, htiles, hbridges, himage⟩, hdram, ?_⟩
    rw [hframe]
  · exact h₂

theorem powerEvent_frame (s : State) (b : Nat) :
    powerEvent s b = { s with regs := (powerEvent s b).regs, out := (powerEvent s b).out } := by
  unfold powerEvent
  dsimp only
  split
  · rfl
  · obtain ⟨o, hirq, -⟩ := raiseIrq_eq (regSetBits s (dcs SP 0x200010) b b 1) 24
    rw [hirq, regSetBits_frame]

/-- A power event leaves the registers apart from the power events and IRQSTAT. -/
theorem regBits_powerEvent {s : State} {b a hi lo : Nat} (hb : b < 32)
    (hp : a + 4 * (hi / 32 + 1) ≤ dcs SP 0x200010 ∨ dcs SP 0x200014 ≤ a) (hirq : a + 4 * (hi / 32 + 1) ≤ dcs APL 0x100 ∨ dcs APL 0x104 ≤ a) :
    regBits (powerEvent s b) a hi lo = regBits s a hi lo := by
  have h0 : b / 32 = 0 := by omega
  unfold powerEvent
  dsimp only
  split
  · rfl
  · rw [regBits_raiseIrq_other, regBits_regSetBits_ne]
    · rw [h0]
      exact hp
    · rw [regBits_regSetBits_ne]
      exact hirq

theorem recordTrip_frame (s : State) (code : Nat) : recordTrip s code = { s with
    regs := (recordTrip s code).regs, stepCodes := (recordTrip s code).stepCodes, out := (recordTrip s code).out
    pins := { s.pins with alarmN := false } } := by
  have h₁ : RecordsOnly s (recordAs s SP code 3 0) := recordAs_records ..
  unfold RecordsOnly at h₁
  unfold recordTrip
  dsimp only
  generalize recordAs s SP code 3 0 = s₁ at *
  have h₂ : powerEvent (regSetBits s₁ (dcs SP 0x440) 0 0 1) 4 = { s₁ with
      regs := (powerEvent (regSetBits s₁ (dcs SP 0x440) 0 0 1) 4).regs
      out := (powerEvent (regSetBits s₁ (dcs SP 0x440) 0 0 1) 4).out } := by
    rw [powerEvent_frame, regSetBits_frame]
  generalize powerEvent (regSetBits s₁ (dcs SP 0x440) 0 0 1) 4 = s₂ at *
  rw [h₂, h₁]

theorem recordTrip_void (s : State) (code : Nat) : regBits (recordTrip s code) (dcs SP 0x440) 0 0 = 1 := by
  unfold recordTrip
  extract_lets s₁ s₂
  have h₂ : regBits s₂ (dcs SP 0x440) 0 0 = 1 :=
    (regBits_powerEvent (by decide) (.inl (by decide)) (.inr (by decide))).trans (regBits_regSetBits_same ..)
  exact (regBits_congr (s := s₂) rfl ..).trans h₂

theorem endWaits_none {s : State} (h : s.exec.draining = none) : endWaits s = { s with due := none, life := .up } := by
  unfold endWaits
  dsimp only
  rw [h]

theorem replay_nil {s : State} (h : s.mute.waiting = []) : replay s = { s with mute := { s.mute with waiting := [] } } := by
  unfold replay
  rw [h]
  rfl

/-- The record of a trip, with the wear count of a thermal one. -/
def recorded (s : State) (code : Nat) : State :=
  if code = 0x38 then writeWear { s with gov := { s.gov with trips := s.gov.trips + 1 } } else s

theorem recorded_frame (s : State) (code : Nat) : recorded s code = { s with
    gov := (recorded s code).gov, flash := (recorded s code).flash } := by
  unfold recorded
  split
  · rfl
  · rfl

theorem trip_eq {s : State} {code : Nat} (hl : s.life = .up) (hp : pwrState s ≠ 4) :
    trip s code = replay (endWaits (setPwr (recorded (recordTrip (loseDies (loseMute s)) code) code) 4)) := by
  unfold trip
  rw [if_neg (by simp [hl, hp])]
  rfl

/-- A trip darkens the module and stands it in TRIPPED (16 R422; 18 R461, R462). -/
theorem trip_ends {s : State} (code : Nat) (hl : s.life = .up) (hp : pwrState s ≠ 4) (hw : s.mute.waiting = [])
    (hd : s.exec.draining = none) : let t := trip s code
    Dark t ∧ pwrState t = 4 ∧ t.dram = [] ∧ t.pins.alarmN = false ∧ t.life = .up ∧ t.muted = false ∧
      (code = 0x38 → t.gov.trips = s.gov.trips + 1 ∧ t.flash.rpa.trips = s.gov.trips + 1) ∧
      (code ≠ 0x38 → t.gov.trips = s.gov.trips) ∧ regBits t (dcs SP 0x440) 0 0 = 1 := by
  intro t
  obtain ⟨hmuted, hwait, hlose⟩ := loseMute_frame s
  obtain ⟨hdark, hdram, hdies⟩ := loseDies_dark (loseMute s)
  have hrec := recordTrip_frame (loseDies (loseMute s)) code
  have hvoid := recordTrip_void (loseDies (loseMute s)) code
  have ht : t = replay (endWaits (setPwr (recorded (recordTrip (loseDies (loseMute s)) code) code) 4)) := trip_eq hl hp
  generalize loseMute s = s₁ at *
  generalize loseDies s₁ = s₂ at *
  generalize recordTrip s₂ code = s₃ at *
  have hfour := recorded_frame s₃ code
  have htrips : code = 0x38 → (recorded s₃ code).gov.trips = s₃.gov.trips + 1 ∧ (recorded s₃ code).flash.rpa.trips = s₃.gov.trips + 1 := by
    intro h
    rw [recorded, if_pos h]
    exact ⟨rfl, rfl⟩
  have hsame : code ≠ 0x38 → (recorded s₃ code).gov.trips = s₃.gov.trips := fun h => by rw [recorded, if_neg h]
  have hgov : s₃.gov = s.gov := by rw [hrec, hdies, hlose]
  rw [hgov] at htrips hsame
  have hvoid : regBits (recorded s₃ code) (dcs SP 0x440) 0 0 = 1 := by rw [← hvoid]; exact regBits_congr (by rw [hfour]) ..
  generalize recorded s₃ code = s₄ at *
  have hfive : setPwr s₄ 4 = { s₄ with regs := (setPwr s₄ 4).regs } := regSetBits_frame ..
  have hpwr : pwrState (setPwr s₄ 4) = 4 := regBits_regSetBits_same ..
  have hvoid : regBits (setPwr s₄ 4) (dcs SP 0x440) 0 0 = 1 := (regBits_regSetBits_ne _ _ (.inl (by decide))).trans hvoid
  generalize setPwr s₄ 4 = s₅ at *
  have hexec : s₅.exec = s.exec := by rw [hfive, hfour, hrec, hdies, hlose]
  have hdrain : s₅.exec.draining = none := by rw [hexec, hd]
  have hwaits : s₅.mute.waiting = [] := by rw [hfive, hfour, hrec, hdies]; exact hwait.trans hw
  rw [endWaits_none hdrain, replay_nil (s := { s₅ with due := none, life := .up }) hwaits] at ht
  have hregs : t.regs = s₅.regs := by rw [ht]
  obtain ⟨hcores, htiles, hbridges, himage⟩ := hdark
  refine ⟨⟨?_, ?_, ?_, ?_⟩, (pwrState_congr hregs).trans hpwr, ?_, ?_, ?_, ?_, fun h => ?_, fun h => ?_, (regBits_congr hregs ..).trans hvoid⟩
  · rw [ht, hfive, hfour, hrec]; exact hcores
  · rw [ht, hfive, hfour, hrec]; exact htiles
  · rw [ht, hfive, hfour, hrec]; exact hbridges
  · rw [ht, hfive, hfour, hrec]; exact himage
  · rw [ht, hfive, hfour, hrec]; exact hdram
  · rw [ht, hfive, hfour, hrec]
  · rw [ht]
  · rw [ht, hfive, hfour, hrec, hdies]; exact hmuted
  · rw [ht, hfive]; exact htrips h
  · rw [ht, hfive]; exact hsame h

theorem trip_tripped {s : State} (code : Nat) (hp : pwrState s = 4) : trip s code = s := if_pos (.inr hp)

/-- Settles O21: every trip is `trip`; power loss is a Cold reset that keeps flash alone. -/
theorem tripsAndPowerComplete : Obligations.TripsAndPowerComplete := by
  refine ⟨fun s hl hp hw hd => ?trips, fun s hl hp => ?tripped, fun s => ?loss, fun s hl => congrArg _ (if_pos hl)⟩
  case tripped => exact ⟨congrArg _ (trip_tripped _ hp), congrArg _ (trip_tripped _ hp), congrArg _ (trip_tripped _ hp)⟩
  case trips =>
    obtain ⟨hdark, hpwr, hdram, halarm, hlife, hmuted, hcount, -, hvoid⟩ := trip_ends 0x38 hl hp hw hd
    obtain ⟨hdark', hpwr', hdram', halarm', hlife', hmuted', -, hsame, hvoid'⟩ := trip_ends 0x39 hl hp hw hd
    simp only [List.forall_mem_cons, List.not_mem_nil, IsEmpty.forall_iff, implies_true, and_true]
    have hrow (i : Instr) (hi : i ≠ .thermalTrip) (he : exec i s = .next (trip s 0x39)) : ∃ t, exec i s = .next t ∧
        pwrState t = 4 ∧ t.cores = [] ∧ t.tiles = [] ∧ t.bridges = [] ∧ t.dram = [] ∧ t.pins.alarmN = false ∧ t.life = .up ∧
        t.muted = false ∧ t.gov.trips = s.gov.trips ∧ (i = .thermalTrip → t.flash.rpa.trips = s.gov.trips + 1) ∧
        regBits t (dcs SP 0x440) 0 0 = 1 :=
      ⟨_, he, hpwr', hdark'.cores, hdark'.tiles, hdark'.bridges, hdram', halarm', hlife', hmuted', hsame (by decide),
        fun h => (hi h).elim, hvoid'⟩
    exact ⟨⟨_, rfl, hpwr, hdark.cores, hdark.tiles, hdark.bridges, hdram, halarm, hlife, hmuted, (hcount rfl).1, fun _ => (hcount rfl).2,
      hvoid⟩, hrow _ (by simp) rfl, hrow _ (by simp) rfl⟩
  case loss =>
    have h := coldState_held (stopWrite s)
    obtain ⟨hframe, hrpa, hidle⟩ := stopWrite_frame s
    exact ⟨_, rfl, rfl, fun hq => h.flash.trans (by rw [hidle hq]), (congrArg Flash.rpa h.flash).trans hrpa,
      h.out.trans (by rw [hframe]), rfl, h.cores, h.tiles, h.bridges, h.dram, rfl, h.image, h.booted, rfl, h.plane⟩

end Sys2Proof.Machine
end

section
/-! SUPPORT. The self, epoch, reset and power registers, which the work of an abort leaves but where it writes them by name. -/
namespace Sys2Proof.Machine
open Sys2Proof.Safety Sys2Proof.Claims

/-- The offsets of TIL_SELF, TIL_EPOCH, BRG_EPOCH, SP_RSTCAUSE and the power state. -/
def hushedOffsets : List Nat := [0x20, 0x120, 0x830, 0x838, 0x200008]

/-- The words at these offsets read in `t` as in `s`. -/
def Hushed (s t : State) : Prop := ∀ d ≤ SP, ∀ o ∈ hushedOffsets, regWord t (dcs d o) = regWord s (dcs d o)

/-- `n` words from offset `p` are apart from the quiet words. -/
def loud (p n : Nat) : Bool := decide (p + 4 * n ≤ 2 ^ 24) && hushedOffsets.all (fun o => decide (o < p ∨ p + 4 * n ≤ o))

namespace Hushed
variable {s₀ s t : State}

theorem refl (s : State) : Hushed s s := fun _ _ _ _ => rfl

theorem trans (h : Hushed s₀ s) (h' : Hushed s t) : Hushed s₀ t := fun d hd o ho => (h' d hd o ho).trans (h d hd o ho)

protected theorem of_regs (h : Hushed s₀ s) (ht : t.regs = s.regs) : Hushed s₀ t :=
  fun d hd o ho => Eq.trans (by rw [regWord, regWord, ht]) (h d hd o ho)

theorem hushedOffset_lt : ∀ o ∈ hushedOffsets, o < 2 ^ 24 := by decide

protected theorem regPutNat (h : Hushed s₀ s) {d p v n : Nat} (hp : loud p n = true) : Hushed s₀ (regPutNat s (dcs d p) v n) := by
  intro e he o ho
  simp only [loud, Bool.and_eq_true, decide_eq_true_eq, List.all_eq_true] at hp
  obtain ⟨hend, hout⟩ := hp
  have hlt := hushedOffset_lt o ho
  have hout := hout o ho
  rw [regWord_regPutNat_out, h e he o ho]
  unfold dcs
  omega

protected theorem regSetBits (h : Hushed s₀ s) {d p hi lo x : Nat} (hp : loud p (hi / 32 + 1) = true := by decide) :
    Hushed s₀ (regSetBits s (dcs d p) hi lo x) := h.regPutNat hp

theorem bits (h : Hushed s₀ s) {d o hi : Nat} (hd : d ≤ SP) (ho : o ∈ hushedOffsets) (lo : Nat) (hhi : hi < 32) :
    regBits s (dcs d o) hi lo = regBits s₀ (dcs d o) hi lo := regBits_of_word (h d hd o ho) lo hhi

protected theorem foldl {β : Type} {l : List β} {f : State → β → State} (h : Hushed s₀ s)
    (hf : ∀ s x, Hushed s₀ s → Hushed s₀ (f s x)) : Hushed s₀ (l.foldl f s) := by
  induction l generalizing s with
  | nil => exact h
  | cons x l ih => exact ih (hf s x h)

protected theorem ite {c : Prop} [Decidable c] (hs : Hushed s₀ s) (ht : Hushed s₀ t) : Hushed s₀ (if c then s else t) := by
  split
  · exact hs
  · exact ht

protected theorem ite_fst {c : Prop} [Decidable c] {β : Type} {p q : State × β} (hp : Hushed s₀ p.1) (hq : Hushed s₀ q.1) :
    Hushed s₀ (if c then p else q).1 := by
  split
  · exact hp
  · exact hq

protected theorem regCount (h : Hushed s₀ s) {d p n : Nat} (hp : loud p 2 = true) : Hushed s₀ (regCount s (dcs d p) n) := h.regPutNat hp

protected theorem setCore (h : Hushed s₀ s) {c : Nat} {k : Core} : Hushed s₀ (setCore s c k) := h.of_regs rfl

protected theorem mapCores (h : Hushed s₀ s) {f : Nat → Core → Core} : Hushed s₀ (mapCores s f) := .foldl h fun _ _ h => h.setCore

protected theorem emit (h : Hushed s₀ s) {o : Output} : Hushed s₀ (emit s o) := h.of_regs rfl

protected theorem doorbell (h : Hushed s₀ s) {b : Nat} : Hushed s₀ (doorbell s b) := h.emit

protected theorem raiseIrq (h : Hushed s₀ s) {b : Nat} (hb : b < 32 := by decide) : Hushed s₀ (raiseIrq s b) := by
  have h₁ : Hushed s₀ (Machine.regSetBits s (dcs APL 0x100) b b 1) := h.regSetBits (by rw [Nat.div_eq_of_lt hb]; decide)
  exact .ite h (.ite h₁ h₁.doorbell)

/-- Two words at the start of a log entry. -/
protected theorem logEntry (h : Hushed s₀ s) {i v n : Nat} (hn : n ≤ 2) : Hushed s₀ (Machine.regPutNat s (dcs SP (0x3000 + i * 0x10)) v n) := by
  intro e he o ho
  rw [regWord_regPutNat_out, h e he o ho]
  simp only [hushedOffsets, List.mem_cons, List.not_mem_nil, or_false] at ho
  unfold dcs SP at *
  omega

protected theorem logFault (h : Hushed s₀ s) {die code cls detail n : Nat} : Hushed s₀ (logFault s die code cls detail n) := by
  unfold logFault
  dsimp only
  split
  · exact h.logEntry (by decide)
  · split
    · next hc =>
      refine .regSetBits (h.regPutNat ?_)
      simp only [loud, hushedOffsets, Bool.and_eq_true, decide_eq_true_eq, List.all_eq_true, List.forall_mem_cons, List.not_mem_nil,
        IsEmpty.forall_iff, implies_true, and_true]
      omega
    · exact h.regSetBits

protected theorem runEnd (h : Hushed s₀ s) {result fcode : Nat} : Hushed s₀ (runEnd s result fcode) :=
  (h.regPutNat (d := SP) (p := 0x200) (by decide)).raiseIrq

protected theorem collectTile (h : Hushed s₀ s) {t : Nat} : Hushed s₀ (collectTile s t) := by
  unfold collectTile
  dsimp only
  split
  · exact h
  · split
    · exact .ite (h.logEntry le_rfl) h
    · exact h
    · exact h.logFault.of_regs rfl

protected theorem collectCoreFaults (h : Hushed s₀ s) : Hushed s₀ (collectCoreFaults s) := .foldl h fun _ _ h => h.collectTile

protected theorem setBridge (h : Hushed s₀ s) {d : Nat} {b : Bridge} : Hushed s₀ (setBridge s d b) := h.of_regs rfl

protected theorem modBridge (h : Hushed s₀ s) {d : Nat} {f : Bridge → Bridge} : Hushed s₀ (modBridge s d f) := h.setBridge

protected theorem modLink (h : Hushed s₀ s) {d : Nat} {f : Link → Link} : Hushed s₀ (modLink s d f) := h.modBridge

protected theorem modEng (h : Hushed s₀ s) {d : Nat} {f : Engine → Engine} : Hushed s₀ (modEng s d f) := h.modBridge

protected theorem modTile (h : Hushed s₀ s) {t : Nat} {f : Tile → Tile} : Hushed s₀ (modTile s t f) := h.of_regs rfl

protected theorem setTile (h : Hushed s₀ s) {t : Nat} {x : Tile} : Hushed s₀ (setTile s t x) := h.of_regs rfl

protected theorem brgCount (h : Hushed s₀ s) {d n k : Nat} (hn : n < 64 := by decide) : Hushed s₀ (brgCount s d n k) := by
  refine h.regCount ?_
  simp only [loud, hushedOffsets, Bool.and_eq_true, decide_eq_true_eq, List.all_eq_true, List.forall_mem_cons, List.not_mem_nil,
    IsEmpty.forall_iff, implies_true, and_true]
  omega

protected theorem poolAdd (h : Hushed s₀ s) {d p : Nat} {k : ℤ} : Hushed s₀ (poolAdd s d p k) := by
  refine .ite h ?_
  unfold poolField
  split <;> exact h.regSetBits

protected theorem setVoq (h : Hushed s₀ s) {d q : Nat} {v : Voq} : Hushed s₀ (setVoq s d q v) := h.modBridge

protected theorem setLines (h : Hushed s₀ s) {d : Nat} {ls : List Nat} : Hushed s₀ (setLines s d ls) := h.modBridge.regSetBits

protected theorem returnCredits (h : Hushed s₀ s) {d : Nat} {e : RxEntry} : Hushed s₀ (returnCredits s d e) := by
  unfold returnCredits
  split
  · exact h.modLink
  · exact h

protected theorem dropRx (h : Hushed s₀ s) {d : Nat} {e : RxEntry} : Hushed s₀ (dropRx s d e) := by
  unfold dropRx
  dsimp only
  split
  · exact h.modBridge.returnCredits.poolAdd
  · exact h.modBridge.returnCredits

protected theorem freeTail (h : Hushed s₀ s) {d : Nat} {x : Spilled} : Hushed s₀ (freeTail s d x) := .ite h h.setLines

protected theorem spillInForce (h : Hushed s₀ s) {d : Nat} : Hushed s₀ (spillInForce s d) := h.modBridge

protected theorem clearTokens (h : Hushed s₀ s) : Hushed s₀ (clearTokens s) := h.regPutNat (d := TUN) (p := 0xC00) (by decide)

protected theorem setSched (h : Hushed s₀ s) {d o : Nat} {x : Sched} : Hushed s₀ (setSched s d o x) := h.modBridge

protected theorem restVoqs (h : Hushed s₀ s) {d : Nat} : Hushed s₀ (restVoqs s d) := .foldl h fun _ _ h => .ite h.setVoq h

protected theorem restSched (h : Hushed s₀ s) {d o : Nat} : Hushed s₀ (restSched s d o) :=
  .ite h (.ite (h.setSched.regPutNat (d := d) (p := 0x308) (by decide)) h.setSched)

protected theorem dropFlight (h : Hushed s₀ s) {d o : Nat} {gone : InFlight → Bool} : Hushed s₀ (dropFlight s d o gone) := by
  unfold dropFlight
  dsimp only
  refine .foldl h.setSched fun _ _ h => ?_
  split
  · exact .poolAdd (.ite h.modLink h)
  · exact .ite h.modLink h

protected theorem dropFlights (h : Hushed s₀ s) {gone : InFlight → Bool} : Hushed s₀ (dropFlights s gone) :=
  .foldl h fun _ _ h => .foldl h fun _ _ h => h.dropFlight

protected theorem restQueues (h : Hushed s₀ s) : Hushed s₀ (restQueues s) :=
  .foldl (.foldl h fun _ _ h => h.restVoqs) fun _ _ h => .foldl h fun _ _ h => h.restSched

protected theorem sadCount (h : Hushed s₀ s) {d n : Nat} (hn : n < 8 := by decide) : Hushed s₀ (sadCount s d n) := by
  refine h.regCount ?_
  simp only [loud, hushedOffsets, Bool.and_eq_true, decide_eq_true_eq, List.all_eq_true, List.forall_mem_cons, List.not_mem_nil,
    IsEmpty.forall_iff, implies_true, and_true]
  omega

protected theorem spillWriteLines (h : Hushed s₀ s) {d : Nat} {f : Frame} {ls : List Nat} : Hushed s₀ (spillWriteLines s d f ls) :=
  .foldl h fun _ _ h => h.of_regs rfl

protected theorem findPlace (h : Hushed s₀ s) {d : Nat} {slot : Option Nat} {f : Frame} : Hushed s₀ (findPlace s d slot f).1 := by
  unfold findPlace
  dsimp only
  split
  · exact h
  · exact .ite_fst h (.ite_fst h.setLines.sadCount.spillWriteLines h)

protected theorem stageFrame (h : Hushed s₀ s) {slot : Frame → Option Nat} {d : Nat} {f : Frame} : Hushed s₀ (stageFrame slot d s f) :=
  (h.findPlace (d := d) (slot := slot f) (f := f)).of_regs rfl

protected theorem keepPlaces (h : Hushed s₀ s) {d : Nat} {keep : Frame → Bool} : Hushed s₀ (keepPlaces s d keep) :=
  .modEng (.ite h h.setLines)

protected theorem restage (h : Hushed s₀ s) {d : Nat} {slot : Frame → Option Nat} : Hushed s₀ (restage s d slot) := by
  exact .regSetBits (.regSetBits (.regSetBits (.foldl h.keepPlaces fun _ _ h => h.stageFrame)))

protected theorem discardVoq (h : Hushed s₀ s) {d q : Nat} : Hushed s₀ (discardVoq s d q) := by
  unfold discardVoq
  refine .ite h (.brgCount (.foldl (.foldl ?_ fun _ _ h => h.poolAdd) fun _ _ h => .freeTail ?_))
  · split
    · exact h.setVoq.poolAdd
    · exact h.setVoq
  · split
    · exact h.poolAdd
    · exact h

protected theorem discardFrames (h : Hushed s₀ s) {d : Nat} : Hushed s₀ (discardFrames s d) := by
  unfold discardFrames
  extract_lets s₁ b gone s₂ s₃ s₄ sp s₅
  have h₂ : Hushed s₀ s₂ := .foldl h.dropFlights fun _ _ h => h.dropRx
  have h₄ : Hushed s₀ s₄ := .foldl h₂.brgCount fun _ _ h => h.discardVoq
  have h₅ : Hushed s₀ s₅ := .ite h₄ h₄.setLines
  exact h₅.modBridge

protected theorem discardRetry (h : Hushed s₀ s) {d : Nat} : Hushed s₀ (discardRetry s d) := h.modLink.brgCount

protected theorem epochBridge {d v : Nat} (h : Hushed s₀ (Machine.regSetBits s (dcs d 0x120) 7 0 v)) : Hushed s₀ (epochBridge s d v) :=
  h.discardFrames.discardRetry

protected theorem freeAnswers (h : Hushed s₀ s) : Hushed s₀ (freeAnswers s) := .foldl h fun _ _ h => h.poolAdd

protected theorem endRun (h : Hushed s₀ s) : Hushed s₀ (endRun s) := by
  have hidle : Hushed s₀ { s with plane := { s.plane with run := .idle, contAt := none } } := h.of_regs rfl
  exact .ite h hidle.runEnd

protected theorem disarm (h : Hushed s₀ s) : Hushed s₀ (disarm s) := .ite h.regSetBits.regSetBits h

end Hushed

-- Clearing -------------------------------------------------------------------------------------------------------------

/-- A clear of some classes leaves a word whose register has no field of them. -/
theorem clearedWord_kept {q : Cls → Bool} {a : Nat} (h : (findReg a).all (fun x => x.1.fields.all (fun f => !q f.cls)) = true)
    (v : Word) : clearedWord q a v = v := by
  unfold clearedWord
  split
  · rfl
  · next r w hf =>
    rw [hf, Option.all_some, List.all_eq_true] at h
    have hm : maskOf (fun f => q f.cls) w r.fields = 0#32 := maskOf_none _ fun f hf' => by simpa using h f hf'
    simp only [hm, BitVec.not_zero, BitVec.and_allOnes, BitVec.and_zero, BitVec.or_zero]

/-- The registers by name have no field of class P or S. -/
theorem named_not_plane : ∀ x ∈ [(DieKind.tile, 0x830), (.tile, 0x838), (.bridge, 0x120), (.soundpost, 0x20), (.soundpost, 0x200008)],
    (findIn regTable x.1 x.2).all (fun x => x.1.fields.all (fun f => !(decide (f.cls = .p) || decide (f.cls = .s)))) = true := by
  decide +kernel

/-- What a reset of the plane clears leaves them. -/
theorem regWord_clearPlane {d o : Nat} {k : DieKind} (hd : dieKind d = some k)
    (hx : (k, o) ∈ [(DieKind.tile, 0x830), (.tile, 0x838), (.bridge, 0x120), (.soundpost, 0x20), (.soundpost, 0x200008)])
    {q : Cls → Bool} (hq : ∀ x, q x = true → x = .p ∨ x = .s) (s : State) (dies : Nat → Bool) :
    regWord (clearRegs s dies q) (dcs d o) = regWord s (dcs d o) := by
  have hlow : ∀ x ∈ [(DieKind.tile, 0x830), (.tile, 0x838), (.bridge, 0x120), (.soundpost, 0x20), (.soundpost, 0x200008)],
      x.2 < 2 ^ 24 := by decide
  refine regWord_clearRegs_kept (clearedWord_kept ?_) s dies
  have hnone := named_not_plane _ hx
  rw [findReg_dcs hd (hlow _ hx)]
  cases hf : findIn regTable k o with
  | none => rfl
  | some r =>
    simp only [hf, Option.all_some, List.all_eq_true] at hnone ⊢
    intro f hf
    have := hnone f hf
    by_contra hc
    have hc := hq f.cls (by simpa using hc)
    simp only [Bool.not_eq_true', Bool.or_eq_false_iff, decide_eq_false_iff_not] at this
    tauto

end Sys2Proof.Machine
end

section
/-! SUPPORT. An abort of the run and a reset of the plane: what they leave, and the epochs that an abort sets (14 R388; 16 R425, R429). -/
namespace Sys2Proof.Machine
open Sys2Proof.Safety Sys2Proof.Claims

-- Folds that set one place for each index ------------------------------------------------------------------------------

/-- A fold that gives each index its property, and leaves the property of the others, gives it to every index of the list. -/
theorem foldl_sets {σ : Type} {f : σ → Nat → σ} {P : Nat → σ → Prop} (hset : ∀ s d, P d (f s d))
    (hkeep : ∀ s d e, e ≠ d → P d s → P d (f s e)) (l : List Nat) (s : σ) {d : Nat} (hd : d ∈ l) : P d (l.foldl f s) := by
  induction l generalizing s with
  | nil => exact absurd hd List.not_mem_nil
  | cons x l ih =>
    by_cases hl : d ∈ l
    · exact ih _ hl
    · obtain rfl : d = x := (List.mem_cons.mp hd).resolve_right hl
      exact List.foldlRecOn l f (hset s d) fun b hb e he => hkeep b d e (fun h => hl (h ▸ he)) hb

theorem regWord_congr {s t : State} (h : t.regs = s.regs) (a : Nat) : regWord t a = regWord s a := by rw [regWord, regWord, h]

-- The words that an abort leaves ---------------------------------------------------------------------------------------

/-- TIL_SELF, SP_RSTCAUSE and the power state. -/
def steadyWords : List (DieKind × Nat) := [(.tile, 0x830), (.soundpost, 0x20), (.soundpost, 0x200008)]

section
variable {d o : Nat} {k : DieKind} (hd : dieKind d = some k) (hx : (k, o) ∈ steadyWords)

theorem steady_hushed : (∀ x ∈ steadyWords, x.2 ∈ hushedOffsets ∧ x.2 ≠ 0x838 ∧ x.2 ≠ 0x120 ∧ x.2 < 2 ^ 24) ∧
    ∀ x ∈ steadyWords, x ∈ [(DieKind.tile, 0x830), (.tile, 0x838), (.bridge, 0x120), (.soundpost, 0x20), (.soundpost, 0x200008)] := by
  decide

theorem regWord_epochWrite (hlt : o < 2 ^ 24) {e p : Nat} (hp : p = 0x838 ∨ p = 0x120) (ho : o ≠ p) (s : State) (v : Nat) :
    regWord (regSetBits s (dcs e p) 7 0 v) (dcs d o) = regWord s (dcs d o) := by
  refine regWord_regSetBits_ne _ _ _ (by decide) ?_
  unfold dcs
  omega

/-- The change of one Bridge's epoch, and what is staged there, leaves the hushed words but its BRG_EPOCH. -/
theorem epochRestage_hushed (s : State) (e v : Nat) (slot : Frame → Option Nat) :
    Hushed (regSetBits s (dcs e 0x120) 7 0 v) (restage (epochBridge s e v) e slot) := (Hushed.refl _).epochBridge.restage

/-- The epochs of the Bridges, written where the Bridges are cleared. -/
def epochBridges (s : State) (epoch : Nat → Nat) : State :=
  restQueues ((bridgeDies.filter (dieLive s)).foldl (fun s d => restage (epochBridge s d (epoch d % 256)) d (fun _ => none)) s)

/-- The epochs of the tiles. -/
def epochTiles (s : State) (epoch : Nat → Nat) : State :=
  (tileDies.filter (dieLive s)).foldl (fun s t => regSetBits s (dcs t 0x838) 7 0 (epoch t % 256)) s

/-- The work left in cores and tiles is dropped. -/
def dropWork (s : State) : State :=
  let s := freeAnswers (mapCores s (fun _ => abortCore))
  s.tiles.foldl (fun s e => setTile s e.1 (abortTile e.2)) s

/-- The registers of a step are cleared. -/
def clearStep (s : State) : State :=
  regSetBits (clearTokens (bridgeDies.foldl spillInForce (clearRegs s (fun _ => true) (fun x => x = .s)))) (dcs TUN 0x300) 8 8 0

/-- The units of an aborted module. -/
def abortUnits (s : State) (epoch : Nat → Nat) : State :=
  clearStep (dropWork (epochTiles (epochBridges (collectCoreFaults s) epoch) epoch))

/-- No step is under way. -/
def stepless (s : State) : State :=
  { s with tokSent := [], tokGot := [], stepCodes := []
           plane := { s.plane with mesh := [], logged := [], stepEnd := none, stepOk := false, halted := none, haltBy := 0
                                   held := false, sample := none, issued := [] } }

theorem abortStep_eq (s : State) (epoch : Nat → Nat) : abortStep s epoch = stepless (abortUnits s epoch) := by
  unfold abortStep
  extract_lets s₁ s₂ s₃ s₄ s₅ s₆ s₇ s₈ s₉
  have h : s₉ = abortUnits s epoch := rfl
  clear_value s₉
  rw [← h]
  rfl

theorem stepless_regs (s : State) : (stepless s).regs = s.regs := rfl

theorem dropWork_hushed (s : State) : Hushed s (dropWork s) := .foldl (Hushed.refl s).mapCores.freeAnswers fun _ _ h => h.setTile

include hd hx

omit hd in
theorem regWord_epochBridges (hle : d ≤ SP) (s : State) (epoch : Nat → Nat) :
    regWord (epochBridges s epoch) (dcs d o) = regWord s (dcs d o) := by
  obtain ⟨ho, h838, h120, hlt⟩ := steady_hushed.1 _ hx
  refine ((Hushed.refl _).restQueues d hle o ho).trans ?_
  exact foldl_keeps (R := fun s t => regWord t (dcs d o) = regWord s (dcs d o)) (fun _ => rfl) (fun _ _ _ h h' => h'.trans h)
      (fun a e => (epochRestage_hushed a e _ _ d hle o ho).trans (regWord_epochWrite hlt (.inr rfl) h120 ..)) _ _

omit hd in
theorem regWord_epochTiles (s : State) (epoch : Nat → Nat) : regWord (epochTiles s epoch) (dcs d o) = regWord s (dcs d o) := by
  obtain ⟨ho, h838, h120, hlt⟩ := steady_hushed.1 _ hx
  exact foldl_keeps (R := fun s t => regWord t (dcs d o) = regWord s (dcs d o)) (fun _ => rfl) (fun _ _ _ h h' => h'.trans h)
      (fun a e => regWord_epochWrite hlt (.inl rfl) h838 ..) _ _

theorem regWord_clearStep (hle : d ≤ SP) (s : State) : regWord (clearStep s) (dcs d o) = regWord s (dcs d o) := by
  obtain ⟨ho, -⟩ := steady_hushed.1 _ hx
  have h : Hushed (clearRegs s (fun _ => true) (fun x => x = .s)) (clearStep s) :=
    (Hushed.foldl (Hushed.refl _) fun _ _ h => h.spillInForce).clearTokens.regSetBits
  exact (h d hle o ho).trans (regWord_clearPlane hd (steady_hushed.2 _ hx) (fun x hx => .inr (by simpa using hx)) ..)

theorem regWord_abortStep (hle : d ≤ SP) (s : State) (epoch : Nat → Nat) :
    regWord (abortStep s epoch) (dcs d o) = regWord s (dcs d o) := by
  obtain ⟨ho, -⟩ := steady_hushed.1 _ hx
  rw [abortStep_eq, regWord_congr (stepless_regs _), abortUnits, regWord_clearStep hd hx hle,
    dropWork_hushed _ d hle o ho, regWord_epochTiles hx, regWord_epochBridges hx hle]
  exact (Hushed.refl s).collectCoreFaults d hle o ho

omit hd hx

include hd hx in
theorem regWord_planeReset (hle : d ≤ SP) (s : State) : regWord (planeReset s) (dcs d o) = regWord s (dcs d o) := by
  obtain ⟨ho, -⟩ := steady_hushed.1 _ hx
  unfold planeReset
  extract_lets s₁ s₂ s₃
  have h₁ : regWord s₁ (dcs d o) = regWord s (dcs d o) := (Hushed.refl s).disarm d hle o ho
  have h₂ : regWord s₂ (dcs d o) = regWord s₁ (dcs d o) :=
    ((Hushed.refl _).endRun d hle o ho).trans (regWord_abortStep hd hx hle s₁ (epochOf s₁))
  have h₃ : regWord s₃ (dcs d o) = regWord s₂ (dcs d o) := regWord_clearPlane hd (steady_hushed.2 _ hx) (fun x hx => by simpa using hx) ..
  have h := h₃.trans (h₂.trans h₁)
  clear_value s₃
  exact (regWord_congr (s := s₃) rfl _).trans h

end

-- The end of a run -----------------------------------------------------------------------------------------------------

theorem runEnd_frame (s : State) (result fcode : Nat) :
    runEnd s result fcode = { s with regs := (runEnd s result fcode).regs, out := (runEnd s result fcode).out } := by
  unfold runEnd
  dsimp only
  generalize result + _ + _ = v
  obtain ⟨o, h, -⟩ := raiseIrq_eq (regPutNat s (dcs SP 0x200) v 2) 20
  rw [h, regPutNat_frame]

theorem endRun_frame (s : State) : endRun s = { s with plane := (endRun s).plane, regs := (endRun s).regs, out := (endRun s).out } := by
  unfold endRun
  split
  · rfl
  · rw [runEnd_frame]

/-- No token and no fault code of a step is left. -/
theorem stepAbort_stepless (s : State) (epoch : Nat → Nat) : (stepAbort s epoch).tokSent = [] ∧ (stepAbort s epoch).stepCodes = [] := by
  rw [stepAbort, endRun_frame, abortStep_eq]
  exact ⟨rfl, rfl⟩

/-- No plane is left. -/
def planeless (s : State) : State := { s with cores := [], image := none, plane := Plane.reset }

theorem planeReset_eq (s : State) : planeReset s =
    planeless (clearRegs (stepAbort (disarm s) (epochOf (disarm s))) (fun _ => true) (fun x => x = .p || x = .s)) := rfl

theorem planeless_clear {s : State} (dies : Nat → Bool) (q : Cls → Bool) (h : s.tokSent = [] ∧ s.stepCodes = []) :
    let t := planeless (clearRegs s dies q)
    t.cores = [] ∧ t.image = none ∧ t.plane = Plane.reset ∧ t.tokSent = [] ∧ t.stepCodes = [] := ⟨rfl, rfl, rfl, h⟩

theorem planeReset_cleared (s : State) : (planeReset s).cores = [] ∧ (planeReset s).image = none ∧ (planeReset s).plane = Plane.reset ∧
    (planeReset s).tokSent = [] ∧ (planeReset s).stepCodes = [] := by
  rw [planeReset_eq]
  exact planeless_clear _ _ (stepAbort_stepless _ _)

end Sys2Proof.Machine
end

section
/-! SUPPORT. Images in flash: what a container's own bytes decide, and what a region holds once it is programmed (15 R402, R409 to R411). -/
namespace Sys2Proof.Machine
open Sys2Proof.Safety Sys2Proof.Claims

-- Containers -----------------------------------------------------------------------------------------------------------

theorem slice_take (bs : List Byte) {n o k : Nat} (h : o + k ≤ n) : ((bs.take n).drop o).take k = (bs.drop o).take k := by
  rw [List.drop_take, List.take_take, Nat.min_eq_left (by omega)]

theorem fieldLE_take (bs : List Byte) {n o k : Nat} (h : o + k ≤ n) : fieldLE (bs.take n) o k = fieldLE bs o k :=
  congrArg natLE (slice_take bs h)

theorem sections_take {bs : List Byte} {n : Nat} (h : 0x100 + 16 * fieldLE bs 0x18 2 ≤ n) : sections (bs.take n) = sections bs := by
  rw [sections, sections, fieldLE_take bs (by omega)]
  refine List.map_congr_left fun i hi => ?_
  have hi : i < fieldLE bs 0x18 2 := (List.mem_range.mp hi).trans_le (Nat.min_le_right ..)
  simp only [fieldLE_take bs (show 0x100 + 16 * i + 2 ≤ n by omega), fieldLE_take bs (show 0x100 + 16 * i + 4 + 4 ≤ n by omega),
    fieldLE_take bs (show 0x100 + 16 * i + 8 + 4 ≤ n by omega)]

theorem sectionsOk_within {n : Nat} {l : List Section} (h : sectionsOk n l = true) : ∀ x ∈ l, x.off + x.len ≤ n := by
  induction l with
  | nil => exact fun _ hx => absurd hx List.not_mem_nil
  | cons x l ih =>
    simp only [sectionsOk, Bool.and_eq_true, decide_eq_true_eq] at h
    obtain ⟨⟨hx, -⟩, hl⟩ := h
    exact List.forall_mem_cons.mpr ⟨hx, ih hl⟩

/-- What the format of a container says of its length and its sections (15 R402). -/
structure Formed (size : Nat) (bs : List Byte) : Prop where
  magic : bs.take 4 = [0x4D, 0x51, 0x4E, 0x56]
  fits : containerLen bs ≤ size
  whole : containerLen bs ≤ bs.length
  table : 0x100 + 16 * fieldLE bs 0x18 2 ≤ containerLen bs
  within : ∀ x ∈ sections bs, x.off + x.len ≤ containerLen bs

theorem containerFormat_formed {kind size : Nat} {bs : List Byte} (h : containerFormat kind size bs = true) : Formed size bs := by
  simp only [containerFormat, Bool.and_eq_true, decide_eq_true_eq] at h
  obtain ⟨⟨⟨⟨⟨⟨⟨hmagic, -⟩, -⟩, hsize, hwhole, -, -, htable⟩, hok⟩, -⟩, -⟩, -⟩ := h
  exact ⟨hmagic, hsize, hwhole, htable, sectionsOk_within hok⟩

section
variable {size : Nat} {bs : List Byte} (h : Formed size bs)
include h

theorem sectionOf_take (ty : Nat) : sectionOf (bs.take (containerLen bs)) ty = sectionOf bs ty := by
  rw [sectionOf, sectionOf, sections_take h.table]
  cases hf : (sections bs).find? (fun x => x.type = ty) with
  | none => rfl
  | some x => exact congrArg some (slice_take bs (h.within x (List.mem_of_find?_eq_some hf)))

theorem containerLen_take : containerLen (bs.take (containerLen bs)) = containerLen bs := by
  have := h.table
  exact fieldLE_take bs (by omega)

theorem contentOk_take : contentOk (bs.take (containerLen bs)) = contentOk bs := by
  simp only [contentOk, sectionOf_take h]

theorem containerFormat_take (kind : Nat) : containerFormat kind size (bs.take (containerLen bs)) = containerFormat kind size bs := by
  have hwhole := h.whole
  have htable := h.table
  have hlen : (bs.take (containerLen bs)).length = containerLen bs := by rw [List.length_take, Nat.min_eq_left hwhole]
  simp only [containerFormat, containerLen_take h, contentOk_take h, sections_take htable, hlen, hwhole, le_refl,
    fieldLE_take bs (show 6 + 2 ≤ containerLen bs by omega), fieldLE_take bs (show 4 + 2 ≤ containerLen bs by omega),
    fieldLE_take bs (show 0x18 + 2 ≤ containerLen bs by omega), List.take_take, Nat.min_eq_left (show 4 ≤ containerLen bs by omega)]

theorem signerHash_take : signerHash (bs.take (containerLen bs)) = signerHash bs := by
  have := h.table
  rw [signerHash, signerHash, slice_take bs (by omega)]

theorem containerSigned_take : containerSigned (bs.take (containerLen bs)) = containerSigned bs := by
  have := h.table
  simp only [containerSigned, containerLen_take h, slice_take bs (show 0x100 + (containerLen bs - 0x100) ≤ containerLen bs by omega),
    slice_take bs (show 0x20 + 32 ≤ containerLen bs by omega), slice_take bs (show 0x40 + 64 ≤ containerLen bs by omega),
    slice_take bs (show 0x80 + 64 ≤ containerLen bs by omega), List.take_take,
    Nat.min_eq_left (show 0x80 ≤ containerLen bs by omega)]

/-- The bytes after a container do not count. -/
theorem userStatus_take (hsize : size = 0x4000000) (factory : List Byte) (a b : Nat) :
    userStatus factory a b (bs.take (containerLen bs)) = userStatus factory a b bs := by
  have := h.table
  subst hsize
  simp only [userStatus, sectionOf_take h, containerFormat_take h, signerHash_take h, containerSigned_take h,
    fieldLE_take bs (show 0x14 + 4 ≤ containerLen bs by omega), fieldLE_take bs (show 0x10 + 4 ≤ containerLen bs by omega)]

end

/-- A status of 0 is that of a container in form, whose version is not below the counter. -/
theorem userStatus_zero {factory bs : List Byte} {a b : Nat} (h : userStatus factory a b bs = 0) :
    Formed 0x4000000 bs ∧ a ≤ fieldLE bs 0x14 4 := by
  unfold userStatus at h
  dsimp only at h
  split at h
  · exact absurd h (by decide)
  · next hform =>
    split at h
    · exact absurd h (by decide)
    · split at h
      · exact absurd h (by decide)
      · split at h
        · exact absurd h (by decide)
        · next harb =>
          simp only [Bool.or_eq_true, Bool.not_eq_true', not_or, Bool.not_eq_false] at hform
          simp only [Bool.or_eq_true, decide_eq_true_eq, not_or] at harb
          exact ⟨containerFormat_formed hform.1, by omega⟩

-- Flash ----------------------------------------------------------------------------------------------------------------

theorem smGet_filter_key {α : Type} (d : α) (m : SMap α) (p : Nat → Bool) {k : Nat} (h : p k = true) :
    smGet d (m.filter fun e => p e.1) k = smGet d m k := by
  induction m with
  | nil => rfl
  | cons e m ih =>
    obtain ⟨j, v⟩ := e
    by_cases hj : j = k
    · subst hj
      rw [List.filter_cons_of_pos (p := fun e : Nat × α => p e.1) h, smGet, smGet, if_pos rfl, if_pos rfl]
    · rw [smGet, if_neg hj, ← ih, List.filter_cons]
      split
      · rw [smGet, if_neg hj]
      · rfl

theorem memByte_flashErase (m : Memory) {lo hi a : Nat} (h : a < lo) : memByte (flashErase m lo hi) a = memByte m a :=
  smGet_filter_key (k := a) _ m (fun k => decide (k < lo ∨ hi ≤ k)) (by simp [h])

theorem memRead_part (m : Memory) {n o k : Nat} (a : Nat) (h : o + k ≤ n) : memRead m (a + o) k = ((memRead m a n).drop o).take k := by
  induction n generalizing a o k with
  | zero =>
    obtain rfl : k = 0 := by omega
    rfl
  | succ n ih =>
    cases o with
    | succ o => rw [memRead, List.drop_succ_cons, ← ih (a + 1) (by omega), Nat.add_right_comm, Nat.add_assoc]
    | zero =>
      cases k with
      | zero => rfl
      | succ k =>
        have := ih (o := 0) (k := k) (a + 1) (by omega)
        rw [Nat.add_zero, List.drop_zero] at this ⊢
        rw [memRead, memRead, List.take_succ_cons, this]

theorem flashRead_flashWrite (m : Memory) (a : Nat) {bs : List Byte} {o k : Nat} (h : o + k ≤ bs.length) :
    flashRead (flashWrite m a bs) (a + o) k = (bs.drop o).take k := by
  have hall : memRead (flashWrite m a bs) a bs.length = bs.map (~~~ ·) := by
    rw [← List.length_map (as := bs) (f := (~~~ ·))]
    exact memRead_memWrite_same ..
  have hnot : ((~~~ ·) ∘ (~~~ ·) : Byte → Byte) = id := funext fun b => BitVec.not_not
  rw [flashRead, memRead_part _ a h, hall, ← List.map_drop, ← List.map_take, List.map_map, hnot, List.map_id]

@[simp] theorem flashRead_length (m : Memory) (a n : Nat) : (flashRead m a n).length = n := by
  rw [flashRead, List.length_map, memRead_length]

/-- The memory of a user region. -/
def regionMem (f : Flash) (r : Nat) : Memory := if r = 0 then f.fl0 else f.fl1

theorem regionMem_programRegion (f : Flash) (r : Nat) (bs : List Byte) :
    regionMem (programRegion f r bs) r = flashWrite (flashErase (regionMem f r) 0x2000000 0x6000000) 0x2000000 bs := by
  by_cases h : r = 0 <;> simp [regionMem, programRegion, eraseRegion, h]

/-- Programming a user region leaves what stands below it, and the array of counters. -/
theorem programRegion_below (f : Flash) (r : Nat) (bs : List Byte) : ∀ a < 0x2000000,
    memByte (programRegion f r bs).fl0 a = memByte f.fl0 a ∧ memByte (programRegion f r bs).fl1 a = memByte f.fl1 a := by
  intro a ha
  have h (m : Memory) : memByte (flashWrite (flashErase m 0x2000000 0x6000000) 0x2000000 bs) a = memByte m a :=
    (memByte_memWrite_out _ _ _ _ (.inl ha)).trans (memByte_flashErase m ha)
  by_cases hr : r = 0 <;> simp [programRegion, eraseRegion, hr, h]

section
variable {bs : List Byte} (h : Formed 0x4000000 bs)
include h

theorem take_length : (bs.take (containerLen bs)).length = containerLen bs := by rw [List.length_take, Nat.min_eq_left h.whole]

/-- A region programmed with a container reads as that container. -/
theorem flashContainer_programmed (m : Memory) :
    flashContainer (flashWrite m 0x2000000 (bs.take (containerLen bs))) 0x2000000 0x4000000 = bs.take (containerLen bs) := by
  have htable := h.table
  have hlen := take_length h
  have hn : natLE (flashRead (flashWrite m 0x2000000 (bs.take (containerLen bs))) (0x2000000 + 8) 8) = containerLen bs := by
    rw [flashRead_flashWrite _ _ (by omega)]
    exact containerLen_take h
  have hall := flashRead_flashWrite m 0x2000000 (bs := bs.take (containerLen bs)) (o := 0) (k := containerLen bs) (by omega)
  rw [Nat.add_zero, List.drop_zero, List.take_take, Nat.min_self] at hall
  rw [flashContainer, hn, if_pos h.fits, hall]

/-- A flash device that took the header inverted holds no container. -/
theorem containerFormat_failed (m : Memory) (kind : Nat) : containerFormat kind 0x4000000
    (flashContainer (flashWrite m 0x2000000 (programmed (bs.take (containerLen bs)) true)) 0x2000000 0x4000000) = false := by
  have htable := h.table
  have hlen := take_length h
  have hwhole := h.whole
  generalize hm : flashWrite m 0x2000000 _ = m'
  rw [Bool.eq_false_iff]
  intro hform
  obtain ⟨hmagic, -⟩ := containerFormat_formed hform
  rw [flashContainer] at hmagic
  generalize (if natLE (flashRead m' (0x2000000 + 8) 8) ≤ 0x4000000 then natLE (flashRead m' (0x2000000 + 8) 8) else 0x20) = k at hmagic
  have hk : 4 ≤ k := by
    have := congrArg List.length hmagic
    rw [List.length_take, flashRead_length] at this
    exact this.symm.le.trans (Nat.min_le_right 4 k)
  have hhead : flashRead m' 0x2000000 4 = (bs.take 4).map (~~~ ·) := by
    have hprog : programmed (bs.take (containerLen bs)) true =
        ((bs.take (containerLen bs)).take 256).map (~~~ ·) ++ (bs.take (containerLen bs)).drop 256 := rfl
    have := flashRead_flashWrite m 0x2000000 (bs := programmed (bs.take (containerLen bs)) true) (o := 0) (k := 4)
      (by rw [hprog, List.length_append, List.length_map, List.length_take, List.length_drop]; omega)
    rw [hm, Nat.add_zero, List.drop_zero, hprog, List.take_append_of_le_length (by rw [List.length_map, List.length_take]; omega),
      ← List.map_take, List.take_take, List.take_take] at this
    rw [this, Nat.min_eq_left (show 4 ≤ 256 by decide), Nat.min_eq_left (show 4 ≤ containerLen bs by omega)]
  have hpart : flashRead m' 0x2000000 4 = (flashRead m' 0x2000000 k).take 4 := by
    rw [flashRead, flashRead, ← List.map_take]
    exact congrArg _ (memRead_part m' (o := 0) 0x2000000 (by omega))
  rw [hpart, hmagic, h.magic] at hhead
  exact absurd hhead (by decide)

end

end Sys2Proof.Machine
end

section
/-! SUPPORT. RESET and UPDATE_IMAGE (14 R390; 15 R409 to R411; 16 R425, R426). -/
namespace Sys2Proof.Machine
open Sys2Proof.Safety Sys2Proof.Claims

@[simp] theorem respond_tokSent (s : State) (n : Nat) (a : Answer) : (respond s n a).tokSent = s.tokSent := by rw [respond_frame]; rfl
@[simp] theorem respond_stepCodes (s : State) (n : Nat) (a : Answer) : (respond s n a).stepCodes = s.stepCodes := by
  rw [respond_frame]
  rfl

-- RESET ----------------------------------------------------------------------------------------------------------------

theorem regBits_resetDone (s : State) (code : Nat) (h : code < 8) : regBits (resetDone s code) (dcs SP 0x20) 2 0 =
    if causeWidth (regBits s (dcs SP 0x20) 2 0) ≤ causeWidth code then code else regBits s (dcs SP 0x20) 2 0 := by
  unfold resetDone
  split
  · exact (regBits_regSetBits_same ..).trans (Nat.mod_eq_of_lt h)
  · rfl

theorem regBits_planeReset (s : State) : regBits (planeReset s) (dcs SP 0x20) 2 0 = regBits s (dcs SP 0x20) 2 0 :=
  regBits_of_word (regWord_planeReset (k := .soundpost) rfl (by decide) le_rfl s) _ (by decide)

/-- A reset of the plane, and its cause, as RESET leaves them. -/
def planeWasReset (s : State) : State := resetDone (planeReset s) 4

theorem planeWasReset_works (s : State) : Works s (planeWasReset s) :=
  (Works.refl s).planeReset.trans (.of_records (resetDone_records ..))

/-- What a reset of the plane leaves, with its cause. -/
theorem planeWasReset_cleared (s : State) : let u := planeWasReset s
    u.cores = [] ∧ u.image = none ∧ u.plane = Plane.reset ∧ u.tokSent = [] ∧ u.stepCodes = [] ∧
    regBits u (dcs SP 0x20) 2 0 =
      (if causeWidth (regBits s (dcs SP 0x20) 2 0) ≤ causeWidth 4 then 4 else regBits s (dcs SP 0x20) 2 0) := by
  obtain ⟨hcores, himage, hplane, htok, hcodes⟩ := planeReset_cleared s
  have hbits := regBits_planeReset s
  unfold planeWasReset
  generalize planeReset s = v at *
  have hframe : resetDone v 4 = { v with regs := (resetDone v 4).regs } := by
    unfold resetDone
    split
    · exact regSetBits_frame ..
    · rfl
  rw [← hbits, ← regBits_resetDone v 4 (by decide), hframe]
  exact ⟨hcores, himage, hplane, htok, hcodes, rfl⟩

theorem resetPlane_resets {s : State} {n : Nat} (h : Taken s n 0x601) : ∃ t, exec (.resetPlane n) s = .next t ∧ answers s t n 0 0 [] ∧
    t.cores = [] ∧ t.image = none ∧ t.plane = Plane.reset ∧ t.tokSent = [] ∧ t.stepCodes = [] ∧ t.flash = s.flash ∧
    regBits t (dcs SP 0x20) 2 0 =
      (if causeWidth (regBits s (dcs SP 0x20) 2 0) ≤ causeWidth 4 then 4 else regBits s (dcs SP 0x20) 2 0) := by
  have hn := h.box
  obtain ⟨u, hu⟩ : ∃ u, planeWasReset s = u := ⟨_, rfl⟩
  have hworks := planeWasReset_works s
  obtain ⟨hcores, himage, hplane, htok, hcodes, hcause⟩ := planeWasReset_cleared s
  rw [hu] at hworks hcores himage hplane htok hcodes hcause
  have hbox : (mbx u n).mem = (mbx s n).mem := by rw [mbx, mbx, hworks.mbx]
  obtain ⟨ht, ha⟩ := mbxCmd_answers (t := u) (a := .st stOK) (f := fun s => (resetDone (planeReset s) 4, .st stOK)) h
    (by rw [← hu, planeWasReset]) hbox (by rw [hworks.exec])
  refine ⟨_, ht, ha, by rw [respond_cores, hcores], by rw [respond_image, himage], by rw [respond_plane, hplane],
    by rw [respond_tokSent, htok], by rw [respond_stepCodes, hcodes], by rw [respond_flash, hworks.flash], ?_⟩
  rw [regBits_respond _ hn _ (.inr (by decide)), hcause]
  left
  unfold mbxCtl dcs SP
  omega

/-- The mask of one link names that Bridge alone. -/
theorem filter_oneLink {s : State} {m d : Nat} (hd : isBridge d = true) (hl : dieLive s d = true) (hm : m % 2 ^ 36 = 2 ^ (d - 64)) :
    (bridgeDies.filter (dieLive s)).filter (fun e => bitAt m (e - 64)) = [d] := by
  obtain ⟨h64, h100⟩ := bounds_of_isBridge hd
  have hbit : ∀ i < 36, bitAt m i = decide (i = d - 64) := by
    intro i hi
    have : m.testBit i = (2 ^ (d - 64)).testBit i := by rw [← hm, Nat.testBit_mod_two_pow, decide_eq_true hi, Bool.true_and]
    rw [Nat.testBit_two_pow, Nat.testBit_eq_decide_div_mod_eq] at this
    rw [bitAt, Nat.shiftRight_eq_div_pow, this]
    exact decide_eq_decide.mpr eq_comm
  have hmem : d ∈ bridgeDies := List.mem_map.mpr ⟨d - 64, List.mem_range.mpr (by omega), by omega⟩
  have hnodup : bridgeDies.Nodup := by decide
  rw [List.filter_filter, List.filter_congr (q := fun e => e == d), List.filter_beq, List.count_eq_one_of_mem hnodup hmem]
  · rfl
  · intro e he
    obtain ⟨i, hi, rfl⟩ := List.mem_map.mp he
    have hi := List.mem_range.mp hi
    rw [Nat.add_sub_cancel, hbit i hi]
    by_cases he : i + 64 = d
    · subst he
      simp [hl]
    · simp [he, show i ≠ d - 64 by omega]

-- RESET of a link ------------------------------------------------------------------------------------------------------

namespace BridgesOnly
variable {s t u : State}

theorem refl (s : State) : BridgesOnly s s := rfl

theorem ite {c : Prop} [Decidable c] (h : BridgesOnly s t) (h' : BridgesOnly s u) : BridgesOnly s (if c then t else u) := by
  split <;> assumption

theorem foldl {α : Type} {f : State → α → State} (h : ∀ a x, BridgesOnly a (f a x)) (l : List α) (s : State) :
    BridgesOnly s (l.foldl f s) := foldl_keeps refl (fun _ _ _ => trans) h l s

theorem modBridge (s : State) (d : Nat) (f : Bridge → Bridge) : BridgesOnly s (modBridge s d f) := rfl

theorem setLines (s : State) (d : Nat) (ls : List Nat) : BridgesOnly s (setLines s d ls) := (modBridge ..).trans (regSetBits ..)

theorem poolAdd (s : State) (d p : Nat) (k : ℤ) : BridgesOnly s (poolAdd s d p k) := .ite (refl s) (regSetBits ..)

theorem restQueues (s : State) : BridgesOnly s (restQueues s) := by
  have hvoqs (a : State) (d : Nat) : BridgesOnly a (restVoqs a d) := .foldl (fun _ _ => .ite (modBridge ..) (refl _)) _ a
  have hsched (a : State) (d o : Nat) : BridgesOnly a (restSched a d o) := by
    unfold restSched
    extract_lets x gone y z t
    have ht : BridgesOnly a t := modBridge ..
    clear_value t
    split
    · exact refl a
    · split
      · refine ht.trans ?_
        unfold BridgesOnly
        rw [regPutNat_frame]
      · exact ht
  exact .trans (.foldl hvoqs _ s) (.foldl (fun a b => .foldl (fun _ _ => hsched ..) _ a) _ _)

theorem dropFlight (s : State) (d o : Nat) (gone : InFlight → Bool) : BridgesOnly s (dropFlight s d o gone) := by
  refine .trans (modBridge ..) (.foldl (fun b i => ?_) _ _)
  have hcredit : BridgesOnly b (if o < 36 then
      Machine.modLink b d (fun l => { l with credits := l.credits.modify (i.q % 12) (· + i.flits) }) else b) := .ite (modBridge ..) (refl b)
  cases i.rsv with
  | some p => exact hcredit.trans (poolAdd ..)
  | none => exact hcredit

theorem dropFlights (s : State) (gone : InFlight → Bool) : BridgesOnly s (dropFlights s gone) :=
  .foldl (fun a _ => .foldl (fun _ _ => dropFlight ..) _ a) _ s

theorem dropLinkRx (s : State) (d : Nat) : BridgesOnly s (dropLinkRx s d) := by
  unfold Machine.dropLinkRx
  dsimp only
  exact .trans ((dropFlights ..).trans (.ite (refl _) (setLines ..))) (modBridge ..)

theorem linkReset {d : Nat} (h : linkState s d ≠ lsUP) : BridgesOnly s (linkReset s d) := by
  unfold Machine.linkReset
  rw [if_neg h]
  have hclear (a : State) : BridgesOnly a (clearL a d false) := rfl
  exact .trans (.trans (.trans (dropLinkRx s d) (modBridge ..)) ((restQueues _).trans (hclear _))) (regSetBits ..)

theorem mbx (h : BridgesOnly s t) (n : Nat) : mbx t n = mbx s n := by rw [Machine.mbx, Machine.mbx, h]

end BridgesOnly

/-- A response leaves the registers below those of the management dies. -/
theorem regWord_respond (s : State) {n : Nat} (hn : n < 16) (a : Answer) {b : Nat} (hb : b < dcs APL 0) :
    regWord (respond s n a) b = regWord s b := by
  have hbits := regBits_respond (s := s) a hn (b := b) (hi := 31) (lo := 0) (.inl (by unfold mbxCtl dcs SP APL at *; omega))
    (.inl (by unfold dcs APL at *; omega))
  have hword (t : State) : regBits t b 31 0 = (regWord t b).toNat := by
    have := (regWord t b).isLt
    simp only [regBits, bitsOf, regNat]
    omega
  rw [hword, hword] at hbits
  exact BitVec.eq_of_toNat_eq hbits

theorem resetLink_resets {s : State} {n d : Nat} (h : Taken s n 0x602) (hd : isBridge d = true) (hl : dieLive s d = true)
    (hup : linkState s d ≠ lsUP) (hm : reqPay s n 8 8 % 2 ^ 36 = 2 ^ (d - 64)) :
    ∃ t, exec (.resetLink n) s = .next t ∧ answers s t n 0 0 [] ∧ (bridge t d).link = freshLink s d ∧ linkState t d = trainState t d ∧
      (∀ e ∈ (bridge t d).recv, e.port = .localPort) ∧ t.cores = s.cores := by
  have hn := h.box
  obtain ⟨-, h100⟩ := bounds_of_isBridge hd
  have honly := BridgesOnly.linkReset (s := s) hup
  obtain ⟨htrain, hrecv⟩ := linkReset_trains hd hup
  have hone : ((bridgeDies.filter (dieLive s)).filter (fun e => bitAt (reqPay s n 8 8) (e - 64))).foldl linkReset s = linkReset s d := by
    rw [filter_oneLink hd hl hm]
    rfl
  generalize linkReset s d = u at *
  obtain ⟨ht, ha⟩ := mbxCmd_answers (t := u) (a := .st stOK) (f := fun s => let m := reqPay s n 8 8
      (((bridgeDies.filter (dieLive s)).filter (fun d => bitAt m (d - 64))).foldl linkReset s, .st stOK)) h
    (congrArg (·, _) hone) (congrArg _ (honly.mbx n)) (by rw [honly])
  have hlow (o : Nat) (ho : o < 0x100) : regWord (respond u n (.st stOK)) (dcs d o) = regWord u (dcs d o) :=
    regWord_respond u hn _ (by unfold dcs APL; omega)
  have hkeep : KeepsConfig d u (respond u n (.st stOK)) := ⟨fun o ho => hlow o (configOffsets_low o ho).1⟩
  have hstate : linkState (respond u n (.st stOK)) d = linkState u d := regBits_of_word (hlow _ (by decide)) _ (by decide)
  have hbridge : bridge (respond u n (.st stOK)) d = bridge u d := bridge_congr (respond_bridges ..) d
  refine ⟨_, ht, ha, by rw [hbridge, htrain.link], by rw [hstate, htrain.state, hkeep.trainState hd], by rw [hbridge]; exact hrecv, ?_⟩
  rw [respond_cores, honly]

theorem resetDevice_due {s : State} {n : Nat} (h : Taken s n 0x600) : ∃ t, exec (.resetDevice n) s = .next t ∧ answers s t n 0 0 [] ∧
    t.due = some (.command n) ∧ t.cores = s.cores ∧ t.plane = s.plane ∧ t.image = s.image := by
  obtain ⟨ht, ha⟩ := mbxCmd_answers (t := { s with due := some (.command n) }) (a := .st stOK)
    (f := fun s => ({ s with due := some (.command n) }, .st stOK)) h rfl rfl rfl
  exact ⟨_, ht, ha, respond_due .., respond_cores .., respond_plane .., respond_image ..⟩

-- UPDATE_IMAGE ---------------------------------------------------------------------------------------------------------

/-- The module once the host has been asked for the image. -/
def imageRead (s : State) (n : Nat) : State := emit s (.hostRead (reqPay s n 8 8) (reqPay s n 16 8))

/-- The module once the region has been programmed. -/
def regionProgrammed (s : State) (r : Nat) (img : List Byte) : State :=
  { s with flash := programRegion s.flash r (programmed (img.take (containerLen img)) (Config.flashFails s.free)), free := s.free + 1 }

/-- One update more is counted. -/
def updateCounted (s : State) : State :=
  { s with flash := { s.flash with rpa := { s.flash.rpa with updates := s.flash.rpa.updates + 1 }.written } }

/-- The status of an image under the versions in use. -/
abbrev bootStatus (s : State) (bs : List Byte) : Nat := userStatus s.booted.factory s.flash.rpa.userArb s.flash.rpa.fwArb bs

section
variable {s : State} {n : Nat} {img : List Byte} (hr : reqPay s n 1 1 ≤ 1) (ha : reqPay s n 8 8 % 64 = 0)
  (hu : ∀ u, s.booted.user = some u → u.1 ≠ reqPay s n 1 1)
include hr ha hu

theorem updateWrite_eq : updateWrite s n (some img) =
    if bootStatus s img ≠ 0 then (imageRead s n, .st (bootStatus s img))
    else if bootStatus (regionProgrammed (imageRead s n) (reqPay s n 1 1) img)
        (userRegion (regionProgrammed (imageRead s n) (reqPay s n 1 1) img) (reqPay s n 1 1)) ≠ 0 then
      (regionProgrammed (imageRead s n) (reqPay s n 1 1) img, .st 0x55)
    else (updateCounted (regionProgrammed (imageRead s n) (reqPay s n 1 1) img), .st stOK) := by
  have huser : s.booted.user.any (fun u => u.1 = reqPay s n 1 1) = false := by
    cases h : s.booted.user with
    | none => rfl
    | some u => simpa using hu u h
  unfold updateWrite
  dsimp only
  rw [if_neg (by omega), if_neg (by rw [huser]; decide)]
  rfl

end

theorem regionMem_eq (s : State) (r : Nat) : userRegion s r = flashContainer (regionMem s.flash r) 0x2000000 0x4000000 := rfl

/-- A region programmed with an image that would boot holds it, unless the flash device did not take the header (log 50). -/
theorem regionProgrammed_status {s : State} {r : Nat} {img : List Byte} (h : bootStatus s img = 0) :
    bootStatus (regionProgrammed s r img) (userRegion (regionProgrammed s r img) r) = 0 ↔ Config.flashFails s.free = false := by
  obtain ⟨hformed, -⟩ := userStatus_zero h
  have hrpa : (regionProgrammed s r img).flash.rpa = s.flash.rpa := programRegion_rpa ..
  rw [bootStatus, hrpa, regionMem_eq, show (regionProgrammed s r img).flash = programRegion s.flash r _ from rfl,
    regionMem_programRegion]
  cases hf : Config.flashFails s.free with
  | false =>
    rw [show programmed (img.take (containerLen img)) false = img.take (containerLen img) from rfl, flashContainer_programmed hformed]
    exact iff_of_true ((userStatus_take hformed rfl ..).trans h) rfl
  | true =>
    refine iff_of_false (fun h0 => ?_) (by simp)
    have hfmt := containerFormat_failed hformed (flashErase (regionMem s.flash r) 0x2000000 0x6000000) 2
    unfold userStatus at h0
    dsimp only at h0
    rw [hfmt] at h0
    exact absurd h0 (by simp)

section
variable {s : State} {n : Nat} {img : List Byte} (h : Taken s n 0x701) (hr : reqPay s n 1 1 ≤ 1) (ha : reqPay s n 8 8 % 64 = 0)
  (hu : ∀ u, s.booted.user = some u → u.1 ≠ reqPay s n 1 1) (hl : img.length = reqPay s n 16 8)
include h hr ha hu hl

omit hr ha hu in
/-- UPDATE_IMAGE answers with what its own function gives. -/
theorem updateImageWrite_answers {t : State} {a : Answer} (hf : updateWrite s n (some img) = (t, a)) (hm : t.mbx = s.mbx)
    (hq : t.exec = s.exec) (hs : a.status < 2 ^ 16) (hd : a.detail = 0) (hn : a.data = []) :
    exec (.updateImageWrite n (some img)) s = .next (respond t n a) ∧ answers s (respond t n a) n a.status 0 [] := by
  obtain ⟨ht, hans⟩ := mbxCmd_answers (f := fun s => updateWrite s n (some img)) h hf (by rw [mbx, mbx, hm]) (by rw [hq]) hs
    (by rw [hd]; decide) (by rw [hn]; decide)
  rw [hd, hn] at hans
  refine ⟨?_, hans⟩
  rw [← ht]
  change execUpdateImageWrite n (some img) s = _
  rw [execUpdateImageWrite, if_neg (by simp [hl])]

theorem updateImageWrite_refuses (hx : bootStatus s img ≠ 0) : ∃ t, exec (.updateImageWrite n (some img)) s = .next t ∧ t.flash = s.flash ∧
    answers s t n (bootStatus s img) 0 [] := by
  have hlt : bootStatus s img < 2 ^ 16 := by
    unfold bootStatus userStatus
    dsimp only
    repeat' split
    all_goals decide
  obtain ⟨ht, hans⟩ := updateImageWrite_answers h hl ((updateWrite_eq hr ha hu).trans (if_pos hx)) rfl rfl hlt rfl rfl
  exact ⟨_, ht, respond_flash .., hans⟩

theorem updateImageWrite_writes (hx : bootStatus s img = 0) : ∃ t, exec (.updateImageWrite n (some img)) s = .next t ∧
    if Config.flashFails s.free = true then
      answers s t n 0x55 0 [] ∧ t.flash.rpa = s.flash.rpa ∧ bootStatus s (userRegion t (reqPay s n 1 1)) ≠ 0
    else answers s t n 0 0 [] ∧
      flashRead (if reqPay s n 1 1 = 0 then t.flash.fl0 else t.flash.fl1) 0x2000000 (containerLen img) = img.take (containerLen img) ∧
      (∀ a < 0x2000000, memByte t.flash.fl0 a = memByte s.flash.fl0 a ∧ memByte t.flash.fl1 a = memByte s.flash.fl1 a) ∧
      t.flash.rpa = { s.flash.rpa with updates := s.flash.rpa.updates + 1 }.written := by
  have heq := (updateWrite_eq (img := img) hr ha hu).trans (if_neg (not_not.mpr hx))
  have hstatus : bootStatus (regionProgrammed (imageRead s n) (reqPay s n 1 1) img)
      (userRegion (regionProgrammed (imageRead s n) (reqPay s n 1 1) img) (reqPay s n 1 1)) = 0 ↔ Config.flashFails s.free = false :=
    regionProgrammed_status (s := imageRead s n) hx
  obtain ⟨hformed, -⟩ := userStatus_zero hx
  have hrpa : (regionProgrammed (imageRead s n) (reqPay s n 1 1) img).flash.rpa = s.flash.rpa := programRegion_rpa ..
  have hbelow := programRegion_below s.flash (reqPay s n 1 1) (programmed (img.take (containerLen img)) (Config.flashFails s.free))
  have hregion := regionMem_programRegion s.flash (reqPay s n 1 1) (programmed (img.take (containerLen img)) (Config.flashFails s.free))
  cases hfail : Config.flashFails s.free with
  | true =>
    have hne := mt hstatus.mp (by simp [hfail])
    obtain ⟨ht, hans⟩ := updateImageWrite_answers h hl (heq.trans (if_pos hne)) rfl rfl (by decide) rfl rfl
    refine ⟨_, ht, (if_pos rfl).mpr ⟨hans, by rw [respond_flash, hrpa], ?_⟩⟩
    rw [bootStatus, hrpa] at hne
    rw [userRegion, respond_flash]
    exact hne
  | false =>
    have hzero := hstatus.mpr hfail
    obtain ⟨ht, hans⟩ := updateImageWrite_answers h hl (heq.trans (if_neg (not_not.mpr hzero))) rfl rfl (by decide) rfl rfl
    refine ⟨_, ht, (if_neg (by simp)).mpr ⟨hans, ?_, ?_, ?_⟩⟩
    · rw [respond_flash]
      change flashRead (regionMem (programRegion s.flash (reqPay s n 1 1)
        (programmed (img.take (containerLen img)) (Config.flashFails s.free))) (reqPay s n 1 1)) (0x2000000 + 0) _ = _
      rw [hregion, hfail]
      refine (flashRead_flashWrite _ _ (by rw [Nat.zero_add]; exact (take_length hformed).ge)).trans ?_
      rw [List.drop_zero]
      exact (List.take_take ..).trans (by rw [Nat.min_self])
    · rw [respond_flash]
      exact hbelow
    · rw [respond_flash, ← hrpa]
      rfl

end

-- Activation and commit ------------------------------------------------------------------------------------------------

/-- The function of UPDATE_IMAGE's ACTIVATE. -/
def activate (s : State) (n : Nat) : State × Answer :=
  let r := reqPay s n 1 1
  if 1 < r then (s, .st stBAD_LEN)
  else if bootStatus s (userRegion s r) ≠ 0 then (s, .st 0x56)
  else ({ s with flash := { s.flash with rpa := { s.flash.rpa with active := r }.written } }, .st stOK)

theorem updateImageActivate_eq (s : State) (n : Nat) : execUpdateImageActivate n s = mbxCmd n 0x702 s fun s => activate s n := rfl

theorem updateImageActivate_names {s : State} {n : Nat} (h : Taken s n 0x702) (hr : reqPay s n 1 1 ≤ 1) :
    let x := bootStatus s (userRegion s (reqPay s n 1 1))
    ∃ t, exec (.updateImageActivate n) s = .next t ∧ answers s t n (if x = 0 then 0 else 0x56) 0 [] ∧
      t.flash = (if x = 0 then { s.flash with rpa := { s.flash.rpa with active := reqPay s n 1 1 }.written } else s.flash) := by
  intro x
  have hgo : ¬ 1 < reqPay s n 1 1 := by omega
  by_cases hx : x = 0
  · have hf : activate s n = ({ s with flash := { s.flash with rpa := { s.flash.rpa with active := reqPay s n 1 1 }.written } },
        .st stOK) := (if_neg hgo).trans (if_neg (not_not.mpr hx))
    obtain ⟨ht, ha⟩ := mbxCmd_answers (f := fun s => activate s n) h hf rfl rfl
    rw [if_pos hx, if_pos hx]
    exact ⟨_, (updateImageActivate_eq s n).trans ht, ha, respond_flash ..⟩
  · have hf : activate s n = (s, .st 0x56) := (if_neg hgo).trans (if_pos hx)
    obtain ⟨ht, ha⟩ := mbxCmd_answers (f := fun s => activate s n) h hf rfl rfl
    rw [if_neg hx, if_neg hx]
    exact ⟨_, (updateImageActivate_eq s n).trans ht, ha, respond_flash ..⟩

/-- The firmware's counter once its package is in use (15 R411). -/
def raisedFw (s : State) : Nat :=
  match s.booted.fwPkg with
  | some p => max s.flash.rpa.fwArb (fieldLE p 0x14 4)
  | none => s.flash.rpa.fwArb

/-- The flash once the counters have risen. -/
def raisedFlash (s : State) (bs : List Byte) : Flash :=
  { s.flash with rpa := { s.flash.rpa with userArb := max s.flash.rpa.userArb (fieldLE bs 0x14 4), fwArb := raisedFw s }.written }

/-- The function of UPDATE_IMAGE's COMMIT. -/
def commit (s : State) (n : Nat) : State × Answer :=
  if 1 < reqPay s n 1 1 then (s, .st stBAD_LEN)
  else match s.booted.user with
    | none => (s, .st 0x57)
    | some (_, bs) => (regPutNat { s with flash := raisedFlash s bs } (dcs SP 0x18)
        (max s.flash.rpa.userArb (fieldLE bs 0x14 4) + raisedFw s <<< 32) 2, .st stOK)

theorem updateImageCommit_eq (s : State) (n : Nat) : execUpdateImageCommit n s = mbxCmd n 0x703 s fun s => commit s n := rfl

theorem updateImageCommit_raises {s : State} {n : Nat} (h : Taken s n 0x703) (hr : reqPay s n 1 1 ≤ 1) {u : Nat × List Byte}
    (hu : s.booted.user = some u) :
    ∃ t, exec (.updateImageCommit n) s = .next t ∧ answers s t n 0 0 [] ∧ t.flash = raisedFlash s u.2 := by
  have hf : commit s n = (regPutNat { s with flash := raisedFlash s u.2 } (dcs SP 0x18)
      (max s.flash.rpa.userArb (fieldLE u.2 0x14 4) + raisedFw s <<< 32) 2, .st stOK) := by
    unfold commit
    rw [if_neg (by omega), hu]
  generalize hv : max s.flash.rpa.userArb (fieldLE u.2 0x14 4) + raisedFw s <<< 32 = v at hf
  have hput : RecordsOnly { s with flash := raisedFlash s u.2 } (regPutNat { s with flash := raisedFlash s u.2 } (dcs SP 0x18) v 2) :=
    (RecordsOnly.refl _).regPutNat ..
  generalize regPutNat { s with flash := raisedFlash s u.2 } (dcs SP 0x18) v 2 = t at *
  have hmbx : t.mbx = s.mbx := by rw [hput]
  have hexec : t.exec = s.exec := by rw [hput]
  have hflash : t.flash = raisedFlash s u.2 := by rw [hput]
  obtain ⟨ht, ha⟩ := mbxCmd_answers (f := fun s => commit s n) h hf (by rw [mbx, mbx, hmbx]) (by rw [hexec])
  exact ⟨_, (updateImageCommit_eq s n).trans ht, ha, (respond_flash ..).trans hflash⟩

theorem updateImageCommit_none {s : State} {n : Nat} (h : Taken s n 0x703) (hr : reqPay s n 1 1 ≤ 1) (hu : s.booted.user = none) :
    ∃ t, exec (.updateImageCommit n) s = .next t ∧ answers s t n 0x57 0 [] ∧ t.flash = s.flash := by
  have hf : commit s n = (s, .st 0x57) := by
    unfold commit
    rw [if_neg (by omega), hu]
  obtain ⟨ht, ha⟩ := mbxCmd_answers (f := fun s => commit s n) h hf rfl rfl
  exact ⟨_, (updateImageCommit_eq s n).trans ht, ha, respond_flash ..⟩

/-- Settles O46: the resets through their frames; an image by the bytes of its container. -/
theorem resetAndUpdateCommandsComplete : Obligations.ResetAndUpdateCommandsComplete := by
  refine ⟨fun s n => resetDevice_due, fun s n => resetPlane_resets, fun s n d h hd hl hup hm => resetLink_resets h hd hl hup hm,
    fun s n img h => ?write,
    fun s n => updateImageActivate_names, fun s n h hr => ⟨fun u hu => ?_, fun bs hlt h0 => ?_, updateImageCommit_none h hr⟩⟩
  case write =>
    intro r hr ha hu hl
    exact ⟨updateImageWrite_writes h hr ha hu hl, updateImageWrite_refuses h hr ha hu hl⟩
  · obtain ⟨t, ht, ha, hflash⟩ := updateImageCommit_raises h hr hu
    exact ⟨t, ht, ha, by rw [hflash]; rfl, by rw [hflash]; rfl, by rw [hflash]; rfl⟩
  · obtain ⟨-, hle⟩ := userStatus_zero h0
    omega

end Sys2Proof.Machine
end

section
/-! SUPPORT. LAUNCH, PAUSE, CONTINUE and ABORT_STEP (13 R349, R351, R352; 14 R387, R388). -/
namespace Sys2Proof.Machine
open Sys2Proof.Safety Sys2Proof.Claims

-- Every core changed ---------------------------------------------------------------------------------------------------

theorem mem_smSet {α : Type} [DecidableEq α] {d : α} {m : SMap α} {k : Nat} {v : α} {e : Nat × α} (h : e ∈ smSet d m k v) :
    e = (k, v) ∨ e ∈ m ∧ e.1 ≠ k := by
  unfold smSet at h
  split at h
  · exact .inr (mem_smErase _ _ _ h)
  · exact ((mem_smInsert _ _ _ _).mp h).imp id (mem_smErase _ _ _)

/-- Every listed core of a module whose cores have all changed is a changed core. -/
theorem mem_mapCores {s : State} {f : Nat → Core → Core} {Q : Core → Prop} (hf : ∀ c k, Q (f c k)) :
    ∀ e ∈ (mapCores s f).cores, Q e.2 := by
  suffices go : ∀ (es : SMap Core) (a : State), (∀ e ∈ a.cores, Q e.2 ∨ ∃ x ∈ es, x.1 = e.1) →
      ∀ e ∈ (es.foldl (fun a e => setCore a e.1 (f e.1 e.2)) a).cores, Q e.2 from
    go s.cores s fun e he => .inr ⟨e, he, rfl⟩
  intro es
  induction es with
  | nil => exact fun a h e he => (h e he).resolve_right (by simp)
  | cons x es ih =>
    refine fun a h => ih _ fun e he => ?_
    rcases mem_smSet he with rfl | ⟨he, hne⟩
    · exact .inl (hf ..)
    · refine (h e he).imp id fun ⟨y, hy, hye⟩ => ?_
      rcases List.mem_cons.mp hy with rfl | hy
      · exact absurd hye.symm hne
      · exact ⟨y, hy, hye⟩

-- Units ----------------------------------------------------------------------------------------------------------------

namespace BridgesOnly
variable {s t u : State}

theorem brgCount (s : State) (d n k : Nat) : BridgesOnly s (brgCount s d n k) := regCount ..

theorem freeTail (s : State) (d : Nat) (x : Spilled) : BridgesOnly s (freeTail s d x) := .ite (refl s) (setLines ..)

theorem dropRx (s : State) (d : Nat) (e : RxEntry) : BridgesOnly s (dropRx s d e) := by
  have hcredits (a : State) : BridgesOnly a (returnCredits a d e) := by
    unfold returnCredits
    split
    · exact modBridge ..
    · exact refl a
  unfold Machine.dropRx
  dsimp only
  split
  · exact ((modBridge ..).trans (hcredits _)).trans (poolAdd ..)
  · exact (modBridge ..).trans (hcredits _)

theorem discardVoq (s : State) (d q : Nat) : BridgesOnly s (discardVoq s d q) := by
  unfold Machine.discardVoq
  extract_lets v s₁ s₂ s₃ s₄
  have h₁ : BridgesOnly s s₁ := modBridge ..
  have h₂ : BridgesOnly s₁ s₂ := by
    unfold s₂
    split
    · exact poolAdd ..
    · exact refl _
  have h₃ : BridgesOnly s₂ s₃ := .foldl (fun _ _ => poolAdd ..) _ _
  have h₄ : BridgesOnly s₃ s₄ := by
    refine .foldl (fun a x => .trans ?_ (freeTail ..)) _ _
    split
    · exact poolAdd ..
    · exact refl a
  exact .ite (refl s) ((h₁.trans (h₂.trans (h₃.trans h₄))).trans (brgCount ..))

theorem discardFrames (s : State) (d : Nat) : BridgesOnly s (discardFrames s d) := by
  unfold Machine.discardFrames
  extract_lets s₁ b gone s₂ s₃ s₄ sp s₅
  have h₂ : BridgesOnly s s₂ := (dropFlights ..).trans (.foldl (fun _ _ => dropRx ..) _ _)
  have h₄ : BridgesOnly s₂ s₄ := (brgCount ..).trans (.foldl (fun _ _ => discardVoq ..) _ _)
  exact (h₂.trans h₄).trans ((ite (refl _) (setLines ..)).trans (modBridge ..))

theorem epochBridge (s : State) (d v : Nat) : BridgesOnly s (epochBridge s d v) := by
  have hretry (a : State) : BridgesOnly a (discardRetry a d) := (modBridge ..).trans (brgCount ..)
  exact ((regSetBits ..).trans (discardFrames ..)).trans (hretry _)

end BridgesOnly

/-- `t` differs from `s` in registers, Bridges and tiles alone. -/
def UnitsOnly (s t : State) : Prop := t = { s with regs := t.regs, bridges := t.bridges, tiles := t.tiles }

namespace UnitsOnly
variable {s t u : State}

theorem refl (s : State) : UnitsOnly s s := rfl
theorem trans (h : UnitsOnly s t) (h' : UnitsOnly t u) : UnitsOnly s u := by
  unfold UnitsOnly at h h' ⊢
  rw [h', h]
theorem of_bridges (h : BridgesOnly s t) : UnitsOnly s t := by
  unfold BridgesOnly at h
  unfold UnitsOnly
  rw [h]
theorem of_stages {d : Nat} (h : StagesOnly d s t) : UnitsOnly s t := h.rest
theorem foldl {α : Type} {f : State → α → State} (h : ∀ a x, UnitsOnly a (f a x)) (l : List α) (s : State) :
    UnitsOnly s (l.foldl f s) := foldl_keeps refl (fun _ _ _ => trans) h l s
theorem regSetBits (s : State) (a hi lo x : Nat) : UnitsOnly s (regSetBits s a hi lo x) := of_bridges (.regSetBits ..)
theorem setTile (s : State) (t : Nat) (x : Tile) : UnitsOnly s (setTile s t x) := rfl
theorem plane (h : UnitsOnly s t) : t.plane = s.plane := by rw [h]
theorem cores (h : UnitsOnly s t) : t.cores = s.cores := by rw [h]

end UnitsOnly

-- The stages of an abort -----------------------------------------------------------------------------------------------

theorem epochBridges_units (s : State) (epoch : Nat → Nat) : UnitsOnly s (epochBridges s epoch) :=
  .trans (.foldl (fun _ _ => (UnitsOnly.of_bridges (.epochBridge ..)).trans (.of_stages (restage_stages ..))) _ s)
    (.of_bridges (.restQueues _))

theorem epochTiles_units (s : State) (epoch : Nat → Nat) : UnitsOnly s (epochTiles s epoch) := .foldl (fun _ _ => .regSetBits ..) _ s

theorem dropWork_units (s : State) : UnitsOnly (mapCores s fun _ => abortCore) (dropWork s) := by
  have hanswers (a : State) : UnitsOnly a (freeAnswers a) := .foldl (fun _ _ => .of_bridges (.poolAdd ..)) _ a
  exact (hanswers _).trans (.foldl (fun _ _ => .setTile ..) _ _)

theorem clearStep_units (s : State) : UnitsOnly s (clearStep s) := by
  have hclear (a : State) (dies : Nat → Bool) (q : Cls → Bool) : UnitsOnly a (clearRegs a dies q) := rfl
  have htokens (a : State) : UnitsOnly a (clearTokens a) := by
    rw [clearTokens, regPutNat_frame]
    rfl
  exact (((hclear s _ _).trans (.foldl (fun _ _ => .of_bridges (.modBridge ..)) _ _)).trans (htokens _)).trans (.regSetBits ..)

theorem mapCores_plane (s : State) (f : Nat → Core → Core) : (mapCores s f).plane = s.plane := by rw [mapCores_frame]

/-- No outbox entry, fault, gate or landing buffer is left. -/
def Workless (k : Core) : Prop := k.outbox = [] ∧ k.fault = CoreFault.none ∧ k.gates = [] ∧ k.lb = []

theorem abortCore_workless (k : Core) : Workless (abortCore k) := ⟨rfl, rfl, rfl, rfl⟩

/-- The units of an aborted module: the plane is as it was but for the faults logged, and no core has work left. -/
theorem clearStep_dropWork (s : State) : (clearStep (dropWork s)).plane = s.plane ∧
    ∀ e ∈ (clearStep (dropWork s)).cores, Workless e.2 := by
  have hplane : (clearStep (dropWork s)).plane = (dropWork s).plane := (clearStep_units _).plane
  have hcores : (clearStep (dropWork s)).cores = (dropWork s).cores := (clearStep_units _).cores
  refine ⟨hplane.trans ((dropWork_units s).plane.trans (mapCores_plane ..)), ?_⟩
  rw [hcores, (dropWork_units s).cores]
  exact mem_mapCores fun _ => abortCore_workless

theorem abortUnits_leaves (s : State) (epoch : Nat → Nat) :
    (abortUnits s epoch).plane = (collectCoreFaults s).plane ∧ ∀ e ∈ (abortUnits s epoch).cores, Workless e.2 := by
  obtain ⟨hplane, hcores⟩ := clearStep_dropWork (epochTiles (epochBridges (collectCoreFaults s) epoch) epoch)
  have hepochs := (epochBridges_units (collectCoreFaults s) epoch).trans (epochTiles_units _ epoch)
  exact ⟨hplane.trans hepochs.plane, hcores⟩

-- ABORT_STEP -----------------------------------------------------------------------------------------------------------

theorem stepAbort_eq (s : State) (epoch : Nat → Nat) : stepAbort s epoch = endRun (stepless (abortUnits s epoch)) := by
  rw [stepAbort, abortStep_eq]

theorem endRun_run (s : State) : (endRun s).plane.run = .idle ∧ (endRun s).plane.halted = s.plane.halted ∧
    (endRun s).plane.preq = s.plane.preq ∧ (endRun s).cores = s.cores := by
  unfold endRun
  split
  · next h => exact ⟨h, rfl, rfl, rfl⟩
  · rw [runEnd_frame]
    exact ⟨rfl, rfl, rfl, rfl⟩

theorem stepless_plane (s : State) : (stepless s).plane.run = s.plane.run ∧ (stepless s).plane.halted = none ∧
    (stepless s).plane.preq = s.plane.preq ∧ (stepless s).cores = s.cores := ⟨rfl, rfl, rfl, rfl⟩

/-- What an abort leaves of the plane and the cores (14 R388). -/
theorem stepAbort_leaves (s : State) (epoch : Nat → Nat) : (stepAbort s epoch).plane.run = .idle ∧
    (stepAbort s epoch).plane.halted = none ∧ (stepAbort s epoch).plane.preq = s.plane.preq ∧
    ∀ e ∈ (stepAbort s epoch).cores, Workless e.2 := by
  obtain ⟨hplane, hcores⟩ := abortUnits_leaves s epoch
  obtain ⟨hrun, hhalted, hpreq, hcore⟩ := endRun_run (stepless (abortUnits s epoch))
  obtain ⟨-, hnone, hkept, hcore'⟩ := stepless_plane (abortUnits s epoch)
  have hpreq' : (abortUnits s epoch).plane.preq = s.plane.preq := by rw [hplane, (collectCoreFaults_logs s).plane]
  rw [stepAbort_eq, hrun, hhalted, hnone, hpreq, hkept, hpreq', hcore, hcore']
  exact ⟨rfl, rfl, rfl, hcores⟩

/-- The end of a run that is cut off: it is aborted, and interrupt 20 pends (14 R388). -/
theorem endRun_ends {s : State} (h : s.plane.run ≠ .idle) :
    regBits (endRun s) (dcs SP 0x200) 1 0 = 3 ∧ regBits (endRun s) (dcs APL 0x100) 20 20 = 1 := by
  unfold endRun
  rw [if_neg h]
  generalize { s with plane := { s.plane with run := .idle, contAt := none } } = w
  refine ⟨?_, regBits_raiseIrq_same _ (by decide)⟩
  have hstep : stepOf w 0 < 2 ^ 32 := BitVec.isLt _
  rw [runEnd, regBits_raiseIrq_other (regBits_regSetBits_ne _ 1 (.inr (by decide))), ← bitsOf_regNat _ _ (m := 2) (by decide),
    regNat_regPutNat_same, if_neg (by decide), Nat.shiftLeft_eq]
  simp only [bitsOf, Nat.shiftRight_eq_div_pow]
  omega

theorem stepAbort_ends {s : State} (h : s.plane.run ≠ .idle) (epoch : Nat → Nat) :
    regBits (stepAbort s epoch) (dcs SP 0x200) 1 0 = 3 ∧ regBits (stepAbort s epoch) (dcs APL 0x100) 20 20 = 1 := by
  obtain ⟨hplane, -⟩ := abortUnits_leaves s epoch
  obtain ⟨hrun, -⟩ := stepless_plane (abortUnits s epoch)
  rw [stepAbort_eq]
  refine endRun_ends ?_
  rw [hrun, hplane, (collectCoreFaults_logs s).plane]
  exact h

-- Epochs ---------------------------------------------------------------------------------------------------------------

theorem dieLive_of_pwr {s : State} {d : Nat} (h : pwrState s ≤ 1) (hd : d < 100) : dieLive s d = true := by
  unfold dieLive
  split
  · simpa using h
  · exact decide_eq_true (by omega)

theorem pwrState_of_word {s t : State} (h : regWord t (dcs SP 0x200008) = regWord s (dcs SP 0x200008)) : pwrState t = pwrState s :=
  regBits_of_word h _ (by decide)

theorem pwrState_collectCoreFaults (s : State) : pwrState (collectCoreFaults s) = pwrState s :=
  pwrState_of_word ((Hushed.refl s).collectCoreFaults _ le_rfl _ (by decide))

theorem pwrState_epochBridges (s : State) (epoch : Nat → Nat) : pwrState (epochBridges s epoch) = pwrState s :=
  pwrState_of_word (regWord_epochBridges (k := .soundpost) (by decide) le_rfl s epoch)

/-- Every live Bridge has its epoch. -/
theorem epochBridges_sets {s : State} {d : Nat} (h64 : 64 ≤ d) (h100 : d < 100) (hl : dieLive s d = true) (epoch : Nat → Nat) :
    regBits (epochBridges s epoch) (dcs d 0x120) 7 0 = epoch d % 256 := by
  have hle : d ≤ SP := by unfold SP; omega
  have hfold := foldl_sets (f := fun s d => restage (epochBridge s d (epoch d % 256)) d (fun _ => none))
    (P := fun d t => d ≤ SP → regBits t (dcs d 0x120) 7 0 = epoch d % 256)
    (fun a e he => by
      rw [(epochRestage_hushed a e (epoch e % 256) _).bits he (by decide) _ (by decide)]
      exact (regBits_regSetBits_same ..).trans (Nat.mod_mod ..))
    (fun a e f hne ha he => by
      rw [(epochRestage_hushed a f (epoch f % 256) _).bits he (by decide) _ (by decide), regBits_regSetBits_ne, ha he]
      unfold dcs
      omega)
    (bridgeDies.filter (dieLive s)) s (d := d)
    (List.mem_filter.mpr ⟨List.mem_map.mpr ⟨d - 64, List.mem_range.mpr (by omega), by omega⟩, hl⟩) hle
  rw [epochBridges, (Hushed.refl _).restQueues.bits hle (by decide) _ (by decide)]
  exact hfold

/-- Every live tile has its epoch. -/
theorem epochTiles_sets {s : State} {d : Nat} (h : d < 64) (hl : dieLive s d = true) (epoch : Nat → Nat) :
    regBits (epochTiles s epoch) (dcs d 0x838) 7 0 = epoch d % 256 :=
  foldl_sets (f := fun s t => regSetBits s (dcs t 0x838) 7 0 (epoch t % 256))
    (P := fun d t => regBits t (dcs d 0x838) 7 0 = epoch d % 256)
    (fun a e => (regBits_regSetBits_same ..).trans (Nat.mod_mod ..))
    (fun a e f hne ha => (regBits_regSetBits_ne _ _ (by unfold dcs; omega)).trans ha) _ _
    (List.mem_filter.mpr ⟨List.mem_range.mpr h, hl⟩)

theorem epochTiles_bridge (s : State) (d : Nat) (epoch : Nat → Nat) :
    regBits (epochTiles s epoch) (dcs d 0x120) 7 0 = regBits s (dcs d 0x120) 7 0 :=
  foldl_keeps (R := fun s t => regBits t (dcs d 0x120) 7 0 = regBits s (dcs d 0x120) 7 0) (fun _ => rfl) (fun _ _ _ h h' => h'.trans h)
    (fun a e => regBits_regSetBits_ne _ _ (by unfold dcs; omega)) _ _

/-- What follows the epochs leaves them. -/
theorem regBits_afterEpochs {d o : Nat} {k : DieKind} (hd : dieKind d = some k) (hle : d ≤ SP)
    (hx : (k, o) ∈ [(DieKind.tile, 0x838), (.bridge, 0x120)]) (s : State) :
    regBits (endRun (stepless (clearStep (dropWork s)))) (dcs d o) 7 0 = regBits s (dcs d o) 7 0 := by
  have hlist : ∀ x ∈ [(DieKind.tile, 0x838), (.bridge, 0x120)], x.2 ∈ hushedOffsets ∧
      x ∈ [(DieKind.tile, 0x830), (.tile, 0x838), (.bridge, 0x120), (.soundpost, 0x20), (.soundpost, 0x200008)] := by decide
  obtain ⟨ho, hx⟩ := hlist _ hx
  have hclear : Hushed (clearRegs (dropWork s) (fun _ => true) (fun x => x = .s)) (clearStep (dropWork s)) :=
    (Hushed.foldl (Hushed.refl _) fun _ _ h => h.spillInForce).clearTokens.regSetBits
  rw [(Hushed.refl _).endRun.bits hle ho _ (by decide), regBits_congr (stepless_regs _), hclear.bits hle ho _ (by decide),
    regBits_of_word (regWord_clearPlane hd hx (fun x hx => .inr (by simpa using hx)) (dropWork s) _) _ (by decide)]
  exact (dropWork_hushed s).bits hle ho _ (by decide)

/-- An abort sets the epoch of every die of the plane (14 R388; 08 R234). -/
theorem epochOf_stepAbort {s : State} {d : Nat} (hd : d < 100) (hp : pwrState s ≤ 1) (epoch : Nat → Nat) :
    epochOf (stepAbort s epoch) d = epoch d % 256 := by
  have hle : d ≤ SP := by unfold SP; omega
  have hp₁ : pwrState (collectCoreFaults s) ≤ 1 := (pwrState_collectCoreFaults s).trans_le hp
  rw [stepAbort_eq, abortUnits, epochOf]
  by_cases h : d < 64
  · rw [if_pos h, regBits_afterEpochs (dieKind_tile h) hle (by decide)]
    exact epochTiles_sets h (dieLive_of_pwr ((pwrState_epochBridges ..).trans_le hp₁) hd) epoch
  · rw [if_neg h, if_pos hd, regBits_afterEpochs (dieKind_bridge (by omega) hd) hle (by decide), epochTiles_bridge]
    exact epochBridges_sets (by omega) hd (dieLive_of_pwr hp₁ hd) epoch

-- Answers --------------------------------------------------------------------------------------------------------------

theorem reqPay_byte (s : State) (n o : Nat) : reqPay s n o 1 < 256 := memNat_lt ..

/-- The interrupts above those of the mailboxes pend as before a response. -/
theorem regBits_respond_irq (s : State) {n b : Nat} (hn : n < 16) (a : Answer) (hb : 16 ≤ b) (h32 : b < 32) :
    regBits (respond s n a) (dcs APL 0x100) b b = regBits s (dcs APL 0x100) b b := by
  have hset : regBits (setMbxState (responded s n a) n 2) (dcs APL 0x100) b b = regBits s (dcs APL 0x100) b b := by
    refine (regBits_regSetBits_ne _ _ (.inl ?_)).trans (regBits_congr (s := s) (t := responded s n a) rfl ..)
    rw [Nat.div_eq_of_lt h32]
    unfold mbxCtl dcs APL SP
    omega
  rw [respond_eq, regBits_raiseIrq_other, hset]
  exact regBits_regSetBits_field _ _ _ (by omega)

theorem regBits_respond_runEnd (s : State) {n : Nat} (hn : n < 16) (a : Answer) :
    regBits (respond s n a) (dcs SP 0x200) 1 0 = regBits s (dcs SP 0x200) 1 0 :=
  regBits_respond a hn (.inl (by unfold mbxCtl dcs SP; omega)) (.inr (by decide))

theorem epochOf_respond (s : State) {n d : Nat} (hn : n < 16) (a : Answer) (hd : d < 100) : epochOf (respond s n a) d = epochOf s d := by
  unfold epochOf
  split
  · exact regBits_of_word (regWord_respond s hn a (by unfold dcs APL; omega)) _ (by decide)
  · exact regBits_of_word (regWord_respond s hn a (by unfold dcs APL; omega)) _ (by decide)

theorem abortStep_aborts {s : State} {n : Nat} (h : Taken s n 0x330) (hp : pwrState s ≤ 1) :
    ∃ t, exec (.abortStep n) s = .next t ∧ answers s t n 0 0 [] ∧ t.plane.run = .idle ∧ t.plane.halted = none ∧
      t.plane.preq = s.plane.preq ∧
      t.tokSent = [] ∧ t.stepCodes = [] ∧ (∀ d < 100, epochOf t d = reqPay s n 0 1) ∧
      (∀ e ∈ t.cores, e.2.outbox = [] ∧ e.2.fault = CoreFault.none ∧ e.2.gates = [] ∧ e.2.lb = []) ∧
      (s.plane.run ≠ .idle → regBits t (dcs SP 0x200) 1 0 = 3 ∧ bitAt (regWord t (dcs APL 0x100)).toNat 20 = true) := by
  have hn := h.box
  have hworks := (Works.refl s).stepAbort (epoch := fun _ => reqPay s n 0 1)
  obtain ⟨htok, hcodes⟩ := stepAbort_stepless s (fun _ => reqPay s n 0 1)
  obtain ⟨hrun, hhalted, hpreq, hcores⟩ := stepAbort_leaves s (fun _ => reqPay s n 0 1)
  have hends := fun hi => stepAbort_ends (s := s) hi (fun _ => reqPay s n 0 1)
  have hepoch (d : Nat) (hd : d < 100) : epochOf (stepAbort s (fun _ => reqPay s n 0 1)) d = reqPay s n 0 1 :=
    (epochOf_stepAbort hd hp _).trans (Nat.mod_eq_of_lt (reqPay_byte ..))
  obtain ⟨u, hu⟩ : ∃ u, stepAbort s (fun _ => reqPay s n 0 1) = u := ⟨_, rfl⟩
  rw [hu] at hworks htok hcodes hrun hhalted hpreq hcores hends
  simp only [hu] at hepoch
  obtain ⟨ht, ha⟩ := mbxCmd_answers (t := u) (a := .st stOK) (f := fun s => (stepAbort s (fun _ => reqPay s n 0 1), .st stOK)) h
    (by rw [← hu]) (by rw [mbx, mbx, hworks.mbx]) (by rw [hworks.exec])
  refine ⟨_, ht, ha, ?_, ?_, ?_, by rw [respond_tokSent, htok], by rw [respond_stepCodes, hcodes],
    fun d hd => (epochOf_respond u hn _ hd).trans (hepoch d hd), ?_, fun hi => ?_⟩
  · rw [respond_plane, hrun]
  · rw [respond_plane, hhalted]
  · rw [respond_plane, hpreq]
  · rw [respond_cores]
    exact hcores
  · obtain ⟨hend, hirq⟩ := hends hi
    exact ⟨(regBits_respond_runEnd u hn _).trans hend,
      (bitAt_regWord (by decide)).mpr ((regBits_respond_irq u hn _ (by decide) (by decide)).trans hirq)⟩

/-- A response leaves the registers above those of the mailboxes. -/
theorem regWord_respond_above (s : State) {n : Nat} (hn : n < 16) (a : Answer) {b : Nat} (hb : dcs SP 0x880 ≤ b) :
    regWord (respond s n a) b = regWord s b := by
  have hbits := regBits_respond (s := s) a hn (b := b) (hi := 31) (lo := 0) (.inr (by unfold mbxCtl dcs SP at *; omega))
    (.inr (by unfold dcs APL SP at *; omega))
  have hword (t : State) : regBits t b 31 0 = (regWord t b).toNat := by
    have := (regWord t b).isLt
    simp only [regBits, bitsOf, regNat]
    omega
  rw [hword, hword] at hbits
  exact BitVec.eq_of_toNat_eq hbits

theorem reqPay_eight (s : State) (n o : Nat) : reqPay s n o 8 < 2 ^ 64 := memNat_lt ..

/-- The module leaves A1 with its plane and its cores as they are. -/
theorem exitA1_records (s : State) : ∃ r g, exitA1 s = { s with regs := r, gov := g } := by
  unfold exitA1
  split
  · refine ⟨(zeroDuty (setPwr s 0)).regs, (zeroDuty (setPwr s 0)).gov, ?_⟩
    unfold zeroDuty
    dsimp only
    rw [regSetBits_frame, setPwr, regSetBits_frame]
  · exact ⟨s.regs, s.gov, rfl⟩

theorem pwrState_zeroDuty (s : State) : pwrState (zeroDuty s) = pwrState s := by
  unfold zeroDuty
  exact (regBits_regSetBits_field _ _ _ (by decide)).trans (pwrState_congr (s := s) rfl)

theorem pwrState_exitA1 {s : State} (h : pwrState s ≤ 1) : pwrState (exitA1 s) = 0 := by
  unfold exitA1
  split
  · rw [pwrState_zeroDuty]
    exact regBits_regSetBits_same ..
  · omega

-- PAUSE and CONTINUE ---------------------------------------------------------------------------------------------------

theorem pause_pauses {s : State} {n : Nat} (h : Taken s n 0x310) :
    (s.plane.run = .running → ∃ t, exec (.pause n) s = .next t ∧ answers s t n 0 0 [] ∧ t.plane = { s.plane with preq := true } ∧
      t.cores = s.cores) ∧
    (s.plane.run ≠ .running → ∃ t, exec (.pause n) s = .next t ∧ answers s t n 0x26 0 [] ∧ t.plane = s.plane) := by
  constructor
  · intro hr
    obtain ⟨ht, ha⟩ := mbxCmd_answers (t := { s with plane := { s.plane with preq := true } }) (a := .st stOK)
      (f := fun s => if s.plane.run ≠ .running then (s, .st stNOT_RUNNING)
        else ({ s with plane := { s.plane with preq := true } }, .st stOK)) h (if_neg (not_not.mpr hr)) rfl rfl
    exact ⟨_, ht, ha, respond_plane .., respond_cores ..⟩
  · intro hr
    obtain ⟨ht, ha⟩ := mbxCmd_answers (t := s) (a := .st stNOT_RUNNING)
      (f := fun s => if s.plane.run ≠ .running then (s, .st stNOT_RUNNING)
        else ({ s with plane := { s.plane with preq := true } }, .st stOK)) h (if_pos hr) rfl rfl
    exact ⟨_, ht, ha, respond_plane ..⟩

/-- The function of CONTINUE. -/
def continueRun (s : State) (n : Nat) : State × Answer :=
  let c := reqPay s n 0 8
  if s.plane.run ≠ .paused then (s, .st stNOT_PAUSED)
  else if c < s.count + 65536 then (s, .st stLATE)
  else
    let s := regPutNat (exitA1 s) (dcs TUN 0x20) c 2
    ({ s with plane := { s.plane with contAt := some c } }, .st stOK)

theorem contRun_eq (s : State) (n : Nat) : execContRun n s = mbxCmd n 0x320 s fun s => continueRun s n := rfl

theorem contRun_refuses {s : State} {n st : Nat} (h : Taken s n 0x320) (hf : continueRun s n = (s, .st st)) (hst : st < 2 ^ 16) :
    ∃ t, exec (.contRun n) s = .next t ∧ answers s t n st 0 [] ∧ t.plane = s.plane := by
  obtain ⟨ht, ha⟩ := mbxCmd_answers (f := fun s => continueRun s n) h hf rfl rfl hst (Nat.two_pow_pos _) (Nat.two_pow_pos _)
  exact ⟨_, (contRun_eq s n).trans ht, ha, respond_plane ..⟩

theorem contRun_continues {s : State} {n : Nat} (h : Taken s n 0x320) (hr : s.plane.run = .paused)
    (hc : s.count + 65536 ≤ reqPay s n 0 8) : ∃ t, exec (.contRun n) s = .next t ∧ answers s t n 0 0 [] ∧
      t.plane = { s.plane with contAt := some (reqPay s n 0 8) } ∧ regNat t (dcs TUN 0x20) 2 = reqPay s n 0 8 ∧ t.cores = s.cores := by
  have hn := h.box
  have hc8 := reqPay_eight s n 0
  have hf : continueRun s n = ({ regPutNat (exitA1 s) (dcs TUN 0x20) (reqPay s n 0 8) 2 with plane := {
      (regPutNat (exitA1 s) (dcs TUN 0x20) (reqPay s n 0 8) 2).plane with contAt := some (reqPay s n 0 8) } }, .st stOK) :=
    (if_neg (not_not.mpr hr)).trans (if_neg (by omega))
  generalize reqPay s n 0 8 = c at *
  obtain ⟨r, g, hexit⟩ := exitA1_records s
  have hput : regPutNat (exitA1 s) (dcs TUN 0x20) c 2 = { s with
      regs := (regPutNat (exitA1 s) (dcs TUN 0x20) c 2).regs, gov := g } := by rw [regPutNat_frame, hexit]
  have hat : regNat (regPutNat (exitA1 s) (dcs TUN 0x20) c 2) (dcs TUN 0x20) 2 = c := by
    rw [regNat_regPutNat_same]
    exact Nat.mod_eq_of_lt hc8
  generalize regPutNat (exitA1 s) (dcs TUN 0x20) c 2 = u at *
  have hplane : u.plane = s.plane := by rw [hput]
  have hcores : u.cores = s.cores := by rw [hput]
  have hmbx : u.mbx = s.mbx := by rw [hput]
  have hexec : u.exec = s.exec := by rw [hput]
  rw [hplane] at hf
  obtain ⟨ht, ha⟩ := mbxCmd_answers (f := fun s => continueRun s n) h hf (by rw [mbx, mbx, ← hmbx]) (congrArg Exec.queue hexec)
  refine ⟨_, (contRun_eq s n).trans ht, ha, respond_plane .., ?_, (respond_cores ..).trans hcores⟩
  refine (regNat_congr _ _ fun i _ => regWord_respond_above _ hn _ ?_).trans ((regNat_congr (s := u) _ _ fun i _ => ?_).trans hat)
  · unfold dcs SP TUN
    omega
  · exact regWord_congr rfl _

-- LAUNCH ---------------------------------------------------------------------------------------------------------------

/-- The registers of an armed run: the step index in every tile, the count and the resumption (14 R387). -/
def launchRegs (s : State) (l : Nat) (resume : Option Nat) : State :=
  regSetBits (regPutNat (tileDies.foldl (fun s t => regPut s (dcs t 0x80C) (BitVec.ofNat 32 (resume.getD 0))) s) (dcs TUN 0x20) l 2)
    (dcs SP 0x440) 4 4 (if resume.isSome then 1 else 0)

/-- The plane of an armed run. -/
def armedPlane (p : Plane) (l : Nat) (resume : Option Nat) : Plane :=
  { p with run := .armed, resume := resume.isSome, at_ := l, cyc := 0, held := false, contAt := none
           stepEnd := none, stepOk := false, logged := [], sample := none, issued := [] }

/-- A run armed. -/
def armedRun (s : State) (l : Nat) (resume : Option Nat) : State := { s with plane := armedPlane s.plane l resume }

theorem armRun_eq (s : State) (l : Nat) (resume : Option Nat) :
    armRun s l resume = armedRun (launchRegs (mapCores s (fun _ => launchCore)) l resume) l resume := rfl

theorem launchRegs_records (s : State) (l : Nat) (resume : Option Nat) : RecordsOnly s (launchRegs s l resume) :=
  .regSetBits (.regPutNat (.foldl (fun _ _ => regPut_records ..) _ s) ..) ..

theorem launchRegs_step (s : State) (l : Nat) (resume : Option Nat) {d : Nat} (hd : d < 64) :
    regWord (launchRegs s l resume) (dcs d 0x80C) = BitVec.ofNat 32 (resume.getD 0) := by
  have hfold := foldl_sets (f := fun s t => regPut s (dcs t 0x80C) (BitVec.ofNat 32 (resume.getD 0)))
    (P := fun d t => regWord t (dcs d 0x80C) = BitVec.ofNat 32 (resume.getD 0)) (fun _ _ => regWord_regPut_same ..)
    (fun a e f hne ha => (regWord_regPut_ne _ _ (by unfold dcs; omega)).trans ha) tileDies s (List.mem_range.mpr hd)
  rw [launchRegs, regWord_regSetBits_ne _ _ _ (by decide) (by unfold dcs SP; omega), regWord_regPutNat_out _ _ _ _ _ (.inl ?_)]
  · exact hfold
  · unfold dcs TUN
    omega

theorem launchRegs_count (s : State) {l : Nat} (h : l < 2 ^ 64) (resume : Option Nat) : regNat (launchRegs s l resume) (dcs TUN 0x20) 2 = l := by
  rw [launchRegs, regSetBits, regNat_regPutNat_ne _ (.inr (by decide)), regNat_regPutNat_same]
  exact Nat.mod_eq_of_lt h

theorem launchRegs_pwr (s : State) (l : Nat) (resume : Option Nat) : pwrState (launchRegs s l resume) = pwrState s := by
  refine pwrState_of_word ?_
  rw [launchRegs, regWord_regSetBits_ne _ _ _ (by decide) (by decide), regWord_regPutNat_out _ _ _ _ _ (.inl (by decide))]
  exact foldl_keeps (R := fun s t => regWord t (dcs SP 0x200008) = regWord s (dcs SP 0x200008)) (fun _ => rfl)
    (fun _ _ _ h h' => h'.trans h) (fun a e => regWord_regPut_ne _ _ (by unfold dcs SP; omega)) _ _

/-- The core stands at index 0, to run. -/
def Launched (k : Core) : Prop := k.pc = 0 ∧ k.halted = false ∧ k.srseq = 0

theorem launchCore_launched (k : Core) : Launched (launchCore k) := ⟨rfl, rfl, rfl⟩

theorem smGet_mem_or {α : Type} (d : α) (m : SMap α) (k : Nat) : smGet d m k = d ∨ (k, smGet d m k) ∈ m := by
  induction m with
  | nil => exact .inl rfl
  | cons e m ih =>
    obtain ⟨j, v⟩ := e
    rw [smGet]
    split
    · next h => exact .inr (h ▸ List.mem_cons_self ..)
    · exact ih.imp id (List.mem_cons_of_mem _)

theorem coreOf_launched (s : State) (c : Nat) : Launched (coreOf (mapCores s (fun _ => launchCore)) c) := by
  rcases smGet_mem_or Core.reset (mapCores s (fun _ => launchCore)).cores c with h | h
  · rw [coreOf, h]
    exact ⟨rfl, rfl, rfl⟩
  · exact mem_mapCores (fun _ => launchCore_launched) _ h

/-- An armed run (14 R387). -/
theorem armRun_arms (s : State) {l : Nat} (h : l < 2 ^ 64) (resume : Option Nat) : let t := armRun s l resume
    t.plane = armedPlane s.plane l resume ∧ regNat t (dcs TUN 0x20) 2 = l ∧ pwrState t = pwrState s ∧ t.count = s.count ∧
      t.mbx = s.mbx ∧ t.exec = s.exec ∧ (∀ c, Launched (coreOf t c)) ∧
      ∀ i < 64, regWord t (dcs i 0x80C) = BitVec.ofNat 32 (resume.getD 0) := by
  intro t
  have hcores := coreOf_launched s
  have hmap := mapCores_frame s (fun _ => launchCore)
  have ht : t = armedRun (launchRegs (mapCores s (fun _ => launchCore)) l resume) l resume := armRun_eq s l resume
  generalize mapCores s (fun _ => launchCore) = u at *
  have hrec := launchRegs_records u l resume
  have hstep := fun i hi => launchRegs_step u l resume (d := i) hi
  have hcount := launchRegs_count u h resume
  have hpwr := launchRegs_pwr u l resume
  generalize launchRegs u l resume = v at *
  have hregs : t.regs = v.regs := by rw [ht]; rfl
  have hplane : v.plane = s.plane := by rw [hrec, hmap]
  have hvcores : t.cores = u.cores := by rw [ht, hrec]; rfl
  refine ⟨by rw [ht, ← hplane]; rfl, (regNat_congr _ _ fun i _ => regWord_congr hregs _).trans hcount, ?_, by rw [ht, hrec, hmap]; rfl,
    by rw [ht, hrec, hmap]; rfl, by rw [ht, hrec, hmap]; rfl, fun c => ?_, fun i hi => (regWord_congr hregs _).trans (hstep i hi)⟩
  · rw [pwrState_congr hregs, hpwr]
    exact pwrState_congr (by rw [hmap])
  · rw [coreOf_congr hvcores]
    exact hcores c

/-- The function of LAUNCH. -/
def launchRun (s : State) (n : Nat) : State × Answer :=
  let l := reqPay s n 0 8
  let mode := reqPay s n 8 1
  if 1 < mode then (s, .st stBAD_LEN)
  else if launchStatus s l ≠ stOK then (s, .st (launchStatus s l))
  else (armRun (exitA1 s) l (if mode = 1 then some (reqPay s n 12 4) else none), .st stOK)

theorem launch_eq (s : State) (n : Nat) : execLaunch n s = mbxCmd n 0x300 s fun s => launchRun s n := rfl

theorem launch_refuses {s : State} {n : Nat} (h : Taken s n 0x300) (hm : reqPay s n 8 1 ≤ 1) (hx : launchStatus s (reqPay s n 0 8) ≠ 0) :
    ∃ t, exec (.launch n) s = .next t ∧ answers s t n (launchStatus s (reqPay s n 0 8)) 0 [] ∧ t.plane = s.plane ∧ t.cores = s.cores := by
  have hlt (l : Nat) : launchStatus s l < 2 ^ 16 := by
    unfold launchStatus
    repeat' split
    all_goals decide
  have hf : launchRun s n = (s, .st (launchStatus s (reqPay s n 0 8))) := (if_neg (by omega)).trans (if_pos hx)
  obtain ⟨ht, ha⟩ := mbxCmd_answers (f := fun s => launchRun s n) h hf rfl rfl (hlt _) (Nat.two_pow_pos _) (Nat.two_pow_pos _)
  exact ⟨_, (launch_eq s n).trans ht, ha, respond_plane .., respond_cores ..⟩

theorem launch_arms {s : State} {n : Nat} (h : Taken s n 0x300) (hm : reqPay s n 8 1 ≤ 1) (hx : launchStatus s (reqPay s n 0 8) = 0)
    (hp : pwrState s ≤ 1) : ∃ t, exec (.launch n) s = .next t ∧ answers s t n 0 0 [] ∧ t.plane.run = .armed ∧
      t.plane.at_ = reqPay s n 0 8 ∧ t.plane.halted = s.plane.halted ∧ t.plane.preq = s.plane.preq ∧
      regNat t (dcs TUN 0x20) 2 = reqPay s n 0 8 ∧ pwrState t = 0 ∧ t.count = s.count ∧
      (∀ c, (coreOf t c).pc = 0 ∧ (coreOf t c).halted = false ∧ (coreOf t c).srseq = 0) ∧
      ∀ i < 64, (regWord t (dcs i 0x80C)).toNat = if reqPay s n 8 1 = 1 then reqPay s n 12 4 else 0 := by
  have hn := h.box
  have hl := reqPay_eight s n 0
  have hr : reqPay s n 12 4 < 2 ^ 32 := memNat_lt ..
  have hf : launchRun s n = (armRun (exitA1 s) (reqPay s n 0 8) (if reqPay s n 8 1 = 1 then some (reqPay s n 12 4) else none), .st stOK) :=
    (if_neg (by omega)).trans (if_neg (not_not.mpr hx))
  obtain ⟨hplane, hcount, hpwr, htime, hmbx, hexec, hcores, hstep⟩ :=
    armRun_arms (exitA1 s) hl (if reqPay s n 8 1 = 1 then some (reqPay s n 12 4) else none)
  obtain ⟨r, g, hexit⟩ := exitA1_records s
  rw [pwrState_exitA1 hp] at hpwr
  have hkept : (exitA1 s).plane = s.plane ∧ (exitA1 s).count = s.count ∧ (exitA1 s).mbx = s.mbx ∧ (exitA1 s).exec = s.exec := by
    rw [hexit]
    exact ⟨rfl, rfl, rfl, rfl⟩
  obtain ⟨hp₀, hc₀, hm₀, he₀⟩ := hkept
  rw [hp₀] at hplane
  rw [hc₀] at htime
  rw [hm₀] at hmbx
  rw [he₀] at hexec
  have hword : (BitVec.ofNat 32 ((if reqPay s n 8 1 = 1 then some (reqPay s n 12 4) else none).getD 0)).toNat =
      if reqPay s n 8 1 = 1 then reqPay s n 12 4 else 0 := by
    rw [BitVec.toNat_ofNat]
    split
    · exact Nat.mod_eq_of_lt hr
    · rfl
  generalize armRun (exitA1 s) (reqPay s n 0 8) (if reqPay s n 8 1 = 1 then some (reqPay s n 12 4) else none) = u at *
  obtain ⟨ht, ha⟩ := mbxCmd_answers (f := fun s => launchRun s n) h hf (by rw [mbx, mbx, ← hmbx]) (congrArg Exec.queue hexec)
  have hplane' := (respond_plane u n (.st stOK)).trans hplane
  refine ⟨_, (launch_eq s n).trans ht, ha, by rw [hplane']; rfl, by rw [hplane']; rfl, by rw [hplane']; rfl, by rw [hplane']; rfl, ?_, ?_,
    (respond_count ..).trans htime, fun c => ?_, fun i hi => ?_⟩
  · refine (regNat_congr _ _ fun i _ => regWord_respond_above _ hn _ ?_).trans hcount
    unfold dcs SP TUN
    omega
  · exact (regBits_respond _ hn (.inr (by unfold mbxCtl dcs SP; omega)) (.inr (by decide))).trans hpwr
  · rw [coreOf_congr (respond_cores ..)]
    exact hcores c
  · rw [regWord_respond u hn _ (by unfold dcs APL; omega), hstep i hi, hword]

theorem launchStatus_ok {s : State} {l : Nat} (hr : s.plane.run = .idle) (hi : s.image.isSome = true)
    (hmap : ∀ i < 64, tileMapOk s i = true) (ha : l % 128 = 0) (hl : s.count + 65536 ≤ l) (hring : ringState s = 1) :
    launchStatus s l = 0 := by
  have htiles : tileDies.any (fun t => !tileMapOk s t) = false := by
    rw [List.any_eq_false]
    intro t ht
    simp [hmap t (List.mem_range.mp ht)]
  have himage : s.image.isNone = false := by simpa using hi
  unfold launchStatus
  rw [if_neg (by simp [hr]), if_neg (by simp [himage, htiles]), if_neg (by omega), if_neg (by omega), if_neg (by omega),
    if_neg (by omega)]
  rfl

/-- Settles O43: each command by its function; an abort by its stages. -/
theorem runsAreControlled : Obligations.RunsAreControlled := by
  refine ⟨fun s n h hm => ?launch, fun s n h => pause_pauses h, fun s n h => ?goOn, fun s n h hp => abortStep_aborts h hp⟩
  case launch =>
    exact ⟨fun hx hp => launch_arms h hm hx hp, fun hx => launch_refuses h hm hx, fun hr hi hmap ha hl hring =>
      launchStatus_ok hr hi hmap ha hl hring⟩
  case goOn =>
    exact ⟨fun hr hc => contRun_continues h hr hc,
      fun hr hc => contRun_refuses h ((if_neg (not_not.mpr hr)).trans (if_pos hc)) (by decide),
      fun hr => contRun_refuses h (if_pos hr) (by decide)⟩

end Sys2Proof.Machine
end

section
/-! SUPPORT. What a link that leaves UP leaves of the module (07 R209, R480). -/
namespace Sys2Proof.Machine
open Sys2Proof.Safety Sys2Proof.Claims

namespace Works
variable {s₀ s t : State}

theorem of_bridges (h : BridgesOnly s t) : Works s t := by
  unfold BridgesOnly at h
  unfold Works
  rw [h]

protected theorem recordAs (h : Works s₀ s) {die code cls detail : Nat} : Works s₀ (recordAs s die code cls detail) :=
  h.trans (of_records (recordAs_records ..))

protected theorem recordDie (h : Works s₀ s) {die code detail : Nat} : Works s₀ (recordDie s die code detail) := h.recordAs

protected theorem setLinkState (h : Works s₀ s) {d st : Nat} : Works s₀ (setLinkState s d st) := h.regSetBits

protected theorem recordBrg (h : Works s₀ s) {d code : Nat} : Works s₀ (recordBrg s d code) := h.recordDie

protected theorem arriveWith (h : Works s₀ s) {d : Nat} {p : Port} {via buf : Option Nat} {f : Frame} : Works s₀ (arriveWith s d p via buf f) := by
  unfold arriveWith
  dsimp only
  split
  · exact h.setBridge.brgCount.brgCount
  · exact h.setBridge.brgCount

protected theorem arriveVia (h : Works s₀ s) {d : Nat} {p : Port} {via : Option Nat} {f : Frame} : Works s₀ (arriveVia s d p via f) :=
    h.arriveWith

protected theorem arrive (h : Works s₀ s) {d : Nat} {p : Port} {f : Frame} : Works s₀ (arrive s d p f) := h.arriveVia

protected theorem inject (h : Works s₀ s) {d : Nat} {f : Frame} : Works s₀ (inject s d f) := h.arrive

protected theorem putRx (h : Works s₀ s) {d : Nat} {e : RxEntry} : Works s₀ (putRx s d e) := h.modBridge

protected theorem unreachableAt (h : Works s₀ s) {d : Nat} {f : Frame} : Works s₀ (unreachableAt s d f) :=
  .ite h.brgCount.inject h.brgCount.recordAs

protected theorem joinVoq (h : Works s₀ s) {d q : Nat} {x : Held} : Works s₀ (joinVoq s d q x) := h.setVoq

protected theorem spillLeaves (h : Works s₀ s) {d : Nat} {x : Spilling} : Works s₀ (spillLeaves s d x) := by
  unfold spillLeaves
  split
  · exact h
  · exact .ite h.dropRx h.putRx

protected theorem putBack (h : Works s₀ s) {x : Sent} : Works s₀ (putBack s x) := h.setVoq

protected theorem sentFrames (h : Works s₀ s) {d n : Nat} {xs : List Sent} : Works s₀ (sentFrames s d n xs) := by
  induction xs generalizing n with
  | nil => exact h
  | cons x xs ih => exact .ite ih (.ite ih.putBack ih.recordBrg)

protected theorem moveHeld (h : Works s₀ s) {d : Nat} {p : Port} {x : Held} : Works s₀ (moveHeld s d p x) := by
  unfold moveHeld
  split
  · exact h.joinVoq
  · exact h.poolAdd.unreachableAt

protected theorem moveSpilled (h : Works s₀ s) {d : Nat} {p : Port} {x : Spilled} : Works s₀ (moveSpilled s d p x) := by
  unfold moveSpilled
  dsimp only
  split
  · exact h.moveHeld
  · exact h.setVoq
  · exact h.freeTail.unreachableAt

protected theorem moveVoqs (h : Works s₀ s) {d o : Nat} {p : Port} : Works s₀ (moveVoqs s d o p) := by
  unfold moveVoqs
  refine .foldl h fun _ _ h => .ite h.setVoq (.foldl (.foldl ?_ fun _ _ h => h.moveHeld) fun _ _ h => h.moveSpilled)
  split
  · exact h.setVoq.poolAdd
  · exact h.setVoq

protected theorem moveWaiting (h : Works s₀ s) {d o : Nat} : Works s₀ (moveWaiting s d o) :=
  .foldl h fun _ _ h => .ite (.foldl (.ite h.dropRx h.putRx) fun _ _ h => h.unreachableAt) h

protected theorem moveSpilling1 (h : Works s₀ s) {d o : Nat} {x : Spilling} : Works s₀ (moveSpilling1 s d o x) := by
  unfold moveSpilling1
  dsimp only
  split
  · split
    · exact h.modBridge
    · exact h.setLines.spillLeaves.unreachableAt
  · exact h.modBridge

protected theorem moveSpilling (h : Works s₀ s) {d o : Nat} : Works s₀ (moveSpilling s d o) :=
  .foldl h.modBridge fun _ _ h => h.moveSpilling1

protected theorem loseFrames (h : Works s₀ s) {d : Nat} : Works s₀ (loseFrames s d) :=
  .foldl h.modLink.modBridge.sentFrames fun _ _ h => h.moveVoqs.moveVoqs.moveWaiting.moveSpilling

protected theorem dropLinkRx (h : Works s₀ s) {d : Nat} : Works s₀ (dropLinkRx s d) := h.trans (of_bridges (.dropLinkRx ..))

protected theorem clearL (h : Works s₀ s) {d : Nat} {keep : Bool} : Works s₀ (clearL s d keep) := .ite (h.clearRegs.trans (of_records (regPut_records ..))) h.clearRegs

protected theorem departUp (h : Works s₀ s) {d : Nat} {next : State → Nat → Nat} : Works s₀ (departUp s d next) :=
    h.regSetBits.regSetBits.setLinkState.loseFrames.dropLinkRx.modLink.clearL.restQueues.setLinkState.raiseIrq

end Works

end Sys2Proof.Machine
end

section
/-! SUPPORT. The power states (16 R424, R429 to R432). -/
namespace Sys2Proof.Machine
open Sys2Proof.Safety Sys2Proof.Claims

-- The power block ------------------------------------------------------------------------------------------------------

@[simp] theorem respond_a2Saved (s : State) (n : Nat) (a : Answer) : (respond s n a).a2Saved = s.a2Saved := by
  rw [respond_frame]
  rfl

theorem powerBlock_congr {s t : State} (hw : ∀ b, dcs SP 0x880 ≤ b → regWord t b = regWord s b) (hg : t.gov = s.gov) :
    powerBlock t = powerBlock s := by
  have hn (o n : Nat) : regNat t (dcs SP (0x880 + o)) n = regNat s (dcs SP (0x880 + o)) n :=
    regNat_congr _ _ fun i _ => hw _ ((Nat.add_le_add_left (Nat.le_add_right ..) _).trans (Nat.le_add_right ..))
  simp only [powerBlock, hg, hn 0x1FF788, hn 0x1FF790, hn 0x1FF798, hn 0x1FF7A0, hn 0x1FF7B0, hn 0x1FF7A8]

theorem powerBlock_respond (s : State) {n : Nat} (hn : n < 16) (a : Answer) : powerBlock (respond s n a) = powerBlock s :=
  powerBlock_congr (fun _ hb => regWord_respond_above s hn a hb) (by rw [respond_frame]; rfl)

theorem pwrState_respond (s : State) {n : Nat} (hn : n < 16) (a : Answer) : pwrState (respond s n a) = pwrState s :=
  pwrState_of_word (regWord_respond_above s hn a (by unfold dcs; omega))

/-- A command that ends in `u` and answers with its power block answers with the block of the state it leaves. -/
theorem mbxCmd_power {s u : State} {n row : Nat} {f : State → State × Answer} (h : Taken s n row) (hf : f s = powerAnswer u)
    (hm : u.mbx = s.mbx) (hq : u.exec = s.exec) : ∃ t, mbxCmd n row s f = .next t ∧ answers s t n 0 0 (powerBlock t) ∧
      t = respond u n (powerAnswer u).2 ∧ pwrState t = pwrState u := by
  obtain ⟨ht, ha⟩ := mbxCmd_answers (t := u) (a := ⟨stOK, 0, powerBlock u⟩) h hf (by rw [mbx, mbx, hm]) (congrArg Exec.queue hq)
    (Nat.two_pow_pos _) (Nat.two_pow_pos _) (by rw [powerBlock_length]; decide)
  refine ⟨_, ht, ?_, rfl, pwrState_respond u h.box _⟩
  rw [powerBlock_respond u h.box]
  exact ha

-- A0 and A1 ------------------------------------------------------------------------------------------------------------

theorem zeroDuty_frame (s : State) : zeroDuty s = { s with regs := (zeroDuty s).regs, gov := { s.gov with underRun := 0 } } := by
  unfold zeroDuty
  dsimp only
  rw [regSetBits_frame]

theorem holdDuty_zeroDuty (s : State) : holdDuty (zeroDuty s) = 0 := regBits_regSetBits_same ..

theorem holdDuty_respond (s : State) {n : Nat} (hn : n < 16) (a : Answer) : holdDuty (respond s n a) = holdDuty s :=
  regBits_of_word (regWord_respond_above s hn a (by unfold dcs; omega)) _ (by decide)

theorem setPwr_frame (s : State) (x : Nat) : setPwr s x = { s with regs := (setPwr s x).regs } := regSetBits_frame ..

theorem pwrState_setPwr (s : State) {x : Nat} (h : x < 8) : pwrState (setPwr s x) = x :=
  (regBits_regSetBits_same ..).trans (Nat.mod_eq_of_lt h)

/-- Full power, with no hold in force. -/
def fullPower (s : State) : State := zeroDuty (setPwr s 0)

theorem fullPower_frame (s : State) : fullPower s = { s with regs := (fullPower s).regs, gov := { s.gov with underRun := 0 } } := by
  unfold fullPower
  rw [zeroDuty_frame, setPwr_frame]

theorem fullPower_pwr (s : State) : pwrState (fullPower s) = 0 := (pwrState_zeroDuty _).trans (pwrState_setPwr _ (by decide))

theorem throughA0_a0 {s : State} (h : pwrState s = 0) : throughA0 s = s := by
  unfold throughA0
  rw [h]
  rfl

theorem powerQuery_answers {s : State} {n : Nat} (h : Taken s n 0x400) : ∃ t, exec (.powerQuery n) s = .next t ∧
    answers s t n 0 0 (powerBlock s) ∧ t.cores = s.cores ∧ t.plane = s.plane ∧ pwrState t = pwrState s := by
  obtain ⟨t, ht, ha, he, hp⟩ := mbxCmd_power (f := fun s => (s, ⟨stOK, 0, powerBlock s⟩)) h rfl rfl rfl
  rw [he, powerBlock_respond s h.box, ← he] at ha
  exact ⟨t, ht, ha, by rw [he, respond_cores], by rw [he, respond_plane], hp⟩

/-- The function of POWER's A0. -/
def setA0 (s : State) (n : Nat) : State × Answer :=
  match pwrState s with
  | 3 => powerAnswer { exitA3 s with due := some (.a3Exit n) }
  | _ => powerAnswer (throughA0 s)

theorem powerSetA0_eq (s : State) (n : Nat) : execPowerSetA0 n s = mbxCmd n 0x401 s fun s => setA0 s n := rfl

theorem powerSetA0_fromA1 {s : State} {n : Nat} (h : Taken s n 0x401) (hp : pwrState s = 1) : ∃ t, exec (.powerSetA0 n) s = .next t ∧
    answers s t n 0 0 (powerBlock t) ∧ pwrState t = 0 ∧ holdDuty t = 0 ∧ t.cores = s.cores ∧ t.plane = s.plane := by
  have hf : setA0 s n = powerAnswer (fullPower s) := by
    have hexit : throughA0 s = fullPower s := by
      unfold throughA0
      rw [hp]
      exact if_pos hp
    unfold setA0
    rw [hp, ← hexit]
    rfl
  have hframe := fullPower_frame s
  have hduty : holdDuty (fullPower s) = 0 := holdDuty_zeroDuty _
  have hpwr := fullPower_pwr s
  generalize fullPower s = u at *
  obtain ⟨t, ht, ha, he, hpt⟩ := mbxCmd_power (f := fun s => setA0 s n) h hf (by rw [hframe]) (by rw [hframe])
  refine ⟨t, (powerSetA0_eq s n).trans ht, ha, hpt.trans hpwr, ?_, ?_, ?_⟩
  · rw [he, holdDuty_respond u h.box, hduty]
  · rw [he, respond_cores, hframe]
  · rw [he, respond_plane, hframe]

theorem powerSetA0_fromA3 {s : State} {n : Nat} (h : Taken s n 0x401) (hp : pwrState s = 3) : ∃ t, exec (.powerSetA0 n) s = .next t ∧
    answers s t n 0 0 (powerBlock t) ∧ pwrState t = 0 ∧ t.dram = [] ∧ t.due = some (.a3Exit n) := by
  have hf : setA0 s n = powerAnswer { fullPower { s with dram := [] } with due := some (.a3Exit n) } := by
    unfold setA0
    rw [hp]
    rfl
  have hframe := fullPower_frame { s with dram := [] }
  have hpwr := fullPower_pwr { s with dram := [] }
  generalize fullPower { s with dram := [] } = u at *
  obtain ⟨t, ht, ha, he, hpt⟩ := mbxCmd_power (f := fun s => setA0 s n) h hf (by rw [hframe]) (by rw [hframe])
  refine ⟨t, (powerSetA0_eq s n).trans ht, ha, hpt.trans ((pwrState_congr rfl).trans hpwr), ?_, ?_⟩
  · rw [he, respond_dram, hframe]
  · rw [he, respond_due]

-- A0 from A2 -----------------------------------------------------------------------------------------------------------

theorem smGet_append {α : Type} (d : α) {m : SMap α} {k : Nat} (h : smGet d m k = d) (l : SMap α) : smGet d (l ++ m) k = smGet d l k := by
  induction l with
  | nil => exact h
  | cons e l ih =>
    obtain ⟨j, v⟩ := e
    rw [List.cons_append, smGet, smGet, ih]

theorem smGet_append_above {α : Type} (d : α) {l m : SMap α} {k : Nat} (h : ∀ e ∈ l, e.1 ≠ k) : smGet d (l ++ m) k = smGet d m k := by
  induction l with
  | nil => rfl
  | cons e l ih =>
    obtain ⟨hne, hl⟩ := List.forall_mem_cons.mp h
    rw [List.cons_append, smGet, if_neg hne, ih hl]

theorem regWord_restoreTiles (s : State) {a : Nat} (ha : a < 64 * 2 ^ 24) : regWord (restoreTiles s) a =
    (smGet none s.a2Saved a).getD (resetWord a) := by
  have hout : smGet none (s.regs.filter fun e => decide (64 * 2 ^ 24 ≤ e.1)) a = none :=
    smGet_absent _ fun e he => by
      have := of_decide_eq_true (List.mem_filter.mp he).2
      omega
  have hget : smGet none (restoreTiles s).regs a = smGet none s.a2Saved a := smGet_append none hout _
  unfold regWord
  rw [hget]
  cases smGet none s.a2Saved a with
  | none => rfl
  | some w => rfl

/-- TIL_SELF resets to 0. -/
theorem tileSelf_reset : ∀ i < 64, resetWord (dcs i 0x830) = 0 := by decide +kernel

theorem regBits_word (s : State) (a : Nat) {hi : Nat} (h : hi < 32) (lo : Nat) : regBits s a hi lo = bitsOf (regWord s a).toNat hi lo := by
  simp [regBits, Nat.div_eq_of_lt h, regNat]

theorem spillInForce_bridges (l : List Nat) (s : State) :
    l.foldl spillInForce s = { s with bridges := (l.foldl spillInForce s).bridges } := by
  induction l generalizing s with
  | nil => rfl
  | cons d l ih => exact ih (spillInForce s d)

/-- The module with its tiles powered again, before the reset of the plane. -/
def tilesBack (s : State) : State := restoreTiles (fullPower s)

/-- The plane reset of a module whose tiles are powered again. -/
def backToA0 (s : State) : State := bridgeDies.foldl spillInForce (planeReset (tilesBack s))

theorem exitA2_eq (s : State) : exitA2 s = resetDone (backToA0 s) 6 := rfl

theorem backToA0_regs (s : State) : (backToA0 s).regs = (planeReset (tilesBack s)).regs := by
  unfold backToA0
  rw [spillInForce_bridges]

theorem backToA0_frame (s : State) : (backToA0 s).mbx = s.mbx ∧ (backToA0 s).exec = s.exec ∧ (backToA0 s).cores = [] ∧
    (backToA0 s).image = none ∧ (backToA0 s).a2Saved = [] := by
  obtain ⟨hcores, himage, -⟩ := planeReset_cleared (tilesBack s)
  have hworks : Works (tilesBack s) (planeReset (tilesBack s)) := (Works.refl _).planeReset
  have hback : (tilesBack s).mbx = s.mbx ∧ (tilesBack s).exec = s.exec ∧ (tilesBack s).a2Saved = [] := by
    unfold tilesBack restoreTiles
    rw [fullPower_frame]
    exact ⟨rfl, rfl, rfl⟩
  obtain ⟨hm, he, ha⟩ := hback
  unfold backToA0
  rw [spillInForce_bridges]
  generalize planeReset (tilesBack s) = u at *
  exact ⟨hworks.mbx.trans hm, hworks.exec.trans he, hcores, himage, (congrArg State.a2Saved hworks).trans ha⟩

theorem resetDone_frame (s : State) (code : Nat) : resetDone s code = { s with regs := (resetDone s code).regs } := by
  unfold resetDone
  split
  · exact regSetBits_frame ..
  · rfl

theorem regWord_resetDone (s : State) (code : Nat) {a : Nat} (ha : a ≠ dcs SP 0x20) :
    regWord (resetDone s code) a = regWord s a := by
  unfold resetDone
  split
  · exact regWord_regSetBits_ne _ _ _ (by decide) ha
  · rfl

theorem exitA2_tile (s : State) {i : Nat} (h : i < 64) : regWord (exitA2 s) (dcs i 0x830) =
    (smGet none s.a2Saved (dcs i 0x830)).getD 0 := by
  have hkind : dieKind i = some .tile := by simp [dieKind, h]
  have hsaved : (fullPower s).a2Saved = s.a2Saved := by rw [fullPower_frame]
  calc regWord (exitA2 s) (dcs i 0x830)
    _ = regWord (backToA0 s) (dcs i 0x830) := regWord_resetDone _ _ (by unfold dcs SP; omega)
    _ = regWord (planeReset (tilesBack s)) (dcs i 0x830) := regWord_congr (backToA0_regs s) _
    _ = regWord (tilesBack s) (dcs i 0x830) := regWord_planeReset hkind (by decide) (by unfold SP; omega) _
    _ = _ := by
      unfold tilesBack
      rw [regWord_restoreTiles _ (by unfold dcs; omega), hsaved, tileSelf_reset i h]

theorem regWord_restoreTiles_above {s : State} (hs : ∀ e ∈ s.a2Saved, e.1 < 64 * 2 ^ 24) {a : Nat} (ha : 64 * 2 ^ 24 ≤ a) :
    regWord (restoreTiles s) a = regWord s a := by
  have h : smGet none (restoreTiles s).regs a = smGet none s.regs a := by
    unfold restoreTiles
    rw [smGet_append_above _ fun e he => Nat.ne_of_lt ((hs e he).trans_le ha)]
    exact smGet_filter_key (k := a) _ _ (fun k => decide (64 * 2 ^ 24 ≤ k)) (decide_eq_true ha)
  rw [regWord, regWord, h]

theorem exitA2_pwr {s : State} (h : Canonical s) : pwrState (exitA2 s) = 0 := by
  have hplane : regWord (planeReset (tilesBack s)) (dcs SP 0x200008) = regWord (tilesBack s) (dcs SP 0x200008) :=
    regWord_planeReset (k := .soundpost) rfl (by decide) le_rfl _
  have hsaved : ∀ e ∈ (fullPower s).a2Saved, e.1 < 64 * 2 ^ 24 := by
    obtain ⟨-, -, -, -, -, -, -, hsaved⟩ := h
    rw [fullPower_frame]
    exact hsaved
  calc pwrState (exitA2 s)
    _ = pwrState (backToA0 s) := pwrState_of_word (regWord_resetDone _ _ (by unfold dcs; omega))
    _ = pwrState (planeReset (tilesBack s)) := pwrState_congr (backToA0_regs s)
    _ = pwrState (tilesBack s) := pwrState_of_word hplane
    _ = pwrState (fullPower s) := pwrState_of_word (regWord_restoreTiles_above hsaved (by unfold dcs SP; omega))
    _ = 0 := fullPower_pwr s

theorem powerSetA0_fromA2 {s : State} {n : Nat} (h : Taken s n 0x401) (hp : pwrState s = 2) (hcan : Canonical s) : ∃ t, exec (.powerSetA0 n) s = .next t ∧
    answers s t n 0 0 (powerBlock t) ∧ pwrState t = 0 ∧ t.cores = [] ∧ t.image = none ∧ t.a2Saved = [] ∧
    ∀ i < 64, regBits t (dcs i 0x830) 8 0 = bitsOf (match smGet none s.a2Saved (dcs i 0x830) with
        | some w => w.toNat | none => 0) 8 0 := by
  have hf : setA0 s n = powerAnswer (exitA2 s) := by
    have hexit : throughA0 s = exitA2 s := by
      unfold throughA0
      rw [hp]
      rfl
    unfold setA0
    rw [hp, ← hexit]
    rfl
  obtain ⟨hm, he, hcores, himage, hsaved⟩ := backToA0_frame s
  have hframe : exitA2 s = { backToA0 s with regs := (exitA2 s).regs } := resetDone_frame (backToA0 s) 6
  have htile := fun i hi => exitA2_tile s (i := i) hi
  have hpwr := exitA2_pwr hcan
  generalize backToA0 s = w at *
  generalize exitA2 s = u at *
  obtain ⟨t, ht, ha, hte, hpt⟩ := mbxCmd_power (f := fun s => setA0 s n) h hf (by rw [hframe, hm]) (by rw [hframe, he])
  refine ⟨t, (powerSetA0_eq s n).trans ht, ha, hpt.trans hpwr, ?_, ?_, ?_, fun i hi => ?_⟩
  · rw [hte, respond_cores, hframe, hcores]
  · rw [hte, respond_image, hframe, himage]
  · rw [hte, respond_a2Saved, hframe, hsaved]
  · have hw : regWord t (dcs i 0x830) = regWord u (dcs i 0x830) := by
      rw [hte]
      exact regWord_respond u h.box _ (by unfold dcs APL; omega)
    have hbits : regBits t (dcs i 0x830) 8 0 = bitsOf (regWord t (dcs i 0x830)).toNat 8 0 := regBits_word _ _ (by decide) _
    rw [hbits, hw, htile i hi]
    cases smGet none s.a2Saved (dcs i 0x830) with
    | none => rfl
    | some w => rfl

-- A1, A2 and A3 --------------------------------------------------------------------------------------------------------

/-- The function of POWER's A1. -/
def setA1 (s : State) : State × Answer :=
  if pwrState s = 1 then powerAnswer s
  else if s.plane.run ≠ .idle ∧ s.plane.run ≠ .paused then (s, .st stPWR_RUN)
  else powerAnswer (setPwr (throughA0 s) 1)

theorem powerSetA1_eq (s : State) (n : Nat) : execPowerSetA1 n s = mbxCmd n 0x402 s setA1 := rfl

theorem powerSetA1_quiet {s : State} {n : Nat} (h : Taken s n 0x402) (hp : pwrState s = 0)
    (hr : s.plane.run = .idle ∨ s.plane.run = .paused) : ∃ t, exec (.powerSetA1 n) s = .next t ∧ answers s t n 0 0 (powerBlock t) ∧
    pwrState t = 1 ∧ t.cores = s.cores ∧ t.dram = s.dram ∧ t.plane = s.plane := by
  have hf : setA1 s = powerAnswer (setPwr s 1) := by
    have hrun : ¬(s.plane.run ≠ .idle ∧ s.plane.run ≠ .paused) := by tauto
    unfold setA1
    rw [hp, throughA0_a0 hp, if_neg (by decide), if_neg hrun]
  have hframe := setPwr_frame s 1
  have hpwr := pwrState_setPwr s (x := 1) (by decide)
  generalize setPwr s 1 = u at *
  obtain ⟨t, ht, ha, he, hpt⟩ := mbxCmd_power h hf (by rw [hframe]) (by rw [hframe])
  refine ⟨t, (powerSetA1_eq s n).trans ht, ha, hpt.trans hpwr, ?_, ?_, ?_⟩
  · rw [he, respond_cores, hframe]
  · rw [he, respond_dram, hframe]
  · rw [he, respond_plane, hframe]

theorem powerSetA1_refuses {s : State} {n : Nat} (h : Taken s n 0x402) (hp : pwrState s = 0)
    (hr : s.plane.run = .armed ∨ s.plane.run = .running) : ∃ t, exec (.powerSetA1 n) s = .next t ∧ answers s t n 0x40 0 [] ∧
    pwrState t = 0 := by
  have hf : setA1 s = (s, .st stPWR_RUN) := by
    unfold setA1
    rw [hp, if_neg (by decide), if_pos]
    rcases hr with hr | hr <;> rw [hr] <;> decide
  obtain ⟨ht, ha⟩ := mbxCmd_answers h hf rfl rfl (by decide) (by decide) (by decide)
  exact ⟨_, (powerSetA1_eq s n).trans ht, ha, (pwrState_respond s h.box _).trans hp⟩

/-- No Bridge of the list takes another frame into memory. -/
def stopSpill (l : List Nat) (s : State) : State := l.foldl (fun s d => modBridge s d fun b => { b with spillOn := false }) s

theorem stopSpill_frame (l : List Nat) (s : State) : stopSpill l s = { s with bridges := (stopSpill l s).bridges } := by
  unfold stopSpill
  induction l generalizing s with
  | nil => rfl
  | cons d l ih => exact ih (modBridge s d fun b => { b with spillOn := false })

theorem stopSpill_stops {d : Nat} {l : List Nat} (h : d ∈ l) (s : State) : (bridge (stopSpill l s) d).spillOn = false :=
  foldl_sets (P := fun d s => (bridge s d).spillOn = false) (fun _ _ => by rw [bridge_modBridge_same])
    (fun s _ _ hne hs => by rw [modBridge, bridge_setBridge_ne s _ hne.symm, hs]) l s h

theorem mem_bridgeDies {d : Nat} (h : isBridge d = true) : d ∈ bridgeDies := by
  obtain ⟨h64, h100⟩ := bounds_of_isBridge h
  exact List.mem_map.mpr ⟨d - 64, List.mem_range.mpr (by omega), by omega⟩

/-- A2 asked for in mailbox `n` waits. -/
def awaiting (s : State) (n : Nat) : State := { s with exec := { s.exec with draining := some n } }

theorem beginA2_eq (s : State) (n : Nat) : beginA2 s n = awaiting (stopSpill bridgeDies (throughA0 s)) n := rfl

theorem bridge_awaiting (s : State) (n d : Nat) : bridge (awaiting s n) d = bridge s d := rfl

theorem powerSetA2_begins {s : State} {n : Nat} (h : Taken s n 0x403) (hp : pwrState s = 0) (hr : s.plane.run = .idle) :
    exec (.powerSetA2 n) s = .next (beginA2 s n) := by
  change execPowerSetA2 n s = _
  unfold execPowerSetA2
  rw [if_neg (Nat.not_le.mpr h.box), if_neg (by rw [h.takes]; decide), if_neg (not_not.mpr h.passes), if_neg (by rw [hp]; decide),
    if_neg (not_not.mpr hr)]

theorem awaiting_stopSpill (l : List Nat) (s : State) (n : Nat) : (awaiting (stopSpill l s) n).exec.draining = some n ∧
    (awaiting (stopSpill l s) n).cores = s.cores ∧ (awaiting (stopSpill l s) n).dram = s.dram ∧
    pwrState (awaiting (stopSpill l s) n) = pwrState s ∧ (awaiting (stopSpill l s) n).mbx = s.mbx := by
  rw [stopSpill_frame]
  generalize (stopSpill l s).bridges = b
  exact ⟨rfl, rfl, rfl, pwrState_congr rfl, rfl⟩

theorem powerSetA2_drains {s : State} {n : Nat} (h : Taken s n 0x403) (hp : pwrState s = 0) (hr : s.plane.run = .idle) :
    ∃ t, exec (.powerSetA2 n) s = .next t ∧ t.exec.draining = some n ∧ (∀ d, isBridge d = true → (bridge t d).spillOn = false) ∧
      t.cores = s.cores ∧ t.dram = s.dram ∧ pwrState t = 0 ∧ t.mbx = s.mbx := by
  have hexec : exec (.powerSetA2 n) s = .next (awaiting (stopSpill bridgeDies s) n) := by
    rw [powerSetA2_begins h hp hr, beginA2_eq, throughA0_a0 hp]
  obtain ⟨hdraining, hcores, hdram, hpwr, hm⟩ := awaiting_stopSpill bridgeDies s n
  have hstops (d : Nat) (hd : isBridge d = true) : (bridge (awaiting (stopSpill bridgeDies s) n) d).spillOn = false := by
    rw [bridge_awaiting, stopSpill_stops (mem_bridgeDies hd)]
  exact ⟨_, hexec, hdraining, hstops, hcores, hdram, hpwr.trans hp, hm⟩

/-- Each tile's unit is given `g` of what it is. -/
theorem smGet_foldl_smSet {α : Type} [DecidableEq α] {d : α} {g : α → α} {m : SMap α} (h : smWf d m = true) (m' : SMap α) (k : Nat) :
    smGet d (m.foldl (fun m e => smSet d m e.1 (g e.2)) m') k = if smGet d m k = d then smGet d m' k else g (smGet d m k) := by
  induction m generalizing m' with
  | nil => exact (if_pos rfl).symm
  | cons e m ih =>
    obtain ⟨j, v⟩ := e
    obtain ⟨hv, habove, hm⟩ := (smWf_cons ..).mp h
    rw [List.foldl_cons, ih hm, smGet]
    by_cases hj : j = k
    · subst hj
      rw [smGet_absent d habove, if_pos rfl, if_pos rfl, if_neg hv, smGet_smSet_same]
    · rw [if_neg hj, smGet_smSet_ne _ _ _ (Ne.symm hj)]

/-- The tiles, each gated. -/
def gatedTiles (m : SMap Tile) : SMap Tile := m.foldl (fun m e => smSet Tile.reset m e.1 (gatedTile e.2)) []

theorem gatedTiles_get {m : SMap Tile} (h : smWf Tile.reset m = true) (i : Nat) :
    smGet Tile.reset (gatedTiles m) i = gatedTile (smGet Tile.reset m i) := by
  refine (smGet_foldl_smSet h [] i).trans ?_
  split
  · next hreset =>
    rw [hreset]
    rfl
  · rfl

/-- The tiles without power, but for the policers in force. -/
def gated (s : State) : State := { saveTiles s with cores := [], tiles := gatedTiles s.tiles }

theorem gateTiles_eq (s : State) : gateTiles s = setPwr (gated (failHost s)) 2 := rfl

theorem a2TileGate_waits {s : State} {n : Nat} (hd : s.exec.draining = some n) (he : spillEmpty s = false) : exec .a2TileGate s = .next s := by
  change execA2TileGate s = _
  unfold execA2TileGate
  rw [hd]
  exact congrArg _ (if_pos (by rw [he]; exact Bool.or_true _))

/-- POWER's A2 is done. -/
def drained (s : State) : State := { gateTiles s with exec := { (gateTiles s).exec with draining := none } }

theorem gateTiles_frame (s : State) : gateTiles s = { s with
    regs := (gateTiles s).regs, cohWait := [], out := (gateTiles s).out, cores := [], tiles := gatedTiles s.tiles
    a2Saved := s.regs.filter fun e => decide (e.1 < 64 * 2 ^ 24) } := by
  obtain ⟨o, hfail⟩ : ∃ o, failHost s = { s with cohWait := [], out := o } := ⟨_, failHost_frame s⟩
  rw [gateTiles_eq, setPwr_frame, hfail]
  rfl

theorem drained_keeps (s : State) : (drained s).mbx = s.mbx ∧ (drained s).cores = [] ∧ (drained s).tiles = gatedTiles s.tiles ∧
    (drained s).exec = { s.exec with draining := none } ∧ (drained s).bridges = s.bridges ∧ (drained s).dram = s.dram ∧
    (drained s).a2Saved = s.regs.filter fun e => decide (e.1 < 64 * 2 ^ 24) := by
  have hframe := gateTiles_frame s
  unfold drained
  generalize gateTiles s = u at *
  rw [hframe]
  exact ⟨rfl, rfl, rfl, rfl, rfl, rfl, rfl⟩

theorem a2TileGate_gates {s : State} {n : Nat} (hn : n < 16) (hruns : soundpostRuns s = true) (hd : s.exec.draining = some n)
    (he : spillEmpty s = true) (hq : s.exec.queue = [n]) (hcan : Canonical s) :
    ∃ t, exec .a2TileGate s = .next t ∧ answers s t n 0 0 (powerBlock t) ∧
      pwrState t = 2 ∧ t.cores = [] ∧ (∀ i, tile t i = { Tile.reset with pol := (tile s i).pol }) ∧ t.exec.draining = none ∧
      t.bridges = s.bridges ∧ t.dram = s.dram ∧ t.a2Saved = s.regs.filter (fun e => decide (e.1 < 64 * 2 ^ 24)) := by
  have hexec : exec .a2TileGate s = .next (settleQueue 16 (respond (drained s) n (powerAnswer (gateTiles s)).2)) := by
    change execA2TileGate s = _
    unfold execA2TileGate
    rw [hd]
    exact congrArg _ (if_neg (by rw [hruns, he]; decide))
  have hblock : powerBlock (drained s) = powerBlock (gateTiles s) := powerBlock_congr (fun _ _ => regWord_congr rfl _) rfl
  have hpwr : pwrState (drained s) = 2 := (pwrState_congr rfl).trans (pwrState_setPwr (gated (failHost s)) (by decide))
  obtain ⟨hm, hcores, htiles, hexec', hbridges, hdram, hsaved⟩ := drained_keeps s
  have htile (i : Nat) : smGet Tile.reset (drained s).tiles i = { Tile.reset with pol := (tile s i).pol } := by
    obtain ⟨-, -, -, -, hwf, -⟩ := hcan
    rw [htiles]
    exact gatedTiles_get hwf i
  generalize drained s = u at *
  have hqueue : u.exec.queue = [n] := by rw [hexec', ← hq]
  have hanswers := respond_answers (s₀ := s) (s := u) (n := n) (a := (powerAnswer (gateTiles s)).2) hn (by rw [mbx, mbx, hm]) hqueue
    (Nat.two_pow_pos _) (Nat.two_pow_pos _) (by rw [show (powerAnswer (gateTiles s)).2.data = powerBlock (gateTiles s) from rfl, powerBlock_length]; decide)
  rw [settleQueue_nil _ _ (by rw [respond_exec, hqueue]; exact List.erase_cons_head ..)] at hexec
  refine ⟨_, hexec, ?_, ?_, ?_, fun i => ?_, ?_, ?_, ?_, ?_⟩
  · rw [powerBlock_respond u hn, hblock]
    exact hanswers
  · rw [pwrState_respond u hn, hpwr]
  · rw [respond_cores, hcores]
  · rw [tile, respond_tiles, htile i]
  · rw [respond_exec, hexec']
  · rw [respond_bridges, hbridges]
  · rw [respond_dram, hdram]
  · rw [respond_a2Saved, hsaved]

-- A3 -------------------------------------------------------------------------------------------------------------------

/-- The links that are UP have been taken down. -/
def linksDown (s : State) : State := (bridgeDies.filter fun d => linkState s d = lsUP).foldl disableLink s

theorem linksDown_works (s : State) : Works s (linksDown s) := .foldl (Works.refl s) fun _ _ h => h.departUp

/-- The function of POWER's A3. -/
def setA3 (s : State) : State × Answer :=
  if pwrState s = 3 then powerAnswer s
  else if s.plane.run ≠ .idle then (s, .st stPWR_RUN)
  else powerAnswer (enterA3 (throughA0 s))

theorem powerSetA3_eq (s : State) (n : Nat) : execPowerSetA3 n s = mbxCmd n 0x404 s setA3 := rfl

theorem enterA3_dark (s : State) : Dark (enterA3 s) ∧ pwrState (enterA3 s) = 3 ∧ (enterA3 s).mbx = s.mbx ∧ (enterA3 s).exec = s.exec := by
  have hdown := linksDown_works s
  have henter : enterA3 s = setPwr (darken (failHost (linksDown s))) 3 := rfl
  rw [henter]
  refine ⟨?_, pwrState_setPwr _ (by decide), ?_, ?_⟩
  · have hdark := darken_dark (failHost (linksDown s))
    generalize darken (failHost (linksDown s)) = u at *
    rw [setPwr_frame]
    exact ⟨hdark.cores, hdark.tiles, hdark.bridges, hdark.image⟩
  · rw [setPwr_frame, ← hdown.mbx, failHost_frame]
    rfl
  · rw [setPwr_frame, ← hdown.exec, failHost_frame]
    rfl

theorem powerSetA3_darkens {s : State} {n : Nat} (h : Taken s n 0x404) (hp : pwrState s = 0) (hr : s.plane.run = .idle) :
    ∃ t, exec (.powerSetA3 n) s = .next t ∧ answers s t n 0 0 (powerBlock t) ∧ pwrState t = 3 ∧ t.cores = [] ∧ t.tiles = [] ∧
      t.bridges = [] ∧ t.image = none := by
  have hf : setA3 s = powerAnswer (enterA3 s) := by
    unfold setA3
    rw [hp, throughA0_a0 hp, if_neg (by decide), if_neg (fun hne => hne hr)]
  obtain ⟨hdark, hpwr, hm, he⟩ := enterA3_dark s
  generalize enterA3 s = u at *
  obtain ⟨t, ht, ha, hte, hpt⟩ := mbxCmd_power h hf hm he
  refine ⟨t, (powerSetA3_eq s n).trans ht, ha, hpt.trans hpwr, ?_, ?_, ?_, ?_⟩
  · rw [hte, respond_cores, hdark.cores]
  · rw [hte, respond_tiles, hdark.tiles]
  · rw [hte, respond_bridges, hdark.bridges]
  · rw [hte, respond_image, hdark.image]

/-- Settles O44: what each power state keeps and loses is that of its own function; the answer's power block is read after it. -/
theorem powerStatesAreSet : Obligations.PowerStatesAreSet :=
  ⟨fun _ _ => powerQuery_answers, fun _ _ h => ⟨powerSetA0_fromA1 h, powerSetA0_fromA3 h, powerSetA0_fromA2 h⟩,
    fun _ _ h hp => ⟨powerSetA1_quiet h hp, powerSetA1_refuses h hp⟩, fun _ _ => powerSetA2_drains,
    fun _ _ hn hruns hd => ⟨a2TileGate_waits hd, a2TileGate_gates hn hruns hd⟩, fun _ _ => powerSetA3_darkens⟩

end Sys2Proof.Machine
end

section
/-! SUPPORT. The tuning ring (13 R344 to R346, R348; 18 R474). -/
namespace Sys2Proof.Machine
open Sys2Proof.Safety Sys2Proof.Claims

-- Written fields -------------------------------------------------------------------------------------------------------

/-- A field that a write sets takes its value (01 R30). -/
theorem bitsOf_writtenWord {r : RegDef} {w hi lo : Nat} (hrw : ∀ i ∈ List.range' lo (hi + 1 - lo), (maskOf (fun f => f.acc = .rw) w r.fields).getLsbD i = true)
    (hw1 : maskOf (fun f => f.acc = .w1c) w r.fields = 0#32) (old v : Word) :
    bitsOf (writtenWord r w old v).toNat hi lo = bitsOf v.toNat hi lo := by
  refine Nat.eq_of_testBit_eq fun i => ?_
  rw [bitsOf, bitsOf, Nat.testBit_mod_two_pow, Nat.testBit_mod_two_pow, Nat.testBit_shiftRight, Nat.testBit_shiftRight]
  by_cases hi' : i < hi + 1 - lo
  · have hmask := hrw (lo + i) (List.mem_range'_1.mpr ⟨by omega, by omega⟩)
    have hlt : lo + i < 32 := BitVec.lt_of_getLsbD hmask
    have hbit : (writtenWord r w old v).getLsbD (lo + i) = v.getLsbD (lo + i) := by
      have hmask : (maskOf (fun f => decide (f.acc = .rw)) w r.fields)[lo + i] = true := hmask
      have hones : (4294967295#32).getLsbD (lo + i) = true := by
        rw [show 4294967295#32 = BitVec.allOnes 32 from rfl, BitVec.getLsbD_allOnes]
        exact decide_eq_true hlt
      have hones : (4294967295#32)[lo + i] = true := hones
      simp [writtenWord, hw1, hmask, hlt, hones]
    rw [← BitVec.testBit_toNat, ← BitVec.testBit_toNat] at hbit
    rw [hbit]
  · simp [hi']

theorem bitsOf_bit {n : Nat} (v : BitVec n) (i : Nat) : bitsOf v.toNat i i = (v.getLsbD i).toNat := by
  rw [bitsOf, Nat.add_sub_cancel_left, Nat.shiftRight_eq_div_pow, pow_one, ← BitVec.testBit_toNat, Nat.toNat_testBit]

theorem regBits_regWrite {a : Nat} {r : RegDef} {w hi lo : Nat} (hf : findReg a = some (r, w)) (hhi : hi < 32)
    (hrw : ∀ i ∈ List.range' lo (hi + 1 - lo), (maskOf (fun f => f.acc = .rw) w r.fields).getLsbD i = true)
    (hw1 : maskOf (fun f => f.acc = .w1c) w r.fields = 0#32) (s : State) (v : Word) :
    regBits (regWrite s a v) a hi lo = bitsOf v.toNat hi lo := by
  rw [regBits_word _ _ hhi, regWrite, hf]
  simp only [regWord_regPut_same]
  exact bitsOf_writtenWord hrw hw1 _ _

theorem regWrite_frame (s : State) (a : Nat) (v : Word) : regWrite s a v = { s with regs := (regWrite s a v).regs } := by
  unfold regWrite
  split <;> rfl

theorem regWord_regWrite_ne (s : State) {a b : Nat} (v : Word) (h : b ≠ a) : regWord (regWrite s a v) b = regWord s b := by
  unfold regWrite
  split
  · rfl
  · exact regWord_regPut_ne _ _ h

-- The state of the ring ------------------------------------------------------------------------------------------------

theorem regBits_withRing (s : State) (r : Ring) (a hi lo : Nat) : regBits { s with ring := r } a hi lo = regBits s a hi lo :=
  regBits_congr (s := s) (t := { s with ring := r }) rfl ..

theorem setRingState_frame (s : State) (x : Nat) :
    setRingState s x = { s with regs := (setRingState s x).regs, ring := { s.ring with good := 0, bad := 0 } } := by
  unfold setRingState
  dsimp only
  rw [regSetBits_frame]

theorem ringState_setRingState (s : State) {x : Nat} (h : x < 4) : ringState (setRingState s x) = x :=
  (regBits_regSetBits_same ..).trans (Nat.mod_eq_of_lt h)

/-- A change of the state leaves the flags of TUN_RINGSTAT. -/
theorem ringFlag_setRingState (s : State) (x : Nat) {hi lo : Nat} (h : 1 < lo) :
    regBits (setRingState s x) ringStat hi lo = regBits s ringStat hi lo :=
  (regBits_regSetBits_field _ _ _ (.inr h)).trans (regBits_withRing ..)

theorem ringCtl_setRingState (s : State) (x : Nat) {hi : Nat} (h : hi < 32) (lo : Nat) :
    regBits (setRingState s x) ringCtl hi lo = regBits s ringCtl hi lo :=
  (regBits_regSetBits_ne _ _ (.inl (by unfold ringCtl ringStat dcs; omega))).trans (regBits_withRing ..)

theorem enterHoldover_frame (s : State) : enterHoldover s =
    { s with regs := (enterHoldover s).regs, ring := (enterHoldover s).ring } ∧ (enterHoldover s).ring.heard = s.ring.heard ∧
      (enterHoldover s).ring.lost = s.ring.lost := by
  unfold enterHoldover
  split
  · exact ⟨rfl, rfl, rfl⟩
  · rw [setRingState_frame]
    exact ⟨rfl, rfl, rfl⟩

theorem ringState_enterHoldover (s : State) : ringState (enterHoldover s) = 2 := by
  unfold enterHoldover
  split
  · assumption
  · exact ringState_setRingState _ (by decide)

theorem ringFlag_enterHoldover (s : State) {hi lo : Nat} (h : 1 < lo) :
    regBits (enterHoldover s) ringStat hi lo = regBits s ringStat hi lo := by
  unfold enterHoldover
  split
  · rfl
  · exact (ringFlag_setRingState _ _ h).trans (regBits_withRing ..)

theorem ringCtl_enterHoldover (s : State) {hi : Nat} (h : hi < 32) (lo : Nat) :
    regBits (enterHoldover s) ringCtl hi lo = regBits s ringCtl hi lo := by
  unfold enterHoldover
  split
  · rfl
  · exact (ringCtl_setRingState _ _ h lo).trans (regBits_withRing ..)

-- Calm time ------------------------------------------------------------------------------------------------------------

theorem calm_awake {s : State} (h : Calm s) : s.muted = false := by
  have hruns := h.runs
  simp only [soundpostRuns, Bool.and_eq_true, Bool.not_eq_true'] at hruns
  exact hruns.2

/-- Nothing happens in a calm module while time passes (13 R344). -/
theorem passTo_calm {s : State} (h : Calm s) (x : Nat) : passTo s x = { s with count := max s.count x } := by
  by_cases hx : x ≤ s.count
  · rw [passTo, pass_reached _ hx, Nat.max_eq_left hx]
  · have hm : s.muted = false := calm_awake h
    have hd : muteDue s x = false := by
      have hs : regBits s (dcs TUN 0x108) 3 2 ≠ 1 := h.unarmed
      simp [muteDue, hs]
    obtain ⟨f, hf⟩ : ∃ f, x - s.count = f + 1 := ⟨x - s.count - 1, by omega⟩
    have hidle : passIdle s x = { s with count := max s.count x } := by
      rw [passIdle, hd, if_neg (by decide)]
      exact finishSparse_none h.still
    simp [passTo, hf, pass, hm, hx, planeRuns, takesSamples, h.idle, hidle]

theorem nextSync_multiple (s : State) : nextSync s % 2 ^ 20 = 0 ∧ s.count ≤ nextSync s := by
  have h : s.count ≤ 2 ^ 20 * ceilDiv (max 1 s.count) (2 ^ 20) := by
    unfold ceilDiv
    omega
  unfold nextSync
  dsimp only
  split <;> omega

theorem syncSend_sends {s : State} (h : Calm s) (hm : regBits s ringCtl 0 0 = 1) :
    ∃ t, exec .syncSend s = .next t ∧ t.count = nextSync s ∧ t.count % 2 ^ 20 = 0 ∧ s.count ≤ t.count ∧
      t.out = s.out ++ [.sync (syncWord t.count s.ring.lost)] ∧
      t = { s with count := t.count, out := t.out, ring := { s.ring with sentAt := some t.count } } := by
  obtain ⟨hmul, hle⟩ := nextSync_multiple s
  have hmuted : s.muted = false := calm_awake h
  have hexec : exec .syncSend s = .next (emit { s with count := nextSync s, ring := { s.ring with sentAt := some (nextSync s) } }
      (.sync (syncWord (nextSync s) s.ring.lost))) := by
    change execSyncSend s = _
    simp [execSyncSend, h.runs, hm, passTo_calm h, Nat.max_eq_right hle, hmuted]
  exact ⟨_, hexec, rfl, hmul, hle, rfl, rfl⟩

theorem syncSend_none {s : State} (h : regBits s ringCtl 0 0 = 0) : exec .syncSend s = .next s := by
  change execSyncSend s = _
  exact congrArg _ (if_pos (by simp [h]))

/-- A silence of two periods: the master's own SYNC is lost (13 R346). -/
def silent (s : State) : State :=
  if regBits s ringCtl 0 0 = 1 then regSetBits { s with ring := { s.ring with lost := true } } ringStat 2 2 1 else s

theorem silent_frame (s : State) : silent s = { s with regs := (silent s).regs, ring := (silent s).ring } := by
  unfold silent
  split
  · rw [regSetBits_frame]
  · rfl

theorem syncTimeout_holdsOver {s : State} (h : Calm s) (hr : ringState s < 3) :
    ∃ t, exec .syncTimeout s = .next t ∧ ringState t = 2 ∧
    t.count = max s.count (s.ring.heard + 2 ^ 21) ∧ t.cores = s.cores ∧ t.dram = s.dram := by
  have hexec : exec .syncTimeout s = .next (enterHoldover (silent { s with count := max s.count (s.ring.heard + 2 ^ 21) })) := by
    have hmuted : s.muted = false := calm_awake h
    change execSyncTimeout s = _
    unfold execSyncTimeout silent
    rw [if_neg (by simp [h.runs, hr.ne]), passTo_calm h]
    refine congrArg _ ((if_neg (by simp [hmuted])).trans ?_)
    split <;> rfl
  refine ⟨_, hexec, ringState_enterHoldover _, ?_⟩
  obtain ⟨hframe, -⟩ := enterHoldover_frame (silent { s with count := max s.count (s.ring.heard + 2 ^ 21) })
  rw [hframe, silent_frame]
  exact ⟨rfl, rfl, rfl⟩

-- Words ----------------------------------------------------------------------------------------------------------------

/-- A valid word has been heard: its error and OPEN are in TUN_RINGSTAT. -/
def heardWord (s : State) (w : SyncWord) : State :=
  regSetBits (regSetBits { s with ring := { s.ring with heard := s.count, lost := false } } ringStat 15 8
    (errField ((s.count : Int) - (w.count.toNat + regBits s ringCtl 23 8 : Nat)))) ringStat 2 2 (if syncOpen w then 1 else 0)

theorem takeSync_eq (s : State) (w : SyncWord) : takeSync s w = if syncOpen w then enterHoldover (heardWord s w) else
    syncActs (heardWord s w) ((s.count : Int) - (w.count.toNat + regBits s ringCtl 23 8 : Nat)) (w.count.toNat + regBits s ringCtl 23 8) := rfl

theorem heardWord_frame (s : State) (w : SyncWord) : heardWord s w =
    { s with regs := (heardWord s w).regs, ring := { s.ring with heard := s.count, lost := false } } := by
  unfold heardWord
  rw [regSetBits_frame, regSetBits_frame { s with ring := _ }]

theorem ringState_heardWord (s : State) (w : SyncWord) : ringState (heardWord s w) = ringState s :=
  (regBits_regSetBits_field _ _ _ (.inl (by decide))).trans ((regBits_regSetBits_field _ _ _ (.inl (by decide))).trans
    (regBits_withRing ..))

theorem ringOpen_heardWord (s : State) (w : SyncWord) : regBits (heardWord s w) ringStat 2 2 = if syncOpen w then 1 else 0 := by
  refine (regBits_regSetBits_same ..).trans ?_
  split <;> rfl

theorem ringHold_heardWord (s : State) (w : SyncWord) : regBits (heardWord s w) ringCtl 2 2 = regBits s ringCtl 2 2 := by
  have hne : ringCtl + 4 * (2 / 32 + 1) ≤ ringStat := by unfold ringCtl ringStat dcs; omega
  exact (regBits_regSetBits_ne _ _ (.inl hne)).trans ((regBits_regSetBits_ne _ _ (.inl hne)).trans (regBits_withRing ..))

section
variable {s : State} {e : Int} {target : Nat}

/-- What the word of a target changes: the count, TUN_RINGSTAT but for OPEN, and the ring's own counts. -/
structure Acted (s : State) (target : Nat) (t : State) : Prop where
  rest : t = { s with count := t.count, regs := t.regs, ring := t.ring }
  heard : t.ring.heard ∈ [s.ring.heard, target]
  lost : t.ring.lost = s.ring.lost
  isOpen : regBits t ringStat 2 2 = regBits s ringStat 2 2

theorem Acted.refl (s : State) (target : Nat) : Acted s target s := ⟨rfl, List.mem_cons_self, rfl, rfl⟩

theorem Acted.setRingState (s : State) (target x : Nat) : Acted s target (setRingState s x) := by
  have hopen := ringFlag_setRingState s x (hi := 2) (lo := 2) (by decide)
  have hframe := setRingState_frame s x
  generalize Machine.setRingState s x = t at *
  have hring : t.ring = { s.ring with good := 0, bad := 0 } := by rw [hframe]
  exact ⟨by rw [hframe], by rw [hring]; exact List.mem_cons_self, by rw [hring], hopen⟩

theorem syncActs_acted (s : State) (e : Int) (target : Nat) : Acted s target (syncActs s e target) := by
  unfold syncActs
  dsimp only
  split
  · split
    · split
      · exact .setRingState ..
      · exact ⟨rfl, List.mem_cons_self, rfl, regBits_withRing ..⟩
    · split
      · exact ⟨rfl, List.mem_cons_of_mem _ List.mem_cons_self, rfl, regBits_congr rfl ..⟩
      · exact ⟨rfl, List.mem_cons_self, rfl, regBits_withRing ..⟩
  · split
    · exact ⟨rfl, List.mem_cons_self, rfl, regBits_withRing ..⟩
    · split
      · exact .setRingState ..
      · exact ⟨rfl, List.mem_cons_self, rfl, regBits_withRing ..⟩
  · split
    · exact .setRingState ..
    · exact .refl ..
  · exact .refl ..

theorem syncActs_near (h : ringState s = 0) (hn : decide (e.natAbs ≤ 2) = true) (hg : s.ring.good + 1 < 16) :
    ringState (syncActs s e target) = 0 ∧ (syncActs s e target).ring.good = s.ring.good + 1 := by
  have hacts : syncActs s e target = { s with ring := { s.ring with good := s.ring.good + 1 } } := by
    unfold syncActs
    rw [h]
    exact (if_pos hn).trans (if_neg hg.ne)
  rw [hacts]
  exact ⟨(regBits_withRing ..).trans h, rfl⟩

theorem syncActs_locks (h : ringState s = 0) (hn : decide (e.natAbs ≤ 2) = true) (hg : s.ring.good + 1 = 16) :
    ringState (syncActs s e target) = 1 := by
  have hacts : syncActs s e target = setRingState s 1 := by
    unfold syncActs
    rw [h]
    exact (if_pos hn).trans (if_pos hg)
  rw [hacts, ringState_setRingState _ (by decide)]

theorem syncActs_far (h : ringState s = 0) (hn : decide (e.natAbs ≤ 2) = false) :
    (syncActs s e target).ring.good = 0 ∧ ringState (syncActs s e target) = 0 ∧
      (syncActs s e target).count = if s.plane.run = .idle then target else s.count := by
  have hacts : syncActs s e target = if s.plane.run = .idle then
      { s with count := target, ring := { s.ring with good := 0, heard := target } } else { s with ring := { s.ring with good := 0 } } := by
    unfold syncActs
    rw [h]
    exact if_neg (by rw [hn]; decide)
  rw [hacts]
  split
  · exact ⟨rfl, (regBits_congr (s := s) (t := { s with count := target, ring := _ }) rfl ..).trans h, rfl⟩
  · exact ⟨rfl, (regBits_withRing ..).trans h, rfl⟩

theorem syncActs_stays (h : ringState s = 1) (hn : decide (e.natAbs ≤ 2) = true) :
    ringState (syncActs s e target) = 1 ∧ (syncActs s e target).ring.bad = 0 := by
  have hacts : syncActs s e target = { s with ring := { s.ring with bad := 0 } } := by
    unfold syncActs
    rw [h]
    exact if_pos hn
  rw [hacts]
  exact ⟨(regBits_withRing ..).trans h, rfl⟩

theorem syncActs_unlocks (h : ringState s = 1) (hn : decide (e.natAbs ≤ 2) = false) :
    ringState (syncActs s e target) = if s.ring.bad + 1 = 4 then 0 else 1 := by
  have hacts : syncActs s e target = if s.ring.bad + 1 = 4 then setRingState s 0 else { s with ring := { s.ring with bad := s.ring.bad + 1 } } := by
    unfold syncActs
    rw [h]
    exact if_neg (by rw [hn]; decide)
  rw [hacts]
  split
  · rw [ringState_setRingState _ (by decide)]
  · exact (regBits_withRing ..).trans h

theorem syncActs_acquires (h : ringState s = 2) (hc : regBits s ringCtl 2 2 = 0) : ringState (syncActs s e target) = 0 := by
  have hacts : syncActs s e target = setRingState s 0 := by
    unfold syncActs
    rw [h]
    exact if_pos hc
  rw [hacts, ringState_setRingState _ (by decide)]

end

/-- The module passes the word on, but not the master its own (13 R344). -/
def passedOn (s : State) (w : SyncWord) : State := if regBits s ringCtl 0 0 = 1 then s else emit s (.sync w)

theorem syncReceive_up {s : State} {w : SyncWord} (hl : s.life = .up) (hm : s.muted = false) : exec (.syncReceive w) s =
    .next (if ringState (passedOn s w) = 3 || !syncValid w then passedOn s w else takeSync (passedOn s w) w) := by
  change execSyncReceive w s = _
  unfold execSyncReceive
  rw [hm, if_neg (by decide), if_neg (not_not.mpr hl)]
  rfl

theorem passedOn_member {s : State} {w : SyncWord} (h : regBits s ringCtl 0 0 = 0) : passedOn s w = emit s (.sync w) :=
  if_neg (by rw [h]; decide)

theorem passedOn_master {s : State} {w : SyncWord} (h : regBits s ringCtl 0 0 = 1) : passedOn s w = s := if_pos h

theorem ringState_emit (s : State) (o : Output) : ringState (emit s o) = ringState s := regBits_congr (emit_regs ..) ..

theorem syncReceive_passes {s : State} {w : SyncWord} (hl : s.life = .up) (hm : s.muted = false) (hr : regBits s ringCtl 0 0 = 0)
    (h : ringState s = 3 ∨ syncValid w = false) : exec (.syncReceive w) s = .next { s with out := s.out ++ [.sync w] } := by
  rw [syncReceive_up hl hm, passedOn_member hr, ringState_emit, if_pos]
  · rfl
  · rcases h with h | h <;> simp [h]

/-- What a word taken changes. -/
theorem takeSync_rest (s : State) (w : SyncWord) :
    let t := takeSync s w
    t = { s with count := t.count, regs := t.regs, ring := t.ring } ∧ t.ring.heard ∈ [s.count, w.count.toNat + regBits s ringCtl 23 8] ∧
      t.ring.lost = false ∧ regBits t ringStat 2 2 = if syncOpen w then 1 else 0 := by
  have hframe := heardWord_frame s w
  have hopen := ringOpen_heardWord s w
  rw [takeSync_eq]
  generalize heardWord s w = u at *
  have hring : u.ring = { s.ring with heard := s.count, lost := false } := by rw [hframe]
  dsimp only
  split
  · next hw =>
    obtain ⟨hrest, hheard, hlost⟩ := enterHoldover_frame u
    have hflag := ringFlag_enterHoldover u (hi := 2) (lo := 2) (by decide)
    generalize enterHoldover u = t at *
    refine ⟨by rw [hrest, hframe], ?_, hlost.trans (by rw [hring]), hflag.trans (by rw [hopen, if_pos hw])⟩
    rw [hheard, hring]
    exact List.mem_cons_self
  · next hw =>
    obtain ⟨hrest, hheard, hlost, hflag⟩ := syncActs_acted u ((s.count : Int) - (w.count.toNat + regBits s ringCtl 23 8 : Nat))
      (w.count.toNat + regBits s ringCtl 23 8)
    generalize syncActs u _ _ = t at *
    refine ⟨by rw [hrest, hframe], ?_, hlost.trans (by rw [hring]), hflag.trans (by rw [hopen, if_neg hw])⟩
    rw [hring] at hheard
    exact hheard

theorem syncReceive_takes {s : State} {w : SyncWord} (hl : s.life = .up) (hm : s.muted = false)
    (h : ringState s ≠ 3) (hv : syncValid w = true) : exec (.syncReceive w) s = .next (takeSync (passedOn s w) w) := by
  have hstate : ringState (passedOn s w) = ringState s := by
    unfold passedOn
    split
    · rfl
    · exact ringState_emit ..
  rw [syncReceive_up hl hm, hstate, if_neg (by simp [h, hv])]

theorem syncReceive_member {s : State} {w : SyncWord} (hl : s.life = .up) (hm : s.muted = false) (hc : regBits s ringCtl 0 0 = 0) :
    let target := w.count.toNat + regBits s ringCtl 23 8
    let near := decide (((s.count : Int) - target).natAbs ≤ 2)
    (ringState s = 3 ∨ syncValid w = false → exec (.syncReceive w) s = .next { s with out := s.out ++ [.sync w] }) ∧
    (ringState s ≠ 3 → syncValid w = true → ∃ t, exec (.syncReceive w) s = .next t ∧ t.out = s.out ++ [.sync w] ∧ t.ring.heard ∈ [s.count, target] ∧
      regBits t ringStat 2 2 = (if syncOpen w then 1 else 0) ∧ t.cores = s.cores ∧ t.plane = s.plane ∧
      (syncOpen w = true → ringState t = 2) ∧
      (syncOpen w = false → ringState s = 0 → near = true → s.ring.good + 1 < 16 → ringState t = 0 ∧ t.ring.good = s.ring.good + 1) ∧
      (syncOpen w = false → ringState s = 0 → near = true → s.ring.good + 1 = 16 → ringState t = 1) ∧
      (syncOpen w = false → ringState s = 0 → near = false → t.ring.good = 0 ∧ ringState t = 0 ∧
        t.count = if s.plane.run = .idle then target else s.count) ∧
      (syncOpen w = false → ringState s = 1 → near = true → ringState t = 1 ∧ t.ring.bad = 0) ∧
      (syncOpen w = false → ringState s = 1 → near = false → ringState t = if s.ring.bad + 1 = 4 then 0 else 1) ∧
      (syncOpen w = false → ringState s = 2 → regBits s ringCtl 2 2 = 0 → ringState t = 0)) := by
  intro target near
  refine ⟨syncReceive_passes hl hm hc, fun hr hv => ⟨_, syncReceive_takes hl hm hr hv, ?_⟩⟩
  rw [passedOn_member hc]
  have hoffset : regBits (emit s (.sync w)) ringCtl 23 8 = regBits s ringCtl 23 8 := regBits_congr (emit_regs ..) ..
  obtain ⟨hrest, hheard, -, hopen⟩ := takeSync_rest (emit s (.sync w)) w
  have heq := takeSync_eq (emit s (.sync w)) w
  rw [emit_count, hoffset] at heq hheard
  have hstate : ringState (heardWord (emit s (.sync w)) w) = ringState s := (ringState_heardWord ..).trans (ringState_emit ..)
  have hhold : regBits (heardWord (emit s (.sync w)) w) ringCtl 2 2 = regBits s ringCtl 2 2 :=
    (ringHold_heardWord ..).trans (regBits_congr (emit_regs ..) ..)
  obtain ⟨hring, hplane, hcount⟩ : (heardWord (emit s (.sync w)) w).ring = { s.ring with heard := s.count, lost := false } ∧
      (heardWord (emit s (.sync w)) w).plane = s.plane ∧ (heardWord (emit s (.sync w)) w).count = s.count := by
    rw [heardWord_frame]
    exact ⟨rfl, rfl, rfl⟩
  generalize heardWord (emit s (.sync w)) w = u at *
  generalize takeSync (emit s (.sync w)) w = t at *
  have hacts (hw : syncOpen w = false) : t = syncActs u ((s.count : Int) - target) target := heq.trans (if_neg (by rw [hw]; decide))
  have hgood : u.ring.good = s.ring.good := by rw [hring]
  have hbad : u.ring.bad = s.ring.bad := by rw [hring]
  refine ⟨by rw [hrest]; rfl, hheard, hopen, by rw [hrest]; rfl, by rw [hrest]; rfl, fun hw => ?_, fun hw h0 hn hg => ?_, fun hw h0 hn hg => ?_,
    fun hw h0 hn => ?_, fun hw h1 hn => ?_, fun hw h1 hn => ?_, fun hw h2 hh => ?_⟩
  · rw [heq, if_pos hw, ringState_enterHoldover]
  · rw [hacts hw, ← hgood]
    exact syncActs_near (hstate.trans h0) hn (by rw [hgood]; exact hg)
  · rw [hacts hw]
    exact syncActs_locks (hstate.trans h0) hn (by rw [hgood]; exact hg)
  · rw [hacts hw]
    obtain ⟨hgood, hstate, hat⟩ := syncActs_far (target := target) (hstate.trans h0) hn
    exact ⟨hgood, hstate, by rw [hat, hplane, hcount]⟩
  · rw [hacts hw]
    exact syncActs_stays (hstate.trans h1) hn
  · rw [hacts hw, ← hbad]
    exact syncActs_unlocks (hstate.trans h1) hn
  · rw [hacts hw]
    exact syncActs_acquires (hstate.trans h2) (hhold.trans hh)

theorem syncReceive_master {s : State} {w : SyncWord} (hl : s.life = .up) (hm : s.muted = false) (hc : regBits s ringCtl 0 0 = 1) :
    ∃ t, exec (.syncReceive w) s = .next t ∧ t.out = s.out ∧ (ringState s ≠ 3 → syncValid w = true → t.ring.lost = false) ∧
      t.cores = s.cores ∧ t.plane = s.plane := by
  by_cases h : ringState s = 3 ∨ syncValid w = false
  · have hexec : exec (.syncReceive w) s = .next s := by
      rw [syncReceive_up hl hm, passedOn_master hc, if_pos]
      rcases h with h | h <;> simp [h]
    refine ⟨s, hexec, rfl, fun hr hv => ?_, rfl, rfl⟩
    rw [hv] at h
    exact absurd (h.resolve_right (by decide)) hr
  · obtain ⟨hr, hv⟩ := not_or.mp h
    refine ⟨_, syncReceive_takes hl hm hr (by simpa using hv), ?_⟩
    rw [passedOn_master hc]
    obtain ⟨hrest, -, hlost, -⟩ := takeSync_rest s w
    generalize takeSync s w = t at *
    exact ⟨by rw [hrest], fun _ _ => hlost, by rw [hrest], by rw [hrest]⟩

theorem syncReceive_bypass {s : State} {w : SyncWord} (hl : s.life ≠ .up) (hm : s.muted = false) :
    exec (.syncReceive w) s = .next { s with out := s.out ++ [.sync w] } := by
  change execSyncReceive w s = _
  unfold execSyncReceive
  exact congrArg _ ((if_neg (by rw [hm]; decide)).trans (if_pos hl))

-- RINGCTL --------------------------------------------------------------------------------------------------------------

theorem ringCtl_fields : ∃ x, findIn regTable .tuning 0x10 = some x ∧
    (∀ i ∈ [0, 1, 2, 8, 9, 10, 11, 12, 13, 14, 15, 16, 17, 18, 19, 20, 21, 22, 23], (maskOf (fun f => f.acc = .rw) x.2 x.1.fields).getLsbD i = true) ∧
    maskOf (fun f => f.acc = .w1c) x.2 x.1.fields = 0#32 := by decide +kernel

theorem ringCtl_written (s : State) (v : Word) {hi lo : Nat} (h : (hi = 2 ∧ lo = 0) ∨ (hi = 23 ∧ lo = 8) ∨ (hi = 1 ∧ lo = 1) ∨ (hi = 2 ∧ lo = 2)) :
    regBits (regWrite s ringCtl v) ringCtl hi lo = bitsOf v.toNat hi lo := by
  obtain ⟨⟨r, w⟩, hx, hrw, hw1⟩ := ringCtl_fields
  have hf : findReg ringCtl = some (r, w) := (findReg_dcs (k := .tuning) rfl (by decide)).trans hx
  refine regBits_regWrite hf (by omega) (fun i hi => hrw i ?_) hw1 s v
  rcases h with ⟨rfl, rfl⟩ | ⟨rfl, rfl⟩ | ⟨rfl, rfl⟩ | ⟨rfl, rfl⟩ <;>
  · simp only [List.mem_range'_1] at hi
    simp only [List.mem_cons, List.not_mem_nil, or_false]
    omega

/-- The count of the write is the one the new master hears from (13 R346). -/
def masterFrom (s : State) (old : Nat) : State :=
  if regBits s ringCtl 0 0 = 1 ∧ bitsOf old 0 0 = 0 then { s with ring := { s.ring with heard := s.count } } else s

/-- SOLO has been left: the ring is acquired anew. -/
def unsoloed (s : State) : State := if ringState s = 3 then setRingState { s with ring := { s.ring with heard := s.count } } 0 else s

theorem ringFollows_solo {s : State} (h : regBits s ringCtl 1 1 = 1) (old : Nat) : ringFollows s old =
    if ringState (masterFrom s old) = 3 then masterFrom s old else setRingState (masterFrom s old) 3 := by
  unfold ringFollows
  simp only [h, decide_true, Bool.not_true, Bool.false_eq_true, false_and, if_false, if_true]
  rfl

theorem ringFollows_member {s : State} (h : regBits s ringCtl 1 1 ≠ 1) (old : Nat) : ringFollows s old =
    if regBits (unsoloed (masterFrom s old)) ringCtl 2 2 = 1 then enterHoldover (unsoloed (masterFrom s old)) else unsoloed (masterFrom s old) := by
  unfold ringFollows
  simp only [h, decide_false, Bool.not_false, true_and, if_false]
  rfl

/-- A change of the ring that leaves RINGCTL. -/
structure RingOnly (s t : State) : Prop where
  rest : t = { s with regs := t.regs, ring := t.ring }
  ctl : ∀ hi < 32, ∀ lo, regBits t ringCtl hi lo = regBits s ringCtl hi lo

namespace RingOnly
variable {s t u : State}

theorem refl (s : State) : RingOnly s s := ⟨rfl, fun _ _ _ => rfl⟩

theorem trans (h : RingOnly s t) (h' : RingOnly t u) : RingOnly s u :=
  ⟨by rw [h'.rest, h.rest], fun hi hh lo => (h'.ctl hi hh lo).trans (h.ctl hi hh lo)⟩

theorem withRing (s : State) (r : Ring) : RingOnly s { s with ring := r } := ⟨rfl, fun _ _ _ => regBits_withRing ..⟩

theorem setRingState (s : State) (x : Nat) : RingOnly s (setRingState s x) :=
  ⟨by rw [setRingState_frame], fun _ h lo => ringCtl_setRingState _ _ h lo⟩

theorem enterHoldover (s : State) : RingOnly s (enterHoldover s) :=
  ⟨(enterHoldover_frame s).1, fun _ h lo => ringCtl_enterHoldover _ h lo⟩

theorem ite {c : Prop} [Decidable c] (h : RingOnly s t) (h' : RingOnly s u) : RingOnly s (if c then t else u) := by
  split
  · exact h
  · exact h'

theorem masterFrom (s : State) (old : Nat) : RingOnly s (masterFrom s old) := .ite (withRing ..) (refl s)

theorem unsoloed (s : State) : RingOnly s (unsoloed s) := .ite ((withRing ..).trans (setRingState ..)) (refl s)

theorem ringFollows (s : State) (old : Nat) : RingOnly s (ringFollows s old) := by
  by_cases h : regBits s ringCtl 1 1 = 1
  · rw [ringFollows_solo h]
    exact .ite (masterFrom ..) ((masterFrom ..).trans (setRingState ..))
  · rw [ringFollows_member h]
    have hleft := (masterFrom s old).trans (unsoloed _)
    exact .ite (hleft.trans (enterHoldover _)) hleft

end RingOnly

theorem ringState_masterFrom (s : State) (old : Nat) : ringState (masterFrom s old) = ringState s := by
  unfold masterFrom
  split
  · exact regBits_withRing ..
  · rfl

theorem ringState_ringFollows (s : State) (old : Nat) :
    (regBits s ringCtl 1 1 = 1 → ringState (ringFollows s old) = 3) ∧
    (regBits s ringCtl 1 1 = 0 → ringState s = 3 → regBits s ringCtl 2 2 = 0 → ringState (ringFollows s old) = 0) ∧
    (regBits s ringCtl 1 1 = 0 → regBits s ringCtl 2 2 = 1 → ringState (ringFollows s old) = 2) := by
  have hctl := ((RingOnly.masterFrom s old).trans (.unsoloed _)).ctl 2 (by decide) 2
  refine ⟨fun h => ?_, fun h h3 hh => ?_, fun h hh => ?_⟩
  · rw [ringFollows_solo h]
    split
    · assumption
    · exact ringState_setRingState _ (by decide)
  · rw [ringFollows_member (by rw [h]; decide), hctl, hh, if_neg (by decide), unsoloed, ringState_masterFrom, if_pos h3,
      ringState_setRingState _ (by decide)]
  · rw [ringFollows_member (by rw [h]; decide), hctl, hh, if_pos rfl, ringState_enterHoldover]

theorem ringctlWrite_follows {s : State} (v : BitVec 32) (h : Served s TUN) :
    ∃ t, exec (.tunRingctlWrite v) s = .next t ∧ regBits t ringCtl 2 0 = v.toNat % 8 ∧ regBits t ringCtl 23 8 = bitsOf v.toNat 23 8 ∧
      (v.getLsbD 1 = true → ringState t = 3) ∧ (v.getLsbD 1 = false → ringState s = 3 → v.getLsbD 2 = false → ringState t = 0) ∧
      (v.getLsbD 1 = false → v.getLsbD 2 = true → ringState t = 2) ∧ t.cores = s.cores ∧ t.plane = s.plane := by
  have hexec : exec (.tunRingctlWrite v) s = .next (emit (ringCtlWrite s v.toNat) (.mmioDone true)) := mmioWrite_of h
  refine ⟨_, hexec, ?_⟩
  have hctl (hi lo : Nat) (hh) : regBits (regWrite s ringCtl v) ringCtl hi lo = bitsOf v.toNat hi lo := ringCtl_written s v (hi := hi) (lo := lo) hh
  have hstate : ringState (regWrite s ringCtl v) = ringState s :=
    regBits_of_word (regWord_regWrite_ne _ _ (by unfold ringStat ringCtl dcs; omega)) _ (by decide)
  have hwrite : ringCtlWrite s v.toNat = ringFollows (regWrite s ringCtl v) (regNat s ringCtl 1) := by
    rw [ringCtlWrite, BitVec.ofNat_toNat, BitVec.setWidth_eq]
  have hframe := regWrite_frame s ringCtl v
  rw [hwrite]
  obtain ⟨hrest, hkeep⟩ := RingOnly.ringFollows (regWrite s ringCtl v) (regNat s ringCtl 1)
  obtain ⟨hsolo, hacquire, hhold⟩ := ringState_ringFollows (regWrite s ringCtl v) (regNat s ringCtl 1)
  have hemit (x hi lo : Nat) (u : State) : regBits (emit u (.mmioDone true)) x hi lo = regBits u x hi lo := regBits_congr (emit_regs ..) ..
  rw [hemit, hemit, ringState_emit, emit_cores, emit_plane]
  generalize ringFollows (regWrite s ringCtl v) (regNat s ringCtl 1) = t at *
  generalize regWrite s ringCtl v = u at *
  rw [hstate, hctl 1 1 (by decide), hctl 2 2 (by decide), bitsOf_bit, bitsOf_bit] at hacquire
  rw [hctl 1 1 (by decide), bitsOf_bit] at hsolo
  rw [hctl 1 1 (by decide), hctl 2 2 (by decide), bitsOf_bit, bitsOf_bit] at hhold
  refine ⟨?_, ?_, fun h1 => hsolo (by rw [h1]; rfl), fun h1 h3 h2 => hacquire (by rw [h1]; rfl) h3 (by rw [h2]; rfl),
    fun h1 h2 => hhold (by rw [h1]; rfl) (by rw [h2]; rfl), by rw [hrest, hframe], by rw [hrest, hframe]⟩
  · rw [hkeep 2 (by decide), hctl 2 0 (by decide)]
    rfl
  · rw [hkeep 23 (by decide), hctl 23 8 (by decide)]

/-- Settles O47: the state of the ring after a word is read off the branch that its state and its error take. -/
theorem ringFollowsItsWords : Obligations.RingFollowsItsWords :=
  ⟨fun _ h => syncSend_sends h, fun _ _ h => syncSend_none h, fun _ _ => syncReceive_member, fun _ _ => syncReceive_master,
    fun _ _ => syncReceive_bypass, fun _ => syncTimeout_holdsOver, fun _ => ringctlWrite_follows⟩

end Sys2Proof.Machine
end

section
/-! SUPPORT. The end of a governor period (16 R417, R418, R421, R423). -/
namespace Sys2Proof.Machine
open Sys2Proof.Safety Sys2Proof.Claims

-- The duty -------------------------------------------------------------------------------------------------------------

/-- The duty before its floor is applied. -/
def rawDuty (v : Verdict) (floor d run : Nat) : Nat × Nat :=
  if v.isOver then (min 64 (d + 8), 0)
  else if v.isUnder then (if run + 1 = 16 then (max floor (d - 1), 0) else (d, run + 1))
  else (d, 0)

theorem nextDuty_eq (v : Verdict) (floor d run : Nat) : (nextDuty v floor d run).1 = max (rawDuty v floor d run).1 floor := rfl

theorem rawDuty_le (v : Verdict) (floor d run : Nat) : (rawDuty v floor d run).1 ≤ max 64 (max floor d) := by
  unfold rawDuty
  split
  · exact le_max_of_le_left (min_le_left ..)
  · split
    · split
      · exact le_max_of_le_right (max_le_max_left _ (Nat.sub_le ..))
      · exact le_max_of_le_right (le_max_right ..)
    · exact le_max_of_le_right (le_max_right ..)

theorem rawDuty_over {v : Verdict} (h : v.isOver = true) (floor d run : Nat) : (rawDuty v floor d run).1 = min 64 (d + 8) := by
  rw [rawDuty, if_pos h]

theorem nextDuty_bounds {v : Verdict} {floor d run : Nat} (hf : floor ≤ 64) (hd : d ≤ 64) :
    floor ≤ (nextDuty v floor d run).1 ∧ (nextDuty v floor d run).1 ≤ 64 ∧ (v.isOver = true → d ≤ (nextDuty v floor d run).1) := by
  have hle := rawDuty_le v floor d run
  rw [nextDuty_eq]
  refine ⟨le_max_right .., by omega, fun ho => ?_⟩
  rw [rawDuty_over ho]
  omega

theorem nextDuty_lt (v : Verdict) (s : State) (run : Nat) : (nextDuty v (govFloor s) (holdDuty s) run).1 < 2 ^ 7 := by
  have hle := rawDuty_le v (govFloor s) (holdDuty s) run
  have hf : govFloor s ≤ 64 := min_le_left ..
  have hd : holdDuty s < 2 ^ 7 := Nat.mod_lt _ (by decide)
  rw [nextDuty_eq]
  omega

-- Events ---------------------------------------------------------------------------------------------------------------

/-- The registers that events write: the power events and IRQSTAT. -/
structure OffEvents (a hi : Nat) : Prop where
  power : a + 4 * (hi / 32 + 1) ≤ dcs SP 0x200010 ∨ dcs SP 0x200014 ≤ a
  irq : a + 4 * (hi / 32 + 1) ≤ dcs APL 0x100 ∨ dcs APL 0x104 ≤ a

/-- An event under a condition. -/
def eventIf (c : Bool) (b : Nat) (s : State) : State := if c then powerEvent s b else s

theorem governorEvents_eq (s : State) (m : Sensors) (v : Verdict) (peakOut avgOver : Bool) : governorEvents s m v peakOut avgOver =
    eventIf avgOver 3 (eventIf peakOut 2 (eventIf v.isHot 1 (eventIf (decide (760 ≤ m.tLogic ∨ 640 ≤ m.tDram)) 0 s))) := by
  simp only [governorEvents, eventIf]

theorem gov_eventIf (c : Bool) (b : Nat) (s : State) : (eventIf c b s).gov = s.gov := by
  unfold eventIf
  split
  · rw [powerEvent_frame]
  · rfl

theorem regBits_eventIf {a hi : Nat} (h : OffEvents a hi) (c : Bool) {b : Nat} (hb : b < 32) (lo : Nat) (s : State) :
    regBits (eventIf c b s) a hi lo = regBits s a hi lo := by
  unfold eventIf
  split
  · exact regBits_powerEvent hb h.power h.irq
  · rfl

theorem governorEvents_keeps (s : State) (m : Sensors) (v : Verdict) (peakOut avgOver : Bool) :
    (governorEvents s m v peakOut avgOver).gov = s.gov ∧ ∀ a hi, OffEvents a hi → ∀ lo,
      regBits (governorEvents s m v peakOut avgOver) a hi lo = regBits s a hi lo := by
  rw [governorEvents_eq]
  refine ⟨by simp only [gov_eventIf], fun a hi h lo => ?_⟩
  rw [regBits_eventIf h _ (by decide), regBits_eventIf h _ (by decide), regBits_eventIf h _ (by decide), regBits_eventIf h _ (by decide)]

-- Measurements ---------------------------------------------------------------------------------------------------------

/-- A field of a pair of words that is written whole. -/
theorem regBits_regPutNat_pair (s : State) (a v : Nat) {hi : Nat} (h : hi < 64) (lo : Nat) :
    regBits (regPutNat s a v 2) a hi lo = bitsOf v hi lo := by
  have hpair : regNat (regPutNat s a v 2) a 2 = v % 2 ^ 64 := regNat_regPutNat_same s a v 2
  obtain hlow | hhigh : hi / 32 = 0 ∨ hi / 32 = 1 := by omega
  · have hone : regNat (regPutNat s a v 2) a 1 = v % 2 ^ 32 := by
      have hlt := (regWord (regPutNat s a v 2) a).isLt
      simp only [regNat] at hpair ⊢
      omega
    rw [regBits, hlow, hone, bitsOf_mod _ (by omega)]
  · rw [regBits, hhigh, hpair, bitsOf_mod _ h]

theorem dcs_below (d : Nat) {o p n : Nat} (h : o + n ≤ p) : dcs d o + n ≤ dcs d p := by
  unfold dcs
  omega

/-- The temperatures and their places as PWR_TEMP holds them. -/
def temperatures (m : Sensors) : Nat := ofSigned 16 m.tLogic + m.logicDie <<< 16 + (ofSigned 16 m.tDram) <<< 24 + m.dramTile <<< 40

/-- Three pairs of words are written. -/
def measured (s : State) (p t v : Nat) : State :=
  regPutNat (regPutNat (regPutNat s (dcs SP 0x200018) p 2) (dcs SP 0x200020) t 2) (dcs SP 0x200030) v 2

theorem recordMeasures_eq (s : State) (m : Sensors) (a : Nat) :
    recordMeasures s m a = measured s (m.power + (a / 5007) <<< 32) (temperatures m) (m.volt + m.amp <<< 32) := by
  unfold recordMeasures measured temperatures
  dsimp only

theorem measured_gov (s : State) (p t v : Nat) : (measured s p t v).gov = s.gov := by
  simp only [measured, regPutNat_gov]

theorem measured_status (s : State) (p t v : Nat) {hi : Nat} (hhi : hi < 32) (lo : Nat) :
    regBits (measured s p t v) (dcs SP 0x200008) hi lo = regBits s (dcs SP 0x200008) hi lo := by
  have hne (u : State) (o x : Nat) (ho : 0x20000C ≤ o) : regBits (regPutNat u (dcs SP o) x 2) (dcs SP 0x200008) hi lo = regBits u (dcs SP 0x200008) hi lo := by
    simp only [regBits, Nat.div_eq_of_lt hhi]
    rw [regNat_regPutNat_ne _ (.inl (dcs_below SP ho))]
  unfold measured
  rw [hne _ 0x200030 _ (by norm_num), hne _ 0x200020 _ (by norm_num), hne _ 0x200018 _ (by norm_num)]

theorem measured_holds (s : State) (p t v : Nat) : regBits (measured s p t v) (dcs SP 0x200018) 31 0 = p % 2 ^ 32 ∧
    regBits (measured s p t v) (dcs SP 0x200030) 31 0 = v % 2 ^ 32 ∧ regBits (measured s p t v) (dcs SP 0x200030) 63 32 = v / 2 ^ 32 % 2 ^ 32 := by
  have hne (u : State) (o x : Nat) (ho : 0x200020 ≤ o) : regBits (regPutNat u (dcs SP o) x 2) (dcs SP 0x200018) 31 0 = regBits u (dcs SP 0x200018) 31 0 := by
    have h : 31 / 32 + 1 = 1 := rfl
    simp only [regBits, h]
    rw [regNat_regPutNat_ne _ (.inl (dcs_below SP ((show 0x200018 + 4 * 1 ≤ 0x200020 by norm_num).trans ho)))]
  unfold measured
  refine ⟨?_, ?_, ?_⟩
  · rw [hne _ 0x200030 _ (by norm_num), hne _ 0x200020 _ (by norm_num), regBits_regPutNat_pair _ _ _ (by decide)]
    rfl
  · rw [regBits_regPutNat_pair _ _ _ (by decide)]
    rfl
  · rw [regBits_regPutNat_pair _ _ _ (by decide), bitsOf, Nat.shiftRight_eq_div_pow]

theorem two_words {x y : Nat} (hx : x < 2 ^ 32) : (x + y <<< 32) % 2 ^ 32 = x ∧ (x + y <<< 32) / 2 ^ 32 = y := by
  rw [Nat.shiftLeft_eq]
  omega

theorem recordMeasures_gov (s : State) (m : Sensors) (a : Nat) : (recordMeasures s m a).gov = s.gov := by
  rw [recordMeasures_eq, measured_gov]

theorem recordMeasures_status (s : State) (m : Sensors) (a : Nat) {hi : Nat} (hhi : hi < 32) (lo : Nat) :
    regBits (recordMeasures s m a) (dcs SP 0x200008) hi lo = regBits s (dcs SP 0x200008) hi lo := by
  rw [recordMeasures_eq, measured_status _ _ _ _ hhi]

theorem recordMeasures_records (s : State) {m : Sensors} (a : Nat) (hp : m.power < 2 ^ 32) (hv : m.volt < 2 ^ 32) (ha : m.amp < 2 ^ 32) :
    regBits (recordMeasures s m a) (dcs SP 0x200018) 31 0 = m.power ∧ regBits (recordMeasures s m a) (dcs SP 0x200030) 31 0 = m.volt ∧
      regBits (recordMeasures s m a) (dcs SP 0x200030) 63 32 = m.amp := by
  obtain ⟨hpower, hvolt, hamp⟩ := measured_holds s (m.power + (a / 5007) <<< 32) (temperatures m) (m.volt + m.amp <<< 32)
  rw [recordMeasures_eq]
  exact ⟨hpower.trans (two_words hp).1, hvolt.trans (two_words hv).1, by rw [hamp, (two_words hv).2, Nat.mod_eq_of_lt ha]⟩

-- The period -----------------------------------------------------------------------------------------------------------

/-- The hold duty and the status bits of a period (16 R418). -/
def statusSet (s : State) (d b : Nat) (v : Verdict) : State :=
  let w := dcs SP 0x200008
  let s := regSetBits (regSetBits s w 10 4 d) w 12 12 (if 1987 ≤ b then 1 else 0)
  let s := regSetBits (regSetBits s w 13 13 (if v.isOver then 1 else 0)) w 14 14 (if v.isHot then 1 else 0)
  regSetBits s w 27 16 (1987 - b)

theorem statusSet_gov (s : State) (d b : Nat) (v : Verdict) : (statusSet s d b v).gov = s.gov := by
  unfold statusSet
  dsimp only
  simp only [regSetBits_gov]

theorem statusSet_status (s : State) (d b : Nat) (v : Verdict) : 
    regBits (statusSet s d b v) (dcs SP 0x200008) 10 4 = d % 2 ^ 7 ∧
    regBits (statusSet s d b v) (dcs SP 0x200008) 12 12 = (if 1987 ≤ b then 1 else 0) ∧
    regBits (statusSet s d b v) (dcs SP 0x200008) 13 13 = (if v.isOver then 1 else 0) ∧
    regBits (statusSet s d b v) (dcs SP 0x200008) 14 14 = (if v.isHot then 1 else 0) := by
  have hflag (c : Prop) [Decidable c] : (if c then 1 else 0) % 2 ^ 1 = if c then 1 else 0 := by split <;> rfl
  unfold statusSet
  dsimp only
  refine ⟨?_, ?_, ?_, ?_⟩
  · rw [regBits_regSetBits_field _ _ _ (.inl (by decide)), regBits_regSetBits_field _ _ _ (.inl (by decide)),
      regBits_regSetBits_field _ _ _ (.inl (by decide)), regBits_regSetBits_field _ _ _ (.inl (by decide)), regBits_regSetBits_same]
  · rw [regBits_regSetBits_field _ _ _ (.inl (by decide)), regBits_regSetBits_field _ _ _ (.inl (by decide)),
      regBits_regSetBits_field _ _ _ (.inl (by decide)), regBits_regSetBits_same, hflag]
  · rw [regBits_regSetBits_field _ _ _ (.inl (by decide)), regBits_regSetBits_field _ _ _ (.inl (by decide)), regBits_regSetBits_same, hflag]
  · rw [regBits_regSetBits_field _ _ _ (.inl (by decide)), regBits_regSetBits_same, hflag]

/-- What a period's verdict is reached from: its history, the sum and the count over it, and the verdict (16 R417, R418). -/
def periodVerdict (p : State) (m : Sensors) : Verdict :=
  let hist := (m.power :: p.gov.hist).take 20028
  verdict (if countB hist (govSustain p) < 1987 then govPeak p else govSustain p) (govSustain p) (govTlim p) m.power
    (sumA hist (p.gov.first.getD m.power)) m.tLogic m.tDram

/-- The governor with the period's measurement in its history. -/
def periodGov (p : State) (m : Sensors) : Governor :=
  countTime95 { p.gov with
    hist := (m.power :: p.gov.hist).take 20028, first := some (p.gov.first.getD m.power)
    underRun := (nextDuty (periodVerdict p m) (govFloor p) (holdDuty p) p.gov.underRun).2 } (decide (760 ≤ m.tLogic))

/-- The registers of the period, before its events. -/
def periodSet (p : State) (m : Sensors) : State :=
  statusSet { p with gov := periodGov p m } (nextDuty (periodVerdict p m) (govFloor p) (holdDuty p) p.gov.underRun).1
    (countB ((m.power :: p.gov.hist).take 20028) (govSustain p)) (periodVerdict p m)

theorem governorPeriod_eq (p : State) (m : Sensors) : ∃ peakOut avgOver, governorPeriod p m =
    governorEvents (recordMeasures (periodSet p m) m (sumA ((m.power :: p.gov.hist).take 20028) (p.gov.first.getD m.power))) m
      (periodVerdict p m) peakOut avgOver := ⟨_, _, rfl⟩

theorem countTime95_keeps (g : Governor) (hot : Bool) : (countTime95 g hot).hist = g.hist ∧ (countTime95 g hot).endAt = g.endAt ∧
    (countTime95 g hot).underRun = g.underRun := by
  unfold countTime95
  split
  · exact ⟨rfl, rfl, rfl⟩
  · split <;> exact ⟨rfl, rfl, rfl⟩

theorem apl_le_soundpost (o : Nat) : dcs APL 0x104 ≤ dcs SP o := by
  unfold dcs APL SP
  omega

/-- What a governor period leaves (16 R417, R418, R421). -/
structure PeriodDone (p : State) (m : Sensors) (t : State) : Prop where
  hist : t.gov.hist = (m.power :: p.gov.hist).take 20028
  endAt : t.gov.endAt = p.gov.endAt
  duty : holdDuty t = (nextDuty (periodVerdict p m) (govFloor p) (holdDuty p) p.gov.underRun).1
  run : t.gov.underRun = (nextDuty (periodVerdict p m) (govFloor p) (holdDuty p) p.gov.underRun).2
  peakOut : regBits t (dcs SP 0x200008) 12 12 = if 1987 ≤ countB ((m.power :: p.gov.hist).take 20028) (govSustain p) then 1 else 0
  isOver : regBits t (dcs SP 0x200008) 13 13 = if (periodVerdict p m).isOver then 1 else 0
  isHot : regBits t (dcs SP 0x200008) 14 14 = if (periodVerdict p m).isHot then 1 else 0
  power : regBits t (dcs SP 0x200018) 31 0 = m.power
  volt : regBits t (dcs SP 0x200030) 31 0 = m.volt
  amp : regBits t (dcs SP 0x200030) 63 32 = m.amp

theorem governorPeriod_done (p : State) {m : Sensors} (hp : m.power < 2 ^ 32) (hv : m.volt < 2 ^ 32) (ha : m.amp < 2 ^ 32) :
    PeriodDone p m (governorPeriod p m) := by
  obtain ⟨peakOut, avgOver, h⟩ := governorPeriod_eq p m
  rw [h]
  obtain ⟨hevents, hkeep⟩ := governorEvents_keeps
    (recordMeasures (periodSet p m) m (sumA ((m.power :: p.gov.hist).take 20028) (p.gov.first.getD m.power))) m (periodVerdict p m) peakOut avgOver
  have hgov := hevents.trans ((recordMeasures_gov ..).trans (statusSet_gov { p with gov := periodGov p m } ..))
  obtain ⟨hhist, hend, hrun⟩ := countTime95_keeps { p.gov with
    hist := (m.power :: p.gov.hist).take 20028, first := some (p.gov.first.getD m.power)
    underRun := (nextDuty (periodVerdict p m) (govFloor p) (holdDuty p) p.gov.underRun).2 } (decide (760 ≤ m.tLogic))
  have hstatus (hi lo : Nat) (hh : hi < 32) := (hkeep (dcs SP 0x200008) hi ⟨.inl (by rw [Nat.div_eq_of_lt hh]; exact dcs_below SP (by norm_num)),
    .inr (apl_le_soundpost _)⟩ lo).trans (recordMeasures_status (periodSet p m) m _ hh lo)
  obtain ⟨hduty, hpeak, hover, hhot⟩ := statusSet_status { p with gov := periodGov p m }
    (nextDuty (periodVerdict p m) (govFloor p) (holdDuty p) p.gov.underRun).1 (countB ((m.power :: p.gov.hist).take 20028) (govSustain p)) (periodVerdict p m)
  obtain ⟨hpower, hvolt, hamp⟩ := recordMeasures_records (periodSet p m)
    (sumA ((m.power :: p.gov.hist).take 20028) (p.gov.first.getD m.power)) hp hv ha
  have hmeasure (o hi lo : Nat) (ho : 0x200014 ≤ o) := hkeep (dcs SP o) hi ⟨.inr (dcs_below (n := 0) SP ho), .inr (apl_le_soundpost _)⟩ lo
  exact { hist := by rw [hgov]; exact hhist, endAt := by rw [hgov]; exact hend, run := by rw [hgov]; exact hrun
          duty := (hstatus 10 4 (by decide)).trans (hduty.trans (Nat.mod_eq_of_lt (nextDuty_lt ..)))
          peakOut := (hstatus 12 12 (by decide)).trans hpeak
          isOver := (hstatus 13 13 (by decide)).trans hover
          isHot := (hstatus 14 14 (by decide)).trans hhot
          power := (hmeasure 0x200018 31 0 (by norm_num)).trans hpower
          volt := (hmeasure 0x200030 31 0 (by norm_num)).trans hvolt
          amp := (hmeasure 0x200030 63 32 (by norm_num)).trans hamp }

theorem governorPeriod_ends {s : State} {m : Sensors} (hw : sensorsOk m = true) (hr : soundpostRuns s = true)
    (hm : (passTo s (periodEnd s)).muted = false) : exec (.governorPeriod m) s =
      .next (governorPeriod { passTo s (periodEnd s) with gov := { (passTo s (periodEnd s)).gov with endAt := some (periodEnd s) } } m) := by
  have hok := of_decide_eq_true hw
  change execGovernorPeriod m s = _
  unfold execGovernorPeriod
  rw [if_neg (by omega), hr]
  exact congrArg _ ((if_neg (by decide)).trans (if_neg (by rw [hm]; decide)))

theorem wearLogWrite_writes {s : State} (hr : soundpostRuns s = true) (hp : pwrState s = 0) : exec .wearLogWrite s = .next (writeWear s) := by
  change execWearLogWrite s = _
  unfold execWearLogWrite
  rw [hr, hp]
  rfl

/-- Settles O20: the fields of the period's registers are disjoint, and its events write others. -/
theorem governorPeriodSetsTheDuty : Obligations.GovernorPeriodSetsTheDuty := by
  refine ⟨fun s m hw hr => ?_, fun _ _ _ _ => nextDuty_bounds, fun s hr hp => ?_⟩
  · intro p hm hist a b v
    have hw : sensorsOk m = true := hw
    have hok := of_decide_eq_true hw
    have hdone := governorPeriod_done { p with gov := { p.gov with endAt := some (periodEnd s) } } (m := m) (by omega) (by omega) (by omega)
    exact ⟨_, governorPeriod_ends hw hr hm, hdone.hist, hdone.endAt, hdone.duty, hdone.run, hdone.peakOut, hdone.isOver, hdone.isHot,
      hdone.power, hdone.volt, hdone.amp⟩
  · exact ⟨_, wearLogWrite_writes hr hp, rfl, rfl, rfl, rfl⟩

end Sys2Proof.Machine
end

section
/-! SUPPORT. The copy channels of the Apeno die (14 R367 to R370). -/
namespace Sys2Proof.Machine
open Sys2Proof.Safety Sys2Proof.Claims

-- The registers of a channel -------------------------------------------------------------------------------------------

theorem copyTail_fields : ∀ ch < 4, ∃ x, findIn regTable .apeno (0x408 + 0x20 * ch) = some x ∧
    (∀ i < 20, (maskOf (fun f => f.acc = .rw) x.2 x.1.fields).getLsbD i = true) ∧ maskOf (fun f => f.acc = .w1c) x.2 x.1.fields = 0#32 := by
  decide +kernel

theorem copyRing_fields : ∀ ch < 4, ∃ x, findIn regTable .apeno (0x400 + 0x20 * ch) = some x ∧
    (∀ i ∈ List.range' 6 26, (maskOf (fun f => f.acc = .rw) x.2 x.1.fields).getLsbD i = true) ∧ maskOf (fun f => f.acc = .w1c) x.2 x.1.fields = 0#32 := by
  decide +kernel

theorem copyRing_high_fields : ∀ ch < 4, ∃ x, findIn regTable .apeno (0x404 + 0x20 * ch) = some x ∧
    (∀ i < 24, (maskOf (fun f => f.acc = .rw) x.2 x.1.fields).getLsbD i = true) ∧ maskOf (fun f => f.acc = .w1c) x.2 x.1.fields = 0#32 := by
  decide +kernel

section
variable {ch : Nat} (hch : ch < 4)
include hch

theorem copyTail_written (s : State) (v : Word) : regBits (regWrite s (bcTail ch) v) (bcTail ch) 19 0 = v.toNat % 2 ^ 20 := by
  obtain ⟨⟨r, w⟩, hx, hrw, hw1⟩ := copyTail_fields ch hch
  have hf : findReg (bcTail ch) = some (r, w) := (findReg_dcs (k := .apeno) rfl (by omega)).trans hx
  refine regBits_regWrite hf (by decide) (fun i hi => hrw i ?_) hw1 s v
  simp only [List.mem_range'_1] at hi
  omega

/-- The ring's address and size bits are those written. -/
theorem copyRing_written (s : State) (v : Nat) {hi lo : Nat} (h : hi = 51 ∧ lo = 6 ∨ hi = 55 ∧ lo = 52) :
    regBits (regWrite (regWrite s (bcRing ch) (BitVec.ofNat 32 v)) (bcRing ch + 4) (BitVec.ofNat 32 (v >>> 32))) (bcRing ch) hi lo = bitsOf v hi lo := by
  obtain ⟨⟨r, w⟩, hx, hrw, hw1⟩ := copyRing_fields ch hch
  obtain ⟨⟨r', w'⟩, hx', hrw', hw1'⟩ := copyRing_high_fields ch hch
  have hf : findReg (bcRing ch) = some (r, w) := (findReg_dcs (k := .apeno) rfl (by omega)).trans hx
  have hf' : findReg (bcRing ch + 4) = some (r', w') := by
    rw [show bcRing ch + 4 = dcs APL (0x404 + 0x20 * ch) by unfold bcRing dcs; omega]
    exact (findReg_dcs (k := .apeno) rfl (by omega)).trans hx'
  have hlow : regBits (regWrite s (bcRing ch) (BitVec.ofNat 32 v)) (bcRing ch) 31 6 = bitsOf (BitVec.ofNat 32 v).toNat 31 6 :=
    regBits_regWrite hf (by decide) (fun i hi => hrw i hi) hw1 ..
  generalize regWrite s (bcRing ch) (BitVec.ofNat 32 v) = u at *
  have hhigh : regBits (regWrite u (bcRing ch + 4) (BitVec.ofNat 32 (v >>> 32))) (bcRing ch + 4) 23 0 = bitsOf (BitVec.ofNat 32 (v >>> 32)).toNat 23 0 :=
    regBits_regWrite hf' (by decide) (fun i hi => hrw' i (by simp only [List.mem_range'_1] at hi; omega)) hw1' ..
  have hkeep : regWord (regWrite u (bcRing ch + 4) (BitVec.ofNat 32 (v >>> 32))) (bcRing ch) = regWord u (bcRing ch) :=
    regWord_regWrite_ne _ _ (by omega)
  generalize regWrite u (bcRing ch + 4) (BitVec.ofNat 32 (v >>> 32)) = t at *
  rw [regBits_word _ _ (by decide), ← hkeep, bitsOf, bitsOf, BitVec.toNat_ofNat, Nat.shiftRight_eq_div_pow, Nat.shiftRight_eq_div_pow] at hlow
  rw [regBits_word _ _ (by decide), bitsOf, bitsOf, BitVec.toNat_ofNat, Nat.shiftRight_eq_div_pow, Nat.shiftRight_eq_div_pow] at hhigh
  have hw := (regWord t (bcRing ch)).isLt
  rcases h with ⟨rfl, rfl⟩ | ⟨rfl, rfl⟩ <;>
  · simp only [regBits, bitsOf, regNat, Nat.shiftRight_eq_div_pow] at *
    omega

end

theorem copyResume_one {ch : Nat} (hch : ch < 4) (s : State) : copyResume s (2 ^ (4 + ch)) = regSetBits s (bcStat ch) 20 20 0 := by
  interval_cases ch <;> rfl

section
variable {s : State} {ch : Nat} (hch : ch < 4) (h : Served s APL)
include hch h

theorem copyDoorbell_sets (v : BitVec 32) : ∃ t, exec (.copyDoorbell ch v) s = .next t ∧ regBits t (bcTail ch) 19 0 = v.toNat % 2 ^ 20 ∧
    t = { s with regs := t.regs, out := s.out ++ [.mmioDone true] } := by
  have hexec : exec (.copyDoorbell ch v) s = .next (emit (regWrite s (bcTail ch) v) (.mmioDone true)) :=
    (if_neg (by omega)).trans (mmioWrite_of h)
  refine ⟨_, hexec, (regBits_congr (emit_regs ..) ..).trans (copyTail_written hch s v), ?_⟩
  rw [regWrite_frame]
  rfl

theorem copyRingWrite_starts (v : BitVec 64) : ∃ t, exec (.copyRingWrite ch v) s = .next t ∧ regBits t (bcRing ch) 51 6 = bitsOf v.toNat 51 6 ∧
    regBits t (bcRing ch) 55 52 = bitsOf v.toNat 55 52 ∧ ringHead t ch = 0 ∧ regBits t (bcTail ch) 19 0 = 0 ∧
    t = { s with regs := t.regs, out := s.out ++ [.mmioDone true] } := by
  have hexec : exec (.copyRingWrite ch v) s = .next (emit (copyRingWrite s ch v.toNat) (.mmioDone true)) :=
    (if_neg (by omega)).trans (mmioWrite_of h)
  have hring {hi lo : Nat} (hh : hi = 51 ∧ lo = 6 ∨ hi = 55 ∧ lo = 52) := copyRing_written hch s v.toNat hh
  have hframe : regWrite (regWrite s (bcRing ch) (BitVec.ofNat 32 v.toNat)) (bcRing ch + 4) (BitVec.ofNat 32 (v.toNat >>> 32)) =
      { s with regs := (regWrite (regWrite s (bcRing ch) (BitVec.ofNat 32 v.toNat)) (bcRing ch + 4) (BitVec.ofNat 32 (v.toNat >>> 32))).regs } := by
    rw [regWrite_frame, regWrite_frame s]
  unfold copyRingWrite at hexec
  generalize regWrite (regWrite s (bcRing ch) (BitVec.ofNat 32 v.toNat)) (bcRing ch + 4) (BitVec.ofNat 32 (v.toNat >>> 32)) = u at *
  have hemit (w : State) (a hi lo : Nat) : regBits (emit w (.mmioDone true)) a hi lo = regBits w a hi lo := regBits_congr (emit_regs ..) ..
  have hkeep {hi : Nat} (lo : Nat) (hh : hi < 64) : regBits (regSetBits (regSetBits u (bcStat ch) 19 0 0) (bcTail ch) 19 0 0) (bcRing ch) hi lo =
      regBits u (bcRing ch) hi lo := by
    have hdiv : hi / 32 ≤ 1 := by omega
    rw [regBits_regSetBits_ne _ _ (.inl (by unfold bcTail bcRing dcs; omega)), regBits_regSetBits_ne _ _ (.inl (by unfold bcStat bcRing dcs; omega))]
  refine ⟨_, hexec, ?_, ?_, ?_, ?_, ?_⟩
  · rw [hemit, hkeep _ (by decide), hring (.inl ⟨rfl, rfl⟩)]
  · rw [hemit, hkeep _ (by decide), hring (.inr ⟨rfl, rfl⟩)]
  · rw [ringHead, hemit, regBits_regSetBits_ne _ _ (.inr (by unfold bcTail bcStat dcs; omega)), regBits_regSetBits_same]
    rfl
  · rw [hemit, regBits_regSetBits_same]
    rfl
  · rw [regSetBits_frame, regSetBits_frame u, hframe]
    rfl

theorem copyResume_resumes : ∃ t, exec (.copyResume ch) s = .next t ∧ regBits t (bcStat ch) 20 20 = 0 ∧
    t = { s with regs := t.regs, out := s.out ++ [.mmioDone true] } := by
  have hexec : exec (.copyResume ch) s = .next (emit (copyResume s (2 ^ (4 + ch))) (.mmioDone true)) :=
    (if_neg (by omega)).trans (mmioWrite_of h)
  rw [copyResume_one hch] at hexec
  refine ⟨_, hexec, (regBits_congr (emit_regs ..) ..).trans (regBits_regSetBits_same ..), ?_⟩
  rw [regSetBits_frame]
  rfl

end

-- The end of a descriptor ----------------------------------------------------------------------------------------------

/-- The words of the copy channels are as they were, and no descriptor has ended or begun. -/
structure KeepsChannels (s t : State) : Prop where
  words : ∀ b, dcs APL 0x104 ≤ b → b < dcs SP 0 → regWord t b = regWord s b
  copy : t.copy = s.copy

namespace KeepsChannels
variable {s t u : State}

theorem refl (s : State) : KeepsChannels s s := ⟨fun _ _ _ => rfl, rfl⟩
theorem trans (h : KeepsChannels s t) (h' : KeepsChannels t u) : KeepsChannels s u :=
  ⟨fun b hb hb' => (h'.words b hb hb').trans (h.words b hb hb'), h'.copy.trans h.copy⟩
theorem of_frame (hr : t.regs = s.regs) (hc : t.copy = s.copy) : KeepsChannels s t := ⟨fun b _ _ => regWord_congr hr b, hc⟩
theorem foldl {α : Type} {f : State → α → State} (h : ∀ a x, KeepsChannels a (f a x)) (l : List α) (s : State) : KeepsChannels s (l.foldl f s) :=
  List.foldlRecOn l f (refl s) fun b hb a _ => hb.trans (h b a)

theorem bits (h : KeepsChannels s t) {ch o hi : Nat} (hch : ch < 4) (ho : 0x400 ≤ o) (ho' : o ≤ 0x410) (hh : hi < 64) (lo : Nat) :
    regBits t (dcs APL (o + 0x20 * ch)) hi lo = regBits s (dcs APL (o + 0x20 * ch)) hi lo := by
  have hwords (i : Nat) (hi' : i < hi / 32 + 1) : regWord t (dcs APL (o + 0x20 * ch) + 4 * i) = regWord s (dcs APL (o + 0x20 * ch) + 4 * i) := by
    refine h.words _ ?_ ?_ <;> unfold dcs APL
    · omega
    · unfold SP
      omega
  rw [regBits, regBits, regNat_congr _ _ hwords]

theorem head (h : KeepsChannels s t) {ch : Nat} (hch : ch < 4) : ringHead t ch = ringHead s ch := h.bits hch (by decide) (by decide) (by decide) _
theorem size (h : KeepsChannels s t) {ch : Nat} (hch : ch < 4) : ringSize t ch = ringSize s ch := by
  rw [ringSize, ringSize, bcRing, h.bits hch (by decide) (by decide) (by decide)]

theorem raiseIrq (s : State) {b : Nat} (hb : b < 32) : KeepsChannels s (raiseIrq s b) := by
  have hset : KeepsChannels s (regSetBits s (dcs APL 0x100) b b 1) := by
    refine ⟨fun x hx _ => regWord_regSetBits_ne _ _ _ hb ?_, by rw [regSetBits_frame]⟩
    unfold dcs at *
    omega
  unfold Machine.raiseIrq
  dsimp only
  split
  · exact refl s
  · split
    · exact hset
    · exact hset.trans (of_frame rfl rfl)

end KeepsChannels

/-- Outputs, copies and registers are all that has changed, and no output has gone. -/
structure Reports (s t : State) : Prop where
  rest : t = { s with copy := t.copy, regs := t.regs, out := t.out }
  out : ∀ o ∈ s.out, o ∈ t.out

theorem Reports.refl (s : State) : Reports s s := ⟨rfl, fun _ h => h⟩
theorem Reports.trans {s t u : State} (h : Reports s t) (h' : Reports t u) : Reports s u :=
  ⟨by rw [h'.rest, h.rest], fun o ho => h'.out o (h.out o ho)⟩
theorem Reports.regSetBits (s : State) (a hi lo x : Nat) : Reports s (regSetBits s a hi lo x) := by
  rw [regSetBits_frame]
  exact ⟨rfl, fun _ h => h⟩
theorem Reports.raiseIrq (s : State) (b : Nat) : Reports s (raiseIrq s b) := by
  obtain ⟨o, h, -⟩ := raiseIrq_eq s b
  rw [h]
  exact ⟨rfl, fun _ h => List.mem_append_left _ h⟩

theorem inProgress_congr {s t : State} (h : t.copy = s.copy) (ch : Nat) : inProgress t ch = inProgress s ch := by rw [inProgress, inProgress, h]

theorem inProgress_set (s : State) (ch : Nat) (d : Option (List Byte)) : inProgress (setInProgress s ch d) ch = d := smGet_smSet_same ..

/-- Descriptor `x` of channel `ch` has ended since `s`. -/
structure EndsDesc (s t : State) (ch : Nat) (x : Desc) (status : Nat) : Prop extends Reports s t where
  ended : endedWith s t ch x status

theorem descEnd_ends (s : State) (ch : Nat) (x : Desc) (status : Nat) : EndsDesc s (descEnd s ch x status) ch x status := by
  have hlt : (ringHead s ch + 1) % ringSize s ch < 2 ^ 20 := by
    have hsize : ringSize s ch ≤ 2 ^ 19 := Nat.pow_le_pow_right (by decide) (by omega)
    have hpos : 0 < ringSize s ch := Nat.two_pow_pos _
    have := Nat.mod_lt (ringHead s ch + 1) hpos
    omega
  refine ⟨?_, ?_, ?_, ?_⟩
  · refine Reports.trans ?_ (Reports.regSetBits ..)
    exact ⟨rfl, fun _ h => List.mem_append_left _ h⟩
  · unfold descEnd
    dsimp only
    rw [regSetBits_frame]
    exact List.mem_append_right _ List.mem_cons_self
  · exact (regBits_regSetBits_same ..).trans (Nat.mod_eq_of_lt hlt)
  · exact (inProgress_congr (by rw [descEnd, regSetBits_frame]; rfl) ch).trans (inProgress_set s ch none)

section
variable {s t : State} {ch : Nat} (hch : ch < 4)
include hch

theorem EndsDesc.keeps {x : Desc} {status : Nat} {u : State} (h : EndsDesc s t ch x status) (hr : Reports t u) (hk : KeepsChannels t u) :
    EndsDesc s u ch x status := by
  obtain ⟨hstatus, hhead, hgone⟩ := h.ended
  exact ⟨h.toReports.trans hr, hr.out _ hstatus, (hk.head hch).trans hhead, (inProgress_congr hk.copy ch).trans hgone⟩

theorem descDone_ends (s : State) (x : Desc) (status : Nat) : EndsDesc s (descDone s ch x status) ch x status := by
  have h := descEnd_ends s ch x status
  unfold descDone
  dsimp only
  split
  · exact h.keeps hch (Reports.raiseIrq ..) (KeepsChannels.raiseIrq _ (by omega))
  · exact h

/-- What ends after the copy ends for the state before it. -/
theorem EndsDesc.since {x : Desc} {status : Nat} {u : State} (h : EndsDesc u t ch x status) (hk : KeepsChannels s u) : endedWith s t ch x status := by
  obtain ⟨hstatus, hhead, hgone⟩ := h.ended
  exact ⟨hstatus, by rw [hhead, hk.head hch, hk.size hch], hgone⟩

theorem haltChannel_halts (s : State) : Reports s (haltChannel s ch) ∧ regBits (haltChannel s ch) (bcStat ch) 20 20 = 1 ∧
    regBits (haltChannel s ch) (dcs APL 0x100) (16 + ch) (16 + ch) = 1 ∧ ringHead (haltChannel s ch) ch = ringHead s ch ∧
    (haltChannel s ch).copy = s.copy := by
  have hk := KeepsChannels.raiseIrq (regSetBits s (bcStat ch) 20 20 1) (b := 16 + ch) (by omega)
  refine ⟨(Reports.regSetBits ..).trans (Reports.raiseIrq ..), ?_, regBits_raiseIrq_same _ (by omega), ?_, ?_⟩
  · exact (hk.bits hch (by decide) (by decide) (by decide) _).trans (regBits_regSetBits_same ..)
  · exact (hk.head hch).trans (regBits_regSetBits_field _ _ _ (.inl (by decide)))
  · exact hk.copy.trans (by rw [regSetBits_frame])

theorem hostErr_ends (s : State) (x : Desc) (status : Nat) : EndsDesc s (haltChannel (descEnd s ch x status) ch) ch x status ∧
    regBits (haltChannel (descEnd s ch x status) ch) (bcStat ch) 20 20 = 1 := by
  obtain ⟨hr, hhalt, -, hhead, hcopy⟩ := haltChannel_halts hch (descEnd s ch x status)
  obtain ⟨hreports, hstatus, hend, hgone⟩ := descEnd_ends s ch x status
  exact ⟨⟨hreports.trans hr, hr.out _ hstatus, hhead.trans hend, (inProgress_congr hcopy ch).trans hgone⟩, hhalt⟩

end

-- A descriptor taken ---------------------------------------------------------------------------------------------------

/-- Outputs and recalls are all that has changed, and no output has gone. -/
structure Sends (s t : State) : Prop where
  rest : t = { s with out := t.out, recalls := t.recalls }
  out : ∀ o ∈ s.out, o ∈ t.out

namespace Sends
variable {s t u : State}

theorem refl (s : State) : Sends s s := ⟨rfl, fun _ h => h⟩
theorem trans (h : Sends s t) (h' : Sends t u) : Sends s u := ⟨by rw [h'.rest, h.rest], fun o ho => h'.out o (h.out o ho)⟩
theorem foldl {α : Type} {f : State → α → State} (h : ∀ a x, Sends a (f a x)) (l : List α) (s : State) : Sends s (l.foldl f s) :=
  List.foldlRecOn l f (refl s) fun b hb a _ => hb.trans (h b a)
theorem ite {c : Prop} [Decidable c] (h : Sends s t) (h' : Sends s u) : Sends s (if c then t else u) := by
  split
  · exact h
  · exact h'
theorem emit (s : State) (o : Output) : Sends s (emit s o) := ⟨rfl, fun _ h => List.mem_append_left _ h⟩
theorem sendBinv (s : State) (line : Nat) : Sends s (sendBinv s line) := .ite (refl s) ⟨rfl, fun _ h => List.mem_append_left _ h⟩
theorem writeTouch (s : State) (line : Nat) : Sends s (writeTouch s line) := by
  unfold Machine.writeTouch
  split
  · exact .ite (refl s) (sendBinv ..)
  · exact refl s
theorem bulkRead (s : State) (a n : Nat) : Sends s (bulkRead s a n) := foldl (fun _ _ => emit ..) _ s
theorem bulkWrite (s : State) (a : Nat) (bs : List Byte) : Sends s (bulkWrite s a bs) := foldl (fun _ _ => emit ..) _ s
theorem descRecall (s : State) (x : Desc) : Sends s (descRecall s x) := foldl (fun _ _ => sendBinv ..) _ s

theorem channels (h : Sends s t) : KeepsChannels s t := .of_frame (by rw [h.rest]) (by rw [h.rest])
theorem cores (h : Sends s t) : t.cores = s.cores := by rw [h.rest]
theorem dram (h : Sends s t) : t.dram = s.dram := by rw [h.rest]

end Sends

/-- A descriptor carried out, of which the first reads have gone. -/
def startDesc (s : State) (ch : Nat) (bs : List Byte) : State :=
  let s := setInProgress s ch (some bs)
  descRecall (if (descOf bs).dir = 0 then bulkRead s (descOf bs).haddr (descOf bs).len else s) (descOf bs)

theorem startDesc_sends (s : State) (ch : Nat) (bs : List Byte) : Sends (setInProgress s ch (some bs)) (startDesc s ch bs) :=
  (Sends.ite (Sends.bulkRead ..) (.refl _)).trans (.descRecall ..)

/-- The descriptor at HEAD has been read. -/
def descFetched (s : State) (ch : Nat) : State := emit s (.hostRead (ringAt s ch) 32)

theorem takeDesc_some (s : State) (ch : Nat) (d : List Byte) : takeDesc s ch (some d) =
    if descRange (descOf (d ++ bytesLE 8 (ringAt s ch))) then descDone (descFetched s ch) ch (descOf (d ++ bytesLE 8 (ringAt s ch))) 1
    else if descBusy s (descOf (d ++ bytesLE 8 (ringAt s ch))) then descDone (descFetched s ch) ch (descOf (d ++ bytesLE 8 (ringAt s ch))) 2
    else startDesc (descFetched s ch) ch (d ++ bytesLE 8 (ringAt s ch)) := rfl

section
variable {s : State} {ch : Nat} (hch : ch < 4) (hl : s.life = .up) (hr : channelReady s ch = true)
include hch hl hr

theorem copyDescriptor_takes {desc : Option (List Byte)} (hd : desc.any (fun d => d.length ≠ 32) = false) :
    exec (.copyDescriptor ch desc) s = .next (takeDesc s ch desc) := by
  change execCopyDescriptor ch desc s = _
  unfold execCopyDescriptor channelCmd
  rw [hd, if_neg (by decide), if_neg (by omega), if_pos hl, if_pos hr]

theorem copyDescriptor_failed : ∃ t, exec (.copyDescriptor ch none) s = .next t ∧ .hostRead (ringAt s ch) 32 ∈ t.out ∧
    regBits t (bcStat ch) 20 20 = 1 ∧ regBits t (dcs APL 0x100) (16 + ch) (16 + ch) = 1 ∧ ringHead t ch = ringHead s ch := by
  refine ⟨_, copyDescriptor_takes hch hl hr rfl, ?_⟩
  obtain ⟨hreports, hhalt, hirq, hhead, -⟩ := haltChannel_halts hch (descFetched s ch)
  exact ⟨hreports.out _ (List.mem_append_right _ List.mem_cons_self), hhalt, hirq, hhead.trans ((Sends.emit ..).channels.head hch)⟩

theorem copyDescriptor_given (d : List Byte) (hd : d.length = 32) :
    let bs := d ++ bytesLE 8 (ringAt s ch)
    let x := descOf bs
    ∃ t, exec (.copyDescriptor ch (some d)) s = .next t ∧ .hostRead (ringAt s ch) 32 ∈ t.out ∧ t.dram = s.dram ∧
      t.cores = s.cores ∧ (descRange x = true → endedWith s t ch x 1) ∧
      (descRange x = false → descBusy s x = true → endedWith s t ch x 2) ∧
      (descRange x = false → descBusy s x = false → inProgress t ch = some bs ∧ ringHead t ch = ringHead s ch) := by
  intro bs x
  refine ⟨_, copyDescriptor_takes hch hl hr (by simp [hd]), ?_⟩
  rw [takeDesc_some]
  have hread : Output.hostRead (ringAt s ch) 32 ∈ (descFetched s ch).out := List.mem_append_right _ List.mem_cons_self
  have hk : KeepsChannels s (descFetched s ch) := (Sends.emit ..).channels
  have hdone (status : Nat) := descDone_ends hch (descFetched s ch) x status
  by_cases hrange : descRange x = true
  · rw [if_pos hrange]
    have hend := hdone 1
    exact ⟨hend.out _ hread, by rw [hend.rest]; rfl, by rw [hend.rest]; rfl, fun _ => hend.since hch hk, fun h => absurd hrange (by rw [h]; decide),
      fun h => absurd hrange (by rw [h]; decide)⟩
  · rw [if_neg hrange]
    by_cases hbusy : descBusy s x = true
    · rw [if_pos hbusy]
      have hend := hdone 2
      exact ⟨hend.out _ hread, by rw [hend.rest]; rfl, by rw [hend.rest]; rfl, fun h => absurd h hrange, fun _ _ => hend.since hch hk,
        fun _ h => absurd hbusy (by rw [h]; decide)⟩
    · rw [if_neg hbusy]
      have hsends := startDesc_sends (descFetched s ch) ch bs
      refine ⟨hsends.out _ hread, hsends.dram, hsends.cores, fun h => absurd h hrange, fun _ h => absurd h hbusy, fun _ _ => ⟨?_, ?_⟩⟩
      · rw [inProgress_congr hsends.channels.copy]
        exact inProgress_set ..
      · have hset : ringHead (setInProgress (descFetched s ch) ch (some bs)) ch = ringHead s ch := regBits_congr rfl ..
        exact (hsends.channels.head hch).trans hset

end

-- A descriptor done ----------------------------------------------------------------------------------------------------

theorem descWrite_sliver {s : State} {x : Desc} (h : descSpace x = 0) (data : List Byte) :
    Sends { s with dram := memWrite s.dram (bitsOf x.maddr 42 0) data } (descWrite s x data) := by
  unfold descWrite
  rw [h]
  exact .foldl (fun _ _ => .writeTouch ..) _ _

theorem descWrite_localStore {s : State} {x : Desc} (h : descSpace x = 1) (data : List Byte) :
    descWrite s x data = modCore s (descCore x) fun k => { k with ls := memWrite k.ls (descOff x) data } := by
  unfold descWrite
  rw [h]
  rfl

theorem descWrite_instructionStore {s : State} {x : Desc} (h : descSpace x = 2) (data : List Byte) :
    descWrite s x data = modCore s (descCore x) fun k => { k with is := memWrite k.is (descOff x) data } := by
  unfold descWrite
  rw [h]
  rfl

theorem tile_below_apl {die o : Nat} (hd : die < 64) (ho : o + 8 ≤ 2 ^ 24) : dcs die o + 8 ≤ dcs APL 0x104 := by
  unfold dcs APL
  omega

theorem KeepsChannels.recordDie (s : State) {die : Nat} (hd : die < 64) (code cls detail : Nat) : KeepsChannels s (recordAs s die code cls detail) := by
  refine ⟨fun b hb hb' => regWord_recordAs s code cls detail (.inr ?_) ?_, by rw [recordAs_records]⟩
  · rw [recordAddr, if_pos hd]
    exact (tile_below_apl hd (by decide)).trans hb
  · exact hb'.trans_le (Nat.add_le_add_left (Nat.zero_le 0x2F00) _)

theorem KeepsChannels.errCount (s : State) {die n : Nat} (hd : die < 64) (hn : n < 8) : KeepsChannels s (errCount s die n) := by
  have hcount : KeepsChannels s (regCount s (dcs die (0x10200 + 8 * n)) 1) := by
    refine ⟨fun b hb _ => regWord_regPutNat_out _ _ _ _ _ (.inr ?_), by rw [regCount, regPutNat_frame]⟩
    exact (tile_below_apl hd (by omega)).trans hb
  unfold Machine.errCount
  dsimp only
  split
  · refine hcount.trans ?_
    unfold voidUe
    split
    · exact .refl _
    · refine ⟨fun b _ hb => regWord_regSetBits_ne _ _ _ (by decide) ?_, by rw [regSetBits_frame]⟩
      unfold dcs at *
      omega
  · exact hcount

/-- A check of the bytes read changes records and counts of the sliver's tile (17 R444). -/
structure Checks (s t : State) : Prop where
  records : RecordsOnly s t
  channels : KeepsChannels s t

namespace Checks
variable {s t u : State}

theorem refl (s : State) : Checks s s := ⟨.refl s, .refl s⟩
theorem trans (h : Checks s t) (h' : Checks t u) : Checks s u := ⟨h.records.trans h'.records, h.channels.trans h'.channels⟩

theorem dramCheck (s : State) {a : Nat} (h : a / 2 ^ 37 < 64) (n : Nat) : Checks s (dramCheck s a n).1 := by
  unfold Machine.dramCheck
  split
  · exact refl s
  · refine List.foldlRecOn _ _ (refl s) fun b hb m _ => hb.trans ⟨errCount_records .., .errCount _ h ?_⟩
    split <;> decide

theorem bulkCheck (s : State) (x : Desc) (n : Nat) : Checks s (bulkCheck s x n) := by
  have hdie : bitsOf x.maddr 42 0 / 2 ^ 37 < 64 := by
    simp only [bitsOf]
    omega
  have hcheck := dramCheck s hdie n
  unfold Machine.bulkCheck
  split
  · exact refl s
  · dsimp only
    split
    · exact hcheck.trans ⟨recordAs_records .., .recordDie _ hdie ..⟩
    · exact hcheck

end Checks

theorem descRead_length (s : State) (x : Desc) (n : Nat) : (descRead s x n).length = n := by
  unfold descRead
  split <;> exact memRead_length ..

theorem foldl_emit_mem {α : Type} (f : α → Output) {l : List α} {p : α} (hp : p ∈ l) (s : State) :
    f p ∈ (l.foldl (fun s p => emit s (f p)) s).out := by
  induction l generalizing s with
  | nil => exact absurd hp List.not_mem_nil
  | cons q l ih =>
    rcases List.mem_cons.mp hp with rfl | hp
    · exact (Sends.foldl (fun s p => .emit s (f p)) l (emit s (f p))).out _ (List.mem_append_right _ List.mem_cons_self)
    · exact ih hp _

theorem bulkWrite_writes (s : State) (a : Nat) (bs : List Byte) {i : Nat} (h : 512 * i < bs.length) :
    .hostWrite (a + 512 * i) ((bs.drop (512 * i)).take (min 512 (bs.length - 512 * i))) ∈ (bulkWrite s a bs).out := by
  have hspan : (a + 512 * i, min 512 (bs.length - 512 * i)) ∈ bulkSpans a bs.length := by
    refine List.mem_map.mpr ⟨i, List.mem_range.mpr ?_, rfl⟩
    unfold ceilDiv
    omega
  have hmem := foldl_emit_mem (fun p : Nat × Nat => Output.hostWrite p.1 ((bs.drop (p.1 - a)).take p.2)) hspan s
  rw [Nat.add_sub_cancel_left] at hmem
  exact hmem

section
variable {s : State} {ch : Nat} {bs : List Byte} (h : Copying s ch bs)
include h

theorem copying_runs : soundpostRuns s = true := by simp [soundpostRuns, h.up, h.awake]

theorem copyDone_takes {data : List Byte} (hlen : data.length = if (descOf bs).dir = 0 then (descOf bs).len else 0) :
    exec (.copyDescriptorDone ch data) s = .next (if (descOf bs).dir = 0 then descDone (descWrite s (descOf bs) data) ch (descOf bs) 0
      else descDone (bulkWrite (bulkCheck s (descOf bs) (descOf bs).len) (descOf bs).haddr (descRead s (descOf bs) (descOf bs).len)) ch (descOf bs) 0) := by
  have hch := h.channel
  change execCopyDescriptorDone ch data s = _
  unfold execCopyDescriptorDone channelCmd
  rw [if_neg (by omega), if_pos h.up, h.held]
  dsimp only
  rw [if_neg (by rw [copying_runs h, h.between]; decide), if_neg (by rw [h.free]; decide), if_neg (by rw [h.power]; decide), if_neg (not_not.mpr hlen)]
  split <;> rfl

theorem copyDone_sliver {data : List Byte} (hd : (descOf bs).dir = 0) (hlen : data.length = (descOf bs).len) (hs : descSpace (descOf bs) = 0) :
    ∃ t, exec (.copyDescriptorDone ch data) s = .next t ∧ endedWith s t ch (descOf bs) 0 ∧
      memRead t.dram (bitsOf (descOf bs).maddr 42 0) (descOf bs).len = data ∧ t.cores = s.cores ∧
      ∀ y, y < bitsOf (descOf bs).maddr 42 0 ∨ bitsOf (descOf bs).maddr 42 0 + (descOf bs).len ≤ y → memByte t.dram y = memByte s.dram y := by
  have hexec := copyDone_takes h (data := data) (by rw [hlen, if_pos hd])
  rw [if_pos hd] at hexec
  have hset : KeepsChannels s { s with dram := memWrite s.dram (bitsOf (descOf bs).maddr 42 0) data } := ⟨fun _ _ _ => rfl, rfl⟩
  have hsends := descWrite_sliver (s := s) hs data
  have hend := descDone_ends h.channel (descWrite s (descOf bs) data) (descOf bs) 0
  have hdram : (descDone (descWrite s (descOf bs) data) ch (descOf bs) 0).dram = memWrite s.dram (bitsOf (descOf bs).maddr 42 0) data := by
    rw [hend.rest]
    exact hsends.dram
  refine ⟨_, hexec, hend.since h.channel (hset.trans hsends.channels), ?_, ?_, fun y hy => ?_⟩
  · rw [hdram, ← hlen, memRead_memWrite_same]
  · rw [hend.rest]
    exact hsends.cores
  · rw [hdram, memByte_memWrite_out _ _ _ _ (by rw [hlen]; exact hy)]

/-- A write to a core's store changes that core. -/
theorem copyDone_core {data : List Byte} {f : Core → Core} (hd : (descOf bs).dir = 0) (hlen : data.length = (descOf bs).len)
    (hs : descWrite s (descOf bs) data = modCore s (descCore (descOf bs)) f) :
    ∃ t, exec (.copyDescriptorDone ch data) s = .next t ∧ endedWith s t ch (descOf bs) 0 ∧ t.dram = s.dram ∧
      coreOf t (descCore (descOf bs)) = f (coreOf s (descCore (descOf bs))) ∧
      ∀ c, c ≠ descCore (descOf bs) → coreOf t c = coreOf s c := by
  have hexec := copyDone_takes h (data := data) (by rw [hlen, if_pos hd])
  rw [if_pos hd, hs] at hexec
  have hend := descDone_ends h.channel (modCore s (descCore (descOf bs)) f) (descOf bs) 0
  have hcore (c : Nat) : coreOf (descDone (modCore s (descCore (descOf bs)) f) ch (descOf bs) 0) c = coreOf (modCore s (descCore (descOf bs)) f) c :=
    coreOf_congr (by rw [hend.rest]) c
  exact ⟨_, hexec, hend.since h.channel (.of_frame rfl rfl), by rw [hend.rest]; rfl, by rw [hcore, core_modCore_same],
    fun c hc => by rw [hcore, core_modCore_ne _ _ hc]⟩

theorem copyDone_toHost (hd : (descOf bs).dir = 1) :
    ∃ t, exec (.copyDescriptorDone ch []) s = .next t ∧ endedWith s t ch (descOf bs) 0 ∧ t.dram = s.dram ∧ t.cores = s.cores ∧
      ∀ i, 512 * i < (descOf bs).len → .hostWrite ((descOf bs).haddr + 512 * i)
        (((descRead s (descOf bs) (descOf bs).len).drop (512 * i)).take (min 512 ((descOf bs).len - 512 * i))) ∈ t.out := by
  have hexec := copyDone_takes h (data := []) (by rw [hd]; rfl)
  rw [hd, if_neg (by decide)] at hexec
  have hcheck := Checks.bulkCheck s (descOf bs) (descOf bs).len
  have hsends := Sends.bulkWrite (bulkCheck s (descOf bs) (descOf bs).len) (descOf bs).haddr (descRead s (descOf bs) (descOf bs).len)
  have hwrites := fun i => bulkWrite_writes (bulkCheck s (descOf bs) (descOf bs).len) (descOf bs).haddr
    (descRead s (descOf bs) (descOf bs).len) (i := i)
  rw [descRead_length] at hwrites
  generalize bulkWrite (bulkCheck s (descOf bs) (descOf bs).len) (descOf bs).haddr (descRead s (descOf bs) (descOf bs).len) = u at *
  have hend := descDone_ends h.channel u (descOf bs) 0
  refine ⟨_, hexec, hend.since h.channel (hcheck.channels.trans hsends.channels), ?_, ?_, fun i hi => hend.out _ (hwrites i hi)⟩
  · rw [hend.rest]
    exact hsends.dram.trans hcheck.records.dram
  · rw [hend.rest]
    exact hsends.cores.trans (by rw [hcheck.records])

theorem hostErr_halts (hlen : 0 < (descOf bs).len) : ∃ t, exec (.hostErr ch []) s = .next t ∧ endedWith s t ch (descOf bs) 3 ∧
    regBits t (bcStat ch) 20 20 = 1 ∧ t.dram = s.dram ∧ t.cores = s.cores := by
  have hch := h.channel
  have hexec : exec (.hostErr ch []) s = .next (haltChannel (descEnd s ch (descOf bs) 3) ch) := by
    change execHostErr ch [] s = _
    unfold execHostErr channelCmd
    rw [if_neg (by omega), if_pos h.up, h.held]
    dsimp only
    rw [if_neg (by rw [copying_runs h]; exact Bool.false_ne_true), if_neg (show ¬(!List.isEmpty ([] : List Byte) && descWaits s (descOf bs)) = true from Bool.false_ne_true),
      if_neg (show ¬(descOf bs).len ≤ List.length ([] : List Byte) from Nat.not_le.mpr hlen)]
    rfl
  obtain ⟨hend, hhalt⟩ := hostErr_ends hch s (descOf bs) 3
  exact ⟨_, hexec, hend.since hch (.refl s), hhalt, by rw [hend.rest], by rw [hend.rest]⟩

end

/-- Settles O36: a descriptor's end touches its channel's registers, which its transfer and its records leave. -/
theorem copyChannelsComplete : Obligations.CopyChannelsComplete :=
  ⟨fun _ _ hch h => ⟨copyDoorbell_sets hch h, copyRingWrite_starts hch h, copyResume_resumes hch h⟩,
    fun _ _ hch hl hr => ⟨copyDescriptor_failed hch hl hr, copyDescriptor_given hch hl hr⟩,
    fun _ _ _ _ h => ⟨copyDone_sliver h, fun hd hlen hs => copyDone_core h hd hlen (descWrite_localStore hs _),
      fun hd hlen hs => copyDone_core h hd hlen (descWrite_instructionStore hs _), copyDone_toHost h, hostErr_halts h⟩⟩

end Sys2Proof.Machine
end

section
/-! SUPPORT. A direct write of Bridge 64's epoch, which the dies above the Bridges read as theirs (08 R234). -/
namespace Sys2Proof.Machine
open Sys2Proof.Safety Sys2Proof.Claims

/-- The module after reset, with a HOST session open on mailbox 0. -/
def hostState : State := regSetBits State.reset (dcs SP 0x800) 6 5 1

theorem hostState_serves : hostState.life = .up ∧ hostState.muted = false ∧ mmioServed hostState 64 false = true := by decide +kernel

theorem hostState_served : Served hostState 64 := by
  obtain ⟨hl, hm, hs⟩ := hostState_serves
  exact ⟨hl, hm, hs⟩

/-- The epochs of the Apeno die before and after Bridge 64's is written 1. -/
theorem hostState_epochs : epochOf hostState 100 = 0 ∧ epochOf (emit (epochWrite hostState 64 1) (.mmioDone true)) 100 = 1 := by
  decide +kernel

theorem hostState_epochWrite : exec (.epochWrite 64 1) hostState = .next (emit (epochWrite hostState 64 1) (.mmioDone true)) :=
  bridgeWrite_of (i := .epochWrite 64 1) (f := fun s => epochWrite s 64 1) rfl hostState_served

/-- Refutes O37: its clause on EPOCH_WRITE has every die but the Bridge written keep its epoch, but a die above the Bridges, as the Apeno
die (100), reads its epoch from Bridge 64: after reset with a HOST session open, EPOCH_WRITE of 1 to Bridge 64 takes it from 0 to 1. -/
theorem not_controlSpaceAndFabricSettingsComplete : ¬ Obligations.ControlSpaceAndFabricSettingsComplete := by
  intro h
  obtain ⟨-, -, -, -, -, -, -, hepoch, -⟩ := h
  obtain ⟨t, ht, -, -, -, -, -, hothers, -⟩ := hepoch hostState 64 1 rfl hostState_served
  obtain ⟨-, -, -, hkept⟩ := hothers 100 (by decide)
  obtain ⟨hbefore, hafter⟩ := hostState_epochs
  obtain rfl := Host.Outcome.next.inj (hostState_epochWrite.symm.trans ht)
  rw [hafter, hbefore] at hkept
  exact absurd hkept (by decide)

end Sys2Proof.Machine
end
